-- ==== Sys2Proof/Word.lean ====
section
/-! DEFINITION. The word types of the block and their plainest arithmetic: bytes, 32-bit access words (R8), 64-bit
registers (R9), and saturating counters (R12). -/

namespace Sys2Proof

/-- A byte. -/
abbrev Byte := BitVec 8
/-- A 16-bit field. -/
abbrev W16 := BitVec 16
/-- A 32-bit access word (R8). -/
abbrev W32 := BitVec 32
/-- A 64-bit register or message word (R9). -/
abbrev W64 := BitVec 64
/-- A physical cell ID {y[6:0], x[6:0]} (R20), or a logical one. -/
abbrev CellId := BitVec 14
/-- A chip ID {x[4:0], y[3:0], z[3:0]} (R20). -/
abbrev ChipId := BitVec 13

end Sys2Proof
end

