-- ==== Sys2Proof/Syntax.lean ====
section
/-! DEFINITION. The commands of the block, one constructor per row of the opcode table, and the data their operands
carry: bulk packets (R36), rill flits (R273), link frames (R347, R348), CAP payloads (R343). A command is one indivisible
step of one agent; the operands name the unit it happens at and what the outside world supplies with it. -/

namespace Sys2Proof

/-- Who accesses a register: the host over the host register port, the management agent over the management port, or
Zhevber (R505, R506). -/
inductive Agent where
  | host | mgmt | zhevber
deriving DecidableEq, Repr

/-- The three bulk planes, numbered 0, 1, 2 as R56 numbers them. -/
inductive Plane where
  | sched | request | reply
deriving DecidableEq, Repr

/-- The code of a plane (R56). -/
def Plane.code : Plane → Nat
  | .sched => 0
  | .request => 1
  | .reply => 2

/-- What the SECDED decode of one protected word finds (R34, R274, R299): nothing, a single-bit error, which is corrected, or an
uncorrectable error. -/
inductive Ecc where
  | none | single | double
deriving DecidableEq, Repr

/-- The location of a receive queue that a core reads (R156). -/
inductive QueueLoc where
  | metaWord | word (n : Nat) | xtra | status
deriving DecidableEq, Repr

/-- What an access of a core to a descriptor ring's location does (R171, R189): write its producer index, or read its indices. -/
inductive RingAccess where
  | writePi (v : W64) | readCi
deriving DecidableEq, Repr

/-- What an access of a core to a landing's location does (R230, R264): re-arm it, or read its word. -/
inductive LandAccess where
  | rearm | read
deriving DecidableEq, Repr

/-- A core's write on the way to a CMSG (R283, R284): of CQ_RILL_DST, or of CQ_RILL_GO. -/
inductive RillWrite where
  | dst (v : W64) | go (v : W64)
deriving DecidableEq, Repr

/-- The location of the CMSG window that a core reads (R284): the refusal record, the inbox's head with its count, the head's data. -/
inductive RillLoc where
  | res | rx | rxData
deriving DecidableEq, Repr

/-- What a receive lane has seen in LOCK (R336, R342): its half-port and number, the sync headers at its block alignment, and the alignment
marker found, as the block number it came at and its block. -/
structure LaneRx where
  half : Nat
  lane : Nat
  headers : List (BitVec 2)
  marker : Option (Int × BitVec 66)
deriving DecidableEq, Repr

/-- A unit that latches the stillwater snapshot (R480 and the units of R494). -/
inductive SnapUnit where
  | cell (c : Nat) | block (b : Nat) | region (r : Nat) | link (n : Nat) | gateway (g : Nat) | fountaineer
deriving DecidableEq, Repr

/-- A bulk packet: the header fields of R36, the 48 payload bytes, payload byte k in bits [8k + 7 : 8k], and the check bytes of R33, byte
64 + k in bits [8k + 7 : 8k] of `check`. -/
structure Packet where
  type : BitVec 4
  cls : BitVec 2
  epoch : BitVec 1
  cmark : BitVec 1
  echo : BitVec 1
  last : BitVec 1
  logicalForm : BitVec 1
  age : BitVec 7
  dstChip : BitVec 13
  dstCell : BitVec 14
  srcChip : BitVec 13
  srcCell : BitVec 14
  chanTree : BitVec 12
  seq : BitVec 12
  length : BitVec 6
  parterre : BitVec 8
  crc : BitVec 16
  reserved : BitVec 2
  payload : BitVec 384
  check : BitVec 64
deriving DecidableEq, Repr

/-- A rill flit (R273). Its two check bytes are a function of the rest (`Flit.bytes`). -/
structure Flit where
  vc : BitVec 2
  kind : BitVec 5
  seg : BitVec 2
  dst : BitVec 14
  src : BitVec 14
  parterre : BitVec 8
  aux : BitVec 3
  payload : BitVec 64
deriving DecidableEq, Repr

/-- The payload of a CAP frame (R343). -/
structure Cap where
  chipId : BitVec 13
  port : BitVec 8
  version : BitVec 8
  dims : BitVec 16
  widthMax : BitVec 8
  ready : Bool
  admitted : Bool
  rxGood0 : BitVec 18
  rxGood1 : BitVec 18
  tSend : W64
  tEcho : W64
  tResid : W64
deriving DecidableEq, Repr

/-- The body of a link frame (R347): a bulk packet, a rill body (R351), or a control body. -/
inductive FrameBody where
  | packet (p : Packet)
  | rill (flits : List Flit) (cred1 cred2 cred3 : BitVec 12)
  | word (v : BitVec 16)
  | cap (c : Cap)
  | code (v : Nat)
deriving DecidableEq, Repr

/-- A link frame: the type field of R348, the sequence of R347 and the body. Its 80 bytes, with the CRC-32 of R349, are a function of these
(`Frame.bytes`); a frame that fails the CRC arrives as the command FRAME_CRC_FAIL. -/
structure Frame where
  kind : BitVec 4
  stream : BitVec 1
  field : BitVec 10
  cell : BitVec 1
  seq : BitVec 16
  body : FrameBody
deriving DecidableEq, Repr

/-- The commands of the block. -/
inductive Instr where
  /-- GET_INFO (R431): Mailbox command returning Zhevber version, geometry, start_count, slot states, free tree IDs and clepsydra time. -/
  | getInfo (m : Nat)
  /-- SET_IDENTITY (R453): Critical command that writes CHP_CHIP_ID and the torus dims and, once the cistern is open, derives the cross-chip key of slot 3. -/
  | setIdentity (m : Nat)
  /-- SET_TIME (R459): Critical command that sets time master, enable and time parameters and sets up rill context 1 toward the uplink. -/
  | setTime (m : Nat)
  /-- CISTERN_OPEN (R441): Critical command that reads both cistern copies, repairs records, increments and commits start_count and returns it. -/
  | cisternOpen (m : Nat)
  /-- DEFECT_LOAD (R454): Critical command that applies a defect map from the cistern or extended arguments, fencing cells and closing port sluices with escalation. -/
  | defectLoad (m : Nat)
  /-- MAP_INSTALL (R456): Critical command that installs the logical-to-physical map by mode 0 or from extended arguments into all region managers. -/
  | mapInstall (m : Nat)
  /-- BLOCK_TEST (R455): Command that sets sluices of the named blocks to TEST and starts rinse, combine tests and table parity reads for a duration. -/
  | blockTest (m : Nat)
  /-- ROUTE_INIT (R456): Critical command that chooses the Fountaineer corner, rewrites rill routes, clears cascade tables and makes route version 0 ACTIVE. -/
  | routeInit (m : Nat)
  /-- PARTERRE_SET_CREATE (R431): Critical command creating a parterre with its class and the set of owned cells. -/
  | parterreSetCreate (m : Nat)
  /-- PARTERRE_SET_DESTROY (R431): Critical command destroying a parterre. -/
  | parterreSetDestroy (m : Nat)
  /-- CLASS_SET (R204): Critical command setting a contract class's NI and gateway rates and bursts, taking effect in one ncyc at every bucket. -/
  | classSet (m : Nat)
  /-- WINDOW_SET (R169): Critical command installing or changing an NI or memory-gateway window after the extent, overlap, cistern and alignment checks. -/
  | windowSet (m : Nat)
  /-- QUEUE_SET (R164): Command configuring a receive queue's q_min, q_max, wait limit, stale time and pool ring. -/
  | queueSet (m : Nat)
  /-- REG_SET (R431): Command writing masked bits of an RW register in the scope named, refusing registers that another command writes. -/
  | regSet (m : Nat)
  /-- REG_SET_CRIT (R431): Critical debug-slot command writing any RW field and adding a CRIT_DONE event. -/
  | regSetCrit (m : Nat)
  /-- TREE_SETUP (R217): Critical command installing a multicast or reduction tree from a tree record and vertex records, with cascade entries and combine slots. -/
  | treeSetup (m : Nat)
  /-- TREE_RETIRE (R234): Critical command that sets closing at the root and makes the tree the watched tree to begin its retirement. -/
  | treeRetire (m : Nat)
  /-- MC_LAND_SET (R241): Command writing a multicast landing entry of an NI. -/
  | mcLandSet (m : Nat)
  /-- RED_LAND_SET (R269): Command writing a reduction result landing of an NI. -/
  | redLandSet (m : Nat)
  /-- RED_HOLD_RELEASE (R251): Command releasing the oldest held range, which is delivered with its failing flag set. -/
  | redHoldRelease (m : Nat)
  /-- RED_HOLD_DISCARD (R251): Command discarding the oldest held range, returning it to IDLE and counting it lost. -/
  | redHoldDiscard (m : Nat)
  /-- FILE_OPEN (R431): Command opening a slot-table or tree file of a given length for delivery. -/
  | fileOpen (m : Nat)
  /-- FILE_DATA (R431): Command appending extended-argument bytes to the open file. -/
  | fileData (m : Nat)
  /-- FILE_COMMIT (R124): Critical command that checks the delivered file and installs it into the inactive bank or tree entries, or rejects it whole. -/
  | fileCommit (m : Nat)
  /-- SCHED_SWITCH (R105): Critical command naming the switch time T_sw at which every router changes to the newly installed bank. -/
  | schedSwitch (m : Nat)
  /-- SCHED_STOP (R105): Critical command naming a sequence boundary after which no bank is active. -/
  | schedStop (m : Nat)
  /-- ROUTE_EXCEPT (R378): Critical command giving system-manager exception entries and requesting a flip to a version that holds them. -/
  | routeExcept (m : Nat)
  /-- SLUICE_REOPEN (R309): Critical command that sets a closed sluice to TEST and reopens it after 64 passing rinse tests each way on each plane. -/
  | sluiceReopen (m : Nat)
  /-- FENCE_CELL (R308): FENCE op 0: fences a cell, closing cell sluices toward it and holding its NI in reset. -/
  | fenceCell (m : Nat)
  /-- UNFENCE_CELL (R308): FENCE op 1: unfences a cell unless its block is fenced. -/
  | unfenceCell (m : Nat)
  /-- FENCE_BLOCK (R308): FENCE op 2: fences a block and all 16 of its cells. -/
  | fenceBlock (m : Nat)
  /-- UNFENCE_BLOCK (R308): FENCE op 3: lifts a block fence and unfences all 16 cells together. -/
  | unfenceBlock (m : Nat)
  /-- REMAP (R311): Critical command mapping a logical cell to an in-service unmapped physical cell, writing every region manager copy and invalidating map caches. -/
  | remap (m : Nat)
  /-- RESET_NI (R315): RESET scope 1: resets an NI, freeing tokens, flushing descriptors, dropping the channel cache and restarting pool rings. -/
  | resetNi (m : Nat)
  /-- RESET_CELL (R314): RESET scope 2: resets the NI, cluster-port interface and cell error state, keeping tables and sluices. -/
  | resetCell (m : Nat)
  /-- RESET_BLOCK (R314): RESET scope 3: cell reset of the block's 16 cells and reset of its block controller. -/
  | resetBlock (m : Nat)
  /-- RESET_SOFT_REGION (R314): RESET scope 4: cell reset of the region's cells and its block controllers, keeping router state. -/
  | resetSoftRegion (m : Nat)
  /-- RESET_HARD_REGION (R316): RESET scope 5: requests a flip routing nothing through the region as the first step of a hard region reset. -/
  | resetHardRegion (m : Nat)
  /-- HARD_RESET_ISOLATE (R316): Once the old version is FREE, boundary sluices and rill ports close and the region's units are reset with tables cleared. -/
  | hardResetIsolate (r : Nat)
  /-- RESET_CHIP (R317): RESET scope 6: writes the response and resets the whole chip 1 µs later, taking its link ports down. -/
  | resetChip (m : Nat)
  /-- BALANCE_CHECK (R321): Command evaluating the balance equations of rows 1-7 and raising CONSERVATION records for failures. -/
  | balanceCheck (m : Nat)
  /-- POWER_REGION_SLEEP (R409): POWER op 0: checks the region's blocks and requests a flip routing no transit through the region. -/
  | powerRegionSleep (m : Nat)
  /-- SLEEP_CLOCK_STOP (R409): After the flip and rill rewrite, the region manager stops the region's clock generator and the region is in Sleep. -/
  | sleepClockStop (r : Nat)
  /-- POWER_REGION_WAKE (R409): POWER op 1: wakes a sleeping region, or releases regions from bring-up hold after rinsing their boundary sluices. -/
  | powerRegionWake (m : Nat)
  /-- REGION_WAKE_DONE (R409): The restarted region loads its count, re-centres phase buffers, receives current version rows, enters Run and a transit flip is requested. -/
  | regionWakeDone (r : Nat)
  /-- POWER_BLOCK_OFF (R410): POWER op 2: requests a flip with empty rows for the block and rewrites rill routes around it. -/
  | powerBlockOff (m : Nat)
  /-- OFF_POWER_REMOVE (R410): Once the block is in Doze, power is removed and the block is Off. -/
  | offPowerRemove (b : Nat)
  /-- POWER_BLOCK_ON (R410): POWER op 3: powers the block, its NIs coming up as after NI reset. -/
  | powerBlockOn (m : Nat)
  /-- BLOCK_POWER_ON_DONE (R410): After the Off exit the block receives current rows, enters Run and a flip restores its cells' rows. -/
  | blockPowerOnDone (b : Nat)
  /-- LINK_SET (R458): Critical command writing a link port's enable, detect, Deep, equalisation, width, loop and preset controls. -/
  | linkSet (m : Nat)
  /-- LINK_SET_RETRAIN (R354): The retrain bit of LINK_SET sends an ACTIVE port to TRAIN with stored taps. -/
  | linkSetRetrain (n : Nat)
  /-- LINK_SET_DEEP_REQ (R357): Setting deep_req makes the port hold its edge outputs busy and drain before requesting Deep. -/
  | linkSetDeepReq (n : Nat)
  /-- LINK_SET_DEEP_RELEASE (R357): Clearing deep_req makes a Deep port drive the wake tone. -/
  | linkSetDeepRelease (n : Nat)
  /-- LINK_QUIESCE (R358): Critical command starting a planned detach by requesting an exception flip that removes the port. -/
  | linkQuiesce (m : Nat)
  /-- QUIESCE_START (R358): When the detach flip has freed its old version, quiesce is written and the port enters QUIESCE. -/
  | quiesceStart (n : Nat)
  /-- QUIESCE_DRAINED (R358): When every staged frame is acknowledged, the port sends QUIESCE request. -/
  | quiesceDrained (n : Nat)
  /-- SNAPSHOT (R479): Command choosing T and sending a FREEZE broadcast for a stillwater snapshot. -/
  | snapshot (m : Nat)
  /-- SNAPSHOT_COLLECT (R479): After T, Zhevber reads the latches, evaluates balances, writes the dump and the response. -/
  | snapshotCollect (m : Nat)
  /-- MBX_CMD_WRITE (R421): Host write of a mailbox command word, ignored and flagged overrun while the mailbox is busy. -/
  | mbxCmdWrite (m : Nat) (k : Nat) (v : W32)
  /-- MBX_DB_RING (R421): Doorbell ring bit marks a mailbox busy for Zhevber, or is ignored while busy. -/
  | mbxDbRing (m : Nat)
  /-- MBX_DB_ACK (R421): Doorbell ack bit clears done of a mailbox. -/
  | mbxDbAck (m : Nat)
  /-- MBX_EVT_CI_WRITE (R436): Host write of the event-ring consumer index, freeing ring space. -/
  | mbxEvtCiWrite (v : W32)
  /-- MBX_MEVT_CI_WRITE (R519): Management write of the management event queue consumer index. -/
  | mbxMevtCiWrite (v : W32)
  /-- BOOT_WINDOW_WRITE (R418): Host write to the image area in HELD or to a staging buffer of an idle mailbox; others ignored with overrun. -/
  | bootWindowWrite (a : Agent) (off : Nat) (v : W32)
  /-- KEY_PORT_RESPONSE (R500): Security block response beats give the verdict, root keys and start nonce, leading to RUNNING or FAILED. -/
  | keyPortResponse (data : W64) (last : Bool)
  /-- REGISTER_WRITE (R10): Write to a register with no behaviour of its own, acting by its fields' access codes. -/
  | registerWrite (a : Agent) (addr : Nat) (v : W32)
  /-- RC_FIELD_READ (R10): Read of an RC field returns its value and clears it, keeping a coinciding increment. -/
  | rcFieldRead (a : Agent) (addr : Nat)
  /-- LOW_WORD_READ (R9): Read of a 64-bit register's lower word latches the upper word for a consistent read. -/
  | lowWordRead (a : Agent) (addr : Nat)
  /-- LOW_WORD_WRITE (R9): Write to a 64-bit register's lower word is held until the upper-word write. -/
  | lowWordWrite (a : Agent) (addr : Nat) (v : W32)
  /-- UPPER_WORD_WRITE (R9): Write to the upper word applies it together with the held lower word in one ncyc. -/
  | upperWordWrite (a : Agent) (addr : Nat) (v : W32)
  /-- NI_MAP_CTL_INVAL_ONE (R312): Invalidates one logical ID in the NI's map cache in the next ncyc. -/
  | niMapCtlInvalOne (c : Nat) (lid : Nat)
  /-- NI_MAP_CTL_INVAL_ALL (R312): Invalidates every entry of the NI's map cache in the next ncyc. -/
  | niMapCtlInvalAll (c : Nat)
  /-- MAP_CACHE_FILL (R312): A map-cache miss is answered by the region manager and the entry is filled, refetched if invalidated meanwhile. -/
  | mapCacheFill (c : Nat) (lid : Nat)
  /-- NI_LAT_CTL_MODE_WRITE (R207): A write changing the latency observation mode clears both observation register sets. -/
  | niLatCtlModeWrite (c : Nat) (v : W32)
  /-- LATENCY_SAMPLE_TICK (R207): In sampled mode, every sample interval the NI adds queue depths and head waits to the sums. -/
  | latencySampleTick (c : Nat)
  /-- BLK_PWR_CTL_HOLD_RUN (R413): Setting hold_run wakes the block and keeps it in Run. -/
  | blkPwrCtlHoldRun (b : Nat)
  /-- CQ_META_READ (R157): Core read of a queue head's metadata, returned at once or stalling until an entry becomes visible; the same row stands for
the reads of the head's words, of XTRA and of CQ_STATUS (R156). -/
  | cqMetaRead (c : Nat) (core : Nat) (q : Nat) (loc : QueueLoc) (e : Ecc)
  /-- CQ_META_WAIT_LIMIT (R157): A stalled CQ_META read reaching wait_limit × 256 ncyc returns valid clear, kind NONE. -/
  | cqMetaWaitLimit (c : Nat) (core : Nat)
  /-- CQ_POP (R157): Core write retiring a queue's head entry to the pool, or counted pop_empty on an empty queue. -/
  | cqPop (c : Nat) (core : Nat) (q : Nat)
  /-- CQ_RING_REL (R153): Core write releasing the oldest pool-ring placement, or refused and counted on an invalid header. -/
  | cqRingRel (c : Nat) (core : Nat) (q : Nat)
  /-- CQ_SEND_GO (R138): Core write sending a tuple on a channel, refusing locally or allocating tokens for MSG or MSG_HEAD plus MSG_BODY. -/
  | cqSendGo (c : Nat) (core : Nat) (slot : Nat) (words : List W64) (v : W64)
  /-- CQ_SEND_GO_RESUME (R138): A stalled CQ_SEND_GO completes once the tokens, the peer interlock and the cache entry are available. -/
  | cqSendGoResume (c : Nat) (core : Nat)
  /-- CQ_SYNC_LOAD (R133): Channel sync op LOAD reads and validates a channel entry, opening, refreshing or closing the channel. -/
  | cqSyncLoad (c : Nat) (core : Nat) (slot : Nat) (ch : Nat)
  /-- CQ_SYNC_CLOSE (R134): Channel sync op CLOSE sets the channel QUIESCING and completes at once. -/
  | cqSyncClose (c : Nat) (core : Nat) (slot : Nat) (ch : Nat)
  /-- CQ_SYNC_FLUSH (R134): Channel sync op FLUSH writes the NI-owned fields back to the channel entry. -/
  | cqSyncFlush (c : Nat) (core : Nat) (slot : Nat) (ch : Nat)
  /-- CQ_SYNC_BAD_OP (R135): Reserved channel sync op completes with result BAD_OP. -/
  | cqSyncBadOp (c : Nat) (core : Nat) (slot : Nat) (ch : Nat)
  /-- CQ_SYNC_RES_READ (R134): Core read of a sync result, stalling until its latest sync operation completes; with `send`, the read of CQ_SEND_RES
(R138). -/
  | cqSyncResRead (c : Nat) (core : Nat) (slot : Nat) (send : Bool)
  /-- CHANNEL_CLOSE_COMPLETE (R134): A QUIESCING channel with no open token, held packet or placed message becomes CLOSED and is written back. -/
  | channelCloseComplete (c : Nat) (ch : Nat)
  /-- CHANNEL_FETCH_DONE (R136): A channel entry fetch from cluster memory ends, releasing stalled sends and held arrivals. -/
  | channelFetchDone (c : Nat) (ch : Nat) (err : Bool)
  /-- CHANNEL_CACHE_ECC_ERROR (R144): An uncorrectable error in a cached channel entry or its reorder state sets the channel FAULTED. -/
  | channelCacheEccError (c : Nat) (ch : Nat) (reorder : Bool)
  /-- CQ_DRING_PI_WRITE (R172): Core write advancing a descriptor ring's producer index, refused on a disabled or overfull ring; or the read of
CQ_DRING_CI (R189). -/
  | cqDringPiWrite (c : Nat) (core : Nat) (r : Nat) (a : RingAccess)
  /-- CQ_MC_REARM (R230): Core write clearing a multicast landing's received, expected and done, or its read of CQ_MC_LAND. -/
  | cqMcRearm (c : Nat) (core : Nat) (i : Nat) (a : LandAccess)
  /-- CQ_RED_REARM (R264): Core write clearing a result landing's counts, done and flags, or its read of CQ_RED_LAND. -/
  | cqRedRearm (c : Nat) (core : Nat) (i : Nat) (a : LandAccess)
  /-- CQ_RILL_GO (R283): Core write sending a CMSG on the rill after a VC3 grant, or refusing it locally; or the write of CQ_RILL_DST. -/
  | cqRillGo (c : Nat) (core : Nat) (slot : Nat) (a : RillWrite)
  /-- CQ_RILL_RES_READ (R284): Core read of the CMSG refusal record, cleared by the read; or of CQ_RILL_RX or CQ_RILL_RXDATA. -/
  | cqRillResRead (c : Nat) (core : Nat) (slot : Nat) (loc : RillLoc) (e : Ecc)
  /-- CQ_RILL_POP (R284): Core write retiring the head of the CMSG inbox. -/
  | cqRillPop (c : Nat) (core : Nat)
  /-- CQ_BAR_ARRIVE (R284): Core barrier arrival with an operand on a context; repeated or foreign arrivals are counted in gen_err. -/
  | cqBarArrive (c : Nat) (core : Nat) (x : Nat) (v : W64)
  /-- CQ_BAR_WAIT_READ (R284): Core read stalling until the release of its arrival generation, or returning not_arrived at once; or of CQ_BAR_RESULT. -/
  | cqBarWaitRead (c : Nat) (core : Nat) (x : Nat) (result : Bool)
  /-- VC3_GRANT (R277): The block controller grants VC3 injection to one NI in rotating order. -/
  | vc3Grant (b : Nat)
  /-- ROUTER_DECODE (R65): A packet arrives at a dynamic-plane router input and is decoded, checked and given its productive set. -/
  | routerDecode (c : Nat) (pl : Plane) (p : Nat) (es : List Ecc) (tab : Bool)
  /-- SWITCH_ASSIGN (R78): The switch stage ranks decoded packets and assigns productive, deflection, eject and residue outputs. -/
  | switchAssign (c : Nat) (pl : Plane)
  /-- NI_HEAD_INJECT (R81): The NI's head packet is injected on a free productive port left after pass 3 with age 0. -/
  | niHeadInject (c : Nat) (pl : Plane)
  /-- PATIENCE_EXPIRE (R81): A head packet that waited patience ncyc takes a free non-productive port with age 1. -/
  | patienceExpire (c : Nat) (pl : Plane)
  /-- ANSWER_QUEUE_INJECT (R70): An answer-queue entry is injected on the reply plane ahead of NI traffic. -/
  | answerQueueInject (c : Nat)
  /-- HELD_PACKET_ANSWER (R70): A held packet due at d = 0 or a due COMPL proceeds once the answer queue has a free entry. -/
  | heldPacketAnswer (c : Nat) (ch : Nat)
  /-- INJECTION_SELECT (R198): A plane without a head selects the next packet by source order and virtual finish time. -/
  | injectionSelect (c : Nat) (pl : Plane)
  /-- FOUNTAIN_DELIVERY (R224): The oldest fountain slot with the NI bit delivers its packet to local landing. -/
  | fountainDelivery (c : Nat) (e : Ecc)
  /-- FOUNTAIN_INJECT (R224): The oldest slot with mesh bits injects one echo-clear copy on a free branch output. -/
  | fountainInject (c : Nat) (e : Ecc)
  /-- FOUNTAIN_PATIENCE_EXPIRE (R225): A slot waiting fount_patience ncyc becomes one re-rooted copy and is freed. -/
  | fountainPatienceExpire (c : Nat)
  /-- MSG_EJECT (R147): A MSG ejected at the destination NI passes the checks and is placed, held, discarded or NACKed. -/
  | msgEject (c : Nat)
  /-- MSG_HEAD_EJECT (R147): A MSG_HEAD reserves a queue entry and places a long message in the pool ring, or is refused. -/
  | msgHeadEject (c : Nat)
  /-- MSG_BODY_EJECT (R149): A MSG_BODY is written to its placed message, held, or discarded with a NACK. -/
  | msgBodyEject (c : Nat)
  /-- GAP_TIMEOUT (R150): The gap timer expiry skips the expected sequence past the gap and fails crossed messages. -/
  | gapTimeout (c : Nat) (ch : Nat)
  /-- STALE_TAIL_TIMEOUT (R159): A queue non-empty with no pop for stale_time sets stale and raises the queue-notify strobe. -/
  | staleTailTimeout (c : Nat) (q : Nat)
  /-- DISPATCH_FIFO_ISSUE (R158): A dispatch strobe held in the FIFO is raised in a later ncyc. -/
  | dispatchFifoIssue (c : Nat)
  /-- ACK_EJECT (R142): An ACK matching an open token closes it FREE and resets nack_run. -/
  | ackEject (c : Nat)
  /-- NACK_EJECT (R182): A NACK is matched to a token, tracker or read token, closing it and recording the reason. -/
  | nackEject (c : Nat)
  /-- RETRANSMIT_TIMEOUT (R141): An INFLIGHT token's retransmit timer expires and the copy is re-injected. -/
  | retransmitTimeout (c : Nat) (t : Nat) (e : Ecc)
  /-- ABANDON_TIMEOUT (R141): A token's abandon timer expires, closing it FREE with an abandon record. -/
  | abandonTimeout (c : Nat) (t : Nat)
  /-- TOKEN_STATE_ECC_ERROR (R141): An uncorrectable error in a token's own state closes it with ecc_err and withdraws the entry. -/
  | tokenStateEccError (c : Nat) (t : Nat)
  /-- DESCRIPTOR_START (R175): A ring's next descriptor is checked and starts when the previous injected all, fence allows and a tracker is free. -/
  | descriptorStart (c : Nat) (r : Nat)
  /-- WR_EJECT (R170): A WR passes the window test, is written and counted toward its tranche, or is NACKed or discarded. -/
  | wrEject (c : Nat)
  /-- TRANCHE_FLUSH (R177): A tranche entry idle for flush_ncyc becomes due to send its COMPL. -/
  | trancheFlush (c : Nat) (i : Nat)
  /-- TRANCHE_COMPL_SEND (R177): Once every counted byte is written, the tranche's COMPL leaves on the reply plane. -/
  | trancheComplSend (c : Nat)
  /-- RD_REQ_EJECT (R179): An RD_REQ passing the window test is answered with RD_DATA packets, or NACKed. -/
  | rdReqEject (c : Nat)
  /-- RD_DATA_EJECT (R178): An RD_DATA matching a read token is written and counted toward the token. -/
  | rdDataEject (c : Nat)
  /-- COMPL_EJECT (R182): A COMPL matching a WRITE tracker adds its count and restarts the tracker timer. -/
  | complEject (c : Nat)
  /-- TRACKER_TIMEOUT (R180): A WRITE tracker timer expiry completes the descriptor INCOMPLETE. -/
  | trackerTimeout (c : Nat) (i : Nat)
  /-- QUARANTINE_EXPIRE (R179): A quarantined landing range ends after 2 × abandon_us and is freed. -/
  | quarantineExpire (c : Nat)
  /-- GATEWAY_WR (R185): A WR taken at a memory gateway edge is window-checked and written to the stack, joining a tranche. -/
  | gatewayWr (g : Nat) (k : Nat)
  /-- GATEWAY_RD_REQ (R170): An RD_REQ taken at a memory gateway is window-checked and issues stack reads. -/
  | gatewayRdReq (g : Nat) (k : Nat)
  /-- STACK_READ_RESPONSE (R521): A stack read response becomes RD_DATA on the edge input, or NACK WINDOW_FAULT on error. -/
  | stackReadResponse (g : Nat) (tag : Nat) (err : Bool)
  /-- STACK_WRITE_RESPONSE (R502): A stack write acknowledgement lets the tranche COMPL leave, or an error withholds it. -/
  | stackWriteResponse (g : Nat) (tag : Nat) (err : Bool)
  /-- GATEWAY_PI_POLL (R186): The gateway periodically reads a stream ring's PI from its control area. -/
  | gatewayPiPoll (g : Nat) (st : Nat)
  /-- SIDEBAND_RESPONSE (R502): A cistern side-band response returns to the Fountaineer, errors counting as uncorrectable reads. -/
  | sidebandResponse (j : Nat) (page : Nat) (err : Bool)
  /-- CLUSTER_MEMORY_RESPONSE (R497): A cluster memory response matched by tag completes an NI read or write. -/
  | clusterMemoryResponse (c : Nat) (tag : Nat) (err : Bool)
  /-- MCAST_EJECT (R229): An MCAST ejected at an NI is landed through a matching landing entry or discarded. -/
  | mcastEject (c : Nat)
  /-- RED_EJECT (R250): A RED ejected at a vertex or root is checked and combined into its range; `bad` gives the elements of the range whose slot
words are uncorrectable (R246, R258). -/
  | redEject (c : Nat) (bad : List Nat)
  /-- RANGE_TIMEOUT (R251): An OPEN range's timer expires, emitting it short or shutting it. -/
  | rangeTimeout (c : Nat) (j : Nat) (i : Nat)
  /-- HOLD_TIMEOUT (R251): A HELD range's hold_us expires and it is delivered flagged. -/
  | holdTimeout (c : Nat) (j : Nat) (i : Nat)
  /-- SHUT_TIMEOUT (R251): A SHUT range returns to IDLE after timeout_us. -/
  | shutTimeout (c : Nat) (j : Nat) (i : Nat)
  /-- RED_RESULT_EJECT (R263): A RED_RESULT is written at its result landing or discarded. -/
  | redResultEject (c : Nat)
  /-- COMB_TEST_TICK (R304): Every 2^20 ncyc the block controller runs a random-operand test on each pair. -/
  | combTestTick (b : Nat)
  /-- COMB_TEST_DIGEST (R304): The pair digests are compared and reference repeats confirm and fence a faulty engine. -/
  | combTestDigest (c : Nat) (agree : Bool) (refW : Bool) (refE : Bool)
  /-- COMB_DUP_DIGEST (R305): The partner returns the digest of a duplicated combine; a mismatch poisons the range. -/
  | combDupDigest (c : Nat) (agree : Bool)
  /-- COMB_DUP_TIMEOUT (R305): No free partner ncyc within 16 ncyc drops the duplicate uncounted. -/
  | combDupTimeout (c : Nat)
  /-- TEL_EJECT (R475): A TEL packet at the collector is written to its telemetry ring, or discarded. -/
  | telEject (c : Nat)
  /-- MNT_EJECT (R303): The self-test checker compares a rinse MNT with its pattern and reports to the block controller. -/
  | mntEject (c : Nat)
  /-- RINSE_OFFER (R301): Each rinse interval the block controller offers an MNT toward a neighbour. -/
  | rinseOffer (c : Nat) (pl : Plane)
  /-- RINSE_TIMEOUT (R301): An MNT not injected within rinse_timeout is withdrawn uncounted. -/
  | rinseTimeout (c : Nat) (pl : Plane)
  /-- SCHED_ROUTER_ARRIVAL (R110): A scheduled-plane packet is copied to the outputs of active rows naming its input, or dropped. -/
  | schedRouterArrival (c : Nat) (es : List (List Ecc)) (tab : Bool)
  /-- SCHED_SLOT_SOURCE (R113): At a stream's source slot the NI or gateway injects the next ready packet. -/
  | schedSlotSource (c : Nat) (gw : Bool) (st : Nat)
  /-- PERIOD_WAKE (R117): At S − wake_lead region managers wake every dozing block in the period's wake map. -/
  | periodWake (r : Nat)
  /-- PERIOD_ARM_REPORT (R118): At S − arm_lead region managers report readiness in a rill barrier. -/
  | periodArmReport (r : Nat)
  /-- SCHED_INGRESS_DELIVER (R119): An ingress link port delivers a scheduled packet at egress ncyc + D. -/
  | schedIngressDeliver (n : Nat)
  /-- RILL_FLIT_DECODE (R275): A rill flit arrives at a rill router input and is routed or delivered. -/
  | rillFlitDecode (c : Nat) (p : Nat) (vc : Nat) (ea : Ecc) (eb : Ecc) (tab : Bool)
  /-- GATHER (R281): A GATHER received on an expect port is combined; all in sends one upward or turns at the root. -/
  | gather (c : Nat) (x : Nat)
  /-- RELEASE (R281): A barrier RELEASE goes down the context tree, delivers locally and advances the generation. -/
  | release (c : Nat) (x : Nat)
  /-- RELEASE_FLIP (R86): A RELEASE with action FLIP makes the new version ACTIVE and the old DRAINING. -/
  | releaseFlip (c : Nat)
  /-- RELEASE_ARM (R118): A RELEASE with action ARM arms the period if ready, or skips it. -/
  | releaseArm (c : Nat)
  /-- CONTEXT_TIMEOUT (R281): The root's timeout_us passes, sending a failed RELEASE. -/
  | contextTimeout (x : Nat)
  /-- BCAST_TALLY (R282): A TALLY broadcast names the T at which every unit latches its epoch tallies. -/
  | bcastTally (c : Nat)
  /-- BCAST_FREEZE (R282): A FREEZE broadcast names the T at which every unit latches its snapshot. -/
  | bcastFreeze (c : Nat)
  /-- BCAST_FREE (R86): A FREE broadcast sets the drained version FREE in every router. -/
  | bcastFree (c : Nat)
  /-- TALLY_LATCH (R90): At T every cell latches its epoch counters and watch count. -/
  | tallyLatch (c : Nat)
  /-- FREEZE_LATCH (R480): At T every running unit latches its snapshot state; `ecc` says that a latch word of it is uncorrectable. -/
  | freezeLatch (u : SnapUnit) (ecc : Bool)
  /-- WAKE_DOZE (R408): A WAKE flit with aux 0 returns a dozing block to Run. -/
  | wakeDoze (b : Nat)
  /-- WAKE_SLEEP (R409): A WAKE flit with aux 1 makes the region manager wake a sleeping region. -/
  | wakeSleep (r : Nat)
  /-- DOZE_EXIT_DONE (R408): The block reaches Run and its boundary outputs are free again. -/
  | dozeExitDone (b : Nat)
  /-- DOZE_IDLE_REACHED (R407): The idle count reaching idle_ncyc starts a Doze hold. -/
  | dozeIdleReached (b : Nat)
  /-- DOZE_GATE (R407): A hold with no decode until t0 + 1 + m gates the fast clock: Doze. -/
  | dozeGate (b : Nat)
  /-- FAULT (R300): A FAULT record flit is forwarded by the region manager and written by Zhevber to the management port and event ring. -/
  | fault (c : Nat)
  /-- RESET_FLIT (R314): A RESET flit orders a reset of the scope in aux. -/
  | resetFlit (c : Nat)
  /-- SLUICE_FLIT (R306): A SLUICE notice sets a port sluice state at a router. -/
  | sluiceFlit (c : Nat)
  /-- CMSG (R283): A CMSG at its NI enters the inbox or draws a CNACK. -/
  | cmsg (c : Nat)
  /-- CNACK (R283): A CNACK at the sender records the refusal in CQ_RILL_RES. -/
  | cnack (c : Nat)
  /-- RILL_SEQUENCE_INGRESS (R285): A four-flit rill sequence at link ingress is checked and delivered into the mesh. -/
  | rillSequenceIngress (n : Nat)
  /-- TIME_SYNC (R384): A SYNC at the parent port is answered by RESP or RESP_U. -/
  | timeSync (n : Nat)
  /-- TIME_RESP (R384): A RESP at the child records t4. -/
  | timeResp (n : Nat)
  /-- TIME_RESP_U (R384): A RESP_U from an unlocked parent makes the exchange rejected. -/
  | timeRespU (n : Nat)
  /-- TIME_FOLLOW (R385): A FOLLOW completes an exchange and updates the offset. -/
  | timeFollow (n : Nat)
  /-- TIME_STEP (R386): A STEP flit is applied at the next multiple of 4,096. -/
  | timeStep (r : Nat)
  /-- TIME_SLEW (R387): A SLEW flit adds or subtracts one eighth in T[2:0]. -/
  | timeSlew (r : Nat)
  /-- FAULT_WINDOW_ROLL (R295): At each window boundary every error count clears. -/
  | faultWindowRoll (b : Nat)
  /-- WATCHDOG_POLL (R297): Each watchdog_us the region manager and Zhevber poll units; two misses escalate. -/
  | watchdogPoll (region : Bool) (u : Nat) (answered : Bool)
  /-- PC_SAMPLE_TICK (R476): Every 2^pc_log2 ncyc the NI requests a PC sample from the next core. -/
  | pcSampleTick (c : Nat)
  /-- PC_SAMPLE_ANSWER (R476): The cluster answer within 16 ncyc writes a pc_valid record. -/
  | pcSampleAnswer (c : Nat) (pc : W64)
  /-- PC_SAMPLE_TIMEOUT (R476): No answer in 16 ncyc writes the record with pc_valid clear. -/
  | pcSampleTimeout (c : Nat)
  /-- LINK_DETECT_POLL (R339): In DETECT a receiver-detect pulse is sent every ms. -/
  | linkDetectPoll (n : Nat)
  /-- LINK_TERMINATION_SEEN (R339): A termination on the clock lane and eight data lanes moves the port to TRAIN. -/
  | linkTerminationSeen (n : Nat) (h : Nat) (clk : Bool) (lanes : Nat)
  /-- TRAINING_MESSAGE (R341): A training message request or status drives the tap handshake. -/
  | trainingMessage (n : Nat) (msg : BitVec 56)
  /-- LINK_TRAIN_DONE (R339): Every lane ready on both sides moves the port to LOCK. -/
  | linkTrainDone (n : Nat)
  /-- LINK_TRAIN_TIMEOUT (R341): train_timeout expiry moves to LOCK with a narrow-capable half, or DOWN. -/
  | linkTrainTimeout (n : Nat)
  /-- LINK_LOCK_DONE (R342): Block lock, deskew and elastic buffer setting move the port to CAPX. -/
  | linkLockDone (n : Nat) (rx : List LaneRx)
  /-- LINK_LOCK_TIMEOUT (R342): No lock within 50 µs makes the lane failed or the port DOWN. -/
  | linkLockTimeout (n : Nat) (h : Nat) (l : Nat)
  /-- CAP_SEND (R343): In CAPX a CAP frame is sent at least every 64 ncyc. -/
  | capSend (n : Nat)
  /-- CAP_FRAME (R344): A CAP frame updates rtt, the width choice and admission; both admitted leads to ACTIVE. -/
  | capFrame (n : Nat) (cap : Cap)
  /-- LNK_CTL_ADMIT (R345): Setting admit allows ACTIVE, held until CAPX. -/
  | lnkCtlAdmit (n : Nat)
  /-- FRAME_REQ (R350): A request-plane frame is translated, policed and stamped before delivery. -/
  | frameReq (n : Nat) (f : Frame)
  /-- FRAME_REP (R350): A reply-plane frame is delivered to the named cell. -/
  | frameRep (n : Nat) (f : Frame)
  /-- FRAME_SCHED (R119): A SCHED frame is held for delivery at egress + D, or dropped late. -/
  | frameSched (n : Nat) (f : Frame)
  /-- FRAME_RILL (R351): A RILL frame delivers its sequence and returns credits. -/
  | frameRill (n : Nat) (f : Frame)
  /-- FRAME_IDLE (R348): An IDLE frame acknowledges and may show a tail loss. -/
  | frameIdle (n : Nat) (f : Frame)
  /-- FRAME_NAK (R353): A NAK starts go-back-N replay of the named stream. -/
  | frameNak (n : Nat) (f : Frame)
  /-- FRAME_CRC_FAIL (R349): A frame with bad crc or reserved kind is discarded and a NAK sent. -/
  | frameCrcFail (n : Nat) (rill : Bool)
  /-- FRAME_QUIESCE_REQUEST (R358): A QUIESCE request makes Zhevber drain its side. -/
  | frameQuiesceRequest (n : Nat)
  /-- FRAME_QUIESCE_DONE (R358): QUIESCE done after a request sends the port DOWN cause 4. -/
  | frameQuiesceDone (n : Nat)
  /-- FRAME_DEEP_REQUEST (R357): A DEEP request is accepted or refused. -/
  | frameDeepRequest (n : Nat)
  /-- FRAME_DEEP_ACCEPT (R357): A DEEP accept sends the port to DEEP. -/
  | frameDeepAccept (n : Nat)
  /-- FRAME_DEEP_REFUSE (R357): A DEEP refuse makes the port retry every 10 µs. -/
  | frameDeepRefuse (n : Nat)
  /-- DEEP_DRAINED (R357): Drained staging queues send a DEEP request. -/
  | deepDrained (n : Nat)
  /-- DEEP_RETRY (R357): The 10 µs retry timer resends the DEEP request. -/
  | deepRetry (n : Nat)
  /-- WAKE_TONE (R357): The wake tone sends a Deep port to LOCK. -/
  | wakeTone (n : Nat)
  /-- DEEP_EXIT_TIMEOUT (R357): No ACTIVE within 100 µs sends DOWN cause 7. -/
  | deepExitTimeout (n : Nat)
  /-- ACK_TIMEOUT (R353): The oldest frame waiting ack_timeout starts replay. -/
  | ackTimeout (n : Nat) (rill : Bool)
  /-- RILL_CREDIT_FRAME (R351): Credits owed 16 ncyc send a RILL frame with no sequence. -/
  | rillCreditFrame (n : Nat)
  /-- LANE_FAIL (R354): A lane losing block lock or hitting lane_err_limit triggers retrain; `lost` says which, `hdrs` how many invalid sync headers
its receiver has met since it last said so. -/
  | laneFail (n : Nat) (h : Nat) (l : Nat) (lost : Bool) (hdrs : Nat)
  /-- CLOCK_LOSS (R354): Forwarded clock lost 32 ncyc sends the port DOWN cause 1. -/
  | clockLoss (n : Nat)
  /-- DOWN_DETECT_RETURN (R339): After 1 ms in DOWN a port with detect_en returns to DETECT. -/
  | downDetectReturn (n : Nat)
  /-- FRAME_BOUNDARY (R350): At each frame boundary an ACTIVE port sends its next frame: a waiting rill frame, a replay, then SCHED, REP/REQ in alternation, or IDLE. -/
  | frameBoundary (n : Nat)
  /-- PRBS_CHECKER_LOCK (R356): A lane's PRBS checker in LOOP locks after 64 consecutive correct bits and starts counting; `rx` are the bits it
has received last, the latest in bit 94. -/
  | prbsCheckerLock (n : Nat) (h : Nat) (l : Nat) (rx : BitVec 95)
  /-- PRBS_CHECKER_UNLOCK (R356): A locked PRBS checker unlocks when 64 of 1,024 bits are in error; `errs` are those of the last 1,024
that were. -/
  | prbsCheckerUnlock (n : Nat) (h : Nat) (l : Nat) (errs : Nat)
  /-- PEER_ENTERS_TRAIN (R354): An ACTIVE port sees its peer enter TRAIN and retrains with stored taps. -/
  | peerEntersTrain (n : Nat)
  /-- CLOCK_LANE_FAIL (R354): The forwarded clock of one half-port fails while ACTIVE and the port retrains without that half. -/
  | clockLaneFail (n : Nat) (h : Nat)
  /-- TIME_FOLLOW_TIMEOUT (R385): A FOLLOW not arriving within 10 µs of its SYNC rejects the exchange so the next can run. -/
  | timeFollowTimeout (n : Nat)
  /-- RECORD_SENDING_NCYC (R300): A block controller's or region manager's waiting fault record is sent on VC0 at its next sending ncyc. -/
  | recordSendingNcyc (region : Bool) (u : Nat)
  /-- RESET_ENDED (R314): An NI, cell, block or region reset ends, sending an action-6 record, completing started descriptors FLUSHED and starting region re-admission. -/
  | resetEnded (scope : Nat) (u : Nat)
  /-- BLOCK_TEST_END (R455): When the self-test duration ends, sluices that met the rinse criterion reopen and the rest close as port sluices; `bad` gives the
table words read with wrong parity meanwhile, as cell and table. -/
  | blockTestEnd (bad : List (Nat × Nat))
  /-- TREE_RETIRE_CLEAR (R234): After a full tally interval with seen zero over the chip, the tree's entries are cleared and its ID freed. -/
  | treeRetireClear
  /-- BANK_SWITCH (R105): At T_sw every router of the chip changes schedule bank in the same ncyc. -/
  | bankSwitch
  /-- SEQUENCE_STOP (R105): At the named sequence boundary the active bank stops and no bank is active. -/
  | sequenceStop
  /-- MBX_BOOT_CTL_START (R419): Start bit begins image checking from HELD and streams the image to the security block. -/
  | mbxBootCtlStart
  /-- KEY_VERDICT_TIMEOUT (R419): No verdict and keys within 100 ms puts the boot ROM in FAILED with cause 4. -/
  | keyVerdictTimeout
  /-- FOUNTAINEER_WATCHDOG_EXPIRE (R420): The 10 ms watchdog expires, the state becomes FAILED cause 6 and the management fault output asserts. -/
  | fountaineerWatchdogExpire
  /-- POR_ASSERT (R495): tpn_por_n goes low, asynchronously resetting the chip. -/
  | porAssert
  /-- POR_RELEASE (R452): tpn_por_n rises; the boot ROM reaches HELD and every region starts in bring-up hold. -/
  | porRelease
  /-- HOST_PORT_RESET (R496): Host port reset abandons the access in progress and discards a held lower-word write. -/
  | hostPortReset
  /-- MGMT_PORT_RESET (R496): Management port reset abandons its access in progress and discards a held lower-word write. -/
  | mgmtPortReset
  /-- TALLY_TICK (R90): Every 2,048 ncyc during a drain or watch, region managers take a tally. -/
  | tallyTick
  /-- TALLY_RESULT (R90): The tally sum reaches the root and Zhevber judges the drain. -/
  | tallyResult
  /-- EPOCH_FLIP_START (R86): A pending flip request starts when the previous flip freed its old version. -/
  | epochFlipStart
  /-- INSTALL_DONE (R86): The new version is installed READY and the barrier starts. -/
  | installDone
  /-- TIME_EXCHANGE_TICK (R385): A child chip starts an exchange every 2 µs or recal_us. -/
  | timeExchangeTick
  /-- HOLDOVER_EXPIRE (R387): No accepted exchange for holdover_ms clears locked. -/
  | holdoverExpire
  /-- CISTERN_DAY_TICK (R441): Each 86,400 s the day advances and old records are rewritten. -/
  | cisternDayTick
  /-- CHIP_RESET_AFTER_RESPONSE (R431): 1 µs after writing the RESET response, the chip resets and other commands end ABANDONED. -/
  | chipResetAfterResponse
  /-- FOUNTAINEER_MEMORY_UNCORRECTABLE (R447): An uncorrectable error in Fountaineer memory puts the boot state in FAILED with cause 5. -/
  | fountaineerMemoryUncorrectable
deriving DecidableEq, Repr

end Sys2Proof
end

