-- ==== Sys2Proof/Config.lean ====
section
/-! DEFINITION. The values the spec leaves open: free values, opaque constants without a body, so that nothing in Lean can
evaluate them and a statement about one holds for every value. -/

namespace Sys2Proof

/-- A free 64-bit value, one for each value of the counter State.free (log 1). -/
opaque Config.freeWord : Nat → W64

/-- The choice among distance-consistent masks of a row that R73 leaves: by number of the build, router cell and row index
(log 10). -/
opaque Config.rowChoice : Nat → Nat → Nat → BitVec 4

/-- The rill route a table rewrite gives (R279): by number of the rewrite, router cell and block index (log 11). -/
opaque Config.rillRoute : Nat → Nat → Nat → BitVec 2

/-- The version number that GET_INFO reports for Zhevber beyond the image's own field (R431, log 12). -/
opaque Config.zhevberVersion : W32 → W32

/-- The master chip's ID that a chip holds from reset on: no register and no command gives it (R383, log 29). -/
opaque Config.masterChip : BitVec 13

/-- The check byte of the Hsiao (72,64) code over a word (R33, R273): the spec names the code and not the matrix (log 43). -/
opaque Config.hsiao : W64 → Byte

end Sys2Proof
end

