-- ==== Sys2Proof/Machine/Geometry.lean ====
section
/-! DEFINITION. The 96 x 96 grid (R1, R3, R19, R20): cells, blocks, regions, mesh ports, the I/O ring (R27, R28, R29, R30),
and the cells of the controllers (R277). Cells are numbers {y[6:0], x[6:0]}. -/

namespace Sys2Proof.Machine

/-- The x coordinate of a physical cell ID (R20). -/
def cx (c : Nat) : Nat := c % 128
/-- The y coordinate of a physical cell ID (R20). -/
def cy (c : Nat) : Nat := c / 128
/-- The physical cell ID {y, x} (R20). -/
def mkCell (x y : Nat) : Nat := y * 128 + x
/-- A physical cell ID is valid when x and y are each 0 to 95 (R20). -/
def cellOk (c : Nat) : Bool := decide (cx c ≤ 95) && decide (cy c ≤ 95)
/-- A logical cell ID is 0 to 9,215 (R20, R21). -/
def logicalOk (l : Nat) : Bool := decide (l < 9216)

/-- The block ID {by, bx} of a cell (R20). -/
def blockOf (c : Nat) : Nat := (cy c / 4) * 32 + cx c / 4
/-- A block ID is valid when bx and by are each 0 to 23 (R20). -/
def blockOk (b : Nat) : Bool := decide (b % 32 < 24) && decide (b / 32 < 24)
/-- The row index 24 by + bx of a block in a route table (R71). -/
def blockIdx (b : Nat) : Nat := 24 * (b / 32) + b % 32
/-- The block ID of a route-table row index. -/
def idxBlock (k : Nat) : Nat := (k / 24) * 32 + k % 24
/-- The region of a cell (R20). -/
def regionOf (c : Nat) : Nat := 4 * (cy c / 24) + cx c / 24
/-- The region of a block (R20). -/
def blockRegion (b : Nat) : Nat := 4 * ((b / 32) / 6) + (b % 32) / 6
/-- Region numbers are 0 to 15 (R20). -/
def regionOk (r : Nat) : Bool := decide (r < 16)
/-- Link ports are 0 to 47 (R28). -/
def linkOk (n : Nat) : Bool := decide (n < 48)
/-- Memory gateways are 0 to 19 (R28). -/
def gatewayOk (g : Nat) : Bool := decide (g < 20)

/-- The cell of a block controller: the south-west cell of its block (R277). -/
def bcCell (b : Nat) : Nat := mkCell (4 * (b % 32)) (4 * (b / 32))
/-- The cell of a region manager (R277). -/
def rmCell (r : Nat) : Nat := mkCell (24 * (r % 4) + 11) (24 * (r / 4) + 11)
/-- The corner cells, in the order of CHP_RILL_CTL.root_corner (R280). -/
def cornerCell (k : Nat) : Nat := mkCell (if k % 2 = 1 then 95 else 0) (if k / 2 = 1 then 95 else 0)

/-- The cells of a block, in the bit order of R518. -/
def blockCells (b : Nat) : List Nat :=
  (List.range 16).map fun i => mkCell (4 * (b % 32) + i % 4) (4 * (b / 32) + i / 4)
/-- The blocks of a region. -/
def regionBlocks (r : Nat) : List Nat :=
  (List.range 36).map fun i => (6 * (r / 4) + i / 6) * 32 + 6 * (r % 4) + i % 6
/-- The cells of a region. -/
def regionCells (r : Nat) : List Nat :=
  (List.range 576).map fun i => mkCell (24 * (r % 4) + i % 24) (24 * (r / 4) + i / 24)
/-- Every cell of the die. -/
def allCells : List Nat := (List.range 9216).map fun i => mkCell (i % 96) (i / 96)
/-- Every block of the die. -/
def allBlocks : List Nat := (List.range 576).map idxBlock

/-- The port opposite to a mesh port: a packet leaving on East arrives on West (R19). -/
def oppPort (p : Nat) : Nat := (p + 2) % 4

/-- The cell a mesh port leads to; none at the edge of the grid (R19). -/
def neighbor (c p : Nat) : Option Nat :=
  match p with
  | 0 => if cx c < 95 then some (c + 1) else none
  | 1 => if cy c < 95 then some (c + 128) else none
  | 2 => if 0 < cx c then some (c - 1) else none
  | 3 => if 0 < cy c then some (c - 128) else none
  | _ => none

/-- What an edge port attaches to (R27). -/
inductive Edge where
  | unused
  | link (n : Nat) (half : Nat)
  | gateway (g : Nat) (k : Nat)
deriving DecidableEq, Repr

/-- The side of the die an edge port lies on: south 0, east 1, north 2, west 3 (R28). -/
def sideOf (p : Nat) : Nat :=
  match p with
  | 0 => 1
  | 1 => 2
  | 2 => 3
  | _ => 0

/-- The unit at position s of a side (R27, R28). -/
def edgeAt (side s : Nat) : Edge :=
  let k := s / 8
  if k = 2 ∨ k = 6 ∨ k = 10 then .link (side * 12 + (k - 2) / 4 * 4 + s % 8 / 2) (s % 2)
  else if k % 2 = 1 ∧ k < 10 then .gateway (side * 5 + (k - 1) / 2) (s % 8)
  else .unused

/-- The unit behind an edge port of a cell; none for a mesh port that stays in the grid (R19, R30). -/
def edgeOf (c p : Nat) : Option Edge :=
  if (neighbor c p).isSome then none
  else some (edgeAt (sideOf p) (if p % 2 = 1 then cx c else cy c))

/-- The cell at position s of a side, and its edge port. -/
def sideCell (side s : Nat) : Nat × Nat :=
  match side with
  | 0 => (mkCell s 0, 3)
  | 1 => (mkCell 95 s, 0)
  | 2 => (mkCell s 95, 1)
  | _ => (mkCell 0 s, 2)

/-- The cell and edge port that half h of link port n attaches to (R27). -/
def linkCell (n h : Nat) : Nat × Nat :=
  sideCell (n / 12) (8 * (n % 12 / 4 * 4 + 2) + 2 * (n % 4) + h)

/-- The cell and edge port of channel position k (0 to 7) of memory gateway g (R27). -/
def gatewayCell (g k : Nat) : Nat × Nat :=
  sideCell (g / 5) (8 * (2 * (g % 5) + 1) + k)

/-- The bundle of a link port, numbered as R71 numbers them: +x 0, −x 1, +y 2, −y 3, +z 4, −z 5 (R29). -/
def bundleOf (n : Nat) : Nat :=
  let side := n / 12
  let j := n % 12
  match side with
  | 0 => if j < 8 then 3 else 5
  | 1 => if j < 8 then 0 else 4
  | 2 => if j < 8 then 2 else 4
  | _ => if j < 8 then 1 else 5

/-- The link ports of a bundle, lowest first. -/
def bundlePorts (b : Nat) : List Nat := (List.range 48).filter fun n => bundleOf n == b

/-- Do two cells lie in different regions? (R276) -/
def regionCross (a b : Nat) : Bool := regionOf a != regionOf b

end Sys2Proof.Machine
end

