-- ==== Sys2Proof/Machine/RegTable.lean ====
section
/-! DEFINITION. The register table of the die: for every register of the spec its scope, its offset within its unit
(R507 to R509), its width, its value after chip reset, the bits of each access code (R10), and the bits that NI reset (R314,
and the register tables) and cell reset (R322, R323) return to their reset value; and one `Field` per named field of a
register table, with the bits the table gives it. -/

namespace Sys2Proof.Machine

/-- The unit a register belongs to (the name prefixes of 00_scope.md; gateways are in chip scope for REG_SET, R504). -/
inductive Scope where
  | cell | block | region | link | gateway | chip
deriving DecidableEq, Repr

/-- One register of the register map, or one array of registers at a stride. -/
structure RegRow where
  name : String
  scope : Scope
  off : Nat
  stride : Nat
  count : Nat
  width : Nat
  reset : Nat
  rw : Nat
  rc : Nat
  w1c : Nat
  w1s : Nat
  niReset : Nat
  cellReset : Nat
deriving DecidableEq, Repr

/-- A field of a register: the offset of the register in its unit, the stride of its array, its low bit and its width. -/
structure Field where
  off : Nat
  stride : Nat
  lo : Nat
  len : Nat
deriving DecidableEq, Repr

/-- The field of element `i` of a register array. -/
def Field.at (f : Field) (i : Nat) : Field := { f with off := f.off + f.stride * i }

/-- Registers of a cell, part 0. -/
def cellRegs0 : List RegRow := [
  ⟨"CELL_RT_CTL", .cell, 0, 0, 1, 32, 0, 0, 0, 0, 0, 0, 0⟩,
  ⟨"CELL_RT_PARAM", .cell, 4, 0, 1, 32, 0x400c4010, 0xff0fff7f, 0, 0, 0, 0, 0⟩,
  ⟨"CELL_DEFL_CNT_REQ", .cell, 8, 0, 1, 64, 0, 0, 0xffffffffffffffff, 0, 0, 0, 0⟩,
  ⟨"CELL_DEFL_CNT_REP", .cell, 0x10, 0, 1, 64, 0, 0, 0xffffffffffffffff, 0, 0, 0, 0⟩,
  ⟨"CELL_EVENT_CNT", .cell, 0x18, 0, 1, 64, 0, 0, 0xffffffffffffffff, 0, 0, 0, 0⟩,
  ⟨"CELL_EPOCH_TALLY0", .cell, 0x20, 0, 1, 64, 0, 0, 0, 0, 0, 0, 0⟩,
  ⟨"CELL_EPOCH_TALLY1", .cell, 0x28, 0, 1, 64, 0, 0, 0, 0, 0, 0, 0⟩,
  ⟨"CELL_SCHED_CNT", .cell, 0x30, 0, 1, 64, 0, 0, 0xffffffffffffffff, 0, 0, 0, 0⟩,
  ⟨"CELL_CASC_CNT", .cell, 0x38, 0, 1, 64, 0, 0, 0xffffffffffffffff, 0, 0, 0, 0⟩,
  ⟨"CELL_CASC_WATCH", .cell, 0x40, 0, 1, 64, 0, 0x1fff, 0, 0, 0, 0, 0⟩,
  ⟨"CELL_RILL_CNT", .cell, 0x48, 0, 1, 64, 0, 0, 0xffffffffffffffff, 0, 0, 0, 0⟩,
  ⟨"CELL_ERR_CNT", .cell, 0x50, 0, 1, 64, 0, 0, 0xffffffffffffffff, 0, 0, 0, 0xffffffffffffffff⟩]

/-- Registers of a cell, part 1. -/
def cellRegs1 : List RegRow := [
  ⟨"CELL_SPRAY_CTL", .cell, 0x58, 0, 1, 64, 0x500, 0x1ffffffffff, 0, 0, 0, 0, 0⟩,
  ⟨"CELL_FAULT", .cell, 0x60, 0, 1, 32, 0, 0, 0, 0x7ff, 0, 0, 0x7ff⟩,
  ⟨"CELL_LINK_CFG", .cell, 0x64, 0, 1, 32, 0, 0, 0, 0, 0, 0, 0⟩,
  ⟨"CELL_OBS_CNT", .cell, 0x68, 0, 1, 64, 0, 0, 0xffffffffffff, 0, 0, 0, 0⟩,
  ⟨"CELL_SNAP_STAT", .cell, 0x70, 0, 1, 64, 0, 0, 0, 0, 0, 0, 0⟩,
  ⟨"CELL_RILL_TREE", .cell, 0x80, 4, 16, 32, 0, 0x3fff, 0, 0, 0, 0, 0⟩,
  ⟨"CELL_RILL_BAL", .cell, 0xc0, 8, 24, 64, 0x4000000000000, 0, 0, 0, 0, 0, 0⟩,
  ⟨"NI_OWNER", .cell, 0x4000, 0, 1, 32, 0, 0xff, 0, 0, 0, 0, 0⟩,
  ⟨"NI_INJ_CTL", .cell, 0x4004, 0, 1, 32, 0x1000, 0xff00, 0, 0, 0, 0xfffffffe, 0⟩,
  ⟨"NI_RX_CHECK", .cell, 0x4008, 0, 1, 64, 0, 0, 0xffffffffffffffff, 0, 0, 0xffffffffffffffff, 0⟩,
  ⟨"NI_INJ_CNT", .cell, 0x4010, 0, 1, 64, 0, 0, 0xffffffffffff, 0, 0, 0xffffffffffffffff, 0⟩,
  ⟨"NI_SCHED_CTL", .cell, 0x4018, 0, 1, 32, 0x100, 0x1ffff, 0, 0, 0, 0xffffffff, 0⟩]

/-- Registers of a cell, part 2. -/
def cellRegs2 : List RegRow := [
  ⟨"NI_TOK_CTL", .cell, 0x401c, 0, 1, 32, 0xc832, 0xfffff, 0, 0, 0, 0, 0⟩,
  ⟨"NI_SCHED_STAT", .cell, 0x4020, 0, 1, 64, 0, 0, 0xffff00ffffff, 0, 0, 0xffffffffffffffff, 0⟩,
  ⟨"NI_CHAN_BASE", .cell, 0x4028, 0, 1, 64, 0, 0xfffffffc0000, 0, 0, 0, 0, 0⟩,
  ⟨"NI_RX_CTL", .cell, 0x4030, 0, 1, 32, 0x96, 0xfff, 0, 0, 0, 0, 0⟩,
  ⟨"NI_BULK_CTL", .cell, 0x4034, 0, 1, 32, 0x1000c8, 0xffffff, 0, 0, 0, 0, 0⟩,
  ⟨"NI_TOK_STAT", .cell, 0x4038, 0, 1, 64, 0, 0, 0xfffffffffffffe00, 0, 0, 0xffffffffffffffff, 0⟩,
  ⟨"NI_MSG_STAT", .cell, 0x4040, 0, 1, 64, 0, 0, 0xffffffffffffffff, 0, 0, 0xffffffffffffffff, 0⟩,
  ⟨"NI_BULK_STAT", .cell, 0x4048, 0, 1, 64, 0, 0, 0xffffffffffffffff, 0, 0, 0xffffffffffffffff, 0⟩,
  ⟨"NI_WFQ_CTL", .cell, 0x4050, 0, 1, 64, 0x10, 0xffffffff00ff, 0, 0, 0, 0, 0⟩,
  ⟨"NI_WFQ_STAT", .cell, 0x4058, 0, 1, 64, 0, 0, 0, 0, 0, 0xffffffffffffffff, 0⟩,
  ⟨"NI_CC_CTL", .cell, 0x4060, 0, 1, 64, 0x11008000040, 0x1ffffffffff, 0, 0, 0, 0, 0⟩,
  ⟨"NI_SHAPE_STAT", .cell, 0x4068, 0, 1, 64, 0, 0, 0xffffffffffffffff, 0, 0, 0xffffffffffffffff, 0⟩]

/-- Registers of a cell, part 3. -/
def cellRegs3 : List RegRow := [
  ⟨"NI_SPILL", .cell, 0x4070, 0, 1, 64, 0x10000, 0, 0xffff000000000000, 0, 0, 0xffffffffffffffff, 0⟩,
  ⟨"NI_LAT_CTL", .cell, 0x4078, 0, 1, 32, 0, 0xf03, 0, 0, 0, 0xffffffff, 0⟩,
  ⟨"NI_FOUNT_CTL", .cell, 0x407c, 0, 1, 32, 0x20, 0xff, 0, 0, 0, 0, 0⟩,
  ⟨"NI_FOUNT_STAT", .cell, 0x4080, 0, 1, 64, 0, 0, 0xffffffffffff0000, 0, 0, 0xffffffffffffffff, 0⟩,
  ⟨"NI_MC_STAT", .cell, 0x4088, 0, 1, 64, 0, 0, 0xffffffffffffffff, 0, 0, 0xffffffffffffffff, 0⟩,
  ⟨"NI_RED_STAT", .cell, 0x4090, 0, 1, 64, 0, 0, 0xffffffffffffffff, 0, 0, 0xffffffffffffffff, 0⟩,
  ⟨"NI_RED_HOLD", .cell, 0x4098, 0, 1, 64, 0, 0, 0, 0, 0, 0xffffffffffffffff, 0⟩,
  ⟨"NI_RILL_STAT", .cell, 0x40a0, 0, 1, 64, 0, 0, 0xffffffffffffffff, 0, 0, 0xffffffffffffffff, 0⟩,
  ⟨"NI_MAP_CTL", .cell, 0x40a8, 0, 1, 32, 0, 0, 0xffff0000, 0, 0, 0xffffffff, 0⟩,
  ⟨"NI_TAG_CTL", .cell, 0x40ac, 0, 1, 32, 0, 0xf, 0, 0, 0, 0, 0⟩,
  ⟨"NI_TEL_RING", .cell, 0x40b0, 0, 1, 64, 8, 0xfffffffff03f, 0, 0, 0, 0, 0⟩,
  ⟨"NI_PCS_RING", .cell, 0x40b8, 0, 1, 64, 8, 0xfffffffff03f, 0, 0, 0, 0, 0⟩]

/-- Registers of a cell, part 4. -/
def cellRegs4 : List RegRow := [
  ⟨"NI_TEL_STAT", .cell, 0x40c0, 0, 1, 64, 0, 0, 0xffff00000000, 0, 0, 0xffffffffffffffff, 0⟩,
  ⟨"NI_PCS_STAT", .cell, 0x40c8, 0, 1, 64, 0, 0, 0xffff00000000, 0, 0, 0xffffffffffffffff, 0⟩,
  ⟨"NI_PCS_CTL", .cell, 0x40d0, 0, 1, 64, 0x20, 0xffffffff0000003f, 0, 0, 0, 0, 0⟩,
  ⟨"NI_BAL_TOK", .cell, 0x40d8, 0, 1, 64, 0, 0, 0, 0, 0, 0, 0⟩,
  ⟨"NI_BAL_TOK2", .cell, 0x40e0, 0, 1, 32, 0, 0, 0, 0, 0, 0x1ff, 0⟩,
  ⟨"NI_BAL_COMB", .cell, 0x40e4, 0, 1, 32, 0x40, 0, 0, 0, 0, 0, 0⟩,
  ⟨"NI_BAL_QUE", .cell, 0x40e8, 0, 1, 64, 0x400, 0, 0xffffffff00000000, 0, 0, 0xffffffffffffffff, 0⟩,
  ⟨"NI_BAL_QUE2", .cell, 0x40f0, 0, 1, 64, 0, 0, 0, 0, 0, 0, 0⟩,
  ⟨"NI_BAL_ROB", .cell, 0x40f8, 0, 1, 64, 0x200, 0, 0, 0, 0, 0xfffff, 0⟩,
  ⟨"NI_BAL_FOUNT", .cell, 0x4100, 0, 1, 32, 0, 0, 0, 0, 0, 0, 0⟩,
  ⟨"NI_TAG_SEL", .cell, 0x4120, 8, 4, 64, 0, 0xffffffffffffffff, 0, 0, 0, 0, 0⟩,
  ⟨"NI_TAG_CNT", .cell, 0x4140, 8, 4, 64, 0, 0, 0xffffffffffffffff, 0, 0, 0xffffffffffffffff, 0⟩]

/-- Registers of a cell, part 5. -/
def cellRegs5 : List RegRow := [
  ⟨"NI_RING_WEIR", .cell, 0x4180, 8, 4, 64, 0xffff00000000, 0xffffffff, 0, 0, 0, 0xffffffff00000000, 0⟩,
  ⟨"NI_Q_CFG", .cell, 0x4200, 8, 64, 64, 0, 0xfffffff7ff7ff, 0, 0, 0, 0, 0⟩,
  ⟨"NI_Q_RING", .cell, 0x4400, 8, 64, 64, 0, 0x1ffffffffffff000, 0, 0, 0, 0, 0⟩,
  ⟨"NI_QLAT_S", .cell, 0x4600, 8, 64, 64, 0, 0, 0xffffffffffffffff, 0, 0, 0xffffffffffffffff, 0⟩,
  ⟨"NI_QLAT_H", .cell, 0x4800, 8, 64, 64, 0, 0, 0xffffffff000007ff, 0, 0, 0xffffffffffffffff, 0⟩,
  ⟨"NI_DRING", .cell, 0x4a00, 8, 68, 64, 0x1000000000040, 0xfffffffffff1f3, 0, 0, 0, 0, 0⟩,
  ⟨"NI_WIN_A", .cell, 0x4c80, 8, 16, 64, 0, 0xffffffffffffff07, 0, 0, 0, 0, 0⟩,
  ⟨"NI_WIN_B", .cell, 0x4d00, 8, 16, 64, 0, 0xfffffffffff0, 0, 0, 0, 0, 0⟩,
  ⟨"NI_WIN_TAG", .cell, 0x4d80, 4, 16, 32, 0, 0xffffffff, 0, 0, 0, 0, 0⟩,
  ⟨"NI_MC_LAND", .cell, 0x4e00, 8, 16, 64, 0, 0xffffffff0fffffff, 0, 0, 0, 0, 0⟩,
  ⟨"NI_RED_LAND", .cell, 0x4e80, 8, 8, 64, 0, 0xfffffffffff3, 0, 0, 0, 0, 0⟩,
  ⟨"NI_RED_TREE_A", .cell, 0x4f00, 8, 16, 64, 0, 0x3ffffffffffffff, 0, 0, 0, 0, 0⟩]

/-- Registers of a cell, part 6. -/
def cellRegs6 : List RegRow := [
  ⟨"NI_RED_TREE_B", .cell, 0x4f80, 8, 16, 64, 0, 0xfffffffffffffff, 0, 0, 0, 0, 0⟩,
  ⟨"NI_RED_TREE_C", .cell, 0x5000, 8, 16, 64, 0x3e806400000000, 0xffffffffffffff, 0, 0, 0, 0, 0⟩,
  ⟨"NI_RED_TSTAT", .cell, 0x5080, 8, 16, 64, 0, 0, 0xffffffffffffffff, 0, 0, 0xffffffffffffffff, 0⟩,
  ⟨"NI_RED_DLV", .cell, 0x5100, 4, 64, 32, 0, 0xfffffff, 0, 0, 0, 0, 0⟩,
  ⟨"NI_BAL_RED_A", .cell, 0x5200, 8, 16, 64, 0, 0, 0, 0, 0, 0, 0⟩,
  ⟨"NI_BAL_RED_B", .cell, 0x5280, 8, 16, 64, 0, 0, 0, 0, 0, 0, 0⟩]

/-- Every register of a cell. -/
def cellRegs : List RegRow := cellRegs0 ++ cellRegs1 ++ cellRegs2 ++ cellRegs3 ++ cellRegs4 ++ cellRegs5 ++ cellRegs6

/-- Registers of a block, part 0. -/
def blockRegs0 : List RegRow := [
  ⟨"BLK_FAULT_CTL", .block, 0, 0, 1, 32, 0x443240, 0xffffff, 0, 0, 0, 0, 0⟩,
  ⟨"BLK_RINSE_CTL", .block, 4, 0, 1, 32, 0x10000c0, 0xfff03ff, 0, 0, 0, 0, 0⟩,
  ⟨"BLK_PWR_CTL", .block, 8, 0, 1, 32, 0x400, 0x3fff, 0, 0, 0, 0, 0⟩,
  ⟨"BLK_RINSE_STAT", .block, 0x10, 0, 1, 64, 0, 0, 0xffffffffffffff, 0, 0, 0, 0⟩,
  ⟨"BLK_PWR_STAT", .block, 0x18, 0, 1, 64, 0, 0, 0xffffffffffff0000, 0, 0, 0, 0⟩,
  ⟨"BLK_FAULT_STAT", .block, 0x20, 0, 1, 64, 0, 0, 0, 0, 0, 0, 0⟩]

/-- Every register of a block. -/
def blockRegs : List RegRow := blockRegs0

/-- Registers of a region, part 0. -/
def regionRegs0 : List RegRow := [
  ⟨"RGN_FAULT_CTL", .region, 0, 0, 1, 32, 0x2864, 0x3fffff, 0, 0, 0, 0, 0⟩,
  ⟨"RGN_PWR_STAT", .region, 8, 0, 1, 64, 0, 0, 0xffffffff0000, 0, 0, 0, 0⟩,
  ⟨"RGN_FLIP_STAT", .region, 0x10, 0, 1, 64, 0, 0, 0, 0, 0, 0, 0⟩]

/-- Every register of a region. -/
def regionRegs : List RegRow := regionRegs0

/-- Registers of a link, part 0. -/
def linkRegs0 : List RegRow := [
  ⟨"LNK_CTL", .link, 0, 0, 1, 32, 0, 0xf13fb, 0, 0, 0xc04, 0, 0⟩,
  ⟨"LNK_TMR", .link, 4, 0, 1, 32, 0x407d2040, 0xffffffff, 0, 0, 0, 0, 0⟩,
  ⟨"LNK_STAT", .link, 8, 0, 1, 64, 0x30, 0, 0xffffffff00000000, 0, 0, 0, 0⟩,
  ⟨"LNK_LAT", .link, 0x10, 0, 1, 32, 0, 0, 0, 0, 0, 0, 0⟩,
  ⟨"LNK_PRBS_CTL", .link, 0x14, 0, 1, 32, 3, 0x1f, 0, 0, 0, 0, 0⟩,
  ⟨"LNK_LANE", .link, 0x18, 4, 2, 32, 0xfbe0000, 0, 0, 0, 0, 0, 0⟩,
  ⟨"LNK_FRM_CNT", .link, 0x20, 0, 1, 64, 0, 0, 0xffffffffffffffff, 0, 0, 0, 0⟩,
  ⟨"LNK_SCHED", .link, 0x28, 0, 1, 32, 0, 0x3ff, 0xffff0000, 0, 0, 0, 0⟩,
  ⟨"LNK_SPILL", .link, 0x2c, 0, 1, 32, 0, 0, 0xffff, 0, 0, 0, 0⟩,
  ⟨"LNK_RILL", .link, 0x30, 0, 1, 64, 0, 0, 0xffffffffffffffff, 0, 0, 0, 0⟩,
  ⟨"LNK_TIME", .link, 0x38, 0, 1, 64, 0, 0, 0xffffffff00000000, 0, 0, 0, 0⟩,
  ⟨"LNK_LANE_ERR", .link, 0x100, 4, 34, 32, 0, 0, 0xffffff, 0, 0, 0, 0⟩]

/-- Registers of a link, part 1. -/
def linkRegs1 : List RegRow := [
  ⟨"LNK_EQ", .link, 0x200, 4, 34, 32, 0x800, 0, 0, 0, 0, 0, 0⟩,
  ⟨"LNK_PRBS_CNT", .link, 0x400, 8, 34, 64, 0, 0, 0x7fffffffffffffff, 0, 0, 0, 0⟩]

/-- Every register of a link. -/
def linkRegs : List RegRow := linkRegs0 ++ linkRegs1

/-- Registers of a gateway, part 0. -/
def gatewayRegs0 : List RegRow := [
  ⟨"CHP_MGW_STAT", .gateway, 0, 0, 1, 64, 0, 0, 0xffffffffffffffff, 0, 0, 0, 0⟩,
  ⟨"CHP_MGW_SPILL", .gateway, 8, 0, 1, 32, 0, 0, 0xffff, 0, 0, 0, 0⟩,
  ⟨"CHP_MGW_STREAM", .gateway, 0x200, 8, 64, 64, 0x1000000000040, 0xfffffffffff1f3, 0, 0, 0, 0, 0⟩,
  ⟨"CHP_MGW_WIN_A", .gateway, 0x400, 8, 64, 64, 0, 0xffffffffffffffe7, 0, 0, 0, 0, 0⟩,
  ⟨"CHP_MGW_WIN_B", .gateway, 0x600, 8, 64, 64, 0, 0xfffffffff0, 0, 0, 0, 0, 0⟩]

/-- Every register of a gateway. -/
def gatewayRegs : List RegRow := gatewayRegs0

/-- Registers of a chip, part 0. -/
def chipRegs0 : List RegRow := [
  ⟨"CHP_GEOMETRY", .chip, 0, 0, 1, 32, 0x3d306060, 0, 0, 0, 0, 0, 0⟩,
  ⟨"CHP_CHIP_ID", .chip, 4, 0, 1, 32, 0, 0x1fff1fff, 0, 0, 0, 0, 0⟩,
  ⟨"CHP_BRINGUP", .chip, 8, 0, 1, 64, 0xffff00000000, 0, 0, 0, 0, 0, 0⟩,
  ⟨"CHP_TIME", .chip, 0x10, 0, 1, 64, 0, 0, 0, 0, 0, 0, 0⟩,
  ⟨"CHP_TIME_CTL", .chip, 0x18, 0, 1, 32, 0xa40640, 0xffffff3, 0, 0, 0, 0, 0⟩,
  ⟨"CHP_RILL_CTL", .chip, 0x1c, 0, 1, 32, 0x440, 0xfff, 0, 0, 0, 0, 0⟩,
  ⟨"CHP_TIME_STAT", .chip, 0x20, 0, 1, 64, 0x1f8, 0, 0xffffffff00000000, 0, 0, 0, 0⟩,
  ⟨"CHP_SCHED_CTL", .chip, 0x28, 0, 1, 32, 0x8002000, 0xfffffff, 0, 0, 0, 0, 0⟩,
  ⟨"CHP_SCHED_STAT", .chip, 0x2c, 0, 1, 32, 0, 0, 0, 0, 0, 0, 0⟩,
  ⟨"CHP_PWR_STAT", .chip, 0x30, 0, 1, 64, 0, 0, 0xffff000000000, 0, 0, 0, 0⟩,
  ⟨"CHP_INTEG", .chip, 0x38, 0, 1, 64, 0, 0, 0, 0, 0, 0, 0⟩,
  ⟨"CHP_HOST_STAT", .chip, 0x40, 0, 1, 64, 0, 0, 0xffffffff, 0, 0, 0, 0⟩,
  ⟨"CHP_INTEG_B", .chip, 0x48, 0, 1, 32, 0, 0, 0, 0, 0, 0, 0⟩]

/-- Registers of a chip, part 1. -/
def chipRegs1 : List RegRow := [
  ⟨"CHP_RILL_CTX", .chip, 0x100, 8, 16, 64, 0x190000000, 0x3fffffffff, 0, 0, 0, 0, 0⟩,
  ⟨"CHP_SPILL_CLASS", .chip, 0x200, 8, 16, 64, 0, 0xffffffffffffffff, 0, 0, 0, 0, 0⟩,
  ⟨"CHP_SPILL_MAP", .chip, 0x280, 4, 32, 32, 0, 0xffffffff, 0, 0, 0, 0, 0⟩,
  ⟨"MBX_DB", .chip, 0x10400, 0, 1, 32, 0, 0, 0, 0, 0, 0, 0⟩,
  ⟨"MBX_STAT", .chip, 0x10404, 0, 1, 32, 0, 0, 0, 0, 0, 0, 0⟩,
  ⟨"MBX_BOOT_CTL", .chip, 0x10408, 0, 1, 32, 0, 0, 0, 0, 0, 0, 0⟩,
  ⟨"MBX_BOOT_STAT", .chip, 0x1040c, 0, 1, 32, 0, 0, 0, 0, 0, 0, 0⟩,
  ⟨"MBX_KEY_STAT", .chip, 0x10410, 0, 1, 64, 0, 0, 0, 0, 0, 0, 0⟩,
  ⟨"MBX_NONCE", .chip, 0x10418, 0, 1, 64, 0, 0, 0, 0, 0, 0, 0⟩,
  ⟨"MBX_EVT_STAT", .chip, 0x10420, 0, 1, 64, 0, 0, 0xffffffff00000000, 0, 0, 0, 0⟩,
  ⟨"MBX_EVT_CI", .chip, 0x10428, 0, 1, 32, 0, 0, 0, 0, 0, 0, 0⟩,
  ⟨"MBX_MEVT_STAT", .chip, 0x10430, 0, 1, 64, 0, 0, 0, 0, 0, 0, 0⟩]

/-- Registers of a chip, part 2. -/
def chipRegs2 : List RegRow := [
  ⟨"MBX_MEVT_CI", .chip, 0x10438, 0, 1, 32, 0, 0, 0, 0, 0, 0, 0⟩]

/-- Every register of a chip. -/
def chipRegs : List RegRow := chipRegs0 ++ chipRegs1 ++ chipRegs2

/-! ## Fields, by the names of the register tables -/

/-! CELL_RT_CTL (R94) -/
def CELL_RT_CTL_ver0_state : Field := ⟨0, 0, 0, 2⟩
def CELL_RT_CTL_ver1_state : Field := ⟨0, 0, 2, 2⟩
def CELL_RT_CTL_ver0_detour : Field := ⟨0, 0, 4, 1⟩
def CELL_RT_CTL_ver1_detour : Field := ⟨0, 0, 5, 1⟩
def CELL_RT_CTL_rot_ptr : Field := ⟨0, 0, 6, 2⟩
def CELL_RT_CTL_own_cell : Field := ⟨0, 0, 16, 14⟩
/-! CELL_RT_PARAM (R95) -/
def CELL_RT_PARAM_cmark_age : Field := ⟨4, 0, 0, 7⟩
def CELL_RT_PARAM_cmark_rate : Field := ⟨4, 0, 8, 8⟩
def CELL_RT_PARAM_golden_shift : Field := ⟨4, 0, 16, 4⟩
def CELL_RT_PARAM_wake_retry : Field := ⟨4, 0, 24, 8⟩
/-! CELL_DEFL_CNT_REQ (R98) -/
def CELL_DEFL_CNT_REQ_deflected : Field := ⟨8, 0, 0, 16⟩
def CELL_DEFL_CNT_REQ_noroute : Field := ⟨8, 0, 16, 16⟩
def CELL_DEFL_CNT_REQ_restamped : Field := ⟨8, 0, 32, 16⟩
def CELL_DEFL_CNT_REQ_stale : Field := ⟨8, 0, 48, 16⟩
/-! CELL_DEFL_CNT_REP (R98) -/
def CELL_DEFL_CNT_REP_deflected : Field := ⟨0x10, 0, 0, 16⟩
def CELL_DEFL_CNT_REP_noroute : Field := ⟨0x10, 0, 16, 16⟩
def CELL_DEFL_CNT_REP_restamped : Field := ⟨0x10, 0, 32, 16⟩
def CELL_DEFL_CNT_REP_stale : Field := ⟨0x10, 0, 48, 16⟩
/-! CELL_EVENT_CNT (R99) -/
def CELL_EVENT_CNT_wake_req : Field := ⟨0x18, 0, 0, 16⟩
def CELL_EVENT_CNT_answer_drop : Field := ⟨0x18, 0, 16, 16⟩
def CELL_EVENT_CNT_unattrib : Field := ⟨0x18, 0, 32, 16⟩
def CELL_EVENT_CNT_saturated : Field := ⟨0x18, 0, 48, 16⟩
/-! CELL_EPOCH_TALLY0 (R100) -/
def CELL_EPOCH_TALLY0_entered : Field := ⟨0x20, 0, 0, 32⟩
def CELL_EPOCH_TALLY0_left : Field := ⟨0x20, 0, 32, 32⟩
/-! CELL_EPOCH_TALLY1 (R100) -/
def CELL_EPOCH_TALLY1_entered : Field := ⟨0x28, 0, 0, 32⟩
def CELL_EPOCH_TALLY1_left : Field := ⟨0x28, 0, 32, 32⟩
/-! CELL_SCHED_CNT (R127) -/
def CELL_SCHED_CNT_outside_slot : Field := ⟨0x30, 0, 0, 16⟩
def CELL_SCHED_CNT_wrong_input : Field := ⟨0x30, 0, 16, 16⟩
def CELL_SCHED_CNT_empty_slot : Field := ⟨0x30, 0, 32, 16⟩
def CELL_SCHED_CNT_blocked : Field := ⟨0x30, 0, 48, 16⟩
/-! CELL_CASC_CNT (R237) -/
def CELL_CASC_CNT_copies : Field := ⟨0x38, 0, 0, 16⟩
def CELL_CASC_CNT_rerooted : Field := ⟨0x38, 0, 16, 16⟩
def CELL_CASC_CNT_branch_lost : Field := ⟨0x38, 0, 32, 16⟩
def CELL_CASC_CNT_miss : Field := ⟨0x38, 0, 48, 16⟩
/-! CELL_CASC_WATCH (R238) -/
def CELL_CASC_WATCH_tree : Field := ⟨0x40, 0, 0, 12⟩
def CELL_CASC_WATCH_enable : Field := ⟨0x40, 0, 12, 1⟩
def CELL_CASC_WATCH_seen : Field := ⟨0x40, 0, 32, 32⟩
/-! CELL_RILL_CNT (R289) -/
def CELL_RILL_CNT_corr : Field := ⟨0x48, 0, 0, 16⟩
def CELL_RILL_CNT_uncorr : Field := ⟨0x48, 0, 16, 16⟩
def CELL_RILL_CNT_gen_err : Field := ⟨0x48, 0, 32, 16⟩
def CELL_RILL_CNT_malformed : Field := ⟨0x48, 0, 48, 16⟩
/-! CELL_ERR_CNT (R322) -/
def CELL_ERR_CNT_corr : Field := ⟨0x50, 0, 0, 16⟩
def CELL_ERR_CNT_uncorr : Field := ⟨0x50, 0, 16, 16⟩
def CELL_ERR_CNT_sluice_drop : Field := ⟨0x50, 0, 32, 16⟩
def CELL_ERR_CNT_rinse_fail : Field := ⟨0x50, 0, 48, 16⟩
/-! CELL_SPRAY_CTL (R487) -/
def CELL_SPRAY_CTL_enable : Field := ⟨0x58, 0, 0, 1⟩
def CELL_SPRAY_CTL_plane : Field := ⟨0x58, 0, 1, 2⟩
def CELL_SPRAY_CTL_port : Field := ⟨0x58, 0, 3, 3⟩
def CELL_SPRAY_CTL_input : Field := ⟨0x58, 0, 6, 1⟩
def CELL_SPRAY_CTL_spray_log2 : Field := ⟨0x58, 0, 7, 4⟩
def CELL_SPRAY_CTL_collector : Field := ⟨0x58, 0, 11, 14⟩
def CELL_SPRAY_CTL_type_mask : Field := ⟨0x58, 0, 25, 16⟩
/-! CELL_FAULT (R323) -/
def CELL_FAULT_port_fault : Field := ⟨0x60, 0, 0, 4⟩
def CELL_FAULT_ni_fault : Field := ⟨0x60, 0, 4, 1⟩
def CELL_FAULT_rill_fault : Field := ⟨0x60, 0, 5, 4⟩
def CELL_FAULT_combine_fault : Field := ⟨0x60, 0, 9, 1⟩
def CELL_FAULT_parity_fault : Field := ⟨0x60, 0, 10, 1⟩
def CELL_FAULT_sluice : Field := ⟨0x60, 0, 16, 4⟩
def CELL_FAULT_sluice_cell : Field := ⟨0x60, 0, 20, 4⟩
def CELL_FAULT_fenced : Field := ⟨0x60, 0, 24, 1⟩
def CELL_FAULT_test : Field := ⟨0x60, 0, 25, 1⟩
def CELL_FAULT_rill_closed : Field := ⟨0x60, 0, 28, 4⟩
/-! CELL_LINK_CFG (R513) -/
def CELL_LINK_CFG_retime : Field := ⟨0x64, 0, 0, 8⟩
def CELL_LINK_CFG_stitch : Field := ⟨0x64, 0, 8, 4⟩
def CELL_LINK_CFG_region_cross : Field := ⟨0x64, 0, 12, 4⟩
def CELL_LINK_CFG_edge_kind : Field := ⟨0x64, 0, 16, 2⟩
/-! CELL_OBS_CNT (R488) -/
def CELL_OBS_CNT_sampled : Field := ⟨0x68, 0, 0, 16⟩
def CELL_OBS_CNT_sample_lost : Field := ⟨0x68, 0, 16, 16⟩
def CELL_OBS_CNT_tel_capped : Field := ⟨0x68, 0, 32, 16⟩
/-! CELL_SNAP_STAT (R493) -/
def CELL_SNAP_STAT_valid : Field := ⟨0x70, 0, 0, 1⟩
def CELL_SNAP_STAT_late : Field := ⟨0x70, 0, 1, 1⟩
def CELL_SNAP_STAT_ecc_err : Field := ⟨0x70, 0, 2, 1⟩
def CELL_SNAP_STAT_t_ncyc : Field := ⟨0x70, 0, 8, 56⟩
/-! CELL_RILL_TREE (R290) -/
def CELL_RILL_TREE_expect : Field := ⟨0x80, 4, 0, 6⟩
def CELL_RILL_TREE_up_port : Field := ⟨0x80, 4, 6, 3⟩
def CELL_RILL_TREE_local_m1 : Field := ⟨0x80, 4, 9, 5⟩
def CELL_RILL_TREE_generation : Field := ⟨0x80, 4, 14, 10⟩
def CELL_RILL_TREE_arrived_local : Field := ⟨0x80, 4, 24, 1⟩
/-! CELL_RILL_BAL (R334) -/
def CELL_RILL_BAL_flits_sent : Field := ⟨0xc0, 8, 0, 12⟩
def CELL_RILL_BAL_credits_recv : Field := ⟨0xc0, 8, 12, 12⟩
def CELL_RILL_BAL_flits_recv : Field := ⟨0xc0, 8, 24, 12⟩
def CELL_RILL_BAL_credits_sent : Field := ⟨0xc0, 8, 36, 12⟩
def CELL_RILL_BAL_cred : Field := ⟨0xc0, 8, 48, 6⟩
def CELL_RILL_BAL_occ : Field := ⟨0xc0, 8, 54, 6⟩
/-! NI_OWNER (R515) -/
def NI_OWNER_parterre : Field := ⟨0x4000, 0, 0, 8⟩
def NI_OWNER_in_reset : Field := ⟨0x4000, 0, 8, 1⟩
def NI_OWNER_fenced : Field := ⟨0x4000, 0, 9, 1⟩
/-! NI_INJ_CTL (R96) -/
def NI_INJ_CTL_inj_epoch : Field := ⟨0x4004, 0, 0, 1⟩
def NI_INJ_CTL_patience : Field := ⟨0x4004, 0, 8, 8⟩
/-! NI_RX_CHECK (R51) -/
def NI_RX_CHECK_crc_err : Field := ⟨0x4008, 0, 0, 16⟩
def NI_RX_CHECK_misdelivered : Field := ⟨0x4008, 0, 16, 16⟩
def NI_RX_CHECK_malformed : Field := ⟨0x4008, 0, 32, 16⟩
def NI_RX_CHECK_reset_refused : Field := ⟨0x4008, 0, 48, 16⟩
/-! NI_INJ_CNT (R97) -/
def NI_INJ_CNT_wait_ncyc : Field := ⟨0x4010, 0, 0, 32⟩
def NI_INJ_CNT_forced : Field := ⟨0x4010, 0, 32, 16⟩
/-! NI_SCHED_CTL (R128) -/
def NI_SCHED_CTL_lead : Field := ⟨0x4018, 0, 0, 16⟩
def NI_SCHED_CTL_slip_event : Field := ⟨0x4018, 0, 16, 1⟩
/-! NI_TOK_CTL (R165) -/
def NI_TOK_CTL_retx_us : Field := ⟨0x401c, 0, 0, 8⟩
def NI_TOK_CTL_abandon_us : Field := ⟨0x401c, 0, 8, 12⟩
/-! NI_SCHED_STAT (R129) -/
def NI_SCHED_STAT_slipped_pkts : Field := ⟨0x4020, 0, 0, 16⟩
def NI_SCHED_STAT_slip_events : Field := ⟨0x4020, 0, 16, 8⟩
def NI_SCHED_STAT_last_stream : Field := ⟨0x4020, 0, 24, 6⟩
def NI_SCHED_STAT_rx_discard : Field := ⟨0x4020, 0, 32, 16⟩
def NI_SCHED_STAT_last_tag : Field := ⟨0x4020, 0, 48, 16⟩
/-! NI_CHAN_BASE (R163) -/
def NI_CHAN_BASE_base : Field := ⟨0x4028, 0, 18, 30⟩
/-! NI_RX_CTL (R165) -/
def NI_RX_CTL_gap_us : Field := ⟨0x4030, 0, 0, 12⟩
/-! NI_BULK_CTL (R193) -/
def NI_BULK_CTL_desc_timeout_us : Field := ⟨0x4034, 0, 0, 12⟩
def NI_BULK_CTL_flush_ncyc : Field := ⟨0x4034, 0, 12, 12⟩
/-! NI_TOK_STAT (R166) -/
def NI_TOK_STAT_open : Field := ⟨0x4038, 0, 0, 9⟩
def NI_TOK_STAT_bad_reason : Field := ⟨0x4038, 0, 9, 7⟩
def NI_TOK_STAT_abandoned : Field := ⟨0x4038, 0, 16, 16⟩
def NI_TOK_STAT_stale_reply : Field := ⟨0x4038, 0, 32, 16⟩
def NI_TOK_STAT_go_stall : Field := ⟨0x4038, 0, 48, 16⟩
/-! NI_MSG_STAT (R166) -/
def NI_MSG_STAT_skipped : Field := ⟨0x4040, 0, 0, 16⟩
def NI_MSG_STAT_dup_discard : Field := ⟨0x4040, 0, 16, 16⟩
def NI_MSG_STAT_storms : Field := ⟨0x4040, 0, 32, 8⟩
def NI_MSG_STAT_rec_lost : Field := ⟨0x4040, 0, 40, 8⟩
def NI_MSG_STAT_dispatch_lost : Field := ⟨0x4040, 0, 48, 8⟩
def NI_MSG_STAT_q_corr : Field := ⟨0x4040, 0, 56, 8⟩
/-! NI_BULK_STAT (R193) -/
def NI_BULK_STAT_window_fault : Field := ⟨0x4048, 0, 0, 16⟩
def NI_BULK_STAT_desc_failed : Field := ⟨0x4048, 0, 16, 16⟩
def NI_BULK_STAT_stray_reply : Field := ⟨0x4048, 0, 32, 16⟩
def NI_BULK_STAT_pi_refused : Field := ⟨0x4048, 0, 48, 16⟩
/-! NI_WFQ_CTL (R208) -/
def NI_WFQ_CTL_slip_weight : Field := ⟨0x4050, 0, 0, 8⟩
def NI_WFQ_CTL_slip_rate : Field := ⟨0x4050, 0, 16, 16⟩
def NI_WFQ_CTL_slip_burst : Field := ⟨0x4050, 0, 32, 16⟩
/-! NI_WFQ_STAT (R209) -/
def NI_WFQ_STAT_vtime_req : Field := ⟨0x4058, 0, 0, 32⟩
def NI_WFQ_STAT_vtime_rep : Field := ⟨0x4058, 0, 32, 32⟩
/-! NI_CC_CTL (R211) -/
def NI_CC_CTL_rec_step : Field := ⟨0x4060, 0, 0, 16⟩
def NI_CC_CTL_m_floor : Field := ⟨0x4060, 0, 16, 16⟩
def NI_CC_CTL_cut_gap : Field := ⟨0x4060, 0, 32, 8⟩
def NI_CC_CTL_cc_en : Field := ⟨0x4060, 0, 40, 1⟩
/-! NI_SHAPE_STAT (R212) -/
def NI_SHAPE_STAT_cuts : Field := ⟨0x4068, 0, 0, 16⟩
def NI_SHAPE_STAT_echoes : Field := ⟨0x4068, 0, 16, 16⟩
def NI_SHAPE_STAT_weir_idle : Field := ⟨0x4068, 0, 32, 16⟩
def NI_SHAPE_STAT_rd_refused : Field := ⟨0x4068, 0, 48, 16⟩
/-! NI_SPILL (R214) -/
def NI_SPILL_credit : Field := ⟨0x4070, 0, 0, 32⟩
def NI_SPILL_class : Field := ⟨0x4070, 0, 32, 4⟩
def NI_SPILL_policed : Field := ⟨0x4070, 0, 48, 16⟩
/-! NI_LAT_CTL (R215) -/
def NI_LAT_CTL_mode : Field := ⟨0x4078, 0, 0, 2⟩
def NI_LAT_CTL_sample_log2 : Field := ⟨0x4078, 0, 8, 4⟩
/-! NI_FOUNT_CTL (R239) -/
def NI_FOUNT_CTL_fount_patience : Field := ⟨0x407c, 0, 0, 8⟩
/-! NI_FOUNT_STAT (R240) -/
def NI_FOUNT_STAT_occupancy : Field := ⟨0x4080, 0, 0, 4⟩
def NI_FOUNT_STAT_residues : Field := ⟨0x4080, 0, 16, 16⟩
def NI_FOUNT_STAT_forced : Field := ⟨0x4080, 0, 32, 16⟩
def NI_FOUNT_STAT_lost_resid : Field := ⟨0x4080, 0, 48, 16⟩
/-! NI_MC_STAT (R242) -/
def NI_MC_STAT_mc_unclaimed : Field := ⟨0x4088, 0, 0, 16⟩
def NI_MC_STAT_mc_overrun : Field := ⟨0x4088, 0, 16, 16⟩
def NI_MC_STAT_mc_window : Field := ⟨0x4088, 0, 32, 16⟩
def NI_MC_STAT_mc_excess : Field := ⟨0x4088, 0, 48, 16⟩
/-! NI_RED_STAT (R270) -/
def NI_RED_STAT_red_unknown : Field := ⟨0x4090, 0, 0, 16⟩
def NI_RED_STAT_red_rejected : Field := ⟨0x4090, 0, 16, 16⟩
def NI_RED_STAT_red_overrun : Field := ⟨0x4090, 0, 32, 16⟩
def NI_RED_STAT_res_unclaimed : Field := ⟨0x4090, 0, 48, 16⟩
/-! NI_RED_HOLD (R272) -/
def NI_RED_HOLD_held_valid : Field := ⟨0x4098, 0, 0, 1⟩
def NI_RED_HOLD_tree_idx : Field := ⟨0x4098, 0, 1, 4⟩
def NI_RED_HOLD_sequence : Field := ⟨0x4098, 0, 5, 12⟩
def NI_RED_HOLD_shadow_fail : Field := ⟨0x4098, 0, 17, 1⟩
def NI_RED_HOLD_count_fail : Field := ⟨0x4098, 0, 18, 1⟩
def NI_RED_HOLD_shadow_diff : Field := ⟨0x4098, 0, 32, 32⟩
/-! NI_RILL_STAT (R293) -/
def NI_RILL_STAT_cmsg_sent : Field := ⟨0x40a0, 0, 0, 16⟩
def NI_RILL_STAT_cmsg_rcvd : Field := ⟨0x40a0, 0, 16, 16⟩
def NI_RILL_STAT_cnack_rcvd : Field := ⟨0x40a0, 0, 32, 16⟩
def NI_RILL_STAT_inbox_drop : Field := ⟨0x40a0, 0, 48, 16⟩
/-! NI_MAP_CTL (R328) -/
def NI_MAP_CTL_inval_lid : Field := ⟨0x40a8, 0, 0, 14⟩
def NI_MAP_CTL_inval_one : Field := ⟨0x40a8, 0, 14, 1⟩
def NI_MAP_CTL_inval_all : Field := ⟨0x40a8, 0, 15, 1⟩
def NI_MAP_CTL_misses : Field := ⟨0x40a8, 0, 16, 16⟩
/-! NI_TAG_CTL (R492) -/
def NI_TAG_CTL_enable : Field := ⟨0x40ac, 0, 0, 4⟩
/-! NI_TEL_RING (R489) -/
def NI_TEL_RING_enable : Field := ⟨0x40b0, 0, 0, 1⟩
def NI_TEL_RING_size_log2 : Field := ⟨0x40b0, 0, 1, 5⟩
def NI_TEL_RING_base : Field := ⟨0x40b0, 0, 12, 36⟩
/-! NI_PCS_RING (R489) -/
def NI_PCS_RING_enable : Field := ⟨0x40b8, 0, 0, 1⟩
def NI_PCS_RING_size_log2 : Field := ⟨0x40b8, 0, 1, 5⟩
def NI_PCS_RING_base : Field := ⟨0x40b8, 0, 12, 36⟩
/-! NI_TEL_STAT (R490) -/
def NI_TEL_STAT_written : Field := ⟨0x40c0, 0, 0, 32⟩
def NI_TEL_STAT_tel_unclaimed : Field := ⟨0x40c0, 0, 32, 16⟩
/-! NI_PCS_STAT (R490) -/
def NI_PCS_STAT_written : Field := ⟨0x40c8, 0, 0, 32⟩
def NI_PCS_STAT_no_answer : Field := ⟨0x40c8, 0, 32, 16⟩
/-! NI_PCS_CTL (R491) -/
def NI_PCS_CTL_enable : Field := ⟨0x40d0, 0, 0, 1⟩
def NI_PCS_CTL_pc_log2 : Field := ⟨0x40d0, 0, 1, 5⟩
def NI_PCS_CTL_core_mask : Field := ⟨0x40d0, 0, 32, 32⟩
/-! NI_BAL_TOK (R329) -/
def NI_BAL_TOK_alloc : Field := ⟨0x40d8, 0, 0, 32⟩
def NI_BAL_TOK_closed : Field := ⟨0x40d8, 0, 32, 32⟩
/-! NI_BAL_TOK2 (R329) -/
def NI_BAL_TOK2_withdrawn : Field := ⟨0x40e0, 0, 0, 9⟩
def NI_BAL_TOK2_reset_closed : Field := ⟨0x40e0, 0, 16, 16⟩
/-! NI_BAL_COMB (R332) -/
def NI_BAL_COMB_free : Field := ⟨0x40e4, 0, 0, 7⟩
def NI_BAL_COMB_reserved_slots : Field := ⟨0x40e4, 0, 7, 7⟩
/-! NI_BAL_QUE (R330) -/
def NI_BAL_QUE_free : Field := ⟨0x40e8, 0, 0, 11⟩
def NI_BAL_QUE_taken : Field := ⟨0x40e8, 0, 11, 11⟩
def NI_BAL_QUE_pop_empty : Field := ⟨0x40e8, 0, 32, 16⟩
def NI_BAL_QUE_rel_refused : Field := ⟨0x40e8, 0, 48, 16⟩
/-! NI_BAL_QUE2 (R330) -/
def NI_BAL_QUE2_take_total : Field := ⟨0x40f0, 0, 0, 32⟩
def NI_BAL_QUE2_return_total : Field := ⟨0x40f0, 0, 32, 32⟩
/-! NI_BAL_ROB (R331) -/
def NI_BAL_ROB_free : Field := ⟨0x40f8, 0, 0, 10⟩
def NI_BAL_ROB_held : Field := ⟨0x40f8, 0, 10, 10⟩
def NI_BAL_ROB_taken : Field := ⟨0x40f8, 0, 32, 16⟩
def NI_BAL_ROB_freed : Field := ⟨0x40f8, 0, 48, 16⟩
/-! NI_BAL_FOUNT (R332) -/
def NI_BAL_FOUNT_taken : Field := ⟨0x4100, 0, 0, 16⟩
def NI_BAL_FOUNT_freed : Field := ⟨0x4100, 0, 16, 16⟩
/-! NI_TAG_SEL (R492) -/
def NI_TAG_SEL_tag : Field := ⟨0x4120, 8, 0, 32⟩
def NI_TAG_SEL_mask : Field := ⟨0x4120, 8, 32, 32⟩
/-! NI_TAG_CNT (R492) -/
def NI_TAG_CNT_tx : Field := ⟨0x4140, 8, 0, 32⟩
def NI_TAG_CNT_rx : Field := ⟨0x4140, 8, 32, 32⟩
/-! NI_RING_WEIR (R210) -/
def NI_RING_WEIR_rate : Field := ⟨0x4180, 8, 0, 16⟩
def NI_RING_WEIR_burst : Field := ⟨0x4180, 8, 16, 16⟩
def NI_RING_WEIR_cc_mult : Field := ⟨0x4180, 8, 32, 16⟩
def NI_RING_WEIR_cut_skip : Field := ⟨0x4180, 8, 48, 8⟩
/-! NI_Q_CFG (R164) -/
def NI_Q_CFG_q_min : Field := ⟨0x4200, 8, 0, 11⟩
def NI_Q_CFG_q_max : Field := ⟨0x4200, 8, 12, 11⟩
def NI_Q_CFG_wait_limit : Field := ⟨0x4200, 8, 24, 16⟩
def NI_Q_CFG_stale_time : Field := ⟨0x4200, 8, 40, 12⟩
/-! NI_Q_RING (R164) -/
def NI_Q_RING_base : Field := ⟨0x4400, 8, 12, 36⟩
def NI_Q_RING_size_4k : Field := ⟨0x4400, 8, 48, 13⟩
/-! NI_QLAT_S (R215) -/
def NI_QLAT_S_samples : Field := ⟨0x4600, 8, 0, 16⟩
def NI_QLAT_S_depth_sum : Field := ⟨0x4600, 8, 16, 24⟩
def NI_QLAT_S_delay_sum : Field := ⟨0x4600, 8, 40, 24⟩
/-! NI_QLAT_H (R215) -/
def NI_QLAT_H_depth_hw : Field := ⟨0x4800, 8, 0, 11⟩
def NI_QLAT_H_delay_hw : Field := ⟨0x4800, 8, 32, 32⟩
/-! NI_DRING (R188) -/
def NI_DRING_enable : Field := ⟨0x4a00, 8, 0, 1⟩
def NI_DRING_notify_en : Field := ⟨0x4a00, 8, 1, 1⟩
def NI_DRING_size_log2 : Field := ⟨0x4a00, 8, 4, 5⟩
def NI_DRING_base : Field := ⟨0x4a00, 8, 12, 36⟩
def NI_DRING_weight : Field := ⟨0x4a00, 8, 48, 8⟩
/-! NI_WIN_A (R190) -/
def NI_WIN_A_valid : Field := ⟨0x4c80, 8, 0, 1⟩
def NI_WIN_A_rd : Field := ⟨0x4c80, 8, 1, 1⟩
def NI_WIN_A_wr : Field := ⟨0x4c80, 8, 2, 1⟩
def NI_WIN_A_parterre : Field := ⟨0x4c80, 8, 8, 8⟩
def NI_WIN_A_base : Field := ⟨0x4c80, 8, 16, 24⟩
def NI_WIN_A_count_m1 : Field := ⟨0x4c80, 8, 40, 24⟩
/-! NI_WIN_B (R190) -/
def NI_WIN_B_addr : Field := ⟨0x4d00, 8, 4, 44⟩
/-! NI_WIN_TAG (R190) -/
def NI_WIN_TAG_tag : Field := ⟨0x4d80, 4, 0, 32⟩
/-! NI_MC_LAND (R241) -/
def NI_MC_LAND_valid : Field := ⟨0x4e00, 8, 0, 1⟩
def NI_MC_LAND_sched_valid : Field := ⟨0x4e00, 8, 1, 1⟩
def NI_MC_LAND_dyn_valid : Field := ⟨0x4e00, 8, 2, 1⟩
def NI_MC_LAND_notify : Field := ⟨0x4e00, 8, 3, 1⟩
def NI_MC_LAND_sched_tree : Field := ⟨0x4e00, 8, 4, 12⟩
def NI_MC_LAND_dyn_tree : Field := ⟨0x4e00, 8, 16, 12⟩
def NI_MC_LAND_base : Field := ⟨0x4e00, 8, 32, 24⟩
def NI_MC_LAND_parterre : Field := ⟨0x4e00, 8, 56, 8⟩
/-! NI_RED_LAND (R269) -/
def NI_RED_LAND_valid : Field := ⟨0x4e80, 8, 0, 1⟩
def NI_RED_LAND_notify : Field := ⟨0x4e80, 8, 1, 1⟩
def NI_RED_LAND_tree : Field := ⟨0x4e80, 8, 4, 12⟩
def NI_RED_LAND_base : Field := ⟨0x4e80, 8, 16, 24⟩
def NI_RED_LAND_parterre : Field := ⟨0x4e80, 8, 40, 8⟩
/-! NI_RED_TREE_A (R267) -/
def NI_RED_TREE_A_valid : Field := ⟨0x4f00, 8, 0, 1⟩
def NI_RED_TREE_A_role : Field := ⟨0x4f00, 8, 1, 2⟩
def NI_RED_TREE_A_op : Field := ⟨0x4f00, 8, 3, 2⟩
def NI_RED_TREE_A_format : Field := ⟨0x4f00, 8, 5, 4⟩
def NI_RED_TREE_A_tree : Field := ⟨0x4f00, 8, 9, 12⟩
def NI_RED_TREE_A_slot_base : Field := ⟨0x4f00, 8, 21, 6⟩
def NI_RED_TREE_A_slot_cnt_m1 : Field := ⟨0x4f00, 8, 27, 6⟩
def NI_RED_TREE_A_children : Field := ⟨0x4f00, 8, 33, 3⟩
def NI_RED_TREE_A_prec : Field := ⟨0x4f00, 8, 36, 5⟩
def NI_RED_TREE_A_shadow_k : Field := ⟨0x4f00, 8, 41, 8⟩
def NI_RED_TREE_A_parterre : Field := ⟨0x4f00, 8, 49, 8⟩
def NI_RED_TREE_A_local : Field := ⟨0x4f00, 8, 57, 1⟩
/-! NI_RED_TREE_B (R267) -/
def NI_RED_TREE_B_up_ep : Field := ⟨0x4f80, 8, 0, 27⟩
def NI_RED_TREE_B_up_tree : Field := ⟨0x4f80, 8, 27, 12⟩
def NI_RED_TREE_B_expected : Field := ⟨0x4f80, 8, 39, 21⟩
/-! NI_RED_TREE_C (R267) -/
def NI_RED_TREE_C_tag : Field := ⟨0x5000, 8, 0, 32⟩
def NI_RED_TREE_C_timeout_us : Field := ⟨0x5000, 8, 32, 12⟩
def NI_RED_TREE_C_hold_us : Field := ⟨0x5000, 8, 44, 12⟩
/-! NI_RED_TSTAT (R271) -/
def NI_RED_TSTAT_saturated : Field := ⟨0x5080, 8, 0, 16⟩
def NI_RED_TSTAT_poisoned : Field := ⟨0x5080, 8, 16, 16⟩
def NI_RED_TSTAT_escalated : Field := ⟨0x5080, 8, 32, 12⟩
def NI_RED_TSTAT_timeouts : Field := ⟨0x5080, 8, 44, 8⟩
def NI_RED_TSTAT_held : Field := ⟨0x5080, 8, 52, 4⟩
def NI_RED_TSTAT_lost : Field := ⟨0x5080, 8, 56, 4⟩
def NI_RED_TSTAT_count_skew : Field := ⟨0x5080, 8, 60, 2⟩
def NI_RED_TSTAT_skipped_checks : Field := ⟨0x5080, 8, 62, 2⟩
/-! NI_RED_DLV (R268) -/
def NI_RED_DLV_valid : Field := ⟨0x5100, 4, 0, 1⟩
def NI_RED_DLV_endpoint : Field := ⟨0x5100, 4, 1, 27⟩
/-! NI_BAL_RED_A (R333) -/
def NI_BAL_RED_A_acc : Field := ⟨0x5200, 8, 0, 32⟩
def NI_BAL_RED_A_emit : Field := ⟨0x5200, 8, 32, 32⟩
/-! NI_BAL_RED_B (R333) -/
def NI_BAL_RED_B_open : Field := ⟨0x5280, 8, 0, 32⟩
def NI_BAL_RED_B_lost : Field := ⟨0x5280, 8, 32, 32⟩
/-! BLK_FAULT_CTL (R324) -/
def BLK_FAULT_CTL_corr_limit : Field := ⟨0, 0, 0, 8⟩
def BLK_FAULT_CTL_uncorr_limit : Field := ⟨0, 0, 8, 4⟩
def BLK_FAULT_CTL_port_fence_limit : Field := ⟨0, 0, 12, 4⟩
def BLK_FAULT_CTL_ni_uncorr_limit : Field := ⟨0, 0, 16, 4⟩
def BLK_FAULT_CTL_window_log2 : Field := ⟨0, 0, 20, 4⟩
/-! BLK_RINSE_CTL (R325) -/
def BLK_RINSE_CTL_enable : Field := ⟨4, 0, 0, 1⟩
def BLK_RINSE_CTL_planes : Field := ⟨4, 0, 1, 3⟩
def BLK_RINSE_CTL_rinse_log2 : Field := ⟨4, 0, 4, 4⟩
def BLK_RINSE_CTL_comb_test : Field := ⟨4, 0, 8, 1⟩
def BLK_RINSE_CTL_comb_dup : Field := ⟨4, 0, 9, 1⟩
def BLK_RINSE_CTL_rinse_timeout : Field := ⟨4, 0, 16, 12⟩
/-! BLK_PWR_CTL (R413) -/
def BLK_PWR_CTL_auto_doze : Field := ⟨8, 0, 0, 1⟩
def BLK_PWR_CTL_hold_run : Field := ⟨8, 0, 1, 1⟩
def BLK_PWR_CTL_idle_ncyc : Field := ⟨8, 0, 2, 12⟩
/-! BLK_RINSE_STAT (R326) -/
def BLK_RINSE_STAT_sent : Field := ⟨0x10, 0, 0, 16⟩
def BLK_RINSE_STAT_passed : Field := ⟨0x10, 0, 16, 16⟩
def BLK_RINSE_STAT_comb_mismatch : Field := ⟨0x10, 0, 32, 16⟩
def BLK_RINSE_STAT_coalesce_lost : Field := ⟨0x10, 0, 48, 8⟩
/-! BLK_PWR_STAT (R414) -/
def BLK_PWR_STAT_state : Field := ⟨0x18, 0, 0, 2⟩
def BLK_PWR_STAT_holding : Field := ⟨0x18, 0, 2, 1⟩
def BLK_PWR_STAT_dozes : Field := ⟨0x18, 0, 16, 16⟩
def BLK_PWR_STAT_aborts : Field := ⟨0x18, 0, 32, 16⟩
def BLK_PWR_STAT_wakes : Field := ⟨0x18, 0, 48, 16⟩
/-! BLK_FAULT_STAT (R518) -/
def BLK_FAULT_STAT_fenced_cells : Field := ⟨0x20, 0, 0, 16⟩
def BLK_FAULT_STAT_block_fenced : Field := ⟨0x20, 0, 16, 1⟩
def BLK_FAULT_STAT_ctl_reset : Field := ⟨0x20, 0, 17, 1⟩
def BLK_FAULT_STAT_sluices_closed : Field := ⟨0x20, 0, 32, 8⟩
def BLK_FAULT_STAT_sluices_test : Field := ⟨0x20, 0, 40, 8⟩
/-! RGN_FAULT_CTL (R327) -/
def RGN_FAULT_CTL_cell_fence_limit : Field := ⟨0, 0, 0, 4⟩
def RGN_FAULT_CTL_block_fence_limit : Field := ⟨0, 0, 4, 6⟩
def RGN_FAULT_CTL_watchdog_us : Field := ⟨0, 0, 10, 12⟩
/-! RGN_PWR_STAT (R415) -/
def RGN_PWR_STAT_asleep : Field := ⟨8, 0, 0, 1⟩
def RGN_PWR_STAT_waking : Field := ⟨8, 0, 1, 1⟩
def RGN_PWR_STAT_sleeps : Field := ⟨8, 0, 16, 16⟩
def RGN_PWR_STAT_wake_reqs : Field := ⟨8, 0, 32, 16⟩
/-! RGN_FLIP_STAT (R516) -/
def RGN_FLIP_STAT_step : Field := ⟨0x10, 0, 0, 3⟩
def RGN_FLIP_STAT_active : Field := ⟨0x10, 0, 3, 1⟩
def RGN_FLIP_STAT_tallies : Field := ⟨0x10, 0, 4, 12⟩
def RGN_FLIP_STAT_in_flight : Field := ⟨0x10, 0, 32, 32⟩
/-! LNK_CTL (R362) -/
def LNK_CTL_enable : Field := ⟨0, 0, 0, 1⟩
def LNK_CTL_detect_en : Field := ⟨0, 0, 1, 1⟩
def LNK_CTL_admit : Field := ⟨0, 0, 2, 1⟩
def LNK_CTL_width_max : Field := ⟨0, 0, 3, 2⟩
def LNK_CTL_loop : Field := ⟨0, 0, 5, 3⟩
def LNK_CTL_deep_req : Field := ⟨0, 0, 8, 1⟩
def LNK_CTL_deep_allow : Field := ⟨0, 0, 9, 1⟩
def LNK_CTL_quiesce : Field := ⟨0, 0, 10, 1⟩
def LNK_CTL_retrain : Field := ⟨0, 0, 11, 1⟩
def LNK_CTL_eq_hold : Field := ⟨0, 0, 12, 1⟩
def LNK_CTL_preset : Field := ⟨0, 0, 16, 4⟩
/-! LNK_TMR (R369) -/
def LNK_TMR_ack_timeout : Field := ⟨4, 0, 0, 10⟩
def LNK_TMR_replay_limit : Field := ⟨4, 0, 10, 4⟩
def LNK_TMR_train_timeout : Field := ⟨4, 0, 14, 10⟩
def LNK_TMR_lane_err_limit : Field := ⟨4, 0, 24, 8⟩
/-! LNK_STAT (R363) -/
def LNK_STAT_state : Field := ⟨8, 0, 0, 4⟩
def LNK_STAT_width : Field := ⟨8, 0, 4, 2⟩
def LNK_STAT_half : Field := ⟨8, 0, 6, 1⟩
def LNK_STAT_admitted : Field := ⟨8, 0, 7, 1⟩
def LNK_STAT_peer_chip : Field := ⟨8, 0, 8, 13⟩
def LNK_STAT_peer_port : Field := ⟨8, 0, 21, 6⟩
def LNK_STAT_last_down : Field := ⟨8, 0, 27, 4⟩
def LNK_STAT_downs : Field := ⟨8, 0, 32, 16⟩
def LNK_STAT_retrains : Field := ⟨8, 0, 48, 16⟩
/-! LNK_LAT (R367) -/
def LNK_LAT_one_way : Field := ⟨0x10, 0, 0, 16⟩
def LNK_LAT_rtt : Field := ⟨0x10, 0, 16, 16⟩
/-! LNK_PRBS_CTL (R370) -/
def LNK_PRBS_CTL_pattern : Field := ⟨0x14, 0, 0, 2⟩
def LNK_PRBS_CTL_gen_en : Field := ⟨0x14, 0, 2, 1⟩
def LNK_PRBS_CTL_chk_en : Field := ⟨0x14, 0, 3, 1⟩
def LNK_PRBS_CTL_invert : Field := ⟨0x14, 0, 4, 1⟩
/-! LNK_LANE (R364) -/
def LNK_LANE_rx_good : Field := ⟨0x18, 4, 0, 17⟩
def LNK_LANE_rx_spare : Field := ⟨0x18, 4, 17, 5⟩
def LNK_LANE_rx_clk_ok : Field := ⟨0x18, 4, 22, 1⟩
def LNK_LANE_tx_spare : Field := ⟨0x18, 4, 23, 5⟩
/-! LNK_FRM_CNT (R368) -/
def LNK_FRM_CNT_crc_err : Field := ⟨0x20, 0, 0, 16⟩
def LNK_FRM_CNT_nak_sent : Field := ⟨0x20, 0, 16, 16⟩
def LNK_FRM_CNT_replays : Field := ⟨0x20, 0, 32, 16⟩
def LNK_FRM_CNT_ingress_full : Field := ⟨0x20, 0, 48, 16⟩
/-! LNK_SCHED (R130) -/
def LNK_SCHED_sched_lat : Field := ⟨0x28, 0, 0, 10⟩
def LNK_SCHED_in_service : Field := ⟨0x28, 0, 10, 1⟩
def LNK_SCHED_late_drop : Field := ⟨0x28, 0, 16, 16⟩
/-! LNK_SPILL (R214) -/
def LNK_SPILL_policed : Field := ⟨0x2c, 0, 0, 16⟩
def LNK_SPILL_last_parterre : Field := ⟨0x2c, 0, 16, 8⟩
/-! LNK_RILL (R294) -/
def LNK_RILL_auth_fail : Field := ⟨0x30, 0, 0, 16⟩
def LNK_RILL_preempt : Field := ⟨0x30, 0, 16, 16⟩
def LNK_RILL_bulk_turns : Field := ⟨0x30, 0, 32, 16⟩
def LNK_RILL_seq_drop : Field := ⟨0x30, 0, 48, 16⟩
/-! LNK_TIME (R396) -/
def LNK_TIME_offset : Field := ⟨0x38, 0, 0, 32⟩
def LNK_TIME_accepted : Field := ⟨0x38, 0, 32, 16⟩
def LNK_TIME_rejected : Field := ⟨0x38, 0, 48, 16⟩
/-! LNK_LANE_ERR (R365) -/
def LNK_LANE_ERR_sync_err : Field := ⟨0x100, 4, 0, 16⟩
def LNK_LANE_ERR_lock_loss : Field := ⟨0x100, 4, 16, 8⟩
/-! LNK_EQ (R366) -/
def LNK_EQ_c_pre : Field := ⟨0x200, 4, 0, 5⟩
def LNK_EQ_c_main : Field := ⟨0x200, 4, 5, 7⟩
def LNK_EQ_c_post : Field := ⟨0x200, 4, 12, 5⟩
def LNK_EQ_preset : Field := ⟨0x200, 4, 17, 3⟩
/-! LNK_PRBS_CNT (R371) -/
def LNK_PRBS_CNT_errors : Field := ⟨0x400, 8, 0, 32⟩
def LNK_PRBS_CNT_bits_64k : Field := ⟨0x400, 8, 32, 31⟩
def LNK_PRBS_CNT_locked : Field := ⟨0x400, 8, 63, 1⟩
/-! CHP_MGW_STAT (R194) -/
def CHP_MGW_STAT_busy_ncyc : Field := ⟨0, 0, 0, 32⟩
def CHP_MGW_STAT_window_fault : Field := ⟨0, 0, 32, 16⟩
def CHP_MGW_STAT_stack_err : Field := ⟨0, 0, 48, 16⟩
/-! CHP_MGW_SPILL (R214) -/
def CHP_MGW_SPILL_policed : Field := ⟨8, 0, 0, 16⟩
def CHP_MGW_SPILL_last_parterre : Field := ⟨8, 0, 16, 8⟩
/-! CHP_MGW_STREAM (R188) -/
def CHP_MGW_STREAM_enable : Field := ⟨0x200, 8, 0, 1⟩
def CHP_MGW_STREAM_notify_en : Field := ⟨0x200, 8, 1, 1⟩
def CHP_MGW_STREAM_size_log2 : Field := ⟨0x200, 8, 4, 5⟩
def CHP_MGW_STREAM_base : Field := ⟨0x200, 8, 12, 36⟩
def CHP_MGW_STREAM_weight : Field := ⟨0x200, 8, 48, 8⟩
/-! CHP_MGW_WIN_A (R191) -/
def CHP_MGW_WIN_A_valid : Field := ⟨0x400, 8, 0, 1⟩
def CHP_MGW_WIN_A_rd : Field := ⟨0x400, 8, 1, 1⟩
def CHP_MGW_WIN_A_wr : Field := ⟨0x400, 8, 2, 1⟩
def CHP_MGW_WIN_A_cell : Field := ⟨0x400, 8, 5, 3⟩
def CHP_MGW_WIN_A_parterre : Field := ⟨0x400, 8, 8, 8⟩
def CHP_MGW_WIN_A_base : Field := ⟨0x400, 8, 16, 24⟩
def CHP_MGW_WIN_A_count_m1 : Field := ⟨0x400, 8, 40, 24⟩
/-! CHP_MGW_WIN_B (R191) -/
def CHP_MGW_WIN_B_addr : Field := ⟨0x600, 8, 4, 36⟩
/-! CHP_GEOMETRY (R23) -/
def CHP_GEOMETRY_cells_x : Field := ⟨0, 0, 0, 7⟩
def CHP_GEOMETRY_cells_y : Field := ⟨0, 0, 8, 7⟩
def CHP_GEOMETRY_link_ports : Field := ⟨0, 0, 16, 6⟩
def CHP_GEOMETRY_mem_gateways : Field := ⟨0, 0, 22, 5⟩
def CHP_GEOMETRY_bulk_planes : Field := ⟨0, 0, 27, 2⟩
def CHP_GEOMETRY_arch_version : Field := ⟨0, 0, 29, 3⟩
/-! CHP_CHIP_ID (R24) -/
def CHP_CHIP_ID_chip_id : Field := ⟨4, 0, 0, 13⟩
def CHP_CHIP_ID_dim_x_m1 : Field := ⟨4, 0, 16, 5⟩
def CHP_CHIP_ID_dim_y_m1 : Field := ⟨4, 0, 21, 4⟩
def CHP_CHIP_ID_dim_z_m1 : Field := ⟨4, 0, 25, 4⟩
/-! CHP_BRINGUP (R464) -/
def CHP_BRINGUP_done : Field := ⟨8, 0, 0, 14⟩
def CHP_BRINGUP_ready : Field := ⟨8, 0, 14, 1⟩
def CHP_BRINGUP_failed_step : Field := ⟨8, 0, 16, 4⟩
def CHP_BRINGUP_region_held : Field := ⟨8, 0, 32, 16⟩
/-! CHP_TIME (R393) -/
def CHP_TIME_t : Field := ⟨0x10, 0, 0, 64⟩
/-! CHP_TIME_CTL (R394) -/
def CHP_TIME_CTL_master : Field := ⟨0x18, 0, 0, 1⟩
def CHP_TIME_CTL_enable : Field := ⟨0x18, 0, 1, 1⟩
def CHP_TIME_CTL_recal_us : Field := ⟨0x18, 0, 4, 12⟩
def CHP_TIME_CTL_lock_tol : Field := ⟨0x18, 0, 16, 4⟩
def CHP_TIME_CTL_holdover_ms : Field := ⟨0x18, 0, 20, 8⟩
/-! CHP_RILL_CTL (R292) -/
def CHP_RILL_CTL_snap_guard : Field := ⟨0x1c, 0, 0, 8⟩
def CHP_RILL_CTL_vc3_gap : Field := ⟨0x1c, 0, 8, 4⟩
def CHP_RILL_CTL_root_corner : Field := ⟨0x1c, 0, 12, 2⟩
/-! CHP_TIME_STAT (R395) -/
def CHP_TIME_STAT_locked : Field := ⟨0x20, 0, 0, 1⟩
def CHP_TIME_STAT_holdover : Field := ⟨0x20, 0, 1, 1⟩
def CHP_TIME_STAT_saturated : Field := ⟨0x20, 0, 2, 1⟩
def CHP_TIME_STAT_parent_port : Field := ⟨0x20, 0, 3, 6⟩
def CHP_TIME_STAT_residual : Field := ⟨0x20, 0, 16, 16⟩
def CHP_TIME_STAT_steps : Field := ⟨0x20, 0, 32, 16⟩
def CHP_TIME_STAT_unlocks : Field := ⟨0x20, 0, 48, 16⟩
/-! CHP_SCHED_CTL (R125) -/
def CHP_SCHED_CTL_wake_lead : Field := ⟨0x28, 0, 0, 16⟩
def CHP_SCHED_CTL_arm_lead : Field := ⟨0x28, 0, 16, 12⟩
/-! CHP_SCHED_STAT (R126) -/
def CHP_SCHED_STAT_active_bank : Field := ⟨0x2c, 0, 0, 1⟩
def CHP_SCHED_STAT_running : Field := ⟨0x2c, 0, 1, 1⟩
def CHP_SCHED_STAT_period : Field := ⟨0x2c, 0, 2, 3⟩
def CHP_SCHED_STAT_bank0_valid : Field := ⟨0x2c, 0, 5, 1⟩
def CHP_SCHED_STAT_bank1_valid : Field := ⟨0x2c, 0, 6, 1⟩
def CHP_SCHED_STAT_skipped : Field := ⟨0x2c, 0, 8, 16⟩
/-! CHP_PWR_STAT (R416) -/
def CHP_PWR_STAT_doze_blocks : Field := ⟨0x30, 0, 0, 10⟩
def CHP_PWR_STAT_off_blocks : Field := ⟨0x30, 0, 10, 10⟩
def CHP_PWR_STAT_asleep : Field := ⟨0x30, 0, 20, 16⟩
def CHP_PWR_STAT_off_access : Field := ⟨0x30, 0, 36, 16⟩
/-! CHP_INTEG (R510) -/
def CHP_INTEG_lnk_present : Field := ⟨0x38, 0, 0, 48⟩
/-! CHP_HOST_STAT (R511) -/
def CHP_HOST_STAT_host_refused : Field := ⟨0x40, 0, 0, 16⟩
def CHP_HOST_STAT_mgmt_refused : Field := ⟨0x40, 0, 16, 16⟩
def CHP_HOST_STAT_last_addr : Field := ⟨0x40, 0, 32, 32⟩
/-! CHP_INTEG_B (R510) -/
def CHP_INTEG_B_mgw_present : Field := ⟨0x48, 0, 0, 20⟩
def CHP_INTEG_B_stitch_x : Field := ⟨0x48, 0, 20, 5⟩
def CHP_INTEG_B_stitch_y : Field := ⟨0x48, 0, 25, 5⟩
/-! CHP_RILL_CTX (R291) -/
def CHP_RILL_CTX_valid : Field := ⟨0x100, 8, 0, 1⟩
def CHP_RILL_CTX_op : Field := ⟨0x100, 8, 1, 2⟩
def CHP_RILL_CTX_system : Field := ⟨0x100, 8, 3, 1⟩
def CHP_RILL_CTX_parterre : Field := ⟨0x100, 8, 4, 8⟩
def CHP_RILL_CTX_root : Field := ⟨0x100, 8, 12, 14⟩
def CHP_RILL_CTX_timeout_us : Field := ⟨0x100, 8, 26, 12⟩
def CHP_RILL_CTX_generation : Field := ⟨0x100, 8, 38, 10⟩
def CHP_RILL_CTX_failed : Field := ⟨0x100, 8, 48, 1⟩
/-! CHP_SPILL_CLASS (R213) -/
def CHP_SPILL_CLASS_ni_rate : Field := ⟨0x200, 8, 0, 16⟩
def CHP_SPILL_CLASS_ni_burst : Field := ⟨0x200, 8, 16, 16⟩
def CHP_SPILL_CLASS_gw_rate : Field := ⟨0x200, 8, 32, 21⟩
def CHP_SPILL_CLASS_gw_burst : Field := ⟨0x200, 8, 53, 11⟩
/-! CHP_SPILL_MAP (R213) -/
def CHP_SPILL_MAP_class_k : Field := ⟨0x280, 4, 0, 32⟩
/-! MBX_DB (R445) -/
def MBX_DB_ring : Field := ⟨0x10400, 0, 0, 8⟩
def MBX_DB_ack : Field := ⟨0x10400, 0, 8, 8⟩
/-! MBX_STAT (R446) -/
def MBX_STAT_busy : Field := ⟨0x10404, 0, 0, 8⟩
def MBX_STAT_done : Field := ⟨0x10404, 0, 8, 8⟩
def MBX_STAT_overrun : Field := ⟨0x10404, 0, 16, 8⟩
/-! MBX_BOOT_CTL (R447) -/
def MBX_BOOT_CTL_start : Field := ⟨0x10408, 0, 0, 1⟩
/-! MBX_BOOT_STAT (R447) -/
def MBX_BOOT_STAT_state : Field := ⟨0x1040c, 0, 0, 3⟩
def MBX_BOOT_STAT_cause : Field := ⟨0x1040c, 0, 4, 4⟩
def MBX_BOOT_STAT_version : Field := ⟨0x1040c, 0, 8, 24⟩
/-! MBX_KEY_STAT (R448) -/
def MBX_KEY_STAT_slot_state : Field := ⟨0x10410, 0, 0, 8⟩
def MBX_KEY_STAT_fails : Field := ⟨0x10410, 0, 8, 16⟩
def MBX_KEY_STAT_start_count : Field := ⟨0x10410, 0, 32, 32⟩
/-! MBX_NONCE (R448) -/
def MBX_NONCE_nonce : Field := ⟨0x10418, 0, 0, 64⟩
/-! MBX_EVT_STAT (R449) -/
def MBX_EVT_STAT_head : Field := ⟨0x10420, 0, 0, 10⟩
def MBX_EVT_STAT_ci : Field := ⟨0x10420, 0, 10, 10⟩
def MBX_EVT_STAT_dropped : Field := ⟨0x10420, 0, 32, 16⟩
def MBX_EVT_STAT_mgmt_dropped : Field := ⟨0x10420, 0, 48, 16⟩
/-! MBX_EVT_CI (R449) -/
def MBX_EVT_CI_ci : Field := ⟨0x10428, 0, 0, 10⟩
/-! MBX_MEVT_STAT (R519) -/
def MBX_MEVT_STAT_head : Field := ⟨0x10430, 0, 0, 12⟩
def MBX_MEVT_STAT_ci : Field := ⟨0x10430, 0, 12, 12⟩
/-! MBX_MEVT_CI (R519) -/
def MBX_MEVT_CI_ci : Field := ⟨0x10438, 0, 0, 12⟩

end Sys2Proof.Machine
end

