-- ==== Sys2Proof/Machine/State.lean ====
section
/-! DEFINITION. The state of the block as plain data: every register, table, queue, counter and mode the spec gives it, by
unit (cell, block, region, link port, memory gateway, chip, Fountaineer), the queue of waiting commands, and the reset
state. Fields that are the model's own and not the spec's are said to be so. -/

namespace Sys2Proof.Machine

/-! ## Containers -/

/-- A total table: a default for every key, and the entries that differ, keys rising. -/
structure Table (α : Type) where
  dflt : α
  ents : List (Nat × α)
deriving DecidableEq, Repr

/-- A sparse list of keyed values. -/
abbrev Assoc (α : Type) := List (Nat × α)

/-- Addressed memory: a list of (address, byte) in canonical form; an unlisted byte reads 0 (log 6). -/
abbrev Mem := List Host.Cell

/-- The registers of one unit: by offset, the values that have been written; a register not listed holds its reset value. `base` gives, for each
register changed in this ncyc, its value at the ncyc's start (R11). -/
structure Regs where
  scope : Scope
  vals : Assoc W64
  base : Assoc W64
deriving DecidableEq, Repr

/-! ## Router -/

/-- A packet on its way to, or presented on, input `port` of a router; it is in the decode stage in ncyc `due` (R65, R66,
R521). -/
structure InFlight where
  port : Nat
  due : Nat
  pkt : Packet
deriving DecidableEq, Repr

/-- How R79 prefers among the productive ports of a decoded packet: it has reached its destination; it is routed on a
bundle row (with the edge bit of an attached active port); it is routed on the grid; or its mask is a branch mask (R75). -/
inductive Pref where
  | home
  | bundle (edge : BitVec 4)
  | grid
  | branch
deriving DecidableEq, Repr

/-- A packet after the decode stage: its input, the ncyc of its decode, its productive set (bits 3:0 ports, bit 4 EJECT),
and how R79 orders that set. -/
structure Decoded where
  port : Nat
  at_ : Nat
  pkt : Packet
  prod : BitVec 5
  pref : Pref
deriving DecidableEq, Repr

/-- One dynamic plane of a router: packets in flight toward its inputs, packets decoded, and the outputs taken in ncyc
`stamp` (bits 3:0 ports, bit 4 EJECT, bit 5 RESIDUE, bit 6 this ncyc's injection). -/
structure RtPlane where
  arr : List InFlight
  dec : List Decoded
  stamp : Nat
  used : BitVec 7
deriving DecidableEq, Repr

/-- A sluice that is closed or in TEST (R306, R309): a cell sluice or a port sluice, the class of the record that closed it (0 for
one that a self-test alone has put into TEST), in TEST the consecutive passes counted per bulk plane, and, for a cell sluice on a link whose
port sluice stands closed too, the class that closed that (R296, R308). -/
structure Sluice where
  cell : Bool
  test : Bool
  cls : Nat
  passes : Assoc Nat
  under : Option Nat
deriving DecidableEq, Repr

/-- A flit on its way to, or waiting in, input `port` of a rill router: 0-3 mesh, 5 edge; of the local input 4 the NI and the router itself, 20
the Fountaineer, 21 a region manager, 22 a block controller (R277), 8 + o a tree flit of the router's own for output o. It may be decoded from ncyc
`due` on (R275). -/
structure RillFlit where
  port : Nat
  due : Nat
  flit : Flit
deriving DecidableEq, Repr

/-- The runtime of one rill context at one router (R281): generation, arrivals by port, core arrivals, whether the GATHER
went up, the partial combine. -/
structure CtxRt where
  gen : BitVec 10
  ports : BitVec 6
  locals : Nat
  localDone : Bool
  sent : Bool
  partialV : W64
  have_ : Bool
deriving DecidableEq, Repr

/-- One spray sample waiting in the one-entry sample buffer (R472, R473). -/
structure SpraySample where
  header : BitVec 128
  time : W64
  point : BitVec 8
  tag : W32
deriving DecidableEq, Repr

/-- Credits and counts of one rill port and VC (R319 row 6, R334). -/
structure RillBal where
  sent : BitVec 12
  credRecv : BitVec 12
  recv : BitVec 12
  credSent : BitVec 12
deriving DecidableEq, Repr

/-- The router of a cell. `rillUsed` gives, for each rill output, one more than the ncyc it last sent in (R276); `tallyAt` and
`freezeAt` are the T[63:3] of a TALLY or FREEZE received and not yet acted on (R282), `latched` the T[63:3] of the last tally it latched,
`seen` the watch count latched there (R233), `lfsr` is 0 until its first step after enabling seeds it (R472), `lostW0` the packets lost with an uncorrectable word 0 (R90),
`tallyCopy` the counts standing at the end of the ncyc T of the TALLY received (entered and left of version 0, of version 1, the watch count), `lateTally` whether
that T had passed (R282), `held0` and `held1` entered − left of each version as latched at the cell's fence (R308), `epochNext` the injection epoch the NI takes in
the next ncyc (R86), `treeSet` the contexts 0 and 1 whose CELL_RILL_TREE a register write has set since Zhevber wrote their trees (R290), `lateTallies` the tallies
received after their T (R282). -/
structure Router where
  req : RtPlane
  rep : RtPlane
  sched : List InFlight
  answers : List Packet
  ansSince : Nat
  ver0 : BitVec 2
  ver1 : BitVec 2
  rows0 : Nat
  rows1 : Nat
  entered0 : W32
  left0 : W32
  entered1 : W32
  left1 : W32
  rotBase : Nat
  defl : List Nat
  wakeSent : Assoc Nat
  sluices : Assoc Sluice
  rillClosed : BitVec 4
  casc : Assoc (BitVec 16)
  watchLive : W32
  rillIn : List RillFlit
  rillOwner : Assoc Nat
  rillLocal : List RillFlit
  rillBal : Assoc RillBal
  ctx : Assoc CtxRt
  lfsr : BitVec 16
  sample : Option SpraySample
  sampleNo : BitVec 12
  telSent : Assoc Nat
  armed : List Nat
  rillUsed : Assoc Nat
  tallyAt : Option Nat
  freezeAt : Option Nat
  latched : Nat
  seen : W32
  lostW0 : Nat
  tallyCopy : Option (List W32)
  lateTally : Bool
  held0 : W32
  held1 : W32
  epochNext : Option (BitVec 1)
  treeSet : List Nat
  lateTallies : Nat
deriving DecidableEq, Repr

/-! ## Network interface: cluster memory, channels, tokens, queues -/

/-- What an outstanding request on the cluster port serves (R497, R498): a write of a tranche, of read data, of a multicast
or a result landing, or of a landing re-armed or reset since; a read of a descriptor, of the data of a plane's head packet, of a fountain slot's
packet. -/
inductive CmUse where
  | tranche (id : Nat)
  | readData (tok : Nat)
  | mcLand (i : Nat)
  | redLand (i : Nat)
  | oldLand
  | descriptor (ring : Nat)
  | packet (id : Nat)
deriving DecidableEq, Repr

/-- An outstanding request on the cluster port, by tag. -/
structure CmReq where
  tag : Nat
  write : Bool
  use : CmUse
deriving DecidableEq, Repr

/-- The fields of a channel entry that the NI uses (R132, R200). -/
structure ChanEntry where
  state : BitVec 2
  privileged : Bool
  peerChan : BitVec 12
  peerChip : BitVec 13
  peerCell : BitVec 14
  rxQueue : BitVec 6
  statusQueue : BitVec 6
  peerQueue : BitVec 6
  txSeq : BitVec 8
  rxExpect : BitVec 8
  nackRun : BitVec 8
  stormLimit : BitVec 8
  parterre : BitVec 8
  weight : BitVec 8
  peerPhys : BitVec 14
  resolved : Bool
  weirRate : BitVec 16
  weirBurst : BitVec 16
  tag : W32
  credit : W32
  finish : W32
  upd : W32
  mult : BitVec 16
  cutSkip : BitVec 8
deriving DecidableEq, Repr

/-- A message placed in a queue entry or a pool ring and not yet complete (R147, R148, R149): head sequence, length L, packets n,
index of the packet expected next, packets and bytes written, queue, handler, offset of its ring header (none for a message
kept in its entry), and the head's data. -/
structure Placed where
  head : BitVec 8
  total : Nat
  packets : Nat
  next : Nat
  wrote : Nat
  written : Nat
  queue : Nat
  handler : BitVec 12
  ringOff : Option Nat
  data : List Byte
deriving DecidableEq, Repr

/-- The receive side of one channel: packets held in reorder slots (R146), sequence numbers written directly with the last bit
of each (the 64-bit arrival map, R149), the placed message, what is left of a refused message with the head's reason, the
skipped state, the start and length of the gap timer (R150), and whether the starvation event waits to re-arm (R160). -/
structure RxState where
  held : List Packet
  arrival : List (BitVec 8 × Bool)
  placed : Option Placed
  refused : Option (Nat × BitVec 4)
  skipped : Bool
  gap : Option (Nat × Nat)
  storm : Bool
deriving DecidableEq, Repr

/-- One cached channel (R136). -/
structure Chan where
  e : ChanEntry
  rx : RxState
  used : Nat
  hasTag : Bool
  eligible : Bool
deriving DecidableEq, Repr

/-- What waits for the fetch of a channel's entry (R134, R136): a LOAD of a core, or an arrival or send. -/
structure Fetch where
  ch : Nat
  load : Option Nat
  hold : List Packet
deriving DecidableEq, Repr

/-- What an outstanding token tracks: a message packet, or the RD_REQ of a READ on a ring (R140, R178). -/
inductive TokenUse where
  | msg (ch : Nat) (peer : BitVec 12) (desc : Option Nat)
  | read (desc : Nat) (landing : Nat) (count : Nat) (got : Nat) (lastLen : Nat) (granule : Nat)
deriving DecidableEq, Repr

/-- State of a token (R141). -/
inductive TokState where
  | free | queued | inflight | resent | withdrawn
deriving DecidableEq, Repr

/-- One entry of the outstanding table (R140). `start` is T[63:3] at first injection; retx and abandon are the timers'
lengths in µs, taken when they start (R141); `again` marks a retransmission not yet re-injected;
`order` counts allocations, so that a channel's packets keep the order of their tokens. -/
structure Token where
  st : TokState
  gen : BitVec 4
  use : TokenUse
  seq : BitVec 8
  pkt : Packet
  start : Nat
  retx : Nat
  abandon : Nat
  again : Bool
  order : Nat
deriving DecidableEq, Repr

/-- One queue entry (R155): the metadata fields that do not depend on the queue, six data words, XTRA, and the ncyc it
became visible (R207). -/
structure QEntry where
  kind : BitVec 4
  nwords : BitVec 3
  channel : BitVec 12
  handler : BitVec 12
  seq : BitVec 8
  reason : BitVec 4
  gen : BitVec 4
  msgLen : BitVec 6
  eccErr : Bool
  words : List W64
  xtra : W64
  born : Nat
deriving DecidableEq, Repr

/-- One receive queue: visible entries, reservations, the stale-tail state (R159), and its pool ring (R152). -/
structure Queue where
  ents : List QEntry
  reserved : Nat
  stale : Bool
  since : Option (Nat × Nat)
  p : Nat
  c : Nat
  u : Nat
  ringFault : Bool
deriving DecidableEq, Repr

/-- Why a core-visible access is stalled (R161). -/
inductive StallKind where
  | sendGo (ch : Nat) (v : W64)
  | meta_ (q : Nat)
  | syncRes
  | barWait (x : Nat)
  | rillGo (dst v : W64)
  | wakeUp
deriving DecidableEq, Repr

/-- The per-core state of the core-visible window: send words (R137), CQ_SEND_RES (R138), CQ_SYNC_RES and whether an
operation is under way and on which channel (R134), the operations written behind a LOAD that waits (op and channel), the stalled access with the ncyc it began, CQ_RILL_RES (R284), and the tokens
and channel of the most recent send with whether the spillway dropped a packet of it since the last sample (R477). -/
structure CoreRt where
  sendW : List W64
  sendRes : W64
  syncRes : BitVec 4
  syncBusy : Bool
  syncCh : Nat
  stall : Option (StallKind × Nat)
  rillDst : W64
  rillRes : W64
  sentToks : List (Nat × BitVec 4)
  sentCh : Nat
  policed : Bool
  syncQ : List (BitVec 2 × Nat)
deriving DecidableEq, Repr

/-! ## Network interface: descriptor rings, tranches, reads -/

/-- The runtime of a descriptor ring: indices (R171), the next descriptor to start, whether its words are being read, were
read, or came back with an error (R498), weir and finish tag (R198, R201), and the ncyc at which PI reached each value it was
written with (R113). -/
structure RingRt where
  pi : BitVec 16
  ci : BitVec 16
  next : BitVec 16
  fetching : Bool
  fetched : Option (List W64)
  bad : Bool
  credit : W32
  upd : W32
  finish : W32
  hasTag : Bool
  eligible : Bool
  posts : List (BitVec 16 × Nat)
deriving DecidableEq, Repr

/-- A started descriptor with its tracker (R175, R180). -/
structure Desc where
  id : Nat
  ring : Nat
  idx : BitVec 16
  op : Nat
  notify : Bool
  length : Nat
  chanTree : BitVec 12
  handler : BitVec 12
  peerChip : BitVec 13
  peerCell : BitVec 14
  peerWire : BitVec 14
  localG : Nat
  remoteG : Nat
  tag : W32
  n : Nat
  taken : Nat
  injected : Nat
  confirmed : Nat
  nacked : Nat
  closed : Nat
  unsent : Bool
  stop : Bool
  fail : Option (BitVec 4 × BitVec 4)
  tracker : Option (Nat × Nat)
  slipped : Bool
  done : Bool
  status : BitVec 4
  reason : BitVec 4
  posted : Nat
deriving DecidableEq, Repr

/-- A tranche entry (R177); `pend` counts writes not yet visible, `bad` marks a write error (R498, R502). -/
structure Tranche where
  id : Nat
  srcChip : BitVec 13
  srcCell : BitVec 14
  cls : BitVec 2
  block : Nat
  parterre : BitVec 8
  cell : Nat
  count : Nat
  cmark : BitVec 1
  tag : W32
  joined : Nat
  due : Bool
  pend : Nat
  bad : Bool
deriving DecidableEq, Repr

/-- An RD_REQ being answered (R179, R197). -/
structure RdServe where
  id : Nat
  req : Packet
  granule : Nat
  land_ : Nat
  count : Nat
  lastLen : Nat
  addr : Nat
  sent : Nat
  taken : Nat
  finish : W32
  since : Nat
deriving DecidableEq, Repr

/-- A packet selected for injection or placed in a fountain slot: where it comes from. -/
inductive PktSrc where
  | token (t : Nat)
  | desc (d : Nat)
  | serve (id : Nat)
  | combine
  | tel
  | mnt (port : Nat)
deriving DecidableEq, Repr

/-- The head packet of a plane (R195) with the ncyc it began to wait and the number that names its source-data reads. -/
structure Head where
  pkt : Packet
  since : Nat
  src : PktSrc
  id : Nat
deriving DecidableEq, Repr

/-- A fountain slot (R224): packet, remaining mask, the ncyc its wait counts from, the number of its data reads, the ncyc it was filled in. -/
structure FountSlot where
  pkt : Packet
  mask : BitVec 5
  since : Nat
  id : Nat
  placed : Nat
deriving DecidableEq, Repr

/-- Runtime of a multicast landing (R229, R230). -/
structure McLandRt where
  received : Nat
  expected : Nat
  done : Bool
  pend : Nat
deriving DecidableEq, Repr

/-- An entry of the map cache: the logical ID, what it maps to (none: vacant), its last use (R312). -/
structure MapEnt where
  lid : Nat
  phys : Option Nat
  used : Nat
deriving DecidableEq, Repr

/-! ## Network interface: combine engine, rill inbox, observation -/

/-- State of a range of a reduction tree (R251); CHECK is passed within the step that completes a range. -/
inductive RangeSt where
  | idle | open_ | emit | held | shut
deriving DecidableEq, Repr

/-- One element's accumulator pair and auxiliary word (R246), and whether it is poisoned (R258). -/
structure Acc where
  hi : W32
  lo : W32
  aux : W32
  poison : Bool
deriving DecidableEq, Repr

/-- One unit of 8 elements (R246): arrivals, contributions, shadow. -/
structure UnitRt where
  arrivals : Nat
  count : Nat
  shadow : W32
deriving DecidableEq, Repr

/-- A range of a tree entry (R246, R251): state, start of its timer (T[63:3]) with its length, accumulators, units, flags, the
output packets it still owes, and for a held range the failing checks and the difference D. -/
structure RangeRt where
  st : RangeSt
  timer : Nat × Nat
  accs : List Acc
  units : List UnitRt
  saturated : Bool
  short : Bool
  outp : List Packet
  fails : Bool × Bool
  diff : W32
  heldNo : Nat
deriving DecidableEq, Repr

/-- Runtime of a result landing (R263, R264). -/
structure RedLandRt where
  landed : Nat
  expected : Nat
  done : Bool
  flags : BitVec 5
  pend : Nat
deriving DecidableEq, Repr

/-- A CMSG waiting in the inbox (R283, R284). -/
structure InboxMsg where
  src : BitVec 27
  payload : W64
deriving DecidableEq, Repr

/-- The barriers of one context at an NI (R284): for each core the generation it last arrived in and, once that has been released,
whether it failed; the combined value of the last release. -/
structure BarRt where
  arr : Assoc (BitVec 10 × Option Bool)
  result : W64
deriving DecidableEq, Repr

/-- A PC sample under way (R476): the core, the ncyc and T of the request, its stall code with object, tag and stalled ncyc. -/
structure PcSample where
  core : Nat
  since : Nat
  time : W64
  code : Nat
  object : Nat
  tag : W32
  stalled : Nat
deriving DecidableEq, Repr

/-- A combine duplicated at the partner (R305): tree entry, range, since. -/
structure CombDup where
  tree : Nat
  range : Nat
  since : Nat
deriving DecidableEq, Repr

/-- Why an NI is held in reset (R48, R50, R314, R452): not, by a cell, NI or region reset, or since the chip's reset in
bring-up hold. -/
inductive NiHold where
  | none | cell | ni | region | bringUp
deriving DecidableEq, Repr

/-- A stream that slipped (R114, R115): the start of the period it slipped in last, the packets of its transfers still owed to the request
plane, the dynamic tree of its record, and whether the spillway has ended the transfer (R203). -/
structure SlipRt where
  start : Nat
  owed : Nat
  tree : Option Nat
  drop : Bool
deriving DecidableEq, Repr

/-- The network interface of a cell. `did` gives, for each thing the NI does at most once per ncyc, one more than the ncyc it
last did it in; `loaded` names the channels a LOAD has opened and no CLOSE or reset has closed (R133, R315), `peers` the peer
each had in its last LOAD (R133), `faulted` those
held FAULTED (R144); `strobes` the completion strobes that wait for a free ncyc (R181); `rillFrom` the cores of recent CMSGs with the endpoints they went to, the latest first (R283). -/
structure Ni where
  hold : NiHold
  headReq : Option Head
  headRep : Option Head
  ejected : List (Plane × Packet)
  chans : Assoc Chan
  fetches : List Fetch
  tokens : Assoc Token
  queues : Assoc Queue
  dispatch : List (BitVec 12 × BitVec 6)
  cores : Assoc CoreRt
  rings : Assoc RingRt
  descs : List Desc
  tranches : List Tranche
  serves : List RdServe
  quarantine : List (Nat × Nat × Nat)
  cmReqs : List CmReq
  badReads : List Nat
  nextId : Nat
  fountain : List FountSlot
  mcLands : Assoc McLandRt
  vReq : W32
  vRep : W32
  slipCredit : W32
  slipUpd : W32
  slipFinish : W32
  slipTag : Bool
  slipOk : Bool
  spillUpd : W32
  ranges : Assoc RangeRt
  heldSeq : Nat
  redLands : Assoc RedLandRt
  inbox : List InboxMsg
  bars : Assoc BarRt
  rillFrom : List (Nat × Nat)
  mapCache : List MapEnt
  mapMiss : List Nat
  mntReq : Option (Packet × Nat × Nat)
  mntRep : Option (Packet × Nat × Nat)
  retest : List (Nat × BitVec 12 × BitVec 12)
  dup : Option CombDup
  accepted : Nat
  pcs : Option PcSample
  pcsCore : Nat
  telWritten : W32
  pcsWritten : W32
  latNext : Nat
  slips : Assoc SlipRt
  loaded : List Nat
  peers : Assoc (BitVec 27)
  faulted : List Nat
  strobes : List Nat
  did : Assoc Nat
deriving DecidableEq, Repr

/-- One cell: its registers (router part and NI part), router, NI, and the licensee's cluster memory behind its cluster
port (R131, R497). -/
structure Cell where
  regs : Regs
  rt : Router
  ni : Ni
  cm : Mem
deriving DecidableEq, Repr

/-! ## Block controllers and region managers -/

/-- Power state of a block (R405). -/
inductive Power where
  | run | doze | sleep | off
deriving DecidableEq, Repr

/-- A fault record (R298). -/
structure FaultRec where
  cls : BitVec 6
  level : BitVec 2
  unit : BitVec 14
  port : BitVec 3
  plane : BitVec 2
  action : BitVec 3
  detail : W32
deriving DecidableEq, Repr

/-- A self-test of a block under way (R455): its end in T[63:3] and what the response waits for. -/
structure BlockTest where
  until_ : Nat
deriving DecidableEq, Repr

/-- A transfer that a crossing holds while the network clock is stopped (R403): an access of a port or of a core as the command that made it, or
Zhevber's write of the masked bits of a register. -/
inductive Crossing where
  | command (i : Instr)
  | set (sc : Scope) (u off : Nat) (v mask : W64)
deriving DecidableEq, Repr

/-- A block controller (R295 to R305, R407): registers, error counts of the window by key, the waiting record and the last
originated VC0 flit, power state with the start of a hold, of an exit and of the idle count, VC3 grants, rinse steppers (test, pattern sequence, next port by
cell and plane),
the fence of the block, a reset of the controller, whether it is to go Off (R410), the ncyc it entered its power state in (R92), the T[63:3] of the
last poll of it (R297), the transfers its crossings hold (R403). -/
structure Block where
  regs : Regs
  counts : Assoc Nat
  waiting : Option FaultRec
  lastSend : Option Nat
  power : Power
  holdFrom : Option Nat
  exiting : Bool
  idleFrom : Nat
  lastGrant : Assoc Nat
  nextGrant : Nat
  rinseT : BitVec 12
  rinseQ : BitVec 12
  rinsePort : Assoc Nat
  fenced : Bool
  ctlReset : Bool
  offReq : Bool
  combPend : List Nat
  missed : Nat
  test : Option BlockTest
  since : Nat
  polled : Option Nat
  crossing : List Crossing
deriving DecidableEq, Repr

/-- A region manager (R297, R300, R312, R409, R316): registers, waiting record, missed polls, the map copy, sleep, wake and
hard-reset state: `isolate` from the order of a hard reset until re-admission, `hard` while the ordered reset has not been made; whether a record of
its own was lost (R300), the T[63:3] of the last poll of it (R297), the ncyc it entered Sleep in (R92). -/
structure Region where
  regs : Regs
  waiting : Option FaultRec
  lastSend : Option Nat
  missed : Nat
  map : Assoc (BitVec 16)
  bringUp : Bool
  asleep : Bool
  waking : Bool
  sleepReq : Bool
  isolate : Bool
  hard : Bool
  taken : Bool
  coalesceLost : Bool
  polled : Option Nat
  since : Nat
deriving DecidableEq, Repr

/-! ## Memory gateways -/

/-- A request taken at a gateway's edge output: the cell position, the plane, the packet. -/
structure GwArrival where
  k : Nat
  plane : Plane
  pkt : Packet
deriving DecidableEq, Repr

/-- What an outstanding stack request serves (R502): the write of a tranche, one granule of an RD_REQ, one granule of a
stream's packet. -/
inductive StackUse where
  | tranche (id : Nat)
  | read (serve i : Nat)
  | stream (st i : Nat)
deriving DecidableEq, Repr

/-- An outstanding stack request. -/
structure StackReq where
  tag : Nat
  addr : Nat
  use : StackUse
deriving DecidableEq, Repr

/-- An RD_REQ in service at a gateway (R197): granules answered so far, or the first error. -/
structure GwServe where
  id : Nat
  k : Nat
  req : Packet
  granule : Nat
  land_ : Nat
  count : Nat
  lastLen : Nat
  addr : Nat
  sent : Nat
  ready : Assoc (BitVec 384 × Bool)
deriving DecidableEq, Repr

/-- Runtime of a gateway stream ring (R186, R187): indices, the running descriptor's words, packets injected and asked for, the
granules fetched (the ncyc of the return, the data, whether in error), its slip, and the slots that a refused descriptor leaves idle with
the start of the period they fall in (R186). -/
structure StreamRt where
  pi : BitVec 16
  ci : BitVec 16
  cur : Option (List W64)
  sent : Nat
  asked : Nat
  fetched : Assoc (Nat × BitVec 384 × Bool)
  fail : Option (BitVec 4 × BitVec 4)
  slip : Option SlipRt
  idle : Option (Nat × Option Nat)
deriving DecidableEq, Repr

/-- A memory gateway with its stack (R169, R185 to R187, R202). `did` gives, for each cell position and plane, one more than the
ncyc of its last presentation; `moves` counts the packets moved in ncyc `moveAt` (R185). -/
structure Gateway where
  regs : Regs
  inq : List GwArrival
  tranches : List Tranche
  reqs : List StackReq
  serves : List GwServe
  streams : Assoc StreamRt
  answers : List (Nat × Packet)
  buckets : Assoc (W64 × W32)
  epoch : BitVec 1
  nextId : Nat
  hold : Bool
  stack : Mem
  did : Assoc Nat
  moveAt : Nat
  moves : Nat
deriving DecidableEq, Repr

/-! ## Link ports -/

/-- A frame sent and not yet acknowledged (R352): the ncyc it was last sent, the times it was replayed. -/
structure SentFrame where
  frame : Frame
  sentAt : Nat
  replays : Nat
  again : Bool
deriving DecidableEq, Repr

/-- A packet in a staging queue (R350): the cell half it came from and the ncyc of its switch stage. -/
structure Staged where
  half : Nat
  egress : Nat
  pkt : Packet
deriving DecidableEq, Repr

/-- A packet in an ingress buffer (R350): the cell half, and for the scheduled plane its delivery ncyc (R119). -/
structure Ingress where
  half : Nat
  at_ : Nat
  pkt : Packet
deriving DecidableEq, Repr

/-- One of the two sequenced streams of a port (R352 to R354): next seq to send, next expected, unacknowledged frames, the ncyc
of the last NAK sent while nothing has been accepted since, whether the stream waits after a retrain for the peer's expected seq, the
expected seq last carried in an acknowledgement. -/
structure LinkStream where
  next : BitVec 16
  expect : BitVec 16
  sent : List SentFrame
  nakAt : Option Nat
  resume : Bool
  acked : BitVec 16
deriving DecidableEq, Repr

/-- Progress of a quiesce or of Deep (R357, R358). -/
inductive LinkTask where
  | none
  | quiesceFlip
  | quiescing (asked : Bool)
  | deepHold
  | deepAsked
  | deepRetry (at_ : Nat)
  | waking (since : Nat)
deriving DecidableEq, Repr

/-- One exchange of the time protocol under way at a child port (R385). -/
structure TimeExch where
  t1 : W64
  t2 : Option W64
  t4 : Option W64
  unlocked : Bool
  since : Nat
deriving DecidableEq, Repr

/-- What a port sends on its lanes (R336, R337): the state of each lane's scrambler (its last 58 bits), the blocks of the port's stream since
it last became ACTIVE, and the coded blocks of the last frame sent, by physical lane (17 h + lane), sync header in bits 1:0. -/
structure LinkCode where
  scr : Assoc (BitVec 58)
  blocks : Nat
  line : List (Nat × BitVec 66)
deriving DecidableEq, Repr

/-- A link port (R335 to R361): registers, the ncyc its state was entered in and of its last receiver-detect pulse, the receive lanes known to
have failed and those that have reported ready in this training by half-port, the working clock lanes, the status its transmit lanes
report in training (by lane), whether a retrain is under way; egress staging, ingress buffers, streams and what they alternate
between, consecutive rill frames; the peer's last CAP with its arrival time, measured round trips, progress of a quiesce or of Deep, whether the
peer has asked to quiesce, whether Deep was this side's request, whether a quiesce keeps the port DOWN; rill sequences; the time
protocol; ingress buckets; parity errors of the window; scheduled service; PRBS counting; the invalid sync headers of the window by lane (R354); the registers of
its PRBS generators while they run, with the ninths of a bit left over (R356); the coding of its lanes. -/
structure Link where
  regs : Regs
  entered : Nat
  polled : Option Nat
  failed0 : BitVec 17
  failed1 : BitVec 17
  ready0 : BitVec 17
  ready1 : BitVec 17
  clk0 : Bool
  clk1 : Bool
  sts : Assoc Nat
  retraining : Bool
  stagReq : List Staged
  stagRep : List Staged
  stagSched : List Staged
  ingReq : List Ingress
  ingRep : List Ingress
  ingSched : List Ingress
  bulk : LinkStream
  rill : LinkStream
  ackRill : Bool
  altRep : Bool
  rillRun : Nat
  peer : Option Cap
  peerAt : W64
  rtts : List Nat
  task : LinkTask
  peerAsked : Bool
  deepMine : Bool
  parked : Bool
  rillOut : List (List Flit)
  rillTaken : List Flit
  rillIng : List Flit
  rillBal : Assoc RillBal
  owedSince : Option Nat
  ctrSend : W64
  ctrRecv : W64
  fails : Nat
  locked : Bool
  exch : Option TimeExch
  offsets : List Int
  epoch : BitVec 1
  buckets : Assoc (W64 × W32)
  xlate : Nat
  sched : Bool
  schedNext : Option (Bool × Option Nat)
  illegal : Nat
  prbs : Assoc Nat
  hdrs : Assoc Nat
  gens : List (BitVec 31)
  genAcc : Nat
  code : LinkCode
deriving DecidableEq, Repr

/-! ## Chip -/

/-- The integration parameters (R503). Retime stages and stitch lines are kept sparsely; an unlisted link has r = 0. -/
structure Integ where
  retimeH : Assoc Nat
  retimeV : Assoc Nat
  stitchX : List Nat
  stitchY : List Nat
  cqBase : W64
  lnkPresent : BitVec 48
  mgwPresent : BitVec 20
deriving DecidableEq, Repr

/-- What the rows of an installed route-table version are a function of: the state taken at the start of its install step
(R73, R310): links closed by sluices, cells with empty rows, cells whose blocks set the detour flag, regions and blocks that
carry no transit, ACTIVE link ports, exception entries, and the number of the build. -/
structure Build where
  id : Nat
  closed : List (Nat × Nat)
  empty : List Nat
  fenced : List Nat
  quiet : List Nat
  noTransit : List Nat
  ports : List Nat
  exc : List W32
deriving DecidableEq, Repr

/-- Why an epoch flip is asked for (R310, R316, R358, R378, R409, R410, R456): a sluice change or a fence; a command in
mailbox m of an opcode; the follow-up of a wake, a power-on or the loss of a bundle. -/
inductive FlipReq where
  | reroute
  | command (m : Nat) (opcode : Nat)
  | follow
deriving DecidableEq, Repr

/-- An epoch flip in progress (R86): its step, the versions, the requests it serves, the drain's tallies. -/
structure Flip where
  step : Nat
  old : BitVec 1
  new_ : BitVec 1
  reqs : List FlipReq
  unattrib0 : Nat
  tallies : List Int
  lost : Int
deriving DecidableEq, Repr

/-- A schedule bank (R103, R105, R121, R122). -/
structure SchedRow where
  cell : Nat
  period : Nat
  entry : W64
deriving DecidableEq, Repr

/-- A stream record (R122). -/
structure StreamRec where
  cell : Nat
  gateway : Bool
  stream : Nat
  period : Nat
  type : Nat
  packets : Nat
  dynTree : Option Nat
  dest : Nat
  tag : W32
deriving DecidableEq, Repr

/-- A link record (R122). -/
structure LinkRec where
  port : Nat
  width : Nat
  lat : Nat
  peer : Nat
  ingress : Bool
deriving DecidableEq, Repr

/-- A schedule bank (R103, R105, R121, R122). -/
structure Bank where
  valid : Bool
  t0 : Nat
  lens : List Nat
  rows : List SchedRow
  streams : List StreamRec
  wakes : List Nat
  links : List LinkRec
  id : W64
deriving DecidableEq, Repr

/-- An installed tree (R217, R243, R244): kind, root, records as (cell, branch mask, up port, children). -/
structure Tree where
  id : Nat
  red : Bool
  root : Nat
  verts : List (Nat × Nat × Nat × Nat)
deriving DecidableEq, Repr

/-- A retirement under way (R234): tree, mailbox that waits, whether HELD ranges are discarded, whether a full interval with seen zero has passed,
the T[63:3] at which its watch began. -/
structure Retire where
  tree : Nat
  mbx : Nat
  discard : Bool
  clean : Bool
  since : Nat
deriving DecidableEq, Repr

/-- A parterre (R202, R431). -/
structure Parterre where
  id : Nat
  cells : List Nat
deriving DecidableEq, Repr

/-- The rill context runtime at the root (R281): when the first arrival came (T[63:3], with its timer), and whether a release is
due. -/
structure CtxRoot where
  first : Option (Nat × Nat)
deriving DecidableEq, Repr

/-- What the rill net was when Zhevber last wrote routes or a tree (R279, R280): the root, the blocks whose rill routers stood still, the closed
rill ports as (cell, port). -/
structure RillMap where
  root : Nat
  still : List Nat
  closed : List (Nat × Nat)
deriving DecidableEq, Repr

/-- The tree of context 0 or 1 as Zhevber last wrote it (R280, R290, R459): the net and root it is for, the up port at the root, the cells whose
expect mask has the edge bit. -/
structure RillTree where
  net : RillMap
  up : Nat
  kids : List Nat
deriving DecidableEq, Repr

/-- A tally in progress (R90, R233): its T[63:3], cells that have latched, the sums. -/
structure Tally where
  at_ : Nat
  drain : Bool
deriving DecidableEq, Repr

/-- A snapshot under way (R479, R480). -/
structure Snap where
  t : W64
  mbx : Nat
  mask : BitVec 16
deriving DecidableEq, Repr

/-! ## Fountaineer -/

/-- Boot states (R447). -/
inductive Boot where
  | held | checking | verifying | running | failed
deriving DecidableEq, Repr

/-- A mailbox (R421): command and response words, busy, done, overrun, and whether Zhevber has taken the command and waits. -/
structure Mailbox where
  cmd : List W32
  rsp : List W32
  busy : Bool
  done : Bool
  overrun : Bool
  taken : Bool
deriving DecidableEq, Repr

/-- A session key slot (R426, R429). -/
structure Slot where
  key : Option (BitVec 128)
  counter : W64
  fails : Nat
  locked : Bool
deriving DecidableEq, Repr

/-- An event record (R434). -/
structure Event where
  type : BitVec 16
  unit : BitVec 14
  seq : W32
  time : W64
  body0 : W64
  body1 : W64
deriving DecidableEq, Repr

/-- An open file (R431). -/
structure FileRt where
  kind : Nat
  total : Nat
  bytes : List Byte
deriving DecidableEq, Repr

/-- A record of the cistern as the open directory names it (R439): kind, part, payload, written day, the pages of its three
copies, its generation. -/
structure CistRec where
  kind : Nat
  part : Nat
  gen : Nat
  day : Nat
  pages : List Nat
deriving DecidableEq, Repr

/-- One copy of the cistern as Zhevber knows it after CISTERN_OPEN (R441, R442). -/
structure CistCopy where
  usable : Bool
  abandoned : Bool
  anchor : Nat
  dirGen : Nat
  recs : List CistRec
  zones : List Nat
  badPages : List Nat
  badReads : List Nat
deriving DecidableEq, Repr

/-- The Fountaineer with Zhevber's state (R417 to R449). -/
structure Ftn where
  boot : Boot
  cause : BitVec 4
  version : W32
  image : Mem
  beats : List W64
  keyed : Bool
  since : Nat
  nonce : W64
  sysRoot : Option (BitVec 256)
  slots : List Slot
  xkeyGen : W32
  mbx : List Mailbox
  last : Nat
  staging : Assoc Mem
  ring : Assoc Event
  evHead : Nat
  evCi : Nat
  evOwed : Nat
  mgmt : Assoc Event
  mHead : Nat
  mCi : Nat
  mOwed : Nat
  evSeq : W32
  files : List FileRt
  startCount : Option W32
  day : Nat
  dayFrom : Nat
  retention : Nat
  copyA : CistCopy
  copyB : CistCopy
  faultOut : Bool
  resetAt : Option Nat
deriving DecidableEq, Repr

/-- A register port's latches (R9): the address and bits [63:32] latched by the last lower-word read, and a held lower-word
write. -/
structure PortLatch where
  latch : Option (Nat × W32)
  held : Option (Nat × W32)
deriving DecidableEq, Repr

/-- What the block shows at its ports (R497 to R502): MODEL's own record of outputs (log 4). -/
inductive Out where
  | read (a : Agent) (addr : Nat) (v : W32)
  | coreRsp (c core : Nat) (v : W64)
  | dispatch (c : Nat) (handler : BitVec 12) (queue : BitVec 6)
  | queueNotify (c : Nat) (queue : Nat)
  | complete (c : Nat) (num : Nat)
  | rillNotify (c : Nat)
  | pcsRequest (c core : Nat)
  | frame (n : Nat) (f : Frame)
  | waveTone (n : Nat)
  | training (n h l : Nat) (msg : BitVec 56)
  | detectPulse (n : Nat)
  | prbs (n k : Nat) (lanes : List Nat)
  | mgmtRecord (e : Event)
  | keyImage (words : Nat)
  | stackRead (g tag addr : Nat)
  | stackWrite (g tag addr : Nat)
deriving DecidableEq, Repr

/-- The chip-wide state. `masterId` is the master chip's ID as this chip knows it (R383): no command writes it, and its reset value is free (log 29). `snaps` holds the latest latch of each unit by its key: the 32-bit words of its windows by their offset, then those
of its record in the dump (R480, R483, R494). -/
structure Chip where
  regs : Regs
  integ : Integ
  build0 : Build
  build1 : Build
  builds : Nat
  active : BitVec 1
  routed : Bool
  flip : Option Flip
  flipReqs : List FlipReq
  exc : List W32
  rillGen : Nat
  rillMap : RillMap
  tree0 : Option RillTree
  tree1 : Option RillTree
  banks0 : Bank
  banks1 : Bank
  running : Bool
  activeBank : BitVec 1
  switchAt : Option Nat
  stopAt : Option Nat
  installed : Bool
  treeFile : Option W64
  trees : List Tree
  retiring : List Retire
  parterres : List Parterre
  ctxRoots : Assoc CtxRoot
  tally : Option Tally
  lastTally : Nat
  lastWatch : Nat
  arming : Option Nat
  armDone : Nat
  snap : Option Snap
  snaps : Assoc (Assoc W32)
  pendStep : Option Int
  stepSent : Bool
  lastSlew : Option Nat
  lastExch : Option Nat
  lastGood : Nat
  locked : Bool
  mbxWait : Assoc Nat
  reopens : List (Nat × Nat × Nat)
  quiesce : List (Nat × Nat)
  masterId : BitVec 13
deriving DecidableEq, Repr

/-- The state of the block. -/
structure State where
  pending : List Instr
  free : Nat
  out : List Out
  time : W64
  ncyc : Nat
  por : Bool
  chip : Chip
  cells : Table Cell
  blocks : Table Block
  regions : Table Region
  links : Table Link
  gws : Table Gateway
  ftn : Ftn
  portHost : PortLatch
  portMgmt : PortLatch
  portZhev : PortLatch
deriving DecidableEq, Repr

/-- Faults of the model: none of the block's commands faults; the constructor stands for an access to memory outside every
address space of the spec. No command raises it in this model, which is safe. -/
inductive Fault where
  /-- An address that no memory of the block has. Raised by no command. Safe. -/
  | noSuchAddress
deriving DecidableEq, Repr

/-- Refusals of the model. -/
inductive Refusal where
  /-- A command without a meaning yet; raised by the arm of that command. Safe. -/
  | notModelled (mnemonic : String)
  /-- A command that names a cell, block, region, port, gateway, mailbox, core, queue, ring or channel the die does not have
  (R3, R20, R27); raised by every command that names a unit. Such a command names no event of the block. Safe. -/
  | noSuchUnit
deriving DecidableEq, Repr

/-! ## Reset (R14, R314, R317, R452): the machine right after chip reset -/

/-- The registers of a unit at reset: none written. -/
def Regs.reset (sc : Scope) : Regs := ⟨sc, [], []⟩

/-- A plane of a router with nothing in it. -/
def RtPlane.reset : RtPlane := ⟨[], [], 0, 0⟩

/-- A router at chip reset: both versions FREE (R85), nothing in flight, sluices open. -/
def Router.reset : Router :=
  { req := RtPlane.reset, rep := RtPlane.reset, sched := [], answers := [], ansSince := 0, ver0 := 0, ver1 := 0, rows0 := 0, rows1 := 0,
    entered0 := 0, left0 := 0, entered1 := 0, left1 := 0, rotBase := 0, defl := [], wakeSent := [], sluices := [],
    rillClosed := 0, casc := [], watchLive := 0, rillIn := [], rillOwner := [], rillLocal := [], rillBal := [], ctx := [],
    lfsr := 0, sample := none, sampleNo := 0, telSent := [], armed := [], rillUsed := [], tallyAt := none, freezeAt := none,
    latched := 0, seen := 0, lostW0 := 0, tallyCopy := none, lateTally := false, held0 := 0, held1 := 0, epochNext := none,
    treeSet := [], lateTallies := 0 }

/-- An NI at chip reset, in bring-up hold (R452). -/
def Ni.reset : Ni :=
  { hold := .bringUp, headReq := none, headRep := none, ejected := [], chans := [], fetches := [], tokens := [], queues := [],
    dispatch := [], cores := [], rings := [], descs := [], tranches := [], serves := [], quarantine := [], cmReqs := [],
    badReads := [], nextId := 0, fountain := [], mcLands := [], vReq := 0, vRep := 0, slipCredit := 65536, slipUpd := 0,
    slipFinish := 0, slipTag := false, slipOk := false, spillUpd := 0, ranges := [], heldSeq := 0, redLands := [], inbox := [], bars := [], rillFrom := [], mapCache := [],
    mapMiss := [], mntReq := none, mntRep := none, retest := [], dup := none, accepted := 0, pcs := none, pcsCore := 0,
    telWritten := 0, pcsWritten := 0, latNext := 0, slips := [], loaded := [], peers := [], faulted := [], strobes := [], did := [] }

/-- A cell at chip reset. Its cluster memory is the licensee's; an unlisted byte reads 0 (log 6). -/
def Cell.reset : Cell := ⟨Regs.reset .cell, Router.reset, Ni.reset, []⟩

/-- A block at chip reset, in Run (R411). -/
def Block.reset : Block :=
  { regs := Regs.reset .block, counts := [], waiting := none, lastSend := none, power := .run, holdFrom := none,
    exiting := false, idleFrom := 0, lastGrant := [], nextGrant := 0, rinseT := 0, rinseQ := 0, rinsePort := [],
    fenced := false, ctlReset := false, offReq := false, combPend := [], missed := 0, test := none, since := 0, polled := none, crossing := [] }

/-- A region manager at chip reset: every map entry vacant (R517), in bring-up hold (R452). -/
def Region.reset : Region :=
  { regs := Regs.reset .region, waiting := none, lastSend := none, missed := 0, map := [],
    bringUp := true, asleep := false, waking := false, sleepReq := false, isolate := false, hard := false, taken := false,
    coalesceLost := false, polled := none, since := 0 }

/-- A memory gateway at chip reset. -/
def Gateway.reset : Gateway :=
  { regs := Regs.reset .gateway, inq := [], tranches := [], reqs := [], serves := [], streams := [], answers := [],
    buckets := [], epoch := 0, nextId := 0, hold := true, stack := [], did := [], moveAt := 0, moves := 0 }

/-- A stream at sequence 0 (R345). -/
def LinkStream.reset : LinkStream := ⟨0, 0, [], none, false, 0⟩

/-- A link port at chip reset: DISABLED (R339). -/
def Link.reset : Link :=
  { regs := Regs.reset .link, entered := 0, polled := none, failed0 := 0, failed1 := 0, ready0 := 0, ready1 := 0, clk0 := true, clk1 := true,
    sts := [], retraining := false, stagReq := [], stagRep := [], stagSched := [], ingReq := [], ingRep := [], ingSched := [],
    bulk := LinkStream.reset, rill := LinkStream.reset, ackRill := false, altRep := false, rillRun := 0, peer := none, peerAt := 0, rtts := [],
    task := .none, peerAsked := false, deepMine := false, parked := false, rillOut := [], rillTaken := [], rillIng := [], rillBal := [],
    owedSince := none, ctrSend := 0, ctrRecv := 0, fails := 0, locked := false, exch := none, offsets := [], epoch := 0,
    buckets := [], xlate := 0, sched := false, schedNext := none, illegal := 0, prbs := [], hdrs := [], gens := [], genAcc := 0, code := ⟨[], 0, []⟩ }

/-- The integration parameters the model runs with: every port present as R503 gives by default, no retime stage, no stitch
line and a core-visible window at 0, which are the integrator's to set (log 3). -/
def Integ.reset : Integ :=
  { retimeH := [], retimeV := [], stitchX := [], stitchY := [], cqBase := 0, lnkPresent := BitVec.allOnes 48,
    mgwPresent := BitVec.allOnes 20 }

/-- No build: every row 0 (R94). -/
def Build.reset : Build := ⟨0, [], [], [], [], [], [], []⟩

/-- An empty bank (R512). -/
def Bank.reset : Bank := ⟨false, 0, [], [], [], [], [], 0⟩

/-- The chip-wide state at chip reset. -/
def Chip.reset : Chip :=
  { regs := Regs.reset .chip, integ := Integ.reset, build0 := Build.reset, build1 := Build.reset, builds := 0, active := 0,
    routed := false, flip := none, flipReqs := [], exc := [], rillGen := 0, rillMap := ⟨0, [], []⟩, tree0 := none, tree1 := none, banks0 := Bank.reset, banks1 := Bank.reset,
    running := false, activeBank := 0, switchAt := none, stopAt := none, installed := false, treeFile := none, trees := [], retiring := [],
    parterres := [], ctxRoots := [], tally := none, lastTally := 0, lastWatch := 0, arming := none, armDone := 0, snap := none, snaps := [],
    pendStep := none, stepSent := false, lastSlew := none, lastExch := none, lastGood := 0, locked := false, mbxWait := [],
    reopens := [], quiesce := [], masterId := Config.masterChip }

/-- A mailbox at chip reset (R444, R446). -/
def Mailbox.reset : Mailbox := ⟨List.replicate 16 0, List.replicate 16 0, false, false, false, false⟩

/-- A key slot before its key is derived (R428, R448). -/
def Slot.reset : Slot := ⟨none, 0, 0, false⟩

/-- A cistern copy before CISTERN_OPEN. -/
def CistCopy.reset : CistCopy := ⟨false, false, 0, 0, [], [], [], []⟩

/-- The Fountaineer at chip reset: HELD (R419). -/
def Ftn.reset : Ftn :=
  { boot := .held, cause := 0, version := 0, image := [], beats := [], keyed := false, since := 0, nonce := 0, sysRoot := none,
    slots := List.replicate 4 Slot.reset, xkeyGen := 0, mbx := List.replicate 10 Mailbox.reset, last := 9, staging := [],
    ring := [], evHead := 0, evCi := 0, evOwed := 0, mgmt := [], mHead := 0, mCi := 0, mOwed := 0, evSeq := 0,
    files := [], startCount := none, day := 0, dayFrom := 0, retention := 90, copyA := CistCopy.reset, copyB := CistCopy.reset,
    faultOut := false, resetAt := none }

/-- A register port with nothing latched or held (R9). -/
def PortLatch.reset : PortLatch := ⟨none, none⟩

/-- The block right after reset: no command waits, T is 0, tpn_por_n is high (log 7). -/
def State.reset : State :=
  { pending := [], free := 0, out := [], time := 0, ncyc := 0, por := true, chip := Chip.reset,
    cells := ⟨Cell.reset, []⟩, blocks := ⟨Block.reset, []⟩, regions := ⟨Region.reset, []⟩, links := ⟨Link.reset, []⟩,
    gws := ⟨Gateway.reset, []⟩, ftn := Ftn.reset, portHost := PortLatch.reset, portMgmt := PortLatch.reset, portZhev := PortLatch.reset }

end Sys2Proof.Machine
end

