-- ==== Sys2Proof/Machine/Ops.lean ====
section
/-! DEFINITION. The named operations over the state: keyed lists and tables, byte memory in canonical form, registers and their
fields, access to the units, free values, packets (header layout of R36, payload bytes, the CRC-16 of R46), and the CRC-32
of R349. -/

namespace Sys2Proof.Machine

/-- The three outcomes over this state. -/
abbrev Res := Host.Outcome State Fault Refusal

/-! ## Keyed lists and tables -/

/-- The value at a key. -/
def aget {α : Type} (l : Assoc α) (k : Nat) : Option α :=
  match l with
  | [] => none
  | (k', v) :: r => if k' = k then some v else aget r k

/-- Set the value at a key, keeping keys rising. -/
def aput {α : Type} (l : Assoc α) (k : Nat) (v : α) : Assoc α :=
  match l with
  | [] => [(k, v)]
  | (k', v') :: r => if k < k' then (k, v) :: (k', v') :: r else if k' = k then (k, v) :: r else (k', v') :: aput r k v

/-- Remove a key. -/
def adel {α : Type} (l : Assoc α) (k : Nat) : Assoc α := l.filter fun e => e.1 != k

/-- The value at a key of a table. -/
def Table.get {α : Type} (t : Table α) (k : Nat) : α := (aget t.ents k).getD t.dflt

/-- Set one key of a table. -/
def Table.set {α : Type} (t : Table α) (k : Nat) (v : α) : Table α := { t with ents := aput t.ents k v }

/-- Change one key of a table. -/
def Table.mod {α : Type} (t : Table α) (k : Nat) (f : α → α) : Table α := t.set k (f (t.get k))

/-- Change every key of a table alike. -/
def Table.mapAll {α : Type} (t : Table α) (f : α → α) : Table α :=
  ⟨f t.dflt, t.ents.map fun e => (e.1, f e.2)⟩

/-- Drop the first element that a test picks. -/
def dropFirst {α : Type} (p : α → Bool) (l : List α) : List α :=
  match l with
  | [] => []
  | a :: r => if p a then r else a :: dropFirst p r

/-- Change every element that a test picks. -/
def mapIf {α : Type} (p : α → Bool) (f : α → α) (l : List α) : List α := l.map fun a => if p a then f a else a

/-! ## Memory -/

/-- The byte at an address; an unlisted byte reads 0 (log 6). -/
def mread (m : Mem) (a : Nat) : Byte := (aget m a).getD 0

/-- Write a byte, keeping the canonical form: addresses rising, no listed byte 0. -/
def mwrite (m : Mem) (a : Nat) (b : Byte) : Mem :=
  match m with
  | [] => if b = 0 then [] else [(a, b)]
  | (a', b') :: r =>
    if a < a' then (if b = 0 then (a', b') :: r else (a, b) :: (a', b') :: r)
    else if a' = a then (if b = 0 then r else (a, b) :: r)
    else (a', b') :: mwrite r a b

/-- The canonical form of memory: addresses strictly rising and no listed byte equal to what an unlisted one reads as. -/
def Memory.wf : Mem → Bool
  | [] => true
  | [(_, b)] => decide (b ≠ 0)
  | (a, b) :: (a', b') :: r => decide (b ≠ 0) && decide (a < a') && Memory.wf ((a', b') :: r)

/-- Write bytes from an address upward. -/
def mwriteList (m : Mem) (a : Nat) (bs : List Byte) : Mem :=
  match bs with
  | [] => m
  | b :: r => mwriteList (mwrite m a b) (a + 1) r

/-- Read n bytes from an address upward. -/
def mreadList (m : Mem) (a n : Nat) : List Byte := (List.range n).map fun i => mread m (a + i)

/-- The little-endian number that bytes spell (R7). -/
def leNat (bs : List Byte) : Nat :=
  match bs with
  | [] => 0
  | b :: r => b.toNat + 256 * leNat r

/-- The n little-endian bytes of a number (R7). -/
def leBytes (n v : Nat) : List Byte :=
  match n with
  | 0 => []
  | n + 1 => BitVec.ofNat 8 v :: leBytes n (v / 256)

/-- Read an n-byte little-endian number. -/
def mreadLE (m : Mem) (a n : Nat) : Nat := leNat (mreadList m a n)

/-- Read a 64-bit word. -/
def mreadWord (m : Mem) (a : Nat) : W64 := BitVec.ofNat 64 (mreadLE m a 8)

/-- Write a 64-bit word. -/
def mwriteWord (m : Mem) (a : Nat) (v : W64) : Mem := mwriteList m a (leBytes 8 v.toNat)

/-- Bits [lo + len - 1 : lo] of a number. -/
def bits (x lo len : Nat) : Nat := x / 2 ^ lo % 2 ^ len

/-- A number with bits [lo + len - 1 : lo] replaced. -/
def setBits (x lo len v : Nat) : Nat := x - bits x lo len * 2 ^ lo + v % 2 ^ len * 2 ^ lo

/-! ## Registers -/

/-- The registers of a scope. -/
def scopeRegs (sc : Scope) : List RegRow :=
  match sc with
  | .cell => cellRegs
  | .block => blockRegs
  | .region => regionRegs
  | .link => linkRegs
  | .gateway => gatewayRegs
  | .chip => chipRegs

/-- Does a register row hold the register at an offset? -/
def RegRow.at_ (r : RegRow) (off : Nat) : Bool :=
  if r.stride = 0 then off == r.off
  else decide (r.off ≤ off) && (off - r.off) % r.stride == 0 && decide ((off - r.off) / r.stride < r.count)

/-- The register at an offset of a scope. -/
def regRow (sc : Scope) (off : Nat) : Option RegRow := (scopeRegs sc).find? fun r => r.at_ off

/-- The value a register resets to. -/
def regReset (sc : Scope) (off : Nat) : W64 := BitVec.ofNat 64 (((regRow sc off).map (·.reset)).getD 0)

/-- The value of a register. -/
def Regs.read (r : Regs) (off : Nat) : W64 := (aget r.vals off).getD (regReset r.scope off)

/-- The value of a register at the start of this ncyc (R11). -/
def Regs.before (r : Regs) (off : Nat) : W64 := (aget r.base off).getD (r.read off)

/-- The value of a field of a register at the start of this ncyc (R11). -/
def Regs.was (r : Regs) (f : Field) : Nat := bits (r.before f.off).toNat f.lo f.len

/-- Set a register, keeping the value it had at the start of this ncyc. -/
def Regs.write (r : Regs) (off : Nat) (v : W64) : Regs :=
  { r with vals := aput r.vals off v, base := if (aget r.base off).isSome then r.base else aput r.base off (r.read off) }

/-- The registers at the start of the next ncyc. -/
def Regs.settled (r : Regs) : Regs := { r with base := [] }

/-- The value of a field. -/
def Regs.get (r : Regs) (f : Field) : Nat := bits (r.read f.off).toNat f.lo f.len

/-- Set a field. -/
def Regs.set (r : Regs) (f : Field) (v : Nat) : Regs :=
  r.write f.off (BitVec.ofNat 64 (setBits (r.read f.off).toNat f.lo f.len v))

/-- Hardware sets bit i of a W1C field in this ncyc: no clear of this ncyc takes it (R11). -/
def Regs.strike (r : Regs) (f : Field) (i : Nat) : Regs :=
  let x := r.set f (setBits (r.get f) i 1 1)
  { x with base := aput x.base f.off (x.before f.off &&& ~~~(BitVec.ofNat 64 (2 ^ (f.lo + i)))) }

/-- Add to a counter, which saturates at all-ones (R12). -/
def Regs.add (r : Regs) (f : Field) (n : Nat) : Regs := r.set f (min (r.get f + n) (2 ^ f.len - 1))

/-- Add one to a counter that saturates (R12). -/
def Regs.bump (r : Regs) (f : Field) : Regs := r.add f 1

/-- Add to a counter whose Meaning column says it wraps. -/
def Regs.addWrap (r : Regs) (f : Field) (n : Nat) : Regs := r.set f (r.get f + n)

/-- Is a one-bit field set? -/
def Regs.flag (r : Regs) (f : Field) : Bool := r.get f != 0

/-- Return the masked bits of every register to their reset value. -/
def Regs.resetMasked (r : Regs) (mask : RegRow → Nat) : Regs :=
  { r with
    base := []
    vals := r.vals.map fun e =>
      match regRow r.scope e.1 with
      | some row => (e.1, (e.2 &&& ~~~(BitVec.ofNat 64 (mask row))) ||| (BitVec.ofNat 64 row.reset &&& BitVec.ofNat 64 (mask row)))
      | none => e }

/-! ## Units -/

/-- A cell. -/
def State.cell (s : State) (c : Nat) : Cell := s.cells.get c
/-- A block. -/
def State.block (s : State) (b : Nat) : Block := s.blocks.get b
/-- A region. -/
def State.region (s : State) (r : Nat) : Region := s.regions.get r
/-- A link port. -/
def State.link (s : State) (n : Nat) : Link := s.links.get n
/-- A memory gateway. -/
def State.gw (s : State) (g : Nat) : Gateway := s.gws.get g
/-- Change a cell. -/
def State.modCell (s : State) (c : Nat) (f : Cell → Cell) : State := { s with cells := s.cells.mod c f }
/-- Change a block. -/
def State.modBlock (s : State) (b : Nat) (f : Block → Block) : State := { s with blocks := s.blocks.mod b f }
/-- Change a region. -/
def State.modRegion (s : State) (r : Nat) (f : Region → Region) : State := { s with regions := s.regions.mod r f }
/-- Change a link port. -/
def State.modLink (s : State) (n : Nat) (f : Link → Link) : State := { s with links := s.links.mod n f }
/-- Change a memory gateway. -/
def State.modGw (s : State) (g : Nat) (f : Gateway → Gateway) : State := { s with gws := s.gws.mod g f }
/-- Change the chip-wide state. -/
def State.modChip (s : State) (f : Chip → Chip) : State := { s with chip := f s.chip }
/-- Change the Fountaineer. -/
def State.modFtn (s : State) (f : Ftn → Ftn) : State := { s with ftn := f s.ftn }
/-- Change the router of a cell. -/
def State.modRt (s : State) (c : Nat) (f : Router → Router) : State := s.modCell c fun x => { x with rt := f x.rt }
/-- Change the NI of a cell. -/
def State.modNi (s : State) (c : Nat) (f : Ni → Ni) : State := s.modCell c fun x => { x with ni := f x.ni }
/-- Change the registers of a cell. -/
def State.modCellRegs (s : State) (c : Nat) (f : Regs → Regs) : State := s.modCell c fun x => { x with regs := f x.regs }
/-- Change the registers of a block. -/
def State.modBlockRegs (s : State) (b : Nat) (f : Regs → Regs) : State := s.modBlock b fun x => { x with regs := f x.regs }
/-- Change the registers of a region. -/
def State.modRegionRegs (s : State) (r : Nat) (f : Regs → Regs) : State := s.modRegion r fun x => { x with regs := f x.regs }
/-- Change the registers of a link port. -/
def State.modLinkRegs (s : State) (n : Nat) (f : Regs → Regs) : State := s.modLink n fun x => { x with regs := f x.regs }
/-- Change the registers of a memory gateway. -/
def State.modGwRegs (s : State) (g : Nat) (f : Regs → Regs) : State := s.modGw g fun x => { x with regs := f x.regs }
/-- Change the chip registers. -/
def State.modChipRegs (s : State) (f : Regs → Regs) : State := s.modChip fun x => { x with regs := f x.regs }
/-- Add one to a counter of a cell (R12). -/
def State.bump (s : State) (c : Nat) (f : Field) : State := s.modCellRegs c fun r => r.bump f
/-- The router of a cell. -/
def State.rt (s : State) (c : Nat) : Router := (s.cell c).rt
/-- The NI of a cell. -/
def State.ni (s : State) (c : Nat) : Ni := (s.cell c).ni
/-- A field of a cell's registers. -/
def State.cget (s : State) (c : Nat) (f : Field) : Nat := (s.cell c).regs.get f
/-- A one-bit field of a cell's registers. -/
def State.cellFlag (s : State) (c : Nat) (f : Field) : Bool := (s.cell c).regs.flag f
/-- A field of the chip's registers. -/
def State.chget (s : State) (f : Field) : Nat := s.chip.regs.get f
/-- Show something at the ports (log 4). -/
def State.emit (s : State) (o : Out) : State := { s with out := s.out ++ [o] }
/-- The time in whole ncyc, T[63:3] (R104). -/
def State.now (s : State) : Nat := s.time.toNat / 8
/-- This chip's ID (R24). -/
def State.chipId (s : State) : BitVec 13 := BitVec.ofNat 13 (s.chget CHP_CHIP_ID_chip_id)
/-- The next state with what no command changes as it was: the commands that wait, and the parameters the integrator has set (R503). -/
def State.keeping (s old : State) : State := { s with pending := old.pending, chip := { s.chip with integ := old.chip.integ } }
/-- A command's next state where it names units the die has; else refused by name (log 9). -/
def onUnit (ok : Bool) (old s : State) : Res := if ok then .next (s.keeping old) else .refused .noSuchUnit
/-- A free value, and the state that has drawn it (log 1). -/
def State.draw (s : State) : W64 × State := (Config.freeWord s.free, { s with free := s.free + 1 })
/-- Where a condition holds, a change; else nothing (log 8). -/
def State.when_ (s : State) (b : Bool) (f : State → State) : State := if b then f s else s

/-- Do a change at each element of a list, in order. -/
def State.forEach {α : Type} (s : State) (l : List α) (f : State → α → State) : State := l.foldl f s

/-! ## Timers in µs (R141) -/

/-- The first µs boundary at or after n + 1,800 t: where a timer of t µs started in ncyc n expires (R141). -/
def expiry (n t : Nat) : Nat := (n + 1800 * t + 1799) / 1800 * 1800

/-- Has a timer of t µs started in ncyc n expired? -/
def expired (now n t : Nat) : Bool := decide (expiry n t ≤ now)

/-! ## CRC-32 of IEEE 802.3 (R349) -/

/-- One bit step of the reflected CRC-32. -/
def crc32Step (c : Nat) : Nat := if c % 2 = 1 then c / 2 ^^^ 0xEDB88320 else c / 2

/-- One byte of CRC-32. -/
def crc32Byte (c : Nat) (b : Byte) : Nat := (List.range 8).foldl (fun c _ => crc32Step c) (c ^^^ b.toNat)

/-- CRC-32 of bytes (R349). -/
def crc32 (bs : List Byte) : Nat := bs.foldl crc32Byte 0xFFFFFFFF ^^^ 0xFFFFFFFF

end Sys2Proof.Machine

namespace Sys2Proof

open Sys2Proof.Machine

/-! ## Packets -/

/-- The header of a packet as the 128-bit value of R36. -/
def Packet.header (p : Packet) : BitVec 128 :=
  p.reserved ++ p.crc ++ p.parterre ++ p.length ++ p.seq ++ p.chanTree ++ p.srcCell ++ p.srcChip ++ p.dstCell ++ p.dstChip ++
  p.age ++ p.logicalForm ++ p.last ++ p.echo ++ p.cmark ++ p.epoch ++ p.cls ++ p.type

/-- The packet that a header of R36, a payload and check bytes spell. -/
def Packet.ofHeader (h : BitVec 128) (pl : BitVec 384) (ck : BitVec 64) : Packet :=
  { type := h.extractLsb' 0 4, cls := h.extractLsb' 4 2, epoch := h.extractLsb' 6 1, cmark := h.extractLsb' 7 1,
    echo := h.extractLsb' 8 1, last := h.extractLsb' 9 1, logicalForm := h.extractLsb' 10 1, age := h.extractLsb' 11 7,
    dstChip := h.extractLsb' 18 13, dstCell := h.extractLsb' 31 14, srcChip := h.extractLsb' 45 13,
    srcCell := h.extractLsb' 58 14, chanTree := h.extractLsb' 72 12, seq := h.extractLsb' 84 12, length := h.extractLsb' 96 6,
    parterre := h.extractLsb' 102 8, crc := h.extractLsb' 110 16, reserved := h.extractLsb' 126 2, payload := pl,
    check := ck }

/-- n payload bytes from byte k, as a little-endian number (R7). -/
def Packet.pl (p : Packet) (k n : Nat) : Nat := bits p.payload.toNat (8 * k) (8 * n)

/-- The payload bytes of a packet. -/
def Packet.plBytes (p : Packet) : List Byte := leBytes 48 p.payload.toNat

/-- The payload whose bytes are a list, zero beyond it. -/
def payloadOf (bs : List Byte) : BitVec 384 := BitVec.ofNat 384 (leNat (bs.take 48))

/-- One bit step of CRC-16 with polynomial 0x8BB7, most significant bit first (R46). -/
def crc16Step (c : Nat) : Nat := if c / 32768 % 2 = 1 then (c * 2 ^^^ 0x8BB7) % 65536 else c * 2 % 65536

/-- One byte of CRC-16 (R46). -/
def crc16Byte (c : Nat) (b : Byte) : Nat := (List.range 8).foldl (fun c _ => crc16Step c) (c ^^^ b.toNat * 256)

/-- CRC-16 of bytes (R46). -/
def crc16 (bs : List Byte) : BitVec 16 := BitVec.ofNat 16 (bs.foldl crc16Byte 0)

/-- The image a packet's CRC covers (R46). -/
def Packet.image (p : Packet) : Packet :=
  { p with epoch := 0, cmark := 0, echo := 0, logicalForm := 0, age := 0, dstCell := 0, srcCell := 0, crc := 0, reserved := 0 }

/-- The end-to-end CRC a packet ought to carry (R46). -/
def Packet.crcOf (p : Packet) : BitVec 16 :=
  crc16 (leBytes 16 p.image.header.toNat ++ p.plBytes)

/-- Packet word k, bytes 8k to 8k + 7 (R33). -/
def Packet.word (p : Packet) (k : Nat) : W64 :=
  if k < 2 then p.header.extractLsb' (64 * k) 64 else p.payload.extractLsb' (64 * (k - 2)) 64

/-- The packet with check bytes 64 and 65 regenerated from words 0 and 1, the others as they travel (R35). -/
def Packet.regen (p : Packet) : Packet :=
  { p with check := p.check.extractLsb' 16 48 ++ Config.hsiao (p.word 1) ++ Config.hsiao (p.word 0) }

/-- The packet with all its check bytes computed, as its source drives it (R33). -/
def Packet.coded (p : Packet) : Packet :=
  { p with check := BitVec.ofNat 64 (leNat ((List.range 8).map fun k => Config.hsiao (p.word k))) }

/-- The packet with its crc and its check bytes written by its creating unit (R33, R46). -/
def Packet.seal (p : Packet) : Packet := Packet.coded { p with crc := p.crcOf }

/-- The 72 bytes of a packet on a mesh link and in a frame (R33, R347). -/
def Packet.bytes (p : Packet) : List Byte := leBytes 16 p.header.toNat ++ p.plBytes ++ leBytes 8 p.check.toNat

/-- The granule index of a bulk packet: chan_tree high, sequence low (R39). -/
def Packet.granule (p : Packet) : Nat := p.chanTree.toNat * 4096 + p.seq.toNat

/-- Packet types (R39). -/
def tMSG : BitVec 4 := 0x1
/-- MSG_HEAD (R39). -/
def tMSG_HEAD : BitVec 4 := 0x2
/-- MSG_BODY (R39). -/
def tMSG_BODY : BitVec 4 := 0x3
/-- WR (R39). -/
def tWR : BitVec 4 := 0x4
/-- RD_REQ (R39). -/
def tRD_REQ : BitVec 4 := 0x5
/-- RD_DATA (R39). -/
def tRD_DATA : BitVec 4 := 0x6
/-- ACK (R39). -/
def tACK : BitVec 4 := 0x7
/-- NACK (R39). -/
def tNACK : BitVec 4 := 0x8
/-- COMPL (R39). -/
def tCOMPL : BitVec 4 := 0x9
/-- MCAST (R39). -/
def tMCAST : BitVec 4 := 0xA
/-- RED (R39). -/
def tRED : BitVec 4 := 0xB
/-- RED_RESULT (R39). -/
def tRED_RESULT : BitVec 4 := 0xC
/-- TEL (R39). -/
def tTEL : BitVec 4 := 0xD
/-- MNT (R39). -/
def tMNT : BitVec 4 := 0xE

/-- The answerable types: MSG, MSG_HEAD, MSG_BODY, WR and RD_REQ (R48). -/
def Packet.answerable (p : Packet) : Bool := decide (1 ≤ p.type.toNat) && decide (p.type.toNat ≤ 5)

/-- A packet with every field zero. -/
def Packet.blank : Packet :=
  { type := 0, cls := 0, epoch := 0, cmark := 0, echo := 0, last := 0, logicalForm := 0, age := 0, dstChip := 0, dstCell := 0,
    srcChip := 0, srcCell := 0, chanTree := 0, seq := 0, length := 0, parterre := 0, crc := 0, reserved := 0, payload := 0,
    check := 0 }

/-- A NACK for a packet: source the refusing point as the packet's destination fields stand, destination the packet's source,
parterre, class, chan_tree and sequence copied (R38, R49, R182). -/
def nackFor (p : Packet) (reason detail : Nat) : Packet :=
  ({ Packet.blank with
      type := tNACK, cls := p.cls, dstChip := p.srcChip, dstCell := p.srcCell, srcChip := p.dstChip, srcCell := p.dstCell,
      logicalForm := p.logicalForm, chanTree := p.chanTree, seq := p.seq, length := 8, parterre := p.parterre,
      payload := BitVec.ofNat 384 (reason % 16 + p.type.toNat * 256 + detail % 4294967296 * 4294967296) } : Packet).seal

/-- An ACK for a message packet (R54): echo returns its cmark. chan_tree is the sender's channel (R39). -/
def ackFor (p : Packet) (senderChan : BitVec 12) : Packet :=
  ({ Packet.blank with
      type := tACK, cls := p.cls, echo := p.cmark, dstChip := p.srcChip, dstCell := p.srcCell, srcChip := p.dstChip,
      srcCell := p.dstCell, chanTree := senderChan, seq := p.seq, length := 0, parterre := p.parterre } : Packet).seal

end Sys2Proof
end

