-- ==== Sys2Proof/Machine/Crypto.lean ====
section
/-! DEFINITION. The block cipher and message authentication that R285, R426 and R427 name by their standards: AES with 128- and 256-bit
keys, and the CMAC of NIST SP 800-38B over it. The standards' own text is not in the spec (log 28). -/

namespace Sys2Proof.Machine

/-- Multiplication by x in the AES field. -/
def xtime (a : Nat) : Nat := if 128 ≤ a then (2 * a ^^^ 0x11B) % 256 else 2 * a

/-- Multiplication in the AES field, the multiplier taken bit by bit. -/
def gmulAux (n a b acc : Nat) : Nat :=
  match n with
  | 0 => acc
  | n + 1 => gmulAux n (xtime a) (b / 2) (if b % 2 = 1 then acc ^^^ a else acc)

/-- Multiplication in the AES field. -/
def gmul (a b : Nat) : Nat := gmulAux 8 a b 0

/-- The inverse in the AES field as the 254th power; 0 for 0. -/
def ginv (a : Nat) : Nat :=
  let a2 := gmul a a
  let a3 := gmul a2 a
  let a6 := gmul a3 a3
  let a12 := gmul a6 a6
  let a15 := gmul a12 a3
  let a30 := gmul a15 a15
  let a60 := gmul a30 a30
  let a120 := gmul a60 a60
  let a126 := gmul a120 a6
  let a127 := gmul a126 a
  gmul a127 a127

/-- Rotate a byte left. -/
def rotByte (x k : Nat) : Nat := (x * 2 ^ k + x * 2 ^ k / 256) % 256

/-- The substitution of AES. -/
def subByte (b : Nat) : Nat :=
  let x := ginv b
  x ^^^ rotByte x 1 ^^^ rotByte x 2 ^^^ rotByte x 3 ^^^ rotByte x 4 ^^^ 0x63

/-- Exclusive or of byte lists. -/
def xorBytes (a b : List Nat) : List Nat := List.zipWith (fun x y => x ^^^ y) a b

/-- Words of the key schedule: nk words of the key, then `more` further ones; the latest first. -/
def keyWords (nk more i rcon : Nat) (ws : List (List Nat)) : List (List Nat) :=
  match more with
  | 0 => ws
  | n + 1 =>
    let last := ws.headD []
    let old := ws.getD (nk - 1) []
    let first := i % nk == 0
    let t := if first then xorBytes ((last.drop 1 ++ last.take 1).map subByte) [rcon, 0, 0, 0]
      else if 6 < nk && i % nk == 4 then last.map subByte
      else last
    keyWords nk n (i + 1) (if first then xtime rcon else rcon) (xorBytes old t :: ws)

/-- Cut a list into pieces of four. -/
def fours (n : Nat) (l : List Nat) : List (List Nat) := (List.range n).map fun i => (l.drop (4 * i)).take 4

/-- The round keys of an AES key of 16 or 32 bytes. -/
def roundKeys (key : List Nat) : List (List Nat) :=
  let nk := key.length / 4
  let ws := (keyWords nk (4 * (nk + 7) - nk) nk 1 (fours nk key).reverse).reverse
  (List.range (nk + 7)).map fun r => ((ws.drop (4 * r)).take 4).flatten

/-- Row shift of the state, bytes in column order. -/
def shiftRows (b : List Nat) : List Nat := (List.range 16).map fun i => b.getD ((i + 4 * (i % 4)) % 16) 0

/-- Column mix of one column. -/
def mixColumn (c : List Nat) : List Nat :=
  let g (i : Nat) := c.getD (i % 4) 0
  (List.range 4).map fun i => xtime (g i) ^^^ (xtime (g (i + 1)) ^^^ g (i + 1)) ^^^ g (i + 2) ^^^ g (i + 3)

/-- The rounds of AES. -/
def aesRounds (ks : List (List Nat)) (b : List Nat) : List Nat :=
  match ks with
  | [] => b
  | [k] => xorBytes (shiftRows (b.map subByte)) k
  | k :: r => aesRounds r (xorBytes ((fours 4 (shiftRows (b.map subByte))).flatMap mixColumn) k)

/-- AES encryption of a 16-byte block. -/
def aesBlock (key b : List Nat) : List Nat :=
  match roundKeys key with
  | [] => b
  | k :: r => aesRounds r (xorBytes b k)

/-- The n big-endian bytes of a number. -/
def beBytes (n v : Nat) : List Nat := (List.range n).map fun i => v / 256 ^ (n - 1 - i) % 256

/-- The number that big-endian bytes spell. -/
def beNat (bs : List Nat) : Nat := bs.foldl (fun a b => a * 256 + b) 0

/-- Doubling of SP 800-38B. -/
def cmacDouble (v : Nat) : Nat := if v / 2 ^ 127 = 1 then (v * 2) % 2 ^ 128 ^^^ 0x87 else v * 2

/-- The chaining of CMAC over n whole blocks. -/
def cmacChain (key : List Nat) (n : Nat) (msg x : List Nat) : List Nat :=
  match n with
  | 0 => x
  | n + 1 => cmacChain key n (msg.drop 16) (aesBlock key (xorBytes x (msg.take 16)))

/-- AES-CMAC of a message: 16 bytes. -/
def cmac (key msg : List Nat) : List Nat :=
  let k1 := cmacDouble (beNat (aesBlock key (List.replicate 16 0)))
  let k2 := cmacDouble k1
  let n := (msg.length + 15) / 16 - 1
  let tail := msg.drop (16 * n)
  let last := if tail.length = 16 then xorBytes tail (beBytes 16 k1)
    else xorBytes (tail ++ [0x80] ++ List.replicate (15 - tail.length) 0) (beBytes 16 k2)
  aesBlock key (xorBytes (cmacChain key n msg (List.replicate 16 0)) last)

/-- Bytes as numbers. -/
def natBytes (bs : List Byte) : List Nat := bs.map (·.toNat)

end Sys2Proof.Machine
end

