-- ==== Sys2Proof/Machine/Routing.lean ====
section
/-! DEFINITION. Routing state and its use: the rows of an installed route-table version as a function of its build (R71, R73,
R376), the bundle function (R375), the closed and busy ports of a router (R68, R72, R92, R407), link timing (R66), the
productive set (R72, R74, R75) and the driving of an output. -/

namespace Sys2Proof.Machine

/-! ## Cell sets as bit sets -/

/-- Set difference of bit sets. -/
def ndiff (a b : Nat) : Nat := a ^^^ (a &&& b)

/-- The set of the cells of a list. -/
def cellSet (l : List Nat) : Nat := l.foldl (fun a c => a ||| 2 ^ c) 0

/-- Every cell of the grid. -/
def gridSet : Nat := (List.range 96).foldl (fun a y => a + (2 ^ 96 - 1) * 2 ^ (128 * y)) 0

/-- The cells from which mesh port p leads into a set (R19). -/
def predSet (p f : Nat) : Nat :=
  (match p with
    | 0 => f / 2
    | 1 => f / 2 ^ 128
    | 2 => f * 2
    | _ => f * 2 ^ 128) &&& gridSet

/-! ## Rows -/

/-- The cells whose port p is closed in a build. -/
def Build.closedSet (b : Build) (p : Nat) : Nat := cellSet ((b.closed.filter fun e => e.2 == p).map (·.1))

/-- The cell sets that carry no transit for a destination: regions asleep or isolated and blocks Off that do not hold it
(R409, R410, R316). -/
def Build.walls (b : Build) (dst : Nat) : List Nat :=
  ((b.quiet.filter fun r => r != regionOf dst).map fun r => cellSet (regionCells r)) ++
  ((b.noTransit.filter fun k => k != blockOf dst).map fun k => cellSet (blockCells k))

/-- The cells one open hop from a set through port p: a closed link, or a hop into a wall from outside, does not count. -/
def Build.pred (b : Build) (walls : List Nat) (p f : Nat) : Nat :=
  walls.foldl (fun a w => ndiff a (ndiff (predSet p (f &&& w)) w)) (ndiff (predSet p f) (b.closedSet p))

/-- Breadth-first search outward from a destination set: the ports at cell c that lead to a router one hop nearer (R73); 0 when
c cannot reach the set. -/
def Build.search (b : Build) (walls : List Nat) (c fuel f seen : Nat) : BitVec 4 :=
  match fuel with
  | 0 => 0
  | n + 1 =>
    let e := b.pred walls 0 f
    let no := b.pred walls 1 f
    let w := b.pred walls 2 f
    let so := b.pred walls 3 f
    if (e ||| no ||| w ||| so).testBit c then
      BitVec.ofNat 4 ((e.testBit c).toNat + 2 * (no.testBit c).toNat + 4 * (w.testBit c).toNat + 8 * (so.testBit c).toNat)
    else
      let f' := ndiff (e ||| no ||| w ||| so) seen
      if f' = 0 then 0 else b.search walls c n f' (seen ||| f')

/-- Every port at c that is one hop nearer to some cell of a list: the destination of a block row is taken as the set of the block's cells
(R73 does not say what "the destination" of such a row is: log 45). -/
def Build.toward (b : Build) (targets : List Nat) (c : Nat) : BitVec 4 :=
  match targets.filter fun t => t != c with
  | [] => 0
  | t :: r => let f := cellSet (t :: r); b.search (b.walls t) c 9216 f f

/-- R73 allows any non-empty set of ports that lead nearer: the choice is free (log 10). -/
def pickMask (full choice : BitVec 4) : BitVec 4 := if full &&& choice = 0 then full else full &&& choice

/-- Does a version set the detour flag at a router: is a cell of its block fenced in it (R73)? -/
def Build.detour (b : Build) (c : Nat) : Bool := b.fenced.any fun f => blockOf f == blockOf c

/-- Row k of a build at router c (R71, R73, R376). -/
def Build.row (b : Build) (c k : Nat) : BitVec 4 :=
  let full : BitVec 4 :=
    if k < 576 then
      if idxBlock k = blockOf c then 0
      else b.toward ((blockCells (idxBlock k)).filter fun t => !b.empty.contains t) c
    else if k < 592 then
      if b.detour c then
        let d := mkCell (cx c / 4 * 4 + (k - 576) % 4) (cy c / 4 * 4 + (k - 576) / 4)
        if b.empty.contains d then 0 else b.toward [d] c
      else 0
    else if k < 598 then
      b.toward ((b.ports.filter fun n => bundleOf n == k - 592).flatMap fun n => [(linkCell n 0).1, (linkCell n 1).1]) c
    else 0
  pickMask full (Config.rowChoice b.id c k)

/-- The build of a version. -/
def State.build (s : State) (v : Nat) : Build := if v = 0 then s.chip.build0 else s.chip.build1

/-- The state of a version at a router (R85, R94). -/
def Router.verState (r : Router) (v : Nat) : BitVec 2 := if v = 0 then r.ver0 else r.ver1

/-- FREE, READY, ACTIVE and DRAINING (R85). -/
def vFREE : BitVec 2 := 0
/-- READY (R85). -/
def vREADY : BitVec 2 := 1
/-- ACTIVE (R85). -/
def vACTIVE : BitVec 2 := 2
/-- DRAINING (R85). -/
def vDRAINING : BitVec 2 := 3

/-- Set the state of a version at a router; its live tallies clear when it leaves FREE (R100). -/
def Router.setVer (r : Router) (v : Nat) (st : BitVec 2) : Router :=
  let clear := r.verState v == vFREE && st != vFREE
  let keep (x : W32) : W32 := if clear then 0 else x
  if v = 0 then { r with ver0 := st, entered0 := keep r.entered0, left0 := keep r.left0, held0 := keep r.held0 }
  else { r with ver1 := st, entered1 := keep r.entered1, left1 := keep r.left1, held1 := keep r.held1 }

/-- Row k of version v at a router: 0 until it is installed there (R94). -/
def State.rowOf (s : State) (c v k : Nat) : BitVec 4 :=
  let b := s.build v
  let id := if v = 0 then (s.rt c).rows0 else (s.rt c).rows1
  if id = 0 ∨ id ≠ b.id then 0 else b.row c k

/-- The detour flag of version v at a router. -/
def State.detour (s : State) (c v : Nat) : Bool :=
  let b := s.build v
  let id := if v = 0 then (s.rt c).rows0 else (s.rt c).rows1
  id != 0 && id == b.id && b.detour c

/-! ## Bundles (R372 to R378) -/

/-- The three coordinates of a chip ID (R20). -/
def chipX (i : Nat) : Nat := i / 256
/-- The y coordinate of a chip ID. -/
def chipY (i : Nat) : Nat := i / 16 % 16
/-- The z coordinate of a chip ID. -/
def chipZ (i : Nat) : Nat := i % 16

/-- The size of dimension d (0 x, 1 y, 2 z) of the torus (R24). -/
def State.dim (s : State) (d : Nat) : Nat :=
  match d with
  | 0 => s.chget CHP_CHIP_ID_dim_x_m1 + 1
  | 1 => s.chget CHP_CHIP_ID_dim_y_m1 + 1
  | _ => s.chget CHP_CHIP_ID_dim_z_m1 + 1

/-- Is a chip ID valid in this system (R20, R37)? -/
def State.chipOk (s : State) (i : Nat) : Bool :=
  decide (chipX i < s.dim 0) && decide (chipY i < s.dim 1) && decide (chipZ i < s.dim 2)

/-- Dimension order (R375). -/
def State.dimOrder (s : State) (dst : Nat) : Nat :=
  let own := s.chipId.toNat
  let dx := (chipX dst + s.dim 0 - chipX own % s.dim 0) % s.dim 0
  let dy := (chipY dst + s.dim 1 - chipY own % s.dim 1) % s.dim 1
  let dz := (chipZ dst + s.dim 2 - chipZ own % s.dim 2) % s.dim 2
  if dx ≠ 0 then (if dx ≤ s.dim 0 / 2 then 0 else 1)
  else if dy ≠ 0 then (if dy ≤ s.dim 1 / 2 then 2 else 3)
  else if dz ≤ s.dim 2 / 2 then 4 else 5

/-- The chip one step in a bundle's direction (R372). -/
def State.peerChip (s : State) (b : Nat) : Nat :=
  let own := s.chipId.toNat
  let x := chipX own
  let y := chipY own
  let z := chipZ own
  let up (v n : Nat) := (v + 1) % n
  let dn (v n : Nat) := (v + n - 1) % n
  match b with
  | 0 => up x (s.dim 0) * 256 + y * 16 + z
  | 1 => dn x (s.dim 0) * 256 + y * 16 + z
  | 2 => x * 256 + up y (s.dim 1) * 16 + z
  | 3 => x * 256 + dn y (s.dim 1) * 16 + z
  | 4 => x * 256 + y * 16 + up z (s.dim 2)
  | _ => x * 256 + y * 16 + dn z (s.dim 2)

/-- Does an exception entry apply to a destination and its dimension-order bundle (R375, R377)? -/
def excMatches (e : W32) (dst b : Nat) : Bool :=
  let x := e.toNat
  bits x 29 3 != 7 && (bits x 26 3 == 6 || bits x 26 3 == b) && (dst &&& bits x 13 13) == (bits x 0 13 &&& bits x 13 13)

/-- The bundle toward a chip under a version, 6 for unreachable (R375). -/
def State.bundle (s : State) (dst v : Nat) : Nat :=
  let b := s.dimOrder dst
  match (s.build v).exc.find? fun e => excMatches e dst b with
  | some e => bits e.toNat 29 3
  | none => b

/-! ## Ports of a router -/

/-- The state of a link port (R339). -/
def State.linkState (s : State) (n : Nat) : Nat := (s.link n).regs.get LNK_STAT_state

/-- Is a link port ACTIVE (R339)? -/
def State.linkActive (s : State) (n : Nat) : Bool := s.linkState n == 5

/-- A port's sluice is closed or in TEST (R306). -/
def State.sluiced (s : State) (c p : Nat) : Bool := (aget (s.rt c).sluices p).isSome

/-- Is the edge port of a cell tied off: an unused segment (R30) or a port that is not bonded out (R503)? -/
def State.tiedOff (s : State) (c p : Nat) : Bool :=
  match edgeOf c p with
  | none => false
  | some .unused => true
  | some (.link n _) => !s.chip.integ.lnkPresent.getLsbD n
  | some (.gateway g _) => !s.chip.integ.mgwPresent.getLsbD g

/-- The closed set of R72. -/
def State.closedPorts (s : State) (c : Nat) : BitVec 4 :=
  BitVec.ofNat 4 ((List.range 4).foldl (fun a p => a + if s.sluiced c p || s.tiedOff c p then 2 ^ p else 0) 0)

/-- Retime and stitch stages of the link behind a mesh port (R66, R503). -/
def State.linkExtra (s : State) (c p : Nat) : Nat :=
  let i := s.chip.integ
  let h (w : Nat) := (aget i.retimeH w).getD 0 + if i.stitchX.contains (cx w) then 1 else 0
  let v (w : Nat) := (aget i.retimeV w).getD 0 + if i.stitchY.contains (cy w) then 1 else 0
  match p with
  | 0 => h c
  | 1 => v c
  | 2 => h (c - 1)
  | _ => v (c - 128)

/-- Does the mesh link from cell a to cell b carry bulk packets: is the block of b in Run, with no Doze hold between the
two blocks (R92, R407)? A hold closes only the outputs that leave or enter the
block. -/
def State.linkOpen (s : State) (a b : Nat) : Bool :=
  let x := s.block (blockOf a)
  let y := s.block (blockOf b)
  y.power == .run && (blockOf a == blockOf b || (x.holdFrom.isNone && y.holdFrom.isNone))

/-- The requests a gateway holds before it presents its edge outputs busy (R185 gives no size: log 17). -/
def gwDepth : Nat := 16

/-- Packets a gateway moves in one ncyc, both directions together (R185). -/
def gwRate : Nat := 16

/-- Packets a gateway has moved in an ncyc. -/
def Gateway.moved (x : Gateway) (now : Nat) : Nat := if x.moveAt = now then x.moves else 0

/-- Count a packet moved by a gateway (R185). -/
def Gateway.move (x : Gateway) (now : Nat) : Gateway := { x with moveAt := now, moves := x.moved now + 1 }

/-- The staging queue of a plane (R350). -/
def Link.staging (l : Link) (pl : Plane) : List Staged :=
  match pl with
  | .sched => l.stagSched
  | .request => l.stagReq
  | .reply => l.stagRep

/-- Does a port hold its edge outputs busy on its way into Deep, the wait for a retry included (R357)? -/
def LinkTask.deep (t : LinkTask) : Bool :=
  match t with
  | .deepHold => true
  | .deepAsked => true
  | .deepRetry _ => true
  | _ => false

/-- Does the unit behind an edge port accept a packet on a plane (R30, R185, R350, R357)? -/
def State.edgeAccepts (s : State) (c : Nat) (pl : Plane) (p : Nat) : Bool :=
  match edgeOf c p with
  | some (.link n _) =>
    s.linkActive n && decide (((s.link n).staging pl).length ≤ 6) &&
      !(s.link n).task.deep
  | some (.gateway g _) =>
    s.chip.integ.mgwPresent.getLsbD g && !(s.gw g).hold && decide ((s.gw g).inq.length < gwDepth) &&
      decide ((s.gw g).moved s.ncyc < gwRate)
  | _ => false

/-- Is an output busy on a plane, apart from outputs already taken in this ncyc (R68)? -/
def State.busyOut (s : State) (c : Nat) (pl : Plane) (p : Nat) : Bool :=
  s.sluiced c p ||
    match neighbor c p with
    | some d => !s.linkOpen c d
    | none => !s.edgeAccepts c pl p

/-- Is an output busy only because the neighbour is not in Run (R92)? A hold raises no wake (R407). -/
def State.dozing (s : State) (c p : Nat) : Bool :=
  match neighbor c p with
  | some d => !s.sluiced c p && (s.block (blockOf d)).power != .run
  | none => false

/-! ## Rotating order (R76) -/

/-- The rotating pointer in this ncyc. -/
def State.rot (s : State) (c : Nat) : Nat := (s.ncyc + 4 - (s.rt c).rotBase % 4) % 4

/-- The rotating order: ports from the pointer upward. -/
def State.rotOrder (s : State) (c : Nat) : List Nat := (List.range 4).map fun i => (s.rot c + i) % 4

/-! ## The productive set (R72, R74, R75) -/

/-- The cascade entry of a tree at a router (R216). -/
def Router.cascade (r : Router) (t : Nat) : Nat := ((aget r.casc t).getD 0).toNat

/-- Even parity over 16 bits (R216). -/
def parityOk (x : Nat) : Bool := ((List.range 16).foldl (fun a i => a + bits x i 1) 0) % 2 == 0

/-- A cascade entry in use of a kind (0 multicast, 1 reduction) with correct parity (R216). -/
def cascOk (x kind : Nat) : Bool := bits x 8 1 == 1 && bits x 9 1 == kind && parityOk x

/-- Is a packet at a memory-gateway cell steered to the gateway: a WR or RD_REQ whose granule has bit 23 set (R167)? -/
def State.steerPort (s : State) (c : Nat) (pk : Packet) : Option Nat :=
  if (pk.type == tWR || pk.type == tRD_REQ) && pk.granule.testBit 23 then
    (List.range 4).find? fun p =>
      match edgeOf c p with
      | some (.gateway g _) => s.chip.integ.mgwPresent.getLsbD g
      | _ => false
  else none

/-- The edge bits of a cell toward ACTIVE ports of a bundle (R72). -/
def State.bundleEdge (s : State) (c b : Nat) : BitVec 4 :=
  BitVec.ofNat 4 ((List.range 4).foldl (fun a p => a +
    match edgeOf c p with
    | some (.link n _) => if bundleOf n == b && s.linkActive n then 2 ^ p else 0
    | _ => 0) 0)

/-- What the decode stage finds for a unicast packet under a version: the productive set with closed ports removed, how R79
orders it, and whether the row it is routed on is empty before closed ports are removed (R72, R307). -/
structure RouteOf where
  prod : BitVec 5
  pref : Pref
  emptyRow : Bool
deriving DecidableEq, Repr

/-- A mesh mask with closed ports removed, as a productive set. -/
def State.openMask (s : State) (c : Nat) (m : BitVec 4) : BitVec 5 := (m &&& ~~~(s.closedPorts c)).setWidth 5

/-- The productive set of a unicast packet under version v (R72). -/
def State.productive (s : State) (c : Nat) (pk : Packet) (v : Nat) : RouteOf :=
  let d := pk.dstCell.toNat
  if pk.dstChip ≠ s.chipId then
    let b := s.bundle pk.dstChip.toNat v
    let row := if b = 6 then 0 else s.rowOf c v (592 + b)
    let edge := if b = 6 then 0 else s.bundleEdge c b
    ⟨s.openMask c (row ||| edge), .bundle edge, (row ||| edge) == 0⟩
  else if blockOf d ≠ blockOf c then
    let row := s.rowOf c v (blockIdx (blockOf d))
    ⟨s.openMask c row, .grid, row == 0⟩
  else if d = c then
    match s.steerPort c pk with
    | some p => ⟨s.openMask c (BitVec.ofNat 4 (2 ^ p)), .home, false⟩
    | none => ⟨16, .home, false⟩
  else if s.detour c v then
    let row := s.rowOf c v (576 + 4 * (cy d % 4) + cx d % 4)
    ⟨s.openMask c row, .grid, row == 0⟩
  else
    let m := (if cx d > cx c then 1 else 0) + (if cy d > cy c then 2 else 0) + (if cx d < cx c then 4 else 0) +
      (if cy d < cy c then 8 else 0)
    ⟨s.openMask c (BitVec.ofNat 4 m), .grid, false⟩

/-! ## Tallies (R90) -/

/-- Add to entered[v] of a router (R90). -/
def Router.enter (r : Router) (v : Nat) : Router :=
  if v = 0 then { r with entered0 := r.entered0 + 1 } else { r with entered1 := r.entered1 + 1 }

/-- Add to left[v] of a router (R90). -/
def Router.leave (r : Router) (v : Nat) : Router :=
  if v = 0 then { r with left0 := r.left0 + 1 } else { r with left1 := r.left1 + 1 }

/-! ## Driving outputs -/

/-- The plane of a router that a dynamic plane names. -/
def Router.plane (r : Router) (pl : Plane) : RtPlane := if pl = .reply then r.rep else r.req

/-- Replace a dynamic plane of a router. -/
def Router.setPlane (r : Router) (pl : Plane) (x : RtPlane) : Router :=
  if pl = .reply then { r with rep := x } else { r with req := x }

/-- Put a packet on its way to, or present it at, an input of a router: it is decoded in ncyc `due` (R65, R521). -/
def Router.arrive (r : Router) (pl : Plane) (x : InFlight) : Router :=
  match pl with
  | .sched => { r with sched := r.sched ++ [x] }
  | _ => r.setPlane pl { r.plane pl with arr := (r.plane pl).arr ++ [x] }

/-- Take a packet into the staging queue of a link port (R350). -/
def Link.stage (l : Link) (pl : Plane) (x : Staged) : Link :=
  match pl with
  | .sched => { l with stagSched := l.stagSched ++ [x] }
  | .request => { l with stagReq := l.stagReq ++ [x] }
  | .reply => { l with stagRep := l.stagRep ++ [x] }

/-- A packet that only deflected into an edge output is presented on the same edge input in the next ncyc: a bundle carries only its
direction's traffic and a packet leaves the chip only through a productive bundle (R29, R84, log 23). -/
def State.bounce (s : State) (c : Nat) (pl : Plane) (p : Nat) (pk : Packet) : State :=
  s.modRt c fun r => (r.enter pk.epoch.toNat).arrive pl ⟨p, s.ncyc + 1, pk⟩

/-- Is a link port of the bundle a packet leaves the chip by (R72, R375)? On the scheduled plane the row says so (R102). -/
def State.leavesBy (s : State) (n : Nat) (pl : Plane) (pk : Packet) : Bool :=
  pl == .sched || (pk.dstChip != s.chipId && s.bundle pk.dstChip.toNat pk.epoch.toNat == bundleOf n)

/-- A gateway takes a packet off a cell's edge output (R521). A WR or RD_REQ steered to it (R167) waits for its service; a packet
that only deflected into the output goes back; one of the scheduled plane is lost there (R111). -/
def State.gwTake (s : State) (c : Nat) (pl : Plane) (p g k : Nat) (pk : Packet) : State :=
  let s := s.modGw g fun x => x.move s.ncyc
  if pk.dstChip == s.chipId && pk.dstCell.toNat == c && (s.steerPort c pk).isSome then
    s.modGw g fun x => { x with inq := x.inq ++ [⟨k, pl, pk⟩] }
  else if pl = .sched then s
  else s.bounce c pl p pk

/-- Drive a packet on a mesh or edge output in this ncyc, its check bytes 64 and 65 regenerated (R35): it is in the next router's decode stage
2 + r + s ncyc later (R65, R66), or is taken at once by the unit behind the edge (R521). -/
def State.drive (s : State) (c : Nat) (pl : Plane) (p : Nat) (pkt : Packet) : State :=
  let pk := pkt.regen
  match neighbor c p with
  | some d => s.modRt d fun r => r.arrive pl ⟨oppPort p, s.ncyc + 2 + s.linkExtra c p, pk⟩
  | none =>
    let s := if pl = .sched then s else s.modRt c fun r => r.leave pk.epoch.toNat
    match edgeOf c p with
    | some (.link n h) => if s.leavesBy n pl pk then s.modLink n fun l => l.stage pl ⟨h, s.now, pk⟩ else s.bounce c pl p pk
    | some (.gateway g k) => s.gwTake c pl p g k pk
    | _ => s

/-- Note outputs taken in this ncyc (R78). -/
def State.take (s : State) (c : Nat) (pl : Plane) (m : BitVec 7) : State :=
  s.modRt c fun r =>
    let x := r.plane pl
    r.setPlane pl { x with stamp := s.ncyc, used := (if x.stamp = s.ncyc then x.used else 0) ||| m }

/-- Outputs taken in this ncyc. -/
def State.taken (s : State) (c : Nat) (pl : Plane) : BitVec 7 :=
  let x := (s.rt c).plane pl
  if x.stamp = s.ncyc then x.used else 0

/-- Is a mesh or edge output free in this ncyc? -/
def State.freeOut (s : State) (c : Nat) (pl : Plane) (p : Nat) : Bool :=
  !s.busyOut c pl p && !(s.taken c pl).getLsbD p

end Sys2Proof.Machine
end

