-- ==== Sys2Proof/Machine/Reset.lean ====
section
/-! DEFINITION. NI and cell reset (R227, R314, R315, R329 to R333, R206) as shared operations: what a reset clears, what it adds to the
freeing side of the balances (R320), and what leaving reset does (R184). -/

namespace Sys2Proof.Machine

/-- Is a token open: not FREE and not withdrawn (R141, R166)? -/
def Token.isOpen (t : Token) : Bool := t.st == .queued || t.st == .inflight || t.st == .resent

/-- The number of open tokens of an NI (R166). -/
def Ni.openTokens (x : Ni) : Nat := (x.tokens.filter fun e => e.2.isOpen).length

/-- The number of withdrawn tokens of an NI (R329). -/
def Ni.withdrawn (x : Ni) : Nat := (x.tokens.filter fun e => e.2.st == .withdrawn).length

/-- The entries of one queue that are visible or reserved (R154). -/
def Queue.taken (q : Queue) : Nat := q.ents.length + q.reserved

/-- The pool entries taken (R330). -/
def Ni.poolTaken (x : Ni) : Nat := (x.queues.map fun e => e.2.taken).sum

/-- The reorder slots in use (R331): packets held for channels and packets that wait for a fetch (R136). -/
def Ni.robHeld (x : Ni) : Nat :=
  (x.chans.map fun e => e.2.rx.held.length).sum + (x.fetches.map fun f => f.hold.length).sum

/-- A range that has contents to lose (R251). -/
def RangeRt.busy (r : RangeRt) : Bool := r.st == .open_ || r.st == .emit || r.st == .held

/-- An IDLE range (R251). -/
def RangeRt.idle : RangeRt := ⟨.idle, (0, 0), [], [], false, false, [], (false, false), 0, 0⟩

/-- A key for range i of tree entry j. -/
def rangeKey (j i : Nat) : Nat := j * 1024 + i

/-- Count-units a range holds: contribution counts of its units (R319: count times elements over 8, unit by unit). -/
def RangeRt.openUnits (r : RangeRt) : Nat := (r.units.map (·.count)).sum

/-- A receive queue after NI reset (R156). -/
def Queue.reset : Queue := ⟨[], 0, false, none, 0, 0, 0, false⟩

/-- A core's locations after NI reset (R156, R284); send words are kept as 0 (log 2). -/
def CoreRt.reset : CoreRt := ⟨List.replicate 6 0, 0, 0, false, 0, none, 0, 0, [], 0, false, []⟩

/-- A ring after NI reset (R189). -/
def RingRt.reset : RingRt := ⟨0, 0, 0, false, none, false, 65536, 0, 0, false, false, []⟩

/-- A stalled access is released as R314 gives: a CQ_META read with valid clear (word 0 zero), any other with zero. -/
def State.releaseStalls (s : State) (c : Nat) : State :=
  s.forEach ((s.ni c).cores.filter fun e => e.2.stall.isSome) fun s e => s.emit (.coreRsp c e.1 0)

/-- A weir's credit at its burst; a burst field of 0 stands for 1 (R199). -/
def burstCredit (b : Nat) : Nat := (if b = 0 then 1 else b) * 65536

/-- The NI's registers as NI reset leaves them: reset masks, balances raised on the freeing side (R320), and the counts of
what the reset itself lost (R227, R251). -/
def Ni.resetRegs (x : Ni) (r : Regs) : Regs :=
  let lost := x.ranges.filter fun e => e.2.busy
  let r := (r.addWrap NI_BAL_TOK_closed x.openTokens).addWrap NI_BAL_TOK2_reset_closed x.openTokens
  let r := r.addWrap NI_BAL_QUE2_return_total x.poolTaken
  let r := r.addWrap NI_BAL_ROB_freed x.robHeld
  let r := r.addWrap NI_BAL_FOUNT_freed x.fountain.length
  let r := lost.foldl (fun r e => (r.addWrap (NI_BAL_RED_B_lost.at (e.1 / 1024)) e.2.openUnits)) r
  let r := r.resetMasked (·.niReset)
  let r := lost.foldl (fun r e => r.bump (NI_RED_TSTAT_lost.at (e.1 / 1024))) r
  r.add NI_FOUNT_STAT_lost_resid x.fountain.length

/-- A write to a landing that has been re-armed or reset since: its response counts for no later burst (R229, R264). -/
def CmReq.forgetLanding (q : CmReq) : CmReq :=
  match q.use with
  | .mcLand _ => { q with use := .oldLand }
  | .redLand _ => { q with use := .oldLand }
  | _ => q

/-- An NI as NI reset leaves it. Token generations are kept (R140), started descriptors are kept to be completed FLUSHED on
leaving reset (R184), packets already handed over by the router meet step 2 of R48. -/
def Ni.cleared (x : Ni) (h : NiHold) : Ni :=
  { Ni.reset with
    hold := h
    ejected := x.ejected
    tokens := x.tokens.map fun e => (e.1, if e.2.isOpen then { e.2 with st := .free, gen := e.2.gen + 1 } else { e.2 with st := .free })
    descs := x.descs.filter fun d => !d.done
    cmReqs := x.cmReqs.map CmReq.forgetLanding
    nextId := x.nextId
    pcsCore := 0
    ranges := [] }

/-- The class of a parterre as the registers stand; the map's entry for parterre 0 is ignored, and its class is 0 (R213). -/
def State.classNow (s : State) (parterre : Nat) : Nat :=
  if parterre = 0 then 0 else s.chip.regs.get (CHP_SPILL_MAP_class_k.at (parterre / 8)) / 16 ^ (parterre % 8) % 16

/-- The contract class of a parterre in force in this ncyc: a change takes effect in the next (R204, R213). -/
def State.classOf (s : State) (parterre : Nat) : Nat :=
  if parterre = 0 then 0 else s.chip.regs.was (CHP_SPILL_MAP_class_k.at (parterre / 8)) / 16 ^ (parterre % 8) % 16

/-- The credit a spillway bucket of an NI starts with: the burst of its cell's class (R206). -/
def State.spillBurst (s : State) (r : Regs) : Nat :=
  burstCredit (s.chip.regs.get (CHP_SPILL_CLASS_ni_burst.at (s.classNow (r.get NI_OWNER_parterre))))

/-- Does the class of a parterre, or a parameter of its class, change in this ncyc (R204)? -/
def State.spillChanged (s : State) (parterre : Nat) : Bool :=
  let cls := s.classNow parterre
  s.classOf parterre != cls ||
    [CHP_SPILL_CLASS_ni_rate, CHP_SPILL_CLASS_ni_burst, CHP_SPILL_CLASS_gw_rate, CHP_SPILL_CLASS_gw_burst].any fun f =>
      s.chip.regs.was (f.at cls) != s.chip.regs.get (f.at cls)

/-- The end of an ncyc in which Zhevber wrote CHP_SPILL_MAP or CHP_SPILL_CLASS: each bucket concerned is set to its new burst, at NIs, link ports
and gateways, where a bucket not listed is full (R202, R204). -/
def State.refillSpill (s : State) : State :=
  if !(s.chip.regs.base.any fun e => decide (0x200 ≤ e.1) && decide (e.1 < 0x300)) then s else
  let keep (b : Assoc (W64 × W32)) := b.filter fun e => !s.spillChanged e.1
  let s' := { s with
    links := s.links.mapAll fun x => { x with buckets := keep x.buckets }
    gws := s.gws.mapAll fun x => { x with buckets := keep x.buckets } }
  s'.forEach ((s.cells.ents.map (·.1)).filter fun c => s.spillChanged (s.cget c NI_OWNER_parterre)) fun s c =>
    s.modCell c fun x => { x with
      regs := x.regs.set NI_SPILL_credit (s.spillBurst x.regs), ni := { x.ni with spillUpd := BitVec.ofNat 32 s.now } }

/-- NI reset of a cell (R314, R315): the NI is held with a reason until the reset ends; its spillway bucket is full (R206). -/
def State.resetNi (s : State) (c : Nat) (h : NiHold) : State :=
  (s.releaseStalls c).modCell c fun x =>
    { x with regs := (x.ni.resetRegs x.regs).set NI_SPILL_credit (s.spillBurst x.regs), ni := x.ni.cleared h }

/-- The cell's error state as cell reset leaves it (R314, R322, R323). -/
def State.resetCellRegs (s : State) (c : Nat) : State := s.modCellRegs c fun r => r.resetMasked (·.cellReset)

/-- Cell reset (R314). -/
def State.resetCell (s : State) (c : Nat) (h : NiHold) : State := (s.resetNi c h).resetCellRegs c

/-- Word 6 of a completed descriptor: status, reason, done, confirmed (R173). -/
def Desc.word6 (d : Desc) : Nat :=
  d.status.toNat + d.reason.toNat * 16 + 256 + d.confirmed % 4294967296 * 4294967296

/-- The byte of descriptor index i of a ring (R171). -/
def descAddr (r : Regs) (ring : Nat) (i : BitVec 16) : Nat :=
  r.get (NI_DRING_base.at ring) * 4096 + 64 * (i.toNat % 2 ^ (r.get (NI_DRING_size_log2.at ring)))

/-- Write words 7 and 6 of a completed descriptor, done last (R181). -/
def Cell.writeStatus (x : Cell) (time : W64) (d : Desc) : Cell :=
  let a := descAddr x.regs d.ring d.idx
  { x with cm := mwriteWord (mwriteWord x.cm (a + 56) time) (a + 48) (BitVec.ofNat 64 d.word6) }

/-- Is a cell fenced (R308, R323)? -/
def State.fencedCell (s : State) (c : Nat) : Bool := (s.cell c).regs.flag CELL_FAULT_fenced

/-! ## Once per ncyc -/

/-- Has the NI done thing k in this ncyc already? -/
def Ni.didNow (x : Ni) (k now : Nat) : Bool := aget x.did k == some (now + 1)
/-- Note that the NI does thing k in this ncyc. -/
def Ni.note (x : Ni) (k now : Nat) : Ni := { x with did := aput x.did k (now + 1) }
/-- The request plane's selection (R195). -/
def dSelReq : Nat := 0
/-- The reply plane's selection (R195). -/
def dSelRep : Nat := 1
/-- The fountain buffer's delivery (R224). -/
def dFount : Nat := 2
/-- The dispatch strobe (R158). -/
def dDispatch : Nat := 3
/-- A COMPL of a tranche (R177, R70). -/
def dCompl : Nat := 4
/-- The completion strobe (R181). -/
def dStrobe : Nat := 6
/-- A RED taken by the combine engine (R250). -/
def dRed : Nat := 7
/-- The request plane has a head, or its selection served a flow or the fountain buffer (R195, R212). -/
def dHead : Nat := 8

/-- Raise the cluster port's completion strobe with a number; one that finds the strobe busy waits for a later ncyc (R181). -/
def State.strobe (s : State) (c num : Nat) : State :=
  let x := (s.cell c).ni
  if x.strobes.isEmpty && !x.didNow dStrobe s.ncyc then (s.emit (.complete c num)).modNi c fun x => x.note dStrobe s.ncyc
  else s.modNi c fun x => { x with strobes := x.strobes ++ [num] }

/-- The completion strobe that has waited longest is raised (R181). -/
def State.nextStrobe (s : State) (c : Nat) : State :=
  match (s.cell c).ni.strobes with
  | [] => s
  | k :: r => (s.emit (.complete c k)).modNi c fun x => { x with strobes := r }.note dStrobe s.ncyc

/-- An NI leaves reset: it completes each started descriptor FLUSHED in ring order (R184), and its weirs and spillway bucket
start from this ncyc at their bursts (R206). Each completion counts in desc_failed and, with notify, raises the strobe (R181, R193). A fenced
cell's NI stays in reset (R308, R318). -/
def State.leaveReset (s : State) (c : Nat) : State :=
  if s.fencedCell c then s else
  let told := (s.cell c).ni.descs.filter fun d => d.notify && (s.cell c).regs.flag (NI_DRING_notify_en.at d.ring)
  let s := s.modCell c fun x =>
    let y := x.ni.descs.foldl (fun y d => y.writeStatus s.time { d with status := 7, reason := 0 }) x
    let now := BitVec.ofNat 32 s.now
    { y with
      regs := (y.regs.set NI_SPILL_credit (s.spillBurst y.regs)).add NI_BULK_STAT_desc_failed
        x.ni.descs.length
      ni := { y.ni with
        hold := .none
        descs := []
        spillUpd := now
        slipCredit := BitVec.ofNat 32 (burstCredit (y.regs.get NI_WFQ_CTL_slip_burst))
        slipUpd := now
        rings := (List.range 4).map fun r =>
          (r, { RingRt.reset with credit := BitVec.ofNat 32 (burstCredit (y.regs.get (NI_RING_WEIR_burst.at r))), upd := now }) } }
  s.forEach told fun s d => s.strobe c d.ring

end Sys2Proof.Machine
end

