-- ==== Sys2Proof/Machine/Healing.lean ====
section
/-! DEFINITION. Faults, sluices and fences as shared operations (R295 to R300, R306 to R308, R522): fault records and their
coalescing, error counts of the window and their limits, closing a port sluice, fencing a cell or a block. -/

namespace Sys2Proof.Machine

/-- A fault record as its 64 bits (R298). -/
def FaultRec.word (r : FaultRec) : W64 :=
  r.detail ++ (0 : BitVec 2) ++ r.action ++ r.plane ++ r.port ++ r.unit ++ r.level ++ r.cls

/-- The fault record that 64 bits spell (R298). -/
def FaultRec.ofWord (w : W64) : FaultRec :=
  { cls := w.extractLsb' 0 6, level := w.extractLsb' 6 2, unit := w.extractLsb' 8 14, port := w.extractLsb' 22 3,
    plane := w.extractLsb' 25 2, action := w.extractLsb' 27 3, detail := w.extractLsb' 32 32 }

/-- A fault record from numbers. -/
def mkRec (cls level unit port plane action detail : Nat) : FaultRec :=
  ⟨BitVec.ofNat 6 cls, BitVec.ofNat 2 level, BitVec.ofNat 14 unit, BitVec.ofNat 3 port, BitVec.ofNat 2 plane,
   BitVec.ofNat 3 action, BitVec.ofNat 32 detail⟩

/-- Do two records coalesce: same class, unit, port and plane (R300)? -/
def FaultRec.joins (a b : FaultRec) : Bool := a.cls == b.cls && a.unit == b.unit && a.port == b.port && a.plane == b.plane

/-- Is the detail of a class a count (R299)? -/
def countClass (cls : BitVec 6) : Bool := [1, 2, 7, 8, 9, 0xA, 0xC, 0xD].contains cls.toNat

/-- How far an action goes: counted only; a reset begun or ended, a sluice reopened; a sluice closed, a cell fenced, a block fenced, escalated
(R298). -/
def actionRank (a : BitVec 3) : Nat := if a = 0 then 0 else if 5 ≤ a.toNat then 1 else a.toNat + 1

/-- A waiting record with another coalesced into it: count details add (R300). R300 does not say which action stands where the two differ: the
one that goes further, so that no sluice and no fence goes unreported (log 47). -/
def FaultRec.join (w r : FaultRec) : FaultRec :=
  { w with
    action := if actionRank w.action < actionRank r.action then r.action else w.action
    detail := if countClass w.cls then w.detail + r.detail else w.detail }

/-- A block controller originates a record (R300): it waits for the next sending ncyc; one that falls due while another waits is
coalesced with it or lost. -/
def Block.raise (b : Block) (r : FaultRec) : Block :=
  match b.waiting with
  | none => { b with waiting := some r }
  | some w =>
    if w.joins r then { b with waiting := some (w.join r) }
    else { b with regs := b.regs.bump BLK_RINSE_STAT_coalesce_lost }

/-- A region manager originates a record (R300); one that can neither wait nor coalesce is lost, and marks that in the region manager. -/
def Region.raise (g : Region) (r : FaultRec) : Region :=
  match g.waiting with
  | none => { g with waiting := some r }
  | some w => if w.joins r then { g with waiting := some (w.join r) } else { g with coalesceLost := true }

/-- A record of a cell's block controller. One held in reset by a higher level has abandoned the action, and its record says so with
action 0, counted only (R17, log 48). -/
def State.blockRecord (s : State) (b : Nat) (r : FaultRec) : State :=
  s.modBlock b fun x => x.raise (if x.ctlReset then { r with action := 0 } else r)

/-- Does a block's controller act: is it not held in reset by a higher level (R17, R308)? -/
def State.ctlActs (s : State) (b : Nat) : Bool := !(s.block b).ctlReset

/-- A record of a region manager. -/
def State.regionRecord (s : State) (g : Nat) (r : FaultRec) : State := s.modRegion g fun x => x.raise r

/-- Is a sluice a port sluice that stands closed: one in TEST stays so until it reopens, one that only a self-test put into TEST is none; a
cell sluice may stand on a link whose port sluice is closed too (R296, R308, R309, R455)? -/
def Sluice.port (x : Sluice) : Bool := (!x.cell && !(x.test && x.cls == 0)) || x.under.isSome

/-- The class of the port sluice that stands closed at a sluice's port. -/
def Sluice.portCls (x : Sluice) : Option Nat := if x.cell then x.under else if x.test && x.cls == 0 then none else some x.cls

/-- Close the sluice of one port at one router as a cell sluice or as a port sluice; one in TEST closes, one that stands closed in the other
way is then closed in both. -/
def Router.shut (r : Router) (p : Nat) (cell : Bool) (cls : Nat) : Router :=
  let new : Sluice :=
    match aget r.sluices p with
    | none => ⟨cell, false, cls, [], none⟩
    | some x =>
      if cell then (if x.cell && !x.test then x else ⟨true, false, cls, [], x.portCls⟩)
      else if x.cell then { x with test := false, passes := [], under := some (x.under.getD cls) }
      else if x.test then ⟨false, false, cls, [], none⟩
      else x
  { r with sluices := aput r.sluices p new }

/-- Lift the cell sluice of a port: a port sluice that stands closed there stays (R308). -/
def Router.liftCell (r : Router) (p : Nat) : Router :=
  match aget r.sluices p with
  | none => r
  | some x =>
    if !x.cell then r
    else match x.under with
      | some k => { r with sluices := aput r.sluices p ⟨false, false, k, [], none⟩ }
      | none => { r with sluices := adel r.sluices p }

/-- Close a sluice: the mesh link at both of its routers at once (R306). -/
def State.shutLink (s : State) (c p : Nat) (cell : Bool) (cls : Nat) : State :=
  match neighbor c p with
  | none => s
  | some d => (s.modRt c fun r => r.shut p cell cls).modRt d fun r => r.shut (oppPort p) cell cls

/-- The port sluices standing closed on a cell; cell sluices are not counted (R296). -/
def State.portSluices (s : State) (c : Nat) : Nat := ((s.rt c).sluices.filter fun e => e.2.port).length

/-- The cells standing fenced in a block (R296). -/
def State.fencedIn (s : State) (b : Nat) : Nat := ((blockCells b).filter fun c => s.fencedCell c).length

/-- Packets that entered a router under a version and have not left it (R90), as a signed difference. -/
def Router.inside (r : Router) (v : Nat) : Int :=
  (if v = 0 then r.entered0 - r.left0 else r.entered1 - r.left1).toInt

/-- What a cell holds of each version at its fence is latched there, and counts toward the allowance of the drain of that version, under way
or later (R90, R308). -/
def State.fenceLoss (s : State) (c : Nat) : State :=
  let r := s.rt c
  let s := s.modRt c fun r => { r with
    held0 := r.held0 + BitVec.ofInt 32 (r.inside 0), held1 := r.held1 + BitVec.ofInt 32 (r.inside 1) }
  match s.chip.flip with
  | some f => s.modChip fun h => { h with flip := some { f with lost := f.lost + r.inside f.old.toNat } }
  | none => s

/-- What the fences of the chip's cells have latched of a version (R308). -/
def State.fenceHeld (s : State) (v : Nat) : Int :=
  (s.cells.ents.map fun e => (if v = 0 then e.2.rt.held0 else e.2.rt.held1).toInt).sum

/-- The first part of a fence: cell sluices toward the cell, NI held in reset, the fenced bit (R308). -/
def State.fenceOnly (s : State) (c cls : Nat) : State :=
  let s := s.fenceLoss c
  let s := s.forEach (List.range 4) fun s p => s.shutLink c p true cls
  (s.resetNi c .ni).modCellRegs c fun r => r.set CELL_FAULT_fenced 1

/-- The first part of a block's fence: its cells are fenced, its boundary links get cell sluices, its controller is held in reset
(R308). -/
def State.fenceBlockOnly (s : State) (b cls : Nat) : State :=
  (s.forEach (blockCells b) fun s c => if s.fencedCell c then s else s.fenceOnly c cls).modBlock b fun x =>
    { x with fenced := true, ctlReset := true }

/-- Fence a block (R308); the region manager records it with action 3 and the port and plane that the class gives (R522). -/
def State.fenceBlock (s : State) (b cls level port plane detail : Nat) : State :=
  if (s.block b).fenced then s else
  (s.fenceBlockOnly b cls).regionRecord (blockRegion b) (mkRec cls level (bcCell b) port plane 3 detail)

/-- Half of a limit, rounded up (R300). -/
def half (l : Nat) : Nat := (l + 1) / 2

/-- The count of a block's standing fenced cells acts on cell_fence_limit: at the limit the region manager fences the block, at half of it
it sends a record of action 0 (R296, R300). -/
def State.fenceByCells (s : State) (b cls port plane detail : Nat) : State :=
  let limit := (s.region (blockRegion b)).regs.get RGN_FAULT_CTL_cell_fence_limit
  if limit ≤ s.fencedIn b then s.fenceBlock b cls 2 port plane detail
  else if s.fencedIn b = half limit then s.regionRecord (blockRegion b) (mkRec cls 2 (bcCell b) port plane 0 detail)
  else s

/-- Fence a cell for a class (R296, R308): the block controller's record has action 2; a block whose standing fenced cells reach
cell_fence_limit is fenced by its region manager (R296). -/
def State.fenceCell (s : State) (c cls port plane detail : Nat) : State :=
  if s.fencedCell c then s else
  let s := s.fenceOnly c cls
  let s := s.blockRecord (blockOf c) (mkRec cls 1 c port plane 2 detail)
  s.fenceByCells (blockOf c) cls port plane detail

/-- The count of a cell's standing closed port sluices acts on port_fence_limit: at the limit the cell is fenced, at half of it its
controller sends a record of action 0 (R296, R300). -/
def State.fenceByPorts (s : State) (c cls port plane detail : Nat) : State :=
  let limit := (s.block (blockOf c)).regs.get BLK_FAULT_CTL_port_fence_limit
  if limit ≤ s.portSluices c then s.fenceCell c cls port plane detail
  else if s.portSluices c = half limit && !s.fencedCell c then s.blockRecord (blockOf c) (mkRec cls 1 c port plane 0 detail)
  else s

/-- Close a port sluice for a class, with its record (action 1) by the block controller that counted the fault, and the fences
that follow at either cell of the link (R296, R306). -/
def State.closeSluice (s : State) (c p cls plane detail : Nat) : State :=
  if ((aget (s.rt c).sluices p).any fun x => x.port && !x.test) || (neighbor c p).isNone then s else
  let s := s.shutLink c p false cls
  let s := s.blockRecord (blockOf c) (mkRec cls 1 c p plane 1 detail)
  let s := s.fenceByPorts c cls p plane detail
  match neighbor c p with
  | some d => s.fenceByPorts d cls (oppPort p) plane detail
  | none => s

/-- The index of a cell in its block (R518). -/
def cellIdx (c : Nat) : Nat := 4 * (cy c % 4) + cx c % 4

/-- Key of the window count of a port (net 0-2 bulk planes, 3 rill; kind 0 corrected, 1 uncorrectable) (R295). -/
def countKey (c p kind net : Nat) : Nat := 1000 * cellIdx c + 100 * p + 10 * kind + net

/-- Key of the window count of a cell's NI storage errors (R295). -/
def storeKey (c : Nat) : Nat := 1000 * cellIdx c + 900

/-- A window count. -/
def Block.count (b : Block) (k : Nat) : Nat := (aget b.counts k).getD 0

/-- A limit's action by a block controller: its own, or, while a higher level holds it in reset, only the record of the abandonment (R17). -/
def State.byController (s : State) (b : Nat) (r : FaultRec) (act : State → State) : State :=
  if s.ctlActs b then act s else s.blockRecord b r

/-- Count one bulk link error of the window at the receiving input and act on its limit, all planes together (R295, R296,
R300). Edge inputs count toward no limit. -/
def State.linkError (s : State) (c p plane kind : Nat) : State :=
  if (neighbor c p).isNone then s else
  let b := blockOf c
  let s := s.modBlock b fun x => { x with counts := aput x.counts (countKey c p kind plane) (x.count (countKey c p kind plane) + 1) }
  let x := s.block b
  let total := x.count (countKey c p kind 0) + x.count (countKey c p kind 1) + x.count (countKey c p kind 2)
  let limit := x.regs.get (if kind = 0 then BLK_FAULT_CTL_corr_limit else BLK_FAULT_CTL_uncorr_limit)
  let cls := if kind = 0 then 1 else 2
  if limit ≤ total then s.byController b (mkRec cls 1 c p plane 0 total) fun s => s.closeSluice c p cls plane total
  else if total = half limit then s.blockRecord b (mkRec cls 1 c p plane 0 total)
  else s

/-- Close a rill port at both routers of its link (R279, R296). -/
def State.closeRill (s : State) (c p : Nat) : State :=
  match neighbor c p with
  | none => s
  | some d => (s.modRt c fun r => { r with rillClosed := r.rillClosed ||| BitVec.ofNat 4 (2 ^ p) }).modRt d fun r =>
      { r with rillClosed := r.rillClosed ||| BitVec.ofNat 4 (2 ^ oppPort p) }

/-- Count one rill link error of the window and act on its limit (R295, R296): the rill port closes. -/
def State.rillError (s : State) (c p kind : Nat) : State :=
  if (neighbor c p).isNone then s else
  let b := blockOf c
  let k := countKey c p kind 3
  let s := s.modBlock b fun x => { x with counts := aput x.counts k (x.count k + 1) }
  let total := (s.block b).count k
  let limit := (s.block b).regs.get (if kind = 0 then BLK_FAULT_CTL_corr_limit else BLK_FAULT_CTL_uncorr_limit)
  if limit ≤ total then
    if (s.rt c).rillClosed.getLsbD p then s
    else s.byController b (mkRec 8 1 c p 3 0 total) fun s => (s.closeRill c p).blockRecord b (mkRec 8 1 c p 3 1 total)
  else if total = half limit then s.blockRecord b (mkRec 8 1 c p 3 0 total)
  else s

/-- An uncorrectable error in an NI store, or a cluster-memory write error (R296, R299, R498): counts toward ni_uncorr_limit; a
store error sets CELL_FAULT.ni_fault. -/
def State.storeError (s : State) (c store : Nat) (sets : Bool) : State :=
  let b := blockOf c
  let s := if sets then s.modCellRegs c fun r => r.strike CELL_FAULT_ni_fault 0 else s
  let s := s.modBlock b fun x => { x with counts := aput x.counts (storeKey c) (x.count (storeKey c) + 1) }
  let total := (s.block b).count (storeKey c)
  let limit := (s.block b).regs.get BLK_FAULT_CTL_ni_uncorr_limit
  if limit ≤ total then s.byController b (mkRec 5 1 c 4 0 0 store) fun s => s.fenceCell c 5 4 0 store
  else if total = half limit then s.blockRecord b (mkRec 5 1 c 4 0 0 store)
  else s

/-- A parity error in a word of a router's table (R296, R299): 0 route table, 1 cascade table, 2 schedule bank, 3 rill route table. It sets
parity_fault, and its limit of 1 fences the cell. -/
def State.tableError (s : State) (c table : Nat) : State :=
  let plane := if table = 3 then 3 else 0
  (s.modCellRegs c fun r => r.strike CELL_FAULT_parity_fault 0).byController (blockOf c) (mkRec 6 1 c 7 plane 0 table) fun s =>
    s.fenceCell c 6 7 plane table

end Sys2Proof.Machine
end

