-- ==== Sys2Proof/Machine/Events.lean ====
section
/-! DEFINITION. The event records Zhevber writes (R434, R435) to the host event ring and to the management port's queue (R436,
R519), and the fault records it receives (R300). -/

namespace Sys2Proof.Machine

/-- Entries of the host event ring (R436). -/
def evSize : Nat := 1024
/-- Entries of the management queue (R436). -/
def mevSize : Nat := 4096

/-- Does Zhevber run: is the boot state RUNNING (R419, R420)? -/
def State.zRuns (s : State) : Bool := s.ftn.boot == .running

/-- Free entries of a ring of n: it is full when head would reach the consumer index (R436). -/
def ringFree (n head ci : Nat) : Nat := (n - 1) - (head + n - ci % n) % n

/-- The OVERFLOW record that follows dropped records (R435, R436). -/
def overflow (seq : W32) (time : W64) (n : Nat) : Event := ⟨0x0D, 0x3FFF, seq, time, BitVec.ofNat 64 n, 0⟩

/-- Write a record to the host event ring, after the OVERFLOW it may owe; a record that finds no space is dropped and counted
(R436). -/
def State.postHost (s : State) (e : Event) : State :=
  let f := s.ftn
  let free := ringFree evSize f.evHead f.evCi
  let drop (s : State) := (s.modFtn fun f => { f with evOwed := f.evOwed + 1 }).modChipRegs fun r => r.bump MBX_EVT_STAT_dropped
  let put (s : State) (e : Event) := s.modFtn fun f =>
    { f with ring := aput f.ring (f.evHead % evSize) e, evHead := (f.evHead + 1) % evSize }
  if free = 0 then drop s
  else if f.evOwed = 0 then put s e
  else
    let s := (put s (overflow e.seq e.time f.evOwed)).modFtn fun f => { f with evOwed := 0 }
    if free = 1 then drop s else put s e

/-- Write a record to the management queue in the same way (R436). -/
def State.postMgmt (s : State) (e : Event) : State :=
  let f := s.ftn
  let free := ringFree mevSize f.mHead f.mCi
  let drop (s : State) := (s.modFtn fun f => { f with mOwed := f.mOwed + 1 }).modChipRegs fun r => r.bump MBX_EVT_STAT_mgmt_dropped
  let put (s : State) (e : Event) := s.modFtn fun f =>
    { f with mgmt := aput f.mgmt (f.mHead % mevSize) e, mHead := (f.mHead + 1) % mevSize }
  if free = 0 then drop s
  else if f.mOwed = 0 then put s e
  else
    let s := (put s (overflow e.seq e.time f.mOwed)).modFtn fun f => { f with mOwed := 0 }
    if free = 1 then drop s else put s e

/-- Zhevber writes an event record of a type (R434): to both rings, with the next record number and its own time. Without a
running Zhevber none is written (R420). -/
def State.post (s : State) (type unit : Nat) (body0 body1 : W64) : State :=
  if !s.zRuns then s else
  let e : Event := ⟨BitVec.ofNat 16 type, BitVec.ofNat 14 unit, s.ftn.evSeq, s.time, body0, body1⟩
  ((s.modFtn fun f => { f with evSeq := f.evSeq + 1 }).postHost e).postMgmt e

/-- Zhevber writes a fault record (R300); one of class CTX_TIMEOUT as that event (R435), its detail holding context and
generation as the event does. -/
def State.zRecord (s : State) (r : FaultRec) : State :=
  if r.cls = 0x0F then s.post 0x06 r.unit.toNat (r.detail.setWidth 64) 0 else s.post 0x01 r.unit.toNat r.word 0

/-- The chip as a whole, in the unit field of an event (R435). -/
def unitChip : Nat := 0x3FFF
/-- Link port n in a unit field (R298). -/
def unitLink (n : Nat) : Nat := 0x3F00 + n
/-- Memory gateway g in a unit field (R298). -/
def unitGw (g : Nat) : Nat := 0x3F80 + g

end Sys2Proof.Machine
end

