-- ==== Sys2Proof/Machine/NiOps.lean ====
section
/-! DEFINITION. Shared operations of the network interface: memory windows (R167, R168, R170) and landing entries (R229), matching of
answers to tokens and trackers (R142, R178, R182), receive queues and their entries (R154, R155, R158), records (R143, R160),
tokens (R141), completion of descriptors (R180, R181), cluster-port requests (R497). -/

namespace Sys2Proof.Machine

/-! ## Windows and landings -/

/-- The window of a parterre that holds granules g to g + n − 1 and grants a permission (R168, R170). -/
def Regs.window (r : Regs) (parterre g n : Nat) (wr : Bool) : Option Nat :=
  (List.range 16).find? fun w =>
    r.flag (NI_WIN_A_valid.at w) && r.get (NI_WIN_A_parterre.at w) == parterre &&
    r.flag (if wr then NI_WIN_A_wr.at w else NI_WIN_A_rd.at w) &&
    decide (r.get (NI_WIN_A_base.at w) ≤ g) &&
    decide (g + n ≤ r.get (NI_WIN_A_base.at w) + r.get (NI_WIN_A_count_m1.at w) + 1)

/-- The byte of granule g in window w (R168). -/
def Regs.windowAddr (r : Regs) (w g : Nat) : Nat := r.get (NI_WIN_B_addr.at w) * 16 + 48 * (g - r.get (NI_WIN_A_base.at w))

/-- The landing entry an MCAST matches (R229). -/
def Regs.mcLanding (r : Regs) (p : Packet) : Option Nat :=
  (List.range 16).find? fun i =>
    r.flag (NI_MC_LAND_valid.at i) &&
    ((p.cls == 0 && r.flag (NI_MC_LAND_sched_valid.at i) && r.get (NI_MC_LAND_sched_tree.at i) == p.chanTree.toNat) ||
     (p.cls == 1 && r.flag (NI_MC_LAND_dyn_valid.at i) && r.get (NI_MC_LAND_dyn_tree.at i) == p.chanTree.toNat))

/-- The parterre that owns a cell (R38). -/
def Cell.owner (x : Cell) : BitVec 8 := BitVec.ofNat 8 (x.regs.get NI_OWNER_parterre)

/-! ## Cluster port (R497) -/

/-- The lowest tag that no outstanding request of a list uses. -/
def freshTag (used : List Nat) : Nat := ((List.range (used.length + 1)).find? fun t => !used.contains t).getD used.length

/-- Issue a request on the cluster port (R497). -/
def Ni.request (x : Ni) (write : Bool) (use : CmUse) : Ni :=
  { x with cmReqs := x.cmReqs ++ [⟨freshTag (x.cmReqs.map (·.tag)), write, use⟩] }

/-! ## Tags (R469, R470) -/

/-- Count a packet in every selector its tag matches (R470). -/
def Regs.tagCount (r : Regs) (tag : W32) (f : Field) : Regs :=
  (List.range 4).foldl (fun r i =>
    let m := BitVec.ofNat 32 (r.get (NI_TAG_SEL_mask.at i))
    if bits (r.get NI_TAG_CTL_enable) i 1 == 1 && (tag &&& m) == (BitVec.ofNat 32 (r.get (NI_TAG_SEL_tag.at i)) &&& m)
    then r.bump (f.at i) else r) r

/-- A packet is injected under a tag (R470). -/
def State.tagTx (s : State) (c : Nat) (tag : W32) : State := s.modCellRegs c fun r => r.tagCount tag NI_TAG_CNT_tx
/-- A packet is accepted under a tag (R470). -/
def State.tagRx (s : State) (c : Nat) (tag : W32) : State := s.modCellRegs c fun r => r.tagCount tag NI_TAG_CNT_rx

/-- The tag of a packet's payload (R55, R61), for the types that carry one. -/
def pktTag (p : Packet) : Option W32 :=
  if p.type == tRD_REQ then some (BitVec.ofNat 32 (p.pl 8 4))
  else if p.type == tCOMPL then some (BitVec.ofNat 32 (p.pl 4 4))
  else if p.type == tRED || p.type == tRED_RESULT then some (BitVec.ofNat 32 (p.pl 44 4))
  else none

/-! ## Tokens -/

/-- The open token an ACK matches (R142). -/
def Ni.ackToken (x : Ni) (ch seq : Nat) : Option (Nat × Token) :=
  x.tokens.find? fun e => e.2.isOpen && e.2.seq.toNat == seq &&
    match e.2.use with
    | .msg c _ _ => c == ch
    | .read .. => false

/-- The open token a class-2 NACK matches (R142). -/
def Ni.nackToken (x : Ni) (peerChan seq : Nat) : Option (Nat × Token) :=
  x.tokens.find? fun e => e.2.isOpen && e.2.seq.toNat == seq &&
    match e.2.use with
    | .msg _ p _ => p.toNat == peerChan
    | .read .. => false

/-- A started descriptor by its number. -/
def Ni.desc (x : Ni) (id : Nat) : Option Desc := x.descs.find? fun d => d.id == id
/-- Change a started descriptor. -/
def Ni.modDesc (x : Ni) (id : Nat) (f : Desc → Desc) : Ni := { x with descs := mapIf (fun d => d.id == id) f x.descs }

/-- The open read token whose responder is a source and whose landing range holds a granule (R178). -/
def Ni.readToken (x : Ni) (src : BitVec 13 × BitVec 14) (g : Nat) : Option (Nat × Token) :=
  x.tokens.find? fun e => e.2.isOpen &&
    match e.2.use with
    | .read d land_ count _ _ _ =>
      (x.desc d).any (fun k => k.peerChip == src.1 && k.peerWire == src.2) && decide (land_ ≤ g) && decide (g < land_ + count)
    | .msg .. => false

/-- The open read token whose request granule a NACK names (R182). -/
def Ni.reqToken (x : Ni) (src : BitVec 13 × BitVec 14) (g : Nat) : Option (Nat × Token) :=
  x.tokens.find? fun e => e.2.isOpen &&
    match e.2.use with
    | .read d _ _ _ _ granule => (x.desc d).any (fun k => k.peerChip == src.1 && k.peerWire == src.2) && granule == g
    | .msg .. => false

/-- The WRITE tracker that an answer from a source about granules lo to hi in a class matches (R182); a WRITE of length 0 sends nothing and has
no tracker to match. -/
def Ni.tracker (x : Ni) (src : BitVec 13 × BitVec 14) (lo hi cls : Nat) : Option Desc :=
  x.descs.find? fun d => d.op == 1 && !d.done && d.length != 0 && d.peerChip == src.1 && d.peerWire == src.2 &&
    ((cls == if d.ring < 4 then 1 else 0) || (d.slipped && cls == 1)) && decide (d.remoteG ≤ hi) && decide (lo < d.remoteG + d.n)

/-- The tag the NI attributes to a packet it accepts (R469), 0 where nothing matches. -/
def State.rxTag (s : State) (c : Nat) (p : Packet) : W32 :=
  let x := s.cell c
  let chTag (ch : Nat) : W32 := ((aget x.ni.chans ch).map (·.e.tag)).getD 0
  let winTag (w : Option Nat) : W32 := (w.map fun w => BitVec.ofNat 32 (x.regs.get (NI_WIN_TAG_tag.at w))).getD 0
  let useTag (t : Option (Nat × Token)) : W32 := match t with
    | some (_, tk) => (match tk.use with
      | .msg ch _ _ => chTag ch
      | .read d .. => ((x.ni.desc d).map (·.tag)).getD 0)
    | none => 0
  let src := (p.srcChip, p.srcCell)
  if p.type == tMSG || p.type == tMSG_HEAD || p.type == tMSG_BODY then chTag p.chanTree.toNat
  else if p.type == tWR then winTag (x.regs.window p.parterre.toNat p.granule 1 true)
  else if p.type == tRD_REQ then winTag (x.regs.window p.parterre.toNat p.granule 1 false)
  else if p.type == tRD_DATA then useTag (x.ni.readToken src p.granule)
  else if p.type == tACK then useTag (x.ni.ackToken p.chanTree.toNat (p.seq.toNat % 256))
  else if p.type == tNACK then
    if p.cls == 2 then useTag (x.ni.nackToken p.chanTree.toNat (p.seq.toNat % 256))
    else match x.ni.tracker src p.granule p.granule p.cls.toNat with
      | some d => d.tag
      | none => useTag (x.ni.reqToken src p.granule)
  else if p.type == tCOMPL then ((x.ni.tracker src p.granule (p.granule + 63) p.cls.toNat).map (·.tag)).getD 0
  else if p.type == tMCAST then
    match x.regs.mcLanding p with
    | some i => winTag (x.regs.window p.parterre.toNat (x.regs.get (NI_MC_LAND_base.at i) + p.seq.toNat) 1 true)
    | none => 0
  else if p.type == tRED || p.type == tRED_RESULT then (pktTag p).getD 0
  else 0

/-! ## Answers (R70) -/

/-- Entries of the answer queue (R70). -/
def answerSize : Nat := 16

/-- Has the answer queue a free entry? -/
def State.answerFree (s : State) (c : Nat) : Bool := decide ((s.rt c).answers.length < answerSize)

/-- Put an answer into the answer queue; with no free entry it is lost and counted (R70). -/
def State.answer (s : State) (c : Nat) (a : Packet) : State :=
  if s.answerFree c then
    s.modRt c fun r => { r with answers := r.answers ++ [a], ansSince := if r.answers.isEmpty then s.ncyc else r.ansSince }
  else s.bump c CELL_EVENT_CNT_answer_drop

/-- Answer an answerable packet with a NACK (R48, R49); others draw none. -/
def State.nack (s : State) (c : Nat) (p : Packet) (reason detail : Nat) : State :=
  if p.answerable then s.answer c (nackFor p reason detail) else s

/-! ## Receive queues -/

/-- A receive queue. -/
def Ni.queue (x : Ni) (q : Nat) : Queue := (aget x.queues q).getD Queue.reset
/-- Change a receive queue. -/
def Ni.modQueue (x : Ni) (q : Nat) (f : Queue → Queue) : Ni := { x with queues := aput x.queues q (f (x.queue q)) }

/-- Pool entries in all (R154). -/
def poolSize : Nat := 1024

/-- The shared pool: free entries less the guaranteed shares not yet taken (R154). -/
def Cell.sharedFree (x : Cell) : Int :=
  (poolSize : Int) - x.ni.poolTaken - ((List.range 64).map fun q => (x.regs.get (NI_Q_CFG_q_min.at q) - (x.ni.queue q).taken)).sum

/-- Can a queue take an entry (R154)? -/
def Cell.canTake (x : Cell) (q : Nat) : Bool :=
  let t := (x.ni.queue q).taken
  x.regs.get (NI_Q_CFG_q_max.at q) != 0 && decide (x.ni.poolTaken < poolSize) &&
  (decide (t < x.regs.get (NI_Q_CFG_q_min.at q)) ||
   (decide (t < x.regs.get (NI_Q_CFG_q_max.at q)) && decide (0 < x.sharedFree)))

/-- The metadata word of an entry of queue q (R155). -/
def QEntry.meta_ (e : QEntry) (q : Nat) (more : Bool) : W64 :=
  BitVec.ofNat 64 (e.kind.toNat + e.nwords.toNat * 2 ^ 4 + more.toNat * 2 ^ 7 + e.channel.toNat * 2 ^ 8 + e.handler.toNat * 2 ^ 20 +
    e.seq.toNat * 2 ^ 32 + e.reason.toNat * 2 ^ 40 + e.gen.toNat * 2 ^ 44 + q * 2 ^ 48 + e.msgLen.toNat * 2 ^ 54 +
    e.eccErr.toNat * 2 ^ 62 + 2 ^ 63)

/-- What a CQ_META read returns: the head's metadata, or valid clear and kind NONE (R157). -/
def Queue.headMeta (x : Queue) (q : Nat) : W64 :=
  match x.ents with
  | [] => 0
  | e :: r => e.meta_ q (!r.isEmpty)

/-- Clear the stalled access of a core. -/
def Ni.unstall (x : Ni) (core : Nat) : Ni :=
  { x with cores := x.cores.map fun e => if e.1 = core then (e.1, { e.2 with stall := none }) else e }

/-- The runtime of a core's locations. -/
def Ni.core (x : Ni) (k : Nat) : CoreRt := (aget x.cores k).getD CoreRt.reset
/-- Change the runtime of a core's locations. -/
def Ni.modCore (x : Ni) (k : Nat) (f : CoreRt → CoreRt) : Ni := { x with cores := aput x.cores k (f (x.core k)) }
/-- Stall an access of a core (R161). -/
def Ni.stallCore (x : Ni) (k : Nat) (st : StallKind) (now : Nat) : Ni := x.modCore k fun e => { e with stall := some (st, now) }

/-- Release every CQ_META read that waits on queue q (R157). -/
def State.releaseMeta (s : State) (c q : Nat) : State :=
  let waiting := (s.ni c).cores.filter fun e => match e.2.stall with
    | some (.meta_ q', _) => q' == q
    | _ => false
  s.forEach waiting fun s e =>
    (s.emit (.coreRsp c e.1 (((s.ni c).queue q).headMeta q))).modNi c fun x => x.unstall e.1

/-- Raise the dispatch strobe, at most one per ncyc, the others held in a 16-entry FIFO (R158). -/
def State.dispatch (s : State) (c : Nat) (handler : BitVec 12) (q : Nat) : State :=
  let x := s.ni c
  if x.dispatch.isEmpty && !x.didNow dDispatch s.ncyc then
    (s.emit (.dispatch c handler (BitVec.ofNat 6 q))).modNi c fun x => x.note dDispatch s.ncyc
  else if x.dispatch.length < 16 then s.modNi c fun x => { x with dispatch := x.dispatch ++ [(handler, BitVec.ofNat 6 q)] }
  else s.bump c NI_MSG_STAT_dispatch_lost

/-- High-water observation of a queue's count (R207, mode 2). -/
def Regs.depthHw (r : Regs) (q count : Nat) : Regs :=
  if r.get NI_LAT_CTL_mode = 2 then r.set (NI_QLAT_H_depth_hw.at q) (max (r.get (NI_QLAT_H_depth_hw.at q)) count) else r

/-- Make an entry of a queue visible: it enters the queue, waiting reads return, an active message raises the dispatch strobe, a
queue that becomes non-empty starts its stale-tail interval (R147, R157 to R159). The entry counts as taken already. -/
def State.visible (s : State) (c q : Nat) (e : QEntry) : State :=
  let st := s.cget c (NI_Q_CFG_stale_time.at q)
  let s := s.modNi c fun x => x.modQueue q fun k =>
    { k with ents := k.ents ++ [{ e with born := s.ncyc }]
             since := if k.ents.isEmpty && st ≠ 0 then some (s.now, st) else k.since }
  let s := s.modCellRegs c fun r => r.depthHw q ((s.ni c).queue q).ents.length
  let s := s.releaseMeta c q
  if e.kind = 2 ∨ (e.kind = 3 ∧ e.handler ≠ 0) then s.dispatch c e.handler q else s

/-- Take a pool entry (R330). -/
def State.takeEntry (s : State) (c : Nat) : State := s.modCellRegs c fun r => r.addWrap NI_BAL_QUE2_take_total 1

/-- Take an entry of a queue that has room and make it visible. -/
def State.pushEntry (s : State) (c q : Nat) (e : QEntry) : State := (s.takeEntry c).visible c q e

/-- A queue entry with nothing in it. -/
def QEntry.blank : QEntry := ⟨0, 0, 0, 0, 0, 0, 0, 0, false, [0, 0, 0, 0, 0, 0], 0, 0⟩

/-- XTRA: the peer endpoint, and T[34:3] or a NACK's detail (R155). -/
def xtraWord (peer : BitVec 27) (hi : Nat) : W64 := BitVec.ofNat 64 (peer.toNat + hi % 2 ^ 32 * 2 ^ 32)

/-- Six words of a list, zero beyond it. -/
def sixWords (l : List W64) : List W64 := (List.range 6).map fun i => l.getD i 0

/-! ## Core accesses (R156, R314, R408) -/

/-- A wake trigger in a region: one that sleeps, or is on its way there, is to wake (R409, R411). -/
def State.wakeRegion (s : State) (r : Nat) : State :=
  if (s.region r).asleep || (s.region r).sleepReq then s.modRegion r fun x => { x with waking := true } else s

/-- A wake trigger at a block (R407, R408): a dozing block starts its exit, a Doze hold ends; in a sleeping region the region wakes. -/
def State.wakeBlock (s : State) (b : Nat) : State :=
  let x := s.block b
  let s := s.wakeRegion (blockRegion b)
  if x.power = .doze then s.modBlock b fun x => { x with exiting := true }
  else if x.holdFrom.isSome then
    (s.modBlock b fun x => { x with holdFrom := none, idleFrom := s.ncyc + 1 }).modBlockRegs b fun r => r.bump BLK_PWR_STAT_aborts
  else s

/-- What a mailbox command writes into a cell: nothing into a block in Off, where the write is counted; a block in Doze or Sleep wakes for it, and
since nothing of it moves or is read before Run, the write is made at once (R404, log 62). -/
def State.zCell (s : State) (c : Nat) (f : State → State) : State :=
  match (s.block (blockOf c)).power with
  | .run => f s
  | .off => s.modChipRegs fun r => r.bump CHP_PWR_STAT_off_access
  | _ => (f s).wakeBlock (blockOf c)

/-- Answer a core's access (R497). -/
def State.respond (s : State) (c core : Nat) (v : W64) : State := s.emit (.coreRsp c core v)

/-- Has a core an access that waits (R161)? The cluster presents at most one outstanding access per core (R497). -/
def Ni.coreWaits (x : Ni) (core : Nat) : Bool := (x.core core).stall.isSome

/-- A block's crossing holds a transfer while the block's network clock is stopped (R403); it completes when the clock returns. -/
def State.holdAt (s : State) (b : Nat) (x : Crossing) : State := s.modBlock b fun k => { k with crossing := k.crossing ++ [x] }

/-- A core's access `i` to the core-visible window: none while another of the same core stalls (R497); zero and no effect while the NI
is in reset (R314); held at the crossing, with the block woken, while the block's clock is stopped (R403, R408); else served. -/
def State.access (s : State) (c core : Nat) (i : Instr) (f : State → State) : State :=
  if (s.ni c).coreWaits core then s
  else if (s.ni c).hold ≠ .none then s.respond c core 0
  else if (s.block (blockOf c)).power ≠ .run then
    ((s.wakeBlock (blockOf c)).modNi c fun x => x.stallCore core .wakeUp s.ncyc).holdAt (blockOf c) (.command i)
  else f s

/-- A write access, answered when done. -/
def State.writeAccess (s : State) (c core : Nat) (i : Instr) (f : State → State) : State :=
  s.access c core i fun s => (f s).respond c core 0

/-! ## The map (R21, R22, R312) -/

/-- The entry of a logical ID in a region manager's copy; an unlisted one is vacant (R517). -/
def Region.mapEntry (x : Region) (lid : Nat) : Nat := ((aget x.map lid).getD 0xC000).toNat

/-- The physical cell of a map entry; none for a vacant one (R517). -/
def entryCell (e : Nat) : Option Nat := if bits e 14 1 = 1 then none else some (bits e 0 14)

/-- What a logical ID maps to at the region manager of a cell. -/
def State.mapOf (s : State) (c lid : Nat) : Option Nat := entryCell ((s.region (regionOf c)).mapEntry lid)

/-- Resolve a logical ID through the NI's map cache; a miss is counted, is answered from the region manager's copy, and its entry
is filled by MAP_CACHE_FILL (R312). -/
def State.resolve (s : State) (c lid : Nat) : State × Option Nat :=
  match (s.ni c).mapCache.find? fun e => e.lid == lid with
  | some e =>
    (s.modNi c fun x => { x with
        mapCache := mapIf (fun e => e.lid == lid) (fun e => { e with used := x.nextId }) x.mapCache, nextId := x.nextId + 1 }, e.phys)
  | none =>
    ((s.bump c NI_MAP_CTL_misses).modNi c fun x =>
        { x with mapMiss := if x.mapMiss.contains lid then x.mapMiss else x.mapMiss ++ [lid] }, s.mapOf c lid)

/-- What R22 says of a destination endpoint. -/
inductive PeerIs where
  | invalid
  | vacant
  | local_ (phys : Nat)
  | remote
deriving DecidableEq, Repr

/-- Resolve a destination endpoint (R20, R22, R43). -/
def State.peerIs (s : State) (c chip lid : Nat) : State × PeerIs :=
  if !s.chipOk chip || !logicalOk lid then (s, .invalid)
  else if chip ≠ s.chipId.toNat then (s, .remote)
  else
    let r := s.resolve c lid
    match r.2 with
    | some p => (r.1, .local_ p)
    | none => (r.1, .vacant)

/-! ## Records (R143, R160) -/

/-- Write a record to a channel's status queue; with no room it is lost and counted (R143). -/
def State.record (s : State) (c ch : Nat) (e : QEntry) : State :=
  match aget (s.ni c).chans ch with
  | none => s
  | some k =>
    let q := k.e.statusQueue.toNat
    if (s.cell c).canTake q then s.pushEntry c q { e with channel := BitVec.ofNat 12 ch }
    else s.bump c NI_MSG_STAT_rec_lost

/-- The six words of a packet's payload. -/
def pktWords (p : Packet) : List W64 := (List.range 6).map fun i => BitVec.ofNat 64 (p.pl (8 * i) 8)

/-- The peer endpoint of a channel (R155). -/
def ChanEntry.peer (e : ChanEntry) : BitVec 27 := e.peerChip ++ e.peerCell

/-- A SEND_NACK (5) or SEND_ABANDON (6) record of a token (R155); a copy that met an uncorrectable error (R299) sets ecc_err too. -/
def recordOf (kind : BitVec 4) (t : Token) (peer : BitVec 27) (reason detail : Nat) (ecc : Bool) : QEntry :=
  { QEntry.blank with
    kind := kind, seq := t.seq, gen := t.gen, reason := BitVec.ofNat 4 reason, eccErr := ecc || decide (t.pkt.crc ≠ t.pkt.crcOf), words := pktWords t.pkt,
    xtra := xtraWord peer detail }

/-- A channel of an NI. -/
def Ni.modChan (x : Ni) (ch : Nat) (f : Chan → Chan) : Ni :=
  match aget x.chans ch with
  | some k => { x with chans := aput x.chans ch (f k) }
  | none => x

/-- A token of a channel closed by a NACK: nack_run rises, and reaching storm_limit raises the starvation event (R160), whose record names
the token that the NACK closed and the NACK's detail (R155). -/
def State.nackRun (s : State) (c ch : Nat) (t : Token) (reason detail : Nat) : State :=
  match aget (s.ni c).chans ch with
  | none => s
  | some k =>
    let run := min (k.e.nackRun.toNat + 1) 255
    let s := s.modNi c fun x => x.modChan ch fun k => { k with e := { k.e with nackRun := BitVec.ofNat 8 run } }
    if k.e.stormLimit != 0 && decide (k.e.stormLimit.toNat ≤ run) && !k.rx.storm then
      let s := s.modNi c fun x => x.modChan ch fun k => { k with rx := { k.rx with storm := true } }
      let s := s.record c ch { QEntry.blank with
        kind := 7, seq := t.seq, gen := t.gen, words := sixWords [BitVec.ofNat 64 run, BitVec.ofNat 64 reason], xtra := xtraWord k.e.peer detail }
      (s.bump c NI_MSG_STAT_storms).post 0x04 c (BitVec.ofNat 64 (ch + run * 2 ^ 12 + reason * 2 ^ 20)) 0
    else s

end Sys2Proof.Machine
end

