-- ==== Sys2Proof/Machine/DescOps.lean ====
section
/-! DEFINITION. Closing tokens (R141) and completing descriptors (R180, R181) as shared operations, weirs and the congestion response
(R199, R205). -/

namespace Sys2Proof.Machine

/-- Status codes of R180. -/
def stDONE : Nat := 0
/-- BAD_DESC. -/
def stBADDESC : Nat := 1
/-- LOCAL_WINDOW. -/
def stLOCAL : Nat := 2
/-- RANGE. -/
def stRANGE : Nat := 3
/-- NACKED. -/
def stNACKED : Nat := 4
/-- INCOMPLETE. -/
def stINCOMPLETE : Nat := 5
/-- REFUSED. -/
def stREFUSED : Nat := 6
/-- FLUSHED. -/
def stFLUSHED : Nat := 7

/-- NACK reasons (R50). -/
def rQUEUEFULL : Nat := 1
/-- NO_SPACE. -/
def rNOSPACE : Nat := 2
/-- REORDER_OVERFLOW. -/
def rREORDER : Nat := 3
/-- POLICED. -/
def rPOLICED : Nat := 4
/-- WINDOW_FAULT. -/
def rWINDOW : Nat := 5
/-- MALFORMED. -/
def rMALFORMED : Nat := 6
/-- RESETTING. -/
def rRESETTING : Nat := 7
/-- FENCED. -/
def rFENCED : Nat := 8
/-- CHANNEL_CLOSED. -/
def rCLOSED : Nat := 9
/-- STALE_EPOCH. -/
def rSTALE : Nat := 10

/-! ## Rings -/

/-- The runtime of a ring; its weir starts full. -/
def Ni.ring (x : Ni) (r : Nat) : RingRt := (aget x.rings r).getD RingRt.reset
/-- Change the runtime of a ring. -/
def Ni.modRing (x : Ni) (r : Nat) (f : RingRt → RingRt) : Ni := { x with rings := aput x.rings r (f (x.ring r)) }

/-- Write the completion of a descriptor (R181). -/
def State.finishDesc (s : State) (c : Nat) (d : Desc) (status reason : Nat) : State :=
  let d' := { d with done := true, status := BitVec.ofNat 4 status, reason := BitVec.ofNat 4 reason, tracker := none }
  let s := s.modCell c fun x => { (x.writeStatus s.time d') with ni := x.ni.modDesc d.id fun _ => d' }
  if status = stDONE then s else s.bump c NI_BULK_STAT_desc_failed

/-- CI of ring r passes completed descriptors in ring order, raising their completion strobes (R181); a descriptor of length 0
completes DONE once everything before it has (R174). -/
def State.advanceCi (s : State) (c r fuel : Nat) : State :=
  match fuel with
  | 0 => s
  | n + 1 =>
    match (s.ni c).descs.find? fun d => d.ring == r with
    | none => s
    | some d =>
      if d.done || d.length == 0 then
        let s := if d.done then s else s.finishDesc c d stDONE 0
        let s := s.modNi c fun x =>
          ({ x with descs := x.descs.filter fun k => k.id != d.id }).modRing r fun k => { k with ci := k.ci + 1 }
        let s := if d.notify && (s.cell c).regs.flag (NI_DRING_notify_en.at r) then s.strobe c r else s
        s.advanceCi c r n
      else s

/-- Complete a descriptor (R180, R181). -/
def State.completeDesc (s : State) (c id status reason : Nat) : State :=
  match (s.ni c).desc id with
  | none => s
  | some d => if d.done then s else (s.finishDesc c d status reason).advanceCi c d.ring ((s.ni c).descs.length + 1)

/-- Note the first failure of a descriptor (R180). -/
def Desc.failWith (d : Desc) (status reason : Nat) : Desc :=
  { d with fail := if d.fail.isNone then some (BitVec.ofNat 4 status, BitVec.ofNat 4 reason) else d.fail }

/-- The status a descriptor completes with, given what it would be without a failure. -/
def Desc.outcome (d : Desc) (ok : Nat × Nat) : Nat × Nat :=
  match d.fail with
  | some f => (f.1.toNat, f.2.toNat)
  | none => ok

/-- Start the timer of a WRITE's tracker again (R180). -/
def State.armTracker (s : State) (c id : Nat) : State :=
  let t := s.cget c NI_BULK_CTL_desc_timeout_us
  s.modNi c fun x => x.modDesc id fun d => { d with tracker := some (s.now, t) }

/-- Has a WRITE injected every packet it will inject (R180)? -/
def Desc.allIn (d : Desc) : Bool := d.stop || decide (d.n ≤ d.injected)

/-- A COMPL or NACK restarts the timer of a WRITE that has injected all it will inject (R180). -/
def State.rearmTracker (s : State) (c id : Nat) : State :=
  match (s.ni c).desc id with
  | none => s
  | some d => if d.allIn then s.armTracker c id else s

/-- Complete a WRITE whose injected packets are all confirmed or refused (R180, R203). -/
def State.checkWrite (s : State) (c id : Nat) : State :=
  match (s.ni c).desc id with
  | none => s
  | some d =>
    if d.op == 1 && !d.done && d.allIn && decide (d.injected ≤ d.confirmed + d.nacked) then
      let o := d.outcome (if d.n ≤ d.confirmed then (stDONE, 0) else (stINCOMPLETE, 0))
      s.completeDesc c id o.1 o.2
    else s

/-- RD_REQs of a READ of n packets (R178). -/
def readReqs (n : Nat) : Nat := (n + 63) / 64

/-- Complete a READ whose last token has closed (R180). -/
def State.checkRead (s : State) (c id : Nat) : State :=
  match (s.ni c).desc id with
  | none => s
  | some d =>
    let busy := (s.ni c).tokens.any fun e => e.2.isOpen &&
      match e.2.use with
      | .read k .. => k == id
      | .msg .. => false
    if d.op == 2 && !d.done && !busy && (d.stop || decide (readReqs d.n ≤ d.taken)) then
      let o := d.outcome (stDONE, 0)
      s.completeDesc c id o.1 o.2
    else s

/-- Complete a MSG descriptor whose last token has closed (R139, R180). -/
def State.checkMsg (s : State) (c id : Nat) : State :=
  match (s.ni c).desc id with
  | none => s
  | some d =>
    if d.op == 3 && !d.done && decide (d.n ≤ d.closed) then
      let o := d.outcome (if d.unsent then (stNACKED, rCLOSED) else (stDONE, 0))
      s.completeDesc c id o.1 o.2
    else s

/-! ## Tokens -/

/-- How a token closes (R141, R178). -/
inductive CloseHow where
  | ack | nack | policed | abandon | ecc | data
deriving DecidableEq, Repr

/-- Does a head packet belong to token t? -/
def Head.ofToken (h : Option Head) (t : Nat) : Bool := h.any fun h => h.src == .token t

/-- The token returns to FREE, or is withdrawn after an error in its own state, and counts in closed (R140, R141, R329); a packet of it that
waits as head leaves the plane. -/
def State.freeToken (s : State) (c t : Nat) (withdrawn : Bool) : State :=
  (s.modNi c fun x => { x with
    headReq := if Head.ofToken x.headReq t then none else x.headReq
    tokens := x.tokens.map fun e =>
      if e.1 = t then (t, { e.2 with st := if withdrawn then .withdrawn else .free, gen := e.2.gen + 1, again := false }) else e }).modCellRegs c
    fun r => r.addWrap NI_BAL_TOK_closed 1

/-- Quarantine the landing range of a read token closed by abandonment, for 2 × abandon_us (R179). -/
def State.quarantine (s : State) (c lo hi : Nat) : State :=
  let t := 2 * s.cget c NI_TOK_CTL_abandon_us
  s.modNi c fun x => { x with quarantine := x.quarantine ++ [(lo, hi, expiry s.now t)] }

/-- Note for PC sampling that the spillway dropped a packet of a core's most recent send (R477). -/
def Ni.notePoliced (x : Ni) (t : Nat) (gen : BitVec 4) : Ni :=
  { x with cores := x.cores.map fun e => if e.2.sentToks.contains (t, gen) then (e.1, { e.2 with policed := true }) else e }

/-- Close a token: it returns to FREE once, and its channel or descriptor learns how (R141, R143, R160, R178 to R182). -/
def State.closeToken (s : State) (c t : Nat) (how : CloseHow) (reason detail : Nat) : State :=
  match aget (s.ni c).tokens t with
  | none => s
  | some tk =>
    if !tk.isOpen then s else
    let s := (s.freeToken c t (how == .ecc)).modNi c fun x => if how = .policed then x.notePoliced t tk.gen else x
    match tk.use with
    | .msg ch _ desc =>
      let peer := ((aget (s.ni c).chans ch).map (·.e.peer)).getD 0
      let s :=
        match how with
        | .nack => (s.record c ch (recordOf 5 tk peer reason detail false)).nackRun c ch tk (reason % 16) detail
        | .policed => (s.record c ch (recordOf 5 tk peer reason detail false)).nackRun c ch tk (reason % 16) detail
        | .abandon => s.record c ch (recordOf 6 tk peer 0 0 false)
        | .ecc => s.record c ch (recordOf 6 tk peer 0 0 true)
        | _ => s.modNi c fun x => x.modChan ch fun k =>
            { k with e := { k.e with nackRun := 0 }, rx := { k.rx with storm := false } }
      match desc with
      | none => s
      | some id =>
        (s.modNi c fun x => x.modDesc id fun d =>
          let d := { d with closed := d.closed + 1 }
          match how with
          | .nack => d.failWith stNACKED reason
          | .policed => d.failWith stNACKED reason
          | .abandon => d.failWith stINCOMPLETE 0
          | .ecc => d.failWith stINCOMPLETE 0
          | _ => { d with confirmed := d.confirmed + 1 }).checkMsg c id
    | .read id land_ count _ _ _ =>
      let s :=
        match how with
        | .abandon => s.quarantine c land_ (land_ + count)
        | _ => s
      let s := s.modNi c fun x => x.modDesc id fun d =>
        match how with
        | .nack => d.failWith stNACKED reason
        | .policed => { (d.failWith stNACKED reason) with stop := true }
        | .abandon => d.failWith stINCOMPLETE 0
        | .ecc => d.failWith stINCOMPLETE 0
        | _ => d
      s.checkRead c id

/-- A free token: one that is FREE, the lowest first (the choice is the model's, log 18). -/
def Ni.freeToken? (x : Ni) : Option Nat :=
  (List.range 256).find? fun t => match aget x.tokens t with
    | none => true
    | some k => k.st == .free

/-- Free tokens of an NI. -/
def Ni.freeTokens (x : Ni) : Nat := 256 - x.openTokens - x.withdrawn

/-! ## Weirs (R199) and the congestion response (R205) -/

/-- Credit of a weir brought up to date: rate r, burst b in packets, multiplier m, credit c, ncyc since the last update (R199). -/
def weirCredit (r b m c dt : Nat) : Nat :=
  let rate := if r = 0 then 65536 else r
  let burst := if b = 0 then 1 else b
  min (burst * 65536) (c + max 1 (rate * m / 65536) * (dt % 4294967296))

/-- A packet's worth of credit (R199). -/
def onePacket : Nat := 65536

/-- The response of a multiplier to one answer (R205): new m, new cut_skip, whether it was cut. -/
def ccAnswer (r : Regs) (m skip : Nat) (echo : Bool) : Nat × Nat × Bool :=
  if echo then
    if skip = 0 then (max (r.get NI_CC_CTL_m_floor) (m - m / 8), r.get NI_CC_CTL_cut_gap, true) else (m, skip - 1, false)
  else (min 65535 (m + r.get NI_CC_CTL_rec_step), skip, false)

end Sys2Proof.Machine
end

