-- ==== Sys2Proof/Machine/Ejection.lean ====
section
/-! DEFINITION. Ejection: the checks of R48 in their order, the legality of types, classes and lengths (R37, R39, R52 to R62), and the
rule that a packet whose outcome would raise an answer is discarded unprocessed while the answer queue is full (R70). -/

namespace Sys2Proof.Machine

/-- Is a class legal for a type on a plane (R39)? -/
def classLegal (p : Packet) (pl : Plane) : Bool :=
  let t := p.type.toNat
  let c := p.cls.toNat
  match pl with
  | .sched => ((t == 4 || t == 10 || t == 11) && c == 0) || (t == 14 && c == 3)
  | .request => ((t == 1 || t == 2 || t == 3) && c == 2) || ((t == 4 || t == 5 || t == 10 || t == 11 || t == 12) && c == 1) ||
      (t == 14 && c == 3)
  | .reply => (t == 6 && c == 1) || (t == 7 && c == 2) || (t == 8 && (c == 1 || c == 2)) || (t == 9 && (c == 0 || c == 1)) ||
      ((t == 13 || t == 14) && c == 3)

/-- Elements of a packet of a format (R59); none for a reserved format. -/
def fmtElems (f : Nat) : Option Nat :=
  match f with
  | 0 => some 64
  | 1 => some 32
  | 2 => some 32
  | 3 => some 32
  | 4 => some 32
  | 5 => some 32
  | 6 => some 128
  | 7 => some 16
  | 8 => some 8
  | _ => none

/-- The contribution count of a trailer (R61, R62). -/
def redCount (p : Packet) : Nat := p.pl 36 2 + bits (p.pl 38 2) 11 5 * 65536

/-- The trailer of a RED or RED_RESULT is legal (R59, R61 to R63). A RED carries no element count, so "an element count that does not match the
format" (R62) is taken as a reserved format code or a sequence that is no multiple of the format's elements over 8 (log 46). -/
def redLegal (p : Packet) : Bool :=
  let w := p.pl 38 2
  decide (1 ≤ redCount p) && decide (redCount p ≤ 1048576) && bits w 9 2 == 0 &&
  (p.type != tRED || bits w 7 2 == 0) &&
  match fmtElems (bits w 0 4) with
  | some n => p.seq.toNat % (n / 8) == 0
  | none => false

/-- Length and payload fields are legal for the type (R37, R49, R52 to R57, R59). -/
def lengthLegal (p : Packet) : Bool :=
  let l := p.length.toNat
  match p.type.toNat with
  | 1 =>
    (l % 8 == 0 && decide (8 ≤ l) && decide (l ≤ 48)) ||
    (l % 8 == 2 && decide (l ≤ 42) && bits (p.pl (l - 2) 2) 12 4 == 0 && p.pl (l - 2) 2 != 0)
  | 2 =>
    let n := p.pl 0 3
    decide (1 ≤ n) && decide (n ≤ 65536) && p.pl 3 1 == 0 && bits (p.pl 4 2) 12 4 == 0 && p.pl 6 2 == 0 && l == 8 + min n 40
  | 3 => decide (1 ≤ l) && decide (l ≤ 48)
  | 4 => (p.last == 1 && decide (1 ≤ l) && decide (l ≤ 48)) || l == 48
  | 5 =>
    l == 12 && bits (p.pl 3 1) 6 2 == 0 && decide (1 ≤ p.pl 4 1) && decide (p.pl 4 1 ≤ 48) && p.pl 5 3 == 0
  | 6 => decide (1 ≤ l) && decide (l ≤ 48)
  | 7 => l == 0
  | 8 => l == 8 && bits (p.pl 0 1) 4 4 == 0 && bits (p.pl 1 1) 4 4 == 0 && p.pl 2 2 == 0
  | 9 => l == 8 && decide (1 ≤ p.pl 0 2) && decide (p.pl 0 2 ≤ 64) && p.pl 2 2 == 0
  | 10 => (p.last == 1 && decide (1 ≤ l) && decide (l ≤ 48)) || l == 48
  | 11 => l == 48 && redLegal p
  | 12 => l == 48 && redLegal p
  | 13 => l == 32 && bits (p.pl 26 1) 6 2 == 0 && p.pl 27 1 == 0 && bits (p.pl 24 2) 14 2 == 0
  | 14 => l == 48
  | _ => false

/-- Step 4 of R48. -/
def pktLegal (p : Packet) (pl : Plane) : Bool := classLegal p pl && p.reserved == 0 && lengthLegal p

/-- The reset scope a NACK RESETTING carries (R50, R314); bring-up hold counts as its region's (log 19). -/
def NiHold.detail (h : NiHold) : Nat :=
  match h with
  | .none => 0
  | .cell => 1
  | .ni => 2
  | .region => 3
  | .bringUp => 3

/-- Field of a plane's deflection counts. -/
def deflField (pl : Plane) (req rep : Field) : Field := if pl = .reply then rep else req

/-- The number of the ACTIVE version at a router (R89). -/
def Router.activeVer (r : Router) : Nat := if r.ver1 == vACTIVE then 1 else 0

/-- A packet under a FREE version is stale: counted, answered with NACK STALE_EPOCH, recorded by Zhevber (R89, R296). -/
def State.stale (s : State) (c : Nat) (pl : Plane) (p : Packet) : State :=
  let f := deflField pl CELL_DEFL_CNT_REQ_stale CELL_DEFL_CNT_REP_stale
  let s := (s.bump c f).nack c p rSTALE (s.rt c).activeVer
  s.zRecord (mkRec 9 3 c 7 0 0 (s.cget c f))

/-- The checks of R48 on a packet handed to the NI, and a type's own step 5. An NI in bring-up hold accepts MNT
(R452). A packet of the scheduled plane is never answered, and
counts in rx_discard whatever check it fails (R111). -/
def State.ejectChecks (s : State) (c : Nat) (pl : Plane) (p : Packet) (h : State → State) : State :=
  let x := s.cell c
  let lost (s : State) := if pl = .sched then s.bump c NI_SCHED_STAT_rx_discard else s
  let ans (s : State) (reason detail : Nat) := if pl = .sched then lost s else s.nack c p reason detail
  if !(p.type == tMCAST && p.echo == 0) && !(p.dstChip == s.chipId && p.dstCell.toNat == c) then
    lost (s.bump c NI_RX_CHECK_misdelivered)
  else if x.ni.hold ≠ .none && !(x.ni.hold == .bringUp && p.type == tMNT) then
    ans (s.bump c NI_RX_CHECK_reset_refused) rRESETTING x.ni.hold.detail
  else if p.crc ≠ p.crcOf then lost (s.bump c NI_RX_CHECK_crc_err)
  else if !pktLegal p pl then ans (s.bump c NI_RX_CHECK_malformed) rMALFORMED 4
  else if pl ≠ .sched && p.srcChip == s.chipId && p.srcCell.toNat == c && p.type != tMCAST &&
      (x.rt.verState p.epoch.toNat == vFREE) then s.stale c pl p
  else h s

/-- Ejection under R70: with the answer queue full, a request-plane packet whose outcome would raise an answer is discarded
unprocessed and counted. -/
def State.ejectOne (s : State) (c : Nat) (pl : Plane) (p : Packet) (h : State → State) : State :=
  let room := s.modRt c fun r => { r with answers := r.answers.take (answerSize - 1) }
  if pl = .request && !s.answerFree c &&
      decide (answerSize ≤ ((room.ejectChecks c pl p h).rt c).answers.length) then s.bump c CELL_EVENT_CNT_answer_drop
  else s.ejectChecks c pl p h

/-- Take the first packet of a type that the router has handed over, and do R48 on it. -/
def State.ejectType (s : State) (c : Nat) (t : BitVec 4) (h : Plane → Packet → State → State) : State :=
  match (s.ni c).ejected.find? fun e => e.2.type == t with
  | none => s
  | some (pl, p) =>
    (s.modNi c fun x => { x with ejected := dropFirst (fun e => e.2.type == t) x.ejected }).ejectOne c pl p (h pl p)

/-- Hand a packet to the NI (R69). One of a reserved type is disposed of at once: no command names it. -/
def State.handOver (s : State) (c : Nat) (pl : Plane) (p : Packet) : State :=
  if p.type == 0 || p.type == 15 then s.ejectOne c pl p fun s => s
  else s.modNi c fun x => { x with ejected := x.ejected ++ [(pl, p)] }

end Sys2Proof.Machine
end

