-- ==== Sys2Proof/WellFormed.lean ====
section
/-! DEFINITION. Well-formed commands: every operand that names a unit names one that the die has (R3, R20, R27). A command that is
not well formed names no event of the block; exec refuses it by name (log 9). -/

namespace Sys2Proof

open Sys2Proof.Machine

/-- Mailboxes 0 to 7 of the host, 8 and 9 of the management port (R421). -/
def mailboxOk (m : Nat) : Bool := decide (m < 10)
/-- Cores 0 to 31 of a cluster (R156). -/
def coreOk (k : Nat) : Bool := decide (k < 32)
/-- Channels 0 to 4,095 (R131). -/
def channelOk (ch : Nat) : Bool := decide (ch < 4096)
/-- Receive queues 0 to 63 (R154). -/
def queueOk (q : Nat) : Bool := decide (q < 64)
/-- Descriptor rings 0 to 67 (R171, R188). -/
def ringOk (r : Nat) : Bool := decide (r < 68)
/-- Multicast landing entries 0 to 15 (R229). -/
def landOk (i : Nat) : Bool := decide (i < 16)
/-- Rill contexts 0 to 15 (R281). -/
def contextOk (x : Nat) : Bool := decide (x < 16)
/-- Half-ports 0 and 1 of a link port (R335). -/
def halfOk (h : Nat) : Bool := decide (h < 2)
/-- Lanes 0 to 16 of a half-port (R335). -/
def laneOk (l : Nat) : Bool := decide (l < 17)
/-- Tokens 0 to 255 (R140). -/
def tokenOk (t : Nat) : Bool := decide (t < 256)
/-- Tree entries 0 to 15 of an NI (R244). -/
def treeOk (j : Nat) : Bool := decide (j < 16)
/-- Ranges of a tree entry: 64 slots of 64 elements in units of 8 at the smallest (R246). -/
def rangeOk (i : Nat) : Bool := decide (i < 1024)
/-- Stream rings 0 to 63 of a memory gateway (R186). -/
def streamOk (st : Nat) : Bool := decide (st < 64)
/-- Mesh ports 0 to 3 (R19). -/
def portOk (p : Nat) : Bool := decide (p < 4)
/-- Rill virtual channels 0 to 3 (R276). -/
def vcOk (v : Nat) : Bool := decide (v < 4)
/-- The two dynamic planes. -/
def dynPlane (pl : Plane) : Bool := pl != .sched
/-- The unit that a reset of a scope names: 1 NI and 2 cell a cell, 3 a block, 4 and 5 a region (R314). -/
def resetUnitOk (scope u : Nat) : Bool :=
  match scope with
  | 1 => cellOk u
  | 2 => cellOk u
  | 3 => blockOk u
  | 4 => regionOk u
  | 5 => regionOk u
  | _ => false
/-- A location of a receive queue: CQ_WORDn has n from 0 to 5 (R156). -/
def QueueLoc.wf : QueueLoc → Bool
  | .metaWord => true
  | .word n => decide (n < 6)
  | .xtra => true
  | .status => true
/-- A snapshot unit the die has. -/
def SnapUnit.wf : SnapUnit → Bool
  | .cell c => cellOk c
  | .block b => blockOk b
  | .region r => regionOk r
  | .link n => linkOk n
  | .gateway g => gatewayOk g
  | .fountaineer => true

/-- Every unit the command names exists. -/
def Instr.wf : Instr → Bool
  | .getInfo m => mailboxOk m
  | .setIdentity m => mailboxOk m
  | .setTime m => mailboxOk m
  | .cisternOpen m => mailboxOk m
  | .defectLoad m => mailboxOk m
  | .mapInstall m => mailboxOk m
  | .blockTest m => mailboxOk m
  | .blockTestEnd bad => bad.all fun e => cellOk e.1 && decide (e.2 < 4)
  | .routeInit m => mailboxOk m
  | .parterreSetCreate m => mailboxOk m
  | .parterreSetDestroy m => mailboxOk m
  | .classSet m => mailboxOk m
  | .windowSet m => mailboxOk m
  | .queueSet m => mailboxOk m
  | .regSet m => mailboxOk m
  | .regSetCrit m => mailboxOk m
  | .treeSetup m => mailboxOk m
  | .treeRetire m => mailboxOk m
  | .treeRetireClear => true
  | .mcLandSet m => mailboxOk m
  | .redLandSet m => mailboxOk m
  | .redHoldRelease m => mailboxOk m
  | .redHoldDiscard m => mailboxOk m
  | .fileOpen m => mailboxOk m
  | .fileData m => mailboxOk m
  | .fileCommit m => mailboxOk m
  | .schedSwitch m => mailboxOk m
  | .schedStop m => mailboxOk m
  | .bankSwitch => true
  | .sequenceStop => true
  | .routeExcept m => mailboxOk m
  | .sluiceReopen m => mailboxOk m
  | .fenceCell m => mailboxOk m
  | .unfenceCell m => mailboxOk m
  | .fenceBlock m => mailboxOk m
  | .unfenceBlock m => mailboxOk m
  | .remap m => mailboxOk m
  | .resetNi m => mailboxOk m
  | .resetCell m => mailboxOk m
  | .resetBlock m => mailboxOk m
  | .resetSoftRegion m => mailboxOk m
  | .resetHardRegion m => mailboxOk m
  | .hardResetIsolate r => regionOk r
  | .resetChip m => mailboxOk m
  | .balanceCheck m => mailboxOk m
  | .powerRegionSleep m => mailboxOk m
  | .sleepClockStop r => regionOk r
  | .powerRegionWake m => mailboxOk m
  | .regionWakeDone r => regionOk r
  | .powerBlockOff m => mailboxOk m
  | .offPowerRemove b => blockOk b
  | .powerBlockOn m => mailboxOk m
  | .blockPowerOnDone b => blockOk b
  | .linkSet m => mailboxOk m
  | .linkSetRetrain n => linkOk n
  | .linkSetDeepReq n => linkOk n
  | .linkSetDeepRelease n => linkOk n
  | .linkQuiesce m => mailboxOk m
  | .quiesceStart n => linkOk n
  | .quiesceDrained n => linkOk n
  | .snapshot m => mailboxOk m
  | .snapshotCollect m => mailboxOk m
  | .mbxCmdWrite m k _ => mailboxOk m && decide (k < 16)
  | .mbxDbRing m => mailboxOk m
  | .mbxDbAck m => mailboxOk m
  | .mbxEvtCiWrite _ => true
  | .mbxMevtCiWrite _ => true
  | .bootWindowWrite _ _ _ => true
  | .mbxBootCtlStart => true
  | .keyPortResponse _ _ => true
  | .keyVerdictTimeout => true
  | .fountaineerWatchdogExpire => true
  | .porAssert => true
  | .porRelease => true
  | .hostPortReset => true
  | .mgmtPortReset => true
  | .registerWrite _ _ _ => true
  | .rcFieldRead _ _ => true
  | .lowWordRead _ _ => true
  | .lowWordWrite _ _ _ => true
  | .upperWordWrite _ _ _ => true
  | .niMapCtlInvalOne c lid => cellOk c && logicalOk lid
  | .niMapCtlInvalAll c => cellOk c
  | .mapCacheFill c lid => cellOk c && logicalOk lid
  | .niLatCtlModeWrite c _ => cellOk c
  | .latencySampleTick c => cellOk c
  | .blkPwrCtlHoldRun b => blockOk b
  | .cqMetaRead c core q loc _ => cellOk c && coreOk core && queueOk q && loc.wf
  | .cqMetaWaitLimit c core => cellOk c && coreOk core
  | .cqPop c core q => cellOk c && coreOk core && queueOk q
  | .cqRingRel c core q => cellOk c && coreOk core && queueOk q
  | .cqSendGo c core slot _ _ => cellOk c && coreOk core && coreOk slot
  | .cqSendGoResume c core => cellOk c && coreOk core
  | .cqSyncLoad c core slot ch => cellOk c && coreOk core && coreOk slot && channelOk ch
  | .cqSyncClose c core slot ch => cellOk c && coreOk core && coreOk slot && channelOk ch
  | .cqSyncFlush c core slot ch => cellOk c && coreOk core && coreOk slot && channelOk ch
  | .cqSyncBadOp c core slot ch => cellOk c && coreOk core && coreOk slot && channelOk ch
  | .cqSyncResRead c core slot _ => cellOk c && coreOk core && coreOk slot
  | .channelCloseComplete c ch => cellOk c && channelOk ch
  | .channelFetchDone c ch _ => cellOk c && channelOk ch
  | .channelCacheEccError c ch _ => cellOk c && channelOk ch
  | .cqDringPiWrite c core r _ => cellOk c && coreOk core && ringOk r
  | .cqMcRearm c core i _ => cellOk c && coreOk core && landOk i
  | .cqRedRearm c core i _ => cellOk c && coreOk core && decide (i < 8)
  | .cqRillGo c core slot _ => cellOk c && coreOk core && coreOk slot
  | .cqRillResRead c core slot _ _ => cellOk c && coreOk core && coreOk slot
  | .cqRillPop c core => cellOk c && coreOk core
  | .cqBarArrive c core x _ => cellOk c && coreOk core && contextOk x
  | .cqBarWaitRead c core x _ => cellOk c && coreOk core && contextOk x
  | .vc3Grant b => blockOk b
  | .routerDecode c pl p _ _ => cellOk c && dynPlane pl && portOk p
  | .switchAssign c pl => cellOk c && dynPlane pl
  | .niHeadInject c pl => cellOk c && dynPlane pl
  | .patienceExpire c pl => cellOk c && dynPlane pl
  | .answerQueueInject c => cellOk c
  | .heldPacketAnswer c ch => cellOk c && channelOk ch
  | .injectionSelect c pl => cellOk c && dynPlane pl
  | .fountainDelivery c _ => cellOk c
  | .fountainInject c _ => cellOk c
  | .fountainPatienceExpire c => cellOk c
  | .msgEject c => cellOk c
  | .msgHeadEject c => cellOk c
  | .msgBodyEject c => cellOk c
  | .gapTimeout c ch => cellOk c && channelOk ch
  | .staleTailTimeout c q => cellOk c && queueOk q
  | .dispatchFifoIssue c => cellOk c
  | .ackEject c => cellOk c
  | .nackEject c => cellOk c
  | .retransmitTimeout c t _ => cellOk c && tokenOk t
  | .abandonTimeout c t => cellOk c && tokenOk t
  | .tokenStateEccError c t => cellOk c && tokenOk t
  | .descriptorStart c r => cellOk c && ringOk r
  | .wrEject c => cellOk c
  | .trancheFlush c _ => cellOk c
  | .trancheComplSend c => cellOk c
  | .rdReqEject c => cellOk c
  | .rdDataEject c => cellOk c
  | .complEject c => cellOk c
  | .trackerTimeout c _ => cellOk c
  | .quarantineExpire c => cellOk c
  | .gatewayWr g k => gatewayOk g && decide (k < 8)
  | .gatewayRdReq g k => gatewayOk g && decide (k < 8)
  | .stackReadResponse g _ _ => gatewayOk g
  | .stackWriteResponse g _ _ => gatewayOk g
  | .gatewayPiPoll g st => gatewayOk g && streamOk st
  | .sidebandResponse j _ _ => (j == 0 || j == 10)
  | .clusterMemoryResponse c _ _ => cellOk c
  | .mcastEject c => cellOk c
  | .redEject c _ => cellOk c
  | .rangeTimeout c j i => cellOk c && treeOk j && rangeOk i
  | .holdTimeout c j i => cellOk c && treeOk j && rangeOk i
  | .shutTimeout c j i => cellOk c && treeOk j && rangeOk i
  | .redResultEject c => cellOk c
  | .combTestTick b => blockOk b
  | .combTestDigest c _ _ _ => cellOk c
  | .combDupDigest c _ => cellOk c
  | .combDupTimeout c => cellOk c
  | .telEject c => cellOk c
  | .mntEject c => cellOk c
  | .rinseOffer c _ => cellOk c
  | .rinseTimeout c _ => cellOk c
  | .schedRouterArrival c es _ => cellOk c && decide (es.length = 4)
  | .schedSlotSource c gw st => cellOk c && (if gw then streamOk st else decide (st < 64))
  | .periodWake r => regionOk r
  | .periodArmReport r => regionOk r
  | .schedIngressDeliver n => linkOk n
  | .rillFlitDecode c p vc _ _ _ => cellOk c && decide (p < 6) && vcOk vc
  | .gather c x => cellOk c && contextOk x
  | .release c x => cellOk c && contextOk x
  | .releaseFlip c => cellOk c
  | .releaseArm c => cellOk c
  | .contextTimeout x => contextOk x
  | .bcastTally c => cellOk c
  | .bcastFreeze c => cellOk c
  | .bcastFree c => cellOk c
  | .tallyTick => true
  | .tallyLatch c => cellOk c
  | .tallyResult => true
  | .freezeLatch u _ => u.wf
  | .epochFlipStart => true
  | .installDone => true
  | .wakeDoze b => blockOk b
  | .wakeSleep r => regionOk r
  | .dozeExitDone b => blockOk b
  | .dozeIdleReached b => blockOk b
  | .dozeGate b => blockOk b
  | .fault c => cellOk c
  | .resetFlit c => cellOk c
  | .sluiceFlit c => cellOk c
  | .cmsg c => cellOk c
  | .cnack c => cellOk c
  | .rillSequenceIngress n => linkOk n
  | .timeSync n => linkOk n
  | .timeResp n => linkOk n
  | .timeRespU n => linkOk n
  | .timeFollow n => linkOk n
  | .timeStep r => regionOk r
  | .timeSlew r => regionOk r
  | .timeExchangeTick => true
  | .holdoverExpire => true
  | .faultWindowRoll b => blockOk b
  | .watchdogPoll region u _ => (if region then regionOk u else blockOk u)
  | .cisternDayTick => true
  | .pcSampleTick c => cellOk c
  | .pcSampleAnswer c _ => cellOk c
  | .pcSampleTimeout c => cellOk c
  | .linkDetectPoll n => linkOk n
  | .linkTerminationSeen n h _ _ => linkOk n && halfOk h
  | .trainingMessage n _ => linkOk n
  | .linkTrainDone n => linkOk n
  | .linkTrainTimeout n => linkOk n
  | .linkLockDone n rx => linkOk n && rx.all fun x => halfOk x.half && laneOk x.lane
  | .linkLockTimeout n h l => linkOk n && halfOk h && laneOk l
  | .capSend n => linkOk n
  | .capFrame n _ => linkOk n
  | .lnkCtlAdmit n => linkOk n
  | .frameReq n _ => linkOk n
  | .frameRep n _ => linkOk n
  | .frameSched n _ => linkOk n
  | .frameRill n _ => linkOk n
  | .frameIdle n _ => linkOk n
  | .frameNak n _ => linkOk n
  | .frameCrcFail n _ => linkOk n
  | .frameQuiesceRequest n => linkOk n
  | .frameQuiesceDone n => linkOk n
  | .frameDeepRequest n => linkOk n
  | .frameDeepAccept n => linkOk n
  | .frameDeepRefuse n => linkOk n
  | .deepDrained n => linkOk n
  | .deepRetry n => linkOk n
  | .wakeTone n => linkOk n
  | .deepExitTimeout n => linkOk n
  | .ackTimeout n _ => linkOk n
  | .rillCreditFrame n => linkOk n
  | .laneFail n h l _ _ => linkOk n && halfOk h && laneOk l
  | .clockLoss n => linkOk n
  | .downDetectReturn n => linkOk n
  | .frameBoundary n => linkOk n
  | .prbsCheckerLock n h l _ => linkOk n && halfOk h && laneOk l
  | .prbsCheckerUnlock n h l errs => linkOk n && halfOk h && laneOk l && decide (errs ≤ 1024)
  | .peerEntersTrain n => linkOk n
  | .clockLaneFail n h => linkOk n && halfOk h
  | .timeFollowTimeout n => linkOk n
  | .recordSendingNcyc region u => (if region then regionOk u else blockOk u)
  | .resetEnded scope u => resetUnitOk scope u
  | .chipResetAfterResponse => true
  | .fountaineerMemoryUncorrectable => true

end Sys2Proof
end

