-- ==== Sys2Proof/Machine/Router.lean ====
section
/-! DEFINITION. The router on the dynamic planes: sampling (R472, R474), wake requests (R92), the decode stage (R34, R72, R88 to R90,
R220, R221, R306, R307), the switch stage (R76 to R82, R93, R222, R223). -/

namespace Sys2Proof.Machine

/-! ## Sampling (R472 to R474) -/

/-- One step of the sampling LFSR, x^16 + x^14 + x^13 + x^11 + 1, shifting right (R472, log 20). -/
def lfsrStep (l : BitVec 16) : BitVec 16 :=
  let b := (l ^^^ (l >>> 2) ^^^ (l >>> 3) ^^^ (l >>> 5)) &&& 1
  (l >>> 1) ||| (b <<< 15)

/-- The port number of a sampling point: an edge port is 5 (R56). -/
def pointPort (c p : Nat) : Nat := if (neighbor c p).isSome then p else 5

/-- A packet passes a sampling point in the switch stage; an LFSR that enabling has set to 0 takes its seed here (R472). -/
def State.spray (s : State) (c : Nat) (pl : Plane) (port : Nat) (input : Bool) (p : Packet) (tag : W32) : State :=
  let r := (s.cell c).regs
  if r.flag CELL_SPRAY_CTL_enable && r.get CELL_SPRAY_CTL_plane == pl.code && r.get CELL_SPRAY_CTL_port == port &&
      r.flag CELL_SPRAY_CTL_input == input && bits (r.get CELL_SPRAY_CTL_type_mask) p.type.toNat 1 == 1 then
    let l := lfsrStep (if (s.rt c).lfsr = 0 then BitVec.ofNat 16 c ||| 1 else (s.rt c).lfsr)
    let s := s.modRt c fun x => { x with lfsr := l }
    if l.toNat % 2 ^ r.get CELL_SPRAY_CTL_spray_log2 = 0 then
      if (s.rt c).sample.isSome then s.bump c CELL_OBS_CNT_sample_lost
      else
        let point := BitVec.ofNat 8 (pl.code + 4 * port + if input then 32 else 0)
        (s.bump c CELL_OBS_CNT_sampled).modRt c fun x =>
          { x with sample := some ⟨p.header, s.time, point, tag⟩, sampleNo := x.sampleNo + 1 }
    else s
  else s

/-- The tag of a packet passing a point in transit (R471). -/
def transitTag (p : Packet) : W32 := (pktTag p).getD 0

/-- Windows of 1,024 ncyc for the TEL budget (R474). -/
def State.telWindow (s : State) : Nat := s.now / 1024

/-- TEL packets an output has carried in this window (R474). -/
def State.telCount (s : State) (c p : Nat) : Nat :=
  let v := (aget (s.rt c).telSent p).getD 0
  if v / 64 = s.telWindow then v % 64 else 0

/-- Put a packet on an output, or discard a TEL whose budget there is spent (R474). -/
def State.driveOut (s : State) (c : Nat) (pl : Plane) (p : Nat) (pk : Packet) (tag : W32) : State :=
  let s := s.take c pl (BitVec.ofNat 7 (2 ^ p))
  if pl = .reply && pk.type == tTEL && (neighbor c p).isSome then
    if 30 ≤ s.telCount c p then
      (s.bump c CELL_OBS_CNT_tel_capped).modRt c fun r => r.leave pk.epoch.toNat
    else
      let n := s.telCount c p + 1
      let s := s.modRt c fun r => { r with telSent := aput r.telSent p (64 * s.telWindow + n) }
      (s.spray c pl (pointPort c p) false pk tag).drive c pl p pk
  else (s.spray c pl (pointPort c p) false pk tag).drive c pl p pk

/-! ## Wake requests (R92) -/

/-- A rill flit of a unit at a router (R273). -/
def mkFlit (vc kind dst src aux : Nat) (payload : W64) : Flit :=
  ⟨BitVec.ofNat 2 vc, BitVec.ofNat 5 kind, 0, BitVec.ofNat 14 dst, BitVec.ofNat 14 src, 0, BitVec.ofNat 3 aux, payload⟩

/-- A unit injects a flit at a router's local port (R277). -/
def State.rillSendAs (s : State) (c rank : Nat) (f : Flit) : State :=
  s.modRt c fun r => { r with rillIn := r.rillIn ++ [⟨rank, s.ncyc, f⟩] }

/-- The ranks of the units at a local port (R277): the NI with its router, the block controller, the region manager, the Fountaineer. -/
def rkNi : Nat := 4
/-- The block controller (R277). -/
def rkBlock : Nat := 22
/-- The region manager (R277). -/
def rkRegion : Nat := 21
/-- The Fountaineer (R277). -/
def rkFtn : Nat := 20

/-- The NI or the router injects a flit (R277). -/
def State.rillSend (s : State) (c : Nat) (f : Flit) : State := s.rillSendAs c rkNi f

/-- The ncyc in which a block entered the state it is in: its own, or its region's Sleep (R92). -/
def State.asleepSince (s : State) (b : Nat) : Nat := max (s.block b).since (s.region (blockRegion b)).since

/-- Ask the neighbour behind a port to wake, at most once in wake_retry ncyc while it still dozes: a request of before it entered its
state holds none back; a request toward a block in Off is counted only (R92). -/
def State.wake (s : State) (c p : Nat) : State :=
  match neighbor c p with
  | none => s
  | some d =>
    let b := blockOf d
    let go := match aget (s.rt c).wakeSent p with
      | none => true
      | some t => decide (t + s.cget c CELL_RT_PARAM_wake_retry ≤ s.ncyc) || decide (t < s.asleepSince b)
    if !go then s else
    let sent (s : State) := (s.bump c CELL_EVENT_CNT_wake_req).modRt c fun r => { r with wakeSent := aput r.wakeSent p s.ncyc }
    match (s.block b).power with
    | .run => s
    | .doze => (sent s).rillSend c (mkFlit 2 0x10 (bcCell b) c 0 0)
    | .sleep => (sent s).rillSend c (mkFlit 2 0x10 (rmCell (blockRegion b)) c 1 0)
    | .off => sent s

/-! ## Decode -/

/-- Discard a packet in the decode stage whose word 0 is correct: it leaves its version (R90). -/
def State.dropDecoded (s : State) (c : Nat) (p : Packet) : State := s.modRt c fun r => r.leave p.epoch.toNat

/-- A packet decoded during a Doze hold of the block ends the hold; the idle count starts again (R407). -/
def State.abortHold (s : State) (b : Nat) : State :=
  if (s.block b).holdFrom.isSome then
    (s.modBlock b fun x => { x with holdFrom := none, idleFrom := s.ncyc + 1 }).modBlockRegs b fun r => r.bump BLK_PWR_STAT_aborts
  else s.modBlock b fun x => { x with idleFrom := s.ncyc + 1 }

/-- Keep a decoded packet for the switch stage of the next ncyc. -/
def State.keep (s : State) (c : Nat) (pl : Plane) (d : Decoded) : State :=
  s.modRt c fun r => r.setPlane pl { r.plane pl with dec := (r.plane pl).dec ++ [d] }

/-- Count the branch bits of a mask that a sluice closes, and remove them (R221). -/
def State.cutBranches (s : State) (c : Nat) (m : BitVec 5) : State × BitVec 5 :=
  (List.range 4).foldl (fun a p =>
    if a.2.getLsbD p && s.sluiced c p then (a.1.bump c CELL_CASC_CNT_branch_lost, a.2 &&& ~~~(BitVec.ofNat 5 (2 ^ p))) else a) (s, m)

/-- Decode a multicast packet at a router of its tree, or a re-rooted copy at its resume vertex (R75, R220, R221, R223). An entry that fails
parity (`tab`, or as it stands) is a miss and a table error (R220, R296). -/
def State.decodeMcast (s : State) (c p : Nat) (pl : Plane) (pk : Packet) (tab : Bool) : State :=
  let e := (s.rt c).cascade pk.chanTree.toNat
  let bad := pk.echo == 0 && (tab || !parityOk e)
  let s := s.when_ bad fun s => s.tableError c 1
  if pk.echo == 0 && (bad || !cascOk e 0) then (s.bump c CELL_CASC_CNT_miss).dropDecoded c pk
  else
    let m := if pk.echo == 0 then BitVec.ofNat 5 (bits e 0 5) else pk.srcCell.setWidth 5
    let cut := s.cutBranches c m
    if cut.2 = 0 then cut.1.dropDecoded c pk else cut.1.keep c pl ⟨p, s.ncyc, pk, cut.2, .branch⟩

/-- Is a destination the fenced cell across a port closed by a cell sluice (R307)? -/
def State.acrossFence (s : State) (c : Nat) (pk : Packet) : Bool :=
  pk.dstChip == s.chipId &&
  (List.range 4).any fun p => neighbor c p == some pk.dstCell.toNat && s.fencedCell pk.dstCell.toNat &&
    match aget (s.rt c).sluices p with
    | some x => x.cell
    | none => false

/-- Does the decode of a unicast packet read a row of the route table (R72)? -/
def State.readsRow (s : State) (c : Nat) (pk : Packet) : Bool :=
  pk.dstChip != s.chipId || blockOf pk.dstCell.toNat != blockOf c || (pk.dstCell.toNat != c && s.detour c pk.epoch.toNat)

/-- Decode a unicast packet: productive set, re-stamp (R88), discard toward a fenced or unreachable cell (R307). A parity error in the row
read fences the cell before the packet is switched (R296). -/
def State.decodeUnicast (s : State) (c p : Nat) (pl : Plane) (pk : Packet) (tab : Bool) : State :=
  let s := s.when_ (tab && s.readsRow c pk) fun s => s.tableError c 0
  let v := pk.epoch.toNat
  let o := 1 - v
  let re := (s.productive c pk v).prod == 0 && (s.rt c).verState v == vDRAINING && (s.rt c).verState o == vACTIVE
  let s := if re then
      (s.bump c (deflField pl CELL_DEFL_CNT_REQ_restamped CELL_DEFL_CNT_REP_restamped)).modRt c fun r => (r.leave v).enter o
    else s
  let pk := if re then { pk with epoch := BitVec.ofNat 1 o } else pk
  let v := pk.epoch.toNat
  let r := s.productive c pk v
  if s.acrossFence c pk || ((s.rt c).verState v == vACTIVE && r.emptyRow) then
    ((s.bump c (deflField pl CELL_DEFL_CNT_REQ_noroute CELL_DEFL_CNT_REP_noroute)).dropDecoded c pk).nack c pk rFENCED
      pk.dstCell.toNat
  else s.keep c pl ⟨p, s.ncyc, pk, r.prod, r.pref⟩

/-- Decode a packet whose words are correct: a closed sluice, which in TEST passes MNT to the NI's checker, a FREE
version, then by kind (R306, R89, R72, R75). -/
def State.decodeGood (s : State) (c p : Nat) (pl : Plane) (pk : Packet) (tab : Bool) : State :=
  let test := match aget (s.rt c).sluices p with
    | some x => x.test && pk.type == tMNT && pk.dstCell.toNat == c
    | none => true
  if !test then
    ((s.bump c CELL_ERR_CNT_sluice_drop).dropDecoded c pk).nack c pk rFENCED ((neighbor c p).getD 0x3FFF)
  else if (aget (s.rt c).sluices p).isSome then s.keep c pl ⟨p, s.ncyc, pk, 16, .home⟩
  else if (s.rt c).verState pk.epoch.toNat == vFREE then (s.dropDecoded c pk).stale c pl pk
  else if pl = .request && pk.type == tMCAST && (pk.echo == 0 || (pk.dstChip == s.chipId && pk.dstCell.toNat == c)) then
    s.decodeMcast c p pl pk tab
  else s.decodeUnicast c p pl pk tab

/-- Set the port's fault bit (R34, R323); edge inputs set none (R296). -/
def State.portFault (s : State) (c p : Nat) : State :=
  if (neighbor c p).isSome then
    s.modCellRegs c fun r => r.strike CELL_FAULT_port_fault p
  else s

/-- Does an input stand closed, so that it passes at most MNT (R306)? -/
def State.closedTo (s : State) (c p : Nat) (pk : Packet) : Bool :=
  match aget (s.rt c).sluices p with
  | some x => !(x.test && pk.type == tMNT && pk.dstCell.toNat == c)
  | none => false

/-- Count the corrected words among the eight of a packet (R34, R295). -/
def State.corrected (s : State) (c : Nat) (pl : Plane) (p : Nat) (es : List Ecc) : State :=
  s.forEach ((es.take 8).filter fun e => e == .single) fun s _ => (s.bump c CELL_ERR_CNT_corr).linkError c p pl.code 0

/-- The decode stage of one input (R34): each of the eight words is decoded, `es` giving what word k shows (none beyond the list); a single-bit
error is corrected and counted; a packet with an uncorrectable word is discarded and counted, also as dropped where the input is closed
(R306), with word 0 correct in left (R90). -/
def State.decodeInput (s : State) (c : Nat) (pl : Plane) (p : Nat) (es : List Ecc) (tab : Bool) : State :=
  match ((s.rt c).plane pl).arr.find? fun x => x.port == p && decide (x.due ≤ s.ncyc) with
  | none => s
  | some x =>
    let s := s.modRt c fun r => r.setPlane pl
      { r.plane pl with arr := dropFirst (fun y => y.port == p && decide (y.due ≤ s.ncyc)) (r.plane pl).arr }
    let s := s.abortHold (blockOf c)
    let s := s.corrected c pl p es
    if !(es.take 8).contains .double then s.decodeGood c p pl x.pkt tab else
    let s := s.when_ (s.closedTo c p x.pkt) fun s => s.bump c CELL_ERR_CNT_sluice_drop
    let s := (s.bump c CELL_ERR_CNT_uncorr).portFault c p
    let s :=
      if es.head? = some .double then
        (s.bump c CELL_EVENT_CNT_unattrib).modRt c fun r => { r with lostW0 := r.lostW0 + 1 }
      else s.dropDecoded c x.pkt
    s.linkError c p pl.code 1

/-- ROUTER_DECODE. -/
def execRouterDecode (c : Nat) (pl : Plane) (p : Nat) (es : List Ecc) (tab : Bool) (s : State) : Res :=
  onUnit (Instr.routerDecode c pl p es tab).wf s (s.decodeInput c pl p es tab)

/-! ## Switch -/

/-- The golden index of this ncyc (R77). -/
def State.golden (s : State) (c : Nat) : Nat := s.now / 2 ^ s.cget c CELL_RT_PARAM_golden_shift % 16384

/-- The rank key of a transit packet: the smaller comes first (R77). -/
def State.rankKey (s : State) (c : Nat) (d : Decoded) : Nat × Nat × Nat × Nat :=
  let gold := d.pkt.age == 127 && d.pkt.srcCell.toNat == s.golden c
  let key := d.pkt.srcChip.toNat * 16777216 + d.pkt.chanTree.toNat * 4096 + d.pkt.seq.toNat
  (if gold then 0 else 1, if gold then key else 0, 127 - d.pkt.age.toNat, (d.port + 4 - s.rot c) % 4)

/-- Order of rank keys. -/
def rankLt (a b : Nat × Nat × Nat × Nat) : Bool :=
  decide (a.1 < b.1) || (a.1 == b.1 && (decide (a.2.1 < b.2.1) || (a.2.1 == b.2.1 &&
    (decide (a.2.2.1 < b.2.2.1) || (a.2.2.1 == b.2.2.1 && decide (a.2.2.2 < b.2.2.2))))))

/-- Insert a packet in rank order. -/
def State.rankInsert (s : State) (c : Nat) (d : Decoded) (l : List Decoded) : List Decoded :=
  match l with
  | [] => [d]
  | e :: r => if rankLt (s.rankKey c d) (s.rankKey c e) then d :: e :: r else e :: s.rankInsert c d r

/-- Packets in rank order (R77). -/
def State.ranked (s : State) (c : Nat) (l : List Decoded) : List Decoded := l.foldl (fun a d => s.rankInsert c d a) []

/-- The ports of a productive set in order of preference (R79): EJECT or the steered edge, the edge of the bundle, the dimension
of the larger offset, else the rotating order. -/
def State.prefOrder (s : State) (c : Nat) (d : Decoded) : List Nat :=
  let inSet (p : Nat) := d.prod.getLsbD p
  match d.pref with
  | .home => (4 :: List.range 4).filter inSet
  | .branch => (4 :: s.rotOrder c).filter inSet
  | .bundle edge => (List.range 4).filter (fun p => inSet p && edge.getLsbD p) ++
      (s.rotOrder c).filter fun p => inSet p && !edge.getLsbD p
  | .grid =>
    let t := d.pkt.dstCell.toNat
    let dx := (cx t - cx c) + (cx c - cx t)
    let dy := (cy t - cy c) + (cy c - cy t)
    let off (p : Nat) := if p % 2 = 0 then dx else dy
    let best := (List.range 4).foldl (fun a p => if inSet p then max a (off p) else a) 0
    (List.range 4).filter (fun p => inSet p && off p == best) ++ (List.range 4).filter fun p => inSet p && off p != best

/-- Is EJECT or a port free for the switch stage? -/
def State.freeSlot (s : State) (c : Nat) (pl : Plane) (p : Nat) : Bool :=
  if p = 4 then !(s.taken c pl).getLsbD 4 else s.freeOut c pl p

/-- The congestion mark (R93): on the request plane, for WR and messages that aged or pass a deflecting router. -/
def State.mark (s : State) (c : Nat) (pl : Plane) (pk : Packet) : Packet :=
  let a := s.cget c CELL_RT_PARAM_cmark_age
  let n := s.cget c CELL_RT_PARAM_cmark_rate
  let recent := ((s.rt c).defl.filter fun t => decide (t < s.ncyc) && decide (s.ncyc ≤ t + 256)).length
  if pl = .request && decide (1 ≤ pk.type.toNat) && decide (pk.type.toNat ≤ 4) &&
      ((a != 0 && decide (a ≤ pk.age.toNat)) || (n != 0 && decide (n ≤ recent))) then { pk with cmark := 1 }
  else pk

/-- Give a packet its output: a port, or EJECT (R69, R83, R90). -/
def State.give (s : State) (c : Nat) (pl : Plane) (p : Nat) (pk : Packet) : State :=
  let pk := s.mark c pl pk
  if p = 4 then
    (((s.take c pl 16).spray c pl 4 false pk (s.rxTag c pk)).modRt c fun r => r.leave pk.epoch.toNat).handOver c pl pk
  else s.driveOut c pl p pk (transitTag pk)

/-- The echo-clear copy that a branch carries: it names the tree's root as R218 gives. -/
def State.branchCopy (s : State) (pk : Packet) : Packet :=
  if pk.echo == 0 then pk else
  match s.chip.trees.find? fun t => t.id == pk.chanTree.toNat with
  | some t => { pk with echo := 0, dstChip := s.chipId, dstCell := BitVec.ofNat 14 t.root, srcCell := BitVec.ofNat 14 t.root }
  | none => { pk with echo := 0 }

/-- The re-rooted copy of a packet with the branches still unserved (R223). -/
def State.reroot (s : State) (c : Nat) (pk : Packet) (m : BitVec 5) : Packet :=
  { pk with echo := 1, dstChip := s.chipId, dstCell := BitVec.ofNat 14 c, srcCell := m.setWidth 14 }

/-- An event of the watched tree (R233). -/
def State.watch (s : State) (c : Nat) (t : BitVec 4) (tree : BitVec 12) : State :=
  let r := (s.cell c).regs
  if r.flag CELL_CASC_WATCH_enable && r.get CELL_CASC_WATCH_tree == tree.toNat && (t == tMCAST || t == tRED || t == tRED_RESULT) then
    s.modRt c fun x => { x with watchLive := x.watchLive + 1 }
  else s

/-- Slots of the fountain buffer (R224). -/
def fountSize : Nat := 8

/-- A vertex packet that holds RESIDUE: what remains to be served, and whether it took an output in pass 1 (R222). -/
structure Vert where
  pkt : Packet
  rem : BitVec 5
  took : Bool
deriving DecidableEq, Repr

/-- What the passes of the switch stage carry along: losers with their packets, and vertex packets. -/
structure Pass where
  st : State
  losers : List Decoded
  verts : List Vert

/-- Make a loser of pass 1: a multicast packet on its branch mask becomes a re-rooted copy (R223). -/
def Pass.lose (a : Pass) (c : Nat) (d : Decoded) : Pass :=
  if d.pref = .branch then
    let s := if d.pkt.echo == 0 then a.st.bump c CELL_CASC_CNT_rerooted else a.st
    { a with st := s, losers := a.losers ++ [{ d with pkt := s.reroot c d.pkt d.prod }] }
  else { a with losers := a.losers ++ [d] }

/-- Is a branch mask a vertex's: two bits or more (R220)? -/
def isVertex (m : BitVec 5) : Bool := decide (2 ≤ ((List.range 5).filter fun i => m.getLsbD i).length)

/-- Pass 1 for one packet (R78, R92, R222). -/
def Pass.one (c : Nat) (pl : Plane) (a : Pass) (d : Decoded) : Pass :=
  let s := (a.st.spray c pl (pointPort c d.port) true d.pkt (transitTag d.pkt)).watch c d.pkt.type d.pkt.chanTree
  let order := s.prefOrder c d
  let s := match d.pref with
    | .branch => s.forEach (order.filter fun p => p != 4 && s.dozing c p) fun s p => s.wake c p
    | _ => match order with
      | p :: _ => if p != 4 && s.dozing c p then s.wake c p else s
      | [] => s
  let a := { a with st := s }
  let free := order.find? fun p => s.freeSlot c pl p
  if d.pref = .branch && isVertex d.prod then
    if (s.taken c pl).getLsbD 5 || decide (fountSize ≤ (s.ni c).fountain.length) then a.lose c d
    else
      let s := (s.take c pl 32).modCellRegs c fun r => r.addWrap NI_BAL_FOUNT_taken 1
      match free with
      | some p => { a with
          st := s.give c pl p (s.branchCopy d.pkt)
          verts := a.verts ++ [⟨s.branchCopy d.pkt, d.prod &&& ~~~(BitVec.ofNat 5 (2 ^ p)), true⟩] }
      | none => { a with st := s, verts := a.verts ++ [⟨s.branchCopy d.pkt, d.prod, false⟩] }
  else
    match free with
    | some p => { a with st := s.give c pl p (if d.pref = .branch then s.branchCopy d.pkt else d.pkt) }
    | none => a.lose c d

/-- May a packet go back to the unit on whose edge input it came, though that unit presents the output busy by now: so that R68 gives every
loser an output (log 21)? -/
def State.backOut (s : State) (c : Nat) (pl : Plane) (p : Nat) : Bool :=
  !(s.taken c pl).getLsbD p &&
  match edgeOf c p with
  | some (.link n _) => s.linkActive n
  | some (.gateway g _) => s.chip.integ.mgwPresent.getLsbD g && !(s.gw g).hold
  | _ => false

/-- The port a deflected packet takes: the first free in rotating order other than the one it arrived on, else that one (R80). R80 lets it
take any mesh port, and R19 and R68 count an edge port as one: it may take an edge output, whose unit then hands it back (R84, log 23). -/
def State.deflPort (s : State) (c : Nat) (pl : Plane) (d : Decoded) : Option Nat :=
  match (s.rotOrder c).find? fun p => p != d.port && s.freeOut c pl p with
  | some p => some p
  | none => if s.freeOut c pl d.port || s.backOut c pl d.port then some d.port else none

/-- Age a deflected packet, counting the one that reaches 127 here (R78, R99). -/
def State.age (s : State) (c : Nat) (pk : Packet) : State × Packet :=
  if pk.age = 127 then (s, pk)
  else (if pk.age = 126 then s.bump c CELL_EVENT_CNT_saturated else s, { pk with age := pk.age + 1 })

/-- Note a deflection of this ncyc for the rate of R93. -/
def State.noteDefl (s : State) (c : Nat) (pl : Plane) : State :=
  let s := s.bump c (deflField pl CELL_DEFL_CNT_REQ_deflected CELL_DEFL_CNT_REP_deflected)
  if pl = .request then
    s.modRt c fun r => { r with defl := (r.defl.filter fun t => decide (s.ncyc ≤ t + 256)) ++ [s.ncyc] }
  else s

/-- Pass 2 for one loser (R80). R68 gives every loser an output; a state in which it has none keeps the packet for the next switch
stage (log 21). -/
def State.deflect (c : Nat) (pl : Plane) (s : State) (d : Decoded) : State :=
  match s.deflPort c pl d with
  | none => s.keep c pl d
  | some p =>
    let a := s.age c d.pkt
    let s := a.1.noteDefl c pl
    let s := if d.prod = 0 then s.bump c (deflField pl CELL_DEFL_CNT_REQ_noroute CELL_DEFL_CNT_REP_noroute) else s
    s.give c pl p a.2

/-- Pass 3 for one vertex packet: a copy on each free branch, the rest to a fountain slot (R222, R224). -/
def State.branches (c : Nat) (pl : Plane) (s : State) (v : Vert) : State :=
  let a := (4 :: s.rotOrder c).foldl (fun (a : State × BitVec 5) p =>
    if a.2.getLsbD p && a.1.freeSlot c pl p then
      (((a.1.bump c CELL_CASC_CNT_copies).modRt c fun r => r.enter v.pkt.epoch.toNat).give c pl p v.pkt,
       a.2 &&& ~~~(BitVec.ofNat 5 (2 ^ p)))
    else a) (s, v.rem)
  let s := a.1
  if a.2 = 0 then s.modCellRegs c fun r => r.addWrap NI_BAL_FOUNT_freed 1
  else
    let s := s.modRt c fun r => (if v.took then r.enter v.pkt.epoch.toNat else r).leave v.pkt.epoch.toNat
    (s.bump c NI_FOUNT_STAT_residues).modNi c fun x =>
      { x with fountain := x.fountain ++ [⟨v.pkt, a.2, s.ncyc, x.nextId, s.ncyc⟩], nextId := x.nextId + 1 }

/-- Passes 1 to 3 of the switch stage over the packets decoded before this ncyc (R78). -/
def State.switchAssign (s : State) (c : Nat) (pl : Plane) : State :=
  let ds := s.ranked c (((s.rt c).plane pl).dec.filter fun d => decide (d.at_ < s.ncyc))
  let s := s.modRt c fun r => r.setPlane pl { r.plane pl with dec := (r.plane pl).dec.filter fun d => !decide (d.at_ < s.ncyc) }
  let a := ds.foldl (Pass.one c pl) ⟨s, [], []⟩
  let s := a.losers.foldl (State.deflect c pl) a.st
  a.verts.foldl (State.branches c pl) s

/-- SWITCH_ASSIGN. -/
def execSwitchAssign (c : Nat) (pl : Plane) (s : State) : Res :=
  onUnit (Instr.switchAssign c pl).wf s (s.switchAssign c pl)

/-! ## Pass 4 (R70, R81) -/

/-- Do passes 1 to 3 of this ncyc still wait at a router? -/
def State.transitWaits (s : State) (c : Nat) (pl : Plane) : Bool :=
  ((s.rt c).plane pl).dec.any fun d => decide (d.at_ < s.ncyc)

/-- May pass 4 inject on a plane: transit served, nothing injected in this ncyc, and the block not in a Doze hold (R81, R407)? -/
def State.mayInject (s : State) (c : Nat) (pl : Plane) : Bool :=
  !s.transitWaits c pl && !(s.taken c pl).getLsbD 6 && (s.block (blockOf c)).holdFrom.isNone && (s.block (blockOf c)).power == .run

/-- The packet as it is injected: the NI's injection epoch and an age (R81, R87). -/
def State.stamped (s : State) (c : Nat) (pk : Packet) (age : Nat) : Packet :=
  { pk with epoch := BitVec.ofNat 1 (s.cget c NI_INJ_CTL_inj_epoch), age := BitVec.ofNat 7 age }

/-- The preferred free productive port of a packet to be injected (R79, R81). -/
def State.injectPort (s : State) (c : Nat) (pl : Plane) (pk : Packet) : Option Nat :=
  let r := s.productive c pk pk.epoch.toNat
  (s.prefOrder c ⟨4, s.ncyc, pk, r.prod, r.pref⟩).find? fun p => p != 4 && s.freeOut c pl p

/-- Drive an injected packet: it enters its version (R90), passes the local input (R472) and the router's switch stage (R67, R233). R93 marks what a router forwards; whether that covers a
packet injected in pass 4 it does not say, and none is marked here (log 49). -/
def State.inject (s : State) (c : Nat) (pl : Plane) (p : Nat) (pk : Packet) (tag : W32) : State :=
  let s := ((s.take c pl 64).modRt c fun r => r.enter pk.epoch.toNat).watch c pk.type pk.chanTree
  (s.spray c pl 4 true pk tag).driveOut c pl p pk tag

/-- Is a packet's destination its own source cell (R69)? -/
def State.isLocal (s : State) (c : Nat) (pk : Packet) : Bool := pk.dstChip == s.chipId && pk.dstCell.toNat == c

/-- The first free port in the rotating order (R81, R225). -/
def State.anyPort (s : State) (c : Nat) (pl : Plane) : Option Nat := (s.rotOrder c).find? fun p => s.freeOut c pl p

/-- Take the head of the answer queue off it. -/
def State.popAnswer (s : State) (c : Nat) : State := s.modRt c fun r => { r with answers := r.answers.drop 1, ansSince := s.ncyc }

/-- Was an answer raised by the router itself (R70)? Its NACKs RESETTING, FENCED and STALE_EPOCH are; the NI counts no tag for
them (log 22). -/
def routerNack (p : Packet) : Bool :=
  p.type == tNACK && (p.pl 0 1 == rRESETTING || p.pl 0 1 == rFENCED || p.pl 0 1 == rSTALE)

/-- The NI's tag count of an answer it raised (R469). -/
def State.answerTag (s : State) (c : Nat) (p : Packet) : State := if routerNack p then s else s.tagTx c (transitTag p)

/-- Pass 4 of the reply plane for the answer queue (R70, R81). -/
def State.injectAnswer (s : State) (c : Nat) : State :=
  match (s.rt c).answers with
  | [] => s
  | a :: _ =>
    if !s.mayInject c .reply then s else
    let pk := s.stamped c a 0
    if s.isLocal c pk then (((s.popAnswer c).answerTag c pk).take c .reply 64).handOver c .reply pk
    else
      match s.injectPort c .reply pk with
      | none => s
      | some p => (((s.popAnswer c).answerTag c pk)).inject c .reply p pk (transitTag pk)

/-- ANSWER_QUEUE_INJECT. -/
def execAnswerQueueInject (c : Nat) (s : State) : Res := onUnit (Instr.answerQueueInject c).wf s (s.injectAnswer c)

end Sys2Proof.Machine
end

