-- ==== Sys2Proof/Machine/Cascade.lean ====
section
/-! DEFINITION. Multicast at the NI: the fountain buffer (R224 to R226) and landing entries (R229, R230). -/

namespace Sys2Proof.Machine

/-! ## Landing (R229) -/

/-- Runtime of a multicast landing. -/
def Ni.mcRt (x : Ni) (i : Nat) : McLandRt := (aget x.mcLands i).getD ⟨0, 0, false, 0⟩

/-- A discard at ejection counts in rx_discard too where the scheduled plane carried the packet (R111, R129). -/
def State.lostOn (s : State) (c : Nat) (pl : Plane) : State := if pl = .sched then s.bump c NI_SCHED_STAT_rx_discard else s

/-- Land an MCAST that passed steps 1 to 4 of R48: the first condition of R229 that applies decides. -/
def State.mcLand (s : State) (c : Nat) (pl : Plane) (p : Packet) : State :=
  let r := (s.cell c).regs
  match r.mcLanding p with
  | none => (s.bump c NI_MC_STAT_mc_unclaimed).lostOn c pl
  | some i =>
    let m := (s.ni c).mcRt i
    if m.done then (s.bump c NI_MC_STAT_mc_overrun).lostOn c pl
    else
      let g := r.get (NI_MC_LAND_base.at i) + p.seq.toNat
      match if p.parterre.toNat = r.get (NI_MC_LAND_parterre.at i) then r.window p.parterre.toNat g 1 true else none with
      | none => (s.bump c NI_MC_STAT_mc_window).lostOn c pl
      | some w =>
        let received := m.received + 1
        let expected := if p.last = 1 then p.seq.toNat + 1 else m.expected
        let m' : McLandRt := ⟨received, expected, false, m.pend + 1⟩
        let s := s.tagRx c (s.rxTag c p)
        let s := s.modCell c fun x => { x with
          cm := mwriteList x.cm (r.windowAddr w g) (p.plBytes.take p.length.toNat)
          ni := ({ x.ni with mcLands := aput x.ni.mcLands i m' } : Ni).request true (.mcLand i) }
        if expected ≠ 0 ∧ expected < received then s.bump c NI_MC_STAT_mc_excess else s

/-- A write of landing i is visible (R229): the entry is done once every write is visible and the count is complete. -/
def State.mcVisible (s : State) (c i : Nat) : State :=
  let m := (s.ni c).mcRt i
  let pend := m.pend - 1
  let done := m.done || (pend == 0 && m.expected != 0 && decide (m.expected ≤ m.received))
  let s := s.modNi c fun x => { x with mcLands := aput x.mcLands i { m with pend := pend, done := done } }
  if done && !m.done && (s.cell c).regs.flag (NI_MC_LAND_notify.at i) then s.strobe c (68 + i) else s

/-- MCAST_EJECT. -/
def execMcastEject (c : Nat) (s : State) : Res :=
  onUnit (Instr.mcastEject c).wf s (s.ejectType c tMCAST fun pl p s => s.mcLand c pl p)

/-- The word of CQ_MC_LAND(i) (R230). -/
def McLandRt.word (m : McLandRt) : W64 := BitVec.ofNat 64 (m.received % 2 ^ 13 + m.expected % 2 ^ 13 * 2 ^ 13 + m.done.toNat * 2 ^ 26)

/-- Re-arm landing i: writes still outstanding belong to the burst that has ended (R229, R230). -/
def Ni.mcRearm (x : Ni) (i : Nat) : Ni :=
  { x with
    mcLands := aput x.mcLands i ⟨0, 0, false, 0⟩
    cmReqs := mapIf (fun q => q.use == .mcLand i) CmReq.forgetLanding x.cmReqs }

/-- What a core's access to a multicast landing does (R230). -/
def State.mcAccess (s : State) (c core i : Nat) (a : LandAccess) : State :=
  match a with
  | .rearm => s.writeAccess c core (.cqMcRearm c core i a) fun s => s.modNi c fun x => x.mcRearm i
  | .read => s.access c core (.cqMcRearm c core i a) fun s => s.respond c core ((s.ni c).mcRt i).word

/-- CQ_MC_REARM, or the read of CQ_MC_LAND (R230; log 50). -/
def execCqMcRearm (c core i : Nat) (a : LandAccess) (s : State) : Res :=
  onUnit (Instr.cqMcRearm c core i a).wf s (s.mcAccess c core i a)

/-! ## The fountain buffer (R224, R225) -/

/-- Are source-data reads of a packet still outstanding (R497)? -/
def Ni.readsWait (x : Ni) (id : Nat) : Bool := x.cmReqs.any fun r => r.use == .packet id

/-- Does a slot hold mesh bits? -/
def FountSlot.mesh (f : FountSlot) : Bool := f.mask &&& 15 != 0

/-- The slot serving injection: the oldest that holds mesh bits (R224). -/
def Ni.fountServer (x : Ni) : Option FountSlot := x.fountain.find? FountSlot.mesh

/-- Clear bits of one slot, free it when its mask is empty, and start the wait of the slot that now serves injection (R224, R225). -/
def Ni.fountClear (x : Ni) (id : Nat) (m : BitVec 5) (injected : Bool) (now : Nat) : Ni :=
  let before := (x.fountServer).map (·.id)
  let l := mapIf (fun f => f.id == id) (fun f => { f with mask := f.mask &&& ~~~m, since := if injected then now else f.since }) x.fountain
  let l := l.filter fun f => f.mask != 0
  let after := (l.find? FountSlot.mesh).map (·.id)
  { x with fountain :=
      if before = after then l else mapIf (fun f => some f.id == after) (fun f => { f with since := now }) l }

/-- Clear bits of a slot of cell c; a slot that becomes empty counts in freed (R332). -/
def State.fountClear (s : State) (c id : Nat) (m : BitVec 5) (injected : Bool) : State :=
  let n := (s.ni c).fountain.length
  let s := s.modNi c fun x => x.fountClear id m injected s.ncyc
  s.modCellRegs c fun r => r.addWrap NI_BAL_FOUNT_freed (n - (s.ni c).fountain.length)

/-- A packet read from an NI store: a word with an uncorrectable error leaves it with a crc that fails (R46, R296; log 26). -/
def readWith (p : Packet) (e : Ecc) : Packet := if e = .double then { p with crc := ~~~p.crcOf } else p

/-- An uncorrectable error met in an NI store counts (R296, R299). -/
def State.storeRead (s : State) (c store : Nat) (e : Ecc) : State := if e = .double then s.storeError c store true else s

/-- A packet of a fountain slot is delivered to the NI's own landing: steps 3 and 4 of R48, then R229. -/
def State.fountLand (s : State) (c : Nat) (p : Packet) : State :=
  if p.crc ≠ p.crcOf then s.bump c NI_RX_CHECK_crc_err
  else if !pktLegal p .request then s.bump c NI_RX_CHECK_malformed
  else s.mcLand c .request p

/-- FOUNTAIN_DELIVERY (R224, service 1): at most one delivery per ncyc, from the ncyc after the slot was filled (R195). -/
def execFountainDelivery (c : Nat) (e : Ecc) (s : State) : Res :=
  onUnit (Instr.fountainDelivery c e).wf s
    (if (s.ni c).hold ≠ .none ∨ (s.ni c).didNow dFount s.ncyc then s else
    match (s.ni c).fountain.find? fun f => f.mask.getLsbD 4 && !(s.ni c).readsWait f.id && decide (f.placed < s.ncyc) with
    | none => s
    | some f => (((s.modNi c fun x => x.note dFount s.ncyc).fountClear c f.id 16 false).storeRead c 6 e).fountLand c (readWith f.pkt e))

/-- FOUNTAIN_INJECT (R224, service 2): the serving slot's first free branch takes an echo-clear copy with age 0. -/
def execFountainInject (c : Nat) (e : Ecc) (s : State) : Res :=
  onUnit (Instr.fountainInject c e).wf s
    (let x := s.ni c
    if x.hold ≠ .none ∨ x.headReq.isSome ∨ !s.mayInject c .request then s else
    match x.fountServer with
    | none => s
    | some f =>
      if x.readsWait f.id || decide (s.ncyc ≤ f.placed) then s else
      match (s.rotOrder c).find? fun p => f.mask.getLsbD p && s.freeOut c .request p with
      | none => s
      | some p =>
        ((s.storeRead c 6 e).fountClear c f.id (BitVec.ofNat 5 (2 ^ p)) true).inject c .request p (s.stamped c (readWith f.pkt e) 0) 0)

/-- FOUNTAIN_PATIENCE_EXPIRE (R225): the serving slot that has waited fount_patience ncyc becomes one re-rooted copy. -/
def execFountainPatienceExpire (c : Nat) (s : State) : Res :=
  onUnit (Instr.fountainPatienceExpire c).wf s
    (let x := s.ni c
    if x.hold ≠ .none ∨ x.headReq.isSome ∨ !s.mayInject c .request then s else
    match x.fountServer with
    | none => s
    | some f =>
      if x.readsWait f.id || decide (s.ncyc ≤ f.placed) || decide (s.ncyc < f.since + s.cget c NI_FOUNT_CTL_fount_patience) ||
          (s.rotOrder c).any (fun p => f.mask.getLsbD p && s.freeOut c .request p) then s else
      match s.anyPort c .request with
      | none => s
      | some p =>
        ((s.fountClear c f.id f.mask true).bump c NI_FOUNT_STAT_forced).inject c .request p
          (s.stamped c (s.reroot c f.pkt f.mask) 1) 0)

end Sys2Proof.Machine
end

