-- ==== Sys2Proof/Machine/Channels.lean ====
section
/-! DEFINITION. Channels: the cached entries and their table in cluster memory (R131 to R136, R144), the receive side of messages
(R145 to R150), pool rings (R151, R152), and the answers that close tokens (R141, R142). -/

namespace Sys2Proof.Machine

/-! ## Channel entries (R131, R132) -/

/-- CLOSED, OPEN, QUIESCING and FAULTED (R132). -/
def chCLOSED : BitVec 2 := 0
/-- OPEN. -/
def chOPEN : BitVec 2 := 1
/-- QUIESCING. -/
def chQUIESCING : BitVec 2 := 2
/-- FAULTED. -/
def chFAULTED : BitVec 2 := 3

/-- The cluster address of a channel's entry (R131, R163). -/
def chanAddr (r : Regs) (ch : Nat) : Nat := r.get NI_CHAN_BASE_base * 2 ^ 18 + 64 * ch

/-- Bits of word i of an entry in memory. -/
def entryBits (m : Mem) (a i lo len : Nat) : Nat := bits (mreadLE m (a + 8 * i) 8) lo len

/-- The entry at an address, as R132 and R200 lay it out. -/
def ChanEntry.load (m : Mem) (a : Nat) : ChanEntry :=
  let f (i lo len : Nat) := entryBits m a i lo len
  { state := BitVec.ofNat 2 (f 0 0 2), privileged := f 0 2 1 != 0, peerChan := BitVec.ofNat 12 (f 0 4 12),
    peerChip := BitVec.ofNat 13 (f 0 16 13), peerCell := BitVec.ofNat 14 (f 0 29 14), rxQueue := BitVec.ofNat 6 (f 0 43 6),
    statusQueue := BitVec.ofNat 6 (f 0 49 6), peerQueue := BitVec.ofNat 6 (f 0 55 6), txSeq := BitVec.ofNat 8 (f 1 0 8),
    rxExpect := BitVec.ofNat 8 (f 1 8 8), nackRun := BitVec.ofNat 8 (f 1 16 8), stormLimit := BitVec.ofNat 8 (f 1 24 8),
    parterre := BitVec.ofNat 8 (f 1 32 8), weight := BitVec.ofNat 8 (f 1 40 8), peerPhys := BitVec.ofNat 14 (f 1 48 14),
    resolved := f 1 62 1 != 0, weirRate := BitVec.ofNat 16 (f 2 0 16), weirBurst := BitVec.ofNat 16 (f 2 16 16),
    tag := BitVec.ofNat 32 (f 2 32 32), credit := BitVec.ofNat 32 (f 3 0 32), finish := BitVec.ofNat 32 (f 3 32 32),
    upd := BitVec.ofNat 32 (f 4 0 32), mult := BitVec.ofNat 16 (f 4 32 16), cutSkip := BitVec.ofNat 8 (f 4 48 8) }

/-- Write the NI-owned fields of an entry back (R134, R136, R200). -/
def ChanEntry.writeBack (e : ChanEntry) (m : Mem) (a : Nat) : Mem :=
  let w := mreadLE m (a + 8) 8
  let w := setBits w 0 8 e.txSeq.toNat
  let w := setBits w 8 8 e.rxExpect.toNat
  let w := setBits w 16 8 e.nackRun.toNat
  let w := setBits w 48 14 e.peerPhys.toNat
  let w := setBits w 62 1 e.resolved.toNat
  let m := mwriteWord m (a + 8) (BitVec.ofNat 64 w)
  let m := mwriteWord m (a + 24) (e.finish ++ e.credit)
  let v := setBits (setBits (setBits (mreadLE m (a + 32) 8) 0 32 e.upd.toNat) 32 16 e.mult.toNat) 48 8 e.cutSkip.toNat
  mwriteWord m (a + 32) (BitVec.ofNat 64 v)

/-- Set the state field of an entry in memory. -/
def setEntryState (m : Mem) (a : Nat) (st : BitVec 2) : Mem :=
  mwriteWord m a (BitVec.ofNat 64 (setBits (mreadLE m a 8) 0 2 st.toNat))

/-- T[34:3] (R199). -/
def State.now32 (s : State) : W32 := BitVec.ofNat 32 s.now

/-- Bring a channel's weir credit up to date (R199). -/
def ChanEntry.accrue (e : ChanEntry) (now : W32) : ChanEntry :=
  { e with
    credit := BitVec.ofNat 32
      (weirCredit e.weirRate.toNat e.weirBurst.toNat e.mult.toNat e.credit.toNat (now - e.upd).toNat)
    upd := now }

/-! ## The cache (R136) -/

/-- The open tokens of a channel. -/
def Ni.chanTokens (x : Ni) (ch : Nat) : List (Nat × Token) :=
  x.tokens.filter fun e => e.2.isOpen &&
    match e.2.use with
    | .msg c _ _ => c == ch
    | .read .. => false

/-- Is a cached channel pinned (R136)? -/
def Ni.pinned (x : Ni) (ch : Nat) (k : Chan) : Bool :=
  k.e.state == chQUIESCING || !k.rx.held.isEmpty || k.rx.placed.isSome || !(x.chanTokens ch).isEmpty

/-- The least recently used unpinned channel. -/
def Ni.victim (x : Ni) : Option (Nat × Chan) :=
  (x.chans.filter fun e => !x.pinned e.1 e.2).foldl (fun a e =>
    match a with
    | none => some e
    | some b => if e.2.used < b.2.used then some e else a) none

/-- Entries the cache holds (R136). -/
def chanCacheSize : Nat := 64

/-- Drop a channel from the cache. -/
def State.uncache (s : State) (c ch : Nat) : State := s.modNi c fun x => { x with chans := adel x.chans ch }

/-- Write the NI-owned fields of a cached channel back to its entry; one held FAULTED has nothing to trust (R144). -/
def State.flushChan (s : State) (c ch : Nat) : State :=
  match aget (s.ni c).chans ch with
  | none => s
  | some k =>
    if (s.ni c).faulted.contains ch then s else
    s.modCell c fun x => { x with cm := (k.e.accrue s.now32).writeBack x.cm (chanAddr x.regs ch) }

/-- Make room in the cache; none while all 64 entries are pinned (R136). -/
def State.chanRoom (s : State) (c : Nat) : Option State :=
  let x := s.ni c
  if x.chans.length < chanCacheSize then some s
  else match x.victim with
    | none => none
    | some (ch, _) => some ((s.flushChan c ch).uncache c ch)

/-- A channel with nothing received. -/
def RxState.empty : RxState := ⟨[], [], none, none, false, none, false⟩

/-- Put a channel into the cache, as the most recently used. -/
def State.putChan (s : State) (c ch : Nat) (k : Chan) : State :=
  s.modNi c fun x => { x with chans := aput x.chans ch { k with used := x.nextId }, nextId := x.nextId + 1 }

/-- Note a use of a cached channel. -/
def State.touchChan (s : State) (c ch : Nat) : State :=
  s.modNi c fun x => { x.modChan ch fun k => { k with used := x.nextId } with nextId := x.nextId + 1 }

/-- A channel newly cached; an event that storm_limit has reached already does not rise again before an ACK (R160). -/
def Chan.fresh (e : ChanEntry) : Chan :=
  ⟨e, { RxState.empty with storm := e.stormLimit != 0 && decide (e.stormLimit.toNat ≤ e.nackRun.toNat) }, 0, false, false⟩

/-- The entry a fetch brings: CLOSED until a LOAD (R133, R315), FAULTED while the NI holds it so (R144). -/
def State.fetchedEntry (s : State) (c ch : Nat) : ChanEntry :=
  let x := s.cell c
  let e := ChanEntry.load x.cm (chanAddr x.regs ch)
  { e with state := if x.ni.faulted.contains ch then chFAULTED
                    else if x.ni.loaded.contains ch && e.state == chOPEN then chOPEN else chCLOSED }

/-- Add to a set kept as a list. -/
def addTo (l : List Nat) (k : Nat) : List Nat := if l.contains k then l else l ++ [k]

/-- Remove from a set kept as a list. -/
def removeFrom (l : List Nat) (k : Nat) : List Nat := l.filter fun i => i != k

/-- Message descriptors on a channel that closes or faults: packets without a token take none (R139). -/
def State.cutMsgDescs (s : State) (c ch : Nat) : State :=
  let ds := (s.ni c).descs.filter fun d => d.op == 3 && !d.done && d.chanTree.toNat == ch && decide (d.taken < d.n)
  s.forEach ds fun s d =>
    (s.modNi c fun x => x.modDesc d.id fun d => { d with n := d.taken, unsent := true }).checkMsg c d.id

/-- CLOSE a channel (R134): QUIESCING, complete at once. One that is not cached holds nothing, so its entry becomes CLOSED, or
FAULTED, at once. -/
def State.closeChan (s : State) (c ch : Nat) : State :=
  match aget (s.ni c).chans ch with
  | some _ => (s.modNi c fun x => x.modChan ch fun k => { k with e := { k.e with state := chQUIESCING } }).cutMsgDescs c ch
  | none =>
    let st := if (s.ni c).faulted.contains ch then chFAULTED else chCLOSED
    s.modCell c fun x => { x with
      cm := setEntryState x.cm (chanAddr x.regs ch) st
      ni := { x.ni with loaded := removeFrom x.ni.loaded ch, faulted := removeFrom x.ni.faulted ch } }

/-- A channel is set FAULTED (R144): its open tokens close by abandonment, its message descriptors take no more tokens. -/
def State.faultChan (s : State) (c ch : Nat) : State :=
  let s := s.modNi c fun x =>
    { x.modChan ch fun k => { k with e := { k.e with state := chFAULTED } } with faulted := addTo x.faulted ch }
  let s := s.cutMsgDescs c ch
  s.forEach ((s.ni c).chanTokens ch) fun s e => s.closeToken c e.1 .abandon 0 0

/-! ## Pool rings (R151, R152) -/

/-- The size S of a queue's ring in bytes, 0 for none (R164). -/
def Regs.ringSize (r : Regs) (q : Nat) : Nat := r.get (NI_Q_RING_size_4k.at q) * 4096
/-- The cluster address of a queue's ring. -/
def Regs.ringBase (r : Regs) (q : Nat) : Nat := r.get (NI_Q_RING_base.at q) * 4096

/-- A ring header (R151). -/
def ringHeader (kind ch size : Nat) : W64 := BitVec.ofNat 64 (0xA5C3 + kind * 2 ^ 16 + ch % 4096 * 2 ^ 20 + size * 2 ^ 32)

/-- Where R152 places n bytes in a ring of size S: the offset, and the skip marker written before it (offset and size). -/
def Queue.place (x : Queue) (S n : Nat) : Option (Nat × Option (Nat × Nat)) :=
  if S < n || x.u == S || x.ringFault then none
  else
    let P := if x.u = 0 then 0 else x.p
    let C := if x.u = 0 then 0 else x.c
    if C ≤ P then
      if n ≤ S - P then some (P, none)
      else if n ≤ C then some (0, some (P, S - P))
      else none
    else if n ≤ C - P then some (P, none)
    else none

/-- Place a message of L bytes of a channel in the ring of a queue (R152). -/
def State.ringPlace (s : State) (c q ch L : Nat) : State × Option Nat :=
  let S := (s.cell c).regs.ringSize q
  let n := (8 + L + 63) / 64 * 64
  let x := (s.ni c).queue q
  match x.place S n with
  | none => (s, none)
  | some (off, skip) =>
    let base := (s.cell c).regs.ringBase q
    let marker (m : Mem) : Mem := match skip with
      | none => m
      | some (a, z) => mwriteWord m (base + a) (ringHeader 1 0 z)
    let more := match skip with
      | none => 0
      | some (_, z) => z
    (s.modCell c fun y => { y with
      cm := mwriteWord (marker y.cm) (base + off) (ringHeader 0 ch n)
      ni := y.ni.modQueue q fun k =>
        { k with p := (off + n) % S, c := if k.u = 0 then 0 else k.c, u := k.u + n + more } }, some off)

/-- Write bytes at an offset of a queue's ring. -/
def State.ringWrite (s : State) (c q off : Nat) (bs : List Byte) : State :=
  s.modCell c fun x => { x with cm := mwriteList x.cm (x.regs.ringBase q + off) bs }

/-! ## Receiving (R145 to R150) -/

/-- Reorder slots of an NI (R146). -/
def robSize : Nat := 512
/-- Packets a channel may hold (R146). -/
def robPerChan : Nat := 64

/-- Has the reorder pool a free slot? -/
def Ni.robFree (x : Ni) : Bool := decide (x.robHeld < robSize)

/-- Count a reorder slot taken (R331). -/
def State.takeSlot (s : State) (c : Nat) : State := s.modCellRegs c fun r => r.addWrap NI_BAL_ROB_taken 1
/-- Count a reorder slot freed (R331). -/
def State.freeSlotRob (s : State) (c : Nat) : State := s.modCellRegs c fun r => r.addWrap NI_BAL_ROB_freed 1

/-- The six words that at most 48 bytes spell; bytes beyond them read as zero (R147, R155). -/
def wordsOf (bs : List Byte) : List W64 := (List.range 6).map fun i => BitVec.ofNat 64 (leNat ((bs.drop (8 * i)).take 8))

/-- Change the receive state of a cached channel. -/
def State.modRx (s : State) (c ch : Nat) (f : RxState → RxState) : State :=
  s.modNi c fun x => x.modChan ch fun k => { k with rx := f k.rx }

/-- Accept a message packet: ACK (R54), and its tag (R469). -/
def State.ackMsg (s : State) (c : Nat) (k : Chan) (p : Packet) : State := (s.answer c (ackFor p k.e.peerChan)).tagRx c k.e.tag

/-- Make the reserved entry of a placed message visible. -/
def State.pushReserved (s : State) (c q : Nat) (e : QEntry) : State :=
  (s.modNi c fun x => x.modQueue q fun k => { k with reserved := k.reserved - 1 }).visible c q e

/-- The fields every entry of a channel's message shares (R155). -/
def Chan.entry (k : Chan) (ch now : Nat) (seq : BitVec 8) (handler : BitVec 12) : QEntry :=
  { QEntry.blank with channel := BitVec.ofNat 12 ch, handler := handler, seq := seq, xtra := xtraWord k.e.peer now }

/-- A TUPLE or ACTIVE entry of a message kept in its entry (R147, R155). -/
def Chan.tupleEntry (k : Chan) (ch now : Nat) (seq : BitVec 8) (handler : BitVec 12) (bs : List Byte) (len : Nat) : QEntry :=
  { k.entry ch now seq handler with
    kind := if handler = 0 then 1 else 2, nwords := BitVec.ofNat 3 ((bs.length + 7) / 8), msgLen := BitVec.ofNat 6 len,
    words := wordsOf bs }

/-- A RING or RING_FAILED entry (R148, R155). -/
def Chan.ringEntry (k : Chan) (ch now : Nat) (m : Placed) (kind : BitVec 4) (bytes : Nat) : QEntry :=
  { k.entry ch now m.head m.handler with
    kind := kind
    words := sixWords [match m.ringOff with
        | some o => BitVec.ofNat 64 o
        | none => BitVec.allOnes 64, BitVec.ofNat 64 bytes, k.e.tag.setWidth 64] }

/-- The placed message of a channel fails (R148). -/
def State.failMsg (s : State) (c ch : Nat) : State :=
  match aget (s.ni c).chans ch with
  | none => s
  | some k =>
    match k.rx.placed with
    | none => s
    | some m => (s.modRx c ch fun r => { r with placed := none }).pushReserved c m.queue (k.ringEntry ch s.now m 4 m.written)

/-- Advance e by one (R147): the position in the placed or refused message advances with it, and the gap timer restarts (R150). -/
def State.advanceE (s : State) (c ch : Nat) : State :=
  s.modNi c fun x => x.modChan ch fun k => { k with
    e := { k.e with rxExpect := k.e.rxExpect + 1 }
    rx := { k.rx with
      placed := k.rx.placed.map fun m => { m with next := m.next + 1 }
      refused := match k.rx.refused with
        | some (n, r) => if n ≤ 1 then none else some (n - 1, r)
        | none => none
      gap := none } }

/-- Do the last bit and the length of body k of a message fit its end and remainder (R147, R149)? -/
def Placed.fits (m : Placed) (k : Nat) (p : Packet) : Bool :=
  let isEnd := k == m.packets - 1
  (p.last == 1) == isEnd && p.length.toNat == if isEnd then m.total - 40 - 48 * (k - 1) else 48

/-- Write body k of the placed message; the last write makes the message visible (R147, R149). -/
def State.writeBody (s : State) (c ch k : Nat) (p : Packet) : State :=
  match aget (s.ni c).chans ch with
  | none => s
  | some x =>
    match x.rx.placed with
    | none => s
    | some m =>
      let bs := p.plBytes.take p.length.toNat
      let s := match m.ringOff with
        | some o => s.ringWrite c m.queue (o + 48 * k) bs
        | none => s
      let m' := { m with wrote := m.wrote + 1, written := m.written + bs.length }
      if m.packets ≤ m'.wrote then
        let s := s.modRx c ch fun r => { r with placed := none }
        s.pushReserved c m.queue (match m.ringOff with
          | some _ => x.ringEntry ch s.now m 3 m.total
          | none => x.tupleEntry ch s.now m.head m.handler (m.data ++ bs) m.total)
      else s.modRx c ch fun r => { r with placed := some m' }

/-- Process a MSG with no message in progress (R52, R147). -/
def State.procMsg (s : State) (c ch : Nat) (k : Chan) (p : Packet) : State :=
  let n := p.length.toNat / 8
  let h : BitVec 12 := if p.length.toNat % 8 = 0 then 0 else BitVec.ofNat 12 (p.pl (8 * n) 2)
  let q := k.e.rxQueue.toNat
  if (s.cell c).canTake q then
    (s.pushEntry c q (k.tupleEntry ch s.now (p.seq.setWidth 8) h (p.plBytes.take (8 * n)) 0)).ackMsg c k p
  else s.nack c p rQUEUEFULL q

/-- Process a MSG_HEAD with no message in progress (R53, R147). -/
def State.procHead (s : State) (c ch : Nat) (k : Chan) (p : Packet) : State :=
  let L := p.pl 0 3
  let h : BitVec 12 := BitVec.ofNat 12 (p.pl 4 2)
  let q := k.e.rxQueue.toNat
  let data := p.plBytes.drop 8
  let n := 1 + (L - 40 + 47) / 48
  let refuse (s : State) (reason detail : Nat) : State :=
    (s.modRx c ch fun r => { r with refused := if L ≤ 40 then none else some (n, BitVec.ofNat 4 reason) }).nack c p reason detail
  if (p.last == 1) != decide (L ≤ 40) then s.nack c p rMALFORMED 5
  else if !(s.cell c).canTake q then refuse s rQUEUEFULL q
  else if L ≤ 40 then (s.pushEntry c q (k.tupleEntry ch s.now (p.seq.setWidth 8) h (data.take L) L)).ackMsg c k p
  else
    let placed (s : State) (off : Option Nat) : State :=
      let s := (s.takeEntry c).modNi c fun x => x.modQueue q fun z => { z with reserved := z.reserved + 1 }
      (s.modRx c ch fun r => { r with placed := some ⟨p.seq.setWidth 8, L, n, 0, 1, 40, q, h, off, data⟩ }).ackMsg c k p
    if L ≤ 48 then placed s none
    else
      let r := s.ringPlace c q ch L
      match r.2 with
      | none => refuse s rNOSPACE L
      | some off => placed (r.1.ringWrite c q (off + 8) data) (some off)

/-- Process a MSG_BODY at d = 0 (R147). -/
def State.procBody (s : State) (c ch : Nat) (k : Chan) (p : Packet) : State :=
  match k.rx.placed with
  | some m =>
    if m.fits m.next p then (s.writeBody c ch m.next p).ackMsg c k p
    else (s.failMsg c ch).nack c p rMALFORMED 5
  | none =>
    match k.rx.refused with
    | some (_, r) => (s.modRx c ch fun x => { x with skipped := x.skipped && p.last == 0 }).nack c p r.toNat 0
    | none =>
      if k.rx.skipped then (s.modRx c ch fun r => { r with skipped := p.last == 0 }).nack c p rNOSPACE 0
      else s.nack c p rMALFORMED 5

/-- Process the packet at d = 0 (R147); e advances by one. -/
def State.process (s : State) (c ch : Nat) (p : Packet) : State :=
  match aget (s.ni c).chans ch with
  | none => s
  | some k =>
    let s :=
      if p.type = tMSG_BODY then s.procBody c ch k p
      else if k.rx.placed.isSome then (s.failMsg c ch).nack c p rMALFORMED 5
      else
        let s := s.modRx c ch fun r => { r with refused := none, skipped := false }
        if p.type = tMSG then s.procMsg c ch k p else s.procHead c ch k p
    s.advanceE c ch

/-- Advance e past what was written directly, and process what is held at d = 0 while the answer queue has room (R146, R147, R70). -/
def State.drain (s : State) (c ch fuel : Nat) : State :=
  match fuel with
  | 0 => s
  | n + 1 =>
    match aget (s.ni c).chans ch with
    | none => s
    | some k =>
      match k.rx.arrival.find? fun a => a.1 == k.e.rxExpect with
      | some a =>
        let s := s.modRx c ch fun r =>
          { r with arrival := r.arrival.filter fun b => b.1 != a.1, skipped := r.skipped && !a.2 }
        (s.advanceE c ch).drain c ch n
      | none =>
        match k.rx.held.find? fun p => p.seq.setWidth 8 == k.e.rxExpect with
        | some p =>
          if s.answerFree c then
            let s := (s.modRx c ch fun r => { r with held := dropFirst (fun b => b == p) r.held }).freeSlotRob c
            (s.process c ch p).drain c ch n
          else s
        | none => s

/-- Start, keep or stop the gap timer (R150); it does not run while the packet at e waits only for the answer queue (R70). -/
def State.armGap (s : State) (c ch : Nat) : State :=
  let t := s.cget c NI_RX_CTL_gap_us
  s.modNi c fun x => x.modChan ch fun k =>
    let due := k.rx.held.any fun p => p.seq.setWidth 8 == k.e.rxExpect
    let runs := (!k.rx.held.isEmpty || !k.rx.arrival.isEmpty || k.rx.placed.isSome) && !due
    { k with rx := { k.rx with gap := if !runs then none else if k.rx.gap.isSome then k.rx.gap else some (s.now, t) } }

/-- Everything due at a channel after a packet or a skip. -/
def State.settleRx (s : State) (c ch : Nat) : State := (s.drain c ch 256).armGap c ch

/-- The checks of R145 and the sequence window of R146 on a packet of a cached channel. -/
def State.arriveMsg (s : State) (c ch : Nat) (p : Packet) : State :=
  match aget (s.ni c).chans ch with
  | none => s
  | some k =>
    let e := k.e
    let from_ := if e.resolved then e.peerPhys else e.peerCell
    if e.state ≠ chOPEN then s.nack c p rCLOSED e.state.toNat
    else if p.srcChip ≠ e.peerChip ∨ p.srcCell ≠ from_ then s.nack c p rCLOSED 256
    else if p.parterre ≠ e.parterre then s.nack c p rCLOSED 512
    else
      let s := s.touchChan c ch
      let sq : BitVec 8 := p.seq.setWidth 8
      let d := (sq - e.rxExpect).toNat
      let full (s : State) := s.nack c p rREORDER k.rx.held.length
      if d = 0 then (s.process c ch p).settleRx c ch
      else if 128 ≤ d then s.bump c NI_MSG_STAT_dup_discard
      else if 64 ≤ d then full s
      else if k.rx.held.any (fun b => b.seq.setWidth 8 == sq) || k.rx.arrival.any (fun a => a.1 == sq) then
        s.bump c NI_MSG_STAT_dup_discard
      else
        let early := if p.type = tMSG_BODY then
            (match k.rx.placed with
              | some m => if m.ringOff.isSome && decide (m.next + d ≤ m.packets - 1) then some m else none
              | none => none)
          else none
        match early with
        | some m =>
          if m.fits (m.next + d) p then
            let s := s.modRx c ch fun r => { r with arrival := r.arrival ++ [(sq, p.last == 1)] }
            ((s.writeBody c ch (m.next + d) p).ackMsg c k p).armGap c ch
          else ((s.failMsg c ch).nack c p rMALFORMED 5).armGap c ch
        | none =>
          if (s.ni c).robFree && decide (k.rx.held.length < robPerChan) then
            ((s.modRx c ch fun r => { r with held := r.held ++ [p] }).takeSlot c).armGap c ch
          else full s

/-- Packets that wait in reorder slots for the fetch of a channel's entry. -/
def Ni.fetchHeld (x : Ni) (ch : Nat) : Nat := ((x.fetches.filter fun f => f.ch == ch).map (·.hold.length)).sum

/-- Is a fetch of a channel's entry under way? -/
def Ni.fetching (x : Ni) (ch : Nat) : Bool := x.fetches.any fun f => f.ch == ch && f.load.isNone

/-- Begin a fetch of a channel's entry, with a packet to hold (R136). -/
def Ni.fetch (x : Ni) (ch : Nat) (hold : List Packet) : Ni :=
  if x.fetching ch then
    { x with fetches := mapIf (fun f => f.ch == ch && f.load.isNone) (fun f => { f with hold := f.hold ++ hold }) x.fetches }
  else { x with fetches := x.fetches ++ [⟨ch, none, hold⟩] }

/-- Step 5 of R48 for a message packet (R136, R145). -/
def State.ejectMsg (s : State) (c : Nat) (p : Packet) : State :=
  let ch := p.chanTree.toNat
  if (aget (s.ni c).chans ch).isSome then s.arriveMsg c ch p
  else if (s.ni c).robFree then (s.modNi c fun x => x.fetch ch [p]).takeSlot c
  else s.nack c p rREORDER ((s.ni c).fetchHeld ch)

/-- MSG_EJECT. -/
def execMsgEject (c : Nat) (s : State) : Res :=
  onUnit (Instr.msgEject c).wf s (s.ejectType c tMSG fun _ p s => s.ejectMsg c p)

/-- MSG_HEAD_EJECT. -/
def execMsgHeadEject (c : Nat) (s : State) : Res :=
  onUnit (Instr.msgHeadEject c).wf s (s.ejectType c tMSG_HEAD fun _ p s => s.ejectMsg c p)

/-- MSG_BODY_EJECT. -/
def execMsgBodyEject (c : Nat) (s : State) : Res :=
  onUnit (Instr.msgBodyEject c).wf s (s.ejectType c tMSG_BODY fun _ p s => s.ejectMsg c p)

/-- Process packets that waited for a fetch, in order, while the answer queue has room (R136, R70). -/
def State.releaseHeld (s : State) (c ch fuel : Nat) : State :=
  match fuel with
  | 0 => s
  | n + 1 =>
    match (s.ni c).fetches.find? fun f => f.ch == ch && f.load.isNone with
    | none => s
    | some f =>
      match f.hold with
      | [] => s.modNi c fun x => { x with fetches := dropFirst (fun f => f.ch == ch && f.load.isNone) x.fetches }
      | p :: r =>
        if s.answerFree c then
          let s := (s.modNi c fun x => { x with
            fetches := mapIf (fun f => f.ch == ch && f.load.isNone) (fun f => { f with hold := r }) x.fetches }).freeSlotRob c
          (s.arriveMsg c ch p).releaseHeld c ch n
        else s

/-- HELD_PACKET_ANSWER (R70): packets that wait for the answer queue go on. -/
def execHeldPacketAnswer (c ch : Nat) (s : State) : Res :=
  onUnit (Instr.heldPacketAnswer c ch).wf s
    (if (s.ni c).hold ≠ .none ∨ (aget (s.ni c).chans ch).isNone then s
     else (s.releaseHeld c ch (robSize + 1)).settleRx c ch)

/-- GAP_TIMEOUT (R150): skip to the lowest held or written number, or past the placed message. -/
def execGapTimeout (c ch : Nat) (s : State) : Res :=
  onUnit (Instr.gapTimeout c ch).wf s
    (match aget (s.ni c).chans ch with
    | none => s
    | some k =>
      match k.rx.gap with
      | none => s
      | some (t0, t) =>
        if !expired s.now t0 t then s else
        let off (q : BitVec 8) := (q - k.e.rxExpect).toNat
        let ahead := (k.rx.held.map fun p => off (p.seq.setWidth 8)) ++ k.rx.arrival.map fun a => off a.1
        let d := match ahead with
          | a :: r => r.foldl min a
          | [] => match k.rx.placed with
            | some m => m.packets - m.next
            | none => 0
        let s := s.failMsg c ch
        let s := (s.forEach (List.range d) fun s _ => s.advanceE c ch).modCellRegs c fun r => r.add NI_MSG_STAT_skipped d
        (s.modRx c ch fun r => { r with skipped := true, gap := none }).settleRx c ch)

/-! ## Fetches, faults and the end of a CLOSE -/

/-- The codes of CQ_SYNC's ops (R134): LOAD, CLOSE, FLUSH, reserved. -/
def opLOAD : BitVec 2 := 0
/-- CLOSE. -/
def opCLOSE : BitVec 2 := 1
/-- FLUSH. -/
def opFLUSH : BitVec 2 := 2
/-- Reserved. -/
def opBAD : BitVec 2 := 3

/-- The result of a sync operation stands in CQ_SYNC_RES (R134). -/
def State.syncResult (s : State) (c core : Nat) (res : BitVec 4) : State :=
  s.modNi c fun x => x.modCore core fun e => { e with syncRes := res }

/-- Perform a core's waiting sync operations in the order of its writes, up to a LOAD, which waits for its fetch; when none is left the
read that waits for the last one's result returns (R134). -/
def State.syncRun (s : State) (c core fuel : Nat) : State :=
  let k := (s.ni c).core core
  match fuel, k.syncQ with
  | 0, _ => s
  | _, [] =>
    let s := s.modNi c fun x => x.modCore core fun e => { e with syncBusy := false }
    match k.stall with
    | some (.syncRes, _) => (s.modNi c fun x => x.unstall core).respond c core (k.syncRes.setWidth 64)
    | _ => s
  | n + 1, (op, ch) :: r =>
    let s := s.modNi c fun x => x.modCore core fun e => { e with syncQ := r }
    if op = opLOAD then s.modNi c fun x => { x with fetches := x.fetches ++ [⟨ch, some core, []⟩] }
    else if op = opCLOSE then ((s.closeChan c ch).syncResult c core 0).syncRun c core n
    else if op = opFLUSH then ((s.flushChan c ch).syncResult c core 0).syncRun c core n
    else (s.syncResult c core 7).syncRun c core n

/-- A core's LOAD completes with a result, and the operations written behind it are performed (R134). -/
def State.syncDone (s : State) (c core : Nat) (res : BitVec 4) : State :=
  (s.syncResult c core res).syncRun c core (((s.ni c).core core).syncQ.length + 1)

/-- A CQ_SYNC write: the operation is performed, behind a LOAD of the same core that still waits (R134). -/
def State.syncWrite (s : State) (c core ch : Nat) (op : BitVec 2) : State :=
  let waits := (s.ni c).fetches.any fun f => f.load == some core
  let s := s.modNi c fun x => x.modCore core fun e => { e with syncBusy := true, syncCh := ch, syncQ := e.syncQ ++ [(op, ch)] }
  if waits then s else s.syncRun c core (((s.ni c).core core).syncQ.length + 1)

/-- The first failing check of a LOAD (R135), 0 when all pass. -/
def State.loadCheck (s : State) (c ch : Nat) (e : ChanEntry) (peer : PeerIs) : BitVec 4 :=
  let x := s.cell c
  let noQueue (q : BitVec 6) := x.regs.get (NI_Q_CFG_q_max.at q.toNat) == 0
  let changed := match aget x.ni.chans ch with
    | some k => k.e.state != chCLOSED && (k.e.peerChan != e.peerChan || k.e.peerChip != e.peerChip || k.e.peerCell != e.peerCell)
    | none => false
  if e.state = chQUIESCING ∨ e.state = chFAULTED then 1
  else if peer = .invalid ∨ peer = .vacant then 2
  else if noQueue e.rxQueue || noQueue e.statusQueue then 3
  else if e.parterre ≠ x.owner then 4
  else if changed && !(x.ni.chanTokens ch).isEmpty then 5
  else if x.ni.faulted.contains ch then 6
  else 0

/-- The resolution a LOAD leaves in an entry (R133). -/
def ChanEntry.resolveTo (e : ChanEntry) (peer : PeerIs) : ChanEntry :=
  match peer with
  | .local_ p => { e with peerPhys := BitVec.ofNat 14 p, resolved := true }
  | _ => { e with resolved := false }

/-- An entry as a LOAD opens it (R133, R200). -/
def ChanEntry.opened (e : ChanEntry) (peer : PeerIs) (now : W32) : ChanEntry :=
  { e.resolveTo peer with
    txSeq := 0, rxExpect := 0, nackRun := 0, credit := BitVec.ofNat 32 (burstCredit e.weirBurst.toNat), finish := 0, upd := now,
    mult := 65535, cutSkip := 0 }

/-- An entry k as a LOAD refreshes it from e (R133, R206). The entry is OPEN in memory and its cached channel not CLOSED; for one that a CLOSE
has set QUIESCING R134 does not say what the LOAD does, and it opens the channel again (log 51). -/
def ChanEntry.refreshed (k e : ChanEntry) (peer : PeerIs) (now : W32) : ChanEntry :=
  let a := k.accrue now
  let credit := if k.privileged && !e.privileged then burstCredit e.weirBurst.toNat
    else min a.credit.toNat (burstCredit e.weirBurst.toNat)
  let y := { e with
    state := chOPEN, txSeq := k.txSeq, rxExpect := k.rxExpect, nackRun := k.nackRun, peerPhys := k.peerPhys,
    resolved := k.resolved, credit := BitVec.ofNat 32 credit, finish := k.finish, upd := now, mult := k.mult, cutSkip := k.cutSkip }
  if k.peerChip ≠ e.peerChip ∨ k.peerCell ≠ e.peerCell then y.resolveTo peer else y

/-- The entry of a channel that is OPEN and not in the cache, as a LOAD refreshes it: what the NI wrote back is kept, and the peer is resolved
where it is not the one of the last LOAD (R133). -/
def ChanEntry.reloaded (e : ChanEntry) (old : Option (BitVec 27)) (peer : PeerIs) : ChanEntry :=
  { (if old = some e.peer then e else e.resolveTo peer) with state := chOPEN }

/-- A LOAD whose entry has been read (R133 to R136): validated, then closed where its state is CLOSED, else opened or refreshed; none while all
64 entries are pinned. -/
def State.load (s : State) (c core ch : Nat) : Option State :=
  let e := ChanEntry.load (s.cell c).cm (chanAddr (s.cell c).regs ch)
  let r := s.peerIs c e.peerChip.toNat e.peerCell.toNat
  let code := r.1.loadCheck c ch e r.2
  if code ≠ 0 then some (r.1.syncDone c core code)
  else if e.state = chCLOSED then some ((r.1.closeChan c ch).syncDone c core 0)
  else
      let s := r.1
      let live := match aget (s.ni c).chans ch with
        | some k => if k.e.state = chCLOSED then none else some k
        | none => none
      let done (s : State) : State :=
        (s.modNi c fun x => { x with loaded := addTo x.loaded ch, peers := aput x.peers ch e.peer }).syncDone c core 0
      match live with
      | some k => some (done (s.putChan c ch { k with e := k.e.refreshed e r.2 s.now32 }))
      | none =>
        let y := if (s.ni c).loaded.contains ch then e.reloaded (aget (s.ni c).peers ch) r.2 else e.opened r.2 s.now32
        match if (aget (s.ni c).chans ch).isSome then some s else s.chanRoom c with
        | some s => some (done (s.putChan c ch (Chan.fresh y)))
        | none => none

/-- The fetch of a channel's entry that is under way: a LOAD's, or one for a channel not cached. -/
def Ni.fetchOf (x : Ni) (ch : Nat) : Option Fetch :=
  x.fetches.find? fun f => f.ch == ch && (f.load.isSome || (aget x.chans ch).isNone)

/-- CHANNEL_FETCH_DONE (R134 to R136, R498). -/
def execChannelFetchDone (c ch : Nat) (err : Bool) (s : State) : Res :=
  onUnit (Instr.channelFetchDone c ch err).wf s
    (match (s.ni c).fetchOf ch with
    | none => s
    | some f =>
      let s := if err then (s.faultChan c ch).storeError c 4 true else s
      match f.load with
      | some core =>
        let drop (s : State) := s.modNi c fun x => { x with fetches := dropFirst (fun g => g == f) x.fetches }
        if err then (drop s).syncDone c core 6
        else match (drop s).load c core ch with
          | some s => s
          | none => s
      | none =>
        match s.chanRoom c with
        | none => s
        | some s => ((s.putChan c ch (Chan.fresh (s.fetchedEntry c ch))).releaseHeld c ch (robSize + 1)).settleRx c ch)

/-- CHANNEL_CACHE_ECC_ERROR (R144). -/
def execChannelCacheEccError (c ch : Nat) (reorder : Bool) (s : State) : Res :=
  onUnit (Instr.channelCacheEccError c ch reorder).wf s
    (if (aget (s.ni c).chans ch).isNone then s
     else (s.faultChan c ch).storeError c (if reorder then 1 else 4) true)

/-- CHANNEL_CLOSE_COMPLETE (R134, R144): a QUIESCING channel that holds nothing is CLOSED and written back; one that was FAULTED writes
word 0 only, with state FAULTED. -/
def execChannelCloseComplete (c ch : Nat) (s : State) : Res :=
  onUnit (Instr.channelCloseComplete c ch).wf s
    (let x := s.ni c
    match aget x.chans ch with
    | none => s
    | some k =>
      if k.e.state ≠ chQUIESCING || !(x.chanTokens ch).isEmpty || !k.rx.held.isEmpty || k.rx.placed.isSome ||
          decide (0 < x.fetchHeld ch) then s
      else
        let faulted := x.faulted.contains ch
        let s := s.flushChan c ch
        (s.modCell c fun y => { y with
          cm := setEntryState y.cm (chanAddr y.regs ch) (if faulted then chFAULTED else chCLOSED)
          ni := { y.ni with loaded := removeFrom y.ni.loaded ch, faulted := removeFrom y.ni.faulted ch } }).uncache c ch)

/-! ## Answers (R141, R142, R205) -/

/-- An ACK acts on its channel's m (R205). -/
def State.ackMult (s : State) (c ch : Nat) (echo : Bool) : State :=
  let r := (s.cell c).regs
  match aget (s.ni c).chans ch with
  | none => s
  | some k =>
    if k.e.privileged || !r.flag NI_CC_CTL_cc_en then s else
    let a := ccAnswer r k.e.mult.toNat k.e.cutSkip.toNat echo
    let s := s.modNi c fun x => x.modChan ch fun k =>
      { k with e := { k.e with mult := BitVec.ofNat 16 a.1, cutSkip := BitVec.ofNat 8 a.2.1 } }
    if a.2.2 then s.bump c NI_SHAPE_STAT_cuts else s

/-- Count an answer that came back with echo set (R205, R212). -/
def State.countEcho (s : State) (c : Nat) (p : Packet) : State := if p.echo = 1 then s.bump c NI_SHAPE_STAT_echoes else s

/-- ACK_EJECT (R142). -/
def execAckEject (c : Nat) (s : State) : Res :=
  onUnit (Instr.ackEject c).wf s (s.ejectType c tACK fun _ p s =>
    let s := s.countEcho c p
    match (s.ni c).ackToken p.chanTree.toNat (p.seq.toNat % 256) with
    | none => s.bump c NI_TOK_STAT_stale_reply
    | some (t, tk) =>
      if tk.gen.toNat ≠ p.seq.toNat / 256 then s.bump c NI_TOK_STAT_stale_reply
      else ((s.tagRx c (s.rxTag c p)).ackMult c p.chanTree.toNat (p.echo == 1)).closeToken c t .ack 0 0)

/-- Is a NACK reason reserved (R50)? -/
def reservedReason (r : Nat) : Bool := r == 0 || decide (10 < r)

/-- Take a descriptor's packet that waits as the request head back: the descriptor injects nothing further (R180). -/
def Ni.dropHead (x : Ni) (id : Nat) : Ni :=
  match x.headReq with
  | some h => if h.src == .desc id then { x with headReq := none } else x
  | none => x

/-- A NACK about bulk granules (R182): a WRITE tracker, else the request granule of a read token; else it is discarded. -/
def State.bulkNack (s : State) (c : Nat) (p : Packet) : State :=
  let src := (p.srcChip, p.srcCell)
  let reason := p.pl 0 1 % 16
  let ot := p.pl 1 1 % 16
  match (if ot = 4 then (s.ni c).tracker src p.granule p.granule p.cls.toNat else none) with
  | some d =>
    let s := (s.tagRx c d.tag).modNi c fun x => x.modDesc d.id fun d =>
      { (d.failWith stNACKED reason) with nacked := d.nacked + 1, stop := d.stop || reason == rWINDOW }
    let s := if reason = rWINDOW then s.modNi c fun x => x.dropHead d.id else s
    (s.rearmTracker c d.id).checkWrite c d.id
  | none =>
    match (if ot = 5 then (s.ni c).reqToken src p.granule else none) with
    | some (t, _) => (s.tagRx c (s.rxTag c p)).closeToken c t .nack reason (p.pl 4 4)
    | none => s.bump c NI_BULK_STAT_stray_reply

/-- NACK_EJECT (R50, R142, R182). -/
def execNackEject (c : Nat) (s : State) : Res :=
  onUnit (Instr.nackEject c).wf s (s.ejectType c tNACK fun _ p s =>
    let reason := p.pl 0 1 % 16
    let s := if reservedReason reason then s.bump c NI_TOK_STAT_bad_reason else s
    if p.cls = 2 then
      match (s.ni c).nackToken p.chanTree.toNat (p.seq.toNat % 256) with
      | none => s.bump c NI_TOK_STAT_stale_reply
      | some (t, tk) =>
        if tk.gen.toNat ≠ p.seq.toNat / 256 then s.bump c NI_TOK_STAT_stale_reply
        else (s.tagRx c (s.rxTag c p)).closeToken c t .nack reason (p.pl 4 4)
    else s.bulkNack c p)

/-! ## Token timers (R141) -/

/-- RETRANSMIT_TIMEOUT: an INFLIGHT message token is RESENT; its copy waits for re-injection ahead of its channel's packets. `e` is what the read
of the copy shows (R299). -/
def execRetransmitTimeout (c t : Nat) (e : Ecc) (s : State) : Res :=
  onUnit (Instr.retransmitTimeout c t e).wf s
    (match aget (s.ni c).tokens t with
    | none => s
    | some k =>
      match k.use with
      | .read .. => s
      | .msg .. =>
        if k.st ≠ .inflight || k.retx == 0 || !expired s.now k.start k.retx then s
        else (s.modNi c fun x => { x with tokens := aput x.tokens t { k with st := .resent, again := true, pkt := readWith k.pkt e } }).storeRead c 2 e)

/-- ABANDON_TIMEOUT: an INFLIGHT or RESENT token closes by abandonment (R141, R178). -/
def execAbandonTimeout (c t : Nat) (s : State) : Res :=
  onUnit (Instr.abandonTimeout c t).wf s
    (match aget (s.ni c).tokens t with
    | none => s
    | some k =>
      if !(k.st == .inflight || k.st == .resent) || !expired s.now k.start k.abandon then s
      else (s.closeToken c t .abandon 0 0).bump c NI_TOK_STAT_abandoned)

/-- TOKEN_STATE_ECC_ERROR (R141): the token closes with ecc_err set and its entry is withdrawn until NI reset. -/
def execTokenStateEccError (c t : Nat) (s : State) : Res :=
  onUnit (Instr.tokenStateEccError c t).wf s
    (match aget (s.ni c).tokens t with
    | none => s
    | some k => if k.isOpen then (s.closeToken c t .ecc 0 0).storeError c 3 true else s)

/-! ## Queue timers and strobes (R158, R159) -/

/-- STALE_TAIL_TIMEOUT (R159): once for each interval. -/
def execStaleTailTimeout (c q : Nat) (s : State) : Res :=
  onUnit (Instr.staleTailTimeout c q).wf s
    (let k := (s.ni c).queue q
    match k.since with
    | none => s
    | some (t0, t) =>
      if k.ents.isEmpty || !expired s.now t0 t then s
      else (s.modNi c fun x => x.modQueue q fun k => { k with stale := true, since := none }).emit (.queueNotify c q))

/-- DISPATCH_FIFO_ISSUE (R158): the oldest held strobe is raised, at most one strobe per ncyc. -/
def execDispatchFifoIssue (c : Nat) (s : State) : Res :=
  onUnit (Instr.dispatchFifoIssue c).wf s
    (match (s.ni c).dispatch with
    | [] => s
    | (h, q) :: r =>
      if (s.ni c).didNow dDispatch s.ncyc then s
      else (s.modNi c fun x => { x with dispatch := r }.note dDispatch s.ncyc).emit (.dispatch c h q))

end Sys2Proof.Machine
end

