-- ==== Sys2Proof/Machine/CoreWindow.lean ====
section
/-! DEFINITION. The core-visible window (R156): queue reads, pops and ring releases (R153, R157), sends (R137 to R139), channel
sync (R134, R135) and producer indices (R172). -/

namespace Sys2Proof.Machine

/-! ## Queues (R153, R157) -/

/-- A read of the head entry of a queue meets an error in its pool words (R154, R157): a single-bit error is corrected and counted, an
uncorrectable one sets ecc_err and counts as a store error (R299). -/
def State.headError (s : State) (c q : Nat) (e : Ecc) : State :=
  match ((s.ni c).queue q).ents with
  | [] => s
  | h :: r =>
    match e with
    | .none => s
    | .single => s.bump c NI_MSG_STAT_q_corr
    | .double => (s.modNi c fun x => x.modQueue q fun k => { k with ents := { h with eccErr := true } :: r }).storeError c 0 true

/-- The word of CQ_STATUS(q) (R156). -/
def Queue.statusWord (k : Queue) : W64 :=
  BitVec.ofNat 64 (k.ents.length + k.reserved * 2 ^ 11 + k.stale.toNat * 2 ^ 22 + k.ringFault.toNat * 2 ^ 23 + k.u / 64 * 2 ^ 24)

/-- What a read of a location of the head entry returns: zero when the queue is empty (R157). -/
def Queue.headWord (k : Queue) (f : QEntry → W64) : W64 := (k.ents.head?.map f).getD 0

/-- A core's read of a location of queue q (R156, R157): the head's metadata at once, or a stall until an entry becomes visible; the head's
words and XTRA; the queue's status. -/
def State.queueRead (s : State) (c core q : Nat) (loc : QueueLoc) (e : Ecc) : State :=
  let k := (s.ni c).queue q
  match loc with
  | .metaWord =>
    if k.ents.isEmpty && s.cget c (NI_Q_CFG_q_max.at q) != 0 then s.modNi c fun x => x.stallCore core (.meta_ q) s.ncyc
    else let s := s.headError c q e; s.respond c core (((s.ni c).queue q).headMeta q)
  | .word n => (s.headError c q e).respond c core (k.headWord fun h => h.words.getD n 0)
  | .xtra => (s.headError c q e).respond c core (k.headWord fun h => h.xtra)
  | .status => s.respond c core k.statusWord

/-- CQ_META_READ, or the read of another location of the queue (log 50). -/
def execCqMetaRead (c core q : Nat) (loc : QueueLoc) (e : Ecc) (s : State) : Res :=
  onUnit (Instr.cqMetaRead c core q loc e).wf s
    (s.access c core (.cqMetaRead c core q loc e) fun s => s.queueRead c core q loc e)

/-- CQ_META_WAIT_LIMIT (R157): the read ends with valid clear. -/
def execCqMetaWaitLimit (c core : Nat) (s : State) : Res :=
  onUnit (Instr.cqMetaWaitLimit c core).wf s
    (match ((s.ni c).core core).stall with
    | some (.meta_ q, t0) =>
      let l := s.cget c (NI_Q_CFG_wait_limit.at q)
      if l = 0 ∨ s.ncyc < t0 + 256 * l then s
      else (s.modNi c fun x => x.unstall core).respond c core 0
    | _ => s)

/-- High-water observation of a popped entry's wait (R207, mode 2). -/
def Regs.delayHw (r : Regs) (q wait : Nat) : Regs :=
  if r.get NI_LAT_CTL_mode = 2 then
    r.set (NI_QLAT_H_delay_hw.at q) (max (r.get (NI_QLAT_H_delay_hw.at q)) (min wait (2 ^ 32 - 1)))
  else r

/-- Retire the head entry of a queue (R157, R159, R330). -/
def State.pop (s : State) (c q : Nat) : State :=
  let st := s.cget c (NI_Q_CFG_stale_time.at q)
  match ((s.ni c).queue q).ents with
  | [] => s.bump c NI_BAL_QUE_pop_empty
  | e :: r =>
    let s := s.modNi c fun x => x.modQueue q fun k =>
      { k with ents := r, stale := false, since := if r.isEmpty || st == 0 then none else some (s.now, st) }
    s.modCellRegs c fun g => (g.addWrap NI_BAL_QUE2_return_total 1).delayHw q (s.ncyc - e.born)

/-- CQ_POP (R157). -/
def execCqPop (c core q : Nat) (s : State) : Res :=
  onUnit (Instr.cqPop c core q).wf s (s.writeAccess c core (.cqPop c core q) fun s => s.pop c q)

/-- What a release reads: a header's kind, channel and size, if it is valid for C and U (R153). -/
def ringHdr (w : Nat) (S C U : Nat) : Option (Nat × Nat) :=
  let kind := bits w 16 4
  let ch := bits w 20 12
  let size := bits w 32 32
  if bits w 0 16 = 0xA5C3 ∧ kind ≤ 1 ∧ size ≠ 0 ∧ size % 64 = 0 ∧ size ≤ U ∧ size ≤ S - C ∧
      (kind = 1 → size = S - C ∧ ch = 0) then some (kind, size) else none

/-- Free the oldest placement of a queue's ring (R153). -/
def State.ringRelease (s : State) (c q : Nat) : State :=
  let S := (s.cell c).regs.ringSize q
  let base := (s.cell c).regs.ringBase q
  let k := (s.ni c).queue q
  let hdr (C U : Nat) := ringHdr (mreadLE (s.cell c).cm (base + C) 8) S C U
  let refused (s : State) := s.bump c NI_BAL_QUE_rel_refused
  let faulted := refused (s.modNi c fun x => x.modQueue q fun k => { k with ringFault := true })
  let free (C U : Nat) := s.modNi c fun x => x.modQueue q fun k => { k with c := C, u := U }
  if k.u = 0 ∨ k.ringFault then refused s
  else match hdr k.c k.u with
    | none => faulted
    | some (0, z) => free ((k.c + z) % S) (k.u - z)
    | some (_, z) =>
      match hdr 0 (k.u - z) with
      | some (0, y) => free (y % S) (k.u - z - y)
      | _ => faulted

/-- CQ_RING_REL (R153). -/
def execCqRingRel (c core q : Nat) (s : State) : Res :=
  onUnit (Instr.cqRingRel c core q).wf s (s.writeAccess c core (.cqRingRel c core q) fun s => s.ringRelease c q)

/-! ## Sending (R137 to R141) -/

/-- Allocate a token for a packet of a channel (R139 to R141): the packet takes the channel's next sequence number and the
token's generation. -/
def State.allocMsg (s : State) (c ch t : Nat) (pk : Packet) (desc : Option Nat) : State :=
  match aget (s.ni c).chans ch with
  | none => s
  | some k =>
    let e := k.e
    let gen := ((aget (s.ni c).tokens t).map (·.gen)).getD 0
    let p : Packet := { pk with
      cls := 2, dstChip := e.peerChip, dstCell := if e.resolved then e.peerPhys else e.peerCell, srcChip := s.chipId,
      srcCell := BitVec.ofNat 14 c, chanTree := e.peerChan, seq := gen ++ e.txSeq, parterre := (s.cell c).owner }
    let s := s.modNi c fun x =>
      { x.modChan ch fun k => { k with e := { k.e with txSeq := k.e.txSeq + 1 } } with
        tokens := aput x.tokens t ⟨.queued, gen, .msg ch e.peerChan desc, e.txSeq, p.seal, 0, 0, 0, false, x.nextId⟩
        nextId := x.nextId + 1 }
    s.modCellRegs c fun r => r.addWrap NI_BAL_TOK_alloc 1

/-- Do open tokens of another local channel with the same peer_chan hold a send back (R138, R142)? -/
def Ni.interlocked (x : Ni) (ch : Nat) (peer : BitVec 12) : Bool :=
  x.tokens.any fun e => e.2.isOpen &&
    match e.2.use with
    | .msg c p _ => c != ch && p == peer
    | .read .. => false

/-- The packets of a tuple of n words (R41, R52, R53, R138). -/
def tuplePackets (n : Nat) (h : BitVec 12) (ws : List W64) : List Packet :=
  let bs := (ws.take n).flatMap fun w => leBytes 8 w.toNat
  let hb := leBytes 2 h.toNat
  if h = 0 then
    [{ Packet.blank with type := tMSG, last := 1, length := BitVec.ofNat 6 (8 * n), payload := payloadOf bs }]
  else if n = 6 then
    [{ Packet.blank with type := tMSG_HEAD, length := 48, payload := payloadOf (leBytes 4 48 ++ hb ++ [0, 0] ++ bs.take 40) },
     { Packet.blank with type := tMSG_BODY, last := 1, length := 8, payload := payloadOf (bs.drop 40) }]
  else [{ Packet.blank with type := tMSG, last := 1, length := BitVec.ofNat 6 (8 * n + 2), payload := payloadOf (bs ++ hb) }]

/-- CQ_SEND_RES (R138). -/
def sendResult (outcome seq gen token : Nat) : W64 :=
  BitVec.ofNat 64 (1 + outcome * 2 + seq * 2 ^ 4 + gen * 2 ^ 12 + token * 2 ^ 16)

/-- A CQ_SEND_GO write completes with a result. -/
def State.sendDone (s : State) (c core : Nat) (res : W64) : State :=
  (s.modNi c fun x => (x.modCore core fun e => { e with sendRes := res }).unstall core).respond c core 0

/-- Stall a CQ_SEND_GO write, counted once (R138, R166). -/
def State.sendStall (s : State) (c core ch : Nat) (v : W64) : State :=
  if ((s.ni c).core core).stall.isSome then s
  else (s.modNi c fun x => x.stallCore core (.sendGo ch v) s.ncyc).bump c NI_TOK_STAT_go_stall

/-- Attempt a send with the core's send words (R138). -/
def State.sendGo (s : State) (c core : Nat) (v : W64) : State :=
  let ch := bits v.toNat 0 12
  let n := bits v.toNat 12 3
  let h : BitVec 12 := BitVec.ofNat 12 (bits v.toNat 16 12)
  if n = 7 ∨ (h = 0 ∧ n = 0) then s.sendDone c core (sendResult 1 0 0 0)
  else match aget (s.ni c).chans ch with
    | none => (s.modNi c fun x => x.fetch ch []).sendStall c core ch v
    | some k =>
      if k.e.state ≠ chOPEN then s.sendDone c core (sendResult 3 0 0 0)
      else
        let r := if k.e.resolved then (s, PeerIs.remote) else s.peerIs c k.e.peerChip.toNat k.e.peerCell.toNat
        let s := r.1
        if r.2 = .invalid then s.sendDone c core (sendResult 1 0 0 0)
        else if r.2 = .vacant then s.sendDone c core (sendResult 2 0 0 0)
        else
          let pks := tuplePackets n h ((s.ni c).core core).sendW
          if (s.ni c).freeTokens < pks.length || (s.ni c).interlocked ch k.e.peerChan then s.sendStall c core ch v
          else
            let a := pks.foldl (fun (a : State × List Nat) p =>
              match (a.1.ni c).freeToken? with
              | some t => (a.1.allocMsg c ch t p none, a.2 ++ [t])
              | none => a) (s, [])
            let t := a.2.headD 0
            let gen (t : Nat) := ((aget (s.ni c).tokens t).map (·.gen)).getD 0
            ((a.1.touchChan c ch).modNi c fun x => x.modCore core fun e =>
              { e with sentToks := a.2.map fun t => (t, gen t), sentCh := ch, policed := false }).sendDone c core
              (sendResult 0 k.e.txSeq.toNat (gen t).toNat t)

/-- CQ_SEND_GO (R137, R138): the send words of the core's own slot, then the write. -/
def execCqSendGo (c core slot : Nat) (words : List W64) (v : W64) (s : State) : Res :=
  onUnit (Instr.cqSendGo c core slot words v).wf s
    (s.access c core (.cqSendGo c core slot words v) fun s =>
      if slot ≠ core then s.respond c core 0
      else (s.modNi c fun x => x.modCore core fun e => { e with sendW := sixWords words }).sendGo c core v)

/-- CQ_SEND_GO_RESUME (R138): a stalled send is attempted again. -/
def execCqSendGoResume (c core : Nat) (s : State) : Res :=
  onUnit (Instr.cqSendGoResume c core).wf s
    (match ((s.ni c).core core).stall with
    | some (.sendGo _ v, _) => s.sendGo c core v
    | _ => s)

/-! ## Channel sync (R134, R135) -/

/-- A CQ_SYNC write `i` of a core to its own slot. -/
def State.syncAccess (s : State) (c core slot ch : Nat) (op : BitVec 2) (i : Instr) : State :=
  s.writeAccess c core i fun s => if slot ≠ core then s else s.syncWrite c core ch op

/-- CQ_SYNC_LOAD: the entry is read; CHANNEL_FETCH_DONE validates it. -/
def execCqSyncLoad (c core slot ch : Nat) (s : State) : Res :=
  onUnit (Instr.cqSyncLoad c core slot ch).wf s
    (s.syncAccess c core slot ch opLOAD (.cqSyncLoad c core slot ch))

/-- CQ_SYNC_CLOSE. -/
def execCqSyncClose (c core slot ch : Nat) (s : State) : Res :=
  onUnit (Instr.cqSyncClose c core slot ch).wf s
    (s.syncAccess c core slot ch opCLOSE (.cqSyncClose c core slot ch))

/-- CQ_SYNC_FLUSH. -/
def execCqSyncFlush (c core slot ch : Nat) (s : State) : Res :=
  onUnit (Instr.cqSyncFlush c core slot ch).wf s
    (s.syncAccess c core slot ch opFLUSH (.cqSyncFlush c core slot ch))

/-- CQ_SYNC_BAD_OP. -/
def execCqSyncBadOp (c core slot ch : Nat) (s : State) : Res :=
  onUnit (Instr.cqSyncBadOp c core slot ch).wf s (s.syncAccess c core slot ch opBAD (.cqSyncBadOp c core slot ch))

/-- CQ_SYNC_RES_READ (R134): the result, or a stall until the core's latest operation completes; or the read of CQ_SEND_RES (R138;
log 50). -/
def execCqSyncResRead (c core slot : Nat) (send : Bool) (s : State) : Res :=
  onUnit (Instr.cqSyncResRead c core slot send).wf s
    (s.access c core (.cqSyncResRead c core slot send) fun s =>
      let k := (s.ni c).core core
      if slot ≠ core then s.respond c core 0
      else if send then s.respond c core k.sendRes
      else if k.syncBusy then s.modNi c fun x => x.stallCore core .syncRes s.ncyc
      else s.respond c core (k.syncRes.setWidth 64))

/-! ## Descriptor rings (R171, R172) -/

/-- Has a ring a descriptor beyond the one named next (R171)? -/
def RingRt.waiting (r : RingRt) : Bool := decide ((r.next - r.ci).toNat < (r.pi - r.ci).toNat)

/-- Read the next descriptor of a ring, if there is one and none is being read (R172). -/
def Ni.readDesc (x : Ni) (r : Nat) : Ni :=
  let k := x.ring r
  if k.waiting && !k.fetching && k.fetched.isNone then
    (x.modRing r fun k => { k with fetching := true }).request false (.descriptor r)
  else x

/-- A core writes the producer index of ring r (R172). -/
def State.writePi (s : State) (c r : Nat) (v : W64) : State :=
  let pi : BitVec 16 := v.setWidth 16
  let k := (s.ni c).ring r
  if !s.cellFlag c (NI_DRING_enable.at r) || decide (2 ^ s.cget c (NI_DRING_size_log2.at r) < (pi - k.ci).toNat) then
    s.bump c NI_BULK_STAT_pi_refused
  else s.modNi c fun x => (x.modRing r fun k => { k with pi := pi, posts := k.posts ++ [(pi, s.ncyc)] }).readDesc r

/-- The word of CQ_DRING_CI(r) (R189): the consumer index, and the producer index above it. -/
def RingRt.word (k : RingRt) : W64 := BitVec.ofNat 64 (k.ci.toNat + k.pi.toNat * 2 ^ 16)

/-- What a core's access to ring r's locations does (R171, R172, R189). -/
def State.ringAccess (s : State) (c core r : Nat) (a : RingAccess) : State :=
  match a with
  | .writePi v => s.writeAccess c core (.cqDringPiWrite c core r a) fun s => s.writePi c r v
  | .readCi => s.access c core (.cqDringPiWrite c core r a) fun s => s.respond c core ((s.ni c).ring r).word

/-- CQ_DRING_PI_WRITE, or the read of CQ_DRING_CI (log 50). -/
def execCqDringPiWrite (c core r : Nat) (a : RingAccess) (s : State) : Res :=
  onUnit (Instr.cqDringPiWrite c core r a).wf s (s.ringAccess c core r a)

end Sys2Proof.Machine
end

