-- ==== Sys2Proof/Machine/Operands.lean ====
section
/-! DEFINITION. The operand forms of reductions: the number formats of R58 to R60 and R255, with exact decoding, and their encoding by
R257. An exact value is an integer in units of 2^-149, the least FP32 subnormal. -/

namespace Sys2Proof.Machine

/-! ## Rounding -/

/-- m / 2^q rounded to nearest, ties to even. -/
def rne (m q : Nat) : Nat :=
  let a := m / 2 ^ q
  let r := 2 * (m % 2 ^ q)
  if 2 ^ q < r ∨ (r = 2 ^ q ∧ a % 2 = 1) then a + 1 else a

/-- An integer over 2^q rounded to nearest even. -/
def rneInt (v : Int) (q : Nat) : Int := if v < 0 then -(rne v.natAbs q : Int) else (rne v.natAbs q : Int)

/-- An integer times 2^e, rounded to nearest even. -/
def scaleInt (v e : Int) : Int := if e < 0 then rneInt v e.natAbs else v * 2 ^ e.natAbs

/-! ## Binary floating-point codes -/

/-- The element formats with an exponent field (R59): mantissa bits, least exponent, greatest finite code. -/
structure FpFmt where
  mb : Nat
  emin : Int
  maxCode : Nat
deriving DecidableEq, Repr

/-- FP32. -/
def fmtFP32 : FpFmt := ⟨23, -126, 0x7F7FFFFF⟩
/-- BF16. -/
def fmtBF16 : FpFmt := ⟨7, -126, 0x7F7F⟩
/-- E2M1. -/
def fmtE2M1 : FpFmt := ⟨1, 0, 7⟩
/-- E2M3. -/
def fmtE2M3 : FpFmt := ⟨3, 0, 31⟩
/-- E3M2. -/
def fmtE3M2 : FpFmt := ⟨2, -2, 31⟩
/-- E4M3: the code 0x7F is its NaN. -/
def fmtE4M3 : FpFmt := ⟨3, -6, 0x7E⟩
/-- E5M2: codes from 0x7C up are infinities and NaNs. -/
def fmtE5M2 : FpFmt := ⟨2, -14, 0x7B⟩

/-- The magnitude of a code under a shared exponent X, in units of 2^-149. -/
def FpFmt.mag (f : FpFmt) (code : Nat) (X : Int) : Nat :=
  let base := (f.emin - f.mb + X + 149).toNat
  if code < 2 ^ f.mb then code * 2 ^ base else (2 ^ f.mb + code % 2 ^ f.mb) * 2 ^ (code / 2 ^ f.mb - 1 + base)

/-- The code nearest to m × 2^-149 under a shared exponent X, ties to even, not limited to the format's largest. -/
def FpFmt.code (f : FpFmt) (m : Nat) (X : Int) : Nat :=
  if m = 0 then 0
  else
    let u : Int := -149 - X
    let e := max ((Nat.log2 m : Int) + u) f.emin
    let q := e - f.mb - u
    (e - f.emin).toNat * 2 ^ f.mb + if 0 < q then rne m q.toNat else m * 2 ^ q.natAbs

/-- The exact value of an FP32 bit pattern. -/
def fpVal (b : W32) : Int :=
  let m : Int := fmtFP32.mag (b.toNat % 2 ^ 31) 0
  if b.getLsbD 31 then -m else m

/-- FP32 with a sign, rounded to nearest even; saturated to the largest finite value (R255, R256). -/
def fpRound (neg : Bool) (m : Nat) : W32 × Bool :=
  let c := fmtFP32.code m 0
  let sat := decide (fmtFP32.maxCode < c)
  (BitVec.ofNat 32 ((if sat then fmtFP32.maxCode else c) + if neg then 2 ^ 31 else 0), sat)

/-- The FP32 nearest to an exact value; an exact zero is +0. -/
def fpOf (v : Int) : W32 × Bool := fpRound (decide (v < 0)) v.natAbs

/-- FP32 addition, rounding to nearest even; the flag tells an overflow. -/
def fpAdd (a b : W32) : W32 × Bool := fpOf (fpVal a + fpVal b)

/-- FP32 negation. -/
def fpNeg (a : W32) : W32 := a ^^^ 0x80000000

/-- FP32 subtraction. -/
def fpSub (a b : W32) : W32 := (fpAdd a (fpNeg b)).1

/-! ## Packet formats (R59, R60) -/

/-- The bits of an element of a block format (R60). -/
def fmtBits (f : Nat) : Nat :=
  match f with
  | 0 => 4
  | 1 => 6
  | 2 => 6
  | 6 => 2
  | 7 => 16
  | 8 => 32
  | _ => 8

/-- Is a format a block format with a scale byte? -/
def fmtBlock (f : Nat) : Bool := decide (f ≤ 6)

/-- Elements of a packet of a format, 0 for a reserved one. -/
def fmtCount (f : Nat) : Nat :=
  match f with
  | 0 => 64
  | 1 => 32
  | 2 => 32
  | 3 => 32
  | 4 => 32
  | 5 => 32
  | 6 => 128
  | 7 => 16
  | 8 => 8
  | _ => 0

/-- Bytes of a block: scale byte and 32 elements (R60). -/
def blockBytes (f : Nat) : Nat := 1 + 4 * fmtBits f

/-- Bytes of element data of a packet of a format (R59). -/
def fmtBytes (f : Nat) : Nat := if fmtBlock f then fmtCount f / 32 * blockBytes f else 32

/-- The floating-point element of a format, where it has one. -/
def fmtElem (f : Nat) : Option FpFmt :=
  match f with
  | 0 => some fmtE2M1
  | 1 => some fmtE2M3
  | 2 => some fmtE3M2
  | 3 => some fmtE4M3
  | 4 => some fmtE5M2
  | 7 => some fmtBF16
  | 8 => some fmtFP32
  | _ => none

/-- The scale byte of block j of a payload. -/
def scaleByte (f pl j : Nat) : Nat := bits pl (8 * (j * blockBytes f)) 8

/-- The code of element i of a payload (R59, R60). -/
def elemCode (f pl i : Nat) : Nat :=
  if fmtBlock f then bits pl (8 * (i / 32 * blockBytes f + 1) + fmtBits f * (i % 32)) (fmtBits f)
  else bits pl (fmtBits f * i) (fmtBits f)

/-- A sign and a magnitude as FP32, with the saturation of R255. -/
def fpMag (neg : Bool) (m : Nat) : W32 × Bool := fpRound neg m

/-- The FP32 of element i of a payload and whether its magnitude saturated (R255). -/
def elemVal (f pl i : Nat) : W32 × Bool :=
  let code := elemCode f pl i
  let X : Int := (scaleByte f pl (i / 32) : Int) - 127
  match fmtElem f with
  | some e =>
    let w := fmtBits f - 1
    if f = 8 then (BitVec.ofNat 32 code, false)
    else fpMag (decide (code / 2 ^ w = 1)) (e.mag (code % 2 ^ w) (if fmtBlock f then X else 0))
  | none =>
    if f = 6 then
      let m := 2 ^ (X + 149).toNat
      if code = 0 then (0, false) else fpMag (decide (code = 3)) m
    else
      let n : Int := (BitVec.ofNat 8 code).toInt
      fpMag (decide (n < 0)) (n.natAbs * 2 ^ (X + 143).toNat)

/-! ## Encoding (R257) -/

/-- What one element of a range holds for encoding: its exact value, the sign of a zero, and whether it is poisoned. -/
structure Elem where
  v : Int
  neg : Bool
  poison : Bool
deriving DecidableEq, Repr

/-- Largest magnitude among elements that are not poisoned. -/
def amaxOf (es : List Elem) : Nat := es.foldl (fun a e => if e.poison then a else max a e.v.natAbs) 0

/-- Is a change within 2^-p of M (R257)? p = 0 sets no limit. -/
def withinPrec (p : Nat) (v w : Int) (M : Nat) : Bool := p == 0 || decide ((v - w).natAbs * 2 ^ p ≤ M)

/-- emax of an MX format (R257). -/
def mxEmax (f : Nat) : Int :=
  match f with
  | 0 => 2
  | 1 => 2
  | 2 => 4
  | 3 => 8
  | 4 => 15
  | _ => 0

/-- The shared exponent of an MX block (R257), before the limit at 127. -/
def mxExp (f amax : Nat) : Int := if amax = 0 then -127 else max (-127) ((Nat.log2 amax : Int) - 149 - mxEmax f)

/-- The code of one element of an MX block under X, and its exact value; none when it saturates (R257). A poisoned element has no
stated code: a free one. -/
def mxElem (f : Nat) (X : Int) (e : Elem) (free : W64) : Option (Nat × Int) :=
  let w := fmtBits f - 1
  if e.poison then some (free.toNat % 2 ^ fmtBits f, e.v)
  else match fmtElem f with
    | some k =>
      let c := k.code e.v.natAbs X
      if k.maxCode < c then none
      else
        let m : Int := k.mag c X
        let neg := decide (e.v < 0) || (e.v == 0 && e.neg)
        some (c + (if neg then 2 ^ w else 0), if e.v < 0 then -m else m)
    | none =>
      let n := rne e.v.natAbs (X + 143).toNat
      if 127 < n then none
      else
        let s : Int := if e.v < 0 then -(n : Int) else n
        some ((BitVec.ofInt 8 s).toNat, s * 2 ^ (X + 143).toNat)

/-- Codes of b bits each as one little-endian number. -/
def packBits (b : Nat) (cs : List Nat) : Nat := cs.foldr (fun c a => c % 2 ^ b + a * 2 ^ b) 0

/-- An MX block as a number, or none when the format is not accepted for it (R257, R258). -/
def encMx (f p : Nat) (es : List Elem) (free : Nat → W64) : Option Nat :=
  let M := amaxOf es
  let X := mxExp f M
  let cs := (List.range es.length).map fun i => (es.getD i ⟨0, false, false⟩, mxElem f X (es.getD i ⟨0, false, false⟩) (free i))
  if 127 < X then none
  else if cs.all fun c => match c.2 with
      | some (_, w) => c.1.poison || withinPrec p c.1.v w M
      | none => false then
    let scale := if es.any (·.poison) then 255 else (X + 127).toNat
    some (scale + 256 * packBits (fmtBits f) (cs.map fun c => (c.2.map (·.1)).getD 0))
  else none

/-- A T2 block as a number, or none (R257, R258): every element 0 or ±2^X. -/
def encT2 (es : List Elem) : Option Nat :=
  let M := amaxOf es
  let X : Int := if M = 0 then -127 else (Nat.log2 M : Int) - 149
  if X < -127 ∨ 127 < X then none
  else if es.all fun e => e.poison || e.v.natAbs == 0 || (e.v.natAbs == M && M == 2 ^ Nat.log2 M) then
    some ((X + 127).toNat + 256 * packBits 2 (es.map fun e =>
      if e.poison then 2 else if e.v.natAbs = 0 then 0 else if e.v < 0 then 3 else 1))
  else none

/-- A BF16 element, or none (R257, R258). -/
def encBf16 (p M : Nat) (e : Elem) : Option Nat :=
  if e.poison then some 0x7FC0
  else
    let c := fmtBF16.code e.v.natAbs 0
    let m : Int := fmtBF16.mag c 0
    let w := if e.v < 0 then -m else m
    if fmtBF16.maxCode < c || !withinPrec p e.v w M then none
    else some (c + if e.v < 0 || (e.v == 0 && e.neg) then 0x8000 else 0)

/-- An FP32 element, saturating where it must; the flag tells a saturation (R257, R258). -/
def encFp32 (e : Elem) : Nat × Bool :=
  if e.poison then (0x7FC00000, false)
  else
    let r := fpRound (decide (e.v < 0) || (e.v == 0 && e.neg)) e.v.natAbs
    (r.1.toNat, r.2)

/-- A list cut into pieces of n. -/
def chunks {α : Type} (n : Nat) (l : List α) : List (List α) :=
  (List.range ((l.length + n - 1) / n)).map fun i => (l.drop (n * i)).take n

/-- All results, or none. -/
def allSome {α : Type} (l : List (Option α)) : Option (List α) :=
  l.foldr (fun o a => match o, a with
    | some x, some r => some (x :: r)
    | _, _ => none) (some [])

/-- The element data of a whole range in a format, one number per packet, with the elements that saturated; none when the format is
not accepted (R257). `rest` is the largest magnitude in that part of the elements' 32-element block which lies outside the range: a BF16 range has
half a block. -/
def encodeIn (f p rest : Nat) (es : List Elem) (free : Nat → W64) : Option (List Nat × Nat) :=
  let blocks := chunks 32 es
  let perBlock (g : Nat → List Elem → Option Nat) :=
    allSome ((List.range blocks.length).map fun j => g j (blocks.getD j []))
  if f ≤ 6 then
    (perBlock fun j b => if f = 6 then encT2 b else encMx f p b fun i => free (32 * j + i)).map fun bs =>
      ((chunks (fmtCount f / 32) bs).map fun g => packBits (8 * blockBytes f) g, 0)
  else if f = 7 then
    (allSome (blocks.map fun b => allSome (b.map (encBf16 p (max rest (amaxOf b)))))).map fun cs =>
      ((chunks 16 cs.flatten).map (packBits 16), 0)
  else
    let cs := es.map encFp32
    some ((chunks 8 (cs.map (·.1))).map (packBits 32), (cs.filter (·.2)).length)

/-- The next format in the escalation chain (R257). -/
def nextFmt (f : Nat) : Nat :=
  match f with
  | 6 => 0
  | 0 => 3
  | 1 => 3
  | 2 => 3
  | 3 => 7
  | 4 => 7
  | 5 => 7
  | _ => 8

/-- Is a format the declared one or above it in the chain (R250)? -/
def inChain (declared f : Nat) : Bool :=
  f == declared || f == nextFmt declared || f == nextFmt (nextFmt declared) || f == nextFmt (nextFmt (nextFmt declared)) ||
  f == nextFmt (nextFmt (nextFmt (nextFmt declared)))

/-- Encode a range in the first format accepted, from the declared one upward (R257): the format, the packets' data, the elements
that saturated. -/
def encodeRange (fuel f p rest : Nat) (es : List Elem) (free : Nat → W64) : Nat × List Nat × Nat :=
  match fuel with
  | 0 => (8, ((encodeIn 8 p rest es free).getD ([], 0)))
  | n + 1 =>
    match encodeIn f p rest es free with
    | some r => (f, r)
    | none => encodeRange n (nextFmt f) p rest es free

end Sys2Proof.Machine
end

