-- ==== Sys2Proof/Machine/Flags.lean ====
section
/-! DEFINITION. The flags and checks of reductions: poison (R64), the accumulation of R256 with its saturation (R258), the shadows of
R248 and R254. -/

namespace Sys2Proof.Machine

/-- Is a block or packet of element data poisoned at element i (R64)? -/
def poisonAt (f pl i : Nat) : Bool :=
  let codes := (List.range 32).map fun k => elemCode f pl (32 * (i / 32) + k)
  let all := (List.range (fmtCount f)).map fun k => elemCode f pl k
  match f with
  | 3 => scaleByte f pl (i / 32) == 255 || codes.any fun c => c % 128 == 0x7F
  | 4 => scaleByte f pl (i / 32) == 255 || codes.any fun c => decide (0x7C ≤ c % 128)
  | 6 => scaleByte f pl (i / 32) == 255 || codes.any fun c => c == 2
  | 7 => all.any fun c => decide (0x7F80 ≤ c % 2 ^ 15)
  | 8 => all.any fun c => decide (0x7F800000 ≤ c % 2 ^ 31)
  | _ => scaleByte f pl (i / 32) == 255

/-- One decoded element of a packet: its FP32, whether it saturated, whether it is poisoned (R64, R255, R258). -/
structure Decode1 where
  val : W32
  sat : Bool
  poison : Bool
deriving DecidableEq, Repr

/-- The decoded elements of a packet's data. -/
def decodeAll (f pl : Nat) : List Decode1 :=
  (List.range (fmtCount f)).map fun i =>
    if poisonAt f pl i then ⟨0, false, true⟩ else ⟨(elemVal f pl i).1, (elemVal f pl i).2, false⟩

/-! ## Accumulation (R256) -/

/-- The exact sum of two FP32 and its error; the flag tells an overflow of the sum (R256). -/
def twoSum (a b : W32) : W32 × W32 × Bool :=
  let r := fpAdd a b
  let s := r.1
  let bb := fpSub s a
  (s, (fpAdd (fpSub a (fpSub s bb)) (fpSub b bb)).1, r.2)

/-- The sum of R256 whose first operand is the larger. -/
def fastTwoSum (a b : W32) : W32 × W32 × Bool :=
  let r := fpAdd a b
  (r.1, fpSub b (fpSub r.1 a), r.2)

/-- The sum of R256: new (hi, lo), and whether the element saturated. -/
def pairAdd (h l x : W32) : W32 × W32 × Bool :=
  let r := twoSum h x
  let t := twoSum l 0
  let e := (fpAdd r.2.1 t.1).1
  let k := fastTwoSum r.1 e
  let e := (fpAdd k.2.1 t.2.1).1
  let z := fastTwoSum k.1 e
  if r.2.2 then (r.1, 0, true)
  else if k.2.2 then (k.1, 0, true)
  else if z.2.2 then (z.1, 0, true)
  else (z.1, z.2.1, false)

/-- Does FP32 a rank below b, −0 below +0 (R256)? -/
def fpLess (a b : W32) : Bool :=
  decide (fpVal a < fpVal b) || (fpVal a == fpVal b && a.getLsbD 31 && !b.getLsbD 31)

/-! ## Shadows (R248, R254) -/

/-- A signed 8-bit exponent. -/
def signed8 (k : Nat) : Int := (BitVec.ofNat 8 k).toInt

/-- An exact value at the shadow quantum 2^k, rounded to nearest even. -/
def quantise (v : Int) (k : Int) : Int := scaleInt v (-149 - k)

/-- Clamp to signed 32 bits. -/
def clamp32 (v : Int) : Int := max (-2147483648) (min 2147483647 v)

/-- The greatest or least of a list by its exact values, none of an empty list. -/
def extreme (least : Bool) (vs : List Int) : Option Int :=
  match vs with
  | [] => none
  | v :: r => some (r.foldl (fun a b => if least then min a b else max a b) v)

/-- The shadow of exact values under an operation at exponent k (R248, R254): of op 0 modulo 2^32, of the others clamped. -/
def shadowOf (op : Nat) (k : Int) (vs : List Int) : W32 :=
  if op = 0 then BitVec.ofInt 32 (quantise vs.sum k)
  else match extreme (op == 2) vs with
    | some v => BitVec.ofInt 32 (clamp32 (quantise v k))
    | none => 0

/-- The value positions of op 3 are the even ones (R255). -/
def valuePos (op i : Nat) : Bool := op != 3 || i % 2 == 0

/-- How the shadows of two contributions to a unit combine (R251): op 0 adds; ops 1 to 3 keep the greater or the lesser. -/
def shadowJoin (op : Nat) (a b : W32) : W32 :=
  if op = 0 then a + b
  else if op = 2 then (if a.toInt ≤ b.toInt then a else b)
  else if a.toInt ≤ b.toInt then b else a

end Sys2Proof.Machine
end

