-- ==== Sys2Proof/Machine/Reduction.lean ====
section
/-! DEFINITION. The combine engine (R246 to R254), its cross-checks (R304, R305) and result landings (R263, R264). -/

namespace Sys2Proof.Machine

/-! ## Tree entries (R244, R267) -/

/-- The NI's valid tree entry for a tree. -/
def Regs.redEntry (r : Regs) (tree : Nat) : Option Nat :=
  (List.range 16).find? fun j => r.flag (NI_RED_TREE_A_valid.at j) && r.get (NI_RED_TREE_A_tree.at j) == tree

/-- Units of 8 elements a pass of tree entry j has: 8r (R246). -/
def Regs.redUnits (r : Regs) (j : Nat) : Nat := 8 * (r.get (NI_RED_TREE_A_slot_cnt_m1.at j) + 1)

/-- The declared format of tree entry j. -/
def Regs.redFmt (r : Regs) (j : Nat) : Nat := r.get (NI_RED_TREE_A_format.at j)

/-- Packets of a pass in the declared format: P = 64r / E_d (R245). -/
def Regs.redPackets (r : Regs) (j : Nat) : Nat := 8 * r.redUnits j / fmtCount (r.redFmt j)

/-- Is the cascade entry of a tree at a cell valid and of kind 1 with correct parity (R243, R250)? -/
def State.redCascade (s : State) (c tree : Nat) : Bool := cascOk ((s.rt c).cascade tree) 1

/-- May a contributor of a cell send for a tree: role contributor, or local, and the cascade entry not closing (R247)? -/
def State.redSource (s : State) (c tree : Nat) : Option Nat :=
  let r := (s.cell c).regs
  match r.redEntry tree with
  | none => none
  | some j =>
    if (r.get (NI_RED_TREE_A_role.at j) == 0 || r.flag (NI_RED_TREE_A_local.at j)) && s.redCascade c tree &&
        bits ((s.rt c).cascade tree) 10 1 == 0 then some j
    else none

/-- A trailer (R61) as the number at payload byte 36. -/
def trailer (count fmt : Nat) (escalated poison saturated shadowBad countBad : Bool) (shadow tag : W32) : Nat :=
  count % 65536 + 2 ^ 16 * (fmt + escalated.toNat * 16 + poison.toNat * 32 + saturated.toNat * 64 + shadowBad.toNat * 128 +
    countBad.toNat * 256 + count / 65536 * 2048) + 2 ^ 32 * shadow.toNat + 2 ^ 64 * tag.toNat

/-- A payload of element data and trailer. -/
def redPayload (data tr : Nat) : BitVec 384 := BitVec.ofNat 384 (data + 2 ^ 288 * tr)

/-- Packet i of a contributor's share of a pass, from its 48-byte source record (R247, R248); its destination is set by the
sender. -/
def redContribution (r : Regs) (j i : Nat) (rec_ : List Byte) : Packet :=
  let f := r.redFmt j
  let op := r.get (NI_RED_TREE_A_op.at j)
  let data := leNat (rec_.take (fmtBytes f))
  let es := decodeAll f data
  let vals := ((List.range es.length).filter fun e => valuePos op e && !(es.getD e ⟨0, false, false⟩).poison).map fun e =>
    fpVal (es.getD e ⟨0, false, false⟩).val
  let shadow := shadowOf op (signed8 (r.get (NI_RED_TREE_A_shadow_k.at j))) vals
  let tag := BitVec.ofNat 32 (r.get (NI_RED_TREE_C_tag.at j))
  { Packet.blank with
    type := tRED, chanTree := BitVec.ofNat 12 (r.get (NI_RED_TREE_A_tree.at j)), seq := BitVec.ofNat 12 (i * fmtCount f / 8),
    length := 48, payload := redPayload data (trailer 1 f false (es.any (·.poison)) false false false shadow tag) }

/-! ## Ranges (R246, R251) -/

/-- A range of a tree entry; one not listed is IDLE. -/
def Ni.range (x : Ni) (j i : Nat) : RangeRt := (aget x.ranges (rangeKey j i)).getD RangeRt.idle
/-- Replace a range. -/
def Ni.setRange (x : Ni) (j i : Nat) (g : RangeRt) : Ni := { x with ranges := aput x.ranges (rangeKey j i) g }
/-- Return a range to IDLE. -/
def Ni.idleRange (x : Ni) (j i : Nat) : Ni := { x with ranges := adel x.ranges (rangeKey j i) }

/-- The contribution count of a range: the least of its units' (R252). -/
def RangeRt.count (g : RangeRt) : Nat :=
  match g.units with
  | [] => 0
  | u :: r => r.foldl (fun a v => min a v.count) u.count

/-- The shadow of a range: its first unit's, which every contribution's first packet reaches (R251, R257). -/
def RangeRt.shadow (g : RangeRt) : W32 := (g.units.head?.map (·.shadow)).getD 0

/-- Is any element of a range poisoned? -/
def RangeRt.poisoned (g : RangeRt) : Bool := g.accs.any (·.poison)

/-- A range newly OPEN: no arrival yet, its timer started (R251). -/
def RangeRt.opened (E now t : Nat) : RangeRt :=
  { RangeRt.idle with
    st := .open_, timer := (now, t), accs := List.replicate E ⟨0, 0, 0, false⟩, units := List.replicate (E / 8) ⟨0, 0, 0⟩ }

/-- Load or combine one element (R256, R258); the flag tells a saturation of the sum. `idx` is op 3's index. -/
def combineElem (op : Nat) (first : Bool) (a : Acc) (d : Decode1) (idx : W32) : Acc × Bool :=
  if first then (⟨d.val, 0, idx, d.poison⟩, false)
  else if a.poison then (a, false)
  else if d.poison then ({ a with poison := true }, false)
  else match op with
    | 0 =>
      let r := pairAdd a.hi a.lo d.val
      ({ a with hi := r.1, lo := r.2.1 }, r.2.2)
    | 1 => (if fpLess a.hi d.val then { a with hi := d.val } else a, false)
    | 2 => (if fpLess d.val a.hi then { a with hi := d.val } else a, false)
    | _ =>
      if fpLess a.hi d.val then ({ a with hi := d.val, aux := idx }, false)
      else if fpLess d.val a.hi then (a, false)
      else (if idx.toNat < a.aux.toNat then { a with aux := idx } else a, false)

/-- Take the decoded elements of a packet into a range from unit u0 on (R251): the new range, and the sums that saturated. -/
def RangeRt.absorb (g : RangeRt) (op u0 count : Nat) (shadow : W32) (es : List Decode1) : RangeRt × Nat :=
  let base := 8 * u0
  let one (k : Nat) (a : Acc) : Acc × Bool :=
    if base ≤ k ∧ k < base + es.length then
      let e := k - base
      let u := (g.units.getD (k / 8) ⟨0, 0, 0⟩)
      let d := es.getD e ⟨0, false, false⟩
      let idx := if op = 3 then (es.getD (e + 1) ⟨0, false, false⟩).val else 0
      if op = 3 ∧ k % 2 = 1 then ({ a with poison := a.poison || d.poison }, false) else combineElem op (u.arrivals == 0) a d idx
    else (a, false)
  let rs := (List.range g.accs.length).map fun k => one k (g.accs.getD k ⟨0, 0, 0, false⟩)
  let units := (List.range g.units.length).map fun k =>
    let u := g.units.getD k ⟨0, 0, 0⟩
    if u0 ≤ k ∧ k < u0 + es.length / 8 then
      ⟨u.arrivals + 1, u.count + count, if u.arrivals = 0 then shadow else shadowJoin op u.shadow shadow⟩
    else u
  ({ g with accs := rs.map (·.1), units := units }, (rs.filter (·.2)).length)

/-! ## Emission (R252, R257, R258) -/

/-- The elements a range encodes (R255, R257): hi + lo exactly; at op 3's index positions the index as a bit pattern. -/
def RangeRt.elems (g : RangeRt) (op : Nat) : List Elem :=
  (List.range g.accs.length).map fun k =>
    let a := g.accs.getD k ⟨0, 0, 0, false⟩
    if op = 3 ∧ k % 2 = 1 then ⟨fpVal (g.accs.getD (k - 1) ⟨0, 0, 0, false⟩).aux, false, a.poison⟩
    else ⟨fpVal a.hi + fpVal a.lo, a.hi.getLsbD 31, a.poison⟩

/-- Where a range's output packets go (R252): type, endpoint, tree ID. -/
def Regs.redDests (r : Regs) (j : Nat) : List (BitVec 4 × Nat × Nat) :=
  let tree := r.get (NI_RED_TREE_A_tree.at j)
  match r.get (NI_RED_TREE_A_role.at j) with
  | 2 => ((List.range 4).filter fun d => r.flag (NI_RED_DLV_valid.at (4 * j + d))).map fun d =>
      (tRED_RESULT, r.get (NI_RED_DLV_endpoint.at (4 * j + d)), tree)
  | 3 => [(tRED, r.get (NI_RED_TREE_B_up_ep.at j), r.get (NI_RED_TREE_B_up_tree.at j))]
  | _ => [(tRED, r.get (NI_RED_TREE_B_up_ep.at j), tree)]

/-- The first FREE sample index of the state, as the free codes of poisoned elements (log 1). -/
def State.freeAt (s : State) (i : Nat) : W64 := Config.freeWord (s.free + i)

/-- Clear a range whose last output packet has been selected; its count-units count as emitted (R251, R333). -/
def State.redEmitted (s : State) (c j i : Nat) : State :=
  let n := ((s.ni c).range j i).openUnits
  (s.modCellRegs c fun r => r.addWrap (NI_BAL_RED_A_emit.at j) n).modNi c fun x => x.idleRange j i

/-- Does a RED's or RED_RESULT's trailer carry poison (R61)? -/
def Packet.poisoned (p : Packet) : Bool := bits (p.pl 38 2) 5 1 == 1

/-- A range enters EMIT and forms its output packets (R252, R257, R258). One toward a vacant or invalid endpoint is not sent (R22). -/
def State.redEmit (s : State) (c j i : Nat) : State :=
  let r := (s.cell c).regs
  let g := (s.ni c).range j i
  let op := r.get (NI_RED_TREE_A_op.at j)
  let d := r.redFmt j
  let es := g.elems op
  let rest := if fmtCount d = 16 then amaxOf (((s.ni c).range j (i ^^^ 1)).elems op) else 0
  let e := encodeRange 6 d (r.get (NI_RED_TREE_A_prec.at j)) rest es s.freeAt
  let F := e.1
  let E := fmtCount F
  let sat := g.saturated || decide (0 < e.2.2)
  let tag := BitVec.ofNat 32 (r.get (NI_RED_TREE_C_tag.at j))
  let count := g.count
  let first := i * fmtCount d / 8
  let parts := (List.range e.2.1.length).map fun k =>
    let pz := ((es.drop (E * k)).take E).any (·.poison)
    let seq := first + k * E / 8
    let sh := if op = 0 ∧ 0 < k then 0 else g.shadow
    (pz, { Packet.blank with
      cls := 1, srcChip := s.chipId, srcCell := BitVec.ofNat 14 c, seq := BitVec.ofNat 12 seq, length := 48,
      last := if seq * 8 + E = 8 * r.redUnits j then 1 else 0, parterre := BitVec.ofNat 8 (r.get (NI_RED_TREE_A_parterre.at j)),
      payload := redPayload (e.2.1.getD k 0) (trailer count F (F != d) pz sat g.fails.1 g.fails.2 sh tag) : Packet })
  let a := (r.redDests j).foldl (fun (a : State × List Packet) t =>
    let q := a.1.peerIs c (t.2.1 / 2 ^ 14) (t.2.1 % 2 ^ 14)
    let put (cell : Nat) := (q.1, a.2 ++ parts.map fun p =>
      ({ p.2 with type := t.1, dstChip := BitVec.ofNat 13 (t.2.1 / 2 ^ 14), dstCell := BitVec.ofNat 14 cell, chanTree := BitVec.ofNat 12 t.2.2,
                  last := if t.1 = tRED_RESULT then p.2.last else 0 } : Packet).seal)
    match q.2 with
    | .local_ cell => put cell
    | .remote => put (t.2.1 % 2 ^ 14)
    | _ => (q.1, a.2)) ({ s with free := s.free + es.length }, [])
  let counts := g.units.map (·.count)
  let s := a.1.modCellRegs c fun r =>
    let r := r.add (NI_RED_TSTAT_poisoned.at j) (a.2.filter Packet.poisoned).length
    let r := r.add (NI_RED_TSTAT_saturated.at j) e.2.2
    let r := if F ≠ d then r.bump (NI_RED_TSTAT_escalated.at j) else r
    if counts.any (· != count) then r.bump (NI_RED_TSTAT_count_skew.at j) else r
  let s := s.modNi c fun x => { x.setRange j i { g with st := .emit, outp := a.2, heldNo := x.heldSeq } with heldSeq := x.heldSeq + 1 }
  if a.2.isEmpty then s.redEmitted c j i else s

/-- The word a held range shows in NI_RED_HOLD from bit 1 up (R272), as the RED_HELD event orders it (R435). -/
def heldBody (j seq : Nat) (fails : Bool × Bool) (diff : W32) : W64 :=
  BitVec.ofNat 64 (j + seq * 2 ^ 4 + fails.1.toNat * 2 ^ 16 + fails.2.toNat * 2 ^ 17 + diff.toNat * 2 ^ 32)

/-- The checks of a root on a completed range (R254): (shadow fails, count fails), D, and whether the shadow check is skipped. -/
def RangeRt.check (g : RangeRt) (op expected : Nat) (k : Int) : (Bool × Bool) × W32 × Bool :=
  let es := g.elems op
  let vals := ((List.range es.length).filter fun e => valuePos op e && !(es.getD e ⟨0, false, false⟩).poison).map fun e =>
    (es.getD e ⟨0, false, false⟩).v
  let Q := shadowOf op k vals
  let D : Int := if op = 0 then (Q - g.shadow).toInt else Q.toInt - g.shadow.toInt
  let skip := g.poisoned || g.saturated
  ((!skip && decide (g.count < D.natAbs), g.count != expected), BitVec.ofInt 32 D, skip)

/-- A range is complete: EMIT at a vertex, the checks at a root, which hold it when they fail (R251, R254). -/
def State.redComplete (s : State) (c j i : Nat) : State :=
  let r := (s.cell c).regs
  if r.get (NI_RED_TREE_A_role.at j) < 2 then s.redEmit c j i
  else
    let g := (s.ni c).range j i
    let k := g.check (r.get (NI_RED_TREE_A_op.at j)) (r.get (NI_RED_TREE_B_expected.at j)) (signed8 (r.get (NI_RED_TREE_A_shadow_k.at j)))
    let s := if k.2.2 then s.bump c (NI_RED_TSTAT_skipped_checks.at j) else s
    if !k.1.1 && !k.1.2 then s.redEmit c j i
    else
      let s := (s.bump c (NI_RED_TSTAT_held.at j)).modNi c fun x =>
        { x.setRange j i { g with st := .held, fails := k.1, diff := k.2.1, heldNo := x.heldSeq,
                                  timer := (s.now, r.get (NI_RED_TREE_C_hold_us.at j)) } with heldSeq := x.heldSeq + 1 }
      s.post 0x05 c (heldBody j (i * fmtCount (r.redFmt j) / 8) k.1 k.2.1) 0

/-! ## Acceptance (R250, R251) -/

/-- Combines duplicated at the partner: every 64th accepted RED (R305). -/
def dupEvery : Nat := 64

/-- The partner of a cell (R303). -/
def partner (c : Nat) : Nat := if cx c % 2 = 0 then c + 1 else c - 1

/-- Duplicate an accepted combine at the partner where R305 asks for it; with a fenced partner the duplicate is dropped. -/
def State.dupStart (s : State) (c j i : Nat) : State :=
  let n := (s.ni c).accepted + 1
  let s := s.modNi c fun x => { x with accepted := n }
  if n % dupEvery = 0 && (s.block (blockOf c)).regs.flag BLK_RINSE_CTL_comb_dup && !s.fencedCell (partner c) then
    s.modNi c fun x => { x with dup := some ⟨j, i, s.ncyc⟩ }
  else s

/-- The elements of tree entry j that word a of the combine storage holds (R246): each of the 64 slots has 64 words of one hi and lo pair, then
32 words of two auxiliary values; element i lies in slot slot_base + ⌊i / 64⌋ at position i mod 64. -/
def Regs.wordElems (r : Regs) (j a : Nat) : List Nat :=
  let slot := a / 96
  let k := a % 96
  let base := r.get (NI_RED_TREE_A_slot_base.at j)
  if slot < base then [] else (if k < 64 then [k] else [2 * (k - 64), 2 * (k - 64) + 1]).map fun pos => 64 * (slot - base) + pos

/-- Poison those elements of range i, of E elements, that uncorrectable storage words hold, where they hold a value (R258). -/
def RangeRt.struck (g : RangeRt) (E i : Nat) (bad : List Nat) : RangeRt :=
  { g with accs := (List.range g.accs.length).map fun k =>
      let a := g.accs.getD k ⟨0, 0, 0, false⟩
      if bad.contains (i * E + k) && decide (0 < (g.units.getD (k / 8) ⟨0, 0, 0⟩).arrivals) then { a with poison := true } else a }

/-- Step 5 of R48 for a RED (R250, R251); `bad` names the words of the combine storage that are found uncorrectable as the range is read
(R246, R258, R299). -/
def State.redCombine (s : State) (c : Nat) (pl : Plane) (p : Packet) (bad : List Nat) : State :=
  let r := (s.cell c).regs
  let tree := p.chanTree.toNat
  match r.redEntry tree with
  | none => (s.bump c NI_RED_STAT_red_unknown).lostOn c pl
  | some j =>
    let f := bits (p.pl 38 2) 0 4
    let d := r.redFmt j
    let Ed := fmtCount d
    let Ef := fmtCount f
    let unit := p.seq.toNat
    if r.get (NI_RED_TREE_A_role.at j) = 0 || !s.redCascade c tree then (s.bump c NI_RED_STAT_red_unknown).lostOn c pl
    else if p.parterre.toNat ≠ r.get (NI_RED_TREE_A_parterre.at j) || !inChain d f || decide (8 * r.redUnits j < unit * 8 + Ef) then
      (s.bump c NI_RED_STAT_red_rejected).lostOn c pl
    else
      let i := unit * 8 / Ed
      let u0 := unit - i * Ed / 8
      let g := (s.ni c).range j i
      let ch := r.get (NI_RED_TREE_A_children.at j)
      let room := ((g.units.drop u0).take (Ef / 8)).all fun u => decide (u.arrivals < ch)
      if !(g.st == .idle || g.st == .open_) || !room then (s.bump c NI_RED_STAT_red_overrun).lostOn c pl
      else
        let hit := g.st == .open_ && bad.any fun a => (r.wordElems j a).any fun k => decide (i * Ed ≤ k) && decide (k < i * Ed + Ed)
        let s := (s.modNi c fun x => x.note dRed s.ncyc).when_ hit fun s => s.storeError c 5 true
        let g := g.struck Ed i (bad.flatMap (r.wordElems j))
        let g := if g.st = .idle then RangeRt.opened Ed s.now (r.get (NI_RED_TREE_C_timeout_us.at j)) else g
        let es := decodeAll f p.payload.toNat
        let op := r.get (NI_RED_TREE_A_op.at j)
        let a := g.absorb op u0 (redCount p) (BitVec.ofNat 32 (p.pl 40 4)) es
        let sats := a.2 + (es.filter (·.sat)).length
        let g := { a.1 with saturated := g.saturated || bits (p.pl 38 2) 6 1 == 1 || decide (0 < sats) }
        let s := (s.tagRx c (s.rxTag c p)).modCellRegs c fun r =>
          (r.addWrap (NI_BAL_RED_A_acc.at j) (redCount p * (Ef / 8))).add (NI_RED_TSTAT_saturated.at j) sats
        let s := (s.modNi c fun x => x.setRange j i g).dupStart c j i
        if g.units.all fun u => decide (ch ≤ u.arrivals) then s.redComplete c j i else s

/-- RED_EJECT: the engine accepts at most one RED per ncyc (R250). -/
def execRedEject (c : Nat) (bad : List Nat) (s : State) : Res :=
  onUnit (Instr.redEject c bad).wf s
    (if (s.ni c).didNow dRed s.ncyc then s else s.ejectType c tRED fun pl p s => s.redCombine c pl p bad)

/-- A range's contents are discarded: its count-units and the range count as lost (R251, R319). -/
def State.redLose (s : State) (c j i : Nat) : State :=
  let n := ((s.ni c).range j i).openUnits
  (s.modCellRegs c fun r => (r.addWrap (NI_BAL_RED_B_lost.at j) n).bump (NI_RED_TSTAT_lost.at j)).modNi c fun x => x.idleRange j i

/-- Has the timer of a range expired? -/
def RangeRt.due (g : RangeRt) (now : Nat) : Bool := expired now g.timer.1 g.timer.2

/-- Does a RED for range i of tree entry j wait to be combined? -/
def Cell.redWaits (x : Cell) (j i : Nat) : Bool :=
  x.ni.ejected.any fun e => e.2.type == tRED && x.regs.redEntry e.2.chanTree.toNat == some j &&
    e.2.seq.toNat * 8 / fmtCount (x.regs.redFmt j) == i

/-- RANGE_TIMEOUT (R251, R253); an arrival of the same ncyc is taken first (R265). -/
def execRangeTimeout (c j i : Nat) (s : State) : Res :=
  onUnit (Instr.rangeTimeout c j i).wf s
    (let g := (s.ni c).range j i
    if g.st ≠ .open_ || !g.due s.now || (s.cell c).redWaits j i then s
    else if g.units.all fun u => decide (0 < u.arrivals) then
      ((s.bump c (NI_RED_TSTAT_timeouts.at j)).modNi c fun x => x.setRange j i { g with short := true }).redComplete c j i
    else (s.redLose c j i).modNi c fun x =>
      x.setRange j i { RangeRt.idle with st := .shut, timer := (s.now, s.cget c (NI_RED_TREE_C_timeout_us.at j)) })

/-- HOLD_TIMEOUT (R251): a held range is delivered with its failing flag set. -/
def execHoldTimeout (c j i : Nat) (s : State) : Res :=
  onUnit (Instr.holdTimeout c j i).wf s
    (let g := (s.ni c).range j i
    if g.st = .held && g.due s.now then s.redEmit c j i else s)

/-- SHUT_TIMEOUT (R251). -/
def execShutTimeout (c j i : Nat) (s : State) : Res :=
  onUnit (Instr.shutTimeout c j i).wf s
    (let g := (s.ni c).range j i
    if g.st = .shut && g.due s.now then s.modNi c fun x => x.idleRange j i else s)

/-- The oldest held range of an NI (R272). -/
def Ni.oldestHeld (x : Ni) : Option (Nat × RangeRt) :=
  (x.ranges.filter fun e => e.2.st == .held).foldl (fun a e =>
    match a with
    | none => some e
    | some b => if e.2.heldNo < b.2.heldNo then some e else a) none

/-- The range in EMIT that completed first: the source of order 2 (R195, R252). -/
def Ni.oldestEmit (x : Ni) : Option (Nat × RangeRt) :=
  (x.ranges.filter fun e => e.2.st == .emit).foldl (fun a e =>
    match a with
    | none => some e
    | some b => if e.2.heldNo < b.2.heldNo then some e else a) none

/-! ## Result landings (R263, R264) -/

/-- Runtime of a result landing. -/
def Ni.redRt (x : Ni) (i : Nat) : RedLandRt := (aget x.redLands i).getD ⟨0, 0, false, 0, 0⟩

/-- The valid landing of a tree. -/
def Regs.redLanding (r : Regs) (tree : Nat) : Option Nat :=
  (List.range 8).find? fun i => r.flag (NI_RED_LAND_valid.at i) && r.get (NI_RED_LAND_tree.at i) == tree

/-- Step 5 of R48 for a RED_RESULT (R263). -/
def State.redResult (s : State) (c : Nat) (p : Packet) : State :=
  let r := (s.cell c).regs
  match r.redLanding p.chanTree.toNat with
  | none => s.bump c NI_RED_STAT_res_unclaimed
  | some i =>
    let m := (s.ni c).redRt i
    if m.done then s.bump c NI_RED_STAT_res_unclaimed
    else
      let g := r.get (NI_RED_LAND_base.at i) + p.seq.toNat
      match if p.parterre.toNat = r.get (NI_RED_LAND_parterre.at i) then r.window p.parterre.toNat g 1 true else none with
      | none => s.bump c NI_RED_STAT_red_rejected
      | some w =>
        let w38 := p.pl 38 2
        let u := fmtCount (bits w38 0 4) / 8
        let fl := bits w38 5 1 + 2 * bits w38 4 1 + 4 * bits w38 6 1 + 8 * bits w38 7 1 + 16 * bits w38 8 1
        let m' : RedLandRt := ⟨m.landed + u, if p.last = 1 then p.seq.toNat + u else m.expected, false,
          m.flags ||| BitVec.ofNat 5 fl, m.pend + 1⟩
        (s.tagRx c (s.rxTag c p)).modCell c fun x => { x with
          cm := mwriteList x.cm (r.windowAddr w g) p.plBytes
          ni := ({ x.ni with redLands := aput x.ni.redLands i m' } : Ni).request true (.redLand i) }

/-- A write of result landing i is visible (R263). -/
def State.redVisible (s : State) (c i : Nat) : State :=
  let m := (s.ni c).redRt i
  let pend := m.pend - 1
  let done := m.done || (pend == 0 && m.expected != 0 && m.landed == m.expected)
  let s := s.modNi c fun x => { x with redLands := aput x.redLands i { m with pend := pend, done := done } }
  if done && !m.done && (s.cell c).regs.flag (NI_RED_LAND_notify.at i) then s.strobe c (84 + i) else s

/-- RED_RESULT_EJECT. -/
def execRedResultEject (c : Nat) (s : State) : Res :=
  onUnit (Instr.redResultEject c).wf s (s.ejectType c tRED_RESULT fun _ p s => s.redResult c p)

/-- The word of CQ_RED_LAND(i) (R264). -/
def RedLandRt.word (m : RedLandRt) : W64 :=
  BitVec.ofNat 64 (m.landed % 2 ^ 13 + m.expected % 2 ^ 13 * 2 ^ 13 + m.done.toNat * 2 ^ 26 + m.flags.toNat * 2 ^ 27)

/-- Re-arm result landing i: writes still outstanding belong to the pass that has ended (R264, R265). -/
def Ni.redRearm (x : Ni) (i : Nat) : Ni :=
  { x with
    redLands := aput x.redLands i ⟨0, 0, false, 0, 0⟩
    cmReqs := mapIf (fun q => q.use == .redLand i) CmReq.forgetLanding x.cmReqs }

/-- What a core's access to a result landing does (R264). -/
def State.redAccess (s : State) (c core i : Nat) (a : LandAccess) : State :=
  match a with
  | .rearm => s.writeAccess c core (.cqRedRearm c core i a) fun s => s.modNi c fun x => x.redRearm i
  | .read => s.access c core (.cqRedRearm c core i a) fun s => s.respond c core ((s.ni c).redRt i).word

/-- CQ_RED_REARM, or the read of CQ_RED_LAND (log 50). -/
def execCqRedRearm (c core i : Nat) (a : LandAccess) (s : State) : Res :=
  onUnit (Instr.cqRedRearm c core i a).wf s (s.redAccess c core i a)

/-! ## Cross-checks (R304, R305) -/

/-- The unfenced reference of the engine at a cell (R304). -/
def State.reference (s : State) (c : Nat) : Option Nat :=
  let at_ (y : Nat) := mkCell (cx c) y
  let a := at_ (cy c ^^^ 1)
  let b := at_ (cy c ^^^ 2)
  if !s.fencedCell a then some a else if !s.fencedCell b then some b else none

/-- The even cell of a pair. -/
def pairOf (c : Nat) : Nat := if cx c % 2 = 0 then c else c - 1

/-- COMB_TEST_TICK (R304): a random-operand test is sent to every pair of the block, once in 2^20 ncyc while comb_test is set. -/
def execCombTestTick (b : Nat) (s : State) : Res :=
  onUnit (Instr.combTestTick b).wf s
    (if (s.block b).regs.flag BLK_RINSE_CTL_comb_test && s.now % 2 ^ 20 == 0 && !(s.block b).ctlReset then
      s.modBlock b fun x => { x with combPend := (blockCells b).filter fun c => cx c % 2 == 0 }
    else s)

/-- What a confirmed combine fault does (R296, R304). -/
def State.combFence (s : State) (c : Nat) : State :=
  (s.modCellRegs c fun r => r.strike CELL_FAULT_combine_fault 0).byController (blockOf c) (mkRec 4 1 c 4 0 0 0) fun s => s.fenceCell c 4 4 0 0

/-- The element data of a packet in its format with every element poisoned, as R258 encodes it. -/
def poisonData (f data : Nat) : Nat :=
  match f with
  | 6 => (List.range 4).foldl (fun a j => setBits a (8 * (9 * j + 1)) 64 (packBits 2 (List.replicate 32 2))) data
  | 7 => packBits 16 (List.replicate 16 0x7FC0)
  | 8 => packBits 32 (List.replicate 8 0x7FC00000)
  | _ => (List.range (fmtCount f / 32)).foldl (fun a j => setBits a (8 * (j * blockBytes f)) 8 255) data

/-- An output packet of a range whose elements are all poisoned after it was formed (R258, R305). -/
def Packet.poison (p : Packet) : Packet :=
  let d := poisonData (bits (p.pl 38 2) 0 4) p.payload.toNat
  ({ p with payload := BitVec.ofNat 384 (setBits d 309 1 1) } : Packet).seal

/-- COMB_TEST_DIGEST (R304): the digests of the pair of a cell, and of the repeats against the references. -/
def execCombTestDigest (c : Nat) (agree refW refE : Bool) (s : State) : Res :=
  onUnit (Instr.combTestDigest c agree refW refE).wf s
    (let w := pairOf c
    let b := blockOf c
    if !(s.block b).combPend.contains w then s
    else
      let s := s.modBlock b fun x => { x with combPend := removeFrom x.combPend w }
      if agree then s
      else
        let okW := refW && (s.reference w).isSome
        let okE := refE && (s.reference (w + 1)).isSome
        let d := ((aget ((s.ni w).retest.map fun e => (e.1, e.2)) 0).getD (0, 0))
        let s := s.modNi w fun x => { x with retest := x.retest.filter fun e => e.1 != 0 }
        if okW && okE then s.blockRecord b (mkRec 4 1 w 4 0 0 (d.1.toNat + d.2.toNat * 4096))
        else
          let s := if okW then s else s.combFence w
          if okE then s else s.combFence (w + 1))

/-- COMB_DUP_DIGEST (R305): differing digests poison the range and have the pair tested. -/
def execCombDupDigest (c : Nat) (agree : Bool) (s : State) : Res :=
  onUnit (Instr.combDupDigest c agree).wf s
    (match (s.ni c).dup with
    | none => s
    | some d =>
      let s := s.modNi c fun x => { x with dup := none }
      if agree then s
      else
        let b := blockOf c
        let r := (s.cell c).regs
        let tree := r.get (NI_RED_TREE_A_tree.at d.tree)
        let seq := d.range * fmtCount (r.redFmt d.tree) / 8
        let g := (s.ni c).range d.tree d.range
        let clean := (g.outp.filter fun p => !Packet.poisoned p).length
        let s := if g.st = .idle ∨ g.st = .shut then s else s.modNi c fun x =>
          x.setRange d.tree d.range { g with accs := g.accs.map fun a => { a with poison := true }, outp := g.outp.map Packet.poison }
        let s := s.modCellRegs c fun r => r.add (NI_RED_TSTAT_poisoned.at d.tree) clean
        let s := s.modBlockRegs b fun r => r.bump BLK_RINSE_STAT_comb_mismatch
        let s := s.blockRecord b (mkRec 4 1 c 4 0 0 (tree + seq * 4096))
        let s := s.modNi (pairOf c) fun x => { x with retest := (0, BitVec.ofNat 12 tree, BitVec.ofNat 12 seq) :: x.retest.filter fun e => e.1 != 0 }
        s.modBlock b fun x => { x with combPend := addTo x.combPend (pairOf c) })

/-- COMB_DUP_TIMEOUT (R305): no free ncyc of the partner within 16 ncyc. -/
def execCombDupTimeout (c : Nat) (s : State) : Res :=
  onUnit (Instr.combDupTimeout c).wf s
    (match (s.ni c).dup with
    | none => s
    | some d => if s.ncyc < d.since + 16 then s else s.modNi c fun x => { x with dup := none })

end Sys2Proof.Machine
end

