-- ==== Sys2Proof/Machine/Bulk.lean ====
section
/-! DEFINITION. Bulk transfers at the NI (R167 to R184): descriptors, their checks and their start, tranches, reads, the answers to
them, and the responses of the cluster port (R497, R498). -/

namespace Sys2Proof.Machine

/-! ## Descriptors (R173 to R175) -/

/-- Bits [lo + len − 1 : lo] of word i of a descriptor. -/
def dword (ws : List W64) (i lo len : Nat) : Nat := bits (ws.getD i 0).toNat lo len

/-- When PI passed the descriptor of an index (R113). -/
def RingRt.postedAt (x : RingRt) (idx : BitVec 16) : Nat :=
  ((x.posts.find? fun e => decide ((idx - x.ci).toNat < (e.1 - x.ci).toNat)).map (·.2)).getD 0

/-- The packets a descriptor moves (R53, R174). -/
def descPackets (op length : Nat) : Nat :=
  if op = 3 then (if 40 < length then 1 + (length - 40 + 47) / 48 else 1) else (length + 47) / 48

/-- The descriptor that words spell. -/
def Desc.ofWords (id ring posted : Nat) (idx : BitVec 16) (ws : List W64) : Desc :=
  { id := id, ring := ring, idx := idx, op := dword ws 0 0 4, notify := dword ws 0 6 1 != 0, length := dword ws 0 8 32,
    chanTree := BitVec.ofNat 12 (dword ws 0 40 12), handler := BitVec.ofNat 12 (dword ws 0 52 12),
    peerChip := BitVec.ofNat 13 (dword ws 1 14 13), peerCell := BitVec.ofNat 14 (dword ws 1 0 14), peerWire := 0,
    localG := dword ws 2 0 24, remoteG := dword ws 2 32 24, tag := BitVec.ofNat 32 (dword ws 3 0 32),
    n := descPackets (dword ws 0 0 4) (dword ws 0 8 32), taken := 0, injected := 0, confirmed := 0, nacked := 0, closed := 0,
    unsent := false, stop := false, fail := none, tracker := none, slipped := false, done := false, status := 0, reason := 0,
    posted := posted }

/-- The granules of a descriptor's local side (R174). -/
def Desc.granules (d : Desc) : Nat := (d.length + 47) / 48

/-- First check of R174: op, cls and reserved fields legal, handler zero except for MSG. READ and MSG carry no class 0 (R39). -/
def descLegal (ring : Nat) (ws : List W64) : Bool :=
  let op := dword ws 0 0 4
  let cls := dword ws 0 4 1
  decide (1 ≤ op) && decide (op ≤ 5) && cls == (if ring < 4 then 1 else 0) && !(cls == 0 && (op == 2 || op == 3)) &&
  dword ws 0 7 1 == 0 && dword ws 1 27 37 == 0 && dword ws 2 24 8 == 0 && dword ws 2 56 8 == 0 && dword ws 3 32 32 == 0 &&
  dword ws 4 0 64 == 0 && dword ws 5 0 64 == 0 && (op == 3 || dword ws 0 52 12 == 0)

/-- The greatest length of an op (R174); a RED's is given by its tree (R247). -/
def opLimit (op : Nat) : Nat :=
  match op with
  | 3 => 65536
  | 4 => 196608
  | _ => 805306368

/-- May a source send an MCAST on a tree from a root cell (R232)? -/
def State.mcSource (s : State) (c tree : Nat) : Bool :=
  let e := (s.rt c).cascade tree
  cascOk e 0 && bits e 10 1 == 0

/-- What the checks of R174 find: a failure, or the peer in the form in which answers arrive (R182) with a destination. -/
inductive DescCheck where
  | bad (status reason : Nat)
  | wait
  | good (chip : BitVec 13) (wire : BitVec 14)
deriving DecidableEq, Repr

/-- The verdict on an endpoint (R22). -/
def peerCheck (chip cell : Nat) (p : PeerIs) : DescCheck :=
  match p with
  | .invalid => .bad stREFUSED rMALFORMED
  | .vacant => .bad stREFUSED rFENCED
  | .local_ phys => .good (BitVec.ofNat 13 chip) (BitVec.ofNat 14 phys)
  | .remote => .good (BitVec.ofNat 13 chip) (BitVec.ofNat 14 cell)

/-- The last check of R174, on the peer, the channel or the tree (R22, R138, R232, R247). -/
def State.checkPeer (s : State) (c : Nat) (d : Desc) : State × DescCheck :=
  let own : DescCheck := .good s.chipId (BitVec.ofNat 14 c)
  match d.op with
  | 3 =>
    match aget (s.ni c).chans d.chanTree.toNat with
    | none => (s.modNi c fun x => x.fetch d.chanTree.toNat [], .wait)
    | some k =>
      if k.e.state ≠ chOPEN then (s, .bad stREFUSED rCLOSED)
      else if k.e.resolved then (s, own)
      else
        let r := s.peerIs c k.e.peerChip.toNat k.e.peerCell.toNat
        (r.1, peerCheck 0 0 r.2)
  | 4 => (s, if s.mcSource c d.chanTree.toNat then own else .bad stREFUSED rCLOSED)
  | 5 =>
    match s.redSource c d.chanTree.toNat with
    | none => (s, .bad stREFUSED rCLOSED)
    | some j =>
      let r := (s.cell c).regs
      if r.flag (NI_RED_TREE_A_local.at j) then (s, own)
      else
        let ep := r.get (NI_RED_TREE_B_up_ep.at j)
        let q := s.peerIs c (ep / 2 ^ 14) (ep % 2 ^ 14)
        (q.1, peerCheck (ep / 2 ^ 14) (ep % 2 ^ 14) q.2)
  | _ =>
    let q := s.peerIs c d.peerChip.toNat d.peerCell.toNat
    (q.1, peerCheck d.peerChip.toNat d.peerCell.toNat q.2)

/-- Is a RED's length the one its tree asks for (R247)? -/
def Regs.redLength (r : Regs) (d : Desc) : Bool :=
  match r.redEntry d.chanTree.toNat with
  | none => true
  | some j => d.length == 48 * r.redPackets j

/-- The checks of R174 in their order. -/
def State.checkDesc (s : State) (c : Nat) (d : Desc) (ws : List W64) : State × DescCheck :=
  let r := (s.cell c).regs
  if !descLegal d.ring ws then (s, .bad stBADDESC 0)
  else if d.length = 0 then (s, .good 0 0)
  else if opLimit d.op < d.length || (d.op == 5 && !r.redLength d) then (s, .bad stBADDESC 0)
  else if (r.window (s.cell c).owner.toNat d.localG d.granules (d.op == 2)).isNone then (s, .bad stLOCAL 0)
  else if (d.op == 1 || d.op == 2) &&
      (decide (2 ^ 24 < d.remoteG + d.n) || (decide (d.remoteG < 0x800000) && decide (0x800000 < d.remoteG + d.n))) then
    (s, .bad stRANGE 0)
  else s.checkPeer c d

/-- The first injections a descriptor makes: RD_REQs of a READ, packets of any other (R175). -/
def Desc.total (d : Desc) : Nat := if d.op = 2 then readReqs d.n else d.n

/-- Has a descriptor injected every packet it will inject (R175)? One whose packets take tokens has once none of them waits. -/
def Ni.descIn (x : Ni) (d : Desc) : Bool :=
  d.done || d.length == 0 ||
  if d.op = 2 ∨ d.op = 3 then
    (d.stop || decide (d.total ≤ d.taken)) && !(x.tokens.any fun e => e.2.st == .queued &&
      match e.2.use with
      | .msg _ _ id => id == some d.id
      | .read id .. => id == d.id)
  else d.stop || decide (d.n ≤ d.injected)

/-- The 64-granule blocks two descriptors' remote ranges share at one peer (R175). -/
def Desc.meets (a b : Desc) : Bool :=
  (a.op == 1 || a.op == 2) && (b.op == 1 || b.op == 2) && a.length != 0 && b.length != 0 && !a.done && a.peerChip == b.peerChip && a.peerWire == b.peerWire &&
  decide (a.remoteG / 64 ≤ (b.remoteG + b.n - 1) / 64) && decide (b.remoteG / 64 ≤ (a.remoteG + a.n - 1) / 64)

/-- Trackers of an NI (R175). -/
def trackers : Nat := 32

/-- Do the conditions of R175 let a checked descriptor start? -/
def Ni.mayStart (x : Ni) (d : Desc) (fence : Bool) : Bool :=
  d.length == 0 ||
  ((!fence || !(x.descs.any fun k => k.ring == d.ring)) &&
   decide ((x.descs.filter fun k => !k.done && k.length != 0).length < trackers) && !(x.descs.any fun k => k.meets d))

/-- Take the descriptor at the head of a ring as started: the next one is read (R172). -/
def State.enlist (s : State) (c : Nat) (d : Desc) : State :=
  s.modNi c fun x =>
    ({ x with descs := x.descs ++ [d], nextId := x.nextId + 1 }.modRing d.ring fun k =>
      { k with next := k.next + 1, fetched := none, bad := false,
               posts := k.posts.filter fun e => decide ((d.idx + 1 - k.ci).toNat < (e.1 - k.ci).toNat) }).readDesc d.ring

/-- The packets a stream that has slipped still owes to the request plane (R114). -/
def Ni.owed (x : Ni) (st : Nat) : Nat := ((aget x.slips st).map (·.owed)).getD 0

/-- Start the next descriptor of a ring (R174, R175). -/
def State.startDesc (s : State) (c r : Nat) : State :=
  let x := s.ni c
  let k := x.ring r
  if x.hold ≠ .none || x.descs.any fun d => d.ring == r && !x.descIn d then s else
  if k.bad then
    let d := Desc.ofWords x.nextId r 0 k.next []
    (s.enlist c d).completeDesc c d.id stBADDESC 0
  else match k.fetched with
    | none => s
    | some ws =>
      let d := Desc.ofWords x.nextId r (k.postedAt k.next) k.next ws
      let q := s.checkDesc c d ws
      match q.2 with
      | .wait => q.1
      | .bad st re => (q.1.enlist c d).completeDesc c d.id st re
      | .good chip wire =>
        let owed := if r < 4 then 0 else x.owed (r - 4)
        let d := { d with peerChip := chip, peerWire := wire, slipped := decide (0 < owed) && d.length != 0 }
        if !x.mayStart d (dword ws 0 5 1 == 1) then q.1
        else
          let s := q.1.enlist c d
          let s := if d.slipped then s.modNi c fun x => { x with slips := x.slips.map fun e =>
              if e.1 = r - 4 then (e.1, { e.2 with owed := e.2.owed - d.n }) else e } else s
          if d.length = 0 then s.advanceCi c r ((s.ni c).descs.length + 1) else s

/-- DESCRIPTOR_START. -/
def execDescriptorStart (c r : Nat) (s : State) : Res := onUnit (Instr.descriptorStart c r).wf s (s.startDesc c r)

/-! ## Writes at the destination (R170, R177) -/

/-- Entries of an NI's tranche table (R177). -/
def trancheSize : Nat := 32

/-- A WR joins its tranche. An entry that is due stays joinable while it counts fewer than 64; entries that are due stand outside
the table's size (log 24). -/
def joinTranche (l : List Tranche) (id size now cell : Nat) (p : Packet) (tag : W32) : List Tranche × Nat :=
  let mine (t : Tranche) : Bool := t.srcChip == p.srcChip && t.srcCell == p.srcCell && t.cls == p.cls && t.block == p.granule / 64 &&
    t.cell == cell && decide (t.count < 64) && !t.bad
  match l.find? mine with
  | some t =>
    (mapIf (fun k => k.id == t.id) (fun k =>
      { k with count := k.count + 1, cmark := k.cmark ||| p.cmark, joined := now, due := k.due || k.count == 63, pend := k.pend + 1 }) l, t.id)
  | none =>
    let live := l.filter fun t => !t.due
    let oldest := live.foldl (fun (a : Option Tranche) t =>
      match a with
      | none => some t
      | some b => if t.joined < b.joined then some t else a) none
    let l := match oldest with
      | some o => if size ≤ live.length then mapIf (fun k => k.id == o.id) (fun k => { k with due := true }) l else l
      | none => l
    (l ++ [⟨id, p.srcChip, p.srcCell, p.cls, p.granule / 64, p.parterre, cell, 1, p.cmark, tag, now, false, 1, false⟩], id)

/-- A write of a tranche is visible, or came back with an error, which withholds its COMPL (R177, R498, R502). -/
def landTranche (l : List Tranche) (id : Nat) (err : Bool) : List Tranche :=
  (mapIf (fun t => t.id == id) (fun t => { t with pend := t.pend - 1, bad := t.bad || err }) l).filter fun t => !(t.bad && t.pend == 0)

/-- The COMPL of a tranche (R55, R177). -/
def Tranche.compl (t : Tranche) (chip : BitVec 13) (cell : BitVec 14) : Packet :=
  let g := t.block * 64
  ({ Packet.blank with
      type := tCOMPL, cls := t.cls, echo := t.cmark, dstChip := t.srcChip, dstCell := t.srcCell, srcChip := chip, srcCell := cell,
      chanTree := BitVec.ofNat 12 (g / 4096), seq := BitVec.ofNat 12 (g % 4096), length := 8, parterre := t.parterre,
      payload := BitVec.ofNat 384 (t.count + t.tag.toNat * 2 ^ 32) } : Packet).seal

/-- Step 5 of R48 for a WR (R170, R177). -/
def State.wrLand (s : State) (c : Nat) (pl : Plane) (p : Packet) : State :=
  let r := (s.cell c).regs
  match r.window p.parterre.toNat p.granule 1 true with
  | none =>
    let s := s.bump c NI_BULK_STAT_window_fault
    if pl = .sched then s.lostOn c pl else s.nack c p rWINDOW p.granule
  | some w =>
    (s.tagRx c (s.rxTag c p)).modCell c fun x =>
      let j := joinTranche x.ni.tranches x.ni.nextId trancheSize s.ncyc 0 p (BitVec.ofNat 32 (x.regs.get (NI_WIN_TAG_tag.at w)))
      { x with
        cm := mwriteList x.cm (r.windowAddr w p.granule) (p.plBytes.take p.length.toNat)
        ni := ({ x.ni with tranches := j.1, nextId := x.ni.nextId + 1 } : Ni).request true (.tranche j.2) }

/-- WR_EJECT. -/
def execWrEject (c : Nat) (s : State) : Res :=
  onUnit (Instr.wrEject c).wf s (s.ejectType c tWR fun pl p s => s.wrLand c pl p)

/-- TRANCHE_FLUSH (R177): entry i is due once no WR has joined it for flush_ncyc. -/
def execTrancheFlush (c i : Nat) (s : State) : Res :=
  onUnit (Instr.trancheFlush c i).wf s
    (match (s.ni c).tranches[i]? with
    | none => s
    | some t =>
      if s.ncyc < t.joined + s.cget c NI_BULK_CTL_flush_ncyc then s
      else s.modNi c fun x => { x with tranches := mapIf (fun k => k.id == t.id) (fun k => { k with due := true }) x.tranches })

/-- TRANCHE_COMPL_SEND (R70, R177): a tranche that is due and written sends its COMPL through the answer queue, one in an ncyc. -/
def execTrancheComplSend (c : Nat) (s : State) : Res :=
  onUnit (Instr.trancheComplSend c).wf s
    (match (s.ni c).tranches.find? fun t => t.due && t.pend == 0 && !t.bad with
    | none => s
    | some t =>
      if (s.ni c).hold ≠ .none || (s.ni c).didNow dCompl s.ncyc || !s.answerFree c then s
      else
        (s.modNi c fun x => { x with tranches := x.tranches.filter fun k => k.id != t.id }.note dCompl s.ncyc).answer c
          (t.compl s.chipId (BitVec.ofNat 14 c)))

/-! ## Reads (R170, R178, R179, R197) -/

/-- The fields of an RD_REQ (R55): land_granule, packets, last_len. -/
def rdFields (p : Packet) : Nat × Nat × Nat := (p.pl 0 3, p.pl 3 1 + 1, p.pl 4 1)

/-- The lowest granule of an RD_REQ that fails R170, given the granules of the window that follow its first. -/
def rdFails (g land_ n room : Nat) : Option Nat :=
  (List.range n).find? (fun i => decide (room ≤ i) || decide (2 ^ 24 ≤ land_ + i)) |>.map (g + ·)

/-- RD_REQs an NI answers at a time (R197). -/
def serveSize : Nat := 32

/-- Δ of a flow of weight w (R198). -/
def delta (w : Nat) : W32 := BitVec.ofNat 32 (65536 / (if w = 0 then 1 else w))

/-- Step 5 of R48 for an RD_REQ (R170, R179, R197): the data is read where the window that it passed lay. -/
def State.rdTake (s : State) (c : Nat) (p : Packet) : State :=
  let r := (s.cell c).regs
  let g := p.granule
  let f := rdFields p
  let w := r.window p.parterre.toNat g 1 false
  let room := match w with
    | none => 0
    | some w => r.get (NI_WIN_A_base.at w) + r.get (NI_WIN_A_count_m1.at w) + 1 - g
  match rdFails g f.1 f.2.1 room with
  | some b => (s.bump c NI_BULK_STAT_window_fault).nack c p rWINDOW (b % 2 ^ 24)
  | none =>
    if serveSize ≤ (s.ni c).serves.length then (s.bump c NI_SHAPE_STAT_rd_refused).nack c p rQUEUEFULL 0xFFFFFFFF
    else (s.tagRx c (s.rxTag c p)).modNi c fun x =>
      { x with serves := x.serves ++ [⟨x.nextId, p, g, f.1, f.2.1, f.2.2, r.windowAddr (w.getD 0) g, 0, 0, x.vRep + delta 1, s.ncyc⟩], nextId := x.nextId + 1 }

/-- RD_REQ_EJECT. -/
def execRdReqEject (c : Nat) (s : State) : Res :=
  onUnit (Instr.rdReqEject c).wf s (s.ejectType c tRD_REQ fun _ p s => s.rdTake c p)

/-- Is a granule in a quarantined range (R179)? -/
def Ni.quarantined (x : Ni) (g : Nat) : Bool := x.quarantine.any fun q => decide (q.1 ≤ g) && decide (g < q.2.1)

/-- Step 5 of R48 for an RD_DATA (R170, R178, R179). -/
def State.rdLand (s : State) (c : Nat) (p : Packet) : State :=
  let r := (s.cell c).regs
  let g := p.granule
  match r.window p.parterre.toNat g 1 true with
  | none => s.bump c NI_BULK_STAT_window_fault
  | some w =>
    match (s.ni c).readToken (p.srcChip, p.srcCell) g with
    | none => s.bump c NI_BULK_STAT_stray_reply
    | some (_, tk) =>
      match tk.use with
      | .msg .. => s
      | .read _ land_ count _ lastLen _ =>
        if (s.ni c).quarantined g then s.bump c NI_BULK_STAT_stray_reply
        else if p.length.toNat ≠ (if g + 1 = land_ + count then lastLen else 48) then s.bump c NI_RX_CHECK_malformed
        else (s.tagRx c (s.rxTag c p)).modCell c fun x => { x with
          cm := mwriteList x.cm (r.windowAddr w g) (p.plBytes.take p.length.toNat)
          ni := x.ni.request true (.readData tk.order) }

/-- RD_DATA_EJECT. -/
def execRdDataEject (c : Nat) (s : State) : Res :=
  onUnit (Instr.rdDataEject c).wf s (s.ejectType c tRD_DATA fun _ p s => s.rdLand c p)

/-- The data of an RD_DATA is written: it counts toward its token, which closes on the last (R178). -/
def State.readCounts (s : State) (c order : Nat) : State :=
  match (s.ni c).tokens.find? fun e => e.2.isOpen && e.2.order == order with
  | none => s
  | some (t, tk) =>
    match tk.use with
    | .msg .. => s
    | .read d land_ count got ll g =>
      let s := s.modNi c fun x => ({ x with
        tokens := aput x.tokens t { tk with use := .read d land_ count (got + 1) ll g } } : Ni).modDesc d fun k =>
          { k with confirmed := k.confirmed + 1 }
      if count ≤ got + 1 then s.closeToken c t .data 0 0 else s

/-! ## Completions (R180 to R182, R205) -/

/-- The weir credit of a ring brought up to date (R199). -/
def State.ringCredit (s : State) (c r : Nat) : W32 :=
  let g := (s.cell c).regs
  let k := (s.ni c).ring r
  BitVec.ofNat 32 (weirCredit (g.get (NI_RING_WEIR_rate.at r)) (g.get (NI_RING_WEIR_burst.at r)) (g.get (NI_RING_WEIR_cc_mult.at r))
    k.credit.toNat (s.now32 - k.upd).toNat)

/-- A COMPL acts on its ring's m (R205). -/
def State.ringMult (s : State) (c r : Nat) (echo : Bool) : State :=
  let g := (s.cell c).regs
  if 4 ≤ r || !g.flag NI_CC_CTL_cc_en then s else
  let a := ccAnswer g (g.get (NI_RING_WEIR_cc_mult.at r)) (g.get (NI_RING_WEIR_cut_skip.at r)) echo
  let s := s.modCellRegs c fun g => (g.set (NI_RING_WEIR_cc_mult.at r) a.1).set (NI_RING_WEIR_cut_skip.at r) a.2.1
  if a.2.2 then s.bump c NI_SHAPE_STAT_cuts else s

/-- COMPL_EJECT (R182). -/
def execComplEject (c : Nat) (s : State) : Res :=
  onUnit (Instr.complEject c).wf s (s.ejectType c tCOMPL fun _ p s =>
    let s := s.countEcho c p
    match (s.ni c).tracker (p.srcChip, p.srcCell) p.granule (p.granule + 63) p.cls.toNat with
    | none => s.bump c NI_BULK_STAT_stray_reply
    | some d =>
      ((((s.tagRx c d.tag).modNi c fun x => x.modDesc d.id fun d => { d with confirmed := d.confirmed + p.pl 0 2 }).ringMult c d.ring
        (p.echo == 1)).rearmTracker c d.id).checkWrite c d.id)

/-- TRACKER_TIMEOUT (R180): the WRITE of started descriptor i completes INCOMPLETE. -/
def execTrackerTimeout (c i : Nat) (s : State) : Res :=
  onUnit (Instr.trackerTimeout c i).wf s
    (match (s.ni c).descs[i]? with
    | none => s
    | some d =>
      match d.tracker with
      | none => s
      | some (t0, t) => if d.done || !expired s.now t0 t then s else s.completeDesc c d.id stINCOMPLETE 0)

/-- QUARANTINE_EXPIRE (R179). -/
def execQuarantineExpire (c : Nat) (s : State) : Res :=
  onUnit (Instr.quarantineExpire c).wf s
    (s.modNi c fun x => { x with quarantine := x.quarantine.filter fun q => !decide (q.2.2 ≤ s.now) })

/-! ## Responses of the cluster port (R497, R498) -/

/-- Data read for a packet came back with an error: its crc is inverted, so that the destination discards it; an RD_DATA's request is
refused when its turn comes (R498). -/
def Ni.spoil (x : Ni) (id : Nat) : Ni :=
  let flip (p : Packet) : Packet := { p with crc := ~~~p.crc }
  let head (h : Option Head) : Option Head := h.map fun h => if h.id = id then { h with pkt := flip h.pkt } else h
  let serve := match x.headRep with
    | some h => decide (h.id = id)
    | none => false
  if serve then { x with badReads := x.badReads ++ [id] }
  else { x with
    headReq := head x.headReq
    fountain := mapIf (fun f => f.id == id) (fun f => { f with pkt := flip f.pkt }) x.fountain
    tokens := x.tokens.map fun e => (e.1, if e.2.order = id then { e.2 with pkt := flip e.2.pkt } else e.2) }

/-- What a response completes. -/
def State.cmDone (s : State) (c : Nat) (use : CmUse) (write err : Bool) : State :=
  let s := if write && err then s.storeError c 0 false else s
  match use with
  | .tranche id => s.modNi c fun x => { x with tranches := landTranche x.tranches id err }
  | .readData o => if err then s else s.readCounts c o
  | .mcLand i => if err then s else s.mcVisible c i
  | .redLand i => if err then s else s.redVisible c i
  | .descriptor r =>
    s.modCell c fun x =>
      let a := descAddr x.regs r (x.ni.ring r).next
      { x with ni := x.ni.modRing r fun k =>
          { k with fetching := false, bad := err
                   fetched := if err then none else some ((List.range 8).map fun i => mreadWord x.cm (a + 8 * i)) } }
  | .packet id => if err then s.modNi c fun x => x.spoil id else s
  | .oldLand => s

/-- CLUSTER_MEMORY_RESPONSE (R497, R498); one that answers no outstanding request counts as a storage error (R520). -/
def execClusterMemoryResponse (c tag : Nat) (err : Bool) (s : State) : Res :=
  onUnit (Instr.clusterMemoryResponse c tag err).wf s
    (match (s.ni c).cmReqs.find? fun q => q.tag == tag with
    | none => s.storeError c 0 true
    | some q =>
      (s.modNi c fun x => { x with cmReqs := dropFirst (fun q => q.tag == tag) x.cmReqs }).cmDone c q.use q.write err)

end Sys2Proof.Machine
end

