-- ==== Sys2Proof/Machine/Gateways.lean ====
section
/-! DEFINITION. Memory gateways (R169, R170, R177, R185 to R187, R197, R202, R204, R226, R231, R502, R521): requests at the edge
outputs, stack requests and responses, presentation on the edge inputs, stream rings, and the side-band of the cistern. -/

namespace Sys2Proof.Machine

/-! ## Windows and buckets -/

/-- The window of a gateway that holds granules g to g + n − 1 of cell position k for a parterre and grants a permission (R168, R170,
R191). -/
def Regs.gwWindow (r : Regs) (k parterre g n : Nat) (wr : Bool) : Option Nat :=
  (List.range 64).find? fun w =>
    r.flag (CHP_MGW_WIN_A_valid.at w) && r.get (CHP_MGW_WIN_A_cell.at w) == k && r.get (CHP_MGW_WIN_A_parterre.at w) == parterre &&
    r.flag (if wr then CHP_MGW_WIN_A_wr.at w else CHP_MGW_WIN_A_rd.at w) &&
    decide (r.get (CHP_MGW_WIN_A_base.at w) ≤ g) &&
    decide (g + n ≤ r.get (CHP_MGW_WIN_A_base.at w) + r.get (CHP_MGW_WIN_A_count_m1.at w) + 1)

/-- The stack byte of granule g in window w (R168). -/
def Regs.gwAddr (r : Regs) (w g : Nat) : Nat :=
  r.get (CHP_MGW_WIN_B_addr.at w) * 16 + 48 * (g - r.get (CHP_MGW_WIN_A_base.at w))

/-- A gateway-side spillway bucket meets one packet of a parterre (R202): whether it is dropped, and the bucket after. A bucket not
listed is full. -/
def State.gwPolice (s : State) (buckets : Assoc (W64 × W32)) (parterre : Nat) : Bool × Assoc (W64 × W32) :=
  let cls := s.classOf parterre
  let rate := s.chip.regs.was (CHP_SPILL_CLASS_gw_rate.at cls)
  let burst := s.chip.regs.was (CHP_SPILL_CLASS_gw_burst.at cls)
  if parterre = 0 ∨ rate = 0 then (false, buckets)
  else
    let c := match aget buckets parterre with
      | some (c, t) => weirCredit rate burst 65536 c.toNat (s.now32 - t).toNat
      | none => burstCredit burst
    if onePacket ≤ c then (false, aput buckets parterre (BitVec.ofNat 64 (c - onePacket), s.now32))
    else (true, aput buckets parterre (BitVec.ofNat 64 c, s.now32))

/-! ## Requests (R170, R177, R197, R502) -/

/-- A stack request is issued (R502). -/
def State.stackAsk (s : State) (g addr : Nat) (use : StackUse) (write : Bool) : State :=
  let t := freshTag ((s.gw g).reqs.map (·.tag))
  (s.modGw g fun x => { x with reqs := x.reqs ++ [⟨t, addr, use⟩] }).emit (if write then .stackWrite g t addr else .stackRead g t addr)

/-- An answer waits for its presentation at a cell position (R521). -/
def State.gwAnswer (s : State) (g k : Nat) (p : Packet) : State := s.modGw g fun x => { x with answers := x.answers ++ [(k, p)] }

/-- A gateway refuses a packet; one of the scheduled plane is never answered (R111). -/
def State.gwRefuse (s : State) (g k : Nat) (pl : Plane) (p : Packet) (reason detail : Nat) : State :=
  if pl = .sched then s else s.gwAnswer g k (nackFor p reason detail)

/-- Take the first request of a type at a cell position, with the checks of R48 that a gateway makes. -/
def State.gwRequest (s : State) (g k : Nat) (t : BitVec 4) (f : State → GwArrival → State) : State :=
  match (s.gw g).inq.find? fun a => a.k == k && a.pkt.type == t with
  | none => s
  | some a =>
    let s := s.modGw g fun x => { x with inq := dropFirst (fun a => a.k == k && a.pkt.type == t) x.inq }
    if a.pkt.crc ≠ a.pkt.crcOf then s
    else if !pktLegal a.pkt a.plane then s.gwRefuse g k a.plane a.pkt rMALFORMED 4
    else f s a

/-- Entries of a gateway's tranche table (R177). -/
def gwTrancheSize : Nat := 64

/-- GATEWAY_WR (R170, R177). -/
def execGatewayWr (g k : Nat) (s : State) : Res :=
  onUnit (Instr.gatewayWr g k).wf s (s.gwRequest g k tWR fun s a =>
    let p := a.pkt
    let r := (s.gw g).regs
    match r.gwWindow k p.parterre.toNat p.granule 1 true with
    | none => (s.modGwRegs g fun r => r.bump CHP_MGW_STAT_window_fault).gwRefuse g k a.plane p rWINDOW p.granule
    | some w =>
      let addr := r.gwAddr w p.granule
      let j := joinTranche (s.gw g).tranches (s.gw g).nextId gwTrancheSize s.ncyc k p 0
      (s.modGw g fun x => { x with
        stack := mwriteList x.stack addr (p.plBytes.take p.length.toNat), tranches := j.1, nextId := x.nextId + 1 }).stackAsk g addr
          (.tranche j.2) true)

/-- GATEWAY_RD_REQ (R170): one stack read for each granule. -/
def execGatewayRdReq (g k : Nat) (s : State) : Res :=
  onUnit (Instr.gatewayRdReq g k).wf s (s.gwRequest g k tRD_REQ fun s a =>
    let p := a.pkt
    let r := (s.gw g).regs
    let f := rdFields p
    let w := r.gwWindow k p.parterre.toNat p.granule 1 false
    let room := match w with
      | none => 0
      | some w => r.get (CHP_MGW_WIN_A_base.at w) + r.get (CHP_MGW_WIN_A_count_m1.at w) + 1 - p.granule
    match rdFails p.granule f.1 f.2.1 room with
    | some b => (s.modGwRegs g fun r => r.bump CHP_MGW_STAT_window_fault).gwRefuse g k a.plane p rWINDOW (b % 2 ^ 24)
    | none =>
      let addr := r.gwAddr (w.getD 0) p.granule
      let id := (s.gw g).nextId
      let s := s.modGw g fun x => { x with
        serves := x.serves ++ [⟨id, k, p, p.granule, f.1, f.2.1, f.2.2, addr, 0, []⟩], nextId := x.nextId + 1 }
      s.forEach (List.range f.2.1) fun s i => s.stackAsk g (addr + 48 * i) (.read id i) false)

/-! ## Stream rings (R186, R187, R231) -/

/-- The runtime of a stream ring. -/
def Gateway.stream (x : Gateway) (st : Nat) : StreamRt := (aget x.streams st).getD ⟨0, 0, none, 0, 0, [], none, none, none⟩
/-- Change the runtime of a stream ring. -/
def State.modStream (s : State) (g st : Nat) (f : StreamRt → StreamRt) : State :=
  s.modGw g fun x => { x with streams := aput x.streams st (f (x.stream st)) }

/-- The base of a stream ring in the stack (R187, R192). -/
def Regs.streamBase (r : Regs) (st : Nat) : Nat := r.get (CHP_MGW_STREAM_base.at st) * 4096
/-- The parterre of a stream (R192). -/
def Regs.streamParterre (r : Regs) (st : Nat) : Nat := r.get (CHP_MGW_STREAM_weight.at st)
/-- The stack byte of a descriptor of a stream ring (R187). -/
def Regs.streamDesc (r : Regs) (st : Nat) (i : BitVec 16) : Nat :=
  r.streamBase st + 128 + 64 * (i.toNat % 2 ^ r.get (CHP_MGW_STREAM_size_log2.at st))

/-- The cell position of a tree's root at a gateway (R217, R226). -/
def State.rootAt (s : State) (g tree : Nat) : Option Nat :=
  match s.chip.trees.find? fun t => t.id == tree with
  | none => none
  | some t => (List.range 8).find? fun k => (gatewayCell g k).1 == t.root

/-- Packets of the running descriptor of a stream. -/
def StreamRt.total (x : StreamRt) : Nat := match x.cur with
  | none => 0
  | some ws => (dword ws 0 8 32 + 47) / 48

/-- The window of a stream descriptor's source (R168): at the root's cell position on the dynamic path; on the scheduled path at the
first cell position that has one. -/
def State.streamSource (s : State) (g st : Nat) (ws : List W64) : Option Nat :=
  let r := (s.gw g).regs
  let n := (dword ws 0 8 32 + 47) / 48
  let at_ (k : Nat) := (r.gwWindow k (r.streamParterre st) (dword ws 2 0 24) n false).map fun w => r.gwAddr w (dword ws 2 0 24)
  if dword ws 0 4 1 = 1 then (s.rootAt g (dword ws 0 40 12)).bind at_ else (List.range 8).findSome? at_

/-- What R174, R186 and R232 find of a stream's descriptor: the status it completes with at once, or none. -/
def State.streamCheck (s : State) (g st : Nat) (ws : List W64) : Option (Nat × Nat) :=
  let tree := dword ws 0 40 12
  if dword ws 0 0 4 ≠ 4 || !descLegal (if dword ws 0 4 1 = 1 then 0 else 4) ws then some (stBADDESC, 0)
  else if dword ws 0 8 32 = 0 then some (stDONE, 0)
  else if opLimit 4 < dword ws 0 8 32 then some (stBADDESC, 0)
  else if (s.streamSource g st ws).isNone && (dword ws 0 4 1 == 0 || (s.rootAt g tree).isSome) then some (stLOCAL, 0)
  else if dword ws 0 4 1 = 1 then
    match s.rootAt g tree with
    | some k => if s.mcSource (gatewayCell g k).1 tree then none else some (stREFUSED, rCLOSED)
    | none => some (stREFUSED, rCLOSED)
  else none

/-- Complete the descriptor CI names: words 7 and 6, CI, and the CI granule (R181, R186, R187). -/
def State.streamFinish (s : State) (g st status reason : Nat) : State :=
  let r := (s.gw g).regs
  let x := (s.gw g).stream st
  let a := r.streamDesc st x.ci
  let ci := x.ci + 1
  (s.modGw g fun y => { y with
    stack := mwriteList (mwriteWord (mwriteWord y.stack (a + 56) s.time) (a + 48) (BitVec.ofNat 64 (status + reason * 16 + 256)))
      (r.streamBase st + 48) (leBytes 2 ci.toNat ++ List.replicate 46 0) }).modStream g st fun x =>
    { x with ci := ci, cur := none, sent := 0, asked := 0, fetched := [], fail := none }

/-- Granules a gateway reads ahead of a stream's next packet (the spec gives none: log 25). -/
def readAhead : Nat := 16

/-- Issue the stack reads a stream's running descriptor is due (R113). -/
def State.streamAsk (s : State) (g st fuel : Nat) : State :=
  match fuel with
  | 0 => s
  | n + 1 =>
    let x := (s.gw g).stream st
    match x.cur with
    | none => s
    | some ws =>
      if x.asked < min x.total (x.sent + readAhead) then
        match s.streamSource g st ws with
        | none => s
        | some a =>
          ((s.stackAsk g (a + 48 * x.asked) (.stream st x.asked) false).modStream g st fun x => { x with asked := x.asked + 1 }).streamAsk g st n
      else s

/-- The slots of a refused descriptor stay idle (R186): those its packets would take. -/
def StreamRt.leaveIdle (x : StreamRt) (ws : List W64) : StreamRt :=
  if dword ws 0 4 1 = 1 then x
  else
    let n := descPackets (dword ws 0 0 4) (dword ws 0 8 32)
    { x with idle := some (match x.idle with
      | some (k, t) => (k + n, t)
      | none => (n, none)) }

/-- Start descriptors of a stream ring until one runs or none is left (R175, R186). -/
def State.streamStart (s : State) (g st fuel : Nat) : State :=
  match fuel with
  | 0 => s
  | n + 1 =>
    let x := (s.gw g).stream st
    if x.cur.isSome || x.pi == x.ci then s
    else
      let a := (s.gw g).regs.streamDesc st x.ci
      let ws := (List.range 8).map fun i => mreadWord (s.gw g).stack (a + 8 * i)
      match s.streamCheck g st ws with
      | some (status, reason) =>
        let s := s.when_ (status == stBADDESC) fun s => s.modStream g st fun x => x.leaveIdle ws
        (s.streamFinish g st status reason).streamStart g st n
      | none => (s.modStream g st fun x => { x with cur := some ws, sent := 0, asked := 0, fetched := [] }).streamAsk g st (readAhead + 1)

/-- Fuel for the descriptors of a ring. -/
def ringFuel : Nat := 65537

/-- GATEWAY_PI_POLL (R186, R187): a PI that would overfill the ring is ignored. -/
def execGatewayPiPoll (g st : Nat) (s : State) : Res :=
  onUnit (Instr.gatewayPiPoll g st).wf s
    (let x := s.gw g
    if !x.regs.flag (CHP_MGW_STREAM_enable.at st) || x.hold then s
    else
      let pi : BitVec 16 := BitVec.ofNat 16 (mreadLE x.stack (x.regs.streamBase st) 2)
      let s := if (pi - (x.stream st).ci).toNat ≤ 2 ^ x.regs.get (CHP_MGW_STREAM_size_log2.at st) then
          s.modStream g st fun y => { y with pi := pi } else s
      s.streamStart g st ringFuel)

/-- Packet i of a stream's running descriptor (R218), on a tree rooted at a cell; a read in error inverts its crc (log 26). -/
def State.streamPacket (s : State) (g st c tree cls : Nat) : Option Packet :=
  let x := (s.gw g).stream st
  match x.cur, aget x.fetched x.sent with
  | some ws, some (_, data, err) =>
    let last := x.sent + 1 == x.total
    let len := if last then dword ws 0 8 32 - 48 * (x.total - 1) else 48
    let p := ({ Packet.blank with
      type := tMCAST, cls := BitVec.ofNat 2 cls, last := if last then 1 else 0, dstChip := s.chipId, dstCell := BitVec.ofNat 14 c,
      srcChip := s.chipId, srcCell := BitVec.ofNat 14 c, chanTree := BitVec.ofNat 12 tree, seq := BitVec.ofNat 12 x.sent,
      length := BitVec.ofNat 6 len, parterre := BitVec.ofNat 8 ((s.gw g).regs.streamParterre st),
      payload := BitVec.ofNat 384 (data.toNat % 2 ^ (8 * len)) } : Packet).seal
    some (if err then { p with crc := ~~~p.crc } else p)
  | _, _ => none

/-- A stream's packet has left, or is discarded: the descriptor completes on its last (R180). -/
def State.streamSent (s : State) (g st : Nat) : State :=
  let s := s.modStream g st fun x => { x with sent := x.sent + 1, fetched := adel x.fetched x.sent }
  let x := (s.gw g).stream st
  if x.total ≤ x.sent then
    let f := match x.fail with
      | some f => (f.1.toNat, f.2.toNat)
      | none => (stDONE, 0)
    (s.streamFinish g st f.1 f.2).streamStart g st ringFuel
  else s.streamAsk g st (readAhead + 1)

/-! ## Presentation (R26, R30, R185, R521) -/

/-- Packets on their way into a plane of a router. -/
def Router.coming (r : Router) (pl : Plane) : List InFlight := match pl with
  | .sched => r.sched
  | _ => (r.plane pl).arr

/-- Does no packet stand on an input of a router for an ncyc yet (R26)? -/
def State.inputFree (s : State) (c : Nat) (pl : Plane) (p due : Nat) : Bool :=
  !(((s.rt c).coming pl).any fun x => x.port == p && x.due == due)

/-- May a gateway present on a cell's edge input: once in an ncyc per cell and plane, packets it hands back included, never while it holds the
edge output busy, and within its rate (R26, R30, R185)? -/
def State.mayPresent (s : State) (g k : Nat) (pl : Plane) : Bool :=
  let e := gatewayCell g k
  !(s.gw g).hold && s.chip.integ.mgwPresent.getLsbD g && s.inputFree e.1 pl e.2 s.ncyc && s.edgeAccepts e.1 pl e.2

/-- Present a packet on a cell's edge input, with the gateway's epoch (R87, R90, R233): it is decoded in this ncyc (R521). -/
def State.present (s : State) (g k : Nat) (pl : Plane) (p : Packet) : State :=
  let e := gatewayCell g k
  let p := Packet.regen { p with epoch := (s.gw g).epoch }
  let s := if p.type = tMCAST then s.watch e.1 p.type p.chanTree else s
  (s.modGw g fun x => x.move s.ncyc).modRt e.1 fun r => (r.enter p.epoch.toNat).arrive pl ⟨e.2, s.ncyc, p⟩

/-- The RD_DATA a serve presents next (R55, R179, R197). -/
def GwServe.next (v : GwServe) : Option Packet :=
  match aget v.ready v.sent with
  | none => none
  | some (data, _) =>
    let last := v.sent + 1 == v.count
    let len := if last then v.lastLen else 48
    let g := v.land_ + v.sent
    some ({ Packet.blank with
      type := tRD_DATA, cls := 1, last := if last then 1 else 0, dstChip := v.req.srcChip, dstCell := v.req.srcCell, srcChip := v.req.dstChip,
      srcCell := v.req.dstCell, chanTree := BitVec.ofNat 12 (g / 4096), seq := BitVec.ofNat 12 (g % 4096),
      length := BitVec.ofNat 6 len, parterre := v.req.parterre, payload := BitVec.ofNat 384 (data.toNat % 2 ^ (8 * len)) } : Packet).seal

/-- Present the next reply packet at a cell position: answers first, then RD_DATA in the order of the requests. -/
def State.presentReply (s : State) (g k : Nat) : State :=
  if !s.mayPresent g k .reply then s else
  match (s.gw g).answers.find? fun a => a.1 == k with
  | some a => (s.modGw g fun x => { x with answers := dropFirst (fun b => b.1 == k) x.answers }).present g k .reply a.2
  | none =>
    match (s.gw g).serves.find? fun v => v.k == k with
    | none => s
    | some v =>
      match v.next with
      | none => s
      | some p =>
        (s.modGw g fun x => { x with
          serves := (mapIf (fun w => w.id == v.id) (fun w => { w with sent := w.sent + 1 }) x.serves).filter fun w => decide (w.sent < w.count) }).present
            g k .reply p

/-- The stream record of a gateway stream in a period of a bank (R122). -/
def Bank.streamRec (b : Bank) (g st p : Nat) : Option StreamRec :=
  b.streams.find? fun r => r.gateway && r.stream == st && r.period == p && (List.range 8).any fun k => (gatewayCell g k).1 == r.cell

/-- The active bank (R105). -/
def State.bank (s : State) : Bank := if s.chip.activeBank = 0 then s.chip.banks0 else s.chip.banks1

/-- Does a stream owe packets to the request plane after a slip (R114)? The count covers the rest of the transfer and of the descriptor
begun in it. -/
def StreamRt.owed (x : StreamRt) : Bool := x.slip.any fun e => decide (0 < e.owed)

/-- n packets of a slipped stream's remainder have gone: a descriptor begun in it goes whole (R114). -/
def StreamRt.pay (x : StreamRt) (n : Nat) : StreamRt :=
  { x with slip := x.slip.map fun e => if 0 < e.owed then { e with owed := max e.owed (x.total - x.sent) - n } else e }

/-- Is a stream's running descriptor of its scheduled stream (R186)? -/
def StreamRt.scheduled (x : StreamRt) : Bool := x.cur.any fun ws => dword ws 0 4 1 == 0

/-- As `pay`, for a descriptor of the scheduled stream; one of the dynamic path owes nothing. -/
def StreamRt.settle (x : StreamRt) (n : Nat) : StreamRt := if x.scheduled then x.pay n else x

/-- Where a stream's next packet goes on the request plane: the tree of its descriptor's dynamic path, or the dynamic tree its slipped
remainder continues under (R115, R231). -/
def State.streamTree (s : State) (g st : Nat) : Option Nat :=
  let x := (s.gw g).stream st
  match x.cur with
  | none => none
  | some ws =>
    if dword ws 0 4 1 = 1 then some (dword ws 0 40 12)
    else if x.owed then x.slip.bind (·.tree)
    else none

/-- A slipped stream without a dynamic tree discards its packets at the source (R115). -/
def State.streamDiscard (s : State) (g st : Nat) : State :=
  let x := (s.gw g).stream st
  match x.cur with
  | none => s
  | some ws =>
    if dword ws 0 4 1 = 0 && x.owed && (s.streamTree g st).isNone then
      ((s.modStream g st fun x => x.pay (x.total - x.sent)).streamFinish g st stINCOMPLETE 0).streamStart g st ringFuel
    else s

/-- Present the next MCAST of stream st on the request plane of its tree's root cell: it meets the gateway's spillway first, which ends
its descriptor (R202, R204, R226). -/
def State.presentStream (s : State) (g st : Nat) : State :=
  match s.streamTree g st with
  | none => s.streamDiscard g st
  | some tree =>
    match s.rootAt g tree with
    | none => s
    | some k =>
      if !s.mayPresent g k .request then s else
      match s.streamPacket g st (gatewayCell g k).1 tree 1 with
      | none => s
      | some p =>
        let q := s.gwPolice (s.gw g).buckets p.parterre.toNat
        let s := s.modGw g fun x => { x with buckets := q.2 }
        if q.1 then
          (((s.modStream g st fun x => x.settle (x.total - x.sent)).modGwRegs g fun r => (r.bump CHP_MGW_SPILL_policed).set CHP_MGW_SPILL_last_parterre p.parterre.toNat).streamFinish g st
            stNACKED rPOLICED).streamStart g st ringFuel
        else ((s.modStream g st fun x => x.settle 1).present g k .request p).streamSent g st

/-- Idle tranches of a gateway fall due after flush_ncyc of the cell their WRs came through, and COMPLs leave once every counted byte is
acknowledged (R177, log 27). -/
def State.gwTranches (s : State) (g : Nat) : State :=
  let due (t : Tranche) : Bool := t.due || decide (t.joined + s.cget (gatewayCell g t.cell).1 NI_BULK_CTL_flush_ncyc ≤ s.ncyc)
  let ready := (s.gw g).tranches.filter fun t => due t && t.pend == 0 && !t.bad
  s.modGw g fun x => { x with
    tranches := (x.tranches.map fun t => { t with due := due t }).filter fun t => !(t.due && t.pend == 0 && !t.bad)
    answers := x.answers ++ ready.map fun t => (t.cell, t.compl s.chipId (BitVec.ofNat 14 (gatewayCell g t.cell).1)) }

/-- Packets a gateway hands back to its cells in this ncyc. -/
def State.gwBack (s : State) (g : Nat) : Nat :=
  ((List.range 8).map fun k =>
    let e := gatewayCell g k
    (([Plane.request, Plane.reply].filter fun pl => !s.inputFree e.1 pl e.2 s.ncyc).length)).sum

/-- Everything a gateway presents in the ncyc that begins; what it hands back counts toward its rate (R185). -/
def State.gwPresent (s : State) (g : Nat) : State :=
  let s := s.gwTranches g
  let back := s.gwBack g
  let s := s.modGw g fun x => { x with moveAt := s.ncyc, moves := back }
  let s := s.forEach (List.range 8) fun s k => s.presentReply g k
  s.forEach ((s.gw g).streams.map (·.1)) fun s st => s.presentStream g st

/-- Does a gateway hold any edge output busy in this ncyc (R185)? -/
def State.gwBusy (s : State) (g : Nat) : Bool :=
  (List.range 8).any fun k =>
    let e := gatewayCell g k
    !s.edgeAccepts e.1 .request e.2 && !(s.gw g).hold && s.chip.integ.mgwPresent.getLsbD g

/-! ## Responses (R184, R502, R521) -/

/-- STACK_READ_RESPONSE: data for an RD_REQ or a stream; an uncorrectable read refuses the RD_REQ (R184). -/
def execStackReadResponse (g tag : Nat) (err : Bool) (s : State) : Res :=
  onUnit (Instr.stackReadResponse g tag err).wf s
    (let read (q : StackReq) : Bool := q.tag == tag &&
      match q.use with
      | .tranche _ => false
      | _ => true
    match (s.gw g).reqs.find? read with
    | none => s
    | some q =>
      let data := BitVec.ofNat 384 (mreadLE (s.gw g).stack q.addr 48)
      let s := s.modGw g fun x => { x with reqs := dropFirst read x.reqs }
      let s := if err then s.modGwRegs g fun r => r.bump CHP_MGW_STAT_stack_err else s
      match q.use with
      | .tranche _ => s
      | .read id i =>
        if err then
          match (s.gw g).serves.find? fun v => v.id == id with
          | none => s
          | some v =>
            (s.modGw g fun x => { x with serves := x.serves.filter fun v => v.id != id }).gwAnswer g v.k
              (nackFor v.req rWINDOW (0x80000000 + (v.granule + i) % 2 ^ 24))
        else
          s.modGw g fun x => { x with
            serves := mapIf (fun v => v.id == id) (fun v => { v with ready := aput v.ready i (data, false) }) x.serves }
      | .stream st i =>
        s.modStream g st fun x => { x with fetched := if x.cur.isSome then aput x.fetched i (s.ncyc, data, err) else x.fetched })

/-- STACK_WRITE_RESPONSE: an acknowledged write lets its COMPL leave; one in error is counted, recorded and withholds it (R177,
R502). -/
def execStackWriteResponse (g tag : Nat) (err : Bool) (s : State) : Res :=
  onUnit (Instr.stackWriteResponse g tag err).wf s
    (let write (q : StackReq) : Bool := q.tag == tag &&
      match q.use with
      | .tranche _ => true
      | _ => false
    match (s.gw g).reqs.find? write with
    | none => s
    | some q =>
      let s := s.modGw g fun x => { x with reqs := dropFirst write x.reqs }
      let s := if err then
          let s := s.modGwRegs g fun r => r.bump CHP_MGW_STAT_stack_err
          s.zRecord (mkRec 0x0D 3 (unitGw g) 7 0 0 ((s.gw g).regs.get CHP_MGW_STAT_stack_err))
        else s
      match q.use with
      | .tranche id => s.modGw g fun x => { x with tranches := landTranche x.tranches id err }
      | _ => s)

end Sys2Proof.Machine
end

