-- ==== Sys2Proof/Machine/Injection.lean ====
section
/-! DEFINITION. Injection by the NI: flows with their weirs and finish tags (R195 to R201), the spillway (R202, R203), the packets of
descriptors (R174 to R178, R218, R226, R247), TEL (R56, R473), and the head packet of a plane (R81). -/

namespace Sys2Proof.Machine

/-! ## The packets a descriptor sends -/

/-- Bytes of packet i of n of a descriptor's length (R41, R174). -/
def Desc.bytes (d : Desc) (i : Nat) : Nat := if i + 1 < d.n then 48 else d.length - 48 * (d.n - 1)

/-- The cluster address of local granule k of a descriptor (R168). -/
def Cell.localAddr (x : Cell) (d : Desc) (k : Nat) : Nat :=
  match x.regs.window x.owner.toNat d.localG d.granules (d.op == 2) with
  | some w => x.regs.windowAddr w (d.localG + k)
  | none => 0

/-- What every packet of an NI carries (R38, R87). -/
def State.ownPacket (s : State) (c : Nat) : Packet :=
  { Packet.blank with cls := 1, srcChip := s.chipId, srcCell := BitVec.ofNat 14 c, parterre := (s.cell c).owner }

/-- Set the granule of a header (R40). -/
def withGranule (p : Packet) (g : Nat) : Packet :=
  { p with chanTree := BitVec.ofNat 12 (g / 4096), seq := BitVec.ofNat 12 (g % 4096) }

/-- Packet i of a WRITE, an MCAST or a RED, from the data in cluster memory (R55, R174, R218, R247). -/
def State.descPacket (s : State) (c : Nat) (d : Desc) (i : Nat) : Packet :=
  let x := s.cell c
  let len := d.bytes i
  let data := mreadList x.cm (x.localAddr d i) len
  let p := s.ownPacket c
  let last : BitVec 1 := if i + 1 = d.n then 1 else 0
  match d.op with
  | 4 =>
    ({ p with type := tMCAST, last := last, dstChip := s.chipId, dstCell := BitVec.ofNat 14 c, chanTree := d.chanTree,
              seq := BitVec.ofNat 12 i, length := BitVec.ofNat 6 len, payload := payloadOf data } : Packet).seal
  | 5 =>
    match x.regs.redEntry d.chanTree.toNat with
    | none => p
    | some j =>
      ({ redContribution x.regs j i (mreadList x.cm (x.localAddr d i) 48) with
          cls := 1, srcChip := p.srcChip, srcCell := p.srcCell, parterre := p.parterre, dstChip := d.peerChip,
          dstCell := d.peerWire } : Packet).seal
  | _ =>
    (withGranule { p with
      type := tWR, last := last, dstChip := d.peerChip, dstCell := d.peerWire, length := BitVec.ofNat 6 len,
      payload := payloadOf data } (d.remoteG + i)).seal

/-- RD_REQ j of a READ (R55, R178). -/
def State.readPacket (s : State) (c : Nat) (d : Desc) (j : Nat) : Packet :=
  let n := min 64 (d.n - 64 * j)
  let last := if j + 1 = readReqs d.n then d.length - 48 * (d.n - 1) else 48
  (withGranule { s.ownPacket c with
    type := tRD_REQ, dstChip := d.peerChip, dstCell := d.peerWire, length := 12,
    payload := BitVec.ofNat 384 ((d.localG + 64 * j) % 2 ^ 24 + (n - 1) * 2 ^ 24 + last * 2 ^ 32 + d.tag.toNat * 2 ^ 64) }
    (d.remoteG + 64 * j)).seal

/-- Packet k of a MSG descriptor, its destination and numbers left to the token (R41, R53, R174). -/
def State.msgPacket (s : State) (c : Nat) (d : Desc) (k : Nat) : Packet :=
  let x := s.cell c
  let all := mreadList x.cm (x.localAddr d 0)
  let last : BitVec 1 := if k + 1 = d.n then 1 else 0
  if k = 0 then
    let n := min 40 d.length
    { Packet.blank with
      type := tMSG_HEAD, last := last, length := BitVec.ofNat 6 (8 + n),
      payload := payloadOf (leBytes 4 d.length ++ leBytes 2 d.handler.toNat ++ [0, 0] ++ all n) }
  else
    let from_ := 40 + 48 * (k - 1)
    let n := min 48 (d.length - from_)
    { Packet.blank with
      type := tMSG_BODY, last := last, length := BitVec.ofNat 6 n,
      payload := payloadOf (mreadList x.cm (x.localAddr d 0 + from_) n) }

/-! ## Message descriptors take their tokens (R139, R175) -/

/-- Has a channel a packet that waits: a retransmission first, then its packets in the order of their tokens (R139)? -/
def Ni.chanNext (x : Ni) (ch : Nat) : Option (Nat × Token) :=
  let mine := x.chanTokens ch
  let inHead (t : Nat) : Bool := match x.headReq with
    | some h => h.src == .token t
    | none => false
  let pick (p : Token → Bool) : Option (Nat × Token) :=
    (mine.filter fun e => p e.2 && !inHead e.1).foldl (fun a e =>
      match a with
      | none => some e
      | some b => if e.2.order < b.2.order then some e else a) none
  match pick fun k => k.st == .resent && k.again with
  | some e => some e
  | none => pick fun k => k.st == .queued

/-- The oldest open token of a channel. -/
def Ni.chanOldest (x : Ni) (ch : Nat) : Option Token :=
  (x.chanTokens ch).foldl (fun a e =>
    match a with
    | none => some e.2
    | some b => if e.2.order < b.order then some e.2 else a) none

/-- Is a sequence number inside the channel's window of 64 (R139)? -/
def Ni.inWindow (x : Ni) (ch : Nat) (seq : BitVec 8) : Bool :=
  match x.chanOldest ch with
  | none => true
  | some k => decide ((seq - k.seq).toNat < 64)

/-- A message descriptor takes the token of its next packet, when its channel holds none that waits. -/
def State.takeMsgToken (s : State) (c : Nat) (d : Desc) : State :=
  let ch := d.chanTree.toNat
  match aget (s.ni c).chans ch with
  | none => s.modNi c fun x => x.fetch ch []
  | some k =>
    if k.e.state ≠ chOPEN || ((s.ni c).chanNext ch).isSome || (s.ni c).interlocked ch k.e.peerChan then s else
    match (s.ni c).freeToken? with
    | none => s
    | some t =>
      let id := (s.ni c).nextId
      ((s.allocMsg c ch t (s.msgPacket c d d.taken) (some d.id)).modNi c fun x => x.request false (.packet id)).modNi c fun x =>
        x.modDesc d.id fun d => { d with taken := d.taken + 1 }

/-- Every started message descriptor that has packets without a token. -/
def State.msgTokens (s : State) (c : Nat) : State :=
  s.forEach ((s.ni c).descs.filter fun d => d.op == 3 && !d.done && decide (d.taken < d.n)) fun s d => s.takeMsgToken c d

/-! ## Flows (R196, R198) -/

/-- A flow of a plane. -/
inductive FlowId where
  | chan (ch : Nat)
  | ring (r : Nat)
  | slip
  | serve (id : Nat)
deriving DecidableEq, Repr

/-- A flow that has a packet: its finish tag, what one packet costs, whether it is eligible, whether its weir lacks credit, and whether it became
backlogged or eligible in this ncyc: should V advance in this ncyc, its tag is computed from the advanced V (R206). -/
structure Flow where
  id : FlowId
  tag : W32
  cost : W32
  eligible : Bool
  dry : Bool
  fresh : Bool
deriving DecidableEq, Repr

/-- Does tag a precede tag b (R198)? -/
def precedes (a b : W32) : Bool := a != b && decide ((b - a).toNat < 2 ^ 31)

/-- The least tag of the eligible flows; ties go to the earlier in the list. -/
def leastFlow (l : List Flow) : Option Flow :=
  (l.filter (·.eligible)).foldl (fun a f =>
    match a with
    | none => some f
    | some b => if precedes f.tag b.tag then some f else a) none

/-- The flow a plane selects: V advances to the least tag of those that were eligible before this ncyc; with none of them, a fresh one is
selected (R198, R206). -/
def pickFlow (l : List Flow) : Option Flow := match leastFlow (l.filter fun f => !f.fresh) with
  | some f => some f
  | none => leastFlow l

/-- The tag of a flow that becomes eligible again: an ordinary flow keeps its place with bounded lag (R198). -/
def laggedTag (f v : W32) : W32 := if precedes f (v - 0x1000000) then v - 0x1000000 else f

/-- The descriptor a dynamic ring is sending from: the first that is started and has packets left (R175, R196). -/
def Ni.sending (x : Ni) (r : Nat) : Option Desc :=
  match x.descs.find? fun d => d.ring == r && !x.descIn d with
  | some d =>
    if d.op = 3 ∨ d.stop then none
    else if d.op = 2 then (if d.taken < readReqs d.n then some d else none)
    else if d.injected < d.n then some d else none
  | none => none

/-- The slipped descriptor the slip flow sends from (R114, R115): of the lowest stream ring. -/
def Ni.slipping (x : Ni) : Option Desc :=
  ((List.range 64).filterMap fun st => match x.sending (4 + st) with
    | some d => if d.slipped then some d else none
    | none => none).head?

/-- May the next RD_REQ of a READ go out (R140, R179)? -/
def Ni.readReady (x : Ni) (d : Desc) : Bool :=
  let lo := d.localG + 64 * d.taken
  let hi := lo + min 64 (d.n - 64 * d.taken)
  x.freeToken?.isSome && decide (x.quarantine.length < 16) && !(x.quarantine.any fun q => decide (q.1 < hi) && decide (lo < q.2.1))

/-- May the next packet of a ring's descriptor go out, its weir apart (R179, R226)? -/
def Ni.descReady (x : Ni) (d : Desc) : Bool :=
  if d.op = 2 then x.readReady d
  else if d.op = 4 then decide (x.fountain.length < fountSize)
  else true

/-- Bring a channel's flow up to date: weir, finish tag, eligibility (R198, R199). A fresh flow takes its tag at the end of the ncyc (`keep`). -/
def State.chanFlow (s : State) (c ch : Nat) (keep : Bool) : State × Option Flow :=
  let x := s.ni c
  match aget x.chans ch, x.chanNext ch with
  | some k, some (_, tk) =>
    let e := k.e.accrue s.now32
    let cost := delta e.weight.toNat
    let rich := e.privileged || decide (onePacket ≤ e.credit.toNat)
    let ok := rich && x.inWindow ch tk.seq
    let f := if !k.hasTag then x.vReq + cost
      else if ok && !k.eligible then (if e.privileged then x.vReq + cost else laggedTag e.finish x.vReq)
      else e.finish
    let fresh := !k.hasTag || (ok && !k.eligible)
    (s.modNi c fun x => x.modChan ch fun k =>
      if fresh && !keep then { k with e := e } else { k with e := { e with finish := f }, hasTag := true, eligible := ok },
      some ⟨.chan ch, f, cost, ok, !rich, fresh⟩)
  | some _, none => (s.modNi c fun x => x.modChan ch fun k => { k with hasTag := false, eligible := false }, none)
  | none, _ => (s, none)

/-- Bring a ring's flow up to date. -/
def State.ringFlow (s : State) (c r : Nat) (keep : Bool) : State × Option Flow :=
  let x := s.ni c
  let k := x.ring r
  match x.sending r with
  | none => (s.modNi c fun x => x.modRing r fun k => { k with hasTag := false, eligible := false }, none)
  | some d =>
    let credit := s.ringCredit c r
    let cost := delta (s.cget c (NI_DRING_weight.at r))
    let rich := decide (onePacket ≤ credit.toNat)
    let ok := rich && x.descReady d
    let fresh := !k.hasTag || (ok && !k.eligible)
    let f := if !k.hasTag then x.vReq + cost else if fresh then laggedTag k.finish x.vReq else k.finish
    (s.modNi c fun x => x.modRing r fun k =>
      let k := { k with credit := credit, upd := s.now32 }
      if fresh && !keep then k else { k with finish := f, hasTag := true, eligible := ok },
      some ⟨.ring r, f, cost, ok, !rich, fresh⟩)

/-- The slip weir's credit brought up to date (R201). -/
def State.slipWeir (s : State) (c : Nat) : W32 :=
  BitVec.ofNat 32 (weirCredit (s.cget c NI_WFQ_CTL_slip_rate) (s.cget c NI_WFQ_CTL_slip_burst) 65536 (s.ni c).slipCredit.toNat
    (s.now32 - (s.ni c).slipUpd).toNat)

/-- Bring the slip flow up to date. -/
def State.slipFlow (s : State) (c : Nat) (keep : Bool) : State × Option Flow :=
  let x := s.ni c
  match x.slipping with
  | none => (s.modNi c fun x => { x with slipTag := false, slipOk := false }, none)
  | some d =>
    let credit := s.slipWeir c
    let cost := delta (s.cget c NI_WFQ_CTL_slip_weight)
    let rich := decide (onePacket ≤ credit.toNat)
    let ok := rich && x.descReady d
    let fresh := !x.slipTag || (ok && !x.slipOk)
    let f := if !x.slipTag then x.vReq + cost else if fresh then laggedTag x.slipFinish x.vReq else x.slipFinish
    (s.modNi c fun x =>
      let x := { x with slipCredit := credit, slipUpd := s.now32 }
      if fresh && !keep then x else { x with slipFinish := f, slipTag := true, slipOk := ok },
      some ⟨.slip, f, cost, ok, !rich, fresh⟩)

/-- The flows of the request plane that have a packet, in the order in which ties are decided (R198). -/
def State.requestFlows (s : State) (c : Nat) (keep : Bool) : State × List Flow :=
  let add (a : State × List Flow) (r : State × Option Flow) : State × List Flow := (r.1, a.2 ++ r.2.toList)
  let a := ((s.ni c).chans.map (·.1)).foldl (fun a ch => add a (a.1.chanFlow c ch keep)) (s, [])
  let a := (List.range 4).foldl (fun a r => add a (a.1.ringFlow c r keep)) a
  add a (a.1.slipFlow c keep)

/-! ## The spillway (R202, R203) -/

/-- The NI's spillway on a selected packet: whether it is dropped, and the bucket after; a class changed in this ncyc counts as it was (R204). -/
def State.police (s : State) (c : Nat) : State × Bool :=
  let own := (s.cell c).owner.toNat
  let cls := s.classOf own
  let rate := s.chip.regs.was (CHP_SPILL_CLASS_ni_rate.at cls)
  if own = 0 ∨ rate = 0 then (s, false)
  else
    let credit := weirCredit rate (s.chip.regs.was (CHP_SPILL_CLASS_ni_burst.at cls)) 65536 (s.cget c NI_SPILL_credit)
      (s.now32 - (s.ni c).spillUpd).toNat
    let s := s.modNi c fun x => { x with spillUpd := s.now32 }
    if onePacket ≤ credit then (s.modCellRegs c fun r => r.set NI_SPILL_credit (credit - onePacket), false)
    else ((s.modCellRegs c fun r => r.set NI_SPILL_credit credit).bump c NI_SPILL_policed, true)

/-- Complete an MCAST or a RED whose last packet has been injected or placed, or that injects no more (R180). -/
def State.checkSent (s : State) (c id : Nat) : State :=
  match (s.ni c).desc id with
  | none => s
  | some d =>
    if (d.op == 4 || d.op == 5) && !d.done && d.allIn then
      let o := d.outcome (stDONE, 0)
      s.completeDesc c id o.1 o.2
    else s

/-- A descriptor injects no further packet after a drop by the spillway (R203). -/
def State.policeDesc (s : State) (c id : Nat) : State :=
  let s := s.modNi c fun x => x.modDesc id fun d => { (d.failWith stNACKED rPOLICED) with stop := true }
  match (s.ni c).desc id with
  | none => s
  | some d => if d.op = 1 then (s.armTracker c id).checkWrite c id else s.checkSent c id

/-! ## Selection (R195) -/

/-- Make a packet the head of a plane; a selection of a packet of the watched tree counts (R233). -/
def State.setHead (s : State) (c : Nat) (pl : Plane) (pk : Packet) (src : PktSrc) (id : Nat) : State :=
  let h : Option Head := some ⟨pk, s.ncyc, src, id⟩
  (s.modNi c fun x => if pl = .reply then { x with headRep := h } else { x with headReq := h }.note dHead s.ncyc).watch c pk.type pk.chanTree

/-- Make a packet whose data is at hand the head of a plane. -/
def State.setHeadNew (s : State) (c : Nat) (pl : Plane) (pk : Packet) (src : PktSrc) : State :=
  (s.setHead c pl pk src (s.ni c).nextId).modNi c fun x => { x with nextId := x.nextId + 1 }

/-- The head of a plane. -/
def Ni.head (x : Ni) (pl : Plane) : Option Head := if pl = .reply then x.headRep else x.headReq

/-- Take the next output packet of the oldest range in EMIT (order 2; R252). -/
def State.selectCombine (s : State) (c : Nat) : Option State :=
  match (s.ni c).oldestEmit with
  | none => none
  | some (key, g) =>
    match g.outp with
    | [] => none
    | p :: r =>
      let j := key / 1024
      let i := key % 1024
      let id := (s.ni c).nextId
      let s := s.modNi c fun x => { x.setRange j i { g with outp := r } with nextId := id + 1 }
      let s := if r.isEmpty then s.redEmitted c j i else s
      some (s.setHead c .request p .combine id)

/-- Select a channel's packet (R198, R199, R202, R203); `next` is the tag of the packet after it. -/
def State.selectChan (s : State) (c ch : Nat) (next : W32) : State :=
  match aget (s.ni c).chans ch, (s.ni c).chanNext ch with
  | some _, some (t, tk) =>
    let s := s.modNi c fun x => x.modChan ch fun k => { k with
      e := { k.e with finish := next, credit := if k.e.privileged then k.e.credit else k.e.credit - 65536 }
      hasTag := true
      eligible := true }
    let q := s.police c
    if q.2 then
      if tk.st = .queued then q.1.closeToken c t .policed rPOLICED (q.1.classOf (q.1.cell c).owner.toNat)
      else q.1.modNi c fun x => { x with tokens := aput x.tokens t { tk with again := false } }
    else q.1.setHead c .request tk.pkt (.token t) tk.order
  | _, _ => s

/-- Take the next packet of a selected descriptor (R175, R178, R226), which the spillway may have dropped. -/
def State.takeDesc (s : State) (c : Nat) (d : Desc) (dropped : Bool) : State :=
  if d.op = 2 then
    match (s.ni c).freeToken? with
    | none => s
    | some t =>
      let p := s.readPacket c d d.taken
      let id := (s.ni c).nextId
      let gen := ((aget (s.ni c).tokens t).map (·.gen)).getD 0
      let tk : Token := ⟨.queued, gen, .read d.id (d.localG + 64 * d.taken) (min 64 (d.n - 64 * d.taken)) 0 (p.pl 4 1) p.granule, 0,
        p, 0, 0, 0, false, id⟩
      let s := s.modNi c fun x => { x.modDesc d.id fun d => { d with taken := d.taken + 1 } with
        tokens := aput x.tokens t tk, nextId := id + 1 }
      let s := s.modCellRegs c fun r => r.addWrap NI_BAL_TOK_alloc 1
      if dropped then s.closeToken c t .policed rPOLICED 0 else s.setHead c .request p (.token t) id
  else if dropped then s.policeDesc c d.id
  else
    let id := (s.ni c).nextId
    let p := s.descPacket c d d.injected
    let s := s.modNi c fun x => ({ x with nextId := id + 1 } : Ni).request false (.packet id)
    if d.op = 4 then
      let mask := BitVec.ofNat 5 (bits ((s.rt c).cascade d.chanTree.toNat) 0 5)
      let s := ((s.tagTx c d.tag).modCellRegs c fun r => r.addWrap NI_BAL_FOUNT_taken 1).bump c NI_FOUNT_STAT_residues
      (s.modNi c fun x => { x.modDesc d.id fun d => { d with injected := d.injected + 1 } with
        fountain := x.fountain ++ [⟨p, mask, s.ncyc, id, s.ncyc⟩] }).watch c p.type p.chanTree |>.checkSent c d.id
    else s.setHead c .request p (.desc d.id) id

/-- Select the next packet of a descriptor: it meets the spillway first (R202). -/
def State.selectDesc (s : State) (c : Nat) (d : Desc) : State :=
  let q := s.police c
  q.1.takeDesc c d q.2

/-- The slip of the stream a ring serves (R114). -/
def Ni.slipOf (x : Ni) (ring : Nat) : SlipRt := (aget x.slips (ring - 4)).getD ⟨0, 0, none, false⟩

/-- Count packets of slipped streams as moved or discarded (R129). -/
def State.slipped (s : State) (c n : Nat) : State := s.modCellRegs c fun r => r.add NI_SCHED_STAT_slipped_pkts n

/-- Slipped packets discarded at the source: those of an MCAST whose stream names no dynamic tree (R115), and the rest of a transfer the
spillway has ended (R203). -/
def State.slipDrop (s : State) (c : Nat) : State :=
  match (s.ni c).slipping with
  | some d =>
    let e := (s.ni c).slipOf d.ring
    if e.drop then (s.slipped c (d.n - d.injected)).policeDesc c d.id
    else if d.op = 4 && e.tree.isNone then (s.slipped c (d.n - d.injected)).completeDesc c d.id stINCOMPLETE 0
    else s
  | none => s

/-- The slip flow's packet (R114): a slipped MCAST goes under the dynamic tree of its stream's record (R115). Once the spillway drops one, the
rest of the stream's transfer is discarded (R203). -/
def State.selectSlip (s : State) (c : Nat) (d : Desc) : State :=
  let e := (s.ni c).slipOf d.ring
  let q := s.police c
  let s := if q.2 then
      (q.1.slipped c (d.n - d.injected)).modNi c fun x => { x with slips := aput x.slips (d.ring - 4) { e with drop := true } }
    else q.1.slipped c 1
  match d.op, e.tree with
  | 4, some t => s.takeDesc c { d with chanTree := BitVec.ofNat 12 t } q.2
  | _, _ => s.takeDesc c d q.2

/-- Choose among the request flows (order 3); the flag tells that a selection was made. -/
def State.selectFlow (s : State) (c : Nat) : State × Bool :=
  let a := ((s.slipDrop c).msgTokens c).requestFlows c false
  match pickFlow a.2 with
  | none => (a.1, false)
  | some f =>
    let s := a.1.modNi c fun x => { x with vReq := f.tag }.note dHead s.ncyc
    let next := f.tag + f.cost
    (match f.id with
    | .chan ch => s.selectChan c ch next
    | .ring r =>
      match (s.ni c).sending r with
      | none => s
      | some d => (s.modNi c fun x => x.modRing r fun k =>
          { k with credit := k.credit - 65536, finish := next, hasTag := true, eligible := true }).selectDesc c d
    | .slip =>
      match (s.ni c).slipping with
      | none => s
      | some d => (s.modNi c fun x =>
          { x with slipCredit := x.slipCredit - 65536, slipFinish := next, slipTag := true, slipOk := true }).selectSlip c d
    | .serve _ => s, true)

/-- The request plane's selection. -/
def State.selectRequest (s : State) (c : Nat) : State :=
  if ((s.ni c).fountServer).isSome then s
  else match s.selectCombine c with
    | some s => s
    | none =>
      match s.selectFlow c with
      | (s, true) => s
      | (s, false) =>
        match (s.ni c).mntReq with
        | some (p, port, _) => s.setHeadNew c .request p (.mnt port)
        | none => s

/-- A read serve's next RD_DATA (R41, R179): the window that the RD_REQ passed at step 5 of R48 gives the address (R170). -/
def State.servePacket (s : State) (c : Nat) (v : RdServe) : Packet :=
  let x := s.cell c
  let last := v.taken + 1 == v.count
  let len := if last then v.lastLen else 48
  let a := v.addr + 48 * v.taken
  (withGranule { Packet.blank with
    type := tRD_DATA, cls := v.req.cls, last := if last then 1 else 0, dstChip := v.req.srcChip, dstCell := v.req.srcCell,
    srcChip := s.chipId, srcCell := BitVec.ofNat 14 c, length := BitVec.ofNat 6 len, parterre := v.req.parterre,
    payload := payloadOf (mreadList x.cm a len) } (v.land_ + v.taken)).seal

/-- The TEL packet of the buffered sample (R56, R473). -/
def State.telPacket (s : State) (c : Nat) (m : SpraySample) : Packet :=
  ({ Packet.blank with
      type := tTEL, cls := 3, dstChip := s.chipId, dstCell := BitVec.ofNat 14 (s.cget c CELL_SPRAY_CTL_collector), srcChip := s.chipId,
      srcCell := BitVec.ofNat 14 c, chanTree := (s.rt c).sampleNo, length := 32,
      payload := BitVec.ofNat 384 (m.header.toNat + m.time.toNat * 2 ^ 128 + c * 2 ^ 192 + m.point.toNat * 2 ^ 208 +
        m.tag.toNat * 2 ^ 224) } : Packet).seal

/-- The reply plane's selection: response flows by finish tag, then TEL and MNT (R195, R196). A flow that began in this ncyc takes its tag from the
advanced V (R206). A TEL whose collector is no cell is not sent (R22). -/
def State.selectReply (s : State) (c : Nat) : State :=
  let flows := ((s.ni c).serves.filter fun v => decide (v.taken < v.count)).map fun v =>
    (⟨.serve v.id, v.finish, delta 1, true, false, v.since == s.ncyc⟩ : Flow)
  match pickFlow flows with
  | some f =>
    match (s.ni c).serves.find? fun v => f.id == .serve v.id with
    | none => s
    | some v =>
      let id := (s.ni c).nextId
      let p := s.servePacket c v
      let s := s.modNi c fun x => ({ x with
        vRep := f.tag, nextId := id + 1
        serves := x.serves.map fun w =>
          if w.id = v.id then { w with taken := w.taken + 1, finish := f.tag + f.cost, since := 0 }
          else if w.since = s.ncyc then { w with finish := f.tag + delta 1 } else w } : Ni).request
          false (.packet id)
      s.setHead c .reply p (.serve v.id) id
  | none =>
    match (s.rt c).sample with
    | some m =>
      let s' := s.modRt c fun r => { r with sample := none }
      if cellOk (s.cget c CELL_SPRAY_CTL_collector) then s'.setHeadNew c .reply (s.telPacket c m) .tel else s'
    | none =>
      match (s.ni c).mntRep with
      | some (p, port, _) => s.setHeadNew c .reply p (.mnt port)
      | none => s

/-- The MNT offered on a plane, the one packet an NI in bring-up hold injects (R301, R452). -/
def State.selectMnt (s : State) (c : Nat) (pl : Plane) : State :=
  match if pl = .reply then (s.ni c).mntRep else (s.ni c).mntReq with
  | some (p, port, _) => s.setHeadNew c pl p (.mnt port)
  | none => s

/-- INJECTION_SELECT (R195): at most one selection for a plane in an ncyc, and none while it has a head. -/
def execInjectionSelect (c : Nat) (pl : Plane) (s : State) : Res :=
  onUnit (Instr.injectionSelect c pl).wf s
    (let x := s.ni c
    let k := if pl = .reply then dSelRep else dSelReq
    if (x.head pl).isSome || x.didNow k s.ncyc then s
    else if x.hold == .bringUp then s.selectMnt c pl
    else if x.hold ≠ .none then s
    else
      let s := s.modNi c fun x => x.note k s.ncyc
      if pl = .reply then s.selectReply c else s.selectRequest c)

/-! ## Pass 4 for the head (R81) -/

/-- The tag under which a head is injected (R469). -/
def Ni.headTag (x : Ni) (h : Head) : W32 :=
  match h.src with
  | .token t =>
    match aget x.tokens t with
    | none => 0
    | some tk =>
      match tk.use with
      | .msg ch _ _ => ((aget x.chans ch).map (·.e.tag)).getD 0
      | .read d .. => ((x.desc d).map (·.tag)).getD 0
  | .desc d => if h.pkt.type == tRED then BitVec.ofNat 32 (h.pkt.pl 44 4) else ((x.desc d).map (·.tag)).getD 0
  | .serve id => match x.serves.find? fun v => v.id == id with
    | some v => BitVec.ofNat 32 (v.req.pl 8 4)
    | none => 0
  | .combine => BitVec.ofNat 32 (h.pkt.pl 44 4)
  | .tel => 0
  | .mnt _ => 0

/-- What the injection of a head does to the token, descriptor or RD_REQ it comes from (R141, R175, R180, R197). -/
def State.headSent (s : State) (c : Nat) (h : Head) : State :=
  match h.src with
  | .token t =>
    match aget (s.ni c).tokens t with
    | none => s
    | some tk =>
      if !tk.isOpen then s else
      let read := match tk.use with
        | .read .. => true
        | .msg .. => false
      let first := tk.st == .queued
      let tk' := { tk with
        st := .inflight, again := false, start := if first then s.now else tk.start
        retx := if read then 0 else s.cget c NI_TOK_CTL_retx_us
        abandon := if first then s.cget c NI_TOK_CTL_abandon_us else tk.abandon }
      let s := s.modNi c fun x => { x with tokens := aput x.tokens t (if first then tk' else { tk' with st := .resent }) }
      if !first then s else
      match tk.use with
      | .read d .. => s.modNi c fun x => x.modDesc d fun d => { d with injected := d.injected + 1 }
      | .msg _ _ (some d) => s.modNi c fun x => x.modDesc d fun d => { d with injected := d.injected + 1 }
      | .msg _ _ none => s
  | .desc id =>
    let s := s.modNi c fun x => x.modDesc id fun d => { d with injected := d.injected + 1 }
    match (s.ni c).desc id with
    | none => s
    | some d =>
      if d.op = 1 then (if d.allIn then (s.armTracker c id).checkWrite c id else s) else s.checkSent c id
  | .serve id => s.modNi c fun x => { x with
      serves := (mapIf (fun v => v.id == id) (fun v => { v with sent := v.sent + 1 }) x.serves).filter fun v => decide (v.sent < v.count) }
  | .combine => s
  | .tel => s
  | .mnt _ => s

/-- Clear the head of a plane. -/
def State.clearHead (s : State) (c : Nat) (pl : Plane) : State :=
  s.modNi c fun x => if pl = .reply then { x with headRep := none } else { x with headReq := none }

/-- The head's bookkeeping at its injection: its source, the tags, then no head. -/
def State.headGone (s : State) (c : Nat) (pl : Plane) (h : Head) : State :=
  let s := match h.src with
    | .mnt _ => (s.modBlockRegs (blockOf c) fun r => r.bump BLK_RINSE_STAT_sent).modNi c fun x =>
        if pl = Plane.reply then { x with mntRep := none } else { x with mntReq := none }
    | _ => s.tagTx c ((s.ni c).headTag h)
  (s.headSent c h).clearHead c pl

/-- Is an output free for an MNT: as for any packet, or across a sluice in TEST (R306)? -/
def State.mntFree (s : State) (c : Nat) (pl : Plane) (p : Nat) : Bool :=
  match aget (s.rt c).sluices p, neighbor c p with
  | some x, some d => x.test && s.linkOpen c d && !(s.taken c pl).getLsbD p
  | _, _ => s.freeOut c pl p

/-- The ports on which a head may go: an MNT only onto its own (R301). -/
def State.headPort (s : State) (c : Nat) (pl : Plane) (h : Head) (pk : Packet) : Option Nat :=
  match h.src with
  | .mnt p => if s.mntFree c pl p then some p else none
  | _ => s.injectPort c pl pk

/-- An RD_DATA whose data could not be read: its RD_REQ is refused and served no further (R184, R498). -/
def State.badServe (s : State) (c : Nat) (h : Head) : State :=
  match h.src with
  | .serve id =>
    match (s.ni c).serves.find? fun v => v.id == id with
    | none => s.clearHead c .reply
    | some v =>
      if !s.answerFree c then s else
      let g := v.granule + (v.taken - 1)
      ((s.modNi c fun x => { x with
        serves := x.serves.filter fun w => w.id != id, badReads := x.badReads.filter fun b => b != h.id }).clearHead c .reply).nack c v.req
        rWINDOW (0x80000000 + g % 2 ^ 24)
  | _ => s

/-- Does the answer queue go ahead of the reply plane's head (R70)? -/
def State.answersFirst (s : State) (c : Nat) (pl : Plane) : Bool := pl == Plane.reply && !(s.rt c).answers.isEmpty

/-- Offer the head to pass 4. -/
def State.injectHead (s : State) (c : Nat) (pl : Plane) : State :=
  match (s.ni c).head pl with
  | none => s
  | some h =>
    let mnt := match h.src with
      | .mnt _ => true
      | _ => false
    if ((s.ni c).hold ≠ .none && !(mnt && (s.ni c).hold == .bringUp)) || (s.ni c).readsWait h.id then s
    else if (s.ni c).badReads.contains h.id then s.badServe c h
    else
      let tag := (s.ni c).headTag h
      let pk := s.stamped c h.pkt 0
      if s.isLocal c pk then (s.headGone c pl h).handOver c pl pk
      else if s.answersFirst c pl || !s.mayInject c pl then s
      else match s.headPort c pl h pk with
        | none => s
        | some p => (s.headGone c pl h).inject c pl p pk tag

/-- NI_HEAD_INJECT. -/
def execNiHeadInject (c : Nat) (pl : Plane) (s : State) : Res := onUnit (Instr.niHeadInject c pl).wf s (s.injectHead c pl)

/-- Enter on a non-productive port with age 1, counted as a deflection and as forced (R81). -/
def State.forced (s : State) (c : Nat) (pl : Plane) (p : Nat) (pk : Packet) (tag : W32) : State :=
  ((s.noteDefl c pl).bump c NI_INJ_CNT_forced).inject c pl p (s.stamped c pk 1) tag

/-- Has a wait since an ncyc reached the patience of R81? Patience 0 stands for no exception. -/
def State.impatient (s : State) (c since : Nat) : Bool :=
  let n := s.cget c NI_INJ_CTL_patience
  n != 0 && decide (since + n ≤ s.ncyc)

/-- Patience of the answer queue's head. -/
def State.forceAnswer (s : State) (c : Nat) : State :=
  match (s.rt c).answers with
  | [] => s
  | a :: _ =>
    let pk := s.stamped c a 0
    if !s.mayInject c .reply || s.isLocal c pk || !s.impatient c (s.rt c).ansSince || (s.injectPort c .reply pk).isSome then s
    else match s.anyPort c .reply with
      | none => s
      | some p => ((s.popAnswer c).answerTag c pk).forced c .reply p a (transitTag pk)

/-- Patience of the NI's head. -/
def State.forceHead (s : State) (c : Nat) (pl : Plane) : State :=
  match (s.ni c).head pl with
  | none => s
  | some h =>
    let pk := s.stamped c h.pkt 0
    let mnt := match h.src with
      | .mnt _ => true
      | _ => false
    if (s.ni c).hold ≠ .none || (s.ni c).readsWait h.id || (s.ni c).badReads.contains h.id || mnt || s.isLocal c pk ||
        !s.mayInject c pl || !s.impatient c h.since || (s.injectPort c pl pk).isSome then s
    else match s.anyPort c pl with
      | none => s
      | some p =>
        let tag := (s.ni c).headTag h
        (s.headGone c pl h).forced c pl p h.pkt tag

/-- PATIENCE_EXPIRE (R81). -/
def execPatienceExpire (c : Nat) (pl : Plane) (s : State) : Res :=
  onUnit (Instr.patienceExpire c pl).wf s (if s.answersFirst c pl then s.forceAnswer c else s.forceHead c pl)

end Sys2Proof.Machine
end

