-- ==== Sys2Proof/Machine/Observation.lean ====
section
/-! DEFINITION. Observation (R207, R312, R475 to R478): the telemetry ring, PC and stall samples, latency sampling, and the map cache. -/

namespace Sys2Proof.Machine

/-! ## Telemetry and PC-sample rings (R475, R476, R489) -/

/-- The cluster address of record i of a ring of 32-byte records (R489). -/
def ring32 (base log2 i : Nat) : Nat := base * 4096 + 32 * (i % 2 ^ log2)

/-- Step 5 of R48 for a TEL (R475). -/
def State.telLand (s : State) (c : Nat) (p : Packet) : State :=
  let r := (s.cell c).regs
  if !r.flag NI_TEL_RING_enable then s.bump c NI_TEL_STAT_tel_unclaimed
  else (s.tagRx c 0).modCell c fun x => { x with
    cm := mwriteList x.cm (ring32 (r.get NI_TEL_RING_base) (r.get NI_TEL_RING_size_log2) x.ni.telWritten.toNat) (p.plBytes.take 32)
    ni := { x.ni with telWritten := x.ni.telWritten + 1 } }

/-- TEL_EJECT. -/
def execTelEject (c : Nat) (s : State) : Res :=
  onUnit (Instr.telEject c).wf s (s.ejectType c tTEL fun _ p s => s.telLand c p)

/-- The stall state of a core (R477): code, object, ncyc stalled. -/
def State.stallOf (s : State) (c core : Nat) : Nat × Nat × Nat :=
  let k := (s.ni c).core core
  match k.stall with
  | none => if k.policed then (7, k.sentCh, 0) else (0, 0, 0)
  | some (st, t0) =>
    let n := s.ncyc - t0
    match st with
    | .meta_ q => (1, q, n)
    | .sendGo ch v =>
      let need := (tuplePackets (bits v.toNat 12 3) (BitVec.ofNat 12 (bits v.toNat 16 12)) k.sendW).length
      (if (aget (s.ni c).chans ch).isSome && decide ((s.ni c).freeTokens < need) then 2 else 3, ch, n)
    | .syncRes => (4, k.syncCh, n)
    | .barWait x => (5, x, n)
    | .rillGo .. => (6, 0, n)
    | .wakeUp => (8, 0, n)

/-- The PC-sample interval has passed since this NI's last request (key of Ni.did). -/
def dPcs : Nat := 5

/-- The next core of the mask in rotating order. -/
def Regs.pcsNext (r : Regs) (from_ : Nat) : Option Nat :=
  ((List.range 32).map fun i => (from_ + i) % 32).find? fun k => bits (r.get NI_PCS_CTL_core_mask) k 1 == 1

/-- Does an NI take PC samples: its block is in Run, or on its way there (R484)? A block in Doze, Sleep or Off has its clock stopped (R405). -/
def State.pcsClocked (s : State) (c : Nat) : Bool := (s.block (blockOf c)).power == .run || (s.block (blockOf c)).exiting

/-- PC_SAMPLE_TICK (R476). -/
def execPcSampleTick (c : Nat) (s : State) : Res :=
  onUnit (Instr.pcSampleTick c).wf s
    (let r := (s.cell c).regs
    let x := s.ni c
    let due := match aget x.did dPcs with
      | none => true
      | some t => decide (t + 2 ^ r.get NI_PCS_CTL_pc_log2 ≤ s.ncyc + 1)
    if x.hold ≠ .none || !s.pcsClocked c || !r.flag NI_PCS_CTL_enable || !due || x.pcs.isSome then s else
    match r.pcsNext x.pcsCore with
    | none => s
    | some k =>
      let st := s.stallOf c k
      let tagged := decide (2 ≤ st.1) && decide (st.1 ≤ 4) || st.1 == 7
      let tag := if tagged then ((aget x.chans st.2.1).map (·.e.tag)).getD 0 else 0
      (s.modNi c fun x => { (x.note dPcs s.ncyc).modCore k (fun e => { e with policed := false }) with
        pcs := some ⟨k, s.ncyc, s.time, st.1, st.2.1, tag, st.2.2⟩, pcsCore := (k + 1) % 32 }).emit (.pcsRequest c k))

/-- A PC-sample record (R478). -/
def PcSample.bytes (m : PcSample) (pc : W64) (valid : Bool) : List Byte :=
  leBytes 8 (if valid then pc.toNat else 0) ++ leBytes 8 m.time.toNat ++ leBytes 1 m.core ++ leBytes 1 m.code ++ leBytes 2 m.object ++
    leBytes 4 m.tag.toNat ++ leBytes 2 (min (m.stalled / 64) 65535) ++ leBytes 1 valid.toNat ++ leBytes 5 0

/-- Write the record of the sample under way (R476, R478). -/
def State.pcsWrite (s : State) (c : Nat) (m : PcSample) (pc : W64) (valid : Bool) : State :=
  let r := (s.cell c).regs
  let s := if valid then s else s.bump c NI_PCS_STAT_no_answer
  s.modCell c fun x =>
    if r.flag NI_PCS_RING_enable then { x with
      cm := mwriteList x.cm (ring32 (r.get NI_PCS_RING_base) (r.get NI_PCS_RING_size_log2) x.ni.pcsWritten.toNat) (m.bytes pc valid)
      ni := { x.ni with pcs := none, pcsWritten := x.ni.pcsWritten + 1 } }
    else { x with ni := { x.ni with pcs := none } }

/-- PC_SAMPLE_ANSWER (R476): within 16 ncyc of the request. -/
def execPcSampleAnswer (c : Nat) (pc : W64) (s : State) : Res :=
  onUnit (Instr.pcSampleAnswer c pc).wf s
    (match (s.ni c).pcs with
    | none => s
    | some m => if m.since + 16 < s.ncyc then s else s.pcsWrite c m pc true)

/-- PC_SAMPLE_TIMEOUT (R476). -/
def execPcSampleTimeout (c : Nat) (s : State) : Res :=
  onUnit (Instr.pcSampleTimeout c).wf s
    (match (s.ni c).pcs with
    | none => s
    | some m => if m.since + 16 < s.ncyc then s.pcsWrite c m 0 false else s)

/-! ## Latency observation (R207, R215) -/

/-- The sample interval in ncyc. -/
def Regs.latInterval (r : Regs) : Nat := 2 ^ (8 + r.get NI_LAT_CTL_sample_log2)

/-- Both observation register sets cleared. -/
def Regs.clearLat (r : Regs) : Regs :=
  (List.range 64).foldl (fun r q => (r.write (NI_QLAT_S_samples.at q).off 0).write (NI_QLAT_H_depth_hw.at q).off 0) r

/-- A write of NI_LAT_CTL: one that changes the mode clears both sets; the reserved mode 3 leaves the mode as it is (R13); sampling counts its
interval from here. -/
def State.latWrite (s : State) (c : Nat) (v : W32) : State :=
  let old := s.cget c NI_LAT_CTL_mode
  let mode := bits v.toNat 0 2
  let s := s.modCellRegs c fun r => (r.set NI_LAT_CTL_mode (if mode = 3 then old else mode)).set NI_LAT_CTL_sample_log2 (bits v.toNat 8 4)
  let s := if s.cget c NI_LAT_CTL_mode = old then s else s.modCellRegs c Regs.clearLat
  s.modNi c fun x => { x with latNext := s.ncyc + (s.cell c).regs.latInterval }

/-- NI_LAT_CTL_MODE_WRITE. -/
def execNiLatCtlModeWrite (c : Nat) (v : W32) (s : State) : Res :=
  onUnit (Instr.niLatCtlModeWrite c v).wf s (s.latWrite c v)

/-- One sample of queue q (R207). -/
def State.latSample (s : State) (c q : Nat) : State :=
  let k := (s.ni c).queue q
  let wait := match k.ents with
    | [] => 0
    | e :: _ => (s.ncyc - e.born) / 64
  s.modCellRegs c fun r =>
    ((r.bump (NI_QLAT_S_samples.at q)).add (NI_QLAT_S_depth_sum.at q) k.ents.length).add (NI_QLAT_S_delay_sum.at q) wait

/-- LATENCY_SAMPLE_TICK (R207): in a block in Run, the only state in which its NIs are clocked (R405). -/
def execLatencySampleTick (c : Nat) (s : State) : Res :=
  onUnit (Instr.latencySampleTick c).wf s
    (if s.cget c NI_LAT_CTL_mode ≠ 1 ∨ s.ncyc < (s.ni c).latNext ∨ (s.block (blockOf c)).power ≠ .run then s
     else (s.forEach (List.range 64) fun s q => s.latSample c q).modNi c fun x =>
      { x with latNext := s.ncyc + (s.cell c).regs.latInterval })

/-! ## The map cache (R312, R328) -/

/-- Entries of the map cache (R312). -/
def mapCacheSize : Nat := 128

/-- Drop an entry of a map cache. -/
def Ni.mapDrop (x : Ni) (lid : Nat) : Ni := { x with mapCache := x.mapCache.filter fun e => e.lid != lid }

/-- NI_MAP_CTL_INVAL_ONE. -/
def execNiMapCtlInvalOne (c lid : Nat) (s : State) : Res :=
  onUnit (Instr.niMapCtlInvalOne c lid).wf s (s.modNi c fun x => x.mapDrop lid)

/-- NI_MAP_CTL_INVAL_ALL. -/
def execNiMapCtlInvalAll (c : Nat) (s : State) : Res :=
  onUnit (Instr.niMapCtlInvalAll c).wf s (s.modNi c fun x => { x with mapCache := [] })

/-- Drop the least recently used entry of a full map cache. -/
def Ni.mapRoom (x : Ni) : Ni :=
  if x.mapCache.length < mapCacheSize then x else
  match x.mapCache.foldl (fun (a : Option MapEnt) e =>
    match a with
    | none => some e
    | some b => if e.used < b.used then some e else a) none with
  | some e => x.mapDrop e.lid
  | none => x

/-- MAP_CACHE_FILL (R312): the region manager's answer to a miss as its copy stands now, so that an invalidation meanwhile is met by the
entry of after it. -/
def execMapCacheFill (c lid : Nat) (s : State) : Res :=
  onUnit (Instr.mapCacheFill c lid).wf s
    (if !(s.ni c).mapMiss.contains lid then s
     else s.modNi c fun x =>
      let y := (x.mapDrop lid).mapRoom
      { y with mapMiss := y.mapMiss.filter fun l => l != lid, mapCache := y.mapCache ++ [⟨lid, s.mapOf c lid, y.nextId⟩], nextId := y.nextId + 1 })

end Sys2Proof.Machine
end

