-- ==== Sys2Proof/Machine/Mailbox.lean ====
section
/-! DEFINITION. Zhevber's handling of mailbox commands as shared operations (R421 to R433, R450, R451): the command and its arguments, the
order in which mailboxes are taken, the checks of R428, responses, and requests for epoch flips (R310). -/

namespace Sys2Proof.Machine

/-! ## Commands (R422, R425) -/

/-- A command as Zhevber takes it: mailbox, the 64 bytes, the extended arguments. -/
structure Cmd where
  m : Nat
  bytes : List Byte
  ext : List Byte
deriving DecidableEq, Repr

/-- A little-endian number of n bytes at a byte of the command. -/
def Cmd.num (k : Cmd) (off n : Nat) : Nat := leNat ((k.bytes.drop off).take n)
/-- The opcode. -/
def Cmd.opcode (k : Cmd) : Nat := k.num 0 2
/-- The key slot. -/
def Cmd.slot (k : Cmd) : Nat := k.num 2 1
/-- The flags byte. -/
def Cmd.flags (k : Cmd) : Nat := k.num 3 1
/-- ext_len. -/
def Cmd.extLen (k : Cmd) : Nat := k.num 4 4
/-- The counter. -/
def Cmd.counter (k : Cmd) : Nat := k.num 8 8
/-- n bytes of the arguments from argument byte off. -/
def Cmd.arg (k : Cmd) (off n : Nat) : Nat := k.num (16 + off) n
/-- n bytes of the extended arguments. -/
def Cmd.extNum (k : Cmd) (off n : Nat) : Nat := leNat ((k.ext.drop off).take n)
/-- Is a command tagged? -/
def Cmd.tagged (k : Cmd) : Bool := k.slot != 0xFF

/-- The bytes of words. -/
def wordBytes (ws : List W32) : List Byte := ws.flatMap fun w => leBytes 4 w.toNat

/-- A mailbox. -/
def State.mbx (s : State) (m : Nat) : Mailbox := s.ftn.mbx.getD m Mailbox.reset

/-- Change a mailbox. -/
def State.modMbx (s : State) (m : Nat) (f : Mailbox → Mailbox) : State :=
  s.modFtn fun x => { x with mbx := (List.range 10).map fun i => if i = m then f (x.mbx.getD i Mailbox.reset) else x.mbx.getD i Mailbox.reset }

/-- Bytes of a staging buffer (R418, R422). -/
def stagingSize : Nat := 524288

/-- The command that stands in mailbox m, with its extended arguments (R425). -/
def State.cmdOf (s : State) (m : Nat) : Cmd :=
  let b := wordBytes (s.mbx m).cmd
  let n := leNat ((b.drop 4).take 4)
  ⟨m, b, if n ≤ stagingSize then mreadList ((aget s.ftn.staging m).getD []) 0 n else []⟩

/-! ## The order of taking (R424) -/

/-- The mailbox whose command Zhevber takes next: the first rung and not yet taken after the one taken last. -/
def State.nextMbx (s : State) : Option Nat :=
  ((List.range 10).map fun i => (s.ftn.last + 1 + i) % 10).find? fun m => (s.mbx m).busy && !(s.mbx m).taken

/-! ## What an opcode allows (R431) -/

/-- Is an opcode defined (R431)? -/
def opKnown (op : Nat) : Bool :=
  [0x01, 0x02, 0x03, 0x08, 0x10, 0x11, 0x12, 0x13, 0x20, 0x21, 0x22, 0x23, 0x24, 0x25, 0x30, 0x31, 0x32, 0x33, 0x34, 0x40, 0x41, 0x42,
   0x43, 0x44, 0x50, 0x51, 0x52, 0x53, 0x54, 0x55, 0x60, 0x70, 0x71, 0x80].contains op

/-- Is an opcode critical (R431)? -/
def opCrit (op : Nat) : Bool :=
  [0x02, 0x03, 0x08, 0x10, 0x11, 0x13, 0x20, 0x21, 0x22, 0x25, 0x30, 0x31, 0x42, 0x43, 0x44, 0x50, 0x51, 0x52, 0x53, 0x54, 0x60, 0x70,
   0x71].contains op

/-- The slots a tagged command of an opcode may name (R431). -/
def opSlots (op : Nat) : List Nat :=
  if [0x20, 0x53, 0x54].contains op then [0, 1]
  else if [0x22, 0x30, 0x31].contains op then [0]
  else if op = 0x25 then [2]
  else if opCrit op then [1]
  else [0, 1, 2]

/-- Step 2 of R428; management mailboxes accept slots 1 and 2 and untagged commands (R431). -/
def slotAllowed (k : Cmd) : Bool :=
  if !k.tagged then !opCrit k.opcode
  else (opSlots k.opcode).contains k.slot && (decide (k.m < 8) || k.slot != 0)

/-- The steps an opcode requires (R451). -/
def opNeeds (k : Cmd) : List Nat :=
  let op := k.opcode
  if op = 0x01 ∨ op = 0x08 ∨ op = 0x02 then [3]
  else if op = 0x10 then [3]
  else if op = 0x12 then [6]
  else if op = 0x11 then [7]
  else if op = 0x13 then [8]
  else if op = 0x60 ∧ k.arg 0 1 = 1 then [9]
  else if op = 0x70 ∨ op = 0x71 ∨ op = 0x50 then [5, 10]
  else if op = 0x03 then (if bits (k.arg 0 1) 0 1 = 1 then [10] else [10, 11])
  else if op = 0x43 ∨ op = 0x44 then [12]
  else [10]

/-- The step of bring-up an opcode belongs to, 0 for none (R450). -/
def opStep (k : Cmd) : Nat :=
  let op := k.opcode
  if op = 0x08 then 4
  else if op = 0x02 then 5
  else if op = 0x10 then 6
  else if op = 0x12 then 7
  else if op = 0x11 then 8
  else if op = 0x13 then 9
  else if op = 0x60 ∧ k.arg 0 1 = 1 then 10
  else if op = 0x70 then 11
  else if op = 0x03 then 12
  else if [0x20, 0x21, 0x22, 0x23, 0x24].contains op then 13
  else 0

/-- Is bring-up step n done (R450)? -/
def State.stepDone (s : State) (n : Nat) : Bool := bits (s.chget CHP_BRINGUP_done) (n - 1) 1 == 1

/-- Set bring-up step n done; ready follows from steps 10 to 13 (R450, R460). -/
def State.setStep (s : State) (n : Nat) : State :=
  let s := s.modChipRegs fun r => r.set CHP_BRINGUP_done (setBits (r.get CHP_BRINGUP_done) (n - 1) 1 1)
  if [10, 11, 12, 13].all s.stepDone then
    s.modChipRegs fun r => (r.set CHP_BRINGUP_done (setBits (r.get CHP_BRINGUP_done) 13 1 1)).set CHP_BRINGUP_ready 1
  else s

/-! ## Statuses (R432) -/

/-- OK. -/
def sOK : Nat := 0x00
/-- BAD_OPCODE. -/
def sBADOP : Nat := 0x01
/-- BAD_ARG. -/
def sBADARG : Nat := 0x02
/-- AUTH_FAIL. -/
def sAUTH : Nat := 0x03
/-- STALE_COUNTER. -/
def sSTALE : Nat := 0x04
/-- LOCKED. -/
def sLOCKED : Nat := 0x05
/-- SLOT_DENIED. -/
def sDENIED : Nat := 0x06
/-- NOT_READY. -/
def sNOTREADY : Nat := 0x07
/-- NO_RESOURCE. -/
def sNORES : Nat := 0x08
/-- IN_USE. -/
def sINUSE : Nat := 0x09
/-- CONFLICT. -/
def sCONFLICT : Nat := 0x0A
/-- FILE_REJECT. -/
def sFILE : Nat := 0x0B
/-- REJECTED_STATE. -/
def sREJECTED : Nat := 0x0C
/-- TIMEOUT. -/
def sTIMEOUT : Nat := 0x0D
/-- ABANDONED. -/
def sABANDONED : Nat := 0x0E
/-- INTERNAL. -/
def sINTERNAL : Nat := 0x0F

/-! ## Keys and tags (R426 to R429) -/

/-- A key slot. -/
def State.slot (s : State) (i : Nat) : Slot := s.ftn.slots.getD i Slot.reset

/-- Change a key slot. -/
def State.modSlot (s : State) (i : Nat) (f : Slot → Slot) : State :=
  s.modFtn fun x => { x with slots := (List.range 4).map fun j => if j = i then f (x.slots.getD j Slot.reset) else x.slots.getD j Slot.reset }

/-- The session key that the counter-mode KDF of R426 derives from a 256-bit key, a label and a context. -/
def deriveKey (root : BitVec 256) (label ctx : List Nat) : BitVec 128 :=
  BitVec.ofNat 128 (beNat (cmac (beBytes 32 root.toNat) (beBytes 4 1 ++ label ++ [0] ++ ctx ++ beBytes 4 128)))

/-- The label of slot i (R426). -/
def slotLabel (i : Nat) : List Nat :=
  match i with
  | 0 => [0x54, 0x50, 0x4E, 0x2D, 0x48, 0x41, 0x44, 0x4D]
  | 1 => [0x54, 0x50, 0x4E, 0x2D, 0x53, 0x4D, 0x47, 0x52]
  | 2 => [0x54, 0x50, 0x4E, 0x2D, 0x44, 0x42, 0x55, 0x47]
  | _ => [0x54, 0x50, 0x4E, 0x2D, 0x58, 0x43, 0x48, 0x50]

/-- The CMAC under a slot's key, none while it has none. -/
def State.slotMac (s : State) (i : Nat) (msg : List Nat) : Option (List Nat) :=
  (s.slot i).key.map fun k => cmac (beBytes 16 k.toNat) msg

/-- The message a command's tag covers (R427): FILE_COMMIT covers the whole file in place of extended arguments. -/
def State.taggedBytes (s : State) (k : Cmd) : List Nat :=
  let ext := if k.opcode = 0x42 then ((s.ftn.files.head?).map (·.bytes)).getD [] else k.ext
  natBytes (k.bytes.take 48 ++ ext)

/-- Does a command's tag match (R427, R428)? -/
def State.tagOk (s : State) (k : Cmd) : Bool := s.slotMac k.slot (s.taggedBytes k) == some (natBytes (k.bytes.drop 48))

/-- The events of a failure under a slot, and its lock at the eighth (R429). -/
def State.authFail (s : State) (k : Cmd) : State :=
  let n := (s.slot k.slot).fails + 1
  let s := s.modSlot k.slot fun x => { x with fails := n }
  let body (locked : Nat) := BitVec.ofNat 64 (k.slot + locked * 4 + k.m * 2 ^ 8 + k.opcode * 2 ^ 16)
  let s := s.post 0x08 unitChip (body 0) (BitVec.ofNat 64 k.counter)
  if n = 8 then (s.modSlot k.slot fun x => { x with locked := true }).post 0x08 unitChip (body 1) (BitVec.ofNat 64 k.counter)
  else s

/-! ## Responses (R423) -/

/-- A list of bytes brought to n bytes. -/
def padTo (n : Nat) (l : List Byte) : List Byte := (l ++ List.replicate n 0).take n

/-- Words of 64 bytes. -/
def bytesWords (n : Nat) (l : List Byte) : List W32 := (List.range n).map fun i => BitVec.ofNat 32 (leNat ((l.drop (4 * i)).take 4))

/-- Write the response of a mailbox: busy clears, done is set (R421, R423). `auth` tells that the tag verified. The step of a command that fails for a
reason other than NOT_READY is shown (R464); one that a chip reset abandons has left no such register behind. -/
def State.respondMbx (s : State) (k : Cmd) (auth : Bool) (status detail : Nat) (result : List Byte) : State :=
  let body := leBytes 2 k.opcode ++ leBytes 1 status ++ [0] ++ leBytes 4 detail ++ leBytes 8 k.counter ++
    padTo 32 (if status = sOK then result else [])
  let s := if status ≠ sOK ∧ status ≠ sNOTREADY ∧ status ≠ sABANDONED ∧ opStep k ≠ 0 then
      s.modChipRegs fun r => r.set CHP_BRINGUP_failed_step (opStep k) else s
  let tag : List Byte := if auth && k.tagged then ((s.slotMac k.slot (natBytes body)).getD []).map (BitVec.ofNat 8) else []
  s.modMbx k.m fun x => { x with rsp := bytesWords 16 (padTo 64 (body ++ tag)), busy := false, done := true, taken := false }

/-- Complete a command that passed step 5: its response, and CRIT_DONE for a critical one (R435). -/
def State.finish (s : State) (k : Cmd) (status detail : Nat) (result : List Byte) : State :=
  let s := s.respondMbx k true status detail result
  if opCrit k.opcode then
    s.post 0x09 unitChip (BitVec.ofNat 64 (k.opcode + status * 2 ^ 16 + k.slot % 4 * 2 ^ 24 + k.m * 2 ^ 28)) (BitVec.ofNat 64 k.counter)
  else s

/-- Complete OK without a result. -/
def State.ok (s : State) (k : Cmd) : State := s.finish k sOK 0 []
/-- Complete BAD_ARG at a byte of the command. -/
def State.badArg (s : State) (k : Cmd) (byte : Nat) : State := s.finish k sBADARG byte []
/-- The command waits; its mailbox stays busy (R424). -/
def State.holdMbx (s : State) (k : Cmd) : State := s.modMbx k.m fun x => { x with taken := true }
/-- The held command of mailbox m completes. -/
def State.finishHeld (s : State) (m status detail : Nat) (result : List Byte) : State :=
  if (s.mbx m).taken then s.finish (s.cmdOf m) status detail result else s

/-! ## Taking a command (R424, R428) -/

/-- Step 6 of R428 up to the command's own rules: flags, the steps of R451, the length of the extended arguments. -/
def State.generalChecks (s : State) (k : Cmd) (extLen : Option Nat) (body : State → State) : State :=
  if k.flags ≠ 0 then s.badArg k 3
  else match (opNeeds k).find? fun n => !s.stepDone n with
    | some n => s.finish k sNOTREADY n []
    | none =>
      match extLen with
      | some n => if k.extLen ≠ n then s.badArg k 4 else body s
      | none => if stagingSize < k.extLen then s.badArg k 4 else body s

/-- Zhevber takes the command of mailbox m: the checks of R428 in their order, then the command's own rules. -/
def State.takeCmd (s : State) (k : Cmd) (extLen : Option Nat) (body : State → State) : State :=
  let s := s.modFtn fun x => { x with last := k.m }
  if !opKnown k.opcode then s.respondMbx k false sBADOP 0 []
  else if !slotAllowed k then s.respondMbx k false sDENIED 0 []
  else if !k.tagged then s.generalChecks k extLen body
  else if (s.slot k.slot).locked then s.respondMbx k false sLOCKED 0 []
  else if !s.tagOk k then
    let s := s.authFail k
    s.respondMbx k false sAUTH (s.slot k.slot).fails []
  else if k.counter ≤ (s.slot k.slot).counter.toNat then
    let s := s.authFail k
    s.respondMbx k true sSTALE (s.slot k.slot).fails []
  else (s.modSlot k.slot fun x => { x with counter := BitVec.ofNat 64 k.counter, fails := 0 }).generalChecks k extLen body

/-- A mailbox command of an opcode, whose arguments pick this row: taken when Zhevber runs and the mailbox is next in turn; otherwise
nothing happens (log 8). `extLen` is the length its extended arguments must have, none for a command whose own rules say. -/
def State.mailboxCmd (s : State) (m op : Nat) (row : Cmd → Bool) (extLen : Cmd → Option Nat) (body : Cmd → State → State) : State :=
  let k := s.cmdOf m
  if s.zRuns && s.nextMbx == some m && k.opcode == op && row k then s.takeCmd k (extLen k) (body k) else s

/-- A command of an opcode with one row and no extended arguments. -/
def State.plainCmd (s : State) (m op : Nat) (body : Cmd → State → State) : State :=
  s.mailboxCmd m op (fun _ => true) (fun _ => some 0) body

/-- Zhevber answers a command of an undefined opcode (R428, log 5). -/
def State.answerUnknown (s : State) : State :=
  match s.nextMbx with
  | none => s
  | some m =>
    let k := s.cmdOf m
    if s.zRuns && !opKnown k.opcode then s.takeCmd k none fun s => s else s

/-! ## Requests for flips (R310, R86) -/

/-- Request an epoch flip; before tables are installed there is none to flip from (R456). -/
def State.requestFlip (s : State) (r : FlipReq) : State :=
  if s.chip.routed then s.modChip fun x => { x with flipReqs := x.flipReqs ++ [r] } else s

/-- Is a cell's clock stopped: its block is in Sleep or Off (R409, R410)? -/
def State.stopped (s : State) (c : Nat) : Bool :=
  let p := (s.block (blockOf c)).power
  p == .sleep || p == .off

/-- Change every cell whose clock runs. -/
def State.allRunning (s : State) (f : Cell → Cell) : State :=
  let cells := s.cells
  let asleep := allBlocks.filter fun b => (s.block b).power == .sleep || (s.block b).power == .off
  let s := { s with cells := s.cells.mapAll f }
  s.forEach (asleep.flatMap blockCells) fun s c => { s with cells := s.cells.set c (cells.get c) }

/-- The running cells. -/
def State.running (s : State) : List Nat := allCells.filter fun c => !s.stopped c

/-! ## The map (R311, R312) -/

/-- A map entry with its parity bit (R517). -/
def mapWord (phys : Option Nat) : BitVec 16 :=
  let v := match phys with
    | some p => p
    | none => 0x4000
  let ones := ((List.range 15).filter fun i => v.testBit i).length
  BitVec.ofNat 16 (v + ones % 2 * 2 ^ 15)

/-- Write a whole map into every region manager's copy and invalidate every ID in the NIs (R312, R456). -/
def State.installMap (s : State) (phys : List (Option Nat)) : State :=
  let m : Assoc (BitVec 16) := (List.range phys.length).map fun i => (i, mapWord (phys.getD i none))
  { s with
    regions := s.regions.mapAll fun x => { x with map := m }
    cells := s.cells.mapAll fun x => { x with ni := { x.ni with mapCache := [] } } }

/-- Write the entry of a logical ID in every region manager's copy, and invalidate the ID in every NI (R311, R312). -/
def State.writeMap (s : State) (lid : Nat) (phys : Option Nat) : State :=
  { s with
    regions := s.regions.mapAll fun x => { x with map := aput x.map lid (mapWord phys) }
    cells := s.cells.mapAll fun x => { x with ni := x.ni.mapDrop lid } }

/-- The logical IDs mapped to a physical cell, as region 0's manager holds them. -/
def State.mappedTo (s : State) (c : Nat) : List Nat :=
  ((s.region 0).map.filter fun e => entryCell e.2.toNat == some c).map (·.1)

/-- Mark the logical IDs of a cell vacant (R311, step 1). -/
def State.vacate (s : State) (c : Nat) : State := s.forEach (s.mappedTo c) fun s l => s.writeMap l none

end Sys2Proof.Machine
end

