-- ==== Sys2Proof/Machine/RillNet.lean ====
section
/-! DEFINITION. The rill (R273 to R280, R285, R288): the running rill routers, the trees of the contexts, routes, credits and arbitration,
the decode of a flit at a router input, and the sequences that leave a link port. -/

namespace Sys2Proof.Machine

/-! ## Flit kinds (R278) -/

/-- FAULT. -/
def kFAULT : BitVec 5 := 0x00
/-- RESET. -/
def kRESET : BitVec 5 := 0x01
/-- SLUICE. -/
def kSLUICE : BitVec 5 := 0x02
/-- GATHER. -/
def kGATHER : BitVec 5 := 0x08
/-- RELEASE. -/
def kRELEASE : BitVec 5 := 0x09
/-- BCAST. -/
def kBCAST : BitVec 5 := 0x0A
/-- WAKE. -/
def kWAKE : BitVec 5 := 0x10
/-- TIME. -/
def kTIME : BitVec 5 := 0x11
/-- CMSG. -/
def kCMSG : BitVec 5 := 0x18
/-- CNACK. -/
def kCNACK : BitVec 5 := 0x19
/-- ROUTE. -/
def kROUTE : BitVec 5 := 0x1C
/-- CTR. -/
def kCTR : BitVec 5 := 0x1D
/-- TAG. -/
def kTAG : BitVec 5 := 0x1E

end Sys2Proof.Machine

namespace Sys2Proof

open Sys2Proof.Machine

/-- Is a kind one of the three that follow a context tree? -/
def Flit.tree (f : Flit) : Bool := f.kind == kGATHER || f.kind == kRELEASE || f.kind == kBCAST

/-- Has a flit a kind of R278, with a seg legal for it: ROUTE is first, CTR middle, TAG last, a CMSG, CNACK or TIME single or last, any
other single? -/
def Flit.wellFormed (f : Flit) : Bool :=
  if f.kind == kROUTE then f.seg == 1
  else if f.kind == kCTR then f.seg == 2
  else if f.kind == kTAG then f.seg == 3
  else if f.kind == kCMSG || f.kind == kCNACK || f.kind == kTIME then f.seg == 0 || f.seg == 3
  else [kFAULT, kRESET, kSLUICE, kGATHER, kRELEASE, kBCAST, kWAKE].contains f.kind && f.seg == 0

/-- The destination chip of a ROUTE. -/
def Flit.dstChip (f : Flit) : Nat := bits f.payload.toNat 0 13
/-- The source chip of a ROUTE. -/
def Flit.srcChip (f : Flit) : Nat := bits f.payload.toNat 13 13
/-- The destination logical cell of a ROUTE. -/
def Flit.dstLid (f : Flit) : Nat := bits f.payload.toNat 26 14
/-- The source logical cell of a ROUTE. -/
def Flit.srcLid (f : Flit) : Nat := bits f.payload.toNat 40 14

/-- A ROUTE's payload. -/
def routeWord (dstChip srcChip dstLid srcLid : Nat) : W64 :=
  BitVec.ofNat 64 (dstChip + srcChip * 2 ^ 13 + dstLid * 2 ^ 26 + srcLid * 2 ^ 40)

/-- Bytes 0 to 13 of a flit (R273). -/
def Flit.bytes14 (f : Flit) : List Byte :=
  leBytes 6 (f.vc.toNat + f.kind.toNat * 2 ^ 2 + f.seg.toNat * 2 ^ 7 + f.dst.toNat * 2 ^ 9 + f.src.toNat * 2 ^ 23 +
    f.parterre.toNat * 2 ^ 37 + f.aux.toNat * 2 ^ 45) ++ leBytes 8 f.payload.toNat

/-- The check byte over seven bytes of a flit, with an eighth of zero (R273). -/
def flitCheck (bs : List Byte) : Byte := Config.hsiao (BitVec.ofNat 64 (leNat bs))

/-- The 16 bytes of a flit (R273). -/
def Flit.bytes (f : Flit) : List Byte := f.bytes14 ++ [flitCheck (f.bytes14.take 7), flitCheck (f.bytes14.drop 7)]

/-- May a flit cross a serial link (R285): one of context 1, of time, a ROUTE, a CMSG or CNACK behind its ROUTE? -/
def Flit.crosses (f : Flit) : Bool :=
  (f.tree && f.dst.toNat % 16 == 1) || f.kind == kTIME || f.kind == kROUTE || ((f.kind == kCMSG || f.kind == kCNACK) && f.seg == 3)

end Sys2Proof

namespace Sys2Proof.Machine

/-! ## The net of running routers (R277, R279) -/

/-- Does a block's rill routers stand still (R277)? -/
def State.rillStopped (s : State) (b : Nat) : Bool :=
  let p := (s.block b).power
  p == .sleep || p == .off

/-- The rill net as it stands, with a root. -/
def State.rillNow (s : State) (root : Nat) : RillMap :=
  { root := root
    still := allBlocks.filter s.rillStopped
    closed := s.cells.ents.flatMap fun e => ((List.range 4).filter fun p => e.2.rt.rillClosed.getLsbD p).map fun p => (e.1, p) }

/-- Is every router of a net running and every port open? -/
def RillMap.plain (m : RillMap) : Bool := m.still.isEmpty && m.closed.isEmpty

/-- The cells whose rill routers ran, those of a list of blocks counted as running too. -/
def RillMap.run (m : RillMap) (also : List Nat) : Nat :=
  ndiff gridSet (cellSet ((m.still.filter fun b => !also.contains b).flatMap blockCells))

/-- The cells of a set from which rill port p led, open, into another set. -/
def RillMap.hop (m : RillMap) (run p f : Nat) : Nat := ndiff (predSet p f &&& run) (cellSet ((m.closed.filter fun e => e.2 == p).map (·.1)))

/-- The cells one open hop from a set. -/
def RillMap.near (m : RillMap) (run f : Nat) : Nat := m.hop run 0 f ||| m.hop run 1 f ||| m.hop run 2 f ||| m.hop run 3 f

/-- The ports of a cell that led, open, into a set. -/
def RillMap.portsInto (m : RillMap) (run c f : Nat) : BitVec 4 :=
  BitVec.ofNat 4 (((m.hop run 0 f).testBit c).toNat + 2 * ((m.hop run 1 f).testBit c).toNat + 4 * ((m.hop run 2 f).testBit c).toNat +
    8 * ((m.hop run 3 f).testBit c).toNat)

/-- The cells by their distance from a set, nearest first. -/
def RillMap.levels (m : RillMap) (run : Nat) (fuel f seen : Nat) : List Nat :=
  match fuel with
  | 0 => []
  | n + 1 => if f = 0 then [] else f :: m.levels run n (ndiff (m.near run f) seen) (seen ||| m.near run f)

/-- At each distance from the root, the cells from which a way that only leads away from the root reaches a set. -/
def RillMap.downs (m : RillMap) (run goal : Nat) : List Nat → List Nat
  | [] => []
  | l :: r =>
    let d := m.downs run goal r
    ((l &&& goal) ||| (l &&& m.near run (d.headD 0))) :: d

/-- The ports that a rewritten route of cell c toward a block may name: in the up/down order of context 0's tree a route leads away from the root
as soon as such hops alone reach the block, and toward the root before (R279). The blocks of a region that stands still are passed on the way to a
block in it, so that a WAKE reaches its boundary (R277). -/
def RillMap.legal (m : RillMap) (c b : Nat) : BitVec 4 :=
  let run := m.run (if m.still.contains b then regionBlocks (blockRegion b) else [])
  let root := cellSet [m.root] &&& run
  let ls := m.levels run 9216 root root
  let ds := m.downs run (cellSet (blockCells b)) ls
  let k := ls.findIdx fun l => l.testBit c
  if (ds.getD k 0).testBit c then m.portsInto run c (ds.getD (k + 1) 0)
  else if k = 0 then 0 else m.portsInto run c (ls.getD (k - 1) 0)

/-- Breadth-first search outward from a set: the ports at cell c that lead one hop nearer; 0 where there is no way. -/
def RillMap.search (m : RillMap) (run c : Nat) (fuel f seen : Nat) : BitVec 4 :=
  match fuel with
  | 0 => 0
  | n + 1 =>
    let e := m.near run f
    if e.testBit c then m.portsInto run c f
    else if ndiff e seen = 0 then 0 else m.search run c n (ndiff e seen) (seen ||| e)

/-! ## The trees of the contexts (R280, R286, R290) -/

/-- The bundle that dimension order takes from one chip toward another (R375). -/
def State.dimOrderAt (s : State) (own dst : Nat) : Nat :=
  let dx := (chipX dst + s.dim 0 - chipX own % s.dim 0) % s.dim 0
  let dy := (chipY dst + s.dim 1 - chipY own % s.dim 1) % s.dim 1
  let dz := (chipZ dst + s.dim 2 - chipZ own % s.dim 2) % s.dim 2
  if dx ≠ 0 then (if dx ≤ s.dim 0 / 2 then 0 else 1)
  else if dy ≠ 0 then (if dy ≤ s.dim 1 / 2 then 2 else 3)
  else if dz ≤ s.dim 2 / 2 then 4 else 5

/-- The lowest-numbered ACTIVE port of a bundle. -/
def State.bundlePort (s : State) (b : Nat) : Option Nat := (bundlePorts b).find? fun n => s.linkActive n

/-- Is this chip the master of time and root of context 1 (R383)? -/
def State.isMaster (s : State) : Bool := s.chip.regs.flag CHP_TIME_CTL_master

/-- The master chip's ID (R383, log 29). -/
def State.masterChip (s : State) : Nat := if s.isMaster then s.chipId.toNat else s.chip.masterId.toNat

/-- The uplink bundle under the ACTIVE version (R383). -/
def State.uplink (s : State) : Nat := s.bundle (s.masterChip) s.chip.active.toNat

/-- The parent port of this chip (R383). -/
def State.parentPort (s : State) : Option Nat := if s.isMaster || s.uplink = 6 then none else s.bundlePort s.uplink

/-- The ports behind which a child chip of the system tree lies: the lowest ACTIVE one of each bundle whose peer's dimension order
toward the master leads here (R286). -/
def State.childPorts (s : State) : List Nat :=
  ((List.range 6).filter fun b =>
    s.peerChip b != s.chipId.toNat && s.peerChip b != s.masterChip &&
    s.dimOrderAt (s.peerChip b) (s.masterChip) == (if b % 2 = 0 then b + 1 else b - 1)).filterMap s.bundlePort

/-- The corner that is root of context 0 (R280). -/
def State.cornerRoot (s : State) : Nat := cornerCell (s.chget CHP_RILL_CTL_root_corner)

/-- The root of a context on this chip, as CHP_RILL_CTX names it (R291). -/
def State.ctxRoot (s : State) (x : Nat) : Nat := s.chget (CHP_RILL_CTX_root.at x)

/-- The port from one cell toward another: in x, then in y (R279, R280). -/
def xyPort (a b : Nat) : Nat := if cx a < cx b then 0 else if cx b < cx a then 2 else if cy a < cy b then 1 else 3

/-- The port up from a cell that is not the root: along x to the root's column, then along y; around routers that stand still and closed ports, the
first in that order of those that lead nearer (R280, R409, R410). None where the root is out of reach. -/
def RillMap.up (m : RillMap) (c : Nat) : Option Nat :=
  if m.plain then some (xyPort c m.root)
  else
    let run := m.run []
    let root := cellSet [m.root] &&& run
    let w := m.search run c 9216 root root
    [0, 2, 1, 3].find? fun p => w.getLsbD p

/-- The up port of a cell as Zhevber wrote a tree: 7 or 5 at the root. -/
def RillTree.upAt (t : RillTree) (c : Nat) : Nat :=
  if c = t.net.root then t.up else if t.net.still.contains (blockOf c) then 0 else (t.net.up c).getD 0

/-- The mesh bits of the expect mask of a cell: the neighbours whose up port leads here. -/
def RillTree.children (t : RillTree) (c : Nat) : List Nat :=
  (List.range 4).filter fun p => match neighbor c p with
    | some d => d != t.net.root && !t.net.still.contains (blockOf d) && t.net.up d == some (oppPort p)
    | none => false

/-- The expect mask of a cell as Zhevber wrote a tree: its children, its own readiness, and the edge bit where a child chip joins. -/
def RillTree.expectAt (t : RillTree) (c : Nat) : BitVec 6 :=
  if t.net.still.contains (blockOf c) || (c != t.net.root && (t.net.up c).isNone) then 0
  else BitVec.ofNat 6 (((t.children c).map (2 ^ ·)).sum + 16 + if t.kids.contains c then 32 else 0)

/-- The tree of a context that stands in CELL_RILL_TREE of a router: what Zhevber last wrote for contexts 0 and 1, unless the register was written
since (R290). -/
def State.treeAt (s : State) (x c : Nat) : Option RillTree :=
  if 2 ≤ x || (s.rt c).treeSet.contains x then none else if x = 0 then s.chip.tree0 else s.chip.tree1

/-- The up port of a context at a router: CELL_RILL_TREE.up_port (R290). -/
def State.ctxUp (s : State) (x c : Nat) : Nat :=
  match s.treeAt x c with
  | some t => t.upAt c
  | none => s.cget c (CELL_RILL_TREE_up_port.at x)

/-- The expect mask of a context at a router: CELL_RILL_TREE.expect (R290). -/
def State.ctxExpect (s : State) (x c : Nat) : BitVec 6 :=
  match s.treeAt x c with
  | some t => t.expectAt c
  | none => BitVec.ofNat 6 (s.cget c (CELL_RILL_TREE_expect.at x))

/-- The output mask down a context's tree: its expect mask without the local bit. -/
def State.ctxDown (s : State) (x c : Nat) : List Nat := [0, 1, 2, 3, 5].filter fun p => (s.ctxExpect x c).getLsbD p

/-- Is a context in use (R291)? -/
def State.ctxValid (s : State) (x : Nat) : Bool := s.chip.regs.flag (CHP_RILL_CTX_valid.at x)

/-! ## Zhevber's writes of trees and routes (R279, R280, R409, R459) -/

/-- Zhevber writes CELL_RILL_TREE of a context in every router: what a register write set there goes. -/
def State.writeTree (s : State) (x : Nat) (t : RillTree) : State :=
  let s := s.modChip fun h => if x = 0 then { h with tree0 := some t } else { h with tree1 := some t }
  if s.cells.ents.any fun e => e.2.rt.treeSet.contains x then
    { s with cells := s.cells.mapAll fun y => { y with rt := { y.rt with treeSet := y.rt.treeSet.filter fun k => k != x } } }
  else s

/-- The tree of context 0: rooted at the corner (R280). -/
def State.writeTree0 (s : State) : State := s.writeTree 0 ⟨s.rillNow s.cornerRoot, 7, []⟩

/-- The root of context 1 on this chip with the up port there: the cell of the first ACTIVE port of the uplink bundle, or on the root chip its corner
(R286). -/
def State.uplinkRoot (s : State) : Nat × Nat :=
  match s.parentPort with
  | some n => ((linkCell n 0).1, 5)
  | none => (s.cornerRoot, 7)

/-- The cells of the ports behind which a child chip lies (R286). -/
def State.childCells (s : State) : List Nat := s.childPorts.map fun n => (linkCell n 0).1

/-- The tree of context 1 on this chip, and its root (R286, R459). -/
def State.writeTree1 (s : State) : State :=
  let u := s.uplinkRoot
  (s.modChipRegs fun r => r.set (CHP_RILL_CTX_root.at 1) u.1).writeTree 1 ⟨s.rillNow u.1, u.2, s.childCells⟩

/-- Zhevber rewrites the tree of context 1 when the uplink, or a child, changes (R459). -/
def State.retree1 (s : State) : State :=
  if s.ctxValid 1 && s.zRuns && (s.chip.tree1.map fun t => ((t.net.root, t.up), t.kids)) != some (s.uplinkRoot, s.childCells) then s.writeTree1 else s

/-- Zhevber rewrites the rill routes, and the trees of contexts 0 and 1 that are in use (R279, R409, R410). -/
def State.rewriteRill (s : State) : State :=
  let s := s.modChip fun h => { h with rillGen := h.rillGen + 1, rillMap := s.rillNow s.cornerRoot }
  let s := if s.ctxValid 0 then s.writeTree0 else s
  if s.ctxValid 1 then s.writeTree1 else s

/-! ## Routes (R278, R279, R380) -/

/-- The first port of a mask from a choice upward. -/
def pickPort (m : BitVec 4) (choice : Nat) : Option Nat := ((List.range 4).map fun i => (choice + i) % 4).find? fun p => m.getLsbD p

/-- The entry of a router's rill route table for a block (R279): at chip reset in x, then in y; after a rewrite as Zhevber chose among the ports
that the up/down order allows (log 11), and unchanged where none leads there. -/
def State.rillEntry (s : State) (c b : Nat) : Nat :=
  let xy := xyPort (mkCell (cx c / 4) (cy c / 4)) (mkCell (b % 32) (b / 32))
  if s.chip.rillGen = 0 then xy
  else (pickPort (s.chip.rillMap.legal c b) (Config.rillRoute s.chip.rillGen c (blockIdx b)).toNat).getD xy

/-- The output toward a physical cell: within its block in x then y; else by the rill route table (R279). -/
def State.rillNext (s : State) (c d : Nat) : Nat := if blockOf d = blockOf c then xyPort c d else s.rillEntry c (blockOf d)

/-- The link port half behind a cell's edge, for the edge rill output and input. -/
def rillEdge (c : Nat) : Option (Nat × Nat) :=
  (List.range 4).findSome? fun p =>
    match edgeOf c p with
    | some (.link n h) => some (n, h)
    | _ => none

/-- Where a flit at a router goes: a mesh output, the local units, the edge rill output, a region manager that a WAKE toward a sleeping
region is signalled to (R277), back as a CNACK FENCED (R380), or nowhere because it is malformed (R278). -/
inductive RillTo where
  | mesh (p : Nat)
  | local_
  | edge
  | signal (r : Nat)
  | fenced
  | bad
deriving DecidableEq, Repr

/-- The number of an output for wormhole ownership. -/
def RillTo.code : RillTo → Nat
  | .mesh p => p
  | .local_ => 4
  | .edge => 5
  | .fenced => 6
  | _ => 7

/-- The output numbered k. -/
def RillTo.ofCode (k : Nat) : RillTo :=
  match k with
  | 4 => .local_
  | 5 => .edge
  | 6 => .fenced
  | p => .mesh p

/-- The input a flit waits at: 4 for every flit of the local port (R277). -/
def RillFlit.inp (x : RillFlit) : Nat := if 8 ≤ x.port then 4 else x.port

/-- Is a flit one that the router itself sends along a tree? -/
def RillFlit.ofTree (x : RillFlit) : Bool := decide (8 ≤ x.port) && decide (x.port < 16)

/-- The output toward a cell, for a flit. -/
def State.rillStep (s : State) (c d : Nat) (f : Flit) : RillTo :=
  if d = c then .local_ else
  match neighbor c (s.rillNext c d) with
  | none => .bad
  | some e => if f.kind == kWAKE && s.rillStopped (blockOf e) then .signal (regionOf e) else .mesh (s.rillNext c d)

/-- Where a waiting flit goes. -/
def State.rillWant (s : State) (c : Nat) (x : RillFlit) : RillTo :=
  let f := x.flit
  if x.ofTree then RillTo.ofCode (x.port - 8)
  else if !f.wellFormed then .bad
  else if f.tree then .local_
  else if f.seg == 3 then
    match (List.range 7).find? fun o => aget (s.rt c).rillOwner (o * 4 + f.vc.toNat) == some x.inp with
    | some o => RillTo.ofCode o
    | none => .bad
  else if f.kind == kROUTE && decide (f.dstChip ≠ s.chipId.toNat) then
    let b := s.bundle f.dstChip s.chip.active.toNat
    match if b = 6 then none else s.bundlePort b with
    | none => .fenced
    | some n => if (linkCell n 0).1 = c then .edge else s.rillStep c (linkCell n 0).1 f
  else s.rillStep c f.dst.toNat f

/-- Does a flit read the router's rill route table (R279)? -/
def State.readsRill (s : State) (c : Nat) (x : RillFlit) : Bool :=
  let f := x.flit
  !x.ofTree && f.wellFormed && !f.tree && f.seg != 3 &&
    match s.rillWant c x with
    | .mesh _ => decide (blockOf f.dst.toNat ≠ blockOf c) || f.kind == kROUTE
    | .signal _ => true
    | _ => false

/-! ## Credits and arbitration (R276) -/

/-- Flits of a VC on the way to, or waiting at, an input. -/
def Router.rillOcc (r : Router) (p vc : Nat) : Nat := (r.rillIn.filter fun x => x.port == p && x.flit.vc.toNat == vc).length

/-- Depth of an input buffer behind mesh output p (R276). -/
def rillDepth (c p : Nat) : Nat :=
  match neighbor c p with
  | some d => if regionCross c d then 12 else 4
  | none => 32

/-- Credits and counts of a port and VC. -/
def balOf (l : Assoc RillBal) (k : Nat) : RillBal := (aget l k).getD ⟨0, 0, 0, 0⟩

/-- Is slot 3 usable: start_count is set and the key derived (R430)? -/
def State.slot3 (s : State) : Bool := s.ftn.startCount.isSome && (s.slot 3).key.isSome

/-- Is a link port out of service for the rill: neither ACTIVE, nor on its way back there by a retrain or from Deep? -/
def State.portGone (s : State) (n : Nat) : Bool :=
  !s.linkActive n && !(s.link n).retraining && s.linkState n != 6

/-- Is a flit discarded at an edge rill output: it may not cross a link (R285), the port is out of service, or the port has lost the ROUTE that came
before it? -/
def State.edgeDrops (s : State) (n : Nat) (f : Flit) : Bool :=
  !f.crosses || s.portGone n || (f.seg == 3 && f.kind != kTIME && (s.link n).rillTaken.isEmpty)

/-- Does a link port take a flit from an edge rill output: ACTIVE, slot 3 usable, four credits of the VC left for its sequence, and a body
only behind its own ROUTE (R285, R351, R430)? -/
def State.linkTakes (s : State) (n : Nat) (f : Flit) : Bool :=
  let l := s.link n
  let b := balOf l.rillBal f.vc.toNat
  s.linkActive n && s.slot3 && decide ((b.sent - b.credRecv).toNat + 4 ≤ 32) &&
    match l.rillTaken with
    | [] => f.seg != 3
    | r :: _ => f.seg == 3 && f.src == r.src && f.vc == r.vc

/-- Has an output sent nothing in this ncyc, and does no other input hold it for a sequence of the flit's VC (R276)? -/
def State.rillFree (s : State) (c inp : Nat) (f : Flit) (dest : RillTo) : Bool :=
  decide (aget (s.rt c).rillUsed dest.code ≠ some (s.ncyc + 1)) &&
    match aget (s.rt c).rillOwner (dest.code * 4 + f.vc.toNat) with
    | some i => i == inp
    | none => true

/-- Can a flit of input `inp` go to its output now? A router takes the GATHERs of all its ports in one ncyc. -/
def State.rillCan (s : State) (c inp : Nat) (f : Flit) (dest : RillTo) : Bool :=
  match dest with
  | .mesh p =>
    match neighbor c p with
    | some d => s.rillFree c inp f dest && !(s.rt c).rillClosed.getLsbD p && !s.rillStopped (blockOf d) &&
        decide ((s.rt d).rillOcc (oppPort p) f.vc.toNat < rillDepth c p)
    | none => false
  | .edge => s.rillFree c inp f dest && (rillEdge c).any fun e => s.edgeDrops e.1 f || s.linkTakes e.1 f
  | .local_ => f.kind == kGATHER || s.rillFree c inp f dest
  | .fenced => s.rillFree c inp f dest
  | _ => true

/-- Is a flit waiting at an input: decoded from its due ncyc on? -/
def RillFlit.waits (x : RillFlit) (inp vc now : Nat) : Bool := x.inp == inp && x.flit.vc.toNat == vc && decide (x.due ≤ now)

/-- The order of the local port's injections within a VC (R277): the router's own tree flits, the Fountaineer, a region manager, a block controller,
the NI. -/
def RillFlit.rank (x : RillFlit) : Nat := if x.ofTree then 0 else if x.port = 4 then 4 else x.port - 19

/-- Does the local input hold an output for the rest of a sequence of a VC? -/
def Router.localHeld (r : Router) (vc : Nat) : Bool := r.rillOwner.any fun e => e.1 % 4 == vc && e.2 == 4

/-- Key of an input and VC in Router.rillUsed. -/
def kTaken (inp vc : Nat) : Nat := 64 + 4 * inp + vc

/-- The first flit of a VC waiting at an input, none once the input has returned its credit of this ncyc for the VC (R26, R276); at the local input the
rest of a sequence first, then by rank (R277). -/
def State.rillHead (s : State) (c inp vc : Nat) : Option RillFlit :=
  let l := (s.rt c).rillIn.filter fun x => x.waits inp vc s.ncyc
  if inp ≠ 4 then (if aget (s.rt c).rillUsed (kTaken inp vc) = some (s.ncyc + 1) then none else l.head?)
  else if (s.rt c).localHeld vc then l.find? fun x => x.flit.seg == 3
  else (List.range 5).findSome? fun k => l.find? fun x => x.rank == k

/-- The inputs in their order of service: mesh ports in rotating order, edge, local (R276, R277). -/
def State.rillInputs (s : State) (c : Nat) : List Nat := s.rotOrder c ++ [5, 4]

/-- Is input `inp` of a VC served at an output now: no lower VC, and no earlier input of its VC, has a flit that can go there (R276)? -/
def State.rillTurn (s : State) (c inp vc : Nat) (dest : RillTo) : Bool :=
  let claims (i v : Nat) : Bool :=
    match s.rillHead c i v with
    | some x => s.rillWant c x == dest && s.rillCan c i x.flit dest && !(dest == .local_ && x.flit.kind == kGATHER)
    | none => false
  let ins := s.rillInputs c
  !((List.range vc).any fun v => ins.any fun i => claims i v) && !((ins.takeWhile fun i => i != inp).any fun i => claims i vc)

/-- Flits of the sequences of a VC in the ingress buffer of a link port: four to each (R285, R334). -/
def ingressOcc (l : List Flit) (vc : Nat) : Nat :=
  match l with
  | _ :: b :: _ :: _ :: r => (if b.vc.toNat = vc then 4 else 0) + ingressOcc r vc
  | _ => 0

/-! ## Sequences of a link port (R285, R351) -/

/-- The tag of a sequence under the slot-3 key (R285). -/
def State.seqTag (s : State) (route body : Flit) (ctr : W64) : W64 :=
  BitVec.ofNat 64 (leNat (((((s.slotMac 3 (natBytes (leBytes 8 route.payload.toNat ++ body.bytes14 ++ leBytes 8 ctr.toNat))).getD []).take 8).map
    (BitVec.ofNat 8))))

/-- Build the four-flit sequence of a body at a link port and hand it to the port (R285); CTR is the start count and the number of the
sequence since the start, from 1 (R389, log 33). -/
def State.sendSeq (s : State) (n : Nat) (route body : Flit) : State :=
  let body : Flit := { body with seg := 2 }
  let ctr := BitVec.ofNat 64 (((s.ftn.startCount.map (·.toNat)).getD 0) * 2 ^ 32 + ((s.link n).ctrSend.toNat + 1) % 2 ^ 32)
  let ctrF : Flit := { body with kind := kCTR, seg := 2, payload := ctr }
  let tagF : Flit := { body with kind := kTAG, seg := 3, payload := s.seqTag route body ctr }
  s.modLink n fun l =>
    let b := balOf l.rillBal body.vc.toNat
    { l with
      ctrSend := ctr, rillTaken := [], rillOut := l.rillOut ++ [[{ route with seg := 1 }, body, ctrF, tagF]]
      rillBal := aput l.rillBal body.vc.toNat { b with sent := b.sent + 4 } }

/-- The chip behind a link port, as its CAP named it. -/
def Link.peerId (l : Link) : Nat := ((l.peer.map fun (c : Cap) => c.chipId).getD 0).toNat

/-- A ROUTE for a flit that the chip itself sends through a port (R285). -/
def State.ownRoute (s : State) (n : Nat) (f : Flit) : Flit :=
  { f with kind := kROUTE, seg := 1, payload := routeWord (s.link n).peerId s.chipId.toNat 0 0 }

/-- A link port takes a flit: a ROUTE waits for its body; a flit of a context tree or of time gets a ROUTE of the port's own; one that
may not cross, or whose ROUTE or port is gone, is discarded (R285). -/
def State.linkTake (s : State) (n : Nat) (f : Flit) : State :=
  if s.edgeDrops n f then s
  else match (s.link n).rillTaken with
    | r :: _ => s.sendSeq n r f
    | [] => if f.kind == kROUTE then s.modLink n fun l => { l with rillTaken := [f] } else s.sendSeq n (s.ownRoute n f) f

/-! ## Decode (R274, R275) -/

/-- Take a waiting flit of an input off it; its credit is returned (R276). -/
def State.rillDrop (s : State) (c inp vc : Nat) (x : RillFlit) : State :=
  s.modRt c fun r =>
    let b := balOf r.rillBal (inp * 4 + vc)
    { r with
      rillIn := dropFirst (fun y => y == x) r.rillIn
      rillUsed := if inp = 4 then r.rillUsed else aput r.rillUsed (kTaken inp vc) (s.ncyc + 1)
      rillBal := if inp = 4 then r.rillBal else aput r.rillBal (inp * 4 + vc) { b with credSent := b.credSent + 1 } }

/-- Hold or release an output for the rest of a sequence (R276). -/
def Router.own (r : Router) (inp : Nat) (f : Flit) (dest : RillTo) : Router :=
  let k := dest.code * 4 + f.vc.toNat
  if f.seg == 1 then { r with rillOwner := aput r.rillOwner k inp }
  else if f.seg == 3 then { r with rillOwner := adel r.rillOwner k }
  else r

/-- Mark an output used in this ncyc and count its flit. -/
def Router.rillSent (r : Router) (o vc now : Nat) : Router :=
  let b := balOf r.rillBal (o * 4 + vc)
  { r with rillUsed := aput r.rillUsed o (now + 1), rillBal := aput r.rillBal (o * 4 + vc) { b with sent := b.sent + 1 } }

/-- The CNACK for a CMSG: to the injecting cell, or behind a ROUTE back to the chip it came from (R283). -/
def State.cnackFor (s : State) (c : Nat) (route : Option Flit) (m : Flit) (reason : Nat) : State :=
  let f : Flit := { mkFlit 3 0x19 m.src.toNat c 0 (BitVec.ofNat 64 reason) with parterre := m.parterre }
  match route with
  | none => s.rillSend c f
  | some r =>
    if r.srcChip = s.chipId.toNat then s.rillSend c f
    else
      (s.rillSend c { f with kind := kROUTE, seg := 1, payload := routeWord r.srcChip r.dstChip r.srcLid r.dstLid }).rillSend c
        { f with seg := 3 }

/-- The ROUTE kept at a router that came in through an input, before the body that follows it. -/
def Router.keptRoute (r : Router) (inp : Nat) : Option Flit :=
  (r.rillLocal.reverse.find? fun x => x.port == inp && x.flit.kind == kROUTE).map (·.flit)

/-- Forget the ROUTE kept for an input. -/
def Router.dropRoute (r : Router) (inp : Nat) : Router :=
  { r with rillLocal := dropFirst (fun x => x.port == inp && x.flit.kind == kROUTE) r.rillLocal }

/-- A flit goes to its output. -/
def State.rillGo (s : State) (c inp : Nat) (f : Flit) (dest : RillTo) : State :=
  let s := s.modRt c fun r => r.own inp f dest
  match dest with
  | .mesh p =>
    match neighbor c p with
    | some d =>
      (s.modRt c fun r => r.rillSent p f.vc.toNat s.ncyc).modRt d fun r => { r with
        rillIn := r.rillIn ++ [⟨oppPort p, s.ncyc + 1 + s.linkExtra c p + (if regionCross c d then 4 else 0), f⟩] }
    | none => s
  | .local_ =>
    let s := s.modRt c fun r => { r with
      rillLocal := r.rillLocal ++ [⟨inp, s.ncyc, f⟩]
      rillUsed := if f.kind == kGATHER then r.rillUsed else aput r.rillUsed 4 (s.ncyc + 1) }
    if f.kind == kCMSG || f.kind == kCNACK then s.wakeBlock (blockOf c) else s
  | .edge =>
    match rillEdge c with
    | some e => (s.modRt c fun r => r.rillSent 5 f.vc.toNat s.ncyc).linkTake e.1 f
    | none => s
  | .signal g => s.modRt (rmCell g) fun r => { r with rillLocal := r.rillLocal ++ [⟨4, s.ncyc, f⟩] }
  | .fenced =>
    if f.kind == kROUTE then s.modRt c fun r => { r with rillLocal := r.rillLocal ++ [⟨inp, s.ncyc, f⟩] }
    else
      let route := (s.rt c).keptRoute inp
      let s := s.modRt c fun r => r.dropRoute inp
      if f.kind == kCMSG then s.cnackFor c route f 8 else s
  | .bad => s

/-- Set a mesh port's rill fault bit (R323). -/
def State.rillFault (s : State) (c p : Nat) : State :=
  if (neighbor c p).isSome then
    s.modCellRegs c fun r => r.strike CELL_FAULT_rill_fault p
  else s

/-- What the two code words of a flit together come to. -/
def eccPair (a b : Ecc) : Ecc := if a = .double ∨ b = .double then .double else if a = .single ∨ b = .single then .single else .none

/-- The FAULT flit of a router to its block controller for an uncorrectable flit at a port (R274): a record of class 8, level 0, action 0. -/
def rillNotice (c p : Nat) : Flit := mkFlit 0 0x00 (bcCell (blockOf c)) c 0 (mkRec 8 0 c p 3 0 1).word

/-- The head of an input goes where it goes, if it can, and it is its turn. -/
def State.rillMove (s : State) (c inp vc : Nat) (x : RillFlit) (corr tab : Bool) : State :=
  let dest := s.rillWant c x
  let counted (s : State) : State := if corr then (s.bump c CELL_RILL_CNT_corr).rillError c inp 0 else s
  if dest = .bad then (counted (s.rillDrop c inp vc x)).bump c CELL_RILL_CNT_malformed
  else if !(s.rillCan c inp x.flit dest && ((dest == .local_ && x.flit.kind == kGATHER) || s.rillTurn c inp vc dest)) then s
  else
    let s' := counted (s.rillDrop c inp vc x)
    (if tab && s.readsRill c x then s'.tableError c 3 else s').rillGo c inp x.flit dest

/-- RILL_FLIT_DECODE at an input (R274): `ea` and `eb` are what the two code words decode to, `tab` says that the table word read fails parity
(R296). A flit of the local port comes over no link. -/
def State.rillDecode (s : State) (c inp vc : Nat) (ea eb : Ecc) (tab : Bool) : State :=
  if s.rillStopped (blockOf c) then s else
  match s.rillHead c inp vc with
  | none => s
  | some x =>
    let e := if inp = 4 then .none else eccPair ea eb
    if e = .double then
      (((s.rillDrop c inp vc x).bump c CELL_RILL_CNT_uncorr).rillFault c inp).rillSend c (rillNotice c inp)
    else s.rillMove c inp vc x (e = .single) tab

/-- RILL_FLIT_DECODE. -/
def execRillFlitDecode (c p vc : Nat) (ea eb : Ecc) (tab : Bool) (s : State) : Res :=
  onUnit (Instr.rillFlitDecode c p vc ea eb tab).wf s (s.rillDecode c p vc ea eb tab)

/-- Take the first flit that a test picks from those delivered to the units at a router. -/
def Router.takeLocal (r : Router) (f : RillFlit → Bool) : Router := { r with rillLocal := dropFirst f r.rillLocal }

/-- The first flit delivered to the units at a router that a test picks. -/
def State.localFlit (s : State) (c : Nat) (f : RillFlit → Bool) : Option RillFlit := (s.rt c).rillLocal.find? f

/-- Is a flit of the tree of context x, of a kind? -/
def RillFlit.ofCtx (x : RillFlit) (k : BitVec 5) (ctx : Nat) : Bool := x.flit.kind == k && x.flit.dst.toNat % 16 == ctx

/-- Send a tree flit on through an output: a RELEASE or BCAST in the ncyc of its decode, a GATHER in the next (R275, R281). -/
def State.treeSend (s : State) (c o : Nat) (f : Flit) : State :=
  s.modRt c fun r => { r with rillIn := r.rillIn ++ [⟨8 + o, s.ncyc + if f.kind == kGATHER then 1 else 0, f⟩] }

/-- Send a tree flit down every port of a context's tree. -/
def State.treeDown (s : State) (c x : Nat) (f : Flit) : State := s.forEach (s.ctxDown x c) fun s o => s.treeSend c o f

end Sys2Proof.Machine
end

