-- ==== Sys2Proof/Machine/Contexts.lean ====
section
/-! DEFINITION. The rill's tree contexts at a router (R280 to R282, R284): gathers, releases, broadcasts, the root's timeout, and core
barriers. -/

namespace Sys2Proof.Machine

/-! ## The runtime of a context -/

/-- A context at the start of a generation. -/
def CtxRt.start (gen : BitVec 10) : CtxRt := ⟨gen, 0, 0, false, false, 0, false⟩

/-- The runtime of a context at a router. -/
def Router.ctxRt (r : Router) (x : Nat) : CtxRt := (aget r.ctx x).getD (CtxRt.start 0)

/-- Change the runtime of a context at a router. -/
def Router.modCtx (r : Router) (x : Nat) (f : CtxRt → CtxRt) : Router := { r with ctx := aput r.ctx x (f (r.ctxRt x)) }

/-- The combine ops (R280): AND, OR, SUM modulo 2^64, unsigned MAX. -/
def combineOp (op : Nat) (a b : W64) : W64 :=
  match op with
  | 0 => a &&& b
  | 1 => a ||| b
  | 2 => a + b
  | _ => if a.toNat < b.toNat then b else a

/-- Combine an operand into a generation. -/
def CtxRt.add (k : CtxRt) (op : Nat) (v : W64) : CtxRt :=
  { k with partialV := if k.have_ then combineOp op k.partialV v else v, have_ := true }

/-- The combine op of a context. -/
def State.ctxOp (s : State) (x : Nat) : Nat := s.chget (CHP_RILL_CTX_op.at x)

/-- The dst field of a tree flit: context and generation (R273). -/
def ctxDst (x : Nat) (gen : BitVec 10) : Nat := gen.toNat * 16 + x

/-- Has a router everything its expect mask asks for in this generation (R281)? The routers of context 1 are ready at all times (log
30). -/
def State.ctxDone (s : State) (c x : Nat) : Bool :=
  let k := (s.rt c).ctxRt x
  let e := s.ctxExpect x c
  (k.ports &&& (e &&& 0x2F)) == (e &&& 0x2F) && (!e.getLsbD 4 || k.localDone || x == 1)

/-- Is a cell the root of a context: does its up port say so (R290)? -/
def State.atRoot (s : State) (c x : Nat) : Bool := s.ctxUp x c == 7

/-- The first arrival at the root starts the context's timer (R281). -/
def State.noteArrival (s : State) (c x : Nat) : State :=
  if s.atRoot c x && (aget s.chip.ctxRoots x).isNone then
    s.modChip fun h => { h with ctxRoots := aput h.ctxRoots x ⟨some (s.now, s.chget (CHP_RILL_CTX_timeout_us.at x))⟩ }
  else s

/-- What the root releases (R280): in step 2 of a flip the action FLIP with the new version, while a period is being armed the action ARM
with the AND of the reports, else no action. -/
def State.rootAction (s : State) (x : Nat) (v : W64) : Nat × W64 :=
  if x ≠ 0 then (0, v)
  else match s.chip.flip with
    | some f => if f.step = 2 then (1, f.new_.setWidth 64) else if s.chip.arming.isSome then (2, v &&& 1) else (0, v)
    | none => if s.chip.arming.isSome then (2, v &&& 1) else (0, v)

/-- The RELEASE of a generation. -/
def releaseFlit (c x : Nat) (gen : BitVec 10) (failed : Bool) (action : Nat) (v : W64) : Flit :=
  mkFlit 1 0x09 (ctxDst x gen) c (failed.toNat + 2 * action) v

/-- The root turns a generation into a RELEASE, which starts at its own router (R281). -/
def State.rootRelease (s : State) (c x : Nat) (failed : Bool) : State :=
  let k := (s.rt c).ctxRt x
  let a := if failed then (0, k.partialV) else s.rootAction x k.partialV
  let f := releaseFlit c x k.gen failed a.1 a.2
  (s.modRt c fun r => { (r.modCtx x fun k => { k with sent := true }) with rillLocal := r.rillLocal ++ [⟨4, s.ncyc, f⟩] }).modChip
    fun h => { h with ctxRoots := adel h.ctxRoots x }

/-- Send the one GATHER of a generation up, or turn at the root, when everything is in (R281). -/
def State.ctxTry (s : State) (c x : Nat) : State :=
  let k := (s.rt c).ctxRt x
  if !s.ctxValid x || k.sent || s.ctxExpect x c == 0 || !s.ctxDone c x then s
  else if s.atRoot c x then s.rootRelease c x false
  else
    let up := s.ctxUp x c
    if up = 4 ∨ 6 ≤ up then s
    else (s.modRt c fun r => r.modCtx x fun k => { k with sent := true }).treeSend c up (mkFlit 1 0x08 (ctxDst x k.gen) c 0 k.partialV)

/-! ## GATHER (R281) -/

/-- A received GATHER: combined, or discarded and counted. -/
def State.takeGather (s : State) (c x : Nat) (g : RillFlit) : State :=
  let s := s.modRt c fun r => r.takeLocal fun y => y == g
  let k := (s.rt c).ctxRt x
  let good := g.flit.dst.toNat / 16 == k.gen.toNat && (s.ctxExpect x c).getLsbD g.port && !k.ports.getLsbD g.port
  if !good then s.bump c CELL_RILL_CNT_gen_err
  else
    (s.modRt c fun r => r.modCtx x fun k =>
      { k.add (s.ctxOp x) g.flit.payload with ports := k.ports ||| BitVec.ofNat 6 (2 ^ g.port) }).noteArrival c x

/-- GATHER: a waiting GATHER of the context is taken, and the router's own goes up when everything is in. -/
def execGather (c x : Nat) (s : State) : Res :=
  onUnit (Instr.gather c x).wf s
    (if s.rillStopped (blockOf c) then s else
    match s.localFlit c fun y => y.ofCtx kGATHER x with
    | some g => (s.takeGather c x g).ctxTry c x
    | none => s.ctxTry c x)

/-! ## RELEASE (R281, R284) -/

/-- A release reaches the NI (R284): the cores that arrived in the generation are released, the combined value is kept. -/
def State.releaseBars (s : State) (c x : Nat) (gen : BitVec 10) (failed : Bool) (v : W64) : State :=
  match aget (s.ni c).bars x with
  | none => s.modNi c fun n => { n with bars := aput n.bars x ⟨[], v⟩ }
  | some b =>
    let arr := b.arr.map fun e => if e.2.1 = gen ∧ e.2.2.isNone then (e.1, (e.2.1, some failed)) else e
    let s := s.modNi c fun n => { n with bars := aput n.bars x ⟨arr, v⟩ }
    let waiting := (s.ni c).cores.filter fun e => match e.2.stall with
      | some (.barWait y, _) => y == x && (aget arr e.1).any fun a => a.2.isSome
      | _ => false
    s.forEach waiting fun s e =>
      (s.modNi c fun n => n.unstall e.1).respond c e.1 (BitVec.ofNat 64 (gen.toNat + failed.toNat * 2 ^ 10))

/-- A RELEASE at a router: it goes down the expect mask, is delivered locally, and the generation advances (R281). -/
def State.passRelease (s : State) (c x : Nat) (g : RillFlit) : State :=
  let gen : BitVec 10 := BitVec.ofNat 10 (g.flit.dst.toNat / 16)
  let failed := g.flit.aux.getLsbD 0
  let s := s.modRt c fun r => (r.takeLocal fun y => y == g).modCtx x fun _ => CtxRt.start (gen + 1)
  let s := s.treeDown c x { g.flit with src := BitVec.ofNat 14 c }
  let s := if s.ctxRoot x = c then
      s.modChipRegs fun r => (r.set (CHP_RILL_CTX_generation.at x) (gen + 1).toNat).set (CHP_RILL_CTX_failed.at x) failed.toNat
    else s
  if 2 ≤ x then s.releaseBars c x gen failed g.flit.payload else s

/-- The action of a RELEASE flit (R280): those of context 0 alone act. -/
def RillFlit.action (y : RillFlit) : Nat := if y.flit.dst.toNat % 16 = 0 then bits y.flit.aux.toNat 1 2 else 0

/-- RELEASE: a RELEASE without an action. -/
def execRelease (c x : Nat) (s : State) : Res :=
  onUnit (Instr.release c x).wf s
    (match s.localFlit c fun y => y.ofCtx kRELEASE x && y.action == 0 with
    | some g => s.passRelease c x g
    | none => s)

/-- CONTEXT_TIMEOUT (R281): the root releases its partial combine as failed, and Zhevber records it. -/
def execContextTimeout (x : Nat) (s : State) : Res :=
  onUnit (Instr.contextTimeout x).wf s
    (match (aget s.chip.ctxRoots x).bind (·.first) with
    | none => s
    | some (t0, us) =>
      if !expired s.now t0 us then s
      else
        let c := s.ctxRoot x
        (s.rootRelease c x true).zRecord (mkRec 0x0F 2 c 7 0 0 (x + ((s.rt c).ctxRt x).gen.toNat * 16)))

/-! ## BCAST (R282) -/

/-- A BCAST at a router goes down the context's tree. -/
def State.passBcast (s : State) (c : Nat) (g : RillFlit) : State :=
  (s.modRt c fun r => r.takeLocal fun y => y == g).treeDown c (g.flit.dst.toNat % 16) { g.flit with src := BitVec.ofNat 14 c }

/-- The first BCAST of an op at a router. -/
def State.bcastOf (s : State) (c op : Nat) : Option RillFlit :=
  s.localFlit c fun y => y.flit.kind == kBCAST && bits y.flit.payload.toNat 0 8 == op

/-- Send a BCAST from a root (R282). -/
def State.broadcast (s : State) (x op arg : Nat) : State :=
  let c := s.ctxRoot x
  s.modRt c fun r => { r with rillLocal := r.rillLocal ++ [⟨4, s.ncyc, mkFlit 1 0x0A (ctxDst x (r.ctxRt x).gen) c 0 (BitVec.ofNat 64 (op + arg % 2 ^ 56 * 2 ^ 8))⟩] }

/-- The T[63:3] that a TALLY or FREEZE names: T[58:3], the rest from the unit's own count (R282). -/
def State.namedT (s : State) (f : Flit) : Nat := s.now / 2 ^ 56 * 2 ^ 56 + bits f.payload.toNat 8 56

/-- BCAST_TALLY: a TALLY that comes after its T marks the tally late and is counted (R282, R288). -/
def execBcastTally (c : Nat) (s : State) : Res :=
  onUnit (Instr.bcastTally c).wf s
    (match s.bcastOf c 1 with
    | some g => (s.passBcast c g).modRt c fun r => { r with
        tallyAt := some (s.namedT g.flit)
        lateTally := decide (s.namedT g.flit < s.now)
        lateTallies := r.lateTallies + if s.namedT g.flit < s.now then 1 else 0 }
    | none => s)

/-- BCAST_FREEZE. -/
def execBcastFreeze (c : Nat) (s : State) : Res :=
  onUnit (Instr.bcastFreeze c).wf s
    (match s.bcastOf c 2 with
    | some g => (s.passBcast c g).modRt c fun r => { r with freezeAt := some (s.namedT g.flit) }
    | none => s)

/-! ## Core barriers (R284) -/

/-- The barrier state of a context at an NI. -/
def Ni.bar (n : Ni) (x : Nat) : BarRt := (aget n.bars x).getD ⟨[], 0⟩

/-- Is a context assigned to a cell's parterre, for core barriers (R280, R284)? -/
def State.ctxMine (s : State) (c x : Nat) : Bool :=
  decide (2 ≤ x) && s.ctxValid x && s.chget (CHP_RILL_CTX_parterre.at x) == (s.cell c).owner.toNat && (s.ctxExpect x c).getLsbD 4

/-- An arrival of a core: once in a generation, and only while the local part is not complete. -/
def State.barArrive (s : State) (c core x : Nat) (v : W64) : State :=
  let k := (s.rt c).ctxRt x
  let again := (aget ((s.ni c).bar x).arr core).any fun a => a.1 == k.gen && a.2.isNone
  if !s.ctxMine c x || again || k.localDone then s.bump c CELL_RILL_CNT_gen_err
  else
    let n := k.locals + 1
    let s := s.modRt c fun r => r.modCtx x fun k =>
      { k.add (s.ctxOp x) v with locals := n, localDone := n == s.cget c (CELL_RILL_TREE_local_m1.at x) + 1 }
    let s := s.modNi c fun i => { i with bars := aput i.bars x { i.bar x with arr := aput (i.bar x).arr core (k.gen, none) } }
    (s.noteArrival c x).ctxTry c x

/-- CQ_BAR_ARRIVE. -/
def execCqBarArrive (c core x : Nat) (v : W64) (s : State) : Res :=
  onUnit (Instr.cqBarArrive c core x v).wf s (s.writeAccess c core (.cqBarArrive c core x v) fun s => s.barArrive c core x v)

/-- CQ_BAR_WAIT_READ, or the read of CQ_BAR_RESULT (R284; log 50). -/
def execCqBarWaitRead (c core x : Nat) (result : Bool) (s : State) : Res :=
  onUnit (Instr.cqBarWaitRead c core x result).wf s
    (s.access c core (.cqBarWaitRead c core x result) fun s =>
      if result then s.respond c core ((s.ni c).bar x).result
      else match aget ((s.ni c).bar x).arr core with
      | none => s.respond c core (BitVec.ofNat 64 (2 ^ 11))
      | some (_, none) => s.modNi c fun n => n.stallCore core (.barWait x) s.ncyc
      | some (gen, some failed) => s.respond c core (BitVec.ofNat 64 (gen.toNat + failed.toNat * 2 ^ 10)))

end Sys2Proof.Machine
end

