-- ==== Sys2Proof/Machine/Flips.lean ====
section
/-! DEFINITION. Epoch flips (R85, R86, R90, R310, R376, R378), their tallies (R90, R233, R282) and the end of a drain. -/

namespace Sys2Proof.Machine

/-! ## What a new version is built from (R73, R310, R376, R378) -/

/-- The automatic exception entries of a bundle without an ACTIVE port (R378). -/
def State.autoExc (s : State) (b : Nat) : List W32 :=
  if (s.bundlePort b).isSome then [] else
  let order := match b / 2 with
    | 0 => [2, 4]
    | 1 => [4, 0]
    | _ => [0, 2]
  let alt := (order.find? fun k => decide (2 ≤ s.dim (k / 2)) && (s.bundlePort k).isSome).getD 6
  [BitVec.ofNat 32 (s.peerChip b + 0x1FFF * 2 ^ 13 + b * 2 ^ 26 + 6 * 2 ^ 29), BitVec.ofNat 32 (b * 2 ^ 26 + alt * 2 ^ 29)]

/-- The exception entries of a new version (R377, R378). -/
def State.newExc (s : State) : List W32 := (s.chip.exc ++ (List.range 6).flatMap s.autoExc).take 16

/-- Do more exception entries result than a version holds (R378)? -/
def State.excOver (s : State) : Bool := decide (16 < (s.chip.exc ++ (List.range 6).flatMap s.autoExc).length)

/-- Is a port to be left out of a new version: a detach has asked for its removal (R358)? -/
def Link.leaving (l : Link) : Bool := l.task == .quiesceFlip

/-- The build of a version installed now (R73, R310, R409, R410, R316, R376, R378). -/
def State.newBuild (s : State) : Build :=
  let fenced := allCells.filter s.fencedCell
  let off := allBlocks.filter fun b => (s.block b).power == .off || (s.block b).offReq
  let iso := (List.range 16).filter fun r => (s.region r).isolate
  { id := s.chip.builds + 1
    closed := s.cells.ents.flatMap fun e => e.2.rt.sluices.map fun x => (e.1, x.1)
    empty := fenced ++ off.flatMap blockCells ++ iso.flatMap regionCells
    fenced := fenced
    quiet := (List.range 16).filter fun r => (s.region r).asleep || (s.region r).sleepReq || (s.region r).isolate
    noTransit := off
    ports := (List.range 48).filter fun n => s.linkActive n && !(s.link n).leaving
    exc := s.newExc }

/-- Set the build of a version. -/
def Chip.setBuild (h : Chip) (v : BitVec 1) (b : Build) : Chip :=
  if v = 0 then { h with build0 := b, builds := b.id } else { h with build1 := b, builds := b.id }

/-- Change the flip in progress. -/
def State.modFlip (s : State) (f : Flip → Flip) : State := s.modChip fun h => { h with flip := h.flip.map f }

/-! ## Steps 1 and 2 -/

/-- EPOCH_FLIP_START (R86, R310): the requests made so far join one flip; the version to be is built from the state of now. Exception
entries beyond 16 are left out and recorded (R378). What fences have latched of the version to be drained counts toward its allowance (R308). -/
def execEpochFlipStart (s : State) : Res :=
  onUnit Instr.epochFlipStart.wf s
    (if !s.zRuns || s.chip.flip.isSome || s.chip.flipReqs.isEmpty || !s.chip.routed || !s.ctxValid 0 then s
     else (if s.excOver then s.zRecord (mkRec 0x0A 3 0 7 0 0 0) else s).modChip fun h =>
      let n := 1 - h.active
      { h.setBuild n s.newBuild with
        flip := some { step := 1, old := h.active, new_ := n, reqs := h.flipReqs, unattrib0 := 0, tallies := [], lost := s.fenceHeld h.active.toNat }
        flipReqs := [] })

/-- Is context 0 between generations at every running router? -/
def State.ctx0Idle (s : State) : Bool :=
  s.running.all fun c =>
    let k := (s.rt c).ctxRt 0
    !k.localDone && !k.sent

/-- The mesh ports that a version's tables give a packet for a cell of this chip (R72). -/
def Build.onward (b : Build) (c d : Nat) : BitVec 4 :=
  if blockOf d ≠ blockOf c then b.row c (blockIdx (blockOf d))
  else if b.detour c then b.row c (576 + 4 * (cy d % 4) + cx d % 4)
  else BitVec.ofNat 4 ((decide (cx c < cx d)).toNat + 2 * (decide (cy c < cy d)).toNat + 4 * (decide (cx d < cx c)).toNat +
    8 * (decide (cy d < cy c)).toNat)

/-- The ncyc of the longest way that productive ports lead from one cell to another (R66, R95). -/
def State.wayTime (s : State) (b : Build) (fuel c d : Nat) : Nat :=
  match fuel with
  | 0 => 0
  | n + 1 =>
    if c = d then 0
    else (((List.range 4).filter fun p => (b.onward c d).getLsbD p).map fun p =>
      match neighbor c p with
      | some e => 3 + s.linkExtra c p + s.wayTime b n e d
      | none => 0).foldl max 0

/-- Do a version's tables lead around nothing? -/
def Build.plain (b : Build) : Bool := b.closed.isEmpty && b.empty.isEmpty && b.quiet.isEmpty && b.noTransit.isEmpty

/-- Has the chip no retime and no stitch stage (R66)? -/
def Integ.plain (i : Integ) : Bool := i.retimeH.isEmpty && i.retimeV.isEmpty && i.stitchX.isEmpty && i.stitchY.isEmpty

/-- The ncyc of the longest productive path under a version: 190 hops of 3 ncyc where it leads around nothing and no link has a further stage
(R95). -/
def State.longestPath (s : State) (b : Build) : Nat :=
  if b.plain && s.chip.integ.plain then 190 * 3
  else (allCells.map fun d => (allCells.map fun c => s.wayTime b 9216 c d).foldl max 0).foldl max 0

/-- The golden_shift that covers a path: the one set, raised where needed (R95). -/
def goldenFor (shift path : Nat) : Nat := ((List.range 16).find? fun g => decide (shift ≤ g) && decide (path < 2 ^ g)).getD 15

/-- golden_shift is raised in every cell alike where the longest path under a version needs it (R95). -/
def State.raiseGolden (s : State) (path : Nat) : State :=
  let shift := s.cget s.cornerRoot CELL_RT_PARAM_golden_shift
  if goldenFor shift path = shift then s
  else { s with cells := s.cells.mapAll fun x => { x with regs := x.regs.set CELL_RT_PARAM_golden_shift (goldenFor shift path) } }

/-- INSTALL_DONE (R86): the rows of the new version stand in every running router, which reports READY in the barrier; golden_shift is
raised where needed (R95). A dozing block wakes for its rows (R411). The root's own readiness starts the context's timer (R281). A barrier that
failed is begun anew (R288). -/
def execInstallDone (s : State) : Res :=
  onUnit Instr.installDone.wf s
    (match s.chip.flip with
    | none => s
    | some f =>
      let n := f.new_.toNat
      if 2 < f.step || !s.ctx0Idle then s
      else
        let id := (s.build n).id
        let s := if f.step = 1 then (s.raiseGolden (s.longestPath (s.build n))).allRunning fun x => { x with
            rt := (if n = 0 then { x.rt with rows0 := id } else { x.rt with rows1 := id }).setVer n vREADY } else s
        let s := s.forEach (allBlocks.filter fun b => (s.block b).power == .doze) fun s b => s.wakeBlock b
        ((s.allRunning fun x => { x with rt := x.rt.modCtx 0 fun k => { k.add 0 (f.new_.setWidth 64) with localDone := true } }).modFlip
          fun f => { f with step := 2 }).noteArrival s.cornerRoot 0)

/-! ## Step 3 -/

/-- Packets lost with an uncorrectable word 0, over the chip (R90). -/
def State.lostWord0 (s : State) : Nat := (s.cells.ents.map fun e => e.2.rt.lostW0).sum

/-- A router flips: the new version ACTIVE, the old DRAINING; its NI injects under the new one from the next ncyc (R86 step 3). -/
def Router.flip (r : Router) (n : Nat) : Router :=
  { (r.setVer n vACTIVE).setVer (1 - n) (if r.verState (1 - n) == vACTIVE then vDRAINING else r.verState (1 - n)) with
    epochNext := some (BitVec.ofNat 1 n) }

/-- RELEASE_FLIP (R86, R280). -/
def execReleaseFlip (c : Nat) (s : State) : Res :=
  onUnit (Instr.releaseFlip c).wf s
    (match s.localFlit c fun y => y.ofCtx kRELEASE 0 && y.action == 1 with
    | none => s
    | some g =>
      let n := bits g.flit.payload.toNat 0 1
      let s := s.passRelease c 0 g
      let s := if s.cornerRoot = c then s.modFlip fun f => { f with step := 3, unattrib0 := s.lostWord0 } else s
      s.modRt c fun r => r.flip n)

/-- The injection epochs as the next ncyc finds them (R86 step 3): an NI follows its router; a link port and a gateway follow once every cell they
attach to has flipped. -/
def State.followEpochs (s : State) (n : Nat) : State :=
  let done (d : Nat) : Bool := s.stopped d || (s.rt d).verState n == vACTIVE
  let s' := { s with cells := { s.cells with ents := s.cells.ents.map fun (e : Nat × Cell) =>
    match e.2.rt.epochNext with
    | some v => (e.1, { e.2 with regs := e.2.regs.set NI_INJ_CTL_inj_epoch v.toNat, rt := { e.2.rt with epochNext := none } })
    | none => e } }
  let s' := s'.forEach ((List.range 48).filter fun k => (s.link k).epoch.toNat != n && done (linkCell k 0).1 && done (linkCell k 1).1) fun s k =>
    s.modLink k fun l => { l with epoch := BitVec.ofNat 1 n }
  s'.forEach ((List.range 20).filter fun g => (s.gw g).epoch.toNat != n && (List.range 8).all fun k => done (gatewayCell g k).1) fun s g =>
    s.modGw g fun x => { x with epoch := BitVec.ofNat 1 n }

/-- The end of an ncyc of step 3 (R86): the epochs follow; once every router has flipped the step is complete, and the new version is the chip's. -/
def State.flipTick (s : State) : State :=
  match s.chip.flip with
  | none => s
  | some f =>
    if f.step ≠ 3 then s
    else
      let n := f.new_.toNat
      let all := s.running.all fun d => (s.rt d).verState n == vACTIVE
      let s := s.followEpochs n
      if all then (s.modChip fun h => { h with active := f.new_ }).modFlip fun f => { f with step := 4 } else s

/-! ## Tallies (R90, R233, R282) -/

/-- Hop times of a walk of the rill along x, then along y (R275). -/
def State.hopTime (s : State) (a b fuel : Nat) : Nat :=
  match fuel with
  | 0 => 0
  | k + 1 =>
    if a = b then 0
    else
      let p := if cx a < cx b then 0 else if cx b < cx a then 2 else if cy a < cy b then 1 else 3
      match neighbor a p with
      | some d => 1 + s.linkExtra a p + (if regionCross a d then 4 else 0) + s.hopTime d b k
      | none => 0

/-- H: the longest walk from a cell to context 0's root (R287). -/
def State.rillH (s : State) : Nat :=
  (((List.range 96).flatMap fun y => [mkCell 0 y, mkCell 95 y]).map fun c => s.hopTime c s.cornerRoot 200).foldl max 0

/-- The time of a chip broadcast with its guard (R282, R287). -/
def State.bcastLead (s : State) : Nat := 4 + s.rillH + 8 + s.chget CHP_RILL_CTL_snap_guard

/-- Does a retirement watch a tree (R233)? -/
def State.watching (s : State) : Bool := !s.chip.retiring.isEmpty

/-- Does a drain tally (R90)? -/
def State.draining (s : State) : Bool := (s.chip.flip.map (·.step)).getD 0 == 4

/-- ncyc between tallies (R90). -/
def tallyGap : Nat := 2048

/-- TALLY_TICK: a drain's first tally at once, its next and a watch's every 2,048 ncyc (R90, R233). -/
def execTallyTick (s : State) : Res :=
  onUnit Instr.tallyTick.wf s
    (let t := s.now + s.bcastLead
    let first := (s.chip.flip.map fun f => f.tallies.isEmpty).getD false
    let drain := s.draining && (first || decide (s.chip.lastTally + tallyGap ≤ t))
    let watch := s.watching && (s.chip.lastWatch == 0 || decide (s.chip.lastWatch + tallyGap ≤ t))
    if s.chip.tally.isSome || !s.zRuns || !s.ctxValid 0 || !(drain || watch) then s
    else (s.broadcast 0 1 t).modChip fun h => { h with
      tally := some ⟨t, drain⟩, lastTally := if drain then t else h.lastTally })

/-- The end of an ncyc at or after the T of a TALLY received: the counts that stand are those the tally latches, the events of T itself
included; the watch count is cleared (R90, R233). -/
def Router.copyTally (r : Router) (now : Nat) : Router :=
  match r.tallyAt, r.tallyCopy with
  | some t, none =>
    if t ≤ now then { r with tallyCopy := some [r.entered0, r.left0, r.entered1, r.left1, r.watchLive], watchLive := 0 } else r
  | _, _ => r

/-- A cell latches its tallies and its watch count (R90, R100, R233). -/
def Cell.latchTally (x : Cell) (t : Nat) (l : List W32) : Cell :=
  let w (k : Nat) : Nat := (l.getD k 0).toNat
  { x with
    regs := ((((x.regs.set CELL_EPOCH_TALLY0_entered (w 0)).set CELL_EPOCH_TALLY0_left (w 1)).set CELL_EPOCH_TALLY1_entered (w 2)).set
      CELL_EPOCH_TALLY1_left (w 3)).set CELL_CASC_WATCH_seen (w 4)
    rt := { x.rt with tallyAt := none, tallyCopy := none, latched := t, seen := l.getD 4 0 } }

/-- TALLY_LATCH: the counts that stood at the end of the ncyc T named, or of the receipt after it, are latched. -/
def execTallyLatch (c : Nat) (s : State) : Res :=
  onUnit (Instr.tallyLatch c).wf s
    (match (s.rt c).tallyAt, (s.rt c).tallyCopy with
    | some t, some l => if s.stopped c then s else s.modCell c fun x => x.latchTally t l
    | _, _ => s)

/-- entered − left of a version as a cell latched them. -/
def Regs.latchedIn (r : Regs) (v : BitVec 1) : Int :=
  if v = 0 then (BitVec.ofNat 32 (r.get CELL_EPOCH_TALLY0_entered) - BitVec.ofNat 32 (r.get CELL_EPOCH_TALLY0_left)).toInt
  else (BitVec.ofNat 32 (r.get CELL_EPOCH_TALLY1_entered) - BitVec.ofNat 32 (r.get CELL_EPOCH_TALLY1_left)).toInt

/-- Packets in flight under a version at the last tally. -/
def State.inFlight (s : State) (v : BitVec 1) : Int := (s.running.map fun c => (s.cell c).regs.latchedIn v).sum

/-- Does a drain end with these tallies, latest first: a zero, or four equal positive counts within the allowance (R90, R308)? -/
def drainEnds (tallies : List Int) (allowance : Int) : Bool :=
  match tallies with
  | [] => false
  | a :: r => a == 0 || (decide (0 < a) && decide (3 ≤ r.length) && (r.take 3).all (fun b => b == a) && decide (a ≤ allowance))

/-- The end of a drain: what is left is recorded as lost, and FREE is broadcast (R86 step 5, R90). -/
def State.endDrain (s : State) (f : Flip) (left : Int) : State :=
  let s := s.modFlip fun f => { f with step := 5, lost := left }
  let s := if 0 < left then s.zRecord (mkRec 0x0A 3 0 7 0 0 left.toNat) else s
  s.broadcast 0 3 f.old.toNat

/-- A tally's sum joins a drain. -/
def State.judgeDrain (s : State) (f : Flip) : State :=
  let n := s.inFlight f.old
  let l := n :: f.tallies
  let s := s.modFlip fun f => { f with tallies := l }
  if drainEnds l ((s.lostWord0 : Int) - f.unattrib0 + f.lost) then s.endDrain f n else s

/-- A tally's watch counts join the retirement in progress: a full interval with seen zero over the chip ends its wait (R234). A tally of before
the watch began opens no interval. -/
def State.judgeWatch (s : State) (t : Nat) : State :=
  match s.chip.retiring with
  | [] => s
  | r :: k =>
    if t < r.since then s
    else
      let clean := s.chip.lastWatch != 0 && decide (s.chip.lastWatch + tallyGap ≤ t) && s.running.all fun c => (s.rt c).seen == 0
      s.modChip fun h => { h with lastWatch := t, retiring := { r with clean := r.clean || clean } :: k }

/-- TALLY_RESULT: every running cell has latched, and the sum has come to the root H + 14 ncyc after T (R90, R287). -/
def execTallyResult (s : State) : Res :=
  onUnit Instr.tallyResult.wf s
    (match s.chip.tally with
    | none => s
    | some y =>
      if s.now < y.at_ + s.rillH + 14 || !(s.running.all fun c => (s.rt c).latched == y.at_) then s
      else
        let s := s.modChip fun h => { h with tally := none }
        let s := s.judgeWatch y.at_
        match s.chip.flip with
        | some f => if y.drain && f.step == 4 then s.judgeDrain f else s
        | none => s)

/-! ## Step 5 -/

/-- Command requests among those a flip served, as their opcodes. -/
def Flip.commands (f : Flip) : List Nat := f.reqs.filterMap fun r => match r with
  | .command _ op => some op
  | _ => none

/-- Requests of a flip that came from sluices and fences. -/
def Flip.reroutes (f : Flip) : Nat := (f.reqs.filter fun r => r == .reroute).length

/-- A flip is done: one FLIP_DONE event (R435); a ROUTE_EXCEPT it served answers with the version made ACTIVE (R431), a region wake with
what its boundary tests gave (R457). -/
def State.flipDone (s : State) (f : Flip) : State :=
  let s := s.modChip fun h => { h with flip := none }
  let s := s.post 0x02 unitChip (BitVec.ofNat 64 (f.new_.toNat + (if 0 < f.reroutes then 2 else 0) + f.lost.toNat * 2 ^ 32))
    (BitVec.ofNat 64 (f.commands.headD 0 + f.commands.length % 65536 * 2 ^ 16 + f.reroutes % 65536 * 2 ^ 32))
  s.forEach f.reqs fun s r =>
    match r with
    | .command m op =>
      if op = 0x50 then s.finishHeld m sOK 0 (leBytes 1 f.new_.toNat)
      else match aget s.chip.mbxWait m with
        | some d => (s.modChip fun h => { h with mbxWait := adel h.mbxWait m }).finishHeld m (if d = 0 then sOK else sREJECTED) d []
        | none => s
    | _ => s

/-- BCAST_FREE (R86 step 5). -/
def execBcastFree (c : Nat) (s : State) : Res :=
  onUnit (Instr.bcastFree c).wf s
    (match s.bcastOf c 3 with
    | none => s
    | some g =>
      let v := bits g.flit.payload.toNat 8 1
      let s := (s.passBcast c g).modRt c fun r => r.setVer v vFREE
      match s.chip.flip with
      | some f =>
        if f.step == 5 && f.old.toNat == v && s.running.all fun d => (s.rt d).verState v == vFREE then s.flipDone f else s
      | none => s)

end Sys2Proof.Machine
end

