-- ==== Sys2Proof/Machine/RillCore.lean ====
section
/-! DEFINITION. Core control messages (R277, R283, R284): CQ_RILL_GO and its grant, the inbox, refusals and CNACKs. -/

namespace Sys2Proof.Machine

/-- The endpoint of a chip and a logical cell (R20). -/
def endpoint (chip lid : Nat) : Nat := chip * 2 ^ 14 + lid

/-- The logical ID of a physical cell; a cell that no entry maps goes by its physical ID (log 31). -/
def State.lidOf (s : State) (c : Nat) : Nat := (s.mappedTo c).headD c

/-- Record a refusal or a CNACK in CQ_RILL_RES (R284). -/
def State.rillRefuse (s : State) (c core reason : Nat) : State :=
  s.modNi c fun n => n.modCore core fun k =>
    { k with rillRes := BitVec.ofNat 64 (1 + reason % 16 * 2 + min (bits k.rillRes.toNat 16 16 + 1) 65535 * 2 ^ 16) }

/-- A core's write of its slot's locations for CMSGs (R283, R284): the destination, kept; or the payload, which waits for a grant. -/
def State.rillWrite (s : State) (c core : Nat) (a : RillWrite) (i : Instr) : State :=
  match a with
  | .dst v => s.writeAccess c core i fun s => s.modNi c fun n => n.modCore core fun k => { k with rillDst := v }
  | .go v => s.access c core i fun s => s.modNi c fun n => n.stallCore core (.rillGo (n.core core).rillDst v) s.ncyc

/-- CQ_RILL_GO: the write stalls until the block controller grants VC3; or the write of CQ_RILL_DST (log 50). Another core's slot is ignored. -/
def execCqRillGo (c core slot : Nat) (a : RillWrite) (s : State) : Res :=
  onUnit (Instr.cqRillGo c core slot a).wf s
    (if slot = core then s.rillWrite c core a (.cqRillGo c core slot a)
     else s.access c core (.cqRillGo c core slot a) fun s => s.respond c core 0)

/-- Send a granted CMSG (R22, R43, R283): a local one goes to the physical cell, one to another chip leaves behind its ROUTE. -/
def State.sendCmsg (s : State) (c core : Nat) (dst v : W64) : State :=
  let chip := bits dst.toNat 14 13
  let lid := bits dst.toNat 0 14
  let r := s.peerIs c chip lid
  let s := r.1
  let f : Flit := { mkFlit 3 0x18 0 c 0 v with parterre := (s.cell c).owner }
  let sent (s : State) : State := (s.bump c NI_RILL_STAT_cmsg_sent).modNi c fun n =>
    { n with rillFrom := ((core, endpoint chip lid) :: n.rillFrom.filter fun e => e.2 != endpoint chip lid).take 256 }
  let s := match r.2 with
    | .invalid => s.rillRefuse c core 6
    | .vacant => s.rillRefuse c core 8
    | .local_ p => sent (s.rillSend c { f with dst := BitVec.ofNat 14 p })
    | .remote =>
      sent ((s.rillSend c { f with kind := kROUTE, seg := 1, payload := routeWord chip s.chipId.toNat lid (s.lidOf c) }).rillSend c
        { f with seg := 3 })
  (s.modNi c fun n => n.unstall core).respond c core 0

/-- The core of an NI that has waited longest for a grant, with what it sends. -/
def Ni.rillWaiter (n : Ni) : Option (Nat × W64 × W64) :=
  (n.cores.foldl (fun (a : Option (Nat × Nat × W64 × W64)) e =>
    match e.2.stall with
    | some (.rillGo dst v, t) =>
      match a with
      | some b => if b.1 ≤ t then a else some (t, e.1, dst, v)
      | none => some (t, e.1, dst, v)
    | _ => a) none).map (·.2)

/-- VC3_GRANT (R277): one grant in an ncyc, in rotating order of cell, vc3_gap ncyc apart for one NI; a controller in reset grants none
(R314). -/
def execVc3Grant (b : Nat) (s : State) : Res :=
  onUnit (Instr.vc3Grant b).wf s
    (let x := s.block b
    let gap := s.chget CHP_RILL_CTL_vc3_gap
    let at_ (i : Nat) : Nat := (blockCells b).getD i 0
    let ready (i : Nat) : Bool := (s.ni (at_ i)).rillWaiter.isSome && (s.ni (at_ i)).hold == .none &&
      match aget x.lastGrant i with
      | some t => decide (t + gap ≤ s.ncyc)
      | none => true
    if x.ctlReset || s.rillStopped b || x.lastGrant.any (fun e => e.2 == s.ncyc) then s else
    match ((List.range 16).map fun k => (x.nextGrant + k) % 16).find? ready with
    | none => s
    | some i =>
      match (s.ni (at_ i)).rillWaiter with
      | none => s
      | some w =>
        (s.modBlock b fun y => { y with lastGrant := aput y.lastGrant i s.ncyc, nextGrant := (i + 1) % 16 }).sendCmsg (at_ i) w.1
          w.2.1 w.2.2)

/-- The word of CQ_RILL_RX (R284): the head's source, the messages in the inbox, valid. -/
def Ni.rxWord (n : Ni) : W64 :=
  match n.inbox with
  | [] => 0
  | m :: _ => BitVec.ofNat 64 (m.src.toNat + n.inbox.length * 2 ^ 32 + 2 ^ 63)

/-- The word of CQ_RILL_RXDATA (R284). -/
def Ni.rxData (n : Ni) : W64 := (n.inbox.head?.map (·.payload)).getD 0

/-- A read of the inbox meets an uncorrectable error in its head (R283, R299). -/
def State.inboxRead (s : State) (c : Nat) (e : Ecc) : State := if (s.ni c).inbox.isEmpty then s else s.storeRead c 7 e

/-- A core's read of its refusal record, cleared by the read, or of the inbox (R284). -/
def State.rillRead (s : State) (c core slot : Nat) (loc : RillLoc) (e : Ecc) : State :=
  match loc with
  | .res =>
    if slot ≠ core then s.respond c core 0
    else (s.respond c core ((s.ni c).core core).rillRes).modNi c fun n => n.modCore core fun k => { k with rillRes := 0 }
  | .rx => (s.inboxRead c e).respond c core (s.ni c).rxWord
  | .rxData => (s.inboxRead c e).respond c core (s.ni c).rxData

/-- CQ_RILL_RES_READ, or the read of CQ_RILL_RX or CQ_RILL_RXDATA (R284; log 50). -/
def execCqRillResRead (c core slot : Nat) (loc : RillLoc) (e : Ecc) (s : State) : Res :=
  onUnit (Instr.cqRillResRead c core slot loc e).wf s
    (s.access c core (.cqRillResRead c core slot loc e) fun s => s.rillRead c core slot loc e)

/-- CQ_RILL_POP (R284). -/
def execCqRillPop (c core : Nat) (s : State) : Res :=
  onUnit (Instr.cqRillPop c core).wf s
    (s.writeAccess c core (.cqRillPop c core) fun s => s.modNi c fun n => { n with inbox := n.inbox.drop 1 })

/-- Entries of the inbox (R283). -/
def inboxSize : Nat := 32

/-- The ROUTE that came before the last flit of a sequence. -/
def State.routeFor (s : State) (c : Nat) (x : RillFlit) : Option Flit := if x.flit.seg == 3 then (s.rt c).keptRoute x.port else none

/-- Take a body delivered at a router, with its ROUTE. -/
def State.takeBody (s : State) (c : Nat) (x : RillFlit) : State :=
  s.modRt c fun r => if x.flit.seg == 3 then (r.takeLocal fun y => y == x).dropRoute x.port else r.takeLocal fun y => y == x

/-- The sender of a CMSG: its ROUTE's source, or the logical ID of the cell that injected it (R283, R284). -/
def State.cmsgSource (s : State) (route : Option Flit) (f : Flit) : Nat :=
  match route with
  | some r => endpoint r.srcChip r.srcLid
  | none => endpoint s.chipId.toNat (s.lidOf f.src.toNat)

/-- CMSG (R283): into the inbox, or refused with a CNACK. -/
def execCmsg (c : Nat) (s : State) : Res :=
  onUnit (Instr.cmsg c).wf s
    (match s.localFlit c fun y => y.flit.kind == kCMSG with
    | none => s
    | some x =>
      if (s.block (blockOf c)).power ≠ .run then s else
      let route := s.routeFor c x
      let s := s.takeBody c x
      if (s.ni c).hold ≠ .none then s.cnackFor c route x.flit 7
      else if x.flit.parterre ≠ (s.cell c).owner then s.cnackFor c route x.flit 9
      else if inboxSize ≤ (s.ni c).inbox.length then (s.bump c NI_RILL_STAT_inbox_drop).cnackFor c route x.flit 1
      else
        let was := (s.ni c).inbox.isEmpty
        let m : InboxMsg := ⟨BitVec.ofNat 27 (s.cmsgSource route x.flit), x.flit.payload⟩
        let s := (s.bump c NI_RILL_STAT_cmsg_rcvd).modNi c fun n => { n with inbox := n.inbox ++ [m] }
        if was then s.emit (.rillNotify c) else s)

/-- CNACK (R283): the refusal is recorded for the core whose CMSG went to that endpoint last, or that sent last
where none did (log 32). -/
def execCnack (c : Nat) (s : State) : Res :=
  onUnit (Instr.cnack c).wf s
    (match s.localFlit c fun y => y.flit.kind == kCNACK with
    | none => s
    | some x =>
      if (s.block (blockOf c)).power ≠ .run then s else
      let e := s.cmsgSource (s.routeFor c x) x.flit
      let s := s.takeBody c x
      if (s.ni c).hold ≠ .none then s
      else
        let s := s.bump c NI_RILL_STAT_cnack_rcvd
        let last := (s.ni c).rillFrom
        match (last.find? fun k => k.2 == e).orElse fun _ => last.head? with
        | some k => s.rillRefuse c k.1 (bits x.flit.payload.toNat 0 4)
        | none => s)

end Sys2Proof.Machine
end

