-- ==== Sys2Proof/Machine/Cistern.lean ====
section
/-! DEFINITION. The cistern (R437 to R443): pages and their headers, the directory, writing a record with its commit, reading a copy, page
retirement, and the records Zhevber keeps. Copy A (0) stands in stack 0, copy B (1) in stack 10. -/

namespace Sys2Proof.Machine

/-! ## Pages (R437, R438) -/

/-- The gateway whose stack holds a copy. -/
def cistGw (j : Nat) : Nat := if j = 0 then 0 else 10

/-- Bytes of a page. -/
def pageSize : Nat := 4096

/-- The bytes of a page. -/
def State.page (s : State) (j n : Nat) : List Byte := mreadList (s.gw (cistGw j)).stack (n * pageSize) pageSize

/-- n bytes of a page from a byte. -/
def pg (p : List Byte) (off n : Nat) : Nat := leNat ((p.drop off).take n)

/-- The CRC of a page. -/
def pageCrc (p : List Byte) : Nat := crc32 (p.take 60 ++ (p.drop 64))

/-- Is a page a good copy of a record (R438)? -/
def pageGood (p : List Byte) (kind part : Nat) : Bool :=
  p.take 4 == [0x43, 0x53, 0x54, 0x4E] && pg p 4 1 == 1 && pg p 5 1 == kind && pg p 8 2 == part && pg p 60 4 == pageCrc p

/-- The generation a page carries. -/
def pageGen (p : List Byte) : Nat := pg p 16 8

/-- A page as it is written. -/
def mkPage (kind copy part wear gen start day : Nat) (payload : List Byte) : List Byte :=
  let hdr := [0x43, 0x53, 0x54, 0x4E, 1] ++ leBytes 1 kind ++ leBytes 1 copy ++ [0] ++ leBytes 2 part ++ leBytes 2 (min payload.length 4032) ++
    leBytes 4 wear ++ leBytes 8 gen ++ leBytes 4 start ++ leBytes 4 day ++ List.replicate 28 0
  let body := padTo 4032 payload
  hdr ++ leBytes 4 (crc32 (hdr ++ body)) ++ body

/-- The writes a page has seen: its wear field while it carries the magic, else none. -/
def pageWear (p : List Byte) : Nat := if p.take 4 == [0x43, 0x53, 0x54, 0x4E] then pg p 12 4 else 0

/-- Write a page of a copy. -/
def State.writePage (s : State) (j n kind copy part gen : Nat) (payload : List Byte) : State :=
  let p := mkPage kind copy part (pageWear (s.page j n) + 1) gen ((s.ftn.startCount.map (·.toNat)).getD 0) s.ftn.day payload
  s.modGw (cistGw j) fun g => { g with stack := mwriteList g.stack (n * pageSize) p }

/-- Is a page one of the copies of an anchor slot (R437)? -/
def anchorPage (n : Nat) : Bool := decide (n < 16) || (decide (20480 ≤ n) && decide (n < 20496)) || (decide (40960 ≤ n) && decide (n < 40976))

/-- The three copies of anchor slot k. -/
def anchorPages (k : Nat) : List Nat := [k, 20480 + k, 40960 + k]

/-! ## A copy as Zhevber knows it -/

/-- A copy. -/
def State.cist (s : State) (j : Nat) : CistCopy := if j = 0 then s.ftn.copyA else s.ftn.copyB

/-- Change a copy. -/
def State.modCist (s : State) (j : Nat) (f : CistCopy → CistCopy) : State :=
  s.modFtn fun x => if j = 0 then { x with copyA := f x.copyA } else { x with copyB := f x.copyB }

/-- Is a copy in use (R442)? -/
def CistCopy.live (k : CistCopy) : Bool := k.usable && !k.abandoned

/-- The record of a kind and part in a copy. -/
def CistCopy.find (k : CistCopy) (kind part : Nat) : Option CistRec := k.recs.find? fun r => r.kind == kind && r.part == part

/-- A CISTERN event (R435): type 0 repair, 1 page retired, 2 copy abandoned, 3 retention rewrite. -/
def State.cistEvent (s : State) (j type page kind part : Nat) : State :=
  s.post 0x0C (unitGw (cistGw j)) (BitVec.ofNat 64 (j + type * 2 ^ 4 + page * 2 ^ 16 + kind * 2 ^ 32 + part * 2 ^ 40)) 0

/-- Stop using a copy (R442). -/
def State.abandon (s : State) (j : Nat) : State :=
  if (s.cist j).abandoned then s else (s.modCist j fun k => { k with abandoned := true }).cistEvent j 2 0 0 0

/-- Pages a BADPAGE record holds (R442). -/
def badMax : Nat := 8064

/-- Retire a page (R442): never allocated again, with its event; with no room in the BADPAGE record the copy is abandoned. -/
def State.retire (s : State) (j n : Nat) : State :=
  let k := s.cist j
  if k.badPages.contains n then s
  else if badMax ≤ k.badPages.length then s.abandon j
  else (s.modCist j fun k => { k with badPages := k.badPages ++ [n], badReads := k.badReads.filter fun m => m != n }).cistEvent j 1 n 0 0

/-- May a page be allocated: a data page that is free and not retired (R440)? -/
def CistCopy.free (k : CistCopy) (n : Nat) : Bool :=
  !anchorPage n && !k.badPages.contains n && !(k.recs.any fun r => r.pages.contains n)

/-- The first free page of zone z from its next-page pointer. -/
def CistCopy.nextFree (k : CistCopy) (z : Nat) : Option Nat :=
  ((List.range 4096).map fun i => 4096 * z + (k.zones.getD z 0 + i) % 4096).find? k.free

/-- Take a page of a zone, moving its pointer past it. -/
def State.takePage (s : State) (j z n : Nat) : State :=
  s.modCist j fun k => { k with zones := (List.range 16).map fun i => if i = z then (n % 4096 + 1) % 4096 else k.zones.getD i 0 }

/-- Take the first page of a zone that reads back: a page with an uncorrectable read is retired (R440, R442). -/
def State.goodPage (s : State) (j z fuel : Nat) : State × Option Nat :=
  match fuel with
  | 0 => (s, none)
  | f + 1 =>
    match (s.cist j).nextFree z with
    | none => (s, none)
    | some n =>
      let s := s.takePage j z n
      if (s.cist j).badReads.contains n then (s.retire j n).goodPage j z f else (s, some n)

/-- Take n pages in n zones of a list, the zones picked freely (R440 names no zones: log 34). -/
def State.takePages (s : State) (j n : Nat) (zones : List Nat) (got : List Nat) : State × List Nat :=
  match n with
  | 0 => (s, got)
  | k + 1 =>
    let open_ := zones.filter fun z => ((s.cist j).nextFree z).isSome
    match open_ with
    | [] => (s, got)
    | _ =>
      let d := s.draw
      let z := open_.getD (d.1.toNat % open_.length) 0
      let r := d.2.goodPage j z 4096
      match r.2 with
      | some p => r.1.takePages j k (open_.filter fun y => y != z) (got ++ [p])
      | none => r.1.takePages j k (open_.filter fun y => y != z) got

/-! ## The directory (R439) -/

/-- The payload of a directory. -/
def CistCopy.directory (k : CistCopy) (day start : Nat) : List Byte :=
  ((List.range 16).flatMap fun z => leBytes 2 (k.zones.getD z 0)) ++ leBytes 4 day ++ leBytes 4 start ++ List.replicate 24 0 ++
  (k.recs.flatMap fun r => leBytes 1 r.kind ++ [0] ++ leBytes 2 r.part ++ (((List.range 3).flatMap fun i => leBytes 2 (r.pages.getD i 0)) ++ [0, 0]))

/-- Write the directory to the next anchor slot: the commit (R440). -/
def State.commitDir (s : State) (j : Nat) : State :=
  let s := s.modCist j fun k => { k with anchor := (k.anchor + 1) % 16, dirGen := k.dirGen + 1 }
  let k := s.cist j
  let pay := k.directory s.ftn.day ((s.ftn.startCount.map (·.toNat)).getD 0)
  s.forEach (List.range 3) fun s i => s.writePage j ((anchorPages k.anchor).getD i 0) 0 i 0 k.dirGen pay

/-- Write a record to one copy (R440); a copy that cannot place three pages in three zones is abandoned (R442). -/
def State.writeRec (s : State) (j kind part : Nat) (payload : List Byte) : State :=
  if !(s.cist j).live then s else
  let r := s.takePages j 3 (List.range 16) []
  let s := r.1
  if r.2.length < 3 then s.abandon j
  else
    let gen := (((s.cist j).find kind part).map (·.gen)).getD 0 + 1
    let s := s.forEach (List.range 3) fun s i => s.writePage j (r.2.getD i 0) kind i part gen payload
    (s.modCist j fun k => { k with
      recs := (k.recs.filter fun x => !(x.kind == kind && x.part == part)) ++ [⟨kind, part, gen, s.ftn.day, r.2⟩] }).commitDir j

/-- The BADPAGE record of a copy (R442). -/
def State.writeBad (s : State) (j : Nat) : State :=
  s.forEach (List.range (((s.cist j).badPages.length + 2015) / 2016)) fun s i =>
    s.writeRec j 5 i ((((s.cist j).badPages.drop (2016 * i)).take 2016).flatMap fun n => leBytes 2 n)

/-- Write a record to one copy, then its BADPAGE record if pages were retired on the way. -/
def State.writeOne (s : State) (j kind part : Nat) (payload : List Byte) : State :=
  let bad := (s.cist j).badPages.length
  let s := s.writeRec j kind part payload
  if (s.cist j).badPages.length = bad then s else s.writeBad j

/-- Is the cistern open (R441)? -/
def State.cistOpen (s : State) : Bool := s.ftn.startCount.isSome

/-- Write a record to both copies. -/
def State.cistWrite (s : State) (kind part : Nat) (payload : List Byte) : State :=
  if s.cistOpen then (s.writeOne 0 kind part payload).writeOne 1 kind part payload else s

/-! ## Reading a copy (R441) -/

/-- A good copy of a record on a page that can be read. -/
def State.goodAt (s : State) (j n kind part : Nat) : Bool := !(s.cist j).badReads.contains n && pageGood (s.page j n) kind part

/-- The generation of an anchor slot's directory, none without a good copy. -/
def State.anchorGen (s : State) (j k : Nat) : Option Nat :=
  ((anchorPages k).find? fun n => s.goodAt j n 0 0).map fun n => pageGen (s.page j n)

/-- The anchor slot with the highest generation. -/
def State.bestAnchor (s : State) (j : Nat) : Option (Nat × Nat) :=
  (List.range 16).foldl (fun a k =>
    match s.anchorGen j k, a with
    | some g, some b => if b.2 < g then some (k, g) else a
    | some g, none => some (k, g)
    | none, _ => a) none

/-- The records a directory page names: entries of kind 0 are vacant. -/
def dirEntries (p : List Byte) : List CistRec :=
  (List.range 330).filterMap fun i =>
    let o := 128 + 12 * i
    if pg p o 1 = 0 then none else some ⟨pg p o 1, pg p (o + 2) 2, 0, 0, [pg p (o + 4) 2, pg p (o + 6) 2, pg p (o + 8) 2]⟩

/-- The good copy of a record with the highest generation, as its page. -/
def State.bestPage (s : State) (j : Nat) (r : CistRec) : Option Nat :=
  (r.pages.filter fun n => s.goodAt j n r.kind r.part).foldl (fun a n =>
    match a with
    | some m => if pageGen (s.page j m) < pageGen (s.page j n) then some n else a
    | none => some n) none

/-- Read the directory of a copy and the generation and day of each of its records. -/
def State.readCopy (s : State) (j : Nat) : State :=
  match s.bestAnchor j with
  | none => s.modCist j fun k => { k with usable := false }
  | some a =>
    match (anchorPages a.1).find? fun n => s.goodAt j n 0 0 with
    | none => s
    | some n =>
      let p := s.page j n
      let recs := (dirEntries p).map fun r =>
        match s.bestPage j r with
        | some m => { r with gen := pageGen (s.page j m), day := pg (s.page j m) 28 4 }
        | none => r
      s.modCist j fun k => { k with
        usable := true, anchor := a.1, dirGen := a.2, recs := recs, zones := (List.range 16).map fun z => pg p (64 + 2 * z) 2 }

/-- The payload of a record on a page. -/
def pagePayload (p : List Byte) : List Byte := (p.drop 64).take (min (pg p 10 2) 4032)

/-- The page a record is taken from: of copy A, else of B (R441). -/
def State.cistSource (s : State) (kind part : Nat) : Option (List Byte) :=
  let from_ (j : Nat) : Option (List Byte) :=
    if !(s.cist j).live then none
    else (((s.cist j).find kind part).bind fun r => s.bestPage j r).map fun n => s.page j n
  (from_ 0).orElse fun _ => from_ 1

/-- The payload of a record (R441). -/
def State.cistRead (s : State) (kind part : Nat) : Option (List Byte) := (s.cistSource kind part).map pagePayload

/-- Pages of a record of a copy that are not good, or stale. -/
def State.poorPages (s : State) (j : Nat) (r : CistRec) : List Nat :=
  r.pages.filter fun n => !s.goodAt j n r.kind r.part || decide (pageGen (s.page j n) < r.gen)

/-- The records of both copies, by kind and part; BADPAGE records belong to their own copy. -/
def State.allRecs (s : State) : List (Nat × Nat) :=
  ((s.ftn.copyA.recs ++ s.ftn.copyB.recs).map fun r => (r.kind, r.part)).eraseDups.filter fun e => e.1 != 5

/-- Does a copy need a record rewritten: missing, with a poor page, or of an older generation than that of the page it is taken from? -/
def State.needsRepair (s : State) (j kind part gen : Nat) : Bool :=
  (s.cist j).live &&
  match (s.cist j).find kind part with
  | none => true
  | some r => !(s.poorPages j r).isEmpty || (s.bestPage j r).isNone || decide (r.gen < gen)

/-- Retire the pages of a record found not good while written within the retention (R442). -/
def State.retirePoor (s : State) (j kind part : Nat) : State :=
  match (s.cist j).find kind part with
  | none => s
  | some r =>
    s.forEach (r.pages.filter fun n => !s.goodAt j n kind part) fun s n =>
      if s.ftn.day < pg (s.page j n) 28 4 + s.ftn.retention || (s.cist j).badReads.contains n then s.retire j n else s

/-- Repair a record: rewritten into each copy that needs it, with an event (R441). The number of records repaired comes with it. -/
def State.repair (s : State) (kind part : Nat) : State × Nat :=
  match s.cistSource kind part with
  | none => (s, 0)
  | some src =>
    let pay := pagePayload src
    let need := [0, 1].filter fun j => s.needsRepair j kind part (pageGen src)
    (s.forEach need fun s j =>
      let page := ((((s.cist j).find kind part).map fun r => (s.poorPages j r).headD 0)).getD 0
      ((s.retirePoor j kind part).writeOne j kind part pay).cistEvent j 0 page kind part, if need.isEmpty then 0 else 1)

/-- Rewrite the records written retention_days or more ago (R441). -/
def State.retentionPass (s : State) : State :=
  s.forEach [0, 1] fun s j =>
    s.forEach (((s.cist j).recs.filter fun r => decide (r.day + s.ftn.retention ≤ s.ftn.day)).map fun r => (r.kind, r.part)) fun s e =>
      match ((s.cist j).find e.1 e.2).bind fun r => s.bestPage j r with
      | some n => (s.writeOne j e.1 e.2 (pagePayload (s.page j n))).cistEvent j 3 n e.1 e.2
      | none => s

/-! ## The records Zhevber keeps (R439) -/

/-- The DEFECT bytes of the die as it stands: failed mesh ports, cell failed. -/
def State.defectBytes (s : State) : List Byte :=
  (List.range 9216).map fun i =>
    let c := mkCell (i % 96) (i / 96)
    let ports := (List.range 4).foldl (fun a p => a +
      match aget (s.rt c).sluices p with
      | some x => if x.cell then 0 else 2 ^ p
      | none => 0) 0
    BitVec.ofNat 8 (ports + if s.fencedCell c then 16 else 0)

/-- Write a DEFECT map (R439). -/
def State.writeDefect (s : State) (map : List Byte) : State :=
  ((s.cistWrite 2 0 (map.take 4032)).cistWrite 2 1 ((map.drop 4032).take 4032)).cistWrite 2 2 (map.drop 8064)

/-- The DEFECT map the cistern holds. -/
def State.readDefect (s : State) : Option (List Byte) :=
  (s.cistRead 2 0).bind fun a => (s.cistRead 2 1).bind fun b => (s.cistRead 2 2).map fun c => padTo 4032 a ++ padTo 4032 b ++ padTo 1152 c

/-- The AGEING record of a day: the error counts of each block's cells and what stands closed there, saturating (log 35). -/
def State.ageing (s : State) : List Byte :=
  allBlocks.flatMap fun b =>
    let sum (f : Field) : Nat := ((blockCells b).map fun c => s.cget c f).sum
    let shut := ((blockCells b).map fun c => s.portSluices c).sum
    leBytes 2 (min (sum CELL_ERR_CNT_corr) 65535) ++ leBytes 1 (min (sum CELL_ERR_CNT_uncorr) 255) ++
      leBytes 1 (min (sum CELL_ERR_CNT_rinse_fail) 255) ++ leBytes 1 (min shut 255) ++ leBytes 1 (s.fencedIn b)

/-- CISTERN_DAY_TICK (R439, R441): a day for each 86,400 s since the open; old records are rewritten, and the day's AGEING is written. -/
def execCisternDayTick (s : State) : Res :=
  onUnit Instr.cisternDayTick.wf s
    (if !s.zRuns || !s.cistOpen || decide (s.now < s.ftn.dayFrom + 86400 * 1800000000) then s
     else
      let s := s.modFtn fun f => { f with day := f.day + 1, dayFrom := f.dayFrom + 86400 * 1800000000 }
      let s := s.retentionPass
      s.cistWrite 4 (s.ftn.day % 64) s.ageing)

/-- SIDEBAND_RESPONSE (R442, R502): an error on a read of a page counts as an uncorrectable read of it. -/
def execSidebandResponse (j page : Nat) (err : Bool) (s : State) : Res :=
  onUnit (Instr.sidebandResponse j page err).wf s
    (let j := if j = 0 then 0 else 1
    if err && decide (page < 65536) then s.modCist j fun k => if k.badReads.contains page then k else { k with badReads := k.badReads ++ [page] } else s)

end Sys2Proof.Machine
end

