-- ==== Sys2Proof/Machine/Balance.lean ====
section
/-! DEFINITION. The balance equations of R319, evaluated from the state the registers show, and the records of those that fail (R321). -/

namespace Sys2Proof.Machine

/-- Row 1: outstanding tokens (R329). -/
def Cell.balTokens (x : Cell) : Bool :=
  BitVec.ofNat 32 (x.regs.get NI_BAL_TOK_alloc) - BitVec.ofNat 32 (x.regs.get NI_BAL_TOK_closed) == BitVec.ofNat 32 x.ni.openTokens

/-- Row 2: receive-queue entries (R330). -/
def Cell.balQueues (x : Cell) : Bool :=
  BitVec.ofNat 32 (x.regs.get NI_BAL_QUE2_take_total) - BitVec.ofNat 32 (x.regs.get NI_BAL_QUE2_return_total) ==
    BitVec.ofNat 32 x.ni.poolTaken

/-- Row 3: reorder slots (R331). -/
def Cell.balReorder (x : Cell) : Bool :=
  BitVec.ofNat 16 (x.regs.get NI_BAL_ROB_taken) - BitVec.ofNat 16 (x.regs.get NI_BAL_ROB_freed) == BitVec.ofNat 16 x.ni.robHeld &&
    x.ni.chans.all fun e => decide (e.2.rx.held.length ≤ 64)

/-- The combine slots that the valid tree entries of a vertex or root take (R319). -/
def Regs.combSlots (r : Regs) : Nat :=
  ((List.range 16).map fun j =>
    if r.flag (NI_RED_TREE_A_valid.at j) && r.get (NI_RED_TREE_A_role.at j) != 0 then r.get (NI_RED_TREE_A_slot_cnt_m1.at j) + 1 else 0).sum

/-- Row 4: combine slots (R332). -/
def Cell.balSlots (x : Cell) : Bool :=
  x.regs.get NI_BAL_COMB_free + x.regs.get NI_BAL_COMB_reserved_slots == 64 &&
    x.regs.get NI_BAL_COMB_reserved_slots == x.regs.combSlots

/-- Row 5: fountain-buffer slots (R332). -/
def Cell.balFountain (x : Cell) : Bool :=
  BitVec.ofNat 16 (x.regs.get NI_BAL_FOUNT_taken) - BitVec.ofNat 16 (x.regs.get NI_BAL_FOUNT_freed) ==
    BitVec.ofNat 16 x.ni.fountain.length && decide (x.ni.fountain.length ≤ 8)

/-- Count-units in ranges of tree entry j not yet emitted (R333). -/
def Ni.openOf (x : Ni) (j : Nat) : Nat := ((x.ranges.filter fun e => e.1 / 1024 == j).map fun e => e.2.openUnits).sum

/-- Row 7: contribution counts (R333). -/
def Cell.balRed (x : Cell) : Bool :=
  (List.range 16).all fun j =>
    BitVec.ofNat 32 (x.regs.get (NI_BAL_RED_A_acc.at j)) - BitVec.ofNat 32 (x.regs.get (NI_BAL_RED_A_emit.at j)) -
      BitVec.ofNat 32 (x.regs.get (NI_BAL_RED_B_lost.at j)) == BitVec.ofNat 32 (x.ni.openOf j)

/-- The flits a mesh input has received: those the neighbour sent, less those on the way (R334). -/
def State.rillRecv (s : State) (c p vc : Nat) : BitVec 12 :=
  match neighbor c p with
  | some d =>
    let way := ((s.rt c).rillIn.filter fun x => x.port == p && x.flit.vc.toNat == vc && decide (s.ncyc < x.due)).length
    (balOf (s.rt d).rillBal (oppPort p * 4 + vc)).sent - BitVec.ofNat 12 way
  | none => (balOf (s.rt c).rillBal (p * 4 + vc)).recv

/-- Flits buffered at an input (R334). -/
def State.rillBuffered (s : State) (c p vc : Nat) : Nat :=
  ((s.rt c).rillIn.filter fun x => x.port == p && x.flit.vc.toNat == vc && decide (x.due ≤ s.ncyc)).length

/-- The credits that a mesh output has received: those its neighbour's input has returned (R276, R334). -/
def State.rillCredits (s : State) (c p vc : Nat) : BitVec 12 :=
  match neighbor c p with
  | some d => (balOf (s.rt d).rillBal (oppPort p * 4 + vc)).credSent
  | none => 0

/-- Row 6 at a mesh port and VC of a cell (R319, R334): at the sender depth − cred ≡ flits_sent − credits_recv, at the receiver
occ ≡ flits_recv − credits_sent, across the link no more flits on the way than its hop time. -/
def State.balMesh (s : State) (c p v : Nat) : Bool :=
  match neighbor c p with
  | none => true
  | some d =>
    let b := balOf (s.rt c).rillBal (p * 4 + v)
    let w := 1 + s.linkExtra c p + if regionCross c d then 4 else 0
    BitVec.ofNat 12 ((s.rt d).rillOcc (oppPort p) v) == b.sent - s.rillCredits c p v &&
    BitVec.ofNat 12 (s.rillBuffered c p v) == s.rillRecv c p v - b.credSent &&
    decide ((b.sent - s.rillRecv d (oppPort p) v).toNat ≤ w)

/-- Row 6 at the edge port and a VC of a cell: the ingress buffer of its link port (R276, R334). -/
def State.balEdge (s : State) (c v : Nat) : Bool :=
  match rillEdge c with
  | none => true
  | some (n, _) =>
    let b := balOf (s.link n).rillBal v
    BitVec.ofNat 12 (ingressOcc (s.link n).rillIng v) == b.recv - b.credSent

/-- Row 6 at a cell. -/
def State.balRill (s : State) (c : Nat) : Bool :=
  (List.range 4).all fun v => s.balEdge c v && (List.range 4).all fun p => s.balMesh c p v

/-- The rows that fail at a cell (R319, R321). -/
def State.failingRows (s : State) (c : Nat) : List Nat :=
  let x := s.cell c
  (if x.balTokens then [] else [1]) ++ (if x.balQueues then [] else [2]) ++ (if x.balReorder then [] else [3]) ++
  (if x.balSlots then [] else [4]) ++ (if x.balFountain then [] else [5]) ++ (if s.balRill c then [] else [6]) ++
  (if x.balRed then [] else [7])

/-- The equations that fail over a list of cells; a fenced cell is excluded (R320). -/
def State.failures (s : State) (cells : List Nat) : List (Nat × Nat) :=
  (cells.filter fun c => !s.fencedCell c && !s.stopped c).flatMap fun c => (s.failingRows c).map fun r => (r, c)

/-- Evaluate rows 1 to 7 and record each failure (R321). The number of failures comes with it. -/
def State.checkBalance (s : State) (cells : List Nat) : State × Nat :=
  let f := s.failures cells
  (s.forEach f fun s e => s.zRecord (mkRec 0x0B 3 e.2 7 0 0 e.1), f.length)

end Sys2Proof.Machine
end

