-- ==== Sys2Proof/Machine/FaultFlits.lean ====
section
/-! DEFINITION. Fault records on the rill and what Zhevber does about them (R280, R296, R297, R300, R310, R311), the windows of the error
counts, the watchdogs, notices of sluices and orders of resets (R306, R314, R316). -/

namespace Sys2Proof.Machine

/-! ## The Fountaineer's corner (R280) -/

/-- Can the Fountaineer use a corner: its block is not fenced and its region not cut off (R280, R316)? -/
def State.cornerOk (s : State) (k : Nat) : Bool :=
  let c := cornerCell k
  !(s.block (blockOf c)).fenced && !((s.region (regionOf c)).isolate && (s.region (regionOf c)).bringUp)

/-- Choose the first usable corner as the root of context 0 and write its tree; with none, context 0 is out of use and both fields stay (R280). -/
def State.chooseCorner (s : State) : State :=
  match (List.range 4).find? s.cornerOk with
  | some k => (s.modChipRegs fun r =>
      ((r.set CHP_RILL_CTL_root_corner k).set (CHP_RILL_CTX_root.at 0) (cornerCell k)).set (CHP_RILL_CTX_valid.at 0) 1).writeTree0
  | none => s.modChipRegs fun r => r.set (CHP_RILL_CTX_valid.at 0) 0

/-- Move the corner when it can no longer be used. -/
def State.moveCorner (s : State) : State :=
  if s.ctxValid 0 && s.cornerOk (s.chget CHP_RILL_CTL_root_corner) then s else if s.chip.routed then s.chooseCorner else s

/-! ## What Zhevber does about a record (R296, R310, R311) -/

/-- Zhevber's share of a fence of cells: the map, the cistern, a flip, the corner (R310, R311, R439). -/
def State.afterFence (s : State) (cells : List Nat) : State :=
  let s := s.forEach cells fun s c => s.vacate c
  ((s.requestFlip .reroute).writeDefect s.defectBytes).moveCorner

/-- Blocks standing fenced in a region (R296). -/
def State.fencedBlocks (s : State) (r : Nat) : Nat := ((regionBlocks r).filter fun b => (s.block b).fenced).length

/-- Start a hard region reset (R316 step 1): a flip that routes nothing through the region. Its record has action 5 (R314). -/
def State.startHard (s : State) (r : Nat) (q : FlipReq) (cls port plane detail : Nat) : State :=
  if (s.region r).hard then s
  else ((s.modRegion r fun x => { x with isolate := true, hard := true }).zRecord (mkRec cls 3 (rmCell r) port plane 5 detail)).requestFlip q

/-- The count of a region's standing fenced blocks acts on block_fence_limit: at the limit the region is taken out by a hard reset and not
re-admitted, with a record of action 4; at half of it Zhevber records it (R296, R300, R316). -/
def State.takeOut (s : State) (r : Nat) (f : FaultRec) : State :=
  let limit := (s.region r).regs.get RGN_FAULT_CTL_block_fence_limit
  let note (action : Nat) : FaultRec := mkRec f.cls.toNat 3 (rmCell r) f.port.toNat f.plane.toNat action f.detail.toNat
  if (s.region r).taken then s
  else if limit ≤ s.fencedBlocks r then
    ((s.modRegion r fun x => { x with taken := true }).zRecord (note 4)).startHard r .follow f.cls.toNat f.port.toNat f.plane.toNat f.detail.toNat
  else if s.fencedBlocks r = half limit then s.zRecord (note 0)
  else s

/-- Zhevber receives a record: it writes it, and acts on it. -/
def State.zReact (s : State) (f : FaultRec) : State :=
  let s := s.zRecord f
  let c := f.unit.toNat
  if !s.zRuns then s
  else if f.cls = 0x08 then (if f.action = 1 then s.rewriteRill else s)
  else if f.action = 1 then s.requestFlip .reroute
  else if f.action = 2 then s.afterFence [c]
  else if f.action = 3 then (s.afterFence (blockCells (blockOf c))).takeOut (regionOf c) f
  else s

/-! ## Records on the rill (R276, R300) -/

/-- A FAULT flit with a record. -/
def faultFlit (src dst : Nat) (f : FaultRec) : Flit := mkFlit 0 0x00 dst src 0 f.word

/-- RECORD_SENDING_NCYC: the waiting record of a block controller or a region manager goes out, 16 ncyc after its last (R276, R300). -/
def execRecordSendingNcyc (region : Bool) (u : Nat) (s : State) : Res :=
  onUnit (Instr.recordSendingNcyc region u).wf s
    (let due (t : Option Nat) : Bool := match t with
      | none => true
      | some t => decide (t + 16 ≤ s.ncyc)
    if region then
      let x := s.region u
      match x.waiting with
      | some f =>
        if due x.lastSend && s.ctxValid 0 then
          (s.modRegion u fun x => { x with waiting := none, lastSend := some s.ncyc }).rillSendAs (rmCell u) rkRegion (faultFlit (rmCell u) s.cornerRoot f)
        else s
      | none => s
    else
      let x := s.block u
      match x.waiting with
      | some f =>
        if due x.lastSend && !x.ctlReset && !s.rillStopped u then
          (s.modBlock u fun x => { x with waiting := none, lastSend := some s.ncyc }).rillSendAs (bcCell u) rkBlock
            (faultFlit (bcCell u) (rmCell (blockRegion u)) f)
        else s
      | none => s)

/-- FAULT: a router's notice of an uncorrectable flit is counted by its block controller (R274, R295); at a region manager's cell a record is
forwarded; at the Fountaineer's corner Zhevber takes it (R300). -/
def execFault (c : Nat) (s : State) : Res :=
  onUnit (Instr.fault c).wf s
    (match s.localFlit c fun y => y.flit.kind == kFAULT with
    | none => s
    | some x =>
      let s' := s.modRt c fun r => r.takeLocal fun y => y == x
      let f := FaultRec.ofWord x.flit.payload
      if f.level = 0 then s'.rillError f.unit.toNat f.port.toNat 1
      else if c = rmCell (regionOf c) then
        if s.ctxValid 0 then s'.rillSendAs c rkRegion (faultFlit c s.cornerRoot f) else s
      else if c = s.cornerRoot then s'.zReact f
      else s')

/-- FAULT_WINDOW_ROLL (R295, R296): at a multiple of the window every count clears, those of the link ports behind the block's cells too. -/
def execFaultWindowRoll (b : Nat) (s : State) : Res :=
  onUnit (Instr.faultWindowRoll b).wf s
    (if s.now % 2 ^ (16 + (s.block b).regs.get BLK_FAULT_CTL_window_log2) = 0 then
      (s.modBlock b fun x => { x with counts := [] }).forEach ((List.range 48).filter fun n => blockOf (linkCell n 0).1 == b) fun s n =>
        s.modLink n fun l => { l with xlate := 0, hdrs := [] }
    else s)

/-! ## Resets (R314, R316) -/

/-- A block controller as its reset leaves it: its registers and its error counts are kept (R17, R314), its waiting record and its rinse state
are cleared. -/
def Block.ctlCleared (x : Block) : Block :=
  { x with waiting := none, lastGrant := [], nextGrant := 0, rinseT := 0, rinseQ := 0, rinsePort := [], ctlReset := true,
           combPend := [], test := none }

/-- Block reset (R314): its 16 cells and its controller. -/
def State.resetBlock (s : State) (b : Nat) (h : NiHold) : State :=
  (s.forEach (blockCells b) fun s c => s.resetCell c h).modBlock b Block.ctlCleared

/-- Soft region reset (R314). -/
def State.resetSoft (s : State) (r : Nat) : State := s.forEach (regionBlocks r) fun s b => s.resetBlock b .region

/-- A reset begins or ends: the record of action 5 or 6, by the block controller for an NI or cell, by the region manager for a block, by
Zhevber for a region (R298, R314). Class 0 and detail 0 where no fault ordered it (log 36). -/
def State.resetRecord (s : State) (scope u action : Nat) : State :=
  match scope with
  | 1 => s.blockRecord (blockOf u) (mkRec 0 1 u 7 0 action 0)
  | 2 => s.blockRecord (blockOf u) (mkRec 0 1 u 7 0 action 0)
  | 3 => s.regionRecord (blockRegion u) (mkRec 0 2 (bcCell u) 7 0 action 0)
  | _ => s.zRecord (mkRec 0 3 (rmCell u) 7 0 action 0)

/-- Start a reset of a scope (R314). A fenced cell or block stays as it is held (R318). -/
def State.startReset (s : State) (scope u : Nat) : State :=
  match scope with
  | 1 => (s.resetNi u .ni).resetRecord 1 u 5
  | 2 => (s.resetCell u .cell).resetRecord 2 u 5
  | 3 => (s.resetBlock u .cell).resetRecord 3 u 5
  | 4 => (s.resetSoft u).resetRecord 4 u 5
  | _ => s.startHard u .follow 0 7 0 0

/-- RESET_FLIT (R314): the scope in aux names the cell, block or region of the router it is for. -/
def execResetFlit (c : Nat) (s : State) : Res :=
  onUnit (Instr.resetFlit c).wf s
    (match s.localFlit c fun y => y.flit.kind == kRESET with
    | none => s
    | some x =>
      let s := s.modRt c fun r => r.takeLocal fun y => y == x
      match x.flit.aux.toNat with
      | 1 => s.startReset 1 c
      | 2 => s.startReset 2 c
      | 3 => s.startReset 3 (blockOf c)
      | 4 => s.startReset 4 (regionOf c)
      | 5 => s.startReset 5 (regionOf c)
      | _ => s)

/-- Is a poll due: watchdog_us after the last (R297)? -/
def State.pollDue (s : State) (r : Nat) (last : Option Nat) : Bool :=
  match last with
  | none => true
  | some t => decide (t + 1800 * (s.region r).regs.get RGN_FAULT_CTL_watchdog_us ≤ s.now)

/-- A poll of a region manager by Zhevber: the second one missed in a row has the region hard reset (R297). -/
def State.pollRegion (s : State) (u : Nat) (answered : Bool) : State :=
  if !s.pollDue u (s.region u).polled then s
  else
    let n := if answered then 0 else (s.region u).missed + 1
    let s := s.modRegion u fun x => { x with missed := n, polled := some s.now }
    if n = 2 then s.startHard u .follow 0x0C 7 0 2 else s

/-- A poll of a block controller by its region manager: the second one missed in a row has the block fenced and reset (R297). A block in Off is
not polled (R410), a fenced one not fenced again (R318). -/
def State.pollBlock (s : State) (u : Nat) (answered : Bool) : State :=
  if (s.block u).power = .off || !s.pollDue (blockRegion u) (s.block u).polled then s
  else
    let n := if answered then 0 else (s.block u).missed + 1
    let s := s.modBlock u fun x => { x with missed := n, polled := some s.now }
    if n = 2 then
      ((s.fenceBlock u 0x0C 2 7 0 2).resetBlock u .cell).regionRecord (blockRegion u) (mkRec 0x0C 2 (bcCell u) 7 0 5 2)
    else s

/-- WATCHDOG_POLL (R297): one every watchdog_us; a unit that misses two in a row is faulty, and a WATCHDOG record says so. -/
def execWatchdogPoll (region : Bool) (u : Nat) (answered : Bool) (s : State) : Res :=
  onUnit (Instr.watchdogPoll region u answered).wf s (if region then s.pollRegion u answered else s.pollBlock u answered)

/-- SLUICE_FLIT (R306): bits [3:0] of the payload name ports and bits [5:4] their state, 0 open, 1 closed, 2 TEST (log 37). -/
def execSluiceFlit (c : Nat) (s : State) : Res :=
  onUnit (Instr.sluiceFlit c).wf s
    (match s.localFlit c fun y => y.flit.kind == kSLUICE with
    | none => s
    | some x =>
      let s := s.modRt c fun r => r.takeLocal fun y => y == x
      let v := x.flit.payload.toNat
      s.forEach ((List.range 4).filter fun p => v.testBit p && (neighbor c p).isSome) fun s p =>
        match bits v 4 2 with
        | 0 => s.modRt c fun r => { r with sluices := adel r.sluices p }
        | 1 => s.modRt c fun r => { r with sluices := aput r.sluices p { (aget r.sluices p).getD ⟨false, false, 0, [], none⟩ with test := false, passes := [] } }
        | 2 => s.modRt c fun r => { r with sluices := aput r.sluices p { (aget r.sluices p).getD ⟨false, false, 0, [], none⟩ with test := true, passes := [] } }
        | _ => s)

end Sys2Proof.Machine
end

