-- ==== Sys2Proof/Machine/Trees.lean ====
section
/-! DEFINITION. Trees (R123, R216, R217, R234, R243 to R245, R253): the rules under which Zhevber installs one, the entries it writes, the
retirement of one; landings (R229, R241, R263, R269) and held ranges (R251, R272) as the mailbox commands set them. -/

namespace Sys2Proof.Machine

/-! ## Tree and vertex records (R123) -/

/-- A tree record. -/
structure TreeRec where
  tree : Nat
  kind : Nat
  root : Nat
  count : Nat
  first : Nat
  fmt : Nat
  op : Nat
  k : Nat
  prec : Nat
  expected : Nat
  tag : Nat
deriving DecidableEq, Repr

/-- n bytes of a byte string from an offset, as a little-endian number (R7). -/
def num (b : List Byte) (off n : Nat) : Nat := leNat ((b.drop off).take n)

/-- The tree record that bytes spell. -/
def TreeRec.of (b : List Byte) : TreeRec :=
  { tree := num b 0 2, kind := num b 2 1, root := num b 4 2, count := num b 6 2, first := num b 8 4, fmt := num b 12 1,
    op := num b 13 1, k := num b 14 1, prec := num b 15 1, expected := num b 16 4, tag := num b 20 4 }

/-- Are the reserved bits of a tree record zero and its kind defined? -/
def TreeRec.formOk (t : TreeRec) : Bool := decide (t.tree < 4096) && decide (t.kind < 2)

/-- A vertex record: cell, branch mask, up port, children expected. -/
abbrev Vtx := Nat × Nat × Nat × Nat

/-- The vertex record that bytes spell. -/
def vtxOf (b : List Byte) : Vtx := (num b 0 2, num b 2 1 % 32, num b 3 1 % 8, num b 4 1)

/-- n vertex records from an offset. -/
def vtxList (b : List Byte) (off n : Nat) : List Vtx := (List.range n).map fun i => vtxOf (b.drop (off + 8 * i))

/-- Cell of a vertex record. -/
def Vtx.cell (v : Vtx) : Nat := v.1
/-- Branch mask of a vertex record. -/
def Vtx.mask (v : Vtx) : Nat := v.2.1
/-- Up port of a vertex record. -/
def Vtx.up (v : Vtx) : Nat := v.2.2.1
/-- Children expected at a vertex record. -/
def Vtx.kids (v : Vtx) : Nat := v.2.2.2

/-- The mesh ports of a branch mask. -/
def maskPorts (m : Nat) : List Nat := (List.range 4).filter fun p => m.testBit p
/-- The branches of a mask. -/
def maskSize (m : Nat) : Nat := ((List.range 5).filter fun p => m.testBit p).length
/-- The cells a record's mesh branches lead to. -/
def Vtx.next (v : Vtx) : List Nat := (maskPorts v.mask).filterMap fun p => neighbor v.cell p
/-- The record of a cell. -/
def recAt (vs : List Vtx) (c : Nat) : Option Vtx := vs.find? fun v => v.cell == c

/-- Cells reached from a set of cells along branches. -/
def reachAll (vs : List Vtx) (fuel : Nat) (front seen : List Nat) : List Nat :=
  match fuel with
  | 0 => seen
  | k + 1 =>
    let f := (front.flatMap fun c => ((recAt vs c).map Vtx.next).getD []).filter fun c => !seen.contains c
    if f.isEmpty then seen else reachAll vs k f (seen ++ f)

/-! ## The rules of R217 -/

/-- Is a physical cell in service: it exists and is not fenced (R217, R311)? -/
def State.inService (s : State) (c : Nat) : Bool := cellOk c && !s.fencedCell c

/-- Is a cell one of the eight of a present memory gateway (R217, R503)? -/
def State.gatewayCell? (s : State) (c : Nat) : Option Nat :=
  (List.range 20).find? fun g => s.chip.integ.mgwPresent.getLsbD g && (List.range 8).any fun k => (gatewayCell g k).1 == c

/-- Row 2 of R217: one acyclic tree from the root, every branch to a cell with its own record. -/
def treeShape (vs : List Vtx) (root : Nat) : Bool :=
  let cells := vs.map Vtx.cell
  let ends := vs.flatMap Vtx.next
  (recAt vs root).isSome && cells.eraseDups.length == cells.length && ends.all (cells.contains ·) &&
  cells.all (fun c => (ends.filter (· == c)).length == if c = root then 0 else 1) &&
  (reachAll vs (vs.length + 1) [root] [root]).length == cells.length

/-- Row 3 of R217: no branch bit names an edge port. -/
def treeInside (vs : List Vtx) : Bool := vs.all fun v => (maskPorts v.mask).all fun p => (neighbor v.cell p).isSome

/-- Row 5 of R217: no branch crosses a closed sluice. -/
def State.treeOpen (s : State) (vs : List Vtx) : Bool := vs.all fun v => (maskPorts v.mask).all fun p => !s.sluiced v.cell p

/-- The tree IDs with a valid entry in a router. -/
def Cell.trees (x : Cell) : List Nat := (x.rt.casc.filter fun e => e.2.getLsbD 8).map (·.1)

/-- The tree IDs with a valid entry in some router of the chip, each once: the IDs in use (R217, R234). -/
def State.usedTrees (s : State) : List Nat := (s.cells.dflt.trees ++ s.cells.ents.flatMap fun e => e.2.trees).eraseDups

/-- Has a tree ID a valid entry in some router (R217, row 6)? -/
def State.treeUsed (s : State) (t : Nat) : Bool := s.usedTrees.contains t

/-- The rows of R217 that every tree must satisfy, numbered from 1; 0 when all hold. -/
def State.treeRow (s : State) (t : TreeRec) (vs : List Vtx) : Nat :=
  if !(vs.all fun v => s.inService v.cell) then 1
  else if !treeShape vs t.root then 2
  else if !treeInside vs then 3
  else if t.kind = 0 && ((recAt vs t.root).map Vtx.mask).getD 0 / 16 == 1 && (s.gatewayCell? t.root).isNone then 4
  else if !s.treeOpen vs then 5
  else 0

/-! ## Reduction trees (R243 to R245, R253) -/

/-- What a setup gives a reduction tree beyond its records (R431): forwarding root, base timeout, hold time, slot count, up endpoint with its
tree ID, delivery endpoints. -/
structure RedSetup where
  forward : Bool
  base : Nat
  hold : Nat
  r : Nat
  upEp : Nat
  upTree : Nat
  dlv : List Nat
deriving DecidableEq, Repr

/-- Has a record a tree entry: is it a contributor, a vertex or the root (R244)? -/
def Vtx.role (v : Vtx) (root : Nat) (forward : Bool) : Option Nat :=
  if v.cell = root then some (if forward then 3 else 2)
  else if 2 ≤ v.kids then some 1
  else if v.mask / 16 = 1 then some 0
  else none

/-- Children beyond the branches: remote children (R245). -/
def Vtx.remote (v : Vtx) : Bool := decide (maskSize v.mask < v.kids)

/-- Every record's up port leads to the record whose branch reaches it, and one record, the root's, has up port 4 (R245). -/
def redUps (vs : List Vtx) (root : Nat) : Bool :=
  vs.all fun v =>
    if v.cell = root then v.up == 4
    else match neighbor v.cell v.up with
      | some d => match recAt vs d with
        | some w => w.mask.testBit (oppPort v.up) && decide (v.up < 4)
        | none => false
      | none => false

/-- Does the tree entry j of a cell hold slots, and which (R244)? -/
def Regs.slotsOf (r : Regs) (j : Nat) : Option (Nat × Nat) :=
  if r.flag (NI_RED_TREE_A_valid.at j) && r.get (NI_RED_TREE_A_role.at j) != 0 then
    some (r.get (NI_RED_TREE_A_slot_base.at j), r.get (NI_RED_TREE_A_slot_cnt_m1.at j) + 1)
  else none

/-- The lowest run of n consecutive free combine slots (R245; which run, the spec leaves open). -/
def Regs.freeSlots (r : Regs) (n : Nat) : Option Nat :=
  let used := (List.range 16).filterMap r.slotsOf
  (List.range (65 - n)).find? fun b => decide (n ≤ 64) && used.all fun u => decide (b + n ≤ u.1) || decide (u.1 + u.2 ≤ b)

/-- The lowest free tree entry of an NI. -/
def Regs.freeTree (r : Regs) : Option Nat := (List.range 16).find? fun j => !r.flag (NI_RED_TREE_A_valid.at j)

/-- The rules of R245 by table row, numbered from 1, beyond Shape (row 1) and the free slots and entries of Resources; 0 when all
hold. -/
def State.redRow (s : State) (t : TreeRec) (vs : List Vtx) (q : RedSetup) : Nat :=
  let owner := (s.cell t.root).owner
  if !(vs.all fun v => decide (1 ≤ v.kids) && decide (maskSize v.mask ≤ v.kids) && decide (v.kids ≤ 5) &&
      (!v.remote || (match v.role t.root q.forward with
        | some 0 => false
        | some _ => true
        | none => false))) then 2
  else if !(vs.all fun v => decide (v.mask % 16 ≠ 0) || decide (v.mask / 16 = 1)) then 3
  else if !(vs.all fun v => (v.role t.root q.forward).isNone || (s.cell v.cell).owner == owner) then 4
  else if !(decide (t.op < 4) && decide (t.fmt ≤ 8) && (t.op != 3 || t.fmt == 8)) then 5
  else if 24 < t.prec then 6
  else if t.expected = 0 ∨ 1048576 < t.expected ∨
      (!(vs.any Vtx.remote) && t.expected != (vs.filter fun v => v.mask / 16 == 1).length) then 7
  else if q.r = 0 ∨ 64 < q.r ∨ (t.fmt = 6 ∧ q.r % 2 = 1) then 8
  else if q.forward && decide (2 ^ 27 ≤ q.upEp) then 9
  else 0

/-- Vertices on the longest way down from a cell, the cell itself counted when it is one (R253). -/
def vertsBelow (vs : List Vtx) (fuel c : Nat) : Nat :=
  match fuel with
  | 0 => 0
  | k + 1 =>
    match recAt vs c with
    | none => 0
    | some v => (if 2 ≤ v.kids then 1 else 0) + (v.next.map fun d => vertsBelow vs k d).foldl max 0

/-- h of R253: the vertices between a cell and its farthest contributor. -/
def redHeight (vs : List Vtx) (v : Vtx) : Nat := (v.next.map fun d => vertsBelow vs (vs.length + 1) d).foldl max 0

/-- The up endpoint's cell: the nearest cell toward the root whose role is vertex or root (R244). -/
def upCell (vs : List Vtx) (root fuel c : Nat) : Nat :=
  match fuel with
  | 0 => root
  | k + 1 =>
    match (recAt vs c).bind fun v => neighbor c v.up with
    | none => root
    | some d =>
      match recAt vs d with
      | some w => if d = root ∨ 2 ≤ w.kids then d else upCell vs root k d
      | none => root

/-! ## Writing entries (R216) -/

/-- A cascade entry with its parity bit (R216). -/
def withParity (x : Nat) : BitVec 16 :=
  let y := x % 2 ^ 15
  BitVec.ofNat 16 (y + ((List.range 15).filter fun i => y.testBit i).length % 2 * 2 ^ 15)

/-- Write the cascade entry of a tree at a cell. -/
def State.setCascade (s : State) (c t x : Nat) : State := s.modRt c fun r => { r with casc := aput r.casc t (withParity x) }

/-- The tree entry of a cell of a reduction tree (R244, R267, R268). -/
def State.setRedEntry (s : State) (t : TreeRec) (vs : List Vtx) (q : RedSetup) (v : Vtx) : State :=
  match v.role t.root q.forward, (s.cell v.cell).regs.freeTree with
  | some role, some j =>
    let slots := if role = 0 then 0 else q.r
    let base := if role = 0 then 0 else ((s.cell v.cell).regs.freeSlots q.r).getD 0
    let up := if role = 3 then q.upEp else if role = 2 then 0 else
      endpoint s.chipId.toNat (s.lidOf (upCell vs t.root (vs.length + 1) v.cell))
    let owner := (s.cell t.root).owner.toNat
    let s := s.modCellRegs v.cell fun r =>
      let r := r.set (NI_RED_TREE_A_role.at j) role
      let r := r.set (NI_RED_TREE_A_op.at j) t.op
      let r := r.set (NI_RED_TREE_A_format.at j) t.fmt
      let r := r.set (NI_RED_TREE_A_tree.at j) t.tree
      let r := r.set (NI_RED_TREE_A_slot_base.at j) base
      let r := r.set (NI_RED_TREE_A_slot_cnt_m1.at j) (q.r - 1)
      let r := r.set (NI_RED_TREE_A_children.at j) (if role = 0 then 0 else v.kids)
      let r := r.set (NI_RED_TREE_A_prec.at j) t.prec
      let r := r.set (NI_RED_TREE_A_shadow_k.at j) t.k
      let r := r.set (NI_RED_TREE_A_parterre.at j) owner
      let r := r.set (NI_RED_TREE_A_local.at j) (if role = 0 then 0 else v.mask / 16)
      let r := r.set (NI_RED_TREE_B_up_ep.at j) up
      let r := r.set (NI_RED_TREE_B_up_tree.at j) (if role = 3 then q.upTree else t.tree)
      let r := r.set (NI_RED_TREE_B_expected.at j) (if 2 ≤ role then t.expected else 0)
      let r := r.set (NI_RED_TREE_C_tag.at j) t.tag
      let r := r.set (NI_RED_TREE_C_timeout_us.at j) (q.base * (1 + redHeight vs v))
      let r := r.set (NI_RED_TREE_C_hold_us.at j) q.hold
      let r := (List.range 4).foldl (fun r d =>
        let e := if role = 2 then q.dlv.getD d 0 else 0
        (r.set (NI_RED_DLV_valid.at (4 * j + d)) (e / 2 ^ 31)).set (NI_RED_DLV_endpoint.at (4 * j + d)) e) r
      let r := r.set (NI_RED_TREE_A_valid.at j) 1
      (r.set NI_BAL_COMB_free (r.get NI_BAL_COMB_free - slots)).set NI_BAL_COMB_reserved_slots (r.get NI_BAL_COMB_reserved_slots + slots)
    s.modNi v.cell fun x => { x with ranges := x.ranges.filter fun e => e.1 / 1024 != j }
  | _, _ => s

/-- Install a tree that satisfies its rules; what stood recorded under its ID, whose entries are gone, is dropped. -/
def State.putTree (s : State) (t : TreeRec) (vs : List Vtx) (q : RedSetup) : State :=
  let s := s.forEach vs fun s v => s.setCascade v.cell t.tree (v.mask + (if t.kind = 1 then v.up * 2 ^ 5 else 0) + 2 ^ 8 + t.kind * 2 ^ 9)
  let s := if t.kind = 1 then s.forEach vs fun s v => s.setRedEntry t vs q v else s
  s.modChip fun h => { h with trees := (h.trees.filter fun x => x.id != t.tree) ++ [⟨t.tree, t.kind == 1, t.root, vs⟩] }

/-- Does the slot storage or the table of some cell of a reduction tree lack room (R245)? The code of NO_RESOURCE, 0 for none (R432). -/
def State.redRoom (s : State) (t : TreeRec) (vs : List Vtx) (q : RedSetup) : Nat :=
  let lacks (v : Vtx) : Bool := match v.role t.root q.forward with
    | some 0 => false
    | some _ => ((s.cell v.cell).regs.freeSlots q.r).isNone
    | none => false
  if vs.any lacks then 2
  else if vs.any fun v => (v.role t.root q.forward).isSome && (s.cell v.cell).regs.freeTree.isNone then 3
  else 0

/-- Install a tree, or what stands against it: status and detail (R217, R245, R432, R433). -/
def State.installTree (s : State) (t : TreeRec) (vs : List Vtx) (q : RedSetup) : State × Option (Nat × Nat) :=
  if s.chip.retiring.any fun r => r.tree == t.tree then (s, some (sINUSE, t.tree))
  else if s.treeUsed t.tree then (s, some (sCONFLICT, 6))
  else
    let row := s.treeRow t vs
    if row ≠ 0 then (s, some (sCONFLICT, row))
    else if t.kind = 0 then (s.putTree t vs q, none)
    else if !redUps vs t.root then (s, some (sCONFLICT, 2))
    else
      let row := s.redRow t vs q
      if row ≠ 0 then (s, some (sCONFLICT, 16 + row))
      else
        let room := s.redRoom t vs q
        if room ≠ 0 then (s, some (sNORES, room)) else (s.putTree t vs q, none)

/-! ## TREE_SETUP (R431) -/

/-- The setup bytes of a reduction tree in TREE_SETUP (R431). -/
def Cmd.redSetup (k : Cmd) (off : Nat) : RedSetup :=
  { forward := k.arg 0 1 % 2 == 1, base := k.arg 4 2, hold := k.arg 6 2, r := k.extNum off 1, upEp := k.extNum (off + 4) 4,
    upTree := k.extNum (off + 8) 2, dlv := (List.range 4).map fun d => k.extNum (off + 12 + 4 * d) 4 }

/-- Does a delivering root name at least one delivery endpoint (R245, Resources)? -/
def RedSetup.delivers (q : RedSetup) : Bool := q.forward || q.dlv.any fun e => e / 2 ^ 31 == 1

/-- TREE_SETUP. -/
def execTreeSetup (m : Nat) (s : State) : Res :=
  onUnit (Instr.treeSetup m).wf s (s.mailboxCmd m 0x30 (fun _ => true) (fun _ => none) fun k s =>
    let t := TreeRec.of k.ext
    let vs := vtxList k.ext 32 t.count
    let q := k.redSetup (32 + 8 * t.count)
    let tall := ((vs.map fun v => redHeight vs v).foldl max 0)
    if !t.formOk || k.ext.length != 32 + 8 * t.count + 32 * t.kind then s.badArg k 4
    else if 1 < k.arg 0 1 ∨ (k.arg 0 1 = 1 ∧ t.kind = 0) then s.badArg k 16
    else if t.kind = 1 ∧ (q.base = 0 ∨ 4095 < q.base * (1 + tall)) then s.badArg k 20
    else if t.kind = 1 ∧ (q.hold = 0 ∨ 4095 < q.hold) then s.badArg k 22
    else if 4096 ≤ s.usedTrees.length then s.finish k sNORES 1 []
    else
      match s.installTree t vs q with
      | (_, some (st, d)) => s.finish k st d []
      | (s', none) =>
        if t.kind = 1 && !q.delivers then s.finish k sCONFLICT 25 [] else s'.finish k sOK 0 (leBytes 2 t.tree))

/-! ## TREE_RETIRE (R233, R234) -/

/-- Discard the held ranges of a tree at one cell (R234). -/
def State.discardHeld (s : State) (c t : Nat) : State :=
  s.forEach ((s.ni c).ranges.filter fun e => e.2.st == .held && (s.cell c).regs.get (NI_RED_TREE_A_tree.at (e.1 / 1024)) == t &&
    (s.cell c).regs.flag (NI_RED_TREE_A_valid.at (e.1 / 1024))) fun s e => s.redLose c (e.1 / 1024) (e.1 % 1024)

/-- Steps 1 and 2 of R234 for the retirement that comes first: closing in the root's entry, the tree watched in every cell; the first
tally of after this ncyc opens the watch's first interval. -/
def State.beginRetire (s : State) : State :=
  match s.chip.retiring with
  | [] => s
  | r :: k =>
    let s := match s.chip.trees.find? fun x => x.id == r.tree with
      | some x => if (s.rt x.root).cascade r.tree = 0 then s else s.setCascade x.root r.tree ((s.rt x.root).cascade r.tree ||| 2 ^ 10)
      | none => s
    { s with
      cells := s.cells.mapAll fun x => { x with regs := (x.regs.set CELL_CASC_WATCH_tree r.tree).set CELL_CASC_WATCH_enable 1 }
      chip := { s.chip with retiring := { r with since := s.now } :: k, lastWatch := 0 } }

/-- TREE_RETIRE. -/
def execTreeRetire (m : Nat) (s : State) : Res :=
  onUnit (Instr.treeRetire m).wf s (s.plainCmd m 0x31 fun k s =>
    let t := k.arg 0 2
    if 4096 ≤ t then s.badArg k 16
    else if 1 < k.arg 2 1 then s.badArg k 18
    else if s.chip.retiring.any fun r => r.tree == t then s.finish k sINUSE t []
    else if !s.treeUsed t then s.badArg k 16
    else
      let first := s.chip.retiring.isEmpty
      let s := (s.modChip fun h => { h with retiring := h.retiring ++ [⟨t, m, k.arg 2 1 == 1, false, 0⟩] }).holdMbx k
      if first then s.beginRetire else s)

/-- Is every range of a reduction tree IDLE at a cell (R234)? -/
def State.rangesIdle (s : State) (c t : Nat) : Bool :=
  (s.ni c).ranges.all fun e => e.2.st == .idle || !((s.cell c).regs.get (NI_RED_TREE_A_tree.at (e.1 / 1024)) == t)

/-- Clear valid in the tree entries of a cell and return their slots (R234). -/
def State.dropRedEntry (s : State) (c t : Nat) : State :=
  s.forEach (List.range 16) fun s j =>
    let r := (s.cell c).regs
    if r.flag (NI_RED_TREE_A_valid.at j) && r.get (NI_RED_TREE_A_tree.at j) == t then
      let n := ((r.slotsOf j).map (·.2)).getD 0
      s.modCellRegs c fun r =>
        ((r.set (NI_RED_TREE_A_valid.at j) 0).set NI_BAL_COMB_free (r.get NI_BAL_COMB_free + n)).set NI_BAL_COMB_reserved_slots
          (r.get NI_BAL_COMB_reserved_slots - n)
    else s

/-- Step 4 of R234 for one tree. -/
def State.clearTree (s : State) (x : Tree) : State :=
  let s := s.forEach (x.verts.map (·.1)) fun s c =>
    let s := if (s.rt c).cascade x.id = 0 then s else s.setCascade c x.id (setBits ((s.rt c).cascade x.id) 8 1 0)
    if x.red then s.dropRedEntry c x.id else s
  s.modChip fun h => { h with trees := h.trees.filter fun y => y.id != x.id }

/-- TREE_RETIRE_CLEAR (R234, step 4): a full clean interval has passed and every range of the tree is idle. -/
def execTreeRetireClear (s : State) : Res :=
  onUnit Instr.treeRetireClear.wf s
    (match s.chip.retiring with
    | [] => s
    | r :: rest =>
      let x := (s.chip.trees.find? fun x => x.id == r.tree).getD ⟨r.tree, false, 0, []⟩
      let cells := x.verts.map (·.1)
      let s := if r.discard then s.forEach cells fun s c => s.discardHeld c x.id else s
      if !r.clean || !(cells.all fun c => s.rangesIdle c x.id) then s
      else
        let s := (s.clearTree x).modChip fun h => { h with retiring := rest }
        let s := if rest.isEmpty then { s with cells := s.cells.mapAll fun x => { x with regs := x.regs.set CELL_CASC_WATCH_enable 0 } }
          else s.beginRetire
        s.finishHeld r.mbx sOK 0 [])

/-! ## Landings and held ranges (R241, R269, R272) -/

/-- MC_LAND_SET: a landing is changed only while valid is clear (R241); one made valid starts from a cleared count. -/
def execMcLandSet (m : Nat) (s : State) : Res :=
  onUnit (Instr.mcLandSet m).wf s (s.plainCmd m 0x32 fun k s =>
    let c := k.arg 0 2
    let i := k.arg 2 1
    let f := k.arg 3 1
    if !cellOk c then s.badArg k 16
    else if 16 ≤ i then s.finish k sNORES 4 []
    else if 16 ≤ f then s.badArg k 19
    else if 4096 ≤ k.arg 4 2 then s.badArg k 20
    else if 4096 ≤ k.arg 6 2 then s.badArg k 22
    else if s.cellFlag c (NI_MC_LAND_valid.at i) && f % 2 == 1 then s.finish k sINUSE i []
    else
      (s.zCell c fun s =>
      let s := s.modCellRegs c fun r =>
        let r := r.set (NI_MC_LAND_valid.at i) f
        let r := r.set (NI_MC_LAND_sched_valid.at i) (f / 2)
        let r := r.set (NI_MC_LAND_dyn_valid.at i) (f / 4)
        let r := r.set (NI_MC_LAND_notify.at i) (f / 8)
        let r := r.set (NI_MC_LAND_sched_tree.at i) (k.arg 4 2)
        let r := r.set (NI_MC_LAND_dyn_tree.at i) (k.arg 6 2)
        let r := r.set (NI_MC_LAND_base.at i) (k.arg 8 3)
        r.set (NI_MC_LAND_parterre.at i) (k.arg 11 1)
      if f % 2 = 1 then s.modNi c fun x => { x with mcLands := adel x.mcLands i } else s).ok k)

/-- RED_LAND_SET, in the same way (R269). -/
def execRedLandSet (m : Nat) (s : State) : Res :=
  onUnit (Instr.redLandSet m).wf s (s.plainCmd m 0x33 fun k s =>
    let c := k.arg 0 2
    let i := k.arg 2 1
    let f := k.arg 3 1
    if !cellOk c then s.badArg k 16
    else if 8 ≤ i then s.finish k sNORES 4 []
    else if 4 ≤ f then s.badArg k 19
    else if 4096 ≤ k.arg 4 2 then s.badArg k 20
    else if s.cellFlag c (NI_RED_LAND_valid.at i) && f % 2 == 1 then s.finish k sINUSE i []
    else
      (s.zCell c fun s =>
      let s := s.modCellRegs c fun r =>
        let r := r.set (NI_RED_LAND_valid.at i) f
        let r := r.set (NI_RED_LAND_notify.at i) (f / 2)
        let r := r.set (NI_RED_LAND_tree.at i) (k.arg 4 2)
        let r := r.set (NI_RED_LAND_base.at i) (k.arg 8 3)
        r.set (NI_RED_LAND_parterre.at i) (k.arg 11 1)
      if f % 2 = 1 then s.modNi c fun x => { x with redLands := adel x.redLands i } else s).ok k)

/-- RED_HOLD on the oldest range held at a cell (R272); a cell that holds none is an illegal argument. -/
def State.redHold (s : State) (k : Cmd) (f : State → Nat → Nat → Nat → State) : State :=
  let c := k.arg 0 2
  if !cellOk c then s.badArg k 16
  else match (s.ni c).oldestHeld with
    | none => s.badArg k 16
    | some (key, _) =>
      let j := key / 1024
      let i := key % 1024
      let seq := i * fmtCount ((s.cell c).regs.redFmt j) / 8
      (s.zCell c fun s => f s c j i).finish k sOK 0 (leBytes 2 j ++ leBytes 2 seq)

/-- RED_HOLD_RELEASE: the range is delivered with its failing flags (R251). -/
def execRedHoldRelease (m : Nat) (s : State) : Res :=
  onUnit (Instr.redHoldRelease m).wf s (s.mailboxCmd m 0x34 (fun k => k.arg 2 1 != 1) (fun _ => some 0) fun k s =>
    if 1 < k.arg 2 1 then s.badArg k 18 else s.redHold k fun s c j i => s.redEmit c j i)

/-- RED_HOLD_DISCARD: the range is lost (R251). -/
def execRedHoldDiscard (m : Nat) (s : State) : Res :=
  onUnit (Instr.redHoldDiscard m).wf s (s.mailboxCmd m 0x34 (fun k => k.arg 2 1 == 1) (fun _ => some 0) fun k s =>
    s.redHold k fun s c j i => s.redLose c j i)

end Sys2Proof.Machine
end

