-- ==== Sys2Proof/Machine/Schedules.lean ====
section
/-! DEFINITION. Clepsydra schedules (R102 to R122): the position of an ncyc in the running sequence, the scheduled plane at a router, its
sources and their slips, waking and arming of periods, bank switches, delivery at a link's ingress. -/

namespace Sys2Proof.Machine

/-! ## Position (R103, R104) -/

/-- The period that cycle q of a sequence lies in: its number and the cycle within it. -/
def periodAt (lens : List Nat) (p q : Nat) : Option (Nat × Nat) :=
  match lens with
  | [] => none
  | l :: r => if q < l then some (p, q) else periodAt r (p + 1) (q - l)

/-- Length of a bank's sequence. -/
def Bank.span (b : Bank) : Nat := b.lens.sum

/-- The position of an ncyc in a bank's sequence: period, cycle, and the ncyc the period started in (R104). -/
def Bank.pos (b : Bank) (n : Nat) : Option (Nat × Nat × Nat) :=
  if !b.valid || decide (n < b.t0) || b.span == 0 then none
  else (periodAt b.lens 0 ((n - b.t0) % b.span)).map fun e => (e.1, e.2, n - e.2)

/-- The position of this ncyc in the running sequence. -/
def State.pos (s : State) : Option (Nat × Nat × Nat) := if s.chip.running then s.bank.pos s.now else none

/-- The bank that is not in use; with none in use, the one that activeBank does not name, so bank 1 after reset (R105; log 54). -/
def State.spare (s : State) : Bank := if s.chip.activeBank = 0 then s.chip.banks1 else s.chip.banks0

/-- Change the bank that is not in use. -/
def Chip.setSpare (h : Chip) (b : Bank) : Chip := if h.activeBank = 0 then { h with banks1 := b } else { h with banks0 := b }

/-- The running bank, or the one that a switch under way brings. -/
def State.bankFor (s : State) (new : Bool) : Bank := if new then s.spare else s.bank

/-- The period that follows one (of the new bank or not; number; starting ncyc): the switch comes at the boundary it names, a stop ends the
sequence at its own (R104, R105). -/
def State.follows (s : State) (e : Bool × Nat × Nat) : Option (Bool × Nat × Nat) :=
  let b := s.bankFor e.1
  let n := e.2.2 + b.lens.getD e.2.1 0
  if !e.1 && s.chip.switchAt == some n then some (true, 0, n)
  else if s.chip.stopAt.any fun t => decide (t ≤ n) && !(e.1 && s.chip.switchAt.any fun w => decide (t ≤ w)) then none
  else some (e.1, (e.2.1 + 1) % b.lens.length, n)

/-- The next period to start (R104, R105). -/
def State.nextPeriod (s : State) : Option (Bool × Nat × Nat) :=
  if s.chip.running then
    match s.pos with
    | none => if s.now < s.bank.t0 then some (false, 0, s.bank.t0) else none
    | some (p, _, st) => s.follows (false, p, st)
  else match s.chip.switchAt with
    | some t => if s.now < t then some (true, 0, t) else none
    | none => none

/-- Periods from one on that start within a lead of this ncyc. -/
def State.aheadFrom (s : State) (lead fuel : Nat) (e : Option (Bool × Nat × Nat)) : List (Bool × Nat × Nat) :=
  match fuel, e with
  | k + 1, some e => if e.2.2 ≤ s.now + lead then e :: s.aheadFrom lead k (s.follows e) else []
  | _, _ => []

/-- The periods that start within a lead of this ncyc: a lead of 16 bits reaches over 64 of the shortest (R103, R125). -/
def State.ahead (s : State) (lead : Nat) : List (Bool × Nat × Nat) := s.aheadFrom lead 66 s.nextPeriod

/-! ## Rows (R106, R108) -/

/-- First cycle of a slot entry. -/
def SchedRow.start (r : SchedRow) : Nat := bits r.entry.toNat 0 24
/-- Run length of a slot entry. -/
def SchedRow.run (r : SchedRow) : Nat := bits r.entry.toNat 24 16 + 1
/-- Input of a slot entry. -/
def SchedRow.inPort (r : SchedRow) : Nat := bits r.entry.toNat 40 3
/-- Output mask of a slot entry. -/
def SchedRow.mask (r : SchedRow) : Nat := bits r.entry.toNat 43 5
/-- Stream of a slot entry. -/
def SchedRow.stream (r : SchedRow) : Nat := bits r.entry.toNat 48 6
/-- Does a row's interval cover a cycle? -/
def SchedRow.covers (r : SchedRow) (c : Nat) : Bool := decide (r.start ≤ c) && decide (c < r.start + r.run)

/-- The rows of a bank at a cell in a period. -/
def Bank.rowsOf (b : Bank) (c p : Nat) : List SchedRow := b.rows.filter fun r => r.cell == c && r.period == p

/-- Does a router run a period, by its starting ncyc (R118)? -/
def Router.runs (r : Router) (start : Nat) : Bool := r.armed.contains start

/-- The rows active at a router in this ncyc (R108, R118). -/
def State.activeRows (s : State) (c : Nat) : List SchedRow :=
  match s.pos with
  | none => []
  | some (p, q, st) => if (s.rt c).runs st then (s.bank.rowsOf c p).filter fun r => r.covers q else []

/-- Slots of a list of rows from a cycle onward. -/
def slotsFrom (rows : List SchedRow) (q : Nat) : Nat := (rows.map fun r => r.start + r.run - max r.start q).sum

/-! ## The scheduled plane at a router (R110, R112) -/

/-- May a copy go out on an output? A closed sluice, a neighbour's block that is not in Run, and a link port out of scheduled service
block it (R110); a sluice in TEST lets MNT alone pass (R306). -/
def State.schedOpen (s : State) (c o : Nat) (pk : Packet) : Bool :=
  match neighbor c o with
  | some d =>
    (match aget (s.rt c).sluices o with
      | some x => x.test && pk.type == tMNT
      | none => true) && (s.block (blockOf d)).power == .run
  | none =>
    match edgeOf c o with
    | some (.link n _) => (s.link n).sched && s.linkActive n
    | some (.gateway g _) => s.chip.integ.mgwPresent.getLsbD g && !(s.gw g).hold
    | _ => false

/-- Send a copy on one output of an active row. A copy not sent to a link port counts in LNK_SCHED.late_drop, taken as the port's scheduled drop
count (R110; log 55). -/
def State.schedOut (s : State) (c o : Nat) (pk : Packet) : State :=
  if o = 4 then (s.spray c .sched 4 false pk (s.rxTag c pk)).handOver c .sched pk
  else if s.schedOpen c o pk then (s.spray c .sched (pointPort c o) false pk (transitTag pk)).drive c .sched o pk
  else
    let s := s.bump c CELL_SCHED_CNT_blocked
    match edgeOf c o with
    | some (.link n _) => s.modLinkRegs n fun r => r.bump LNK_SCHED_late_drop
    | _ => s

/-- A packet in the switch stage of the scheduled plane meets the active rows (R110). An MNT goes no further than this router: to the NI's
checker, or dropped where the EJECT list has an active row (R112). -/
def State.schedArrive (s : State) (c : Nat) (rows : List SchedRow) (x : InFlight) : State :=
  let s := s.spray c .sched (pointPort c x.port) true x.pkt (transitTag x.pkt)
  if x.pkt.type = tMNT then (if rows.any fun r => r.mask.testBit 4 then s else s.handOver c .sched x.pkt)
  else match rows.filter fun r => r.inPort == x.port with
    | [] => s.bump c (if rows.isEmpty then CELL_SCHED_CNT_outside_slot else CELL_SCHED_CNT_wrong_input)
    | named => s.forEach named fun s r => s.forEach ((List.range 5).filter fun o => r.mask.testBit o) fun s o => s.schedOut c o x.pkt

/-- The decode stage of one arrival, es giving what its words show (R34, R102, R306): whether the packet goes on. The NI's own packets cross
no link. -/
def State.schedDecode (s : State) (c : Nat) (x : InFlight) (es : List Ecc) : State × Bool :=
  if x.port = 4 then (s, true)
  else
    let s := s.corrected c .sched x.port es
    let shut := s.closedTo c x.port x.pkt
    let s := s.when_ shut fun s => s.bump c CELL_ERR_CNT_sluice_drop
    if (es.take 8).contains .double then (((s.bump c CELL_ERR_CNT_uncorr).portFault c x.port).linkError c x.port 0 1, false)
    else (s, !shut)

/-- Key of the scheduled plane's switch stage in Ni.did. -/
def dSched : Nat := 10

/-- SCHED_ROUTER_ARRIVAL: the scheduled plane of one router in one ncyc; es gives what the decode finds at inputs 0 to 3, tab whether a row
read fails its parity (R296). -/
def execSchedRouterArrival (c : Nat) (es : List (List Ecc)) (tab : Bool) (s : State) : Res :=
  onUnit (Instr.schedRouterArrival c es tab).wf s
    (if (s.ni c).didNow dSched s.ncyc || (s.block (blockOf c)).power != .run then s
    else
      let here (x : InFlight) : Bool := decide (x.due + 1 ≤ s.ncyc)
      let xs := (s.rt c).sched.filter here
      let s := (s.modNi c fun x => x.note dSched s.ncyc).modRt c fun r => { r with sched := r.sched.filter fun x => !here x }
      let s := if xs.isEmpty then s else s.abortHold (blockOf c)
      let a := xs.foldl (fun (a : State × List InFlight) x =>
        let q := a.1.schedDecode c x (es.getD x.port [])
        (q.1, if q.2 then a.2 ++ [x] else a.2)) (s, [])
      let rows := a.1.activeRows c
      let s := a.1.when_ (tab && !rows.isEmpty) fun s => s.tableError c 2
      let s := s.forEach a.2 fun s x => s.schedArrive c rows x
      let empty := rows.filter fun r => !(a.2.any fun x => x.port == r.inPort)
      s.modCellRegs c fun r => r.add CELL_SCHED_CNT_empty_slot (empty.map fun r => maskSize r.mask).sum)

/-! ## Slips (R113 to R115) -/

/-- The stream record of an NI stream in a period of a bank (R122). -/
def Bank.niStream (b : Bank) (c st p : Nat) : Option StreamRec :=
  b.streams.find? fun r => !r.gateway && r.cell == c && r.stream == st && r.period == p

/-- Count and report a slip at an NI (R114, R129, R435); the packets count as they are moved or discarded (log 52). -/
def State.noteSlip (s : State) (c st pkts : Nat) (tag : W32) : State :=
  let s := s.modCellRegs c fun r =>
    ((r.bump NI_SCHED_STAT_slip_events).set NI_SCHED_STAT_last_stream st).set NI_SCHED_STAT_last_tag tag.toNat
  if s.cellFlag c NI_SCHED_CTL_slip_event then
    s.post 0x03 c (BitVec.ofNat 64 (st + pkts % 2 ^ 16 * 2 ^ 16 + tag.toNat * 2 ^ 32)) 0
  else s

/-- A stream of an NI slips in period p, which started in ncyc `start`, with `slots` of its slots left: the descriptor in progress and the
rest of the transfer go to the request plane, beside what it still owes of an earlier one (R114). -/
def State.slipNi (s : State) (c st p start slots : Nat) : State :=
  let x := s.ni c
  let record := s.bank.niStream c st p
  let d := x.descs.find? fun d => d.ring == 4 + st && !x.descIn d
  let left := (d.map fun d => if d.slipped then 0 else d.n - d.injected).getD 0
  let tag := match d with
    | some d => d.tag
    | none => (record.map (·.tag)).getD 0
  let old := (aget x.slips st).map fun e => if e.drop then 0 else e.owed
  let s := s.modNi c fun x =>
    let y := match d with
      | some d => x.modDesc d.id fun d => { d with slipped := true }
      | none => x
    { y with slips := aput y.slips st ⟨start, old.getD 0 + (slots - left), record.bind (·.dynTree), false⟩ }
  s.noteSlip c st (max slots left) tag

/-- A stream of a gateway slips, in the same way (R114). -/
def State.slipGw (s : State) (g st p start slots : Nat) : State :=
  s.modStream g st fun x =>
    let left := if 0 < x.sent && x.scheduled then x.total - x.sent else 0
    let old := (x.slip.map (·.owed)).getD 0
    { x with slip := some ⟨start, max (old + slots) left, (s.bank.streamRec g st p).bind (·.dynTree), false⟩ }

/-! ## Sources (R31, R113) -/

/-- ncyc from the switch stage at a cell to that of its neighbour across a port (R66). -/
def State.linkTime (s : State) (c p : Nat) : Nat := 3 + s.linkExtra c p

/-- The link ports that the rows of a period carry a packet to, which stands on an input of a cell in a cycle: the rows are followed as
Continuity has them stand (R107, R109). -/
def State.routeLinks (s : State) (p fuel c port q : Nat) : List Nat :=
  match fuel with
  | 0 => []
  | k + 1 =>
    ((s.bank.rowsOf c p).filter fun r => r.inPort == port && r.covers q).flatMap fun r =>
      (maskPorts r.mask).flatMap fun o =>
        match neighbor c o with
        | some d => s.routeLinks p k d (oppPort o) (q + s.linkTime c o)
        | none =>
          match edgeOf c o with
          | some (.link n _) => [n]
          | _ => []

/-- Do the rows take a packet that a source sends in this ncyc to a link port out of scheduled service (R31)? -/
def State.routeOut (s : State) (c port : Nat) : Bool :=
  match s.pos with
  | some (p, q, _) => (s.routeLinks p 192 c port q).any fun n => !(s.link n).sched
  | none => false

/-- Can a source's packet stand in the switch stage of this ncyc: its input is free, the stage has not passed, and its route stands (R26,
R31)? -/
def State.slotOpen (s : State) (c port : Nat) : Bool :=
  s.inputFree c .sched port (s.ncyc - 1) && !(s.ni c).didNow dSched s.ncyc && !s.routeOut c port

/-- The descriptor that supplies the next packet of an NI stream, where it is ready for its slot in this ncyc: not slipped, posted lead
ncyc before (R113). -/
def State.slotDesc (s : State) (c st : Nat) : Option Desc :=
  match (s.ni c).sending (4 + st) with
  | some d => if !d.slipped && decide (d.posted + s.cget c NI_SCHED_CTL_lead ≤ s.ncyc) && s.slotOpen c 4 then some d else none
  | none => none

/-- Put a source's packet into the switch stage of this ncyc: class 0, epoch 0, age 0 (R67, R102). -/
def State.schedEnter (s : State) (c p : Nat) (pk : Packet) : State :=
  s.modRt c fun r => r.arrive .sched ⟨p, s.ncyc - 1, { pk with epoch := 0, age := 0 }⟩

/-- Inject the next packet of a stream's descriptor in its slot; a descriptor longer than the slots left slips after the last (R114). -/
def State.slotInject (s : State) (c st p start left : Nat) (d : Desc) : State :=
  let pk := ({ s.descPacket c d d.injected with cls := 0 } : Packet).seal
  let s := (((s.tagTx c d.tag).headSent c ⟨pk, s.ncyc, .desc d.id, 0⟩).schedEnter c 4 pk)
  if left = 0 && decide (d.injected + 1 < d.n) then s.slipNi c st p start 0 else s

/-- The slot of an NI's stream. -/
def State.niSlot (s : State) (c st : Nat) : State :=
  match s.pos, (s.activeRows c).any fun r => r.inPort == 4 && r.stream == st with
  | some (p, q, start), true =>
    let rows := (s.bank.rowsOf c p).filter fun r => r.inPort == 4 && r.stream == st
    let k := 300 + st
    if (s.ni c).didNow k s.ncyc || ((aget (s.ni c).slips st).any fun e => e.start == start) || (s.ni c).hold != .none then s
    else
      let s := s.modNi c fun x => x.note k s.ncyc
      match s.slotDesc c st with
      | some d => s.slotInject c st p start (slotsFrom rows (q + 1)) d
      | none => s.slipNi c st p start (slotsFrom rows q)
  | _, _ => s

/-- Has the granule a gateway stream injects next been back for 8 ncyc (R113)? -/
def State.slotGranule (s : State) (g st : Nat) : Bool :=
  let x := (s.gw g).stream st
  x.scheduled && match aget x.fetched x.sent with
  | some (t, _, _) => decide (t + 8 ≤ s.ncyc)
  | none => false

/-- Does a stream leave its slot in this period idle for a refused descriptor (R186)? -/
def StreamRt.idles (x : StreamRt) (start : Nat) : Bool := x.idle.any fun e => decide (0 < e.1) && e.2.getD start == start

/-- One slot has passed idle for a refused descriptor; what is left of them falls away with the period (log 53). -/
def StreamRt.passIdle (x : StreamRt) (start : Nat) : StreamRt :=
  { x with idle := x.idle.bind fun e => if e.1 ≤ 1 then none else some (e.1 - 1, some start) }

/-- The slot of a gateway's stream at a cell whose edge port p it attaches to: within the gateway's rate (R185). -/
def State.gwSlot (s : State) (c st p g : Nat) : State :=
  match s.pos, (s.activeRows c).any fun r => r.inPort == p && r.stream == st with
  | some (per, q, start), true =>
    let rows := (s.bank.rowsOf c per).filter fun r => r.inPort == p && r.stream == st
    let k := 1000 + st
    let x := (s.gw g).stream st
    if aget (s.gw g).did k == some (s.ncyc + 1) || (s.gw g).hold || x.slip.any fun e => e.start == start then s
    else
      let s := s.modGw g fun y => { y with did := aput y.did k (s.ncyc + 1) }
      if x.idles start then s.modStream g st fun x => x.passIdle start
      else
        let s := s.modStream g st fun x => { x with idle := none }
        let tree := (x.cur.map fun ws => dword ws 0 40 12).getD 0
        let ready := s.slotGranule g st && !x.owed && s.slotOpen c p && decide ((s.gw g).moved s.ncyc < gwRate)
        match if ready then s.streamPacket g st c tree 0 else none with
        | none => s.slipGw g st per start (slotsFrom rows q)
        | some pk =>
          let s := (((s.modGw g fun y => y.move s.ncyc).schedEnter c p pk).streamSent g st)
          if slotsFrom rows (q + 1) = 0 && decide (x.sent + 1 < x.total) then s.slipGw g st per start 0 else s
  | _, _ => s

/-- SCHED_SLOT_SOURCE. -/
def execSchedSlotSource (c : Nat) (gw : Bool) (st : Nat) (s : State) : Res :=
  onUnit (Instr.schedSlotSource c gw st).wf s
    (if s.stopped c then s
    else if gw then
      s.forEach (List.range 4) fun s p =>
        match edgeOf c p with
        | some (.gateway g _) => s.gwSlot c st p g
        | _ => s
    else s.niSlot c st)

/-! ## Waking and arming (R117, R118) -/

/-- Is a block in the wake map of a period (R117)? -/
def Bank.wakes? (b : Bank) (p blk : Nat) : Bool := (b.wakes.getD p 0).testBit (blockIdx blk)

/-- Does the period that runs in this ncyc keep a block from Doze, Sleep and Off (R117)? -/
def State.heldAwake (s : State) (b : Nat) : Bool :=
  match s.pos with
  | some (p, _, _) => s.bank.wakes? p b
  | none => false

/-- PERIOD_WAKE: a region manager wakes its blocks in the wake map of every period that starts within wake_lead. -/
def execPeriodWake (r : Nat) (s : State) : Res :=
  onUnit (Instr.periodWake r).wf s
    (let near := s.ahead (s.chget CHP_SCHED_CTL_wake_lead)
    let mine := (regionBlocks r).filter fun k => near.any fun e => (s.bankFor e.1).wakes? e.2.1 k
    let s := s.forEach (mine.filter fun k => (s.block k).power == .doze) fun s k => s.wakeBlock k
    if mine.any fun k => (s.block k).power == .sleep then s.modRegion r fun x => { x with waking := true } else s)

/-- Is a region ready for a period (R118)? -/
def State.regionReady (s : State) (b : Bank) (p r : Nat) : Bool :=
  s.chip.locked && b.valid && decide (p < b.lens.length) &&
  ((regionBlocks r).filter fun k => b.wakes? p k).all (fun k => (s.block k).power == .run) &&
  (b.rows.filter fun x => x.period == p && regionOf x.cell == r).all fun x => (maskPorts x.mask).all fun o => !s.sluiced x.cell o

/-- The period that is being armed, else the next one within arm_lead whose arming has not been decided (R118). -/
def State.armTarget (s : State) : Option Nat :=
  match s.chip.arming with
  | some st => some st
  | none => ((s.ahead (s.chget CHP_SCHED_CTL_arm_lead)).find? fun e => decide (s.chip.armDone < e.2.2)).map (·.2.2)

/-- A region's report on the period that starts in an ncyc; one that has started by then is not ready (R118). -/
def State.armReport (s : State) (st r : Nat) : W64 :=
  match (s.ahead (s.chget CHP_SCHED_CTL_arm_lead)).find? fun e => e.2.2 == st with
  | some e => if s.regionReady (s.bankFor e.1) e.2.1 r then 1 else 0
  | none => 0

/-- PERIOD_ARM_REPORT: a region's report goes into the barrier of context 0, at the routers of the region that run; at the root it starts the
context's timer (R281). -/
def execPeriodArmReport (r : Nat) (s : State) : Res :=
  onUnit (Instr.periodArmReport r).wf s
    (match s.armTarget with
    | none => s
    | some st =>
      let flip := (s.chip.flip.map fun f => decide (f.step ≤ 3)).getD false
      let mine := (regionCells r).filter fun c => !s.stopped c
      if flip || !s.ctxValid 0 || !s.zRuns || mine.any (fun c => ((s.rt c).ctxRt 0).localDone) then s
      else
        let v := s.armReport st r
        let s := (s.forEach mine fun s c => s.modRt c fun x => x.modCtx 0 fun k => { k.add 0 v with localDone := true }).modChip fun h =>
          { h with arming := some st }
        if mine.contains s.cornerRoot then s.noteArrival s.cornerRoot 0 else s)

/-- RELEASE_ARM: a release marked ready that comes before the period starts arms it at the router; the periods armed earlier are kept
while they run. -/
def execReleaseArm (c : Nat) (s : State) : Res :=
  onUnit (Instr.releaseArm c).wf s
    (match s.localFlit c fun y => y.ofCtx kRELEASE 0 && y.action == 2 with
    | none => s
    | some g =>
      let s := s.passRelease c 0 g
      let s := match s.chip.arming with
        | some st =>
          if g.flit.payload.getLsbD 0 && decide (s.now < st) then s.modRt c fun r => { r with armed := (st :: r.armed).take 66 } else s
        | none => s
      if s.ctx0Idle then s.modChip fun h => { h with arming := none, armDone := h.arming.getD h.armDone } else s)

/-- A period starts in this ncyc: in every router that has not armed it, it is skipped, the NI's streams in it slip, and the period
counts once (R118). A gateway's streams slip with the cell they enter at. -/
def State.periodStart (s : State) : State :=
  match s.pos with
  | some (p, 0, st) =>
    let late := (s.bank.rows.filter fun r => r.period == p && !(s.rt r.cell).runs st)
    let out := s.running.any fun c => !(s.rt c).runs st
    let s := if out then s.modChipRegs fun r => r.bump CHP_SCHED_STAT_skipped else s
    let ni := ((late.filter fun r => r.inPort == 4).map fun r => (r.cell, r.stream)).eraseDups
    let s := s.forEach ni fun s e =>
      s.slipNi e.1 e.2 p st (slotsFrom ((s.bank.rowsOf e.1 p).filter fun r => r.inPort == 4 && r.stream == e.2) 0)
    let gw := (late.filterMap fun r =>
      match edgeOf r.cell r.inPort with
      | some (.gateway g _) => some (r.cell, r.inPort, g, r.stream)
      | _ => none).eraseDups
    s.forEach gw fun s e =>
      s.slipGw e.2.2.1 e.2.2.2 p st (slotsFrom ((s.bank.rowsOf e.1 p).filter fun r => r.inPort == e.2.1 && r.stream == e.2.2.2) 0)
  | _ => s

/-! ## Crossing a chip boundary (R119) -/

/-- SCHED_INGRESS_DELIVER: the packets of an ingress port whose switch stage falls in this ncyc; one whose ncyc has passed is dropped and
counted. -/
def execSchedIngressDeliver (n : Nat) (s : State) : Res :=
  onUnit (Instr.schedIngressDeliver n).wf s
    (let l := s.link n
    let late := l.ingSched.filter fun x => decide (x.at_ < s.now)
    let due := l.ingSched.filter fun x => x.at_ == s.now
    let s := (s.modLink n fun l => { l with ingSched := l.ingSched.filter fun x => decide (s.now < x.at_) }).modLinkRegs n fun r =>
      r.add LNK_SCHED_late_drop late.length
    s.forEach due fun s x => s.modRt (linkCell n x.half).1 fun r => r.arrive .sched ⟨(linkCell n x.half).2, s.ncyc - 1, x.pkt⟩)

/-! ## Scheduled service (R120) -/

/-- A port leaves scheduled service until the next bank install. -/
def Link.outOfSched (l : Link) : Link := { l with sched := false, schedNext := l.schedNext.map fun e => (false, e.2) }

/-- What the bank installed last gives a port takes effect: scheduled service, and the latency its record names where it is fit. -/
def Link.enterSched (l : Link) : Link :=
  match l.schedNext with
  | none => l
  | some (fit, d) =>
    { l with sched := fit, schedNext := none, regs := if fit then (d.map fun n => l.regs.set LNK_SCHED_sched_lat n).getD l.regs else l.regs }

/-! ## SCHED_SWITCH, SCHED_STOP (R105) -/

/-- Is an ncyc a boundary of the running sequence that is still to come (R105)? -/
def State.boundary (s : State) (t : Nat) : Bool :=
  decide (s.now < t) && decide (s.bank.t0 < t) && s.bank.span != 0 && (t - s.bank.t0) % s.bank.span == 0

/-- SCHED_SWITCH: the switch time is accepted, and becomes the new bank's T0. -/
def execSchedSwitch (m : Nat) (s : State) : Res :=
  onUnit (Instr.schedSwitch m).wf s (s.plainCmd m 0x43 fun k s =>
    let t := k.arg 0 8
    if !s.chip.installed then s.finish k sNOTREADY 0x100 []
    else if (if s.chip.running then s.boundary t else decide (s.now + 1000000 ≤ t)) then
      (s.modChip fun h => { h.setSpare { s.spare with t0 := t } with switchAt := some t }).ok k
    else s.badArg k 16)

/-- SCHED_STOP. -/
def execSchedStop (m : Nat) (s : State) : Res :=
  onUnit (Instr.schedStop m).wf s (s.plainCmd m 0x44 fun k s =>
    let t := k.arg 0 8
    if !s.chip.running then s.finish k sNOTREADY 0x100 []
    else if s.boundary t then (s.modChip fun h => { h with stopAt := some t }).ok k
    else s.badArg k 16)

/-- BANK_SWITCH: at T_sw every router changes bank, and the ports' service is that of the new one. -/
def execBankSwitch (s : State) : Res :=
  onUnit Instr.bankSwitch.wf s
    (match s.chip.switchAt with
    | some t =>
      if s.now < t then s
      else { s with links := s.links.mapAll Link.enterSched }.modChip fun h => { h with
        activeBank := 1 - h.activeBank
        running := true
        switchAt := none
        installed := false
        treeFile := none
        stopAt := if (h.stopAt.map fun e => decide (e ≤ t)).getD false then none else h.stopAt }
    | none => s)

/-- SEQUENCE_STOP: from the boundary named no bank is active. -/
def execSequenceStop (s : State) : Res :=
  onUnit Instr.sequenceStop.wf s
    (match s.chip.stopAt with
    | some t => if s.now < t then s else s.modChip fun h => { h with running := false, stopAt := none }
    | none => s)

end Sys2Proof.Machine
end

