-- ==== Sys2Proof/Machine/Files.lean ====
section
/-! DEFINITION. The slot-table and tree files of Nolaz (R107, R116, R120 to R124) and the commands that deliver them (R431). -/

namespace Sys2Proof.Machine

/-! ## Slot-table files (R121, R122) -/

/-- Bytes with those of the file CRC taken as zero, and the CRC they carry (R121). -/
def fileCrcOk (b : List Byte) (off : Nat) : Bool :=
  decide (off + 4 ≤ b.length) && crc32 (b.take off ++ [0, 0, 0, 0] ++ b.drop (off + 4)) == num b off 4

/-- Do n records of a size stand inside a file at an offset? -/
def inFile (b : List Byte) (off n size : Nat) : Bool := decide (off + n * size ≤ b.length)

/-- The bank that a slot-table file spells; its T0 is set by SCHED_SWITCH. -/
def bankOf (b : List Byte) : Bank :=
  let n := num b 6 1
  let rows := (List.range (num b 12 4)).map fun i =>
    let o := num b 64 4 + 16 * i
    (⟨num b o 2, num b (o + 2) 1, BitVec.ofNat 64 (num b (o + 4) 8)⟩ : SchedRow)
  let streams := (List.range (num b 16 4)).map fun i =>
    let o := num b 68 4 + 32 * i
    let d := num b (o + 12) 2
    (⟨num b o 2, num b (o + 2) 1 == 1, num b (o + 3) 1, num b (o + 4) 1, num b (o + 5) 1, num b (o + 8) 4,
      if d / 2 ^ 15 = 1 then some (d % 4096) else none, num b (o + 16) 4, BitVec.ofNat 32 (num b (o + 20) 4)⟩ : StreamRec)
  let links := (List.range (num b 20 4)).map fun i =>
    let o := num b 76 4 + 16 * i
    (⟨num b o 1, num b (o + 1) 1, num b (o + 2) 2, num b (o + 4) 2, num b (o + 6) 1 == 1⟩ : LinkRec)
  { valid := true, t0 := 0, lens := (List.range n).map fun i => num b (32 + 4 * i) 4, rows := rows, streams := streams,
    wakes := (List.range n).map fun i => num b (num b 72 4 + 72 * i) 72, links := links, id := BitVec.ofNat 64 (num b 24 8) }

/-! ## The rules of R103, R107 and R116 -/

/-- The edge outputs of a row lead to units the records name, and never to an unused segment (R107, Edge): a link port by an egress record, a
gateway by a stream record of one of its cells. -/
def Bank.edgeOk (b : Bank) (r : SchedRow) (o : Nat) : Bool :=
  match edgeOf r.cell o with
  | none => true
  | some (.link n _) => b.links.any fun l => l.port == n && !l.ingress
  | some (.gateway g _) => b.streams.any fun x => x.gateway && (List.range 8).any fun k => (gatewayCell g k).1 == x.cell
  | some .unused => false

/-- A row by itself: Interval, Mask, Local loop, Edge of R107. -/
def Bank.rowOk (b : Bank) (r : SchedRow) : Bool :=
  cellOk r.cell && decide (r.period < b.lens.length) && decide (r.start + r.run ≤ b.lens.getD r.period 0) &&
  r.mask != 0 && decide (r.inPort ≤ 4) && !r.mask.testBit r.inPort && (maskPorts r.mask).all (b.edgeOk r)

/-- The rows of one output's slot list in one period. -/
def Bank.slotList (b : Bank) (c p o : Nat) : List SchedRow := (b.rowsOf c p).filter fun r => r.mask.testBit o

/-- Do two rows cover a common cycle? -/
def SchedRow.meets (a b : SchedRow) : Bool := decide (a.start < b.start + b.run) && decide (b.start < a.start + a.run)

/-- No two rows of a list cover a common cycle (R107, Overlap). -/
def disjointRows (l : List SchedRow) : Bool :=
  match l with
  | [] => true
  | a :: r => r.all (fun b => !a.meets b) && disjointRows r

/-- One slot list: Overlap and Count of R107, and the free sixteenth of R116 at every output. -/
def Bank.listOk (b : Bank) (c p o : Nat) : Bool :=
  let l := b.slotList c p o
  let len := b.lens.getD p 0
  disjointRows l && decide (l.length ≤ 512) && decide ((l.map SchedRow.run).sum ≤ len - (len + 15) / 16)

/-- Cycles of rows inside a window. -/
def rowsIn (l : List SchedRow) (a n : Nat) : Nat := (l.map fun r => min (r.start + r.run) (a + n) - max r.start a).sum

/-- Packets a link port may be given in 32 ncyc at a width (R116). -/
def linkShare (width : Nat) : Nat := if width = 0 then 32 else if width = 1 then 24 else 12

/-- The limit of R116 on the edge outputs of a link record: the fullest window of 32 ncyc starts where a row starts or ends where one
ends. -/
def Bank.linkOk (b : Bank) (l : LinkRec) : Bool :=
  l.ingress ||
  (List.range b.lens.length).all fun p =>
    let rows := (List.range 2).flatMap fun h => b.slotList (linkCell l.port h).1 p (linkCell l.port h).2
    rows.all fun r => decide (rowsIn rows r.start 32 ≤ linkShare l.width) && decide (rowsIn rows (r.start + r.run - 32) 32 ≤ linkShare l.width)

/-- The rules a bank is installed under (R103, R107 without Continuity, the first three limits of R116; the third holds of any rows that do
not overlap, since a gateway has 8 cells). -/
def Bank.ok (b : Bank) : Bool :=
  decide (1 ≤ b.lens.length) && decide (b.lens.length ≤ 8) && b.lens.all (fun l => decide (1024 ≤ l) && decide (l ≤ 2 ^ 24)) &&
  b.rows.all b.rowOk &&
  ((b.rows.map fun r => (r.cell, r.period)).eraseDups.all fun e => (List.range 5).all fun o => b.listOk e.1 e.2 o) &&
  b.links.all fun l => decide (l.port < 48) && decide (l.width ≤ 2) && decide (1 ≤ l.lat) && decide (l.lat ≤ 1023) && b.linkOk l

/-- What stands against a slot-table file, as the codes of FILE_REJECT (R124, R432); 0 for nothing. `other` is the schedule_id of the tree
file installed with it. A period_count or link_count out of its range is taken as a count (code 4; log 57). -/
def slotFileCheck (b : List Byte) (chip : Nat) (other : Option W64) : Nat :=
  if b.length < 128 ∨ !fileCrcOk b 124 then 1
  else if b.take 4 ≠ [0x4E, 0x4C, 0x5A, 0x53] ∨ num b 4 2 ≠ 1 then 2
  else if num b 8 2 ≠ chip then 3
  else if num b 6 1 = 0 ∨ 8 < num b 6 1 ∨ 48 < num b 20 4 ∨ !inFile b (num b 64 4) (num b 12 4) 16 ∨
      !inFile b (num b 68 4) (num b 16 4) 32 ∨ !inFile b (num b 72 4) (num b 6 1) 72 ∨ !inFile b (num b 76 4) (num b 20 4) 16 then 4
  else if !(bankOf b).ok then 5
  else if (other.map fun i => i != BitVec.ofNat 64 (num b 24 8)).getD false then 6
  else 0

/-- Is a port fit for the scheduled service a link record asks for: Active at the record's width, with the measured latency and the guard
inside D (R120)? -/
def State.schedFit (s : State) (l : LinkRec) : Bool :=
  let r := (s.link l.port).regs
  s.linkActive l.port && r.get LNK_STAT_width == l.width && decide ((r.get LNK_LAT_one_way + 7) / 8 + 4 ≤ l.lat)

/-- The service a bank gives a link port: whether every record of it finds the port fit, and the latency of its ingress record; a port it does
not name leaves service (R120). -/
def State.serviceOf (s : State) (b : Bank) (n : Nat) : Bool × Option Nat :=
  let mine := b.links.filter fun l => l.port == n
  (!mine.isEmpty && mine.all s.schedFit, (mine.find? (·.ingress)).map (·.lat))

/-- Install a bank: the spare bank is written; with a switch under way it is what the switch brings (log 56). The service it gives the link
ports takes effect at once where no sequence runs, else at the switch (R105, R120, R431). -/
def State.installBank (s : State) (b : Bank) : State :=
  let s := s.modChip fun h => { h.setSpare { b with t0 := h.switchAt.getD 0 } with installed := true }
  let s := s.forEach (List.range 48) fun s n => s.modLink n fun l => { l with schedNext := some (s.serviceOf b n) }
  if s.chip.running then s else { s with links := s.links.mapAll Link.enterSched }

/-! ## Tree files (R123) -/

/-- The setup of a reduction tree that comes in a file, which names none (log 58): a delivering root, whose one delivery endpoint is the root's
own cell; the least slot count its format allows; the base timeout of 100 µs, or what the tallest cell's product leaves within 12 bits (R253);
a hold of 1,000 µs. -/
def State.fileSetup (s : State) (t : TreeRec) (vs : List Vtx) : RedSetup :=
  let tall := (vs.map fun v => redHeight vs v).foldl max 0
  { forward := false, base := min 100 (4095 / (1 + tall)), hold := 1000, r := if t.fmt = 6 then 2 else 1, upEp := 0, upTree := 0,
    dlv := [2 ^ 31 + endpoint s.chipId.toNat (s.lidOf t.root)] }

/-- Install the trees of a file in order, or what stands against one: status and detail. A record ill-formed by itself, or whose vertices run past
the vertex section, breaks the record rule (log 57); a tree that R217 or R245 refuses gets the answer a setup would (log 59). -/
def State.installTrees (s : State) (b : List Byte) (i n : Nat) : State × Option (Nat × Nat) :=
  match n with
  | 0 => (s, none)
  | k + 1 =>
    let t := TreeRec.of (b.drop (num b 24 4 + 32 * i))
    let vs := vtxList b (num b 28 4 + 8 * t.first) t.count
    if !t.formOk || decide (num b 12 4 < t.first + t.count) || (t.kind == 1 && (s.fileSetup t vs).base == 0) then (s, some (sFILE, 5))
    else match s.installTree t vs (s.fileSetup t vs) with
      | (s', none) => s'.installTrees b (i + 1) k
      | (_, some e) => (s, some e)

/-- What stands against a tree file before its records (R124). -/
def treeFileCheck (b : List Byte) (chip : Nat) (other : Option W64) : Nat :=
  if b.length < 64 ∨ !fileCrcOk b 60 then 1
  else if b.take 4 ≠ [0x4E, 0x4C, 0x5A, 0x54] ∨ num b 4 2 ≠ 1 then 2
  else if num b 8 2 ≠ chip then 3
  else if num b 10 2 = 0 ∨ 4096 < num b 10 2 ∨ !inFile b (num b 24 4) (num b 10 2) 32 ∨ !inFile b (num b 28 4) (num b 12 4) 8 then 4
  else if (other.map fun i => i != BitVec.ofNat 64 (num b 16 8)).getD false then 6
  else 0

/-! ## FILE_OPEN, FILE_DATA, FILE_COMMIT (R431) -/

/-- FILE_OPEN: one file of a kind at a time. -/
def execFileOpen (m : Nat) (s : State) : Res :=
  onUnit (Instr.fileOpen m).wf s (s.plainCmd m 0x40 fun k s =>
    let kind := k.arg 0 1
    if 1 < kind then s.badArg k 16
    else if s.ftn.files.any fun f => f.kind == kind then s.finish k sINUSE kind []
    else (s.modFtn fun x => { x with files := ⟨kind, k.arg 4 4, []⟩ :: x.files }).ok k)

/-- FILE_DATA: the next bytes of the file opened last; no more than its length. -/
def execFileData (m : Nat) (s : State) : Res :=
  onUnit (Instr.fileData m).wf s (s.mailboxCmd m 0x41 (fun _ => true) (fun _ => none) fun k s =>
    match s.ftn.files with
    | [] => s.finish k sNOTREADY 0x100 []
    | f :: rest =>
      let b := f.bytes ++ k.ext
      if f.total < b.length then s.badArg k 4
      else (s.modFtn fun x => { x with files := { f with bytes := b } :: rest }).finish k sOK 0 (leBytes 4 b.length))

/-- The schedule_id that the file of the other kind carries: the open one's, else the one installed and not yet switched to (R124). -/
def State.otherId (s : State) (kind : Nat) : Option W64 :=
  match s.ftn.files.find? fun f => f.kind != kind with
  | some f => if f.bytes.length < 32 then none else some (BitVec.ofNat 64 (num f.bytes (if kind = 0 then 16 else 24) 8))
  | none => if kind = 0 then s.chip.treeFile else if s.chip.installed then some s.spare.id else none

/-- FILE_COMMIT: the file is checked and installed whole, or rejected whole; either way it is closed (R124). -/
def execFileCommit (m : Nat) (s : State) : Res :=
  onUnit (Instr.fileCommit m).wf s (s.plainCmd m 0x42 fun k s =>
    match s.ftn.files with
    | [] => s.finish k sNOTREADY 0x100 []
    | f :: rest =>
      let b := f.bytes
      let other := s.otherId f.kind
      let s := s.modFtn fun x => { x with files := rest }
      let chip := s.chipId.toNat
      if f.kind = 0 then
        let code := slotFileCheck b chip other
        if code ≠ 0 then s.finish k sFILE code []
        else (s.installBank (bankOf b)).finish k sOK 0 (leBytes 4 (num b 12 4 + num b 16 4 + num b 6 1 + num b 20 4))
      else
        let code := treeFileCheck b chip other
        if code = 0 ∨ code = 6 then
          match s.installTrees b 0 (num b 10 2) with
          | (_, some e) => s.finish k e.1 e.2 []
          | (s', none) =>
            if code = 6 then s.finish k sFILE 6 []
            else (s'.modChip fun h => { h with treeFile := some (BitVec.ofNat 64 (num b 16 8)) }).finish k sOK 0
              (leBytes 4 (num b 10 2 + num b 12 4))
        else s.finish k sFILE code [])

end Sys2Proof.Machine
end

