-- ==== Sys2Proof/Machine/Selftest.lean ====
section
/-! DEFINITION. Rinse and self-test (R112, R301 to R303, R455), and the reopening of sluices (R309). -/

namespace Sys2Proof.Machine

/-! ## Patterns (R302) -/

/-- n output bits of the PRBS31 register x^31 + x^28 + 1, the first in bit 0: its top bit is the output (log 38). -/
def prbs31 (n : Nat) (r : BitVec 31) : Nat :=
  match n with
  | 0 => 0
  | k + 1 =>
    let o := (r >>> 30) &&& 1
    let f := ((r >>> 30) ^^^ (r >>> 27)) &&& 1
    o.toNat + 2 * prbs31 k ((r <<< 1) ||| f)

/-- The payload of an MNT of test t and pattern sequence q (R302). -/
def rinsePattern (t q : BitVec 12) : BitVec 384 :=
  let n := t.toNat
  if n < 0x180 then BitVec.ofNat 384 (2 ^ n)
  else if n < 0x300 then ~~~(BitVec.ofNat 384 (2 ^ (n - 0x180)))
  else BitVec.ofNat 384 (prbs31 384 (t ++ q ++ (0x41 : BitVec 7)))

/-! ## Offers (R112, R301) -/

/-- Does the block controller rinse a plane of a cell: with rinse enabled for the plane, in a self-test, or while a sluice of the cell is
in TEST (R301, R309, R455)? -/
def State.rinses (s : State) (c : Nat) (pl : Plane) : Bool :=
  let b := s.block (blockOf c)
  !b.ctlReset && b.power == .run &&
  (b.test.isSome || (b.regs.flag BLK_RINSE_CTL_enable && bits (b.regs.get BLK_RINSE_CTL_planes) pl.code 1 == 1) ||
    (s.rt c).sluices.any fun e => e.2.test)

/-- ncyc between the offers of a cell and plane (R301, R455); beside a sluice in TEST the interval is that of a self-test (log 39). -/
def State.rinseGap (s : State) (c : Nat) : Nat :=
  let b := s.block (blockOf c)
  if b.test.isSome || (s.rt c).sluices.any (fun e => e.2.test) then 2 ^ 8 else 2 ^ b.regs.get BLK_RINSE_CTL_rinse_log2

/-- Key of the rinse of a plane in Ni.did. -/
def dRinse (pl : Plane) : Nat := 20 + pl.code
/-- Key of a cell and plane in Block.rinsePort. -/
def rinseKey (c : Nat) (pl : Plane) : Nat := 3 * cellIdx c + pl.code
/-- Key of a second test of a port and plane, at its sender, in Ni.retest (R303). -/
def retestKey (p : Nat) (pl : Plane) : Nat := 10 + 4 * pl.code + p
/-- Key of a mismatch that awaits its second test, at its receiver, in Ni.retest (R303). -/
def awaitKey (p : Nat) (pl : Plane) : Nat := 30 + 4 * pl.code + p

/-- The second test a cell owes on a plane: port, t, q. -/
def State.owedRetest (s : State) (c : Nat) (pl : Plane) : Option (Nat × BitVec 12 × BitVec 12) :=
  (List.range 4).findSome? fun p => ((s.ni c).retest.find? fun e => e.1 == retestKey p pl).map fun e => (p, e.2)

/-- May a port be rinsed: a mesh port whose sluice is not closed (R301)? -/
def State.rinsePortOk (s : State) (c p : Nat) : Bool :=
  (neighbor c p).isSome && match aget (s.rt c).sluices p with
    | some x => x.test
    | none => true

/-- The next port in turn. -/
def State.nextRinse (s : State) (c : Nat) (pl : Plane) : Option Nat :=
  let from_ := (aget (s.block (blockOf c)).rinsePort (rinseKey c pl)).getD 0
  ((List.range 4).map fun i => (from_ + i) % 4).find? (s.rinsePortOk c)

/-- The MNT of a test on a port (R301, R302). -/
def State.mntPacket (s : State) (c p : Nat) (t q : BitVec 12) : Packet :=
  ({ Packet.blank with
      type := tMNT, cls := 3, epoch := BitVec.ofNat 1 (s.cget c NI_INJ_CTL_inj_epoch), dstChip := s.chipId,
      dstCell := BitVec.ofNat 14 ((neighbor c p).getD 0), srcChip := s.chipId, srcCell := BitVec.ofNat 14 c, chanTree := t, seq := q,
      length := 48, payload := rinsePattern t q } : Packet).seal

/-- Step t, then q, through their ranges. -/
def Block.stepRinse (b : Block) : Block :=
  { b with rinseT := b.rinseT + 1, rinseQ := if b.rinseT = 0xFFF then b.rinseQ + 1 else b.rinseQ }

/-- Offer one MNT to a port: to the NI on a dynamic plane; straight onto the output on the scheduled plane (R112). -/
def State.offerMnt (s : State) (c : Nat) (pl : Plane) (p : Nat) (t q : BitVec 12) : State :=
  let pk := s.mntPacket c p t q
  match pl with
  | .request => s.modNi c fun x => { x with mntReq := some (pk, p, s.ncyc) }
  | .reply => s.modNi c fun x => { x with mntRep := some (pk, p, s.ncyc) }
  | .sched =>
    ((s.spray c .sched p false pk 0).drive c .sched p { pk with epoch := 0 }).modBlockRegs (blockOf c) fun r => r.bump BLK_RINSE_STAT_sent

/-- Can a plane take an offer toward a port in this ncyc: no MNT waits there; on the scheduled plane the output has no active row and its
neighbour runs (R110, R112)? -/
def State.rinseRoom (s : State) (c : Nat) (pl : Plane) (p : Nat) : Bool :=
  match pl with
  | .request => (s.ni c).mntReq.isNone
  | .reply => (s.ni c).mntRep.isNone
  | .sched => !((s.activeRows c).any fun r => r.mask.testBit p) && s.schedOpen c p { Packet.blank with type := tMNT }

/-- RINSE_OFFER (R301): a second test at once; else once in the interval, on the ports in turn. -/
def execRinseOffer (c : Nat) (pl : Plane) (s : State) : Res :=
  onUnit (Instr.rinseOffer c pl).wf s
    (if !s.rinses c pl then s else
    match s.owedRetest c pl with
    | some (p, t, q) =>
      if s.rinseRoom c pl p then
        (s.modNi c fun x => { x with retest := x.retest.filter fun e => e.1 != retestKey p pl }).offerMnt c pl p t q
      else s
    | none =>
      let due := match aget (s.ni c).did (dRinse pl) with
        | none => true
        | some n => decide (n + s.rinseGap c ≤ s.ncyc + 1)
      match if due then s.nextRinse c pl else none with
      | none => s
      | some p =>
        if !s.rinseRoom c pl p then s
        else
          let b := s.block (blockOf c)
          let s := s.offerMnt c pl p b.rinseT b.rinseQ
          (s.modNi c fun x => x.note (dRinse pl) s.ncyc).modBlock (blockOf c) fun b =>
            { b.stepRinse with rinsePort := aput b.rinsePort (rinseKey c pl) ((p + 1) % 4) })

/-- RINSE_TIMEOUT (R301): an MNT not injected within rinse_timeout ncyc is withdrawn uncounted. -/
def execRinseTimeout (c : Nat) (pl : Plane) (s : State) : Res :=
  onUnit (Instr.rinseTimeout c pl).wf s
    (let slot := if pl = .reply then (s.ni c).mntRep else (s.ni c).mntReq
    match slot with
    | none => s
    | some (_, _, since) =>
      if s.ncyc < since + (s.block (blockOf c)).regs.get BLK_RINSE_CTL_rinse_timeout then s
      else
        let mine := match (s.ni c).head pl with
          | some h => (match h.src with
            | .mnt _ => true
            | _ => false)
          | none => false
        let s := if mine then s.clearHead c pl else s
        s.modNi c fun x => if pl = .reply then { x with mntRep := none } else { x with mntReq := none })

/-! ## Sluices in TEST (R306, R309) -/

/-- Consecutive passes that reopen a sluice (R309). -/
def passesNeeded : Nat := 64

/-- Has a router's end of a link in TEST met the criterion on every plane? -/
def Sluice.met (x : Sluice) : Bool := x.test && (List.range 3).all fun k => decide (passesNeeded ≤ (aget x.passes k).getD 0)

/-- Has a link in TEST met the criterion in both directions (R309)? -/
def State.linkMet (s : State) (c p : Nat) : Bool :=
  match neighbor c p with
  | none => false
  | some d =>
    ((aget (s.rt c).sluices p).map Sluice.met).getD false && ((aget (s.rt d).sluices (oppPort p)).map Sluice.met).getD false

/-- Lift the cell sluice of a link at both of its routers; a port sluice that stands closed there stays (R308). -/
def State.liftLink (s : State) (c p : Nat) : State :=
  match neighbor c p with
  | none => s
  | some d => (s.modRt c fun r => r.liftCell p).modRt d fun r => r.liftCell (oppPort p)

/-- Reopen a sluice at both routers in one ncyc (R309). -/
def State.openLink (s : State) (c p : Nat) : State :=
  match neighbor c p with
  | none => s
  | some d => (s.modRt c fun r => { r with sluices := adel r.sluices p }).modRt d fun r => { r with sluices := adel r.sluices (oppPort p) }

/-- Set the sluice of a link to TEST at both routers, its passes counting from none; an open one is marked as of no class. -/
def State.testLink (s : State) (c p : Nat) : State :=
  let put (r : Router) (p : Nat) : Router :=
    { r with sluices := aput r.sluices p { (aget r.sluices p).getD ⟨false, true, 0, [], none⟩ with test := true, passes := [] } }
  match neighbor c p with
  | none => s
  | some d => (s.modRt c fun r => put r p).modRt d fun r => put r (oppPort p)

/-- Is the sluice of a link in TEST? -/
def State.inTest (s : State) (c p : Nat) : Bool := ((aget (s.rt c).sluices p).map (·.test)).getD false

/-- The reopenings under way that have come to their end: one that met the criterion opens, with a record of action 7 and a reroute
(R309, R310, R522); one whose sluice has closed again is rejected. -/
def State.settleReopens (s : State) : State :=
  s.forEach s.chip.reopens fun s e =>
    let done (s : State) := s.modChip fun h => { h with reopens := h.reopens.filter fun x => x != e }
    if s.linkMet e.1 e.2.1 then
      let cls := ((aget (s.rt e.1).sluices e.2.1).map (·.cls)).getD 0
      ((((done s).openLink e.1 e.2.1).zRecord (mkRec cls 3 e.1 e.2.1 1 7 0)).requestFlip .reroute).finishHeld e.2.2 sOK 0 []
    else if !s.inTest e.1 e.2.1 then (done s).finishHeld e.2.2 sREJECTED 4 []
    else s

/-- SLUICE_REOPEN (R309). A cell sluice stays closed as long as the fence it belongs to stands (R308). -/
def execSluiceReopen (m : Nat) (s : State) : Res :=
  onUnit (Instr.sluiceReopen m).wf s (s.plainCmd m 0x51 fun k s =>
    let c := k.arg 0 2
    let p := k.arg 2 1
    if !cellOk c then s.badArg k 16
    else if (neighbor c p).isNone then s.badArg k 18
    else match aget (s.rt c).sluices p with
      | none => s.finish k sREJECTED 5 []
      | some x =>
        if x.cell then s.finish k sREJECTED 4 []
        else ((s.testLink c p).modChip fun h => { h with reopens := h.reopens ++ [(c, p, m)] }).holdMbx k)

/-! ## MNT_EJECT (R303) -/

/-- A test passed at an input: a link in TEST counts it (R309). -/
def State.mntPass (s : State) (c p : Nat) (pl : Plane) : State :=
  let s := s.modBlockRegs (blockOf c) fun r => r.bump BLK_RINSE_STAT_passed
  let s := s.modNi c fun x => { x with retest := x.retest.filter fun e => e.1 != awaitKey p pl }
  s.modRt c fun r => match aget r.sluices p with
    | some x => { r with sluices := aput r.sluices p { x with passes := aput x.passes pl.code ((aget x.passes pl.code).getD 0 + 1) } }
    | none => r

/-- A test failed at an input: the first time the sender repeats it on the same port; the second time the failure is confirmed, counted and
closes the port sluice (R296, R303, R323). -/
def State.mntFail (s : State) (c p : Nat) (pl : Plane) (t q : BitVec 12) : State :=
  let s := s.modRt c fun r => match aget r.sluices p with
    | some x => { r with sluices := aput r.sluices p { x with passes := aput x.passes pl.code 0 } }
    | none => r
  let again := (s.ni c).retest.any fun e => e.1 == awaitKey p pl && e.2.1 == t && e.2.2 == q
  let s := s.modNi c fun x => { x with retest := x.retest.filter fun e => e.1 != awaitKey p pl }
  if again then
    (((s.bump c CELL_ERR_CNT_rinse_fail).portFault c p).closeSluice c p 3 pl.code (t.toNat + q.toNat * 4096))
  else
    let s := s.modNi c fun x => { x with retest := x.retest ++ [(awaitKey p pl, t, q)] }
    match neighbor c p with
    | some d => s.modNi d fun x => { x with
        retest := x.retest.filter (fun e => e.1 != retestKey (oppPort p) pl) ++ [(retestKey (oppPort p) pl, t, q)] }
    | none => s

/-- The checker compares an MNT with its pattern, at the input facing its source (R303). -/
def State.mntCheck (s : State) (c : Nat) (pl : Plane) (p : Packet) : State :=
  match (List.range 4).find? fun i => neighbor c i == some p.srcCell.toNat with
  | none => s
  | some i =>
    (if p.payload = rinsePattern p.chanTree p.seq then s.mntPass c i pl else s.mntFail c i pl p.chanTree p.seq).settleReopens

/-- MNT_EJECT. -/
def execMntEject (c : Nat) (s : State) : Res :=
  onUnit (Instr.mntEject c).wf s (s.ejectType c tMNT fun pl p s => s.mntCheck c pl p)

/-! ## BLOCK_TEST (R455) -/

/-- The mesh links within and between blocks, each by its cell and its East or North port. -/
def linksOf (bs : List Nat) : List (Nat × Nat) :=
  (bs.flatMap blockCells).flatMap fun c => [0, 1].filterMap fun p =>
    match neighbor c p with
    | some d => if bs.contains (blockOf d) then some (c, p) else none
    | none => none

/-- Begin a self-test of blocks: every link within or between them that is not closed goes to TEST, and each pair runs one combine test
(R455). -/
def State.beginTest (s : State) (bs : List Nat) (ncyc : Nat) : State :=
  let s := s.forEach (linksOf bs) fun s e => if s.sluiced e.1 e.2 && !s.inTest e.1 e.2 then s else s.testLink e.1 e.2
  s.forEach bs fun s b => s.modBlock b fun x => { x with
    test := some ⟨s.now + ncyc⟩, combPend := (blockCells b).filter fun c => cx c % 2 == 0 }

/-- The length of a self-test in ncyc (R455). -/
def testNcyc (us : Nat) : Nat := 1800 * if us = 0 then 200 else us

/-- BLOCK_TEST (R451, R454, R455): blocks of a region taken out are left out. -/
def execBlockTest (m : Nat) (s : State) : Res :=
  onUnit (Instr.blockTest m).wf s (s.mailboxCmd m 0x12 (fun _ => true) (fun k => some (if k.arg 0 1 = 1 then 72 else 0)) fun k s =>
    let us := k.arg 4 4
    let mask := leNat k.ext
    let bs := (if k.arg 0 1 = 1 then allBlocks.filter fun b => mask.testBit (blockIdx b) else allBlocks).filter fun b =>
      !(s.region (blockRegion b)).taken
    if s.stepDone 10 then s.finish k sINUSE 7 []
    else if 1 < k.arg 0 1 then s.badArg k 16
    else if 1 ≤ us ∧ us ≤ 39 then s.badArg k 20
    else if allBlocks.any fun b => (s.block b).test.isSome then s.finish k sINUSE 7 []
    else ((s.beginTest bs (testNcyc us)).modChip fun h => { h with mbxWait := aput h.mbxWait 100 m }).holdMbx k)

/-- Step 3 of R455 for one link of a test: it reopens, stays in TEST at the boundary of a region in bring-up hold, or closes as a port
sluice. -/
def State.judgeLink (s : State) (c p : Nat) : State :=
  match neighbor c p with
  | none => s
  | some d =>
    let held := regionCross c d && ((s.region (regionOf c)).bringUp || (s.region (regionOf d)).bringUp)
    if !s.inTest c p then s
    else if !s.linkMet c p then s.closeSluice c p 3 1 0
    else if held then s
    else s.openLink c p

/-- Does a block hold a fenced cell or a closed port sluice (R455)? -/
def State.failing (s : State) (b : Nat) : Bool :=
  (blockCells b).any fun c => s.fencedCell c || (s.rt c).sluices.any fun e => !e.2.cell && !e.2.test

/-! ## Regions leave bring-up hold (R457, R461) -/

/-- The boundary links of a region that face a region awake or about to wake, by their cells in the region. -/
def State.facing (s : State) (r : Nat) : List (Nat × Nat) :=
  (regionCells r).flatMap fun c => (List.range 4).filterMap fun p =>
    match neighbor c p with
    | some d =>
      let q := regionOf d
      if q ≠ r ∧ (!(s.region q).bringUp || (s.region q).waking) ∧ !(s.region q).taken then some (c, p) else none
    | none => none

/-- The region's NIs come up as after NI reset; its bit in region_held clears; each gateway whose cells all lie in awake regions is
released (R457, steps 2 and 3). -/
def State.releaseRegion (s : State) (r : Nat) : State :=
  let s := s.modRegion r fun x => { x with bringUp := false, isolate := x.hard, waking := false }
  let s := s.forEach (regionCells r) fun s c => s.leaveReset c
  s.forEach (List.range 20) fun s g =>
    if (List.range 8).all fun k => !(s.region (regionOf (gatewayCell g k).1)).bringUp then
      s.modGw g fun x => { x with hold := false, epoch := if x.hold then s.chip.active else x.epoch }
    else s

/-- The rows and states of the chip's current versions stand in a region's routers (R409, R410, R461). -/
def State.currentVersions (s : State) (cells : List Nat) : State :=
  let ref := (allCells.find? fun c => !cells.contains c && !s.stopped c && !(s.region (regionOf c)).bringUp).getD s.cornerRoot
  let m := s.rt ref
  let e := s.cget ref NI_INJ_CTL_inj_epoch
  s.forEach cells fun s c => s.modCell c fun x => { x with
    rt := { x.rt with ver0 := m.ver0, ver1 := m.ver1, rows0 := m.rows0, rows1 := m.rows1 }
    regs := x.regs.set NI_INJ_CTL_inj_epoch e }

/-- Open a rill port at both of its routers. -/
def State.openRill (s : State) (c p : Nat) : State :=
  let opened (p : Nat) (x : Router) : Router := { x with rillClosed := x.rillClosed &&& ~~~(BitVec.ofNat 4 (2 ^ p)) }
  match neighbor c p with
  | none => s
  | some d => (s.modRt c (opened p)).modRt d (opened (oppPort p))

/-- The end of the test of a region that is being re-admitted: the current rows, its boundary rill ports open, then the actions of R457 and
the balances (R316, R321, R461). -/
def State.readmit (s : State) (r : Nat) : State :=
  let s := s.currentVersions (regionCells r)
  let s := (s.forEach (s.facing r) fun s e => s.openRill e.1 e.2).rewriteRill
  let s := s.forEach (s.facing r) fun s e =>
    if s.linkMet e.1 e.2 then s.openLink e.1 e.2
    else if s.inTest e.1 e.2 then (s.closeSluice e.1 e.2 3 1 0).liftLink e.1 e.2
    else if s.fencedCell e.1 || (neighbor e.1 e.2).any s.fencedCell then s
    else s.liftLink e.1 e.2
  if (s.facing r).isEmpty || (s.facing r).any fun e => !s.sluiced e.1 e.2 then
    (((s.releaseRegion r).resetRecord 5 r 6).checkBalance (regionCells r)).1.requestFlip .follow
  else s

/-- BLOCK_TEST_END (R455): every test whose time has come ends; a BLOCK_TEST answers with the blocks failing, a region being re-admitted
goes on. `bad` gives the table words the tests read with wrong parity, each as its cell and its table: 0 route, 1 cascade, 2 schedule, 3 rill. -/
def execBlockTestEnd (bad : List (Nat × Nat)) (s : State) : Res :=
  onUnit (Instr.blockTestEnd bad).wf s
    (let bs := allBlocks.filter fun b => match (s.block b).test with
      | some t => decide (t.until_ ≤ s.now)
      | none => false
    if bs.isEmpty then s
    else
      let s := s.forEach (bad.filter fun e => bs.contains (blockOf e.1)) fun s e => s.tableError e.1 e.2
      let s := s.forEach (linksOf bs) fun s e => s.judgeLink e.1 e.2
      let s := s.forEach bs fun s b => s.modBlock b fun x => { x with test := none }
      let s := s.forEach ((List.range 16).filter fun r =>
        (s.region r).isolate && (s.region r).bringUp && !(s.region r).hard && !(s.region r).taken && (regionBlocks r).any bs.contains) fun s r => s.readmit r
      match aget s.chip.mbxWait 100 with
      | none => s
      | some m =>
        ((s.modChip fun h => { h with mbxWait := adel h.mbxWait 100 }).setStep 7).finishHeld m sOK 0 (leBytes 2 (bs.filter s.failing).length))

end Sys2Proof.Machine
end

