-- ==== Sys2Proof/Machine/Coding.lean ====
section
/-! DEFINITION. What a link port puts on its lanes and finds there (R336 to R338, R342, R347 to R349, R351): the bytes of a frame, the 64b/66b block
code with its scrambler, alignment markers, striping over the lanes; block lock and deskew at the receiver. -/

namespace Sys2Proof.Machine

/-! ## Lanes (R337, R338, R364) -/

/-- Index of lane l of half h in LNK_LANE_ERR, LNK_EQ and LNK_PRBS_CNT (R365, R366, R371). -/
def laneIdx (h l : Nat) : Nat := 17 * h + l

/-- The physical lane of logical lane i of a half-port whose failed lane f is shifted around (R338); f is 31 for none. -/
def shiftLane (f i : Nat) : Nat := if i < f then i else i + 1

/-- Logical lanes of a width code (R337). -/
def widthLanes (w : Nat) : Nat := if w = 0 then 32 else if w = 1 then 16 else 8

/-- Where a port carries logical lane i: the half-port and its physical lane (R337, R338). At x8 it is the i-th of the lanes that the peer
receives. -/
def Link.physLane (l : Link) (i : Nat) : Nat × Nat :=
  let shifted (h k : Nat) : Nat × Nat := (h, shiftLane (l.regs.get (LNK_LANE_tx_spare.at h)) k)
  let half := l.regs.get LNK_STAT_half
  match l.regs.get LNK_STAT_width with
  | 0 => shifted (i / 16) (i % 16)
  | 1 => shifted half i
  | _ =>
    let good : BitVec 18 := (l.peer.map fun (c : Cap) => if half = 0 then c.rxGood0 else c.rxGood1).getD 0
    (half, ((List.range 17).filter fun k => good.getLsbD k).getD i 0)

/-! ## The bytes of a frame (R343, R347 to R349, R351) -/

/-- The payload of a CAP frame (R343). -/
def Cap.bytes (c : Cap) : List Byte :=
  leBytes 2 c.chipId.toNat ++ leBytes 1 c.port.toNat ++ leBytes 1 c.version.toNat ++ leBytes 2 c.dims.toNat ++ leBytes 1 c.widthMax.toNat ++
    leBytes 1 (c.ready.toNat + 2 * c.admitted.toNat) ++ leBytes 4 c.rxGood0.toNat ++ leBytes 4 c.rxGood1.toNat ++ leBytes 8 c.tSend.toNat ++
    leBytes 8 c.tEcho.toNat ++ leBytes 8 c.tResid.toNat

/-- The 72 bytes of a body: a packet with its check bytes, a rill body, a control body (R33, R347, R348, R351). -/
def FrameBody.bytes (b : FrameBody) : List Byte :=
  match b with
  | .packet p => Packet.bytes p
  | .rill flits c1 c2 c3 =>
    padTo 64 (flits.flatMap Flit.bytes) ++ leBytes 2 c1.toNat ++ leBytes 2 c2.toNat ++ leBytes 2 c3.toNat ++ leBytes 1 flits.length ++ [0]
  | .word v => padTo 72 (leBytes 2 v.toNat)
  | .cap c => padTo 72 (Cap.bytes c)
  | .code v => padTo 72 (leBytes 1 v)

/-- The type field (R348). -/
def Frame.typeWord (f : Frame) : Nat := f.kind.toNat + f.stream.toNat * 2 ^ 4 + f.field.toNat * 2 ^ 5 + f.cell.toNat * 2 ^ 15

/-- The crc field, over bytes 0 to 73 and 78 to 79 (R349). -/
def Frame.crc (f : Frame) : Nat := crc32 (FrameBody.bytes f.body ++ leBytes 2 f.seq.toNat ++ leBytes 2 (Frame.typeWord f))

/-- The 80 bytes of a frame (R347). -/
def Frame.bytes (f : Frame) : List Byte :=
  FrameBody.bytes f.body ++ leBytes 2 f.seq.toNat ++ leBytes 4 (Frame.crc f) ++ leBytes 2 (Frame.typeWord f)

/-! ## Blocks (R336): 64b/66b of IEEE 802.3 clause 49 (log 60) -/

/-- The self-synchronising scrambler 1 + x^39 + x^58 over n bits of a payload from bit i on: the scrambled bits, and the last 58 of them, the latest
in bit 0. -/
def scramble (n i : Nat) (r : BitVec 58) (w : BitVec 64) : BitVec 64 × BitVec 58 :=
  match n with
  | 0 => (0, r)
  | k + 1 =>
    let o := (w.getLsbD i ^^ r.getLsbD 38) ^^ r.getLsbD 57
    let q := scramble k (i + 1) ((r <<< 1) ||| BitVec.ofNat 58 o.toNat) w
    (q.1 ||| BitVec.ofNat 64 (o.toNat * 2 ^ i), q.2)

/-- Sync header of a data block. -/
def syncData : BitVec 2 := 1
/-- Sync header of a control block. -/
def syncCtrl : BitVec 2 := 2

/-- The payload of the alignment marker of a physical lane of a half-port. -/
def markerWord (h p : Nat) : BitVec 64 := BitVec.ofNat 64 (0xB4 + p * 2 ^ 8 + h * 2 ^ 16)

/-- Blocks on each lane between alignment markers. -/
def markerGap : Nat := 16384

/-- Put a block on a lane: its payload is scrambled in the lane's scrambler, which starts at 0 (log 60); its sync header is not. -/
def LinkCode.put (k : LinkCode) (h p : Nat) (sync : BitVec 2) (w : BitVec 64) : LinkCode :=
  let q := scramble 64 0 ((aget k.scr (laneIdx h p)).getD 0) w
  { k with scr := aput k.scr (laneIdx h p) q.2, line := k.line ++ [(laneIdx h p, q.1 ++ sync)] }

/-- The next data block of a port's stream goes on logical lane b mod W, after an alignment marker where one falls due there (R336, R337). -/
def Link.putBlock (l : Link) (w : BitVec 64) : Link :=
  let n := widthLanes (l.regs.get LNK_STAT_width)
  let e := l.physLane (l.code.blocks % n)
  let turn := l.code.blocks / n
  let k := if 0 < turn && turn % markerGap == 0 then l.code.put e.1 e.2 syncCtrl (markerWord e.1 e.2) else l.code
  let k := k.put e.1 e.2 syncData w
  { l with code := { k with blocks := k.blocks + 1 } }

/-- Does a port carry frames: ACTIVE or QUIESCE? -/
def Link.carries (l : Link) : Bool := l.regs.get LNK_STAT_state == 5 || l.regs.get LNK_STAT_state == 7

/-- The ten blocks of a frame on the lanes, byte 0 in the first (R347). How the frames of CAPX, before a width is agreed, lie on the lanes the spec
does not say: they leave the code as it is. -/
def Link.putFrame (l : Link) (f : Frame) : Link :=
  if !l.carries then l
  else (List.range 10).foldl (fun l i => l.putBlock (BitVec.ofNat 64 (leNat (((Frame.bytes f).drop (8 * i)).take 8))))
    { l with code := { l.code with line := [] } }

/-- A port sends a frame. -/
def State.linkEmit (s : State) (n : Nat) (f : Frame) : State := (s.modLink n fun l => l.putFrame f).emit (.frame n f)

/-- A port's block stream starts over when it becomes ACTIVE at a width. -/
def Link.restartCode (l : Link) : Link := { l with code := { l.code with blocks := 0, line := [] } }

/-! ## Block lock and deskew (R336, R342; log 60) -/

/-- One sync header in the block-lock procedure of clause 49: whether locked, headers of the window of 64 so far, invalid ones among them. Lock
comes after 64 valid headers in a row, and is lost at the 16th invalid one of a window. -/
def lockStep (a : Bool × Nat × Nat) (h : BitVec 2) : Bool × Nat × Nat :=
  let bad := a.2.2 + (if h = syncData ∨ h = syncCtrl then 0 else 1)
  if 0 < bad && (!a.1 || bad == 16) then (false, 0, 0)
  else if a.2.1 = 63 then (true, 0, 0)
  else (a.1, a.2.1 + 1, bad)

/-- Has a lane block lock after these sync headers? -/
def blockLock (hs : List (BitVec 2)) : Bool := (hs.foldl lockStep (false, 0, 0)).1

/-- The block number at which a lane found the alignment marker of its own number, with block lock. -/
def LaneRx.aligned (x : LaneRx) : Option Int :=
  match x.marker with
  | some (n, b) => if blockLock x.headers && b == markerWord x.half x.lane ++ syncCtrl then some n else none
  | none => none

/-- Blocks of skew that a receiver takes up. -/
def maxSkew : Nat := 8

/-- Does a receive lane work after LOCK: it has block lock, and its marker stands within the skew of that of the first lane aligned? -/
def laneWorks (rx : List LaneRx) (x : LaneRx) : Bool :=
  match LaneRx.aligned x, rx.findSome? LaneRx.aligned with
  | some n, some r => decide ((n - r).natAbs ≤ maxSkew)
  | _, _ => false

/-- The lanes of a half-port that work after LOCK. -/
def lanesWorking (rx : List LaneRx) (h : Nat) : BitVec 17 :=
  rx.foldl (fun m x => if x.half = h && laneWorks rx x then m ||| BitVec.ofNat 17 (2 ^ x.lane) else m) 0

end Sys2Proof.Machine
end

