-- ==== Sys2Proof/Machine/Links.lean ====
section
/-! DEFINITION. Serial link ports up to ACTIVE and away from it (R335 to R346, R354 to R360): lanes, states, training, lock, capability
exchange and admission, retrain, DOWN, test loops and PRBS checkers, and the mailbox commands LINK_SET and LINK_QUIESCE. -/

namespace Sys2Proof.Machine

/-! ## Times in ncyc -/

/-- ncyc of one ms (R343: an ncyc is 1/1.8 ns). -/
def msNcyc : Nat := 1800000
/-- ncyc of one µs. -/
def usNcyc : Nat := 1800

/-! ## Lanes (R337, R338, R364) -/

/-- Working lanes of 17 in a mask. -/
def lanesGood (m : BitVec 17) : Nat := ((List.range 17).filter fun i => m.getLsbD i).length

/-- The failed physical lane that a half-port shifts around: the only failed one, when it is one of lanes 0 to 15 (R338); 31 for none. -/
def spareLane (m : BitVec 17) : Nat :=
  match (List.range 17).filter fun i => !m.getLsbD i with
  | [f] => if f < 16 then f else 31
  | _ => 31

/-- Is a half-port whole in a direction: at most one of its 17 lanes has failed and its clock works (R338)? -/
def halfWhole (m : BitVec 18) : Bool := m.getLsbD 17 && decide (16 ≤ lanesGood (m.setWidth 17))

/-- Is a half-port narrow-capable in a direction (R338)? -/
def halfNarrow (m : BitVec 18) : Bool := m.getLsbD 17 && decide (8 ≤ lanesGood (m.setWidth 17))

/-- Lanes of a half known to have failed. -/
def Link.failed (l : Link) (h : Nat) : BitVec 17 := if h = 0 then l.failed0 else l.failed1
/-- Does the forwarded clock of a half work? -/
def Link.clk (l : Link) (h : Nat) : Bool := if h = 0 then l.clk0 else l.clk1
/-- Lanes of a half that have reported ready in this training. -/
def Link.ready (l : Link) (h : Nat) : BitVec 17 := if h = 0 then l.ready0 else l.ready1
/-- Mark lanes of a half failed. -/
def Link.failLanes (l : Link) (h : Nat) (m : BitVec 17) : Link :=
  if h = 0 then { l with failed0 := l.failed0 ||| m } else { l with failed1 := l.failed1 ||| m }

/-- Is a half narrow-capable as far as this side's receivers know? -/
def Link.halfUsable (l : Link) (h : Nat) : Bool := l.clk h && decide (8 ≤ lanesGood (~~~(l.failed h)))

/-- Is some half narrow-capable? -/
def Link.usable (l : Link) : Bool := l.halfUsable 0 || l.halfUsable 1

/-- The rx_good mask of a half with its clock in bit 17, as CAP carries it (R343). -/
def Link.rxGood (l : Link) (h : Nat) : BitVec 18 :=
  (if l.regs.flag (LNK_LANE_rx_clk_ok.at h) then 1#1 else 0#1) ++ BitVec.ofNat 17 (l.regs.get (LNK_LANE_rx_good.at h))

/-- Is a port bonded out (R503)? -/
def State.linkPresent (s : State) (n : Nat) : Bool := s.chip.integ.lnkPresent.getLsbD n

/-! ## Changes of state (R339, R435) -/

/-- A port enters a state: LNK_STAT.state, and the LINK event of the change. -/
def State.linkEnter (s : State) (n st : Nat) : State :=
  let s := s.modLink n fun l => { l with regs := l.regs.set LNK_STAT_state st, entered := s.ncyc }
  s.post 0x07 (unitLink n) (BitVec.ofNat 64 (st + (s.link n).regs.get LNK_STAT_peer_chip * 2 ^ 4)) 0

/-- DISABLED: admit clears (R345). -/
def State.linkDisable (s : State) (n : Nat) : State :=
  (s.modLink n fun l => { l with
    parked := false
    polled := none
    regs := (l.regs.set LNK_CTL_admit 0).set LNK_STAT_admitted 0 }).linkEnter n 0

/-- Bulk packets a port holds: staged, unacknowledged, in its ingress buffers (R359). -/
def Link.bulkHeld (l : Link) : Nat :=
  l.stagReq.length + l.stagRep.length + l.stagSched.length + l.bulk.sent.length + l.ingReq.length + l.ingRep.length + l.ingSched.length

/-- The LINK_DOWN detail (R359). -/
def Link.downDetail (l : Link) (cause : Nat) : Nat :=
  let fails (h : Nat) := min (17 - lanesGood (~~~(l.failed h))) 15
  cause + l.regs.get LNK_STAT_state * 2 ^ 4 + fails 0 * 2 ^ 8 + fails 1 * 2 ^ 12 + min l.bulkHeld 65535 * 2 ^ 16

/-- A port with nothing in it, its streams at sequence 0 (R345, R359). The last counter accepted stays (R389), as do the failures and lock
of its rill (R430). -/
def Link.emptied (l : Link) : Link :=
  { l with stagReq := [], stagRep := [], stagSched := [], ingReq := [], ingRep := [], ingSched := [], bulk := LinkStream.reset,
           rill := LinkStream.reset, ackRill := false, altRep := false, rillRun := 0, rillOut := [], rillTaken := [], rillIng := [],
           rillBal := [], owedSince := none }

/-- Did a state carry routes: ACTIVE, QUIESCE, Deep, or the way back to ACTIVE by a retrain or from Deep? -/
def Link.routed (l : Link) : Bool :=
  let st := l.regs.get LNK_STAT_state
  st == 5 || st == 6 || st == 7 || l.retraining || match l.task with
    | .waking _ => true
    | _ => false

/-- Zhevber answers the LINK_QUIESCE that waits for a port (R358). -/
def State.answerQuiesce (s : State) (n : Nat) : State :=
  let mine := s.chip.quiesce.filter fun e => e.1 == n
  (s.modChip fun h => { h with quiesce := h.quiesce.filter fun e => e.1 != n }).forEach mine fun s e => s.finishHeld e.2 sOK 0 []

/-- DOWN with a cause (R339, R345, R359): what the port holds is discarded, its record is sent, a flip is requested when it carried routes,
and a quiesce of it is complete. An exchange of time under way there is rejected (R391). -/
def State.linkDown (s : State) (n cause : Nat) : State :=
  let l := s.link n
  let s := s.zRecord (mkRec 0x0E 3 (unitLink n) 7 0 0 (l.downDetail cause))
  let s := s.modLink n fun l => { l.emptied.outOfSched with
    retraining := false, task := .none, peerAsked := false, deepMine := false, parked := cause == 4, peer := none, rtts := [],
    polled := none, exch := none, sts := []
    regs :=
      let r := if l.exch.isSome then l.regs.bump LNK_TIME_rejected else l.regs
      let r := if l.rillTaken.isEmpty then r else r.bump LNK_RILL_seq_drop
      (((((((r.set LNK_CTL_admit 0).set LNK_CTL_quiesce 0).set LNK_STAT_admitted 0).set LNK_STAT_width 3).set LNK_STAT_last_down cause).bump
        LNK_STAT_downs).set LNK_CTL_retrain 0) }
  let s := s.linkEnter n 9
  let s := if l.routed then s.requestFlip .follow else s
  (s.answerQuiesce n).when_ (!(s.link n).regs.flag LNK_CTL_enable) fun s => s.linkDisable n

/-! ## DISABLED and DETECT -/

/-- What the enable, detect and loop bits of LNK_CTL ask for in DISABLED, DETECT, LOOP and DOWN (R339, R355, R358). -/
def State.settleCtl (s : State) (n : Nat) : State :=
  let l := s.link n
  let en := l.regs.flag LNK_CTL_enable
  let det := l.regs.flag LNK_CTL_detect_en
  let loop := l.regs.get LNK_CTL_loop
  match l.regs.get LNK_STAT_state with
  | 0 => if loop ≠ 0 then s.linkEnter n 8 else if en && det then s.linkEnter n 1 else s
  | 1 => if en then s else s.linkDisable n
  | 8 => if loop = 0 then
      (s.modLink n fun l => { l with
        prbs := []
        regs := (List.range 34).foldl (fun r i => r.set (LNK_PRBS_CNT_locked.at i) 0) l.regs }).linkDisable n
    else s
  | 9 => if !en then s.linkDisable n else if !det then s.modLink n fun l => { l with parked := false } else s
  | _ => s

/-- LINK_DETECT_POLL: the receiver-detect pulse of DETECT, once per ms. -/
def execLinkDetectPoll (n : Nat) (s : State) : Res :=
  onUnit (Instr.linkDetectPoll n).wf s
    (let l := s.link n
    let due := match l.polled with
      | none => true
      | some t => decide (t + msNcyc ≤ s.ncyc)
    if l.regs.get LNK_STAT_state == 1 && due then (s.modLink n fun l => { l with polled := some s.ncyc }).emit (.detectPulse n) else s)

/-- DOWN_DETECT_RETURN: after 1 ms in DOWN with detect_en set; a port that a quiesce took DOWN stays (R358). -/
def execDownDetectReturn (n : Nat) (s : State) : Res :=
  onUnit (Instr.downDetectReturn n).wf s
    (let l := s.link n
    if l.regs.get LNK_STAT_state = 9 ∧ l.entered + msNcyc ≤ s.ncyc ∧ l.regs.flag LNK_CTL_detect_en ∧ !l.parked then s.linkEnter n 1 else s)

/-! ## TRAIN (R340, R341) -/

/-- The presets: c_pre, c_post. -/
def preset (k : Nat) : Nat × Nat :=
  match k with
  | 0 => (0, 0)
  | 1 => (0, 8)
  | 2 => (0, 16)
  | 3 => (4, 8)
  | 4 => (4, 16)
  | 5 => (8, 8)
  | 6 => (8, 16)
  | _ => (4, 24)

/-- Set the taps of a lane: the main tap is what the others leave of 64. -/
def Regs.setTaps (r : Regs) (i pre post : Nat) : Regs :=
  ((r.set (LNK_EQ_c_pre.at i) pre).set (LNK_EQ_c_post.at i) post).set (LNK_EQ_c_main.at i) (64 - pre - post)

/-- Apply a preset to a lane. -/
def Regs.usePreset (r : Regs) (i k : Nat) : Regs := (r.setTaps i (preset k).1 (preset k).2).set (LNK_EQ_preset.at i) k

/-- May a lane have these taps (R341)? -/
def tapsOk (pre post : Nat) : Bool := decide (pre ≤ 16) && decide (post ≤ 24) && decide (pre + post ≤ 40)

/-- A step request (1 increase, 2 decrease) on a tap. -/
def tapStep (v req : Nat) : Option Nat := if req = 1 then some (v + 1) else if req = 2 ∧ 0 < v then some (v - 1) else none

/-- Bytes of the CALIB entry of a port (R439). -/
def State.calibEntry (s : State) (n : Nat) : Option (List Byte) :=
  (s.cistRead 3 (n / 42)).bind fun p =>
    let e := padTo 96 (p.drop (96 * (n % 42)))
    if e.getD 0 0 = BitVec.ofNat 8 n ∧ leNat ((e.drop 4).take 8) ≠ 0 then some e else none

/-- The taps every lane starts TRAIN with: those of the CALIB record where eq_hold is set and it holds the port, else LNK_CTL.preset (R341,
R458). -/
def State.startTaps (s : State) (n : Nat) : State :=
  let r := (s.link n).regs
  let calib := if r.flag LNK_CTL_eq_hold then s.calibEntry n else none
  s.modLink n fun l => { l with
    regs := (List.range 34).foldl (fun r i =>
      match calib with
      | some e => r.setTaps i (e.getD (12 + 2 * i) 0).toNat (e.getD (13 + 2 * i) 0).toNat
      | none => r.usePreset i (r.get LNK_CTL_preset)) l.regs }

/-- LINK_TERMINATION_SEEN: a termination on the clock lane and at least 8 data lanes of a half takes DETECT to TRAIN. -/
def execLinkTerminationSeen (n h : Nat) (clk : Bool) (lanes : Nat) (s : State) : Res :=
  onUnit (Instr.linkTerminationSeen n h clk lanes).wf s
    (if (s.link n).regs.get LNK_STAT_state = 1 ∧ clk ∧ 8 ≤ lanes then
      ((s.startTaps n).modLink n fun l => { l with
        failed0 := 0, failed1 := 0, ready0 := 0, ready1 := 0, clk0 := true, clk1 := true, sts := [], retraining := false }).linkEnter n 2
    else s)

/-- Status of a lane's transmitter: pre in bits 1:0, post in bits 3:2, preset in bit 4. -/
def Link.status (l : Link) (i : Nat) : Nat := (aget l.sts i).getD 0

/-- A transmitter lane meets the request in a message of its peer's receiver (R340, R341): a preset overrides steps; a step is made once, until
the request returns to hold; request value 3 changes nothing. -/
def Link.tapRequest (l : Link) (i : Nat) (msg : BitVec 56) : Link :=
  let m := msg.toNat
  let st := l.status i
  if bits m 12 1 = 1 then
    { l with
      sts := aput l.sts i (setBits st 4 1 1)
      regs := if bits st 4 1 = 0 then l.regs.usePreset i (bits m 13 3) else l.regs }
  else
    let pre := l.regs.get (LNK_EQ_c_pre.at i)
    let post := l.regs.get (LNK_EQ_c_post.at i)
    let one (req old : Nat) (cur : Nat) (ok : Nat → Bool) : Nat × Nat :=
      if req = 0 ∨ req = 3 then (cur, if req = 0 then 0 else old)
      else if old ≠ 0 then (cur, old)
      else match tapStep cur req with
        | some v => if ok v then (v, 1) else (cur, 2)
        | none => (cur, 2)
    let a := one (bits m 8 2) (bits st 0 2) pre fun v => tapsOk v post
    let b := one (bits m 10 2) (bits st 2 2) post fun v => tapsOk a.1 v
    { l with sts := aput l.sts i (a.2 + b.2 * 4), regs := l.regs.setTaps i a.1 b.1 }

/-- TRAINING_MESSAGE: the lane's request and readiness are taken, and the lane's own message goes back: its status, and the requests and
readiness of this side's receiver, which the spec leaves to the receiver (a free value, log 1). -/
def execTrainingMessage (n : Nat) (msg : BitVec 56) (s : State) : Res :=
  onUnit (Instr.trainingMessage n msg).wf s
    (let lane := bits msg.toNat 0 5
    let h := bits msg.toNat 5 1
    if (s.link n).regs.get LNK_STAT_state ≠ 2 ∨ 16 < lane then s
    else
      let i := laneIdx h lane
      let s := s.modLink n fun l =>
        let l := l.tapRequest i msg
        let m : BitVec 17 := if msg.getLsbD 6 then BitVec.ofNat 17 (2 ^ lane) else 0
        if h = 0 then { l with ready0 := l.ready0 ||| m } else { l with ready1 := l.ready1 ||| m }
      let d := s.draw
      let st := (s.link n).status i
      let out := lane + h * 2 ^ 5 + bits d.1.toNat 6 10 * 2 ^ 6 + bits st 0 2 * 2 ^ 16 + bits st 2 2 * 2 ^ 18 + bits st 4 1 * 2 ^ 20
      d.2.emit (.training n h lane (BitVec.ofNat 56 out)))

/-- Enter LOCK. -/
def State.linkLock (s : State) (n : Nat) : State := s.linkEnter n 3

/-- LINK_TRAIN_DONE: every lane reports ready on both sides. -/
def execLinkTrainDone (n : Nat) (s : State) : Res :=
  onUnit (Instr.linkTrainDone n).wf s (if (s.link n).regs.get LNK_STAT_state = 2 then s.linkLock n else s)

/-- LINK_TRAIN_TIMEOUT: lanes that have not reported ready are failed lanes; LOCK with a narrow-capable half, else DOWN (R339, R341). -/
def execLinkTrainTimeout (n : Nat) (s : State) : Res :=
  onUnit (Instr.linkTrainTimeout n).wf s
    (let l := s.link n
    if l.regs.get LNK_STAT_state ≠ 2 ∨ s.ncyc < l.entered + usNcyc * l.regs.get LNK_TMR_train_timeout then s
    else
      let s := s.modLink n fun l => (l.failLanes 0 (~~~l.ready0)).failLanes 1 (~~~l.ready1)
      if (s.link n).usable then s.linkLock n else s.linkDown n (if l.retraining then 2 else 5))

/-! ## LOCK (R342) -/

/-- A port records the receive lanes of a half that work at LOCK (R342, R364). -/
def Link.recordLanes (l : Link) (h : Nat) (good : BitVec 17) : Link :=
  let m : BitVec 17 := good &&& ~~~(l.failed h)
  { l with regs :=
      ((l.regs.set (LNK_LANE_rx_good.at h) m.toNat).set (LNK_LANE_rx_spare.at h) (spareLane m)).set (LNK_LANE_rx_clk_ok.at h) (l.clk h).toNat }

/-- Does a port wake from Deep? -/
def Link.isWaking (l : Link) : Bool := match l.task with
  | .waking _ => true
  | _ => false

/-- A lane's receiver counts invalid sync headers (R354, R365). -/
def Link.countHeaders (l : Link) (i k : Nat) : Link := { l with regs := l.regs.add (LNK_LANE_ERR_sync_err.at i) k }

/-- What the receivers of a port in LOCK have counted. -/
def Link.countLock (l : Link) (rx : List LaneRx) : Link :=
  rx.foldl (fun l x => l.countHeaders (laneIdx x.half x.lane) (x.headers.filter fun b => b != syncData && b != syncCtrl).length) l

/-- LINK_LOCK_DONE: the receivers, which have seen rx on their lanes, count the invalid headers, and record the lanes with block lock and within the
skew; with a half narrow-capable among them the port measures anew in CAPX. -/
def execLinkLockDone (n : Nat) (rx : List LaneRx) (s : State) : Res :=
  onUnit (Instr.linkLockDone n rx).wf s
    (let x := (s.link n).countLock rx
    let l := (x.recordLanes 0 (lanesWorking rx 0)).recordLanes 1 (lanesWorking rx 1)
    if (s.link n).regs.get LNK_STAT_state ≠ 3 then s
    else if !(halfNarrow (l.rxGood 0) || halfNarrow (l.rxGood 1)) then s.modLink n fun _ => x
    else (s.modLink n fun _ => { l with rtts := [], peer := none }).linkEnter n 4)

/-- LINK_LOCK_TIMEOUT: a lane without block lock after 50 µs has failed; with no half narrow-capable the port goes DOWN (R339, R342). -/
def execLinkLockTimeout (n h l : Nat) (s : State) : Res :=
  onUnit (Instr.linkLockTimeout n h l).wf s
    (let x := s.link n
    if x.regs.get LNK_STAT_state ≠ 3 ∨ s.ncyc < x.entered + 50 * usNcyc then s
    else
      let s := s.modLink n fun x => x.failLanes h (BitVec.ofNat 17 (2 ^ l))
      if (s.link n).usable then s else s.linkDown n (if x.retraining then 2 else if x.isWaking then 7 else 5))

/-! ## CAPX (R343 to R345, R374) -/

/-- The dims field of CHP_CHIP_ID as CAP carries it (R343). -/
def State.dims (s : State) : Nat :=
  s.chget CHP_CHIP_ID_dim_x_m1 + s.chget CHP_CHIP_ID_dim_y_m1 * 2 ^ 5 + s.chget CHP_CHIP_ID_dim_z_m1 * 2 ^ 9

/-- The CAP a port sends now (R343); ready tells that 16 round trips have been measured. -/
def State.capOf (s : State) (n : Nat) : Cap :=
  let l := s.link n
  { chipId := s.chipId, port := BitVec.ofNat 8 n, version := 1, dims := BitVec.ofNat 16 s.dims,
    widthMax := BitVec.ofNat 8 (l.regs.get LNK_CTL_width_max), ready := decide (16 ≤ l.rtts.length), admitted := l.regs.flag LNK_CTL_admit,
    rxGood0 := l.rxGood 0, rxGood1 := l.rxGood 1, tSend := s.time,
    tEcho := (l.peer.map fun (c : Cap) => c.tSend).getD 0, tResid := if l.peer.isSome then s.time - l.peerAt else 0 }

/-- The frame of a CAP. -/
def Link.capFrame (l : Link) (c : Cap) : Frame := ⟨7, 0, 0, 0, l.bulk.next, .cap c⟩

/-- CAP_SEND. -/
def execCapSend (n : Nat) (s : State) : Res :=
  onUnit (Instr.capSend n).wf s
    (if (s.link n).regs.get LNK_STAT_state = 4 then s.linkEmit n ((s.link n).capFrame (s.capOf n)) else s)

/-- The width both sides compute (R344): width code and half; none where no entry is allowed. -/
def linkWidth (mine peer : Nat) (m0 m1 p0 p1 : BitVec 18) : Option (Nat × Nat) :=
  let w := max mine peer
  if w = 0 ∧ halfWhole m0 ∧ halfWhole p0 ∧ halfWhole m1 ∧ halfWhole p1 then some (0, 0)
  else if w ≤ 1 ∧ halfWhole m0 ∧ halfWhole p0 then some (1, 0)
  else if w ≤ 1 ∧ halfWhole m1 ∧ halfWhole p1 then some (1, 1)
  else if halfNarrow m0 ∧ halfNarrow p0 then some (2, 0)
  else if halfNarrow m1 ∧ halfNarrow p1 then some (2, 1)
  else none

/-- Does a CAP meet the rules of admission (R374)? -/
def State.capOk (s : State) (n : Nat) (c : Cap) : Bool :=
  let b := bundleOf n
  c.version == 1 && c.dims.toNat == s.dims && c.chipId.toNat == s.peerChip b && c.port.toNat == (n + 24) % 48 && decide (2 ≤ s.dim (b / 2))

/-- Zhevber refuses a peer: it clears enable, and the port goes DOWN with cause 6 (R374). -/
def State.refusePeer (s : State) (n : Nat) : State := (s.modLinkRegs n fun r => r.set LNK_CTL_enable 0).linkDown n 6

/-- The CALIB entry of a port as it stands (R439). -/
def State.calibOf (s : State) (n : Nat) : List Byte :=
  let r := (s.link n).regs
  padTo 96 (leBytes 1 n ++ leBytes 1 (r.get LNK_STAT_width) ++ leBytes 2 (r.get LNK_LAT_one_way) ++
    leBytes 4 ((s.link n).rxGood 0).toNat ++ leBytes 4 ((s.link n).rxGood 1).toNat ++
    (List.range 34).flatMap fun i => leBytes 1 (r.get (LNK_EQ_c_pre.at i)) ++ leBytes 1 (r.get (LNK_EQ_c_post.at i)))

/-- Zhevber writes CALIB when a port reaches ACTIVE (R439, R458). -/
def State.writeCalib (s : State) (n : Nat) : State :=
  if !s.zRuns then s else
  let part := n / 42
  let old := padTo (if part = 0 then 4032 else 576) ((s.cistRead 3 part).getD [])
  s.cistWrite 3 part (old.take (96 * (n % 42)) ++ s.calibOf n ++ old.drop (96 * (n % 42) + 96))

/-- ACTIVE (R345, R354, R357, R360): a fresh admission starts the streams at 0 and asks for the flip that brings the port into its
bundle; a return from a retrain or from Deep keeps them, and resumes each at the peer's expected seq. -/
def State.linkActivate (s : State) (n w h : Nat) (resumed : Bool) : State :=
  let s := s.modLink n fun l =>
    let l := if resumed then { l with bulk := { l.bulk with resume := true }, rill := { l.rill with resume := true } } else l.emptied
    { l with
      retraining := false
      task := if l.isWaking then .none else l.task
      regs := ((l.regs.set LNK_STAT_width w).set LNK_STAT_half h).set LNK_STAT_admitted 1 }
  let s := ((s.modLink n Link.restartCode).linkEnter n 5).writeCalib n
  if resumed then s else s.requestFlip .follow

/-- A port in CAPX leaves it when a width is agreed and both sides have set admit; with no width it goes DOWN (R339, R344, R345). -/
def State.capxTry (s : State) (n : Nat) : State :=
  let l := s.link n
  match l.peer with
  | none => s
  | some c =>
    if l.regs.get LNK_STAT_state ≠ 4 then s
    else
      let back := l.retraining || l.isWaking
      match linkWidth (l.regs.get LNK_CTL_width_max) c.widthMax.toNat (l.rxGood 0) (l.rxGood 1) c.rxGood0 c.rxGood1 with
      | none => s.linkDown n (if l.retraining then 2 else 5)
      | some (w, h) => if l.regs.flag LNK_CTL_admit && c.admitted then s.linkActivate n w h back else s

/-- A measured round trip joins; 16 of them give LNK_LAT (R343). -/
def Link.measured (l : Link) (rtt : Nat) : Link :=
  let rs := (rtt :: l.rtts).take 16
  { l with
    rtts := rs
    regs := if rs.length < 16 then l.regs
      else
        let m := rs.sum / 16
        (l.regs.set LNK_LAT_rtt (min m 65535)).set LNK_LAT_one_way (min (m / 2) 65535) }

/-- Does Zhevber check admissions: it runs and knows the chip's identity (R458)? -/
def State.admits (s : State) : Bool := s.zRuns && s.stepDone 5

/-- CAP_FRAME. -/
def execCapFrame (n : Nat) (cap : Cap) (s : State) : Res :=
  onUnit (Instr.capFrame n cap).wf s
    (if (s.link n).regs.get LNK_STAT_state ≠ 4 then s
    else
      let s := s.modLink n fun l =>
        let l := if cap.tEcho = 0 then l else l.measured ((s.time - cap.tEcho) - cap.tResid).toNat
        let tx (h : Nat) (g : BitVec 18) (r : Regs) := r.set (LNK_LANE_tx_spare.at h) (spareLane (g.setWidth 17))
        { l with
          peer := some cap
          peerAt := s.time
          regs := tx 1 cap.rxGood1 (tx 0 cap.rxGood0
            ((l.regs.set LNK_STAT_peer_chip cap.chipId.toNat).set LNK_STAT_peer_port (cap.port.toNat % 64))) }
      if s.admits && !s.capOk n cap then s.refusePeer n else s.capxTry n)

/-- LNK_CTL_ADMIT: Zhevber sets admit once it has checked the peer; one set before CAPX is held (R345, R374). -/
def execLnkCtlAdmit (n : Nat) (s : State) : Res :=
  onUnit (Instr.lnkCtlAdmit n).wf s
    (let l := s.link n
    let st := l.regs.get LNK_STAT_state
    let set (s : State) := s.modLinkRegs n fun r => r.set LNK_CTL_admit 1
    if !s.admits then s
    else if st = 1 ∨ st = 2 ∨ st = 3 then set s
    else if st ≠ 4 then s
    else match l.peer with
      | none => s
      | some c => if s.capOk n c then (set s).capxTry n else s.refusePeer n)

/-! ## Retrain and losses (R354) -/

/-- Retrain from ACTIVE: TRAIN with stored taps; the port leaves scheduled service (R120). Progress toward Deep ends with it. -/
def State.linkRetrain (s : State) (n : Nat) : State :=
  if !s.linkActive n then s
  else (s.modLink n fun l => { l.outOfSched with
      retraining := true, ready0 := 0, ready1 := 0, sts := [], task := if l.task.deep then .none else l.task
      regs := (l.regs.set LNK_CTL_retrain 0).bump LNK_STAT_retrains }).linkEnter n 2

/-- LINK_SET_RETRAIN: the retrain bit acts. -/
def execLinkSetRetrain (n : Nat) (s : State) : Res :=
  onUnit (Instr.linkSetRetrain n).wf s (if (s.link n).regs.flag LNK_CTL_retrain then s.linkRetrain n else s)

/-- PEER_ENTERS_TRAIN. -/
def execPeerEntersTrain (n : Nat) (s : State) : Res :=
  onUnit (Instr.peerEntersTrain n).wf s (s.linkRetrain n)

/-- A lane or clock lane is lost: an ACTIVE port retrains; one in QUIESCE goes DOWN when no half is left (R354, R359). -/
def State.laneLost (s : State) (n : Nat) : State :=
  if s.linkActive n then s.linkRetrain n
  else if (s.link n).regs.get LNK_STAT_state = 7 ∧ !(s.link n).usable then s.linkDown n 2 else s

/-- What the receiver of a lane says is counted: whether block lock was lost, and invalid sync headers, which the window adds up (R354, R365). -/
def Link.laneErrors (x : Link) (i : Nat) (lost : Bool) (hdrs : Nat) : Link :=
  let x := if lost then { x with regs := x.regs.bump (LNK_LANE_ERR_lock_loss.at i) } else x
  if hdrs = 0 then x else { x.countHeaders i hdrs with hdrs := aput x.hdrs i ((aget x.hdrs i).getD 0 + hdrs) }

/-- Does a lane fail by what its receiver says: it lost block lock, or its invalid headers reach lane_err_limit in the window (R354)? -/
def Link.laneFails (x : Link) (i : Nat) (lost : Bool) (hdrs : Nat) : Bool :=
  lost || decide (x.regs.get LNK_TMR_lane_err_limit ≤ (aget x.hdrs i).getD 0 + hdrs)

/-- LANE_FAIL: the receiver of a lane says whether block lock was lost, and how many invalid sync headers it has met since it last said so; a lane that
had not failed before fails by it or goes on. Lanes are watched from LOCK on. -/
def execLaneFail (n h l : Nat) (lost : Bool) (hdrs : Nat) (s : State) : Res :=
  onUnit (Instr.laneFail n h l lost hdrs).wf s
    (let x := s.link n
    let st := x.regs.get LNK_STAT_state
    if st < 3 ∨ st = 6 ∨ 7 < st then s
    else
      let s := s.modLink n fun x => x.laneErrors (laneIdx h l) lost hdrs
      if x.laneFails (laneIdx h l) lost hdrs && !(x.failed h).getLsbD l then
        (s.modLink n fun x => x.failLanes h (BitVec.ofNat 17 (2 ^ l))).laneLost n
      else s)

/-- CLOCK_LANE_FAIL: the forwarded clock of one half fails. -/
def execClockLaneFail (n h : Nat) (s : State) : Res :=
  onUnit (Instr.clockLaneFail n h).wf s
    (let st := (s.link n).regs.get LNK_STAT_state
    if st ≠ 5 ∧ st ≠ 7 then s
    else (s.modLink n fun l => if h = 0 then { l with clk0 := false } else { l with clk1 := false }).laneLost n)

/-- CLOCK_LOSS: the forwarded clock lost on every half in use (R354, R359). -/
def execClockLoss (n : Nat) (s : State) : Res :=
  onUnit (Instr.clockLoss n).wf s
    (let st := (s.link n).regs.get LNK_STAT_state
    if st = 5 ∨ st = 7 then s.linkDown n 1 else s)

/-! ## PRBS (R356) -/

/-- The length and the second tap of a PRBS pattern code. -/
def prbsShape (p : Nat) : Nat × Nat :=
  match p with
  | 0 => (7, 6)
  | 1 => (15, 14)
  | 2 => (23, 18)
  | _ => (31, 28)

/-- k output bits of the PRBS register of length n and second tap m, the first in bit 0, and the register after them: its bit n − 1 is the output
(log 38). -/
def prbsRun (n m k : Nat) (r : BitVec 31) : Nat × BitVec 31 :=
  match k with
  | 0 => (0, r)
  | k + 1 =>
    let o := r.getLsbD (n - 1)
    let q := prbsRun n m k (((r <<< 1) ||| BitVec.ofNat 31 (o ^^ r.getLsbD (m - 1)).toNat) &&& BitVec.ofNat 31 (2 ^ n - 1))
    (o.toNat + 2 * q.1, q.2)

/-- Are the last 64 of 95 bits, the latest in bit 94, correct: each follows from the bits before it by the pattern, which never runs through 0? -/
def prbsFollows (p : Nat) (invert : Bool) (rx : BitVec 95) : Bool :=
  let e := prbsShape p
  let b : BitVec 95 := if invert then ~~~rx else rx
  ((List.range e.1).any fun i => b.getLsbD (30 - i)) &&
    (List.range 64).all fun i => b.getLsbD (31 + i) == (b.getLsbD (31 + i - e.1) ^^ b.getLsbD (31 + i - e.2))

/-- PRBS_CHECKER_LOCK: the bits that a checker has received last hold 64 consecutive correct ones; it counts from here. -/
def execPrbsCheckerLock (n h l : Nat) (rx : BitVec 95) (s : State) : Res :=
  onUnit (Instr.prbsCheckerLock n h l rx).wf s
    (let r := (s.link n).regs
    if r.get LNK_STAT_state ≠ 8 ∨ !r.flag LNK_PRBS_CTL_chk_en ∨ r.flag (LNK_PRBS_CNT_locked.at (laneIdx h l)) ∨
        !prbsFollows (r.get LNK_PRBS_CTL_pattern) (r.flag LNK_PRBS_CTL_invert) rx then s
    else s.modLink n fun x => { x with
      prbs := aput x.prbs (laneIdx h l) ((aget x.prbs (laneIdx h l)).getD 0)
      regs := x.regs.set (LNK_PRBS_CNT_locked.at (laneIdx h l)) 1 })

/-- PRBS_CHECKER_UNLOCK: a locked checker counts the erroneous ones among the 1,024 bits it has compared last; with 64 of them it unlocks. -/
def execPrbsCheckerUnlock (n h l errs : Nat) (s : State) : Res :=
  onUnit (Instr.prbsCheckerUnlock n h l errs).wf s
    (let r := (s.link n).regs
    let i := laneIdx h l
    if r.get LNK_STAT_state ≠ 8 ∨ !r.flag (LNK_PRBS_CNT_locked.at i) then s
    else s.modLinkRegs n fun r => (if 64 ≤ errs then r.set (LNK_PRBS_CNT_locked.at i) 0 else r).add (LNK_PRBS_CNT_errors.at i) errs)

/-- Do the generators of a port run: in LOOP with gen_en set, unless its transmitters repeat what its receivers recover (R355, R356, R370)? -/
def Link.prbsSends (l : Link) : Bool :=
  l.regs.get LNK_STAT_state == 8 && l.regs.flag LNK_PRBS_CTL_gen_en && l.regs.get LNK_CTL_loop != 3

/-- Can generators go on in a pattern of length n: each of the 34 stands in its sequence, which does not hold 0? -/
def Link.gensStand (l : Link) (n : Nat) : Bool := l.gens.length == 34 && l.gens.all fun g => g.toNat % 2 ^ n != 0

/-- Start the 34 generators, each somewhere in its sequence: where, the spec does not say (free values, log 132). -/
def State.prbsStart (s : State) (n len : Nat) : State :=
  let a := (List.range 34).foldl (fun (a : List (BitVec 31) × State) _ =>
    (a.1 ++ [BitVec.ofNat 31 (1 + a.2.draw.1.toNat % (2 ^ len - 1))], a.2.draw.2)) ([], s)
  a.2.modLink n fun l => { l with gens := a.1, genAcc := 0 }

/-- The bits that the generators put on the 34 lanes in one ncyc: 64 Gb/s are 320/9 bits (R356). -/
def State.prbsSend (s : State) (n : Nat) : State :=
  if !(s.link n).prbsSends then
    (if (s.link n).gens.isEmpty then s else s.modLink n fun l => { l with gens := [], genAcc := 0 })
  else
    let e := prbsShape ((s.link n).regs.get LNK_PRBS_CTL_pattern)
    let s := if (s.link n).gensStand e.1 then s else s.prbsStart n e.1
    let l := s.link n
    let k := (l.genAcc + 320) / 9
    let qs := l.gens.map (prbsRun e.1 e.2 k)
    (s.modLink n fun l => { l with gens := qs.map (·.2), genAcc := (l.genAcc + 320) % 9 }).emit
      (.prbs n k (qs.map fun q => if l.regs.flag LNK_PRBS_CTL_invert then 2 ^ k - 1 - q.1 else q.1))

/-- One ncyc of counting: 64 Gb/s are 320/9 bits in an ncyc; `prbs` holds ninths of bits short of 65,536 (R371). -/
def Link.prbsTick (l : Link) : Link :=
  l.prbs.foldl (fun l e =>
    if !l.regs.flag (LNK_PRBS_CNT_locked.at e.1) then l
    else
      let a := e.2 + 320
      if a < 9 * 65536 then { l with prbs := aput l.prbs e.1 a }
      else { l with prbs := aput l.prbs e.1 (a - 9 * 65536), regs := l.regs.bump (LNK_PRBS_CNT_bits_64k.at e.1) }) l

/-! ## LINK_SET and LINK_QUIESCE (R431, R458, R358) -/

/-- Write the fields of LNK_CTL that LINK_SET names. -/
def Regs.linkSet (r : Regs) (k : Cmd) : Regs :=
  let b := k.arg 1 1
  let r := ((((r.set LNK_CTL_enable (bits b 0 1)).set LNK_CTL_detect_en (bits b 1 1)).set LNK_CTL_deep_allow (bits b 2 1)).set
    LNK_CTL_deep_req (bits b 3 1)).set LNK_CTL_eq_hold (bits b 4 1)
  let r := ((r.set LNK_CTL_width_max (k.arg 2 1)).set LNK_CTL_loop (k.arg 3 1)).set LNK_CTL_preset (k.arg 4 1)
  if bits b 5 1 = 1 then r.set LNK_CTL_retrain 1 else r

/-- LINK_SET: a retrain needs an ACTIVE port (R354), a loop a DISABLED one or one in LOOP (R355). -/
def execLinkSet (m : Nat) (s : State) : Res :=
  onUnit (Instr.linkSet m).wf s (s.plainCmd m 0x70 fun k s =>
    let n := k.arg 0 1
    if !linkOk n || !s.linkPresent n then s.badArg k 16
    else if 63 < k.arg 1 1 then s.badArg k 17
    else if 2 < k.arg 2 1 then s.badArg k 18
    else if 3 < k.arg 3 1 then s.badArg k 19
    else if 7 < k.arg 4 1 then s.badArg k 20
    else
      let st := (s.link n).regs.get LNK_STAT_state
      if (bits (k.arg 1 1) 5 1 = 1 ∧ st ≠ 5) ∨ (k.arg 3 1 ≠ 0 ∧ st ≠ 0 ∧ st ≠ 8) then s.finish k sREJECTED 3 []
      else ((s.modLinkRegs n fun r => r.linkSet k).settleCtl n).ok k)

/-- LINK_QUIESCE: Zhevber asks for the flip that removes the port, and the command waits for the detach (R358). -/
def execLinkQuiesce (m : Nat) (s : State) : Res :=
  onUnit (Instr.linkQuiesce m).wf s (s.plainCmd m 0x71 fun k s =>
    let n := k.arg 0 1
    if !linkOk n || !s.linkPresent n then s.badArg k 16
    else if !s.linkActive n || (s.link n).task != .none then s.finish k sREJECTED 3 []
    else (((s.modLink n fun l => { l with task := .quiesceFlip }).modChip fun h => { h with quiesce := h.quiesce ++ [(n, m)] }).requestFlip
      (.command m 0x71)).holdMbx k)

end Sys2Proof.Machine
end

