-- ==== Sys2Proof/Machine/Frames.lean ====
section
/-! DEFINITION. Frames of a link port (R44, R119, R202, R204, R285, R286, R347 to R354): translation, policing and delivery at ingress, the
two sequenced streams with their replay, the frame sent at each boundary, Deep and the detach. -/

namespace Sys2Proof.Machine

/-! ## Translation (R44, R219) -/

/-- An MCAST with echo clear crosses untranslated (R219). -/
def untranslated (p : Packet) : Bool := p.type == tMCAST && p.echo == 0

/-- Zhevber counts a translation parity error of a port in the window; half the limit of 4 is recorded, the limit retrains the port (R296,
R300). -/
def State.xlateError (s : State) (n : Nat) : State :=
  let s := s.modLink n fun l => { l with xlate := l.xlate + 1 }
  let k := (s.link n).xlate
  let s := if k = 2 ∨ k = 4 then s.zRecord (mkRec 0x07 3 (unitLink n) 7 0 0 k) else s
  if k = 4 then s.linkRetrain n else s

/-- The entry of a logical ID in the map of a port's region manager, and whether its parity is good (R517). -/
def State.linkMapEntry (s : State) (n lid : Nat) : Nat × Bool :=
  let e := (s.region (regionOf (linkCell n 0).1)).mapEntry lid
  (e, parityOk e)

/-- Egress: a packet that leaves its source chip takes its source's logical ID, its header check bytes computed anew (R35); one in transit passes
unchanged (R44). -/
def State.egressForm (s : State) (p : Packet) : Packet :=
  if untranslated p || p.logicalForm == 1 then p
  else Packet.regen { p with srcCell := BitVec.ofNat 14 (s.lidOf p.srcCell.toNat), logicalForm := 1 }

/-! ## Ingress of bulk packets (R44, R204, R350) -/

/-- Packets of an ingress buffer of a dynamic plane. -/
def Link.ingress (l : Link) (pl : Plane) : List Ingress := if pl = .reply then l.ingRep else l.ingReq

/-- Put a packet into the ingress buffer of a dynamic plane. -/
def Link.addIngress (l : Link) (pl : Plane) (x : Ingress) : Link :=
  if pl = .reply then { l with ingRep := l.ingRep ++ [x] } else { l with ingReq := l.ingReq ++ [x] }

/-- A NACK that a port raises goes onto the reply plane through its own edge input (R204). -/
def State.linkAnswer (s : State) (n half : Nat) (p : Packet) : State := s.modLink n fun l => l.addIngress .reply ⟨half, 0, p⟩

/-- Are the chips and cells a header names within their ranges (R37)? -/
def State.ingressLegal (s : State) (p : Packet) : Bool :=
  let cell (c : BitVec 14) : Bool := if p.logicalForm = 1 then logicalOk c.toNat else cellOk c.toNat
  s.chipOk p.dstChip.toNat && s.chipOk p.srcChip.toNat && cell p.dstCell && cell p.srcCell

/-- Check and translate a packet at ingress: the packet for delivery; none where it is discarded. A header out of range is counted, in a count of
the port's that no register shows (R37; log 61); at its destination chip a packet to a vacant cell draws the NACK FENCED for an answerable type
of a dynamic plane (R44, R111). A map entry with a parity error translates nothing: the packet is lost. -/
def State.ingressForm (s : State) (n half : Nat) (dyn : Bool) (p : Packet) : State × Option Packet :=
  if !s.ingressLegal p then (s.modLink n fun l => { l with illegal := l.illegal + 1 }, none)
  else if untranslated p || p.dstChip ≠ s.chipId then (s, some p)
  else
    let e := s.linkMapEntry n p.dstCell.toNat
    if !e.2 then (s.xlateError n, none)
    else match entryCell e.1 with
      | some c => (s, some (Packet.regen { p with dstCell := BitVec.ofNat 14 c, logicalForm := 0 }))
      | none => (if dyn && p.answerable then s.linkAnswer n half (nackFor p 8 0x3FFF) else s, none)

/-- The spillway of a port's ingress (R202, R204): whether the packet passes. -/
def State.linkPolice (s : State) (n half : Nat) (p : Packet) : State × Bool :=
  if p.dstChip ≠ s.chipId ∨ (p.cls ≠ 1 ∧ p.cls ≠ 2) then (s, true)
  else
    let q := s.gwPolice (s.link n).buckets p.parterre.toNat
    let s := s.modLink n fun l => { l with buckets := q.2 }
    if !q.1 then (s, true)
    else
      let s := s.modLinkRegs n fun r => (r.bump LNK_SPILL_policed).set LNK_SPILL_last_parterre p.parterre.toNat
      (if p.answerable then s.linkAnswer n half (nackFor p 4 (s.classOf p.parterre.toNat)) else s, false)

/-- An accepted dynamic packet: translation, policing on the request plane, then the ingress buffer; its epoch is stamped at delivery (R350). -/
def State.linkReceive (s : State) (n half : Nat) (pl : Plane) (p : Packet) : State :=
  match s.ingressForm n half true p with
  | (s, none) => s
  | (s, some p) =>
    let q := if pl = .request then s.linkPolice n half p else (s, true)
    if q.2 then q.1.modLink n fun l => l.addIngress pl ⟨half, 0, p⟩ else q.1

/-- Deliver what one half of a port has buffered on a dynamic plane: one packet in an ncyc in which the cell's edge output is presented free
and nothing stands on its edge input, in the decode stage of this ncyc (R26, R87, R350, R521). -/
def State.linkPresentOne (s : State) (n half : Nat) (pl : Plane) : State :=
  let e := linkCell n half
  match (s.link n).ingress pl |>.find? fun x => x.half == half with
  | none => s
  | some x =>
    if !s.edgeAccepts e.1 pl e.2 || !s.inputFree e.1 pl e.2 s.ncyc || s.stopped e.1 then s
    else
      let p := Packet.regen { x.pkt with epoch := (s.link n).epoch }
      (s.modLink n fun l =>
        if pl = .reply then { l with ingRep := dropFirst (fun y => y.half == half) l.ingRep }
        else { l with ingReq := dropFirst (fun y => y.half == half) l.ingReq }).modRt e.1 fun r =>
          (r.enter p.epoch.toNat).arrive pl ⟨e.2, s.ncyc, p⟩

/-- What a port's ingress delivers on the dynamic planes in one ncyc. -/
def State.linkPresent1 (s : State) (n : Nat) : State :=
  (((s.linkPresentOne n 0 .request).linkPresentOne n 1 .request).linkPresentOne n 0 .reply).linkPresentOne n 1 .reply

/-- An accepted scheduled packet (R119, R350): its egress ncyc is the latest one not after now with the bits carried; it is delivered exactly D
later, or dropped late. -/
def State.linkSched (s : State) (n half : Nat) (field : BitVec 10) (p : Packet) : State :=
  match s.ingressForm n half false p with
  | (s, none) => s
  | (s, some p) =>
    let egress := s.now - (s.now + 1024 - field.toNat) % 1024
    let t := egress + (s.link n).regs.get LNK_SCHED_sched_lat
    if t < s.now then s.modLinkRegs n fun r => r.bump LNK_SCHED_late_drop
    else s.modLink n fun l => { l with ingSched := l.ingSched ++ [⟨half, t, p⟩] }

/-! ## Streams (R352, R353) -/

/-- One of the two streams. -/
def Link.stream (l : Link) (rill : Bool) : LinkStream := if rill then l.rill else l.bulk
/-- Change one of the two streams. -/
def Link.modStream (l : Link) (rill : Bool) (f : LinkStream → LinkStream) : Link :=
  if rill then { l with rill := f l.rill } else { l with bulk := f l.bulk }

/-- Free the frames before an acknowledged seq, of which the low ten bits are given (R348, R352). -/
def LinkStream.ack (x : LinkStream) (field : BitVec 10) : LinkStream :=
  match x.sent with
  | [] => x
  | o :: _ =>
    let k := (field.toNat + 1024 - o.frame.seq.toNat % 1024) % 1024
    if k ≤ x.sent.length then { x with sent := x.sent.drop k } else x

/-- Mark every unacknowledged frame for sending again. -/
def LinkStream.rewind (x : LinkStream) : LinkStream := { x with sent := x.sent.map fun f => { f with again := true } }

/-- The NAK of a stream (R348, R353). -/
def Link.nakFrame (l : Link) (rill : Bool) : Frame :=
  let e := (l.stream rill).expect
  ⟨6, if rill then 1 else 0, e.setWidth 10, 0, l.bulk.next, .word e⟩

/-- A frame of a stream is lost: a NAK goes out, once until a frame is accepted or ack_timeout has passed (R353). -/
def State.linkNak (s : State) (n : Nat) (rill : Bool) : State :=
  let l := s.link n
  let due := match (l.stream rill).nakAt with
    | none => true
    | some t => decide (t + 16 * l.regs.get LNK_TMR_ack_timeout ≤ s.ncyc)
  if !due then s
  else ((s.modLink n fun l => { l.modStream rill (fun x => { x with nakAt := some s.ncyc }) with
    regs := l.regs.bump LNK_FRM_CNT_nak_sent }).linkEmit n (l.nakFrame rill))

/-- Start a replay of a stream: its unacknowledged frames go again in order; one replayed replay_limit times takes the port DOWN (R353). -/
def State.linkReplay (s : State) (n : Nat) (rill : Bool) : State :=
  let l := s.link n
  match (l.stream rill).sent with
  | [] => s
  | o :: _ =>
    if l.regs.get LNK_TMR_replay_limit ≤ o.replays then s.linkDown n 3
    else s.modLink n fun l => { l.modStream rill LinkStream.rewind with regs := l.regs.bump LNK_FRM_CNT_replays }

/-- The acknowledgement an acknowledging frame carries. -/
def State.linkAck (s : State) (n : Nat) (f : Frame) : State := s.modLink n fun l => l.modStream (f.stream == 1) fun x => x.ack f.field

/-- Accept a sequenced frame of the expected seq with a good crc; any other is discarded (R353). -/
def State.linkAccept (s : State) (n : Nat) (rill : Bool) (f : Frame) (ok : Bool) (g : State → State) : State :=
  if ok && f.seq == ((s.link n).stream rill).expect then
    g (s.modLink n fun l => l.modStream rill fun x => { x with expect := x.expect + 1, nakAt := none })
  else s.linkNak n rill

/-- A frame that fails its crc, or whose kind or body is none of R348: discarded, counted, treated as lost (R349). -/
def State.badFrame (s : State) (n : Nat) (rill : Bool) : State := (s.modLinkRegs n fun r => r.bump LNK_FRM_CNT_crc_err).linkNak n rill

/-- A frame that arrives at a port that carries frames. -/
def State.onFrame (s : State) (n : Nat) (g : State → State) : State := if (s.link n).carries then g s else s

/-- Packets an ingress buffer of a dynamic plane holds (R350). -/
def ingressSize : Nat := 64

/-- A frame with a dynamic packet: one that finds its buffer full is counted and recovered as a lost frame (R350). -/
def State.dynFrame (s : State) (n : Nat) (pl : Plane) (f : Frame) : State :=
  s.onFrame n fun s =>
    match f.body with
    | .packet p =>
      let s := s.linkAck n f
      let l := s.link n
      let full := decide (ingressSize ≤ (l.ingress pl).length)
      let s := if full && f.seq == l.bulk.expect then s.modLinkRegs n fun r => r.bump LNK_FRM_CNT_ingress_full else s
      s.linkAccept n false f (!full) fun s => s.linkReceive n f.cell.toNat pl p
    | _ => s.badFrame n false

/-- FRAME_REQ. -/
def execFrameReq (n : Nat) (f : Frame) (s : State) : Res := onUnit (Instr.frameReq n f).wf s (s.dynFrame n .request f)

/-- FRAME_REP. -/
def execFrameRep (n : Nat) (f : Frame) (s : State) : Res := onUnit (Instr.frameRep n f).wf s (s.dynFrame n .reply f)

/-- FRAME_SCHED: its field carries the egress ncyc, no acknowledgement; a full buffer of 32 is met as a full dynamic one is. -/
def execFrameSched (n : Nat) (f : Frame) (s : State) : Res :=
  onUnit (Instr.frameSched n f).wf s
    (s.onFrame n fun s =>
      match f.body with
      | .packet p =>
        let full := decide (32 ≤ (s.link n).ingSched.length)
        let s := if full && f.seq == (s.link n).bulk.expect then s.modLinkRegs n fun r => r.bump LNK_FRM_CNT_ingress_full else s
        s.linkAccept n false f (!full) fun s => s.linkSched n f.cell.toNat f.field p
      | _ => s.badFrame n false)

/-- Credits that a RILL frame returns: the cumulative counts of VC1 to VC3 (R351). -/
def Link.credited (l : Link) (c1 c2 c3 : BitVec 12) : Link :=
  let put (b : Assoc RillBal) (v : Nat) (c : BitVec 12) := aput b v { balOf b v with credRecv := c }
  { l with rillBal := put (put (put l.rillBal 1 c1) 2 c2) 3 c3 }

/-- FRAME_RILL: a sequence of four flits, or none; other counts are a partial sequence, discarded (R351). -/
def execFrameRill (n : Nat) (f : Frame) (s : State) : Res :=
  onUnit (Instr.frameRill n f).wf s
    (s.onFrame n fun s =>
      match f.body with
      | .rill flits c1 c2 c3 =>
        (s.linkAck n f).linkAccept n true f true fun s =>
          let s := s.modLink n fun l => l.credited c1 c2 c3
          match flits with
          | [] => s
          | [a, b, c, d] => s.modLink n fun l =>
              let v := b.vc.toNat
              let k := balOf l.rillBal v
              { l with rillIng := l.rillIng ++ [a, b, c, d], rillBal := aput l.rillBal v { k with recv := k.recv + 4 } }
          | _ => s.modLinkRegs n fun r => r.bump LNK_RILL_seq_drop
      | _ => s.badFrame n true)

/-- After a retrain a stream goes on from the peer's expected seq, which its first IDLE frames name (R354). -/
def State.linkResume (s : State) (n : Nat) (rill : Bool) : State :=
  s.modLink n fun l => l.modStream rill fun x => if x.resume then { x.rewind with resume := false } else x

/-- FRAME_IDLE: an acknowledgement; a next seq beyond the expected one shows a lost tail (R348, R353). -/
def execFrameIdle (n : Nat) (f : Frame) (s : State) : Res :=
  onUnit (Instr.frameIdle n f).wf s
    (s.onFrame n fun s =>
      match f.body with
      | .word rillNext =>
        let s := (s.linkAck n f).linkResume n (f.stream == 1)
        let ahead (next expect : BitVec 16) : Bool := next != expect && decide ((next - expect).toNat < 32768)
        let s := if ahead f.seq (s.link n).bulk.expect then s.linkNak n false else s
        if ahead rillNext (s.link n).rill.expect then s.linkNak n true else s
      | _ => s.badFrame n false)

/-- FRAME_NAK: the named stream is sent again from the expected seq (R353). -/
def execFrameNak (n : Nat) (f : Frame) (s : State) : Res :=
  onUnit (Instr.frameNak n f).wf s (s.onFrame n fun s => (s.linkAck n f).linkReplay n (f.stream == 1))

/-- FRAME_CRC_FAIL. -/
def execFrameCrcFail (n : Nat) (rill : Bool) (s : State) : Res :=
  onUnit (Instr.frameCrcFail n rill).wf s (s.onFrame n fun s => s.badFrame n rill)

/-- ACK_TIMEOUT: the oldest unacknowledged frame of a stream has waited ack_timeout (R353). -/
def execAckTimeout (n : Nat) (rill : Bool) (s : State) : Res :=
  onUnit (Instr.ackTimeout n rill).wf s
    (s.onFrame n fun s =>
      match ((s.link n).stream rill).sent with
      | o :: _ => if !o.again && decide (o.sentAt + 16 * (s.link n).regs.get LNK_TMR_ack_timeout ≤ s.ncyc) then s.linkReplay n rill else s
      | [] => s)

/-! ## FRAME_BOUNDARY (R286, R350, R352, R353) -/

/-- The stream that the next acknowledging frame names: the one that has progressed since it was last named; the two in turn when both have, and in
IDLE frames (R352, R354). -/
def Link.ackTurn (l : Link) (idle : Bool) : Bool :=
  let b := l.bulk.expect != l.bulk.acked
  let r := l.rill.expect != l.rill.acked
  if idle || (b && r) then !l.ackRill else r

/-- Fill the acknowledgement of a frame and note it. -/
def Link.withAck (l : Link) (idle : Bool) (f : Frame) : Link × Frame :=
  let t := l.ackTurn idle
  let e := (l.stream t).expect
  ({ l.modStream t (fun x => { x with acked := e }) with ackRill := t }, { f with stream := if t then 1 else 0, field := e.setWidth 10 })

/-- Send a frame; an acknowledging one carries its acknowledgement. -/
def State.linkOut (s : State) (n : Nat) (ack idle : Bool) (f : Frame) : State :=
  if ack then
    let r := (s.link n).withAck idle f
    (s.modLink n fun _ => r.1).linkEmit n r.2
  else s.linkEmit n f

/-- Is the departure of a rill frame that of a time flit of a subtype (R384)? -/
def timeFlit (flits : List Flit) : Option Flit :=
  match flits with
  | [_, b, _, _] => if b.kind == kTIME then some b else none
  | _ => none

/-- The departure of a time flit for the first time: SYNC starts t1 of the exchange; a RESP is followed by FOLLOW with its departure (R384,
R385). -/
def State.timeDeparts (s : State) (n : Nat) (flits : List Flit) : State :=
  match timeFlit flits with
  | none => s
  | some b =>
    if b.aux = 0 then s.modLink n fun l => { l with exch := l.exch.map fun x => { x with t1 := s.time, since := s.ncyc } }
    else if b.aux = 1 ∨ b.aux = 5 then
      let f := mkFlit 2 0x11 0 (linkCell n 0).1 2 s.time
      s.sendSeq n (s.ownRoute n f) f
    else s

/-- Take a frame marked for replay: the frame, and the stream with it sent again in this ncyc. -/
def LinkStream.takeAgain (x : LinkStream) (now : Nat) : Option (Frame × LinkStream) :=
  match x.sent.find? fun f => f.again with
  | none => none
  | some f => some (f.frame, { x with sent := x.sent.map fun g =>
      if g.frame.seq = f.frame.seq then { g with again := false, sentAt := now, replays := g.replays + 1 } else g })

/-- Send a new frame of a stream: it takes the stream's next seq and waits for its acknowledgement. -/
def State.linkNew (s : State) (n : Nat) (rill ack : Bool) (f : Frame) : State :=
  let f := { f with seq := ((s.link n).stream rill).next }
  (s.modLink n fun l => l.modStream rill fun x => { x with next := x.next + 1, sent := x.sent ++ [⟨f, s.ncyc, 0, false⟩] }).linkOut n ack false f

/-- Unacknowledged frames a stream may have (R352). -/
def windowOf (rill : Bool) : Nat := if rill then 16 else 240

/-- May a stream send something new? -/
def Link.windowOpen (l : Link) (rill : Bool) : Bool :=
  !(l.stream rill).resume && decide ((l.stream rill).sent.length < windowOf rill)

/-- Does a rill frame wait: one to replay, or a new one? -/
def Link.rillWaits (l : Link) : Bool :=
  !l.rill.resume && (l.rill.sent.any (fun f => f.again) || (!l.rillOut.isEmpty && l.windowOpen true))

/-- Does a bulk frame wait: one to replay, or a staged packet that may go? -/
def Link.bulkWaits (l : Link) : Bool :=
  !l.bulk.resume && (l.bulk.sent.any (fun f => f.again) ||
    (l.windowOpen false && !(l.stagSched.isEmpty && l.stagReq.isEmpty && l.stagRep.isEmpty)))

/-- Send a rill frame: a replay first. -/
def State.sendRill (s : State) (n : Nat) : State :=
  let l := s.link n
  match l.rill.takeAgain s.ncyc with
  | some (f, x) => (s.modLink n fun l => { l with rill := x }).linkOut n true false f
  | none =>
    match l.rillOut with
    | [] => s
    | q :: r =>
      let cred (v : Nat) := (balOf l.rillBal v).credSent
      ((s.modLink n fun l => { l with rillOut := r, owedSince := none }).linkNew n true true
        ⟨4, 0, 0, 0, 0, .rill q (cred 1) (cred 2) (cred 3)⟩).timeDeparts n q

/-- Send a bulk frame: a replay first, then the oldest scheduled packet, then reply and request in alternation (R350). -/
def State.sendBulk (s : State) (n : Nat) : State :=
  let l := s.link n
  let out (kind : BitVec 4) (x : Staged) (field : BitVec 10) : Frame := ⟨kind, 0, field, BitVec.ofNat 1 x.half, 0, .packet (s.egressForm x.pkt)⟩
  match l.bulk.takeAgain s.ncyc with
  | some (f, x) => (s.modLink n fun l => { l with bulk := x }).linkOut n (f.kind != 3) false f
  | none =>
    match l.stagSched with
    | x :: r => (s.modLink n fun l => { l with stagSched := r }).linkNew n false false (out 3 x (BitVec.ofNat 10 x.egress))
    | [] =>
      let rep (s : State) (x : Staged) (r : List Staged) :=
        (s.modLink n fun l => { l with stagRep := r, altRep := true }).linkNew n false true (out 2 x 0)
      let req (s : State) (x : Staged) (r : List Staged) :=
        (s.modLink n fun l => { l with stagReq := r, altRep := false }).linkNew n false true (out 1 x 0)
      match l.stagRep, l.stagReq with
      | x :: r, [] => rep s x r
      | [], x :: r => req s x r
      | x :: r, y :: q => if l.altRep then req s y q else rep s x r
      | [], [] => s

/-- The IDLE of a port (R348). -/
def Link.idleFrame (l : Link) : Frame := ⟨5, 0, 0, 0, l.bulk.next, .word l.rill.next⟩

/-- FRAME_BOUNDARY: a waiting rill frame goes ahead of the next bulk frame; after 16 in a row one waiting bulk frame goes first (R286). In LOCK
the port sends IDLE frames alone (R339). -/
def execFrameBoundary (n : Nat) (s : State) : Res :=
  onUnit (Instr.frameBoundary n).wf s
    (let l := s.link n
    if l.regs.get LNK_STAT_state = 3 then s.linkOut n true true l.idleFrame
    else if !l.carries then s
    else if l.rillWaits && !(decide (16 ≤ l.rillRun) && l.bulkWaits) then
      (s.modLink n fun l => { l with
        rillRun := l.rillRun + 1
        regs := if l.bulkWaits then l.regs.bump LNK_RILL_preempt else l.regs }).sendRill n
    else if l.bulkWaits then
      (s.modLink n fun l => { l with
        rillRun := 0
        regs := if l.rillWaits then l.regs.bump LNK_RILL_bulk_turns else l.regs }).sendBulk n
    else (s.modLink n fun l => { l with rillRun := 0 }).linkOut n true true l.idleFrame)

/-- RILL_CREDIT_FRAME: credits owed for 16 ncyc with no sequence to send go in a RILL frame without one (R351). -/
def execRillCreditFrame (n : Nat) (s : State) : Res :=
  onUnit (Instr.rillCreditFrame n).wf s
    (s.onFrame n fun s =>
      let l := s.link n
      match l.owedSince with
      | none => s
      | some t =>
        if l.rillOut.isEmpty && decide (t + 16 ≤ s.ncyc) then s.modLink n fun l => { l with rillOut := [[]], owedSince := none } else s)

/-! ## Deep (R357) -/

/-- Is a port drained: nothing staged, every frame acknowledged? -/
def Link.drained (l : Link) : Bool :=
  l.stagReq.isEmpty && l.stagRep.isEmpty && l.stagSched.isEmpty && l.bulk.sent.isEmpty && l.rill.sent.isEmpty

/-- The DEEP frame of a code: 0 request, 1 accept, 2 refuse. -/
def Link.deepFrame (l : Link) (code : Nat) : Frame := ⟨9, 0, 0, 0, l.bulk.next, .code code⟩

/-- Enter DEEP; the port leaves scheduled service. -/
def State.linkDeep (s : State) (n : Nat) : State :=
  (s.modLink n fun l => { l.outOfSched with task := .none, deepMine := l.regs.flag LNK_CTL_deep_req }).linkEnter n 6

/-- Drive the wake tone and leave DEEP through LOCK. -/
def State.linkWake (s : State) (n : Nat) : State :=
  ((s.modLink n fun l => { l with task := .waking s.ncyc }).emit (.waveTone n)).linkLock n

/-- LINK_SET_DEEP_REQ: with deep_req set an ACTIVE port holds its edge outputs busy and drains. -/
def execLinkSetDeepReq (n : Nat) (s : State) : Res :=
  onUnit (Instr.linkSetDeepReq n).wf s
    (if s.linkActive n && (s.link n).regs.flag LNK_CTL_deep_req && (s.link n).task == .none then
      s.modLink n fun l => { l with task := .deepHold }
    else s)

/-- LINK_SET_DEEP_RELEASE: with deep_req clear, a port that asked for Deep wakes, one still on its way stays ACTIVE; one that waits for the
peer's answer waits on. -/
def execLinkSetDeepRelease (n : Nat) (s : State) : Res :=
  onUnit (Instr.linkSetDeepRelease n).wf s
    (let l := s.link n
    if l.regs.flag LNK_CTL_deep_req then s
    else if l.regs.get LNK_STAT_state = 6 then (if l.deepMine then s.linkWake n else s)
    else if l.task.deep && l.task != .deepAsked then s.modLink n fun l => { l with task := .none } else s)

/-- DEEP_DRAINED: the request goes out. -/
def execDeepDrained (n : Nat) (s : State) : Res :=
  onUnit (Instr.deepDrained n).wf s
    (let l := s.link n
    if l.task == .deepHold && l.drained then (s.modLink n fun l => { l with task := .deepAsked }).linkEmit n (l.deepFrame 0) else s)

/-- DEEP_RETRY: the 10 µs retry while deep_req stays set. -/
def execDeepRetry (n : Nat) (s : State) : Res :=
  onUnit (Instr.deepRetry n).wf s
    (let l := s.link n
    match l.task with
    | .deepRetry t =>
      if s.ncyc < t then s
      else if !l.regs.flag LNK_CTL_deep_req then s.modLink n fun l => { l with task := .none }
      else (s.modLink n fun l => { l with task := .deepAsked }).linkEmit n (l.deepFrame 0)
    | _ => s)

/-- FRAME_DEEP_REQUEST: a request that meets a request counts as accept on both sides; else accept with deep_allow set and this side drained,
or refuse. -/
def execFrameDeepRequest (n : Nat) (s : State) : Res :=
  onUnit (Instr.frameDeepRequest n).wf s
    (let l := s.link n
    if !s.linkActive n then s
    else if l.task == .deepAsked then s.linkDeep n
    else if l.regs.flag LNK_CTL_deep_allow && l.drained then (s.linkEmit n (l.deepFrame 1)).linkDeep n
    else s.linkEmit n (l.deepFrame 2))

/-- FRAME_DEEP_ACCEPT. -/
def execFrameDeepAccept (n : Nat) (s : State) : Res :=
  onUnit (Instr.frameDeepAccept n).wf s (if s.linkActive n && (s.link n).task == .deepAsked then s.linkDeep n else s)

/-- FRAME_DEEP_REFUSE: the port retries after 10 µs while deep_req stays set. -/
def execFrameDeepRefuse (n : Nat) (s : State) : Res :=
  onUnit (Instr.frameDeepRefuse n).wf s
    (if (s.link n).task != .deepAsked then s
    else s.modLink n fun l => { l with task := if l.regs.flag LNK_CTL_deep_req then .deepRetry (s.ncyc + 10 * usNcyc) else .none })

/-- WAKE_TONE: a port in DEEP answers with its own and leaves; one that is about to enter DEEP enters and leaves it at once (R361). -/
def execWakeTone (n : Nat) (s : State) : Res :=
  onUnit (Instr.wakeTone n).wf s
    (if (s.link n).regs.get LNK_STAT_state = 6 then s.linkWake n
    else if s.linkActive n && (s.link n).task == .deepAsked then (s.linkDeep n).linkWake n else s)

/-- A rill sequence that waits for a port in Deep wakes it. -/
def State.rillWakes (s : State) (n : Nat) : State :=
  if (s.link n).regs.get LNK_STAT_state = 6 ∧ (s.link n).rillOut ≠ [] then s.linkWake n else s

/-- DEEP_EXIT_TIMEOUT: not ACTIVE within 100 µs of the wake. -/
def execDeepExitTimeout (n : Nat) (s : State) : Res :=
  onUnit (Instr.deepExitTimeout n).wf s
    (match (s.link n).task with
    | .waking t => if t + 100 * usNcyc ≤ s.ncyc then s.linkDown n 7 else s
    | _ => s)

/-! ## Detach (R358) -/

/-- The QUIESCE frame: 0 request, 1 done. -/
def Link.quiesceFrame (l : Link) (code : Nat) : Frame := ⟨8, 0, 0, 0, l.bulk.next, .code code⟩

/-- An ACTIVE port whose quiesce bit is written enters QUIESCE (R358). -/
def State.quiesceGo (s : State) (n : Nat) : State :=
  (s.modLink n fun l => { l.outOfSched with task := .quiescing false, regs := l.regs.set LNK_CTL_quiesce 1 }).linkEnter n 7

/-- QUIESCE_START: the flip that removed the port has freed its old version; quiesce is written. -/
def execQuiesceStart (n : Nat) (s : State) : Res :=
  onUnit (Instr.quiesceStart n).wf s
    (if (s.link n).task != .quiesceFlip || !s.linkActive n || s.chip.flip.isSome || (s.build s.chip.active.toNat).ports.contains n then s
    else s.quiesceGo n)

/-- QUIESCE_DRAINED: the request goes out; a side whose peer has asked answers done with it. -/
def execQuiesceDrained (n : Nat) (s : State) : Res :=
  onUnit (Instr.quiesceDrained n).wf s
    (let l := s.link n
    if l.regs.get LNK_STAT_state ≠ 7 ∨ l.task ≠ .quiescing false ∨ !l.drained ∨ l.rillOut ≠ [] then s
    else
      let s := (s.modLink n fun l => { l with task := .quiescing true }).linkEmit n (l.quiesceFrame 0)
      if l.peerAsked then s.linkEmit n (l.quiesceFrame 1) else s)

/-- FRAME_QUIESCE_REQUEST: Zhevber runs the detach on this side; a side that has sent its own request answers done (R358). -/
def execFrameQuiesceRequest (n : Nat) (s : State) : Res :=
  onUnit (Instr.frameQuiesceRequest n).wf s
    (s.onFrame n fun s =>
      let l := s.link n
      let s := s.modLink n fun l => { l with peerAsked := true }
      match l.task with
      | .quiescing true => s.linkEmit n (l.quiesceFrame 1)
      | .quiescing false => s
      | .quiesceFlip => s
      | _ => if s.zRuns then (s.modLink n fun l => { l with task := .quiesceFlip }).requestFlip .follow else s)

/-- FRAME_QUIESCE_DONE: after its own request the port goes DOWN with cause 4. -/
def execFrameQuiesceDone (n : Nat) (s : State) : Res :=
  onUnit (Instr.frameQuiesceDone n).wf s
    (if (s.link n).regs.get LNK_STAT_state = 7 ∧ (s.link n).task = .quiescing true then s.linkDown n 4 else s)

/-! ## Rill sequences at ingress (R285, R351, R389, R430) -/

/-- A sequence is rejected: counted, with its AUTH event; the eighth in a row locks the port's rill (R429, R430). -/
def State.seqReject (s : State) (n : Nat) (ctr : W64) : State :=
  let k := (s.link n).fails + 1
  let s := s.modLink n fun l => { l with fails := k, regs := l.regs.bump LNK_RILL_auth_fail }
  let body (locked : Nat) := BitVec.ofNat 64 (3 + locked * 4 + 8 + n * 2 ^ 8)
  let s := s.post 0x08 (unitLink n) (body 0) ctr
  if k = 8 then (s.modLink n fun l => { l with locked := true }).post 0x08 (unitLink n) (body 1) ctr else s

/-- Take the sequence at the front of a port's ingress and return its four credits (R276, R351). -/
def State.seqTake (s : State) (n : Nat) : State :=
  s.modLink n fun l =>
    let v := ((l.rillIng.getD 1 ⟨0, 0, 0, 0, 0, 0, 0, 0⟩).vc).toNat
    let b := balOf l.rillBal v
    { l with rillIng := l.rillIng.drop 4, rillBal := aput l.rillBal v { b with credSent := b.credSent + 4 },
             owedSince := some (l.owedSince.getD s.ncyc) }

/-- The sequence at the front of a port's ingress: ROUTE, body, CTR, TAG. -/
def Link.frontSeq (l : Link) : Option (Flit × Flit × Flit × Flit) :=
  match l.rillIng with
  | a :: b :: c :: d :: _ => some (a, b, c, d)
  | _ => none

/-- Is the front sequence one of time, of a subtype? -/
def Link.frontTime (l : Link) (aux : BitVec 3) : Bool :=
  match l.frontSeq with
  | some (_, b, _, _) => b.kind == kTIME && b.aux == aux
  | none => false

/-- Check the front sequence and take it: an accepted one goes on with its ROUTE and body. While slot 3 is unusable, or after the lock, every
sequence is discarded (R285, R430). -/
def State.seqCheck (s : State) (n : Nat) (g : State → Flit → Flit → State) : State :=
  let l := s.link n
  match l.frontSeq with
  | none => s
  | some (a, b, c, d) =>
    let s := s.seqTake n
    if !s.slot3 || l.locked then s
    else if a.kind == kROUTE && c.kind == kCTR && d.kind == kTAG && decide (l.ctrRecv.toNat < c.payload.toNat) &&
        d.payload == s.seqTag a { b with seg := 2 } c.payload then
      g (s.modLink n fun l => { l with ctrRecv := c.payload, fails := 0 }) a b
    else s.seqReject n c.payload

/-- Put a flit into the edge rill input of cell 0 of a port. -/
def State.edgeRill (s : State) (n : Nat) (f : Flit) : State :=
  s.modRt (linkCell n 0).1 fun r => { r with rillIn := r.rillIn ++ [⟨5, s.ncyc, f⟩] }

/-- An accepted body enters the mesh: a tree flit by itself; a CMSG or CNACK behind its ROUTE, whose destination cell becomes physical on the
destination chip (R285). Other kinds never cross a link. -/
def State.seqDeliver (s : State) (n : Nat) (route body : Flit) : State :=
  if body.tree then (if body.dst.toNat % 16 = 1 then s.edgeRill n { body with seg := 0 } else s)
  else if body.kind == kCMSG || body.kind == kCNACK then
    let pair (s : State) (dst : BitVec 14) := (s.edgeRill n { route with seg := 1, dst := dst }).edgeRill n { body with seg := 3, dst := dst }
    if route.dstChip ≠ s.chipId.toNat then pair s 0
    else
      let e := s.linkMapEntry n route.dstLid
      match if logicalOk route.dstLid then entryCell e.1 else none with
      | some c => if e.2 then pair s (BitVec.ofNat 14 c) else s.xlateError n
      | none => if body.kind == kCMSG then s.cnackFor (linkCell n 0).1 (some route) body 8 else s
  else s

/-- RILL_SEQUENCE_INGRESS: the sequence at the front, but for those of time, which the port consumes itself (R384). It waits while the mesh
input has no room. -/
def execRillSequenceIngress (n : Nat) (s : State) : Res :=
  onUnit (Instr.rillSequenceIngress n).wf s
    (match (s.link n).frontSeq with
    | none => s
    | some (_, b, _, _) =>
      if b.kind == kTIME || decide (30 < (s.rt (linkCell n 0).1).rillOcc 5 b.vc.toNat) then s
      else s.seqCheck n fun s r b => s.seqDeliver n r b)

end Sys2Proof.Machine
end

