-- ==== Sys2Proof/Machine/Time.lean ====
section
/-! DEFINITION. Clepsydra time across chips (R383 to R387, R391, R400, R459): exchanges with the parent, joining, slews, locking and unlocking, and
the mailbox commands SET_IDENTITY and SET_TIME. -/

namespace Sys2Proof.Machine

/-! ## Events and locking -/

/-- The parent port as CHP_TIME_STAT and the TIME event show it, 63 for none (R395). -/
def State.parentNo (s : State) : Nat := s.parentPort.getD 63

/-- The residual: the last offset in eighths, signed (R395). -/
def State.residual (s : State) : Int := (BitVec.ofNat 16 (s.chget CHP_TIME_STAT_residual)).toInt

/-- A TIME event (R435). -/
def State.timeEvent (s : State) : State :=
  s.post 0x0B unitChip (BitVec.ofNat 64 (s.chip.locked.toNat + s.chget CHP_TIME_STAT_holdover * 2 + s.parentNo * 2 ^ 8 +
    (BitVec.ofInt 32 s.residual).toNat * 2 ^ 32)) 0

/-- Set locked: step 12 is done (R386, R450). -/
def State.timeLock (s : State) : State :=
  if s.chip.locked then s
  else (((s.modChip fun h => { h with locked := true, lastGood := s.ncyc }).modChipRegs fun r => r.set CHP_TIME_STAT_holdover 0).setStep 12).timeEvent

/-- Clear locked: counted, recorded (with class 0, the spec naming none: log 40), and every link port leaves scheduled service (R387). The
chip rejoins from the start. -/
def State.timeUnlock (s : State) : State :=
  if !s.chip.locked then s
  else
    let s := s.modChip fun h => { h with locked := false, stepSent := false, pendStep := none }
    let s := s.modChipRegs fun r => (r.bump CHP_TIME_STAT_unlocks).set CHP_TIME_STAT_holdover 0
    let s := { s with links := s.links.mapAll fun l => { l.outOfSched with offsets := [] } }
    (s.zRecord (mkRec 0 3 unitChip 7 0 0 0)).timeEvent

/-! ## The parent's side (R384) -/

/-- Take a time sequence of a subtype at the front of a port. -/
def State.onTime (s : State) (n : Nat) (aux : BitVec 3) (g : State → Flit → State) : State :=
  if (s.link n).frontTime aux then s.seqCheck n fun s _ b => g s b else s

/-- May a port send a sequence of VC2 now (R351, R430)? -/
def State.timeRoom (s : State) (n : Nat) : Bool :=
  let b := balOf (s.link n).rillBal 2
  s.linkActive n && s.slot3 && decide ((b.sent - b.credRecv).toNat + 4 ≤ 32)

/-- Send a time flit of a port's own (R384). -/
def State.sendTime (s : State) (n aux : Nat) (v : W64) : State :=
  let f := mkFlit 2 0x11 0 (linkCell n 0).1 aux v
  s.sendSeq n (s.ownRoute n f) f

/-- TIME_SYNC: answered by RESP when this chip is locked, else by RESP_U, with the time of its arrival. -/
def execTimeSync (n : Nat) (s : State) : Res :=
  onUnit (Instr.timeSync n).wf s
    (s.onTime n 0 fun s _ => if s.timeRoom n then s.sendTime n (if s.chip.locked then 1 else 5) s.time else s)

/-! ## The child's side (R385 to R387) -/

/-- Change the exchange under way at a port. -/
def State.modExch (s : State) (n : Nat) (f : TimeExch → TimeExch) : State := s.modLink n fun l => { l with exch := l.exch.map f }

/-- TIME_RESP. -/
def execTimeResp (n : Nat) (s : State) : Res :=
  onUnit (Instr.timeResp n).wf s (s.onTime n 1 fun s b => s.modExch n fun x => { x with t2 := some b.payload, t4 := some s.time })

/-- TIME_RESP_U. -/
def execTimeRespU (n : Nat) (s : State) : Res :=
  onUnit (Instr.timeRespU n).wf s
    (s.onTime n 5 fun s b => s.modExch n fun x => { x with t2 := some b.payload, t4 := some s.time, unlocked := true })

/-- An exchange is rejected. -/
def State.exchReject (s : State) (n : Nat) : State :=
  s.modLink n fun l => { l with exch := none, regs := l.regs.bump LNK_TIME_rejected }

/-- The mean of the stored values of θ (R385). -/
def meanOf (l : List Int) : Int := l.foldl (· + ·) 0 / (l.length : Int)

/-- Send a time flit from the Fountaineer to every region manager (R384). -/
def State.timeToRegions (s : State) (aux : Nat) (v : W64) : State :=
  s.forEach (List.range 16) fun s r => s.rillSendAs s.cornerRoot rkFtn (mkFlit 2 0x11 (rmCell r) s.cornerRoot aux v)

/-- The offset is new: a locked chip slews or unlocks; one that joins steps after 16 exchanges, and locks after 16 further ones within lock_tol
(R386, R387). -/
def State.offsetNew (s : State) (n : Nat) (off : Int) : State :=
  let tol := s.chget CHP_TIME_CTL_lock_tol
  let full := (s.link n).offsets.length == 16
  if s.chip.locked then
    if tol < off.natAbs then s.timeUnlock
    else
      let due := match s.chip.lastSlew with
        | none => true
        | some t => decide (t + 1024 ≤ s.ncyc)
      if off != 0 && due then
        (s.modChip fun h => { h with lastSlew := some s.ncyc }).timeToRegions 4 (if 0 < off then 1 else 2)
      else s
  else if !full then s
  else if !s.chip.stepSent then (s.modChip fun h => { h with stepSent := true }).timeToRegions 3 (BitVec.ofInt 64 off)
  else if s.chip.pendStep.isNone && decide (off.natAbs ≤ tol) then s.timeLock
  else s

/-- An exchange is accepted with a value of θ. -/
def State.exchAccept (s : State) (n : Nat) (theta : Int) : State :=
  let offs := (theta :: (s.link n).offsets).take 16
  let off := meanOf offs
  let s := s.modLink n fun l => { l with
    exch := none, offsets := offs, regs := (l.regs.bump LNK_TIME_accepted).set LNK_TIME_offset (BitVec.ofInt 32 off).toNat }
  let s := (s.modChip fun h => { h with lastGood := s.ncyc }).modChipRegs fun r =>
    (r.set CHP_TIME_STAT_residual (BitVec.ofInt 16 off).toNat).set CHP_TIME_STAT_holdover 0
  s.offsetNew n off

/-- TIME_FOLLOW: the exchange is complete, and accepted when the parent is locked, its delay lies within 16 eighths of one_way, and the FOLLOW came
within 10 µs of the SYNC. -/
def execTimeFollow (n : Nat) (s : State) : Res :=
  onUnit (Instr.timeFollow n).wf s
    (s.onTime n 2 fun s b =>
      match (s.link n).exch with
      | none => s
      | some x =>
        match x.t2, x.t4 with
        | some t2, some t4 =>
          let fwd := (t2 - x.t1).toInt
          let bwd := (t4 - b.payload).toInt
          let theta := (fwd - bwd) / 2
          let d := (fwd + bwd) / 2
          let off := d - ((s.link n).regs.get LNK_LAT_one_way : Int)
          if !x.unlocked && decide (off.natAbs ≤ 16) && decide (s.ncyc ≤ x.since + 10 * usNcyc) then s.exchAccept n theta
          else s.exchReject n
        | _, _ => s.exchReject n)

/-- TIME_FOLLOW_TIMEOUT. -/
def execTimeFollowTimeout (n : Nat) (s : State) : Res :=
  onUnit (Instr.timeFollowTimeout n).wf s
    (match (s.link n).exch with
    | some x => if x.since + 10 * usNcyc ≤ s.ncyc then s.exchReject n else s
    | none => s)

/-- TIME_EXCHANGE_TICK: one exchange at a time with the parent, every 2 µs while unlocked, every recal_us while locked (R385). An interval of a locked
chip without an accepted exchange sets holdover (R387, R395). -/
def execTimeExchangeTick (s : State) : Res :=
  onUnit Instr.timeExchangeTick.wf s
    (match s.parentPort with
    | none => s
    | some n =>
      let gap := usNcyc * if s.chip.locked then s.chget CHP_TIME_CTL_recal_us else 2
      let due := match s.chip.lastExch with
        | none => true
        | some t => decide (t + gap ≤ s.ncyc)
      if !s.chip.regs.flag CHP_TIME_CTL_enable || s.isMaster || !s.zRuns || (s.link n).exch.isSome || !due || !s.timeRoom n then s
      else
        let missed := match s.chip.lastExch with
          | some t => s.chip.locked && decide (s.chip.lastGood < t) && !s.chip.regs.flag CHP_TIME_STAT_holdover
          | none => false
        let s := if missed then (s.modChipRegs fun r => r.set CHP_TIME_STAT_holdover 1).timeEvent else s
        ((s.modChip fun h => { h with lastExch := some s.ncyc }).modLink n fun l =>
          { l with exch := some ⟨s.time, none, none, false, s.ncyc⟩ }).sendTime n 0 0)

/-- HOLDOVER_EXPIRE: no exchange accepted for holdover_ms. -/
def execHoldoverExpire (s : State) : Res :=
  onUnit Instr.holdoverExpire.wf s
    (if s.chip.locked && !s.isMaster && decide (s.chip.lastGood + msNcyc * s.chget CHP_TIME_CTL_holdover_ms ≤ s.ncyc) then s.timeUnlock else s)

/-! ## STEP and SLEW at the region managers (R386, R387, R400) -/

/-- The region whose count stands for the chip's: the first awake one; all hold the same count (log 41). -/
def State.timeRegion (s : State) : Nat := ((List.range 16).find? fun r => !(s.region r).asleep).getD 0

/-- Take a time flit at a region manager. -/
def State.regionTime (s : State) (r : Nat) (aux : BitVec 3) (g : State → W64 → State) : State :=
  match s.localFlit (rmCell r) fun y => y.flit.kind == kTIME && y.flit.aux == aux with
  | none => s
  | some y =>
    let s := s.modRt (rmCell r) fun x => x.takeLocal fun z => z == y
    if r = s.timeRegion then g s y.flit.payload else s

/-- TIME_STEP: the correction waits for the first ncyc whose T[63:3] is a multiple of 4,096. -/
def execTimeStep (r : Nat) (s : State) : Res :=
  onUnit (Instr.timeStep r).wf s (s.regionTime r 3 fun s v => s.modChip fun h => { h with pendStep := some v.toInt })

/-- The STEP takes effect: T moves, and the port's stored values are discarded (R386). -/
def State.applyStep (s : State) : State :=
  match s.chip.pendStep with
  | none => s
  | some v =>
    if s.now % 4096 ≠ 0 then s
    else
      let s := { s with time := s.time + BitVec.ofInt 64 v, links := s.links.mapAll fun l => { l with offsets := [] } }
      (s.modChip fun h => { h with pendStep := none }).modChipRegs fun r => r.bump CHP_TIME_STAT_steps

/-- TIME_SLEW: T[2:0] moves by one, and saturates at 0 and 7 (R387). -/
def execTimeSlew (r : Nat) (s : State) : Res :=
  onUnit (Instr.timeSlew r).wf s
    (s.regionTime r 4 fun s v =>
      let e := s.time.toNat % 8
      let up := bits v.toNat 0 2 == 1
      let dn := bits v.toNat 0 2 == 2
      let stuck := (up && e == 7) || (dn && e == 0)
      let s := s.modChipRegs fun q => q.set CHP_TIME_STAT_saturated stuck.toNat
      if stuck then s else if up then { s with time := s.time + 1 } else if dn then { s with time := s.time - 1 } else s)

/-! ## SET_IDENTITY and SET_TIME (R24, R383, R426, R431, R459) -/

/-- Derive slot 3 once CISTERN_OPEN and SET_IDENTITY are done (R426, R430, R450). -/
def State.deriveSlot3 (s : State) : State :=
  match s.ftn.sysRoot with
  | none => s
  | some root =>
    if !s.stepDone 5 || s.ftn.startCount.isNone then s
    else s.modSlot 3 fun x => { x with key := some (deriveKey root (slotLabel 3) (beBytes 2 s.dims ++ beBytes 4 s.ftn.xkeyGen.toNat)) }

/-- SET_IDENTITY: rejected where a coordinate of chip_id exceeds its dimension field (R24). -/
def execSetIdentity (m : Nat) (s : State) : Res :=
  onUnit (Instr.setIdentity m).wf s (s.plainCmd m 0x02 fun k s =>
    let id := k.arg 0 2
    let d := k.arg 2 2
    if 8191 < id ∨ bits d 0 5 < bits id 8 5 ∨ bits d 5 4 < bits id 4 4 ∨ bits d 9 4 < bits id 0 4 then s.badArg k 16
    else if 8191 < d then s.badArg k 18
    else
      let s := s.modChipRegs fun r => (((r.set CHP_CHIP_ID_chip_id id).set CHP_CHIP_ID_dim_x_m1 (bits d 0 5)).set CHP_CHIP_ID_dim_y_m1
        (bits d 5 4)).set CHP_CHIP_ID_dim_z_m1 (bits d 9 4)
      (((s.modFtn fun f => { f with xkeyGen := BitVec.ofNat 32 (k.arg 4 4) }).setStep 5).deriveSlot3).ok k)

/-- Context 1 comes into use, its tree toward the uplink (R290, R459). -/
def State.useContext1 (s : State) : State :=
  (s.modChipRegs fun r => (r.set (CHP_RILL_CTX_valid.at 1) 1).set (CHP_RILL_CTX_system.at 1) 1).writeTree1

/-- What CHP_TIME_CTL asks for once it is written: with enable clear the chip unlocks, a master with enable set locks at once (R386, R387). -/
def State.settleTime (s : State) : State :=
  if !s.chip.regs.flag CHP_TIME_CTL_enable then s.timeUnlock else if s.chip.regs.flag CHP_TIME_CTL_master then s.timeLock else s

/-- SET_TIME. -/
def execSetTime (m : Nat) (s : State) : Res :=
  onUnit (Instr.setTime m).wf s (s.plainCmd m 0x03 fun k s =>
    let b := k.arg 0 1
    if 3 < b then s.badArg k 16
    else if k.arg 2 2 = 0 ∨ 4095 < k.arg 2 2 then s.badArg k 18
    else if k.arg 4 1 = 0 ∨ 15 < k.arg 4 1 then s.badArg k 20
    else if k.arg 5 1 = 0 then s.badArg k 21
    else
      let s := s.modChipRegs fun r => ((((r.set CHP_TIME_CTL_master (bits b 0 1)).set CHP_TIME_CTL_enable (bits b 1 1)).set CHP_TIME_CTL_recal_us
        (k.arg 2 2)).set CHP_TIME_CTL_lock_tol (k.arg 4 1)).set CHP_TIME_CTL_holdover_ms (k.arg 5 1)
      s.useContext1.settleTime.ok k)

end Sys2Proof.Machine
end

