-- ==== Sys2Proof/Machine/Power.lean ====
section
/-! DEFINITION. Doze, Sleep and Off (R404 to R411, R457): the conditions for leaving Run, Doze and its hold, the mailbox command POWER with the steps
Zhevber and the region managers take for it, and the wakes of regions, from Sleep and from bring-up hold. What ends with a block in Run stands in Crossing.lean. -/

namespace Sys2Proof.Machine

/-! ## Conditions for leaving Run (R406) -/

/-- Does a memory gateway hold a valid window or an enabled stream ring? -/
def Regs.gatewayInUse (r : Regs) : Bool :=
  (List.range 64).any fun w => r.flag (CHP_MGW_WIN_A_valid.at w) || r.flag (CHP_MGW_STREAM_enable.at w)

/-- Does what a cell's edge attaches to keep its block in Run? -/
def State.edgeHolds (s : State) (c : Nat) : Bool :=
  (List.range 4).any fun p => match edgeOf c p with
    | some (.link n _) => !([0, 6, 9].contains (s.linkState n))
    | some (.gateway g _) => (s.gw g).regs.gatewayInUse
    | _ => false

/-- Does the wake map of the running period, or from S − wake_lead on of the next, name a block (R117)? -/
def State.mapHolds (s : State) (b : Nat) : Bool :=
  s.heldAwake b || (s.ahead (s.chget CHP_SCHED_CTL_wake_lead)).any fun e => (s.bankFor e.1).wakes? e.2.1 b

/-- May a block leave Run? -/
def State.mayLeaveRun (s : State) (b : Nat) : Bool :=
  !(s.block b).regs.flag BLK_PWR_CTL_hold_run && !s.mapHolds b &&
  (blockCells b).all fun c => !s.edgeHolds c && !((s.rt c).sluices.any fun e => e.2.test)

/-- The further conditions for Sleep and Off: not the block of the Fountaineer's corner, no cell of a valid tree. -/
def State.mayPowerDown (s : State) (b : Nat) : Bool :=
  s.mayLeaveRun b && !(s.ctxValid 0 && blockOf s.cornerRoot == b) &&
    (blockCells b).all fun c => (s.cell c).trees.isEmpty

/-! ## Doze (R407, R408) -/

/-- Has an NI nothing to do (R407)? -/
def Cell.niIdle (x : Cell) : Bool :=
  let n := x.ni
  n.openTokens == 0 && n.descs.all (fun d => d.done) && n.robHeld == 0 && n.chans.all (fun e => e.2.rx.placed.isNone) &&
  n.quarantine.isEmpty && n.fountain.isEmpty && n.ranges.all (fun e => e.2.st == .idle) && n.cores.all (fun e => e.2.stall.isNone) &&
  n.queues.all fun e => e.2.ents.isEmpty || x.regs.get (NI_Q_CFG_stale_time.at e.1) == 0

/-- Is a packet in a stage of a router: arrived or presented by now, or on a wire from a router of the same block (R407)? -/
def InFlight.inside (x : InFlight) (c now : Nat) : Bool :=
  decide (x.due ≤ now) || (neighbor c x.port).any fun d => blockOf d == blockOf c

/-- Has a router no packet in any stage of its bulk planes, and an empty answer queue? -/
def Router.idle (r : Router) (c now : Nat) : Bool :=
  r.req.arr.all (fun x => !x.inside c now) && r.rep.arr.all (fun x => !x.inside c now) && r.sched.all (fun x => !x.inside c now) &&
  r.req.dec.isEmpty && r.rep.dec.isEmpty && r.answers.isEmpty

/-- Does an ncyc count as idle for a block (R407, step 1)? -/
def State.blockIdle (s : State) (b : Nat) : Bool :=
  s.mayLeaveRun b && (blockCells b).all fun c => (s.rt c).idle c s.ncyc && (s.cell c).niIdle

/-- The idle counts of one ncyc: a block with auto_doze set that is not idle counts from the next. -/
def State.idleTick (s : State) : State :=
  s.forEach (allBlocks.filter fun b => (s.block b).regs.flag BLK_PWR_CTL_auto_doze && !s.blockIdle b) fun s b =>
    s.modBlock b fun x => { x with idleFrom := s.ncyc + 1 }

/-- DOZE_IDLE_REACHED: the hold begins (R407, step 2). -/
def execDozeIdleReached (b : Nat) (s : State) : Res :=
  onUnit (Instr.dozeIdleReached b).wf s
    (let x := s.block b
    if x.power == .run && x.regs.flag BLK_PWR_CTL_auto_doze && x.holdFrom.isNone && !x.ctlReset && s.blockIdle b &&
        decide (x.idleFrom + x.regs.get BLK_PWR_CTL_idle_ncyc ≤ s.ncyc) then
      s.modBlock b fun x => { x with holdFrom := some s.ncyc }
    else s)

/-- The largest r + s over the links that enter a block (R407). -/
def State.entryExtra (s : State) (b : Nat) : Nat :=
  ((blockCells b).flatMap fun c => (List.range 4).map fun p =>
    match neighbor c p with
    | some d => if blockOf d = b then 0 else s.linkExtra c p
    | none => 0).foldl max 0

/-- DOZE_GATE: no decode has ended the hold by t0 + 1 + m (R407, step 3). A condition of R406 that no longer holds ends the hold instead. -/
def execDozeGate (b : Nat) (s : State) : Res :=
  onUnit (Instr.dozeGate b).wf s
    (match (s.block b).holdFrom with
    | none => s
    | some t0 =>
      if s.ncyc < t0 + 2 + s.entryExtra b then s
      else if !s.mayLeaveRun b then s.wakeBlock b
      else (s.modBlock b fun x => { x with holdFrom := none, power := .doze, since := s.ncyc }).modBlockRegs b fun r => r.bump BLK_PWR_STAT_dozes)

/-- WAKE_DOZE: a WAKE with aux 0 at the block controller; for a block in Run it is consumed and nothing else (R288, R408). -/
def execWakeDoze (b : Nat) (s : State) : Res :=
  onUnit (Instr.wakeDoze b).wf s
    (match s.localFlit (bcCell b) fun y => y.flit.kind == kWAKE && y.flit.aux == 0 with
    | none => s
    | some y => (s.modRt (bcCell b) fun r => r.takeLocal fun z => z == y).wakeBlock b)

/-- BLK_PWR_CTL_HOLD_RUN: hold_run set wakes the block (R408, R413). -/
def execBlkPwrCtlHoldRun (b : Nat) (s : State) : Res :=
  onUnit (Instr.blkPwrCtlHoldRun b).wf s (if (s.block b).regs.flag BLK_PWR_CTL_hold_run then s.wakeBlock b else s)

/-! ## Register accesses and power (R404) -/

/-- An access to a unit of a block: in Doze or Sleep it wakes the block and its crossing holds the transfer `x` until Run (R403); in Off `off` is
what it does, counted. -/
def State.powerGate (s : State) (b : Nat) (x : Crossing) (f off : State → State) : State :=
  match (s.block b).power with
  | .run => f s
  | .off => off (s.modChipRegs fun r => r.bump CHP_PWR_STAT_off_access)
  | _ => (s.wakeBlock b).holdAt b x

/-! ## Keys of waiting commands -/

/-- Key in Chip.mbxWait of the POWER command that puts region r to Sleep. -/
def kSleep (r : Nat) : Nat := 200 + r
/-- Key in Chip.mbxWait of the POWER command that turns block b Off or On. -/
def kOff (b : Nat) : Nat := 1000 + b

/-- The command that waits under a key completes. -/
def State.answerWait (s : State) (key status detail : Nat) : State :=
  match aget s.chip.mbxWait key with
  | none => s
  | some m => (s.modChip fun h => { h with mbxWait := adel h.mbxWait key }).finishHeld m status detail []

/-- The command that waits under a key waits on for the flip it now asks for (R424). -/
def State.waitForFlip (s : State) (key : Nat) : State :=
  match aget s.chip.mbxWait key with
  | none => s.requestFlip .follow
  | some m => (s.modChip fun h => { h with mbxWait := aput (adel h.mbxWait key) m 0 }).requestFlip (.command m 0x60)

/-! ## Sleep (R409) -/

/-- Is a wake trigger pending in a region? -/
def State.wakePending (s : State) (r : Nat) : Bool :=
  (s.region r).waking || (regionBlocks r).any fun b => (s.block b).exiting

/-- Have all blocks of a region left Run? -/
def State.regionQuiet (s : State) (r : Nat) : Bool :=
  (regionBlocks r).all fun b => (s.block b).power == .doze || (s.block b).power == .off

/-- POWER op 0; an op above 3 is illegal. -/
def execPowerRegionSleep (m : Nat) (s : State) : Res :=
  onUnit (Instr.powerRegionSleep m).wf s (s.mailboxCmd m 0x60 (fun k => k.arg 0 1 == 0 || decide (3 < k.arg 0 1)) (fun _ => some 0) fun k s =>
    let r := k.arg 2 2
    if 3 < k.arg 0 1 then s.badArg k 16
    else if 15 < r then s.badArg k 18
    else if (s.region r).asleep then s.ok k
    else if s.wakePending r || (s.region r).sleepReq || (s.region r).bringUp || (aget s.chip.mbxWait (kSleep r)).isSome ||
        !((regionBlocks r).all fun b => (s.block b).power == .off || s.mayPowerDown b) then s.finish k sREJECTED 1 []
    else (s.modChip fun h => { h with mbxWait := aput h.mbxWait (kSleep r) m }).holdMbx k)

/-- Step 2 of R409, once every block is in Doze or Off: the flip is asked for. -/
def State.sleepTick (s : State) : State :=
  s.forEach (List.range 16) fun s r =>
    match aget s.chip.mbxWait (kSleep r) with
    | none => s
    | some m =>
      if (s.region r).sleepReq || !s.regionQuiet r then s
      else (s.modRegion r fun x => { x with sleepReq := true }).requestFlip (.command m 0x60)

/-- Is the flip made that a region's sleep, reset or a block's Off waits for: none under way, and the ACTIVE build knows of it? -/
def State.flipped (s : State) (f : Build → Bool) : Bool := s.chip.flip.isNone && f (s.build s.chip.active.toNat)

/-- SLEEP_CLOCK_STOP: after the flip the generator stops and rill routes avoid the region; a wake trigger meanwhile makes Zhevber give up and
restore the routes (R411). -/
def execSleepClockStop (r : Nat) (s : State) : Res :=
  onUnit (Instr.sleepClockStop r).wf s
    (if !(s.region r).sleepReq || !s.flipped (fun b => b.quiet.contains r) then s
    else if s.wakePending r || !s.regionQuiet r then
      (((s.modRegion r fun x => { x with sleepReq := false, waking := false }).answerWait (kSleep r) sREJECTED 1).rewriteRill).requestFlip .follow
    else
      let s := s.modRegion r fun x => { x with sleepReq := false, asleep := true, since := s.ncyc, regs := x.regs.bump RGN_PWR_STAT_sleeps }
      let s := s.forEach (regionBlocks r) fun s b => if (s.block b).power == .off then s else s.modBlock b fun x => { x with power := .sleep, since := s.ncyc }
      s.rewriteRill.answerWait (kSleep r) sOK 0)

/-- WAKE_SLEEP: a WAKE flit that reaches, or is signalled to, the region manager (R277, R409). -/
def execWakeSleep (r : Nat) (s : State) : Res :=
  onUnit (Instr.wakeSleep r).wf s
    (match s.localFlit (rmCell r) fun y => y.flit.kind == kWAKE with
    | none => s
    | some y =>
      let s := s.modRt (rmCell r) fun x => x.takeLocal fun z => z == y
      (s.when_ (y.flit.aux == 1) fun s => s.modRegionRegs r fun q => q.bump RGN_PWR_STAT_wake_reqs).wakeRegion r)

/-! ## Wakes of regions (R409, R457) -/

/-- The regions a wake command names: one, or with 0xFFFF every one in bring-up hold that is not taken out. -/
def State.wakeNamed (s : State) (u : Nat) : List Nat :=
  if u = 0xFFFF then (List.range 16).filter fun r => (s.region r).bringUp && !(s.region r).taken else [u]

/-- POWER op 1. -/
def execPowerRegionWake (m : Nat) (s : State) : Res :=
  onUnit (Instr.powerRegionWake m).wf s (s.mailboxCmd m 0x60 (fun k => k.arg 0 1 == 1) (fun _ => some 0) fun k s =>
    let u := k.arg 2 2
    let rs := s.wakeNamed u
    let held := rs.filter fun r => (s.region r).bringUp
    if 15 < u ∧ u ≠ 0xFFFF then s.badArg k 18
    else if held.isEmpty && !s.stepDone 10 then s.finish k sNOTREADY 10 []
    else if rs.any fun r => (s.region r).taken then s.finish k sREJECTED 4 []
    else if rs.all fun r => !(s.region r).bringUp && !(s.region r).asleep then s.ok k
    else
      let s := s.forEach rs fun s r => s.modRegion r fun x => { x with waking := true }
      let s := s.forEach held fun s r => s.forEach (s.facing r) fun s e => if s.inTest e.1 e.2 then s.testLink e.1 e.2 else s
      (s.modChip fun h => { h with mbxWait := aput h.mbxWait m 0 }).holdMbx k)

/-- Once no region wakes, the commands that named them wait for one flip (R457, step 4). -/
def State.wakesDone (s : State) : State :=
  if (List.range 16).any fun r => (s.region r).waking then s
  else
    let ms := (List.range 10).filter fun m => (aget s.chip.mbxWait m).isSome &&
      !(s.chip.flipReqs.contains (.command m 0x60)) && !((s.chip.flip.map fun f => f.reqs.contains (.command m 0x60)).getD false)
    if ms.isEmpty then s.requestFlip .follow else s.forEach ms fun s m => s.requestFlip (.command m 0x60)

/-- Have the boundary sluices that face awake or waking regions been tested: each is open, closed, or in TEST with the criterion met? -/
def State.facingTested (s : State) (r : Nat) : Bool := (s.facing r).all fun e => !s.inTest e.1 e.2 || s.linkMet e.1 e.2

/-- A region in bring-up hold wakes: the boundary sluices that met the criterion reopen; it stays in hold when all have failed (R457). -/
def State.releaseBringUp (s : State) (r : Nat) : State :=
  let s := s.forEach (s.facing r) fun s e => if s.inTest e.1 e.2 then s.openLink e.1 e.2 else s
  if (s.facing r).isEmpty || (s.facing r).any fun e => !s.sluiced e.1 e.2 then s.releaseRegion r
  else
    (s.modRegion r fun x => { x with waking := false }).modChip fun h =>
      { h with mbxWait := h.mbxWait.map fun e => if e.1 < 10 then (e.1, 4) else e }

/-- A sleeping region enters Run with the chip's current versions; its rill ports open (R409). -/
def State.releaseSleep (s : State) (r : Nat) : State :=
  let bs := (regionBlocks r).filter fun b => (s.block b).power == .sleep
  let s := s.modRegion r fun x => { x with asleep := false, waking := false }
  let s := s.forEach bs fun s b => s.modBlock b fun x => { x with power := .run, idleFrom := s.ncyc, exiting := false }
  (s.currentVersions (bs.flatMap blockCells)).rewriteRill

/-! ## Off and on (R410) -/

/-- POWER op 2. -/
def execPowerBlockOff (m : Nat) (s : State) : Res :=
  onUnit (Instr.powerBlockOff m).wf s (s.mailboxCmd m 0x60 (fun k => k.arg 0 1 == 2) (fun _ => some 0) fun k s =>
    let b := k.arg 2 2
    let x := s.block b
    if !blockOk b then s.badArg k 18
    else if x.power == .off then s.ok k
    else if x.power == .sleep || x.exiting || x.offReq || (s.region (blockRegion b)).sleepReq || !s.mayPowerDown b then s.finish k sREJECTED 1 []
    else (((s.modBlock b fun x => { x with offReq := true }).modChip fun h => { h with mbxWait := aput h.mbxWait (kOff b) m }).requestFlip
      (.command m 0x60)).holdMbx k)

/-- OFF_POWER_REMOVE: after the flip, once the block is in Doze. What NI reset clears is lost (R405). -/
def execOffPowerRemove (b : Nat) (s : State) : Res :=
  onUnit (Instr.offPowerRemove b).wf s
    (if !(s.block b).offReq || !s.flipped (fun x => x.noTransit.contains b) || (s.block b).power != .doze || (s.block b).exiting then s
    else
      let s := s.forEach (blockCells b) fun s c => s.resetNi c .ni
      ((s.modBlock b fun x => { x with power := .off, offReq := false, since := s.ncyc }).rewriteRill).answerWait (kOff b) sOK 0)

/-- POWER op 3. -/
def execPowerBlockOn (m : Nat) (s : State) : Res :=
  onUnit (Instr.powerBlockOn m).wf s (s.mailboxCmd m 0x60 (fun k => k.arg 0 1 == 3) (fun _ => some 0) fun k s =>
    let b := k.arg 2 2
    if !blockOk b then s.badArg k 18
    else if (s.block b).power != .off then s.ok k
    else ((s.modBlock b fun x => { x with exiting := true }).modChip fun h => { h with mbxWait := aput h.mbxWait (kOff b) m }).holdMbx k)

/-- BLOCK_POWER_ON_DONE: the NIs come up as after NI reset, the current versions are written, rill routes are restored, and the command waits
for the flip that gives the block's cells rows again. -/
def execBlockPowerOnDone (b : Nat) (s : State) : Res :=
  onUnit (Instr.blockPowerOnDone b).wf s
    (if (s.block b).power != .off || !(s.block b).exiting then s
    else
      let s := s.modBlock b fun x => { x with power := .run, exiting := false, idleFrom := s.ncyc }
      let s := s.forEach (blockCells b) fun s c => s.leaveReset c
      ((s.currentVersions (blockCells b)).rewriteRill).waitForFlip (kOff b))

end Sys2Proof.Machine
end

