-- ==== Sys2Proof/Machine/Registers.lean ====
section
/-! DEFINITION. What the registers and windows of every unit show (R94, R100, R126, R323, R329 to R334, R392, R393, R414 to R416, R444 to
R449, R464, R494, R510 to R519): fields kept elsewhere in the state, composed over the registers; the register a word address lies in; the
places of the host address map and of the management port's (R504, R506). -/

namespace Sys2Proof.Machine

/-! ## Fields composed over a register -/

/-- A register with some of its fields given. -/
def Regs.shows (r : Regs) (off : Nat) (fs : List (Field × Nat)) : W64 := (fs.foldl (fun r e => r.set e.1 e.2) r).read off

/-- A number with bit i set for each i below n that a test picks. -/
def bitMask (n : Nat) (f : Nat → Bool) : Nat := (List.range n).foldl (fun a i => a + if f i then 2 ^ i else 0) 0

/-- CELL_LINK_CFG of a cell (R513). -/
def State.linkCfg (s : State) (c : Nat) : List (Field × Nat) :=
  let i := s.chip.integ
  let st (p : Nat) : Bool := match p with
    | 0 => i.stitchX.contains (cx c)
    | 1 => i.stitchY.contains (cy c)
    | 2 => decide (0 < cx c) && i.stitchX.contains (cx c - 1)
    | _ => decide (0 < cy c) && i.stitchY.contains (cy c - 1)
  let edges := (List.range 4).filterMap fun p => edgeOf c p
  [(CELL_LINK_CFG_retime, ((List.range 4).map fun p =>
      if (neighbor c p).isSome then (s.linkExtra c p - (st p).toNat) * 4 ^ p else 0).sum),
   (CELL_LINK_CFG_stitch, bitMask 4 fun p => (neighbor c p).isSome && st p),
   (CELL_LINK_CFG_region_cross, bitMask 4 fun p => (neighbor c p).any fun d => regionCross c d),
   (CELL_LINK_CFG_edge_kind, if edges.any fun e => match e with
        | .gateway .. => true
        | _ => false then 2
      else if edges.any fun e => match e with
        | .link .. => true
        | _ => false then 1 else 0)]

/-- The counts of a rill port and VC (R334). -/
def State.rillBalShown (s : State) (c p v : Nat) : List (Field × Nat) :=
  let i := 4 * p + v
  let show_ (b : RillBal) (recv : BitVec 12) (cred occ : Nat) : List (Field × Nat) :=
    [((CELL_RILL_BAL_flits_sent).at i, b.sent.toNat), ((CELL_RILL_BAL_credits_recv).at i, b.credRecv.toNat),
     ((CELL_RILL_BAL_flits_recv).at i, recv.toNat), ((CELL_RILL_BAL_credits_sent).at i, b.credSent.toNat),
     ((CELL_RILL_BAL_cred).at i, cred), ((CELL_RILL_BAL_occ).at i, occ)]
  if p = 4 then []
  else if p = 5 then
    match rillEdge c with
    | some (n, _) =>
      let b := balOf (s.link n).rillBal v
      show_ b b.recv (32 - (b.sent - b.credRecv).toNat) (ingressOcc (s.link n).rillIng v)
    | none => show_ ⟨0, 0, 0, 0⟩ 0 32 0
  else
    let used := match neighbor c p with
      | some d => (s.rt d).rillOcc (oppPort p) v
      | none => 0
    show_ { balOf (s.rt c).rillBal i with credRecv := s.rillCredits c p v } (s.rillRecv c p v) (rillDepth c p - used) (s.rillBuffered c p v)

/-- The oldest held range as NI_RED_HOLD gives it (R272). -/
def Cell.redHoldShown (x : Cell) : List (Field × Nat) :=
  match x.ni.oldestHeld with
  | none => [(NI_RED_HOLD_held_valid, 0)]
  | some (k, g) =>
    let j := k / 1024
    [(NI_RED_HOLD_held_valid, 1), (NI_RED_HOLD_tree_idx, j), (NI_RED_HOLD_sequence, k % 1024 * fmtCount (x.regs.redFmt j) / 8),
     (NI_RED_HOLD_shadow_fail, g.fails.1.toNat), (NI_RED_HOLD_count_fail, g.fails.2.toNat), (NI_RED_HOLD_shadow_diff, g.diff.toNat)]

/-- The tree of a context at a router (R281, R290): as Zhevber wrote it, unless the register has been written since. -/
def State.rillTreeShown (s : State) (c x : Nat) : List (Field × Nat) :=
  let k := (s.rt c).ctxRt x
  (match s.treeAt x c with
    | some t => [((CELL_RILL_TREE_expect).at x, (t.expectAt c).toNat), ((CELL_RILL_TREE_up_port).at x, t.upAt c)]
    | none => []) ++
  [((CELL_RILL_TREE_generation).at x, k.gen.toNat), ((CELL_RILL_TREE_arrived_local).at x, k.localDone.toNat)]

/-- Is an NI in reset as software reads it? NI_OWNER.in_reset has the reset value 0 and each NI leaves the chip's reset in
bring-up hold, so that hold does not count (R452, R515). -/
def NiHold.isReset (h : NiHold) : Bool := h == .cell || h == .ni || h == .region

/-- The fields of a cell's register at an offset that the state keeps elsewhere. -/
def State.cellShown (s : State) (c off : Nat) : List (Field × Nat) :=
  let x := s.cell c
  let r := x.rt
  if off = 0 then
    [(CELL_RT_CTL_ver0_state, r.ver0.toNat), (CELL_RT_CTL_ver1_state, r.ver1.toNat), (CELL_RT_CTL_ver0_detour, (s.detour c 0).toNat),
     (CELL_RT_CTL_ver1_detour, (s.detour c 1).toNat), (CELL_RT_CTL_rot_ptr, s.rot c), (CELL_RT_CTL_own_cell, c)]
  else if off = 0x60 then
    [(CELL_FAULT_sluice, bitMask 4 fun p => (aget r.sluices p).isSome),
     (CELL_FAULT_sluice_cell, bitMask 4 fun p => (aget r.sluices p).any fun y => y.cell),
     (CELL_FAULT_test, (r.sluices.any fun e => e.2.test).toNat), (CELL_FAULT_rill_closed, r.rillClosed.toNat)]
  else if off = 0x64 then s.linkCfg c
  else if 0x80 ≤ off ∧ off < 0xC0 then s.rillTreeShown c ((off - 0x80) / 4)
  else if 0xC0 ≤ off ∧ off < 0x180 then s.rillBalShown c ((off - 0xC0) / 32) ((off - 0xC0) / 8 % 4)
  else if off = 0x4000 then [(NI_OWNER_in_reset, x.ni.hold.isReset.toNat), (NI_OWNER_fenced, (s.fencedCell c).toNat)]
  else if off = 0x4038 then [(NI_TOK_STAT_open, x.ni.openTokens)]
  else if off = 0x4058 then [(NI_WFQ_STAT_vtime_req, x.ni.vReq.toNat), (NI_WFQ_STAT_vtime_rep, x.ni.vRep.toNat)]
  else if off = 0x4070 then [(NI_SPILL_class, s.classOf x.owner.toNat)]
  else if off = 0x4080 then [(NI_FOUNT_STAT_occupancy, x.ni.fountain.length)]
  else if off = 0x4098 then x.redHoldShown
  else if off = 0x40C0 then [(NI_TEL_STAT_written, x.ni.telWritten.toNat)]
  else if off = 0x40C8 then [(NI_PCS_STAT_written, x.ni.pcsWritten.toNat)]
  else if off = 0x40E0 then [(NI_BAL_TOK2_withdrawn, x.ni.withdrawn)]
  else if off = 0x40E8 then [(NI_BAL_QUE_free, poolSize - x.ni.poolTaken), (NI_BAL_QUE_taken, x.ni.poolTaken)]
  else if off = 0x40F8 then [(NI_BAL_ROB_free, robSize - x.ni.robHeld), (NI_BAL_ROB_held, x.ni.robHeld)]
  else if 0x5280 ≤ off ∧ off < 0x5300 then [((NI_BAL_RED_B_open).at ((off - 0x5280) / 8), x.ni.openOf ((off - 0x5280) / 8))]
  else []

/-- The code of a power state (R414). -/
def Power.code : Power → Nat
  | .run => 0
  | .doze => 1
  | .sleep => 2
  | .off => 3

/-- Sluices of a block's cells that a test picks. -/
def State.blockSluices (s : State) (b : Nat) (f : Sluice → Bool) : Nat :=
  ((blockCells b).map fun c => ((s.rt c).sluices.filter fun e => f e.2).length).sum

/-- The fields of a block's register that the state keeps elsewhere. -/
def State.blockShown (s : State) (b off : Nat) : List (Field × Nat) :=
  let x := s.block b
  if off = 0x18 then [(BLK_PWR_STAT_state, x.power.code), (BLK_PWR_STAT_holding, x.holdFrom.isSome.toNat)]
  else if off = 0x20 then
    [(BLK_FAULT_STAT_fenced_cells, bitMask 16 fun i => s.fencedCell ((blockCells b).getD i 0)),
     (BLK_FAULT_STAT_block_fenced, x.fenced.toNat), (BLK_FAULT_STAT_ctl_reset, x.ctlReset.toNat),
     (BLK_FAULT_STAT_sluices_closed, min 255 (s.blockSluices b fun y => !y.cell && !y.test)),
     (BLK_FAULT_STAT_sluices_test, min 255 (s.blockSluices b fun y => y.test))]
  else []

/-- The fields of a region's register that the state keeps elsewhere. -/
def State.regionShown (s : State) (r off : Nat) : List (Field × Nat) :=
  let x := s.region r
  if off = 8 then [(RGN_PWR_STAT_asleep, x.asleep.toNat), (RGN_PWR_STAT_waking, x.waking.toNat)]
  else if off = 0x10 then
    let sum : Int := ((s.chip.flip.map fun f =>
      ((regionCells r).filter fun c => !s.stopped c).map fun c => (s.cell c).regs.latchedIn f.old).getD []).sum
    [(RGN_FLIP_STAT_step, (s.chip.flip.map (·.step)).getD 0), (RGN_FLIP_STAT_active, ((s.rt (rmCell r)).ver1 == vACTIVE).toNat),
     (RGN_FLIP_STAT_tallies, min 4095 ((s.chip.flip.map (·.tallies.length)).getD 0)),
     (RGN_FLIP_STAT_in_flight, (BitVec.ofInt 32 sum).toNat)]
  else []

/-- The words that a mailbox port sees at place m: the management port has mailboxes 8 and 9 at places 0 and 1 (R506). -/
def mbxAt (a : Agent) (m : Nat) : Nat := if a == .mgmt && decide (m < 2) then 8 + m else m

/-- A slot's consecutive failures, for slot 3 the highest over the link ports (R430, R448). -/
def State.slotFails (s : State) (i : Nat) : Nat :=
  min 15 (if i = 3 then ((List.range 48).map fun n => (s.link n).fails).foldl max 0 else (s.slot i).fails)

/-- The state of a slot (R448). -/
def State.slotState (s : State) (i : Nat) : Nat := if (s.slot i).key.isNone then 0 else if (s.slot i).locked then 2 else 1

/-- The code of a boot state (R447). -/
def Boot.code : Boot → Nat
  | .held => 0
  | .checking => 1
  | .verifying => 2
  | .running => 3
  | .failed => 4

/-- The fields of a chip register that the state keeps elsewhere, as an agent's port sees them (R506). -/
def State.chipShown (s : State) (a : Agent) (off : Nat) : List (Field × Nat) :=
  let h := s.chip
  let mb (m : Nat) := s.mbx (mbxAt a m)
  if off = 0x08 then [(CHP_BRINGUP_region_held, bitMask 16 fun r => (s.region r).bringUp)]
  else if off = 0x10 then [(CHP_TIME_t, s.time.toNat)]
  else if off = 0x20 then [(CHP_TIME_STAT_locked, h.locked.toNat), (CHP_TIME_STAT_parent_port, s.parentNo)]
  else if off = 0x2C then
    [(CHP_SCHED_STAT_active_bank, h.activeBank.toNat), (CHP_SCHED_STAT_running, h.running.toNat),
     (CHP_SCHED_STAT_period, (s.pos.map (·.1)).getD 0), (CHP_SCHED_STAT_bank0_valid, h.banks0.valid.toNat),
     (CHP_SCHED_STAT_bank1_valid, h.banks1.valid.toNat)]
  else if off = 0x30 then
    [(CHP_PWR_STAT_doze_blocks, (allBlocks.filter fun b => (s.block b).power == .doze).length),
     (CHP_PWR_STAT_off_blocks, (allBlocks.filter fun b => (s.block b).power == .off).length),
     (CHP_PWR_STAT_asleep, bitMask 16 fun r => (s.region r).asleep)]
  else if off = 0x38 then [(CHP_INTEG_lnk_present, h.integ.lnkPresent.toNat)]
  else if off = 0x48 then
    [(CHP_INTEG_B_mgw_present, h.integ.mgwPresent.toNat), (CHP_INTEG_B_stitch_x, h.integ.stitchX.length),
     (CHP_INTEG_B_stitch_y, h.integ.stitchY.length)]
  else if off = 0x10404 then
    [(MBX_STAT_busy, bitMask 8 fun m => (mb m).busy), (MBX_STAT_done, bitMask 8 fun m => (mb m).done),
     (MBX_STAT_overrun, bitMask 8 fun m => (mb m).overrun)]
  else if off = 0x1040C then
    [(MBX_BOOT_STAT_state, s.ftn.boot.code), (MBX_BOOT_STAT_cause, s.ftn.cause.toNat), (MBX_BOOT_STAT_version, s.ftn.version.toNat)]
  else if off = 0x10410 then
    [(MBX_KEY_STAT_slot_state, ((List.range 4).map fun i => s.slotState i * 4 ^ i).sum),
     (MBX_KEY_STAT_fails, ((List.range 4).map fun i => s.slotFails i * 16 ^ i).sum),
     (MBX_KEY_STAT_start_count, (s.ftn.startCount.getD 0).toNat)]
  else if off = 0x10418 then [(MBX_NONCE_nonce, s.ftn.nonce.toNat)]
  else if off = 0x10420 then [(MBX_EVT_STAT_head, s.ftn.evHead), (MBX_EVT_STAT_ci, s.ftn.evCi)]
  else if off = 0x10430 then [(MBX_MEVT_STAT_head, s.ftn.mHead), (MBX_MEVT_STAT_ci, s.ftn.mCi)]
  else []

/-- The value a register shows to an agent. -/
def State.regShown (s : State) (a : Agent) (sc : Scope) (u off : Nat) : W64 :=
  match sc with
  | .cell => (s.cell u).regs.shows off (s.cellShown u off)
  | .block => (s.block u).regs.shows off (s.blockShown u off)
  | .region => (s.region u).regs.shows off (s.regionShown u off)
  | .link => (s.link u).regs.shows off (if off = 0x28 then [(LNK_SCHED_in_service, (s.link u).sched.toNat)] else [])
  | .gateway => (s.gw u).regs.read off
  | .chip => s.chip.regs.shows off (s.chipShown a off)

/-! ## Windows -/

/-- Entry of a packed window: n entries of w bits each, from the entry that word i begins with. -/
def packed (n w i : Nat) (f : Nat → Nat) : W32 :=
  BitVec.ofNat 32 (((List.range (32 / w)).map fun j => (if i * (32 / w) + j < n then f (i * (32 / w) + j) % 2 ^ w else 0) * 2 ^ (w * j)).sum)

/-- The exception entries of a version as a router holds them (R392). -/
def State.excShown (s : State) (c v e : Nat) : W32 :=
  let id := if v = 0 then (s.rt c).rows0 else (s.rt c).rows1
  if id = 0 ∨ id ≠ (s.build v).id then 0xE0000000 else (s.build v).exc.getD e 0xE0000000

/-- Key of a cell's latches in Chip.snaps. -/
def kSnapCell (c : Nat) : Nat := c

/-- Words of the latch windows and of a unit's dump record (R480, R494). -/
def State.snapWord (s : State) (key off : Nat) : W32 := (aget ((aget s.chip.snaps key).getD []) off).getD 0

/-- Do the latch windows of R494 hold an offset of a cell? -/
def snapWindow (off : Nat) : Bool :=
  (decide (0x180 ≤ off) && decide (off < 0x190)) || (decide (0x200 ≤ off) && decide (off < 0x2C0)) ||
  (decide (0x300 ≤ off) && decide (off < 0x3A0)) || (decide (0x5400 ≤ off) && decide (off < 0x5680)) ||
  (decide (0x5680 ≤ off) && decide (off < 0x57B8))

/-- A word of a cell's windows, none where there is no window (R94, R236, R392, R494, R508, R514). A router's entry of the rill route table
for its own block names no way and shows 0 (log 63). -/
def State.cellWindow (s : State) (c off : Nat) : Option W32 :=
  let at_ (base words : Nat) : Bool := decide (base ≤ off) && decide (off < base + 4 * words)
  if snapWindow off then some (s.snapWord (kSnapCell c) off)
  else if at_ 0x400 16 then some (s.excShown c 0 ((off - 0x400) / 4))
  else if at_ 0x440 16 then some (s.excShown c 1 ((off - 0x440) / 4))
  else if at_ 0x480 36 then some (packed 576 2 ((off - 0x480) / 4) fun k => if idxBlock k = blockOf c then 0 else s.rillEntry c (idxBlock k))
  else if at_ 0x800 75 then some (packed 598 4 ((off - 0x800) / 4) fun k => (s.rowOf c 0 k).toNat)
  else if at_ 0xA00 75 then some (packed 598 4 ((off - 0xA00) / 4) fun k => (s.rowOf c 1 k).toNat)
  else if at_ 0x2000 2048 then some (packed 4096 16 ((off - 0x2000) / 4) fun t => (s.rt c).cascade t)
  else none

/-- A word of the window of a schedule bank (R512). -/
def Bank.word (b : Bank) (off : Nat) : W32 :=
  if off = 0 then BitVec.ofNat 32 b.t0
  else if off = 4 then BitVec.ofNat 32 (b.t0 / 2 ^ 32)
  else if off = 8 then BitVec.ofNat 32 b.lens.length
  else if 0xC ≤ off ∧ off < 0x2C then BitVec.ofNat 32 (b.lens.getD ((off - 0xC) / 4) 0)
  else 0

/-- A word of a unit's windows. -/
def State.window (s : State) (sc : Scope) (u off : Nat) : Option W32 :=
  match sc with
  | .cell => s.cellWindow u off
  | .region => if 0x2000 ≤ off ∧ off < 0x6800 then some (packed 9216 16 ((off - 0x2000) / 4) fun i => (s.region u).mapEntry i) else none
  | .chip => if 0x80 ≤ off ∧ off < 0x100 then some ((if off < 0xC0 then s.chip.banks0 else s.chip.banks1).word ((off - 0x80) % 64)) else none
  | _ => none

/-! ## The register behind a word -/

/-- The register a word of a unit lies in: its offset, its row, and whether the word is the upper one (R9). CELL_RILL_BAL has no port 4
(R508). -/
def regAt (sc : Scope) (off : Nat) : Option (Nat × RegRow × Bool) :=
  if sc = .cell ∧ 0x140 ≤ off ∧ off < 0x160 then none
  else match regRow sc off with
    | some r => some (off, r, false)
    | none => if off < 4 then none else
      match regRow sc (off - 4) with
      | some r => if r.width = 64 then some (off - 4, r, true) else none
      | none => none

/-- The 32-bit half of a value. -/
def halfOf (v : W64) (upper : Bool) : W32 := if upper then v.extractLsb' 32 32 else v.extractLsb' 0 32

/-! ## The address maps (R504, R506) -/

/-- What a 32-bit word address names on a port. -/
inductive Place where
  | nowhere
  | unit (sc : Scope) (u off : Nat)
  | cmd (m k : Nat)
  | rsp (m k : Nat)
  | event (mgmt : Bool) (j k : Nat)
  | image (off : Nat)
  | staging (m off : Nat)
deriving DecidableEq, Repr

/-- The boot window's place of an offset, on an agent's port (R418, R506). -/
def bootPlace (a : Agent) (off : Nat) : Place :=
  if a == .mgmt then (if off < 0x100000 then .staging (8 + off / stagingSize) (off % stagingSize) else .nowhere)
  else if off < 0x400000 then .image off
  else .staging ((off - 0x400000) / stagingSize) (off % stagingSize)

/-- The place of an address, its bits [1:0] ignored (R8). -/
def place (a : Agent) (addr : Nat) : Place :=
  let x := addr % 2 ^ 32 / 4 * 4
  if x < 0x300 then .unit .chip 0 x
  else if x < 0x10000 then .nowhere
  else if x < 0x10200 then .cmd (mbxAt a ((x - 0x10000) / 64)) (x % 64 / 4)
  else if x < 0x10400 then .rsp (mbxAt a ((x - 0x10200) / 64)) (x % 64 / 4)
  else if x < 0x10430 ∨ (x < 0x10440 ∧ a = .mgmt) then .unit .chip 0 x
  else if x < 0x20000 then .nowhere
  else if x < 0x28000 ∨ (x < 0x40000 ∧ a = .mgmt) then .event (a == .mgmt) ((x - 0x20000) / 32) (x % 32 / 4)
  else if x < 0x40000 then .nowhere
  else if x < 0x54000 then .unit .gateway ((x - 0x40000) / 0x1000) (x % 0x1000)
  else if x < 0x800000 then .nowhere
  else if x < 0x1000000 then bootPlace a (x - 0x800000)
  else if x < 0x1030000 then .unit .link ((x - 0x1000000) / 0x1000) (x % 0x1000)
  else if x < 0x2000000 then .nowhere
  else if x < 0x2080000 then .unit .region ((x - 0x2000000) / 0x8000) (x % 0x8000)
  else if x < 0x3000000 then .nowhere
  else if x < 0x3400000 then (if blockOk ((x - 0x3000000) / 0x1000) then .unit .block ((x - 0x3000000) / 0x1000) (x % 0x1000) else .nowhere)
  else if x < 0x40000000 then .nowhere
  else if x < 0x60000000 then
    (if cellOk ((x - 0x40000000) / 0x8000) then .unit .cell ((x - 0x40000000) / 0x8000) (x % 0x8000) else .nowhere)
  else .nowhere

/-- The bytes of an event record (R434). -/
def Event.bytes (e : Event) : List Byte :=
  leBytes 2 e.type.toNat ++ leBytes 2 e.unit.toNat ++ leBytes 4 e.seq.toNat ++ leBytes 8 e.time.toNat ++ leBytes 8 e.body0.toNat ++
    leBytes 8 e.body1.toNat

/-- The word at a place that no read changes, as an agent sees it: zero where nothing is mapped (R8). -/
def State.wordAt (s : State) (a : Agent) (p : Place) : W32 :=
  match p with
  | .nowhere => 0
  | .unit sc u off =>
    match s.window sc u off with
    | some w => w
    | none =>
      match regAt sc off with
      | some (o, _, up) => halfOf (s.regShown a sc u o) up
      | none => 0
  | .cmd m k => (s.mbx m).cmd.getD k 0
  | .rsp m k => (s.mbx m).rsp.getD k 0
  | .event mgmt j k =>
    match aget (if mgmt then s.ftn.mgmt else s.ftn.ring) j with
    | some e => BitVec.ofNat 32 (leNat ((e.bytes.drop (4 * k)).take 4))
    | none => 0
  | .image off => BitVec.ofNat 32 (mreadLE s.ftn.image off 4)
  | .staging m off => BitVec.ofNat 32 (mreadLE ((aget s.ftn.staging m).getD []) off 4)

/-- Is a place mapped: a register, a window, a buffer (R504)? -/
def Place.mapped (p : Place) : Bool :=
  match p with
  | .nowhere => false
  | .unit sc _ off => (regAt sc off).isSome || match sc with
    | .cell => snapWindow off || (decide (0x400 ≤ off) && decide (off < 0x510)) || (decide (0x800 ≤ off) && decide (off < 0x92C)) ||
        (decide (0xA00 ≤ off) && decide (off < 0xB2C)) || (decide (0x2000 ≤ off) && decide (off < 0x4000))
    | .region => decide (0x2000 ≤ off) && decide (off < 0x6800)
    | .chip => decide (0x80 ≤ off) && decide (off < 0x100)
    | _ => false
  | _ => true

end Sys2Proof.Machine
end

