-- ==== Sys2Proof/Machine/Access.lean ====
section
/-! DEFINITION. Register accesses over the ports (R8 to R13, R404, R467, R505, R506, R511, R520), the mailbox registers and the boot window
(R418, R421, R436, R444 to R449, R519), boot and the key port (R419, R420, R447, R500), and the resets of the chip and its ports (R314, R317,
R431, R452, R495, R496). -/

namespace Sys2Proof.Machine

/-! ## Writes by access code (R10, R13) -/

/-- The fields of a register that have reserved encodings, with what is reserved (R13): what the register tables call reserved, and what lies
outside the range they give a field. -/
def enumsAt (sc : Scope) (off : Nat) : List (Field × (Nat → Bool)) :=
  match sc with
  | .cell =>
    if off = 4 then [(CELL_RT_PARAM_golden_shift, fun v => decide (v < 10))]
    else if off = 0x58 then
      [(CELL_SPRAY_CTL_plane, fun v => v == 3), (CELL_SPRAY_CTL_port, fun v => decide (5 < v)), (CELL_SPRAY_CTL_spray_log2, fun v => decide (v < 4))]
    else if off = 0x401C then [(NI_TOK_CTL_abandon_us, fun v => v == 0)]
    else if off = 0x4030 then [(NI_RX_CTL_gap_us, fun v => v == 0)]
    else if off = 0x4034 then [(NI_BULK_CTL_desc_timeout_us, fun v => v == 0), (NI_BULK_CTL_flush_ncyc, fun v => v == 0)]
    else if 0x80 ≤ off ∧ off < 0xC0 then [((CELL_RILL_TREE_up_port).at ((off - 0x80) / 4), fun v => v == 4 || v == 6)]
    else if off = 0x4050 then [(NI_WFQ_CTL_slip_weight, fun v => v == 0)]
    else if off = 0x4060 then [(NI_CC_CTL_m_floor, fun v => v == 0)]
    else if off = 0x4078 then [(NI_LAT_CTL_mode, fun v => v == 3)]
    else if off = 0x407C then [(NI_FOUNT_CTL_fount_patience, fun v => v == 0)]
    else if off = 0x40B0 then [(NI_TEL_RING_size_log2, fun v => decide (v < 4) || decide (16 < v))]
    else if off = 0x40B8 then [(NI_PCS_RING_size_log2, fun v => decide (v < 4) || decide (16 < v))]
    else if off = 0x40D0 then [(NI_PCS_CTL_pc_log2, fun v => decide (v < 10) || decide (24 < v))]
    else if 0x4200 ≤ off ∧ off < 0x4400 then
      [((NI_Q_CFG_q_min).at ((off - 0x4200) / 8), fun v => decide (1024 < v)), ((NI_Q_CFG_q_max).at ((off - 0x4200) / 8), fun v => decide (1024 < v))]
    else if 0x4400 ≤ off ∧ off < 0x4600 then [((NI_Q_RING_size_4k).at ((off - 0x4400) / 8), fun v => decide (4096 < v))]
    else if 0x4A00 ≤ off ∧ off < 0x4C20 then
      [((NI_DRING_size_log2).at ((off - 0x4A00) / 8), fun v => decide (v < 4) || decide (16 < v)),
       ((NI_DRING_weight).at ((off - 0x4A00) / 8), fun v => v == 0 && decide (off < 0x4A20))]
    else if 0x4F00 ≤ off ∧ off < 0x4F80 then
      let j := (off - 0x4F00) / 8
      [((NI_RED_TREE_A_format).at j, fun v => decide (8 < v)), ((NI_RED_TREE_A_children).at j, fun v => decide (5 < v)),
       ((NI_RED_TREE_A_prec).at j, fun v => decide (24 < v))]
    else if 0x5000 ≤ off ∧ off < 0x5080 then
      let j := (off - 0x5000) / 8
      [((NI_RED_TREE_C_timeout_us).at j, fun v => v == 0), ((NI_RED_TREE_C_hold_us).at j, fun v => v == 0)]
    else []
  | .block =>
    if off = 0 then
      [(BLK_FAULT_CTL_corr_limit, fun v => v == 0), (BLK_FAULT_CTL_uncorr_limit, fun v => v == 0),
       (BLK_FAULT_CTL_port_fence_limit, fun v => v == 0 || decide (4 < v)), (BLK_FAULT_CTL_ni_uncorr_limit, fun v => v == 0),
       (BLK_FAULT_CTL_window_log2, fun v => decide (8 < v))]
    else if off = 4 then [(BLK_RINSE_CTL_rinse_log2, fun v => decide (v < 8))]
    else if off = 8 then [(BLK_PWR_CTL_idle_ncyc, fun v => v == 0)]
    else []
  | .region =>
    if off = 0 then [(RGN_FAULT_CTL_cell_fence_limit, fun v => v == 0), (RGN_FAULT_CTL_block_fence_limit, fun v => v == 0),
      (RGN_FAULT_CTL_watchdog_us, fun v => v == 0)] else []
  | .link =>
    if off = 0 then
      [(LNK_CTL_width_max, fun v => v == 3), (LNK_CTL_loop, fun v => decide (3 < v)), (LNK_CTL_preset, fun v => decide (7 < v))]
    else if off = 4 then
      [(LNK_TMR_ack_timeout, fun v => v == 0), (LNK_TMR_replay_limit, fun v => v == 0), (LNK_TMR_train_timeout, fun v => v == 0),
       (LNK_TMR_lane_err_limit, fun v => v == 0)]
    else []
  | .gateway =>
    if 0x200 ≤ off ∧ off < 0x400 then [((CHP_MGW_STREAM_size_log2).at ((off - 0x200) / 8), fun v => decide (v < 4) || decide (16 < v))] else []
  | .chip =>
    if off = 0x18 then [(CHP_TIME_CTL_recal_us, fun v => v == 0), (CHP_TIME_CTL_lock_tol, fun v => v == 0),
      (CHP_TIME_CTL_holdover_ms, fun v => v == 0)]
    else if off = 0x1C then [(CHP_RILL_CTL_vc3_gap, fun v => v == 0)]
    else if 0x100 ≤ off ∧ off < 0x180 then
      let x := (off - 0x100) / 8
      [((CHP_RILL_CTX_system).at x, fun v => v == 1 && x != 1), ((CHP_RILL_CTX_timeout_us).at x, fun v => v == 0)]
    else if 0x200 ≤ off ∧ off < 0x280 then [((CHP_SPILL_CLASS_gw_rate).at ((off - 0x200) / 8), fun v => decide (2 ^ 20 < v))]
    else []

/-- Write the masked bits of a register by their access codes: RW bits take the value, W1S bits written 1 set, W1C bits written 1 clear, others
stay; a field that would take a reserved encoding keeps its value (R10, R13). A W1C bit that hardware has set in this ncyc stands (R11). -/
def Regs.store (r : Regs) (o : Nat) (row : RegRow) (v mask : W64) : Regs :=
  let rw := BitVec.ofNat 64 row.rw &&& mask
  let w1s := BitVec.ofNat 64 row.w1s &&& mask
  let w1c := BitVec.ofNat 64 row.w1c &&& mask &&& r.before o
  let x := r.write o (((r.read o &&& ~~~rw) ||| (v &&& rw) ||| (v &&& w1s)) &&& ~~~(v &&& w1c))
  (enumsAt r.scope o).foldl (fun a e => if e.2 (a.get e.1) then a.set e.1 (r.get e.1) else a) x

/-- The credit of a ring's weir brought up to date at the rate in force (R199). -/
def Cell.weirNow (x : Cell) (r : Nat) (now : W32) : Nat :=
  let k := x.ni.ring r
  weirCredit (x.regs.get (NI_RING_WEIR_rate.at r)) (x.regs.get (NI_RING_WEIR_burst.at r)) (x.regs.get (NI_RING_WEIR_cc_mult.at r))
    k.credit.toNat (now - k.upd).toNat

/-- Write a register of a cell, with what writing it does: enabling spray seeds the LFSR (R472), a new mode clears the observation sets
(R207), a rewritten ring weir keeps its credit clipped to the new burst (R206). -/
def Cell.store (x : Cell) (now : W32) (ncyc o : Nat) (row : RegRow) (v mask : W64) : Cell :=
  let y := { x with regs := x.regs.store o row v mask }
  if o = 0x58 then
    if y.regs.flag CELL_SPRAY_CTL_enable && !x.regs.flag CELL_SPRAY_CTL_enable then { y with rt := { y.rt with lfsr := 0 } } else y
  else if o = 0x4078 then
    let y := if y.regs.get NI_LAT_CTL_mode = x.regs.get NI_LAT_CTL_mode then y else { y with regs := y.regs.clearLat }
    { y with ni := { y.ni with latNext := ncyc + y.regs.latInterval } }
  else if 0x4180 ≤ o ∧ o < 0x41A0 then
    let r := (o - 0x4180) / 8
    let c := min (x.weirNow r now) (burstCredit (y.regs.get (NI_RING_WEIR_burst.at r)))
    { y with ni := y.ni.modRing r fun k => { k with credit := BitVec.ofNat 32 c, upd := now } }
  else y

/-- The spillway bucket of an NI is set to the burst of its owner's class: a cell's new owner starts with a full bucket (R204, log 64). -/
def State.refillNi (s : State) (c : Nat) : State :=
  s.modCell c fun x => { x with regs := x.regs.set NI_SPILL_credit (s.spillBurst x.regs), ni := { x.ni with spillUpd := s.now32 } }

/-- A queue whose q_max is 0 is disabled: reads of CQ_META that stall on it end with valid clear (R154, R157). -/
def State.endDisabled (s : State) (c q : Nat) : State :=
  if s.cget c (NI_Q_CFG_q_max.at q) ≠ 0 then s
  else s.forEach ((s.ni c).cores.filter fun e => e.2.stall.any fun k => k.1 == .meta_ q) fun s e =>
    (s.modNi c fun x => x.unstall e.1).respond c e.1 0

/-- The tree of context 0 or 1 at a router is written over a register access: the register holds what Zhevber's writes of the tree left there,
and stands for itself from now on (R290). -/
def State.ownTree (s : State) (c x : Nat) : State :=
  s.modCell c fun y => { y with
    regs := (y.regs.set ((CELL_RILL_TREE_expect).at x) (s.ctxExpect x c).toNat).set ((CELL_RILL_TREE_up_port).at x) (s.ctxUp x c)
    rt := { y.rt with treeSet := if y.rt.treeSet.contains x then y.rt.treeSet else x :: y.rt.treeSet } }

/-- Write a register of a cell, with what it does beyond the cell's registers. -/
def State.storeCell (s : State) (c o : Nat) (row : RegRow) (v mask : W64) : State :=
  let s := if o = 0x80 ∨ o = 0x84 then s.ownTree c ((o - 0x80) / 4) else s
  let own := s.cget c NI_OWNER_parterre
  let s := s.modCell c fun x => x.store s.now32 s.ncyc o row v mask
  if o = 0x4000 ∧ s.cget c NI_OWNER_parterre ≠ own then s.refillNi c
  else if 0x4200 ≤ o ∧ o < 0x4400 then s.endDisabled c ((o - 0x4200) / 8)
  else s

/-- What the bits of LNK_CTL that were written 1 do (R345, R358, R362): admit, which DISABLED and DOWN hold clear, lets a port in CAPX go on; quiesce
starts the detach of an ACTIVE port; retrain waits for LINK_SET_RETRAIN. -/
def State.linkStrobes (s : State) (n : Nat) (v : W64) : State :=
  let s := s.when_ (v.getLsbD LNK_CTL_admit.lo) fun s =>
    if s.linkState n = 0 ∨ s.linkState n = 9 then s.modLinkRegs n fun r => r.set LNK_CTL_admit 0 else s.capxTry n
  s.when_ (v.getLsbD LNK_CTL_quiesce.lo && s.linkActive n) fun s => s.quiesceGo n

/-- Write a register of a unit: hold_run set wakes the block, auto_doze set starts its idle count (R407, R408, R413), a write of LNK_CTL
acts on the port (R339, R362) unless it is absent (R503), one of CHP_TIME_CTL on the lock (R386, R387). -/
def State.store (s : State) (sc : Scope) (u o : Nat) (row : RegRow) (v mask : W64) : State :=
  match sc with
  | .cell => s.storeCell u o row v mask
  | .block =>
    let old := (s.block u).regs.flag BLK_PWR_CTL_auto_doze
    let s := s.modBlockRegs u fun r => r.store o row v mask
    let s := if o = 8 ∧ (s.block u).regs.flag BLK_PWR_CTL_auto_doze ∧ !old then s.modBlock u fun x => { x with idleFrom := s.ncyc } else s
    if o = 8 ∧ (s.block u).regs.flag BLK_PWR_CTL_hold_run then s.wakeBlock u else s
  | .region => s.modRegionRegs u fun r => r.store o row v mask
  | .link =>
    if o = 0 ∧ !s.linkPresent u then s
    else
      let s := s.modLinkRegs u fun r => r.store o row v mask
      if o = 0 then (s.settleCtl u).linkStrobes u (v &&& mask) else s
  | .gateway => s.modGwRegs u fun r => r.store o row v mask
  | .chip =>
    let s := s.modChipRegs fun r => r.store o row v mask
    if o = 0x18 then s.settleTime else s

/-! ## Power and the registers of blocks (R404, R467) -/

/-- The block a unit lies in. -/
def unitBlock (sc : Scope) (u : Nat) : Option Nat :=
  match sc with
  | .cell => some (blockOf u)
  | .block => some u
  | _ => none

/-- Is an offset of a cell one that stays clocked in Doze: version states, epoch tallies, snapshot latches (R404)? -/
def staysClocked (sc : Scope) (off : Nat) : Bool :=
  sc == .cell && (decide (off < 4) || (decide (0x20 ≤ off) && decide (off < 0x30)) || (decide (0x70 ≤ off) && decide (off < 0x78)) || snapWindow off)

/-- An access to a unit: at once, or as its block's power state has it; `x` is what the crossing then holds. -/
def State.onPower (s : State) (sc : Scope) (u off : Nat) (x : Crossing) (f off_ : State → State) : State :=
  match unitBlock sc u with
  | none => f s
  | some b => if staysClocked sc off && (s.block b).power != .off then f s else s.powerGate b x f off_

/-- Zhevber's write of the masked bits of a register of a unit (R404). -/
def State.setReg (s : State) (sc : Scope) (u o : Nat) (row : RegRow) (v mask : W64) : State :=
  s.onPower sc u o (.set sc u o v mask) (fun s => s.store sc u o row v mask) id

/-! ## Reads (R8, R9, R10, R466) -/

/-- The read and write halves that a port holds (R9). -/
def State.port (s : State) (a : Agent) : PortLatch :=
  match a with
  | .host => s.portHost
  | .mgmt => s.portMgmt
  | .zhevber => s.portZhev

/-- Change what a port holds. -/
def State.modPort (s : State) (a : Agent) (f : PortLatch → PortLatch) : State :=
  match a with
  | .host => { s with portHost := f s.portHost }
  | .mgmt => { s with portMgmt := f s.portMgmt }
  | .zhevber => { s with portZhev := f s.portZhev }

/-- The address a port sees: bits [1:0] ignored (R8). -/
def wordAddr (addr : Nat) : Nat := addr % 2 ^ 32 / 4 * 4

/-- Change the registers of a unit. -/
def State.modRegs (s : State) (sc : Scope) (u : Nat) (f : Regs → Regs) : State :=
  match sc with
  | .cell => s.modCellRegs u f
  | .block => s.modBlockRegs u f
  | .region => s.modRegionRegs u f
  | .link => s.modLinkRegs u f
  | .gateway => s.modGwRegs u f
  | .chip => s.modChipRegs f

/-- The registers of a unit. -/
def State.regsOf (s : State) (sc : Scope) (u : Nat) : Regs :=
  match sc with
  | .cell => (s.cell u).regs
  | .block => (s.block u).regs
  | .region => (s.region u).regs
  | .link => (s.link u).regs
  | .gateway => (s.gw u).regs
  | .chip => s.chip.regs

/-- The fields of NI_QLAT_H, which hold a highest value and not a sum (R215). -/
def highsAt (sc : Scope) (o : Nat) : List Field :=
  if sc = .cell ∧ 0x4800 ≤ o ∧ o < 0x4A00 then [NI_QLAT_H_depth_hw.at ((o - 0x4800) / 8), NI_QLAT_H_delay_hw.at ((o - 0x4800) / 8)] else []

/-- What a read that takes masked RC bits of a register leaves: of a count, what this ncyc has added; of a highest value, the one that this ncyc
has brought (R10, R11). What the read returned counts as taken at the ncyc's start. -/
def Regs.take (r : Regs) (o mask : Nat) : Regs :=
  let m := BitVec.ofNat 64 mask
  let old := r.before o
  let x : Regs := { r with
    vals := aput r.vals o ((r.read o &&& ~~~m) ||| (((r.read o &&& m) - (old &&& m)) &&& m)), base := aput r.base o (old &&& ~~~m) }
  (highsAt r.scope o).foldl (fun x f =>
    if m.getLsbD f.lo then { x with vals := aput x.vals o (BitVec.ofNat 64 (setBits (x.read o).toNat f.lo f.len (if r.get f = r.was f then 0 else r.get f))) }
    else x) x

/-- A read clears the RC fields it returns (R10, R466); Zhevber reads none. -/
def State.clearRc (s : State) (a : Agent) (sc : Scope) (u o mask : Nat) : State :=
  if mask = 0 || a == .zhevber then s else s.modRegs sc u fun r => r.take o mask

/-- A register as a read returns it: an RC field as it stood before what this ncyc has added (R11). -/
def State.readShown (s : State) (a : Agent) (sc : Scope) (u o : Nat) (row : RegRow) : W64 :=
  let rc := BitVec.ofNat 64 row.rc
  (s.regShown a sc u o &&& ~~~rc) ||| ((s.regsOf sc u).before o &&& rc)

/-- A read of a register's word: the lower word of a 64-bit register latches the upper one with it and takes the RC fields of both; the
upper word is the latched one where the read of the lower went before (R9, R466, log 42). -/
def State.readReg (s : State) (a : Agent) (sc : Scope) (u o : Nat) (row : RegRow) (upper : Bool) (addr : Nat) : State :=
  let v := s.readShown a sc u o row
  if upper then
    match (s.port a).latch with
    | some (k, hi) =>
      if k + 4 = addr then (s.modPort a fun p => { p with latch := none }).emit (.read a addr hi)
      else (s.clearRc a sc u o (row.rc / 2 ^ 32 * 2 ^ 32)).emit (.read a addr (halfOf v true))
    | none => (s.clearRc a sc u o (row.rc / 2 ^ 32 * 2 ^ 32)).emit (.read a addr (halfOf v true))
  else
    let s := if row.width = 64 then s.modPort a fun p => { p with latch := some (addr, halfOf v true) } else s
    (s.clearRc a sc u o row.rc).emit (.read a addr (halfOf v false))

/-- A read over a port. -/
def State.readAccess (s : State) (a : Agent) (addr : Nat) : State :=
  let x := wordAddr addr
  match place a x with
  | .unit sc u off =>
    s.onPower sc u off (.command (.rcFieldRead a addr))
      (fun s => match s.window sc u off, regAt sc off with
        | none, some (o, row, upper) => s.readReg a sc u o row upper x
        | _, _ => s.emit (.read a x (s.wordAt a (.unit sc u off))))
      (fun s => s.emit (.read a x 0))
  | p => s.emit (.read a x (s.wordAt a p))

/-- RC_FIELD_READ (R10, R11). -/
def execRcFieldRead (a : Agent) (addr : Nat) (s : State) : Res := onUnit (Instr.rcFieldRead a addr).wf s (s.readAccess a addr)

/-- LOW_WORD_READ (R9). -/
def execLowWordRead (a : Agent) (addr : Nat) (s : State) : Res := onUnit (Instr.lowWordRead a addr).wf s (s.readAccess a addr)

/-! ## Mailbox registers (R421, R436, R444 to R446, R519) -/

/-- A write of a command word: ignored with overrun while the mailbox is busy. -/
def State.cmdWrite (s : State) (m k : Nat) (v : W32) : State :=
  s.modMbx m fun x => if x.busy then { x with overrun := true } else { x with cmd := x.cmd.set k v }

/-- A ring: ignored with overrun while busy; else the mailbox is busy, and a done response gives way to the new command. -/
def State.ring (s : State) (m : Nat) : State :=
  s.modMbx m fun x =>
    if x.busy then { x with overrun := true }
    else { x with busy := true, done := false, overrun := if x.done then false else x.overrun, taken := false }

/-- An acknowledgement clears done, and overrun with it. -/
def State.ackDone (s : State) (m : Nat) : State := s.modMbx m fun x => { x with done := false, overrun := false }

/-- MBX_CMD_WRITE. -/
def execMbxCmdWrite (m k : Nat) (v : W32) (s : State) : Res := onUnit (Instr.mbxCmdWrite m k v).wf s (s.cmdWrite m k v)

/-- MBX_DB_RING. -/
def execMbxDbRing (m : Nat) (s : State) : Res := onUnit (Instr.mbxDbRing m).wf s (s.ring m)

/-- MBX_DB_ACK. -/
def execMbxDbAck (m : Nat) (s : State) : Res := onUnit (Instr.mbxDbAck m).wf s (s.ackDone m)

/-- MBX_EVT_CI_WRITE (R436). -/
def execMbxEvtCiWrite (v : W32) (s : State) : Res :=
  onUnit (Instr.mbxEvtCiWrite v).wf s (s.modFtn fun f => { f with evCi := v.toNat % evSize })

/-- MBX_MEVT_CI_WRITE (R519). -/
def execMbxMevtCiWrite (v : W32) (s : State) : Res :=
  onUnit (Instr.mbxMevtCiWrite v).wf s (s.modFtn fun f => { f with mCi := v.toNat % mevSize })

/-- A write into the boot window (R418): the image area in HELD, a staging buffer in RUNNING while its mailbox is not busy; another write of
a staging buffer sets overrun. -/
def State.bootWrite (s : State) (p : Place) (v : W32) : State :=
  match p with
  | .image off => if s.ftn.boot = .held then s.modFtn fun f => { f with image := mwriteList f.image off (leBytes 4 v.toNat) } else s
  | .staging m off =>
    if s.zRuns && !(s.mbx m).busy then
      s.modFtn fun f => { f with staging := aput f.staging m (mwriteList ((aget f.staging m).getD []) off (leBytes 4 v.toNat)) }
    else s.modMbx m fun x => { x with overrun := true }
  | _ => s

/-- BOOT_WINDOW_WRITE. -/
def execBootWindowWrite (a : Agent) (off : Nat) (v : W32) (s : State) : Res :=
  onUnit (Instr.bootWindowWrite a off v).wf s (s.bootWrite (bootPlace a (off % 2 ^ 23 / 4 * 4)) v)

/-! ## Boot (R419, R420, R447, R500) -/

/-- The Fountaineer fails with a cause (R447). -/
def State.bootFail (s : State) (cause : Nat) : State := s.modFtn fun f => { f with boot := .failed, cause := BitVec.ofNat 4 cause }

/-- The length an image header gives. -/
def State.imageLength (s : State) : Nat := mreadLE s.ftn.image 8 4

/-- The CRC of an image, its own field taken as zero (R419). -/
def State.imageCrc (s : State) : Nat :=
  crc32 (mreadList s.ftn.image 0 60 ++ List.replicate 4 0 ++ mreadList s.ftn.image 64 (s.imageLength - 64))

/-- Start from HELD: CHECKING, then VERIFYING with the image streamed to the security block (R419). -/
def State.bootStart (s : State) : State :=
  if s.ftn.boot ≠ .held then s
  else if mreadList s.ftn.image 0 4 ≠ [0x5A, 0x48, 0x56, 0x42] ∨ s.imageLength < 64 ∨ 4194304 < s.imageLength then s.bootFail 1
  else if s.imageCrc ≠ mreadLE s.ftn.image 60 4 then s.bootFail 2
  else (s.modFtn fun f => { f with boot := .verifying, since := s.ncyc, beats := [], keyed := false }).emit (.keyImage ((s.imageLength + 7) / 8))

/-- MBX_BOOT_CTL_START. -/
def execMbxBootCtlStart (s : State) : Res := onUnit Instr.mbxBootCtlStart.wf s s.bootStart

/-- A 256-bit key from four beats (R500): byte 0 is its first byte. -/
def beatKey (l : List W64) : BitVec 256 := BitVec.ofNat 256 (beNat (natBytes (l.flatMap fun w => leBytes 8 w.toNat)))

/-- RUNNING (R419): slots 0 to 2 derived, the nonce published, the system root key kept, steps 2 and 3 done. -/
def State.bootRun (s : State) (beats : List W64) : State :=
  let chipRoot := beatKey ((beats.drop 1).take 4)
  let nonce := beats.getD 9 0
  let s := s.forEach (List.range 3) fun s i =>
    s.modSlot i fun x => { x with key := some (deriveKey chipRoot (slotLabel i) (beBytes 8 nonce.toNat)) }
  ((s.modFtn fun f => { f with
    boot := .running, beats := [], keyed := true, nonce := nonce, sysRoot := some (beatKey ((beats.drop 5).take 4)),
    version := BitVec.ofNat 32 (mreadLE f.image 4 4) }).setStep 2).setStep 3

/-- KEY_PORT_RESPONSE (R500): the verdict, then the keys and the nonce. -/
def execKeyPortResponse (data : W64) (last : Bool) (s : State) : Res :=
  onUnit (Instr.keyPortResponse data last).wf s
    (if s.ftn.boot ≠ .verifying ∨ s.ftn.keyed then s
    else
      let beats := s.ftn.beats ++ [data]
      if beats.length = 1 ∧ data.getLsbD 0 = false then s.bootFail 3
      else if beats.length = 10 then s.bootRun beats
      else s.modFtn fun f => { f with beats := beats, keyed := last })

/-- KEY_VERDICT_TIMEOUT (R419): 100 ms. -/
def execKeyVerdictTimeout (s : State) : Res :=
  onUnit Instr.keyVerdictTimeout.wf s
    (if s.ftn.boot = .verifying && decide (s.ftn.since + 100 * msNcyc ≤ s.ncyc) then s.bootFail 4 else s)

/-- FOUNTAINEER_WATCHDOG_EXPIRE (R420). -/
def execFountaineerWatchdogExpire (s : State) : Res :=
  onUnit Instr.fountaineerWatchdogExpire.wf s
    (if s.zRuns then (s.bootFail 6).modFtn fun f => { f with faultOut := true } else s)

/-- FOUNTAINEER_MEMORY_UNCORRECTABLE (R447). -/
def execFountaineerMemoryUncorrectable (s : State) : Res :=
  onUnit Instr.fountaineerMemoryUncorrectable.wf s (if s.ftn.boot = .failed then s else s.bootFail 5)

/-! ## Chip reset (R314, R317, R452, R495) -/

/-- Chip reset: everything but what lies outside the chip: cluster memory, the stacks, the integration parameters. -/
def State.chipReset (s : State) : State :=
  { State.reset with
    pending := s.pending, free := s.free, out := s.out, por := s.por
    chip := { Chip.reset with integ := s.chip.integ }
    cells := ⟨{ Cell.reset with cm := s.cells.dflt.cm }, s.cells.ents.map fun e => (e.1, { Cell.reset with cm := e.2.cm })⟩
    gws := ⟨{ Gateway.reset with stack := s.gws.dflt.stack }, s.gws.ents.map fun e => (e.1, { Gateway.reset with stack := e.2.stack })⟩ }

/-- POR_ASSERT (R495): tpn_por_n goes low. -/
def execPorAssert (s : State) : Res := onUnit Instr.porAssert.wf s { s.chipReset with por := false }

/-- POR_RELEASE (R452): nothing has outlived the reset; the boot ROM reaches HELD and step 1 is done. -/
def execPorRelease (s : State) : Res :=
  onUnit Instr.porRelease.wf s (if s.por then s else ({ s.chipReset with por := true } : State).setStep 1)

/-- The commands of the management mailboxes that a chip reset abandons (R432, R433). -/
def State.abandoned (s : State) : List Cmd := ([8, 9].filter fun m => (s.mbx m).busy).map s.cmdOf

/-- CHIP_RESET_AFTER_RESPONSE (R431, R433): 1 µs after the response to a RESET of the chip. -/
def execChipResetAfterResponse (s : State) : Res :=
  onUnit Instr.chipResetAfterResponse.wf s
    (match s.ftn.resetAt with
    | none => s
    | some t =>
      if s.ncyc < t then s
      else (s.chipReset.setStep 1).forEach s.abandoned fun s k => s.respondMbx k false sABANDONED 0 [])

/-- HOST_PORT_RESET (R496). -/
def execHostPortReset (s : State) : Res := onUnit Instr.hostPortReset.wf s (s.modPort .host fun _ => PortLatch.reset)

/-- MGMT_PORT_RESET (R496). -/
def execMgmtPortReset (s : State) : Res := onUnit Instr.mgmtPortReset.wf s (s.modPort .mgmt fun _ => PortLatch.reset)

/-! ## Writes over a port (R8, R9, R505, R506, R511) -/

/-- A refused write is counted, with its address (R511). -/
def State.refuseWrite (s : State) (a : Agent) (addr : Nat) : State :=
  s.modChipRegs fun r => (r.bump (if a == .mgmt then CHP_HOST_STAT_mgmt_refused else CHP_HOST_STAT_host_refused)).set CHP_HOST_STAT_last_addr addr

/-- The doorbell over a port: ring and ack bits (R421, R445, R506). -/
def State.doorbell (s : State) (a : Agent) (v : W32) : State :=
  let ms := (List.range (if a == .mgmt then 2 else 8))
  let s := s.forEach (ms.filter fun m => v.getLsbD (8 + m)) fun s m => s.ackDone (mbxAt a m)
  s.forEach (ms.filter fun m => v.getLsbD m) fun s m => s.ring (mbxAt a m)

/-- Zhevber writes a register: a lower word is held until the upper word comes (R9). R9 is silent on an upper word that finds no lower word held,
or one held for another register: the model's choice (log 65) is that it writes bits [63:32] alone and drops what was held. -/
def State.zWrite (s : State) (addr : Nat) (v : W32) : State :=
  match place .zhevber addr with
  | .unit sc u off =>
    match regAt sc off with
    | none => s
    | some (o, row, upper) =>
      let all := BitVec.allOnes 64
      if row.width = 32 then s.setReg sc u o row (v.setWidth 64) all
      else if !upper then s.modPort .zhevber fun p => { p with held := some (addr, v) }
      else
        let s' := s.modPort .zhevber fun p => { p with held := none }
        match (s.port .zhevber).held with
        | some (k, lo) =>
          if k + 4 = addr then s'.setReg sc u o row (v ++ lo) all else s'.setReg sc u o row (v.setWidth 64 <<< 32) (all <<< 32)
        | none => s'.setReg sc u o row (v.setWidth 64 <<< 32) (all <<< 32)
  | _ => s

/-- A write of the host or the management agent: its own mailboxes, doorbell, consumer index, boot control and boot window are accepted;
a lower word is held; every other mapped address is refused. -/
def State.portWrite (s : State) (a : Agent) (addr : Nat) (v : W32) : State :=
  let mine (m : Nat) : Bool := if a == .mgmt then decide (8 ≤ m) else decide (m < 8)
  match place a addr with
  | .nowhere => s
  | .cmd m k => if mine m then s.cmdWrite m k v else s.refuseWrite a addr
  | .image off => s.bootWrite (.image off) v
  | .staging m off => s.bootWrite (.staging m off) v
  | .unit sc u off =>
    if sc = .chip ∧ off = 0x10400 then s.doorbell a v
    else if sc = .chip ∧ off = 0x10408 ∧ a = .host then (if v.getLsbD 0 then s.bootStart else s)
    else if sc = .chip ∧ off = 0x10428 ∧ a = .host then s.modFtn fun f => { f with evCi := v.toNat % evSize }
    else if sc = .chip ∧ off = 0x10438 then s.modFtn fun f => { f with mCi := v.toNat % mevSize }
    else if !(Place.unit sc u off).mapped then s
    else
      let held := match regAt sc off with
        | some (_, row, upper) => if row.width = 64 ∧ !upper then some (addr, v) else none
        | none => none
      (s.modPort a fun p => { p with held := held }).refuseWrite a addr
  | _ => s.refuseWrite a addr

/-- A write over a port. -/
def State.writeWord (s : State) (a : Agent) (addr : Nat) (v : W32) : State :=
  if a = .zhevber then s.zWrite (wordAddr addr) v else s.portWrite a (wordAddr addr) v

/-- REGISTER_WRITE (R10). -/
def execRegisterWrite (a : Agent) (addr : Nat) (v : W32) (s : State) : Res := onUnit (Instr.registerWrite a addr v).wf s (s.writeWord a addr v)

/-- LOW_WORD_WRITE (R9). -/
def execLowWordWrite (a : Agent) (addr : Nat) (v : W32) (s : State) : Res := onUnit (Instr.lowWordWrite a addr v).wf s (s.writeWord a addr v)

/-- UPPER_WORD_WRITE (R9). -/
def execUpperWordWrite (a : Agent) (addr : Nat) (v : W32) (s : State) : Res := onUnit (Instr.upperWordWrite a addr v).wf s (s.writeWord a addr v)

end Sys2Proof.Machine
end

