-- ==== Sys2Proof/Machine/Snapshot.lean ====
section
/-! DEFINITION. The stillwater snapshot (R479 to R483, R493, R494): the command, the latches at T, the dump; and the balance-check command
(R321). -/

namespace Sys2Proof.Machine

/-! ## Units -/

/-- Key of a unit's latches in Chip.snaps. -/
def snapKey : SnapUnit → Nat
  | .cell c => kSnapCell c
  | .block b => 20000 + b
  | .region r => 30000 + r
  | .link n => 31000 + n
  | .gateway g => 32000 + g
  | .fountaineer => 33000

/-- The cell whose router brings a unit the FREEZE (R277). -/
def State.snapCell (s : State) : SnapUnit → Nat
  | .cell c => c
  | .block b => bcCell b
  | .region r => rmCell r
  | .link n => (linkCell n 0).1
  | .gateway g => (gatewayCell g 0).1
  | .fountaineer => s.cornerRoot

/-- Offset of the words of a unit's record in the dump, among its latched words. -/
def oRec : Nat := 0x8000
/-- Offset of the T[63:3] named, among a unit's latched words, and of its late mark. -/
def oTime : Nat := 0x9000

/-- Has a unit latched for a T[63:3]? -/
def State.snapped (s : State) (key t : Nat) : Bool :=
  (aget s.chip.snaps key).isSome && (s.snapWord key oTime).toNat + (s.snapWord key (oTime + 4)).toNat * 2 ^ 32 == t

/-- Has a FREEZE reached a running unit that has not latched for it (R481)? -/
def State.snapDue (s : State) (u : SnapUnit) (t : Nat) : Bool :=
  let c := s.snapCell u
  (s.rt c).freezeAt == some t && !s.stopped c && !s.snapped (snapKey u) t

/-! ## What a unit latches (R480) -/

/-- The words of a list of bytes at an offset. -/
def wordsAt (off : Nat) (bs : List Byte) : Assoc W32 :=
  (List.range ((bs.length + 3) / 4)).map fun i => (off + 4 * i, BitVec.ofNat 32 (leNat ((bs.drop (4 * i)).take 4)))

/-- The two words of a 64-bit value at an offset. -/
def pairAt (off : Nat) (v : W64) : Assoc W32 := [(off, halfOf v false), (off + 4, halfOf v true)]

/-- A signed count in n bytes, saturating. -/
def satSigned (n : Nat) (v : Int) : List Byte :=
  let m : Int := 2 ^ (8 * n - 1)
  leBytes n (BitVec.ofInt (8 * n) (max (-m) (min (m - 1) v))).toNat

/-- A count in n bytes, saturating. -/
def satCount (n v : Nat) : List Byte := leBytes n (min v (2 ^ (8 * n) - 1))

/-- The open token allocated first. -/
def Ni.oldestOpen (x : Ni) : Option (Nat × Token) :=
  (x.tokens.filter fun e => e.2.isOpen).foldl (fun a e =>
    match a with
    | none => some e
    | some b => if e.2.order < b.2.order then some e else a) none

/-- The channel of a token; 0 for the RD_REQ of a READ, which has none. -/
def Token.chan (t : Token) : Nat :=
  match t.use with
  | .msg ch _ _ => ch
  | .read .. => 0

/-- The age of a token in µs; one not yet injected has none. -/
def State.tokenAge (s : State) (t : Token) : Nat := if t.st == .queued && !t.again then 0 else (s.now - t.start) / usNcyc

/-- The wait of a queue's head in ncyc (R207). -/
def State.headWait (s : State) (q : Queue) : Nat := (q.ents.head?.map fun e => s.ncyc - e.born).getD 0

/-- The longest head wait among the queues of an NI, with its queue. -/
def State.longestWait (s : State) (c : Nat) : Nat × Nat :=
  (s.ni c).queues.foldl (fun a e => if a.1 < s.headWait e.2 then (s.headWait e.2, e.1) else a) (0, 0)

/-- NI_SNAP_Q of a queue (R494). -/
def State.snapQueue (s : State) (c q : Nat) : W64 :=
  let k := (s.ni c).queue q
  match k.ents with
  | [] => BitVec.ofNat 64 (k.reserved * 2 ^ 11)
  | e :: _ => BitVec.ofNat 64 (k.ents.length + k.reserved * 2 ^ 11 + e.kind.toNat * 2 ^ 22 + e.channel.toNat * 2 ^ 26 +
      min (s.headWait k) (2 ^ 24 - 1) * 2 ^ 38)

/-- NI_SNAP_CORE of a core (R494). -/
def State.snapCore (s : State) (c k : Nat) : W32 :=
  let st := s.stallOf c k
  BitVec.ofNat 32 (st.1 + st.2.1 % 4096 * 16 + min (st.2.2 / 64) 65535 * 2 ^ 16)

/-- The header in the switch stage from an input of a dynamic plane, zero where there is none (R494). -/
def Router.pipeHeader (r : Router) (e : Nat) : BitVec 128 :=
  ((((if e < 5 then r.req else r.rep).dec.find? fun d => d.port == e % 5).map fun d => d.pkt.header).getD 0)

/-- The registers of NI_SNAP_BAL in their order (R494). -/
def snapBalOffs : List Nat :=
  [0x40D8, 0x40E0, 0x40E8, 0x40F0, 0x40F8, 0x40E4, 0x4100] ++ (List.range 16).flatMap fun j => [0x5200 + 8 * j, 0x5280 + 8 * j]

/-- The windows of a cell as latched (R494). -/
def State.cellLatch (s : State) (c : Nat) : Assoc W32 :=
  let r := s.rt c
  pairAt 0x180 (r.left0 ++ r.entered0) ++ pairAt 0x188 (r.left1 ++ r.entered1) ++
  ((List.range 24).flatMap fun i => pairAt (0x200 + 8 * i) (if i / 4 = 4 then 0 else s.regShown .zhevber .cell c (0xC0 + 8 * i))) ++
  ((List.range 10).flatMap fun e => wordsAt (0x300 + 16 * e) (leBytes 16 (r.pipeHeader e).toNat)) ++
  ((List.range 64).flatMap fun q => pairAt (0x5400 + 8 * q) (s.snapQueue c q)) ++
  ((List.range 32).map fun k => (0x5600 + 4 * k, s.snapCore c k)) ++
  ((List.range snapBalOffs.length).flatMap fun i => pairAt (0x5680 + 8 * i) (s.regShown .zhevber .cell c (snapBalOffs.getD i 0)))

/-- Does a rill output hold no credit for a VC? A mesh output at the edge of the grid has none to hold. -/
def State.noCredit (s : State) (c p v : Nat) : Bool :=
  if p = 5 then
    match rillEdge c with
    | some (n, _) => decide (32 ≤ ((balOf (s.link n).rillBal v).sent - (balOf (s.link n).rillBal v).credRecv).toNat)
    | none => false
  else match neighbor c p with
    | some d => decide (rillDepth c p ≤ (s.rt d).rillOcc (oppPort p) v)
    | none => false

/-- Ranges of an NI's combine engine in a state that a test picks. -/
def Ni.rangesIn (x : Ni) (f : RangeSt → Bool) : Nat := (x.ranges.filter fun e => f e.2.st).length

/-- The dump record of a cell (R483); `ecc` says that a word of its latches is uncorrectable. -/
def State.cellRecord (s : State) (c : Nat) (late ecc : Bool) : List Byte :=
  let x := s.cell c
  let n := x.ni
  let old := n.oldestOpen
  let w := s.longestWait c
  leBytes 2 c ++ leBytes 1 (late.toNat + (s.fencedCell c).toNat * 4 + n.hold.isReset.toNat * 8 + ecc.toNat * 16) ++
  satCount 1 (n.queues.filter fun e => !e.2.ents.isEmpty).length ++
  satSigned 2 (x.rt.inside 0) ++ satSigned 2 (x.rt.inside 1) ++ satCount 2 n.openTokens ++ satCount 2 n.poolTaken ++ satCount 2 n.robHeld ++
  satCount 1 n.fountain.length ++ satCount 1 (n.rangesIn fun st => st == .held) ++
  satCount 2 (n.rangesIn fun st => st == .open_ || st == .emit) ++ satCount 1 x.rt.answers.length ++
  satCount 1 (x.rt.req.dec.length + x.rt.rep.dec.length) ++
  leBytes 4 (bitMask 32 fun k => (n.core k).stall.isSome) ++
  leBytes 2 ((old.map fun e => e.2.chan).getD 0) ++ satCount 2 ((old.map fun e => s.tokenAge e.2).getD 0) ++
  satCount 2 (w.1 / 64) ++ leBytes 1 w.2 ++ leBytes 1 (bitMask 8 fun r => (s.failures [c]).any fun e => e.1 == r + 1) ++
  leBytes 4 ((old.bind fun e => (aget n.chans e.2.chan).map fun k => k.e.tag.toNat).getD 0) ++
  leBytes 2 (bitMask 16 fun i => s.noCredit c (i / 4) (i % 4)) ++ leBytes 1 (bitMask 4 fun v => s.noCredit c 5 v) ++ List.replicate 9 0

/-- The dump record of a block (R483). -/
def State.blockRec (s : State) (b : Nat) : List Byte :=
  let x := s.block b
  leBytes 2 b ++ leBytes 1 (x.power.code + x.holdFrom.isSome.toNat * 4 + x.fenced.toNat * 8) ++ satCount 1 (s.fencedIn b) ++
    satCount 1 (s.blockSluices b fun y => !y.cell && !y.test) ++ satCount 1 (s.blockSluices b fun y => y.test) ++ [0, 0]

/-- The flags byte of a region's record, its selection apart (R483). -/
def State.regionFlags (s : State) (r : Nat) : Nat :=
  let x := s.region r
  x.asleep.toNat + x.bringUp.toNat * 2 + x.waking.toNat * 4

/-- The dump record of a region (R483). -/
def State.regionRec (s : State) (r : Nat) : List Byte :=
  let m := s.rt (rmCell r)
  leBytes 1 r ++ leBytes 1 (s.regionFlags r) ++ leBytes 1 (m.ver0.toNat + m.ver1.toNat * 4) ++
    leBytes 1 ((s.chip.flip.map (·.step)).getD 0) ++ leBytes 4 ((s.regShown .zhevber .region r 0x10).toNat / 2 ^ 32) ++ List.replicate 8 0

/-- The fullest ingress buffer of a link port. -/
def Link.fullest (l : Link) : Nat :=
  ([l.ingReq, l.ingRep, l.ingSched].flatMap fun b => [0, 1].map fun h => (b.filter fun x => x.half == h).length).foldl max 0

/-- The dump record of a link port (R483). -/
def State.linkRecord (s : State) (n : Nat) : List Byte :=
  let l := s.link n
  leBytes 1 n ++ leBytes 1 (s.linkState n + l.regs.get LNK_STAT_width * 16 + l.sched.toNat * 64) ++ satCount 1 l.bulk.sent.length ++
    satCount 1 l.rill.sent.length ++ satCount 1 l.fullest ++ satCount 1 (l.stagReq.length + l.stagRep.length + l.stagSched.length) ++
    leBytes 2 (l.regs.get LNK_STAT_peer_chip) ++ List.replicate 8 0

/-- The words of a unit as latched: its windows, its record. -/
def State.latchOf (s : State) (u : SnapUnit) (late ecc : Bool) : Assoc W32 :=
  match u with
  | .cell c => s.cellLatch c ++ wordsAt oRec (s.cellRecord c late ecc)
  | .block b => wordsAt oRec (s.blockRec b)
  | .region r => wordsAt oRec (s.regionRec r)
  | .link n => wordsAt oRec (s.linkRecord n)
  | _ => []

/-- A unit latches for a T[63:3]; a cell marks it in CELL_SNAP_STAT (R493). -/
def State.latchUnit (s : State) (u : SnapUnit) (t : Nat) (ecc : Bool) : State :=
  let late := decide (t < s.now)
  let ws := s.latchOf u late ecc ++ [(oTime, BitVec.ofNat 32 t), (oTime + 4, BitVec.ofNat 32 (t / 2 ^ 32)), (oTime + 8, BitVec.ofNat 32 late.toNat)]
  let s := s.modChip fun h => { h with snaps := aput h.snaps (snapKey u) (ws.filter fun e => e.2 != 0) }
  match u with
  | .cell c => s.modCellRegs c fun r => (((r.set CELL_SNAP_STAT_valid 1).set CELL_SNAP_STAT_late late.toNat).set CELL_SNAP_STAT_ecc_err
      ecc.toNat).set CELL_SNAP_STAT_t_ncyc s.now
  | _ => s

/-- FREEZE_LATCH: at the T that the FREEZE of context 0, or of the system context, has named, or on receipt after it (R282, R480, R481); `ecc` says that a
latch word of a cell comes to hold an uncorrectable error (R493). -/
def execFreezeLatch (u : SnapUnit) (ecc : Bool) (s : State) : Res :=
  onUnit (Instr.freezeLatch u ecc).wf s
    (match (s.rt (s.snapCell u)).freezeAt with
    | none => s
    | some t => if s.snapDue u t && decide (t ≤ s.now) then s.latchUnit u t ecc else s)

/-! ## The command (R479) -/

/-- Key in Chip.mbxWait of the SNAPSHOT in mailbox m that waits for the collection of another. -/
def kSnapWait (m : Nat) : Nat := 300 + m

/-- The time of a broadcast over the system (R287): each chip on the longest way costs 162 ncyc, the chip of the root its own walk. R287 gives
these as typical times; the model takes them as they stand (log 66). -/
def State.systemTime (s : State) : Nat := 12 + 162 * (s.dim 0 / 2 + s.dim 1 / 2 + s.dim 2 / 2) + s.rillH

/-- How far ahead of the orders the T of a snapshot of every chip of the system lies at least (R282, R287, R479): the lead by which a system manager
sends its SNAPSHOT commands. -/
def State.systemLead (s : State) : Nat := s.systemTime + s.chget CHP_RILL_CTL_snap_guard

/-- The T of a snapshot: the one named, or the earliest allowed. -/
def State.snapTime (s : State) (k : Cmd) : Nat := if k.arg 0 8 = 0 then 8 * (s.now + s.bcastLead) else k.arg 0 8

/-- Steps 2 and 3 for the command that is held in mailbox m. -/
def State.snapStart (s : State) (k : Cmd) : State :=
  let t := s.snapTime k
  (s.modChip fun h => { h with snap := some ⟨BitVec.ofNat 64 t, k.m, BitVec.ofNat 16 (k.arg 8 2)⟩ }).broadcast 0 2 (t / 8)

/-- SNAPSHOT. -/
def execSnapshot (m : Nat) (s : State) : Res :=
  onUnit (Instr.snapshot m).wf s (s.plainCmd m 0x80 fun k s =>
    if k.arg 0 8 ≠ 0 ∧ k.arg 0 8 / 8 < s.now + s.bcastLead then s.badArg k 16
    else if s.chip.snap.isSome then (s.modChip fun h => { h with mbxWait := aput h.mbxWait (kSnapWait m) m }).holdMbx k
    else (s.snapStart k).holdMbx k)

/-! ## The dump (R482, R483) -/

/-- The record of a unit as latched for T, n bytes; or the record of a unit that has not latched. -/
def State.recordOf (s : State) (u : SnapUnit) (t n : Nat) (unlatched : List Byte) : List Byte :=
  if s.snapped (snapKey u) t then
    (List.range (n / 4)).flatMap fun i => leBytes 4 (s.snapWord (snapKey u) (oRec + 4 * i)).toNat
  else padTo n unlatched

/-- The regions of a mask; zero names every one. -/
def maskRegions (mask : BitVec 16) : List Nat := (List.range 16).filter fun r => mask == 0 || mask.getLsbD r

/-- The units whose records a dump holds in full. -/
def snapUnits (rs : List Nat) : List SnapUnit :=
  rs.map .region ++ (List.range 48).map .link ++ (allBlocks.filter fun b => rs.contains (blockRegion b)).map .block ++
    (allCells.filter fun c => rs.contains (regionOf c)).map .cell

/-- The balance equations that failed at a cell as latched: bits of byte 31 of its record. -/
def State.latchedFails (s : State) (c t : Nat) : List Nat :=
  let b := (s.recordOf (.cell c) t 48 []).getD 31 0
  (List.range 8).filter fun i => b.getLsbD i

/-- The dump of the snapshot at T over regions (R482). -/
def State.dump (s : State) (p : Snap) : List Byte :=
  let t := p.t.toNat / 8
  let rs := maskRegions p.mask
  let blocks := allBlocks.filter fun b => rs.contains (blockRegion b)
  let cells := allCells.filter fun c => rs.contains (regionOf c)
  let late := ((snapUnits rs).filter fun u => s.snapped (snapKey u) t && s.snapWord (snapKey u) (oTime + 8) == 1).length
  let fails := (cells.map fun c => (s.latchedFails c t).length).sum
  let off := 1088 + 8 * blocks.length
  let head := [0x53, 0x54, 0x49, 0x4C, 1, 0] ++ leBytes 2 s.chipId.toNat ++ leBytes 8 p.t.toNat ++
    leBytes 2 (bitMask 16 fun r => rs.contains r) ++ leBytes 2 cells.length ++ leBytes 2 blocks.length ++ satCount 2 late ++
    leBytes 4 (off + 48 * cells.length) ++ leBytes 4 off ++ leBytes 4 fails ++ List.replicate 24 0
  let regions := (List.range 16).flatMap fun r =>
    let b := s.recordOf (.region r) t 16 (leBytes 1 r ++ leBytes 1 (s.regionFlags r))
    b.set 1 (b.getD 1 0 ||| BitVec.ofNat 8 ((rs.contains r).toNat * 8))
  let links := (List.range 48).flatMap fun n => s.recordOf (.link n) t 16 [BitVec.ofNat 8 n, 0x80]
  let blk := blocks.flatMap fun b => s.recordOf (.block b) t 8 (leBytes 2 b ++ [0x10])
  let cel := cells.flatMap fun c => s.recordOf (.cell c) t 48 (leBytes 2 c ++ [0x02])
  let body := regions ++ links ++ blk ++ cel
  head ++ leBytes 4 (crc32 (head ++ List.replicate 4 0 ++ body)) ++ body

/-- The conservation records of a snapshot (R321). -/
def State.snapRecords (s : State) (p : Snap) : State :=
  let t := p.t.toNat / 8
  s.forEach (allCells.filter fun c => (maskRegions p.mask).contains (regionOf c)) fun s c =>
    s.forEach (s.latchedFails c t) fun s i => s.zRecord (mkRec 0x0B 3 c 7 0 0 (i + 1))

/-- The next SNAPSHOT that waits begins (R479, step 1). -/
def State.snapNext (s : State) : State :=
  match (List.range 10).find? fun m => (aget s.chip.mbxWait (kSnapWait m)).isSome with
  | none => s
  | some m => (s.modChip fun h => { h with mbxWait := adel h.mbxWait (kSnapWait m) }).snapStart (s.cmdOf m)

/-- SNAPSHOT_COLLECT: after T, once every unit that the FREEZE has reached has latched. -/
def execSnapshotCollect (m : Nat) (s : State) : Res :=
  onUnit (Instr.snapshotCollect m).wf s
    (match s.chip.snap with
    | none => s
    | some p =>
      let t := p.t.toNat / 8
      if p.mbx ≠ m ∨ !s.zRuns ∨ s.now ≤ t ∨ (snapUnits (maskRegions p.mask)).any fun u => s.snapDue u t then s
      else
        let d := s.dump p
        let s := s.snapRecords p
        let s := s.modFtn fun f => { f with staging := aput f.staging m (mwriteList ((aget f.staging m).getD []) 0 d) }
        ((s.modChip fun h => { h with snap := none }).finishHeld m sOK 0 (leBytes 8 p.t.toNat)).snapNext)

/-! ## BALANCE_CHECK (R321, R431) -/

/-- BALANCE_CHECK. -/
def execBalanceCheck (m : Nat) (s : State) : Res :=
  onUnit (Instr.balanceCheck m).wf s (s.plainCmd m 0x55 fun k s =>
    let a := s.checkBalance allCells
    a.1.finish k sOK 0 (leBytes 2 (min a.2 65535)))

end Sys2Proof.Machine
end

