-- ==== Sys2Proof/Machine/Resets.lean ====
section
/-! DEFINITION. Commanded fences and their lifting (R308, R310), REMAP (R311), ROUTE_EXCEPT (R377, R378), RESET with the ends of resets (R314, R318,
R321), and the hard reset of a region with its re-admission (R316, R461). -/

namespace Sys2Proof.Machine

/-! ## FENCE (R308, R310, R439) -/

/-- Fence a cell by command: Zhevber's record, its share of the fence, and the block fence that follows at the limit (R296, R308). -/
def State.commandFence (s : State) (c : Nat) : State :=
  if s.fencedCell c then s else
  ((s.fenceOnly c 0).zReact (mkRec 0 3 c 7 0 2 0)).fenceByCells (blockOf c) 0 7 0 0

/-- Lift the fence of a cell: the fenced bit clears, its cell sluices toward cells that stand in service open, its NI leaves reset. -/
def State.liftFence (s : State) (c : Nat) : State :=
  if !s.fencedCell c then s else
  let s := s.modCellRegs c fun r => r.set CELL_FAULT_fenced 0
  let s := s.forEach (List.range 4) fun s p =>
    match neighbor c p, aget (s.rt c).sluices p with
    | some d, some x => if x.cell && !s.fencedCell d then s.liftLink c p else s
    | _, _ => s
  if (s.region (regionOf c)).bringUp then s.modNi c fun x => { x with hold := .bringUp } else s.leaveReset c

/-- Zhevber's share of a lifted fence: the cistern, a flip, the corner (R280, R310, R439). -/
def State.afterLift (s : State) : State := ((s.requestFlip .reroute).writeDefect s.defectBytes).moveCorner

/-- A FENCE command of an op; an op above 3 is illegal and goes with op 0. -/
def State.fenceCmd (s : State) (m op : Nat) (body : Cmd → State → State) : State :=
  s.mailboxCmd m 0x52 (fun k => k.arg 2 1 == op || (op == 0 && decide (3 < k.arg 2 1))) (fun _ => some 0) body

/-- FENCE op 0. -/
def execFenceCell (m : Nat) (s : State) : Res :=
  onUnit (Instr.fenceCell m).wf s (s.fenceCmd m 0 fun k s =>
    let c := k.arg 0 2
    if 3 < k.arg 2 1 then s.badArg k 18
    else if !cellOk c then s.badArg k 16
    else (s.commandFence c).ok k)

/-- FENCE op 1: a cell of a fenced block stays as it is. -/
def execUnfenceCell (m : Nat) (s : State) : Res :=
  onUnit (Instr.unfenceCell m).wf s (s.fenceCmd m 1 fun k s =>
    let c := k.arg 0 2
    if !cellOk c then s.badArg k 16
    else if (s.block (blockOf c)).fenced then s.finish k sREJECTED 6 []
    else if !s.fencedCell c then s.ok k
    else ((s.liftFence c).afterLift).ok k)

/-- FENCE op 2. -/
def execFenceBlock (m : Nat) (s : State) : Res :=
  onUnit (Instr.fenceBlock m).wf s (s.fenceCmd m 2 fun k s =>
    let b := k.arg 0 2
    if !blockOk b then s.badArg k 16
    else if (s.block b).fenced then s.ok k
    else ((s.fenceBlockOnly b 0).zReact (mkRec 0 3 (bcCell b) 7 0 3 0)).ok k)

/-- FENCE op 3: the block fence and the fences of its 16 cells are lifted together. -/
def execUnfenceBlock (m : Nat) (s : State) : Res :=
  onUnit (Instr.unfenceBlock m).wf s (s.fenceCmd m 3 fun k s =>
    let b := k.arg 0 2
    if !blockOk b then s.badArg k 16
    else if !(s.block b).fenced then s.ok k
    else
      let s := s.modBlock b fun x => { x with fenced := false, ctlReset := false }
      ((s.forEach (blockCells b) fun s c => s.liftFence c).afterLift).ok k)

/-! ## REMAP (R311, R318) -/

/-- Can a map entry name a cell: in service, its region not taken out (R311, R454)? -/
def State.mappable (s : State) (c : Nat) : Bool := s.inService c && !(s.region (regionOf c)).taken

/-- REMAP. -/
def execRemap (m : Nat) (s : State) : Res :=
  onUnit (Instr.remap m).wf s (s.plainCmd m 0x53 fun k s =>
    let l := k.arg 0 2
    let c := k.arg 2 2
    if !logicalOk l then s.badArg k 16
    else if !cellOk c then s.badArg k 18
    else if !s.mappable c || !(s.mappedTo c).isEmpty then s.finish k sREJECTED 2 []
    else ((s.writeMap l (some c)).post 0x0A unitChip (BitVec.ofNat 64 (l + c * 2 ^ 16)) 0).ok k)

/-! ## ROUTE_EXCEPT (R377, R378) -/

/-- ROUTE_EXCEPT: the entries are kept for every later version, and the command waits for the flip that installs them. -/
def execRouteExcept (m : Nat) (s : State) : Res :=
  onUnit (Instr.routeExcept m).wf s (s.mailboxCmd m 0x50 (fun _ => true)
    (fun k => if 16 < k.arg 0 1 then none else some (4 * k.arg 0 1)) fun k s =>
    let n := k.arg 0 1
    let exc : List W32 := (List.range n).map fun i => BitVec.ofNat 32 (k.extNum (4 * i) 4)
    let s' := s.modChip fun h => { h with exc := exc }
    if 16 < n then s.badArg k 16
    else if s'.excOver then s.finish k sNORES 5 []
    else (s'.requestFlip (.command m 0x50)).holdMbx k)

/-! ## RESET (R314, R318, R431) -/

/-- Key in Chip.mbxWait of the RESET of a scope and unit. -/
def kReset (scope u : Nat) : Nat := 20000 * scope + u

/-- A RESET command of a scope; a scope outside 1 to 6 is illegal and goes with scope 1. The unit must exist; the command then waits for
the end of the reset. -/
def State.resetCmd (s : State) (m scope : Nat) (unitOk : Nat → Bool) : State :=
  s.mailboxCmd m 0x54 (fun k => k.arg 0 1 == scope || (scope == 1 && (k.arg 0 1 == 0 || decide (6 < k.arg 0 1)))) (fun _ => some 0)
    fun k s =>
      let u := k.arg 2 2
      if k.arg 0 1 ≠ scope then s.badArg k 16
      else if !unitOk u then s.badArg k 18
      else ((s.startReset scope u).modChip fun h => { h with mbxWait := aput h.mbxWait (kReset scope u) m }).holdMbx k

/-- RESET scope 1. -/
def execResetNi (m : Nat) (s : State) : Res := onUnit (Instr.resetNi m).wf s (s.resetCmd m 1 cellOk)

/-- RESET scope 2. -/
def execResetCell (m : Nat) (s : State) : Res := onUnit (Instr.resetCell m).wf s (s.resetCmd m 2 cellOk)

/-- RESET scope 3. -/
def execResetBlock (m : Nat) (s : State) : Res := onUnit (Instr.resetBlock m).wf s (s.resetCmd m 3 blockOk)

/-- RESET scope 4. -/
def execResetSoftRegion (m : Nat) (s : State) : Res := onUnit (Instr.resetSoftRegion m).wf s (s.resetCmd m 4 regionOk)

/-- RESET scope 5: the first step of R316; the command waits until the region has been reset. -/
def execResetHardRegion (m : Nat) (s : State) : Res := onUnit (Instr.resetHardRegion m).wf s (s.resetCmd m 5 regionOk)

/-- RESET scope 6, under slot 1 alone: the record of action 5, the response, and the chip resets 1 µs later (R314, R431). -/
def execResetChip (m : Nat) (s : State) : Res :=
  onUnit (Instr.resetChip m).wf s (s.mailboxCmd m 0x54 (fun k => k.arg 0 1 == 6) (fun _ => some 0) fun k s =>
    if k.slot ≠ 1 then s.finish k sDENIED 0 []
    else ((s.zRecord (mkRec 0 3 unitChip 7 0 5 0)).ok k).modFtn fun f => { f with resetAt := some (s.ncyc + 1800) })

/-! ## Hard region reset (R316) -/

/-- The links that cross the boundary of a region, by their cells in it. -/
def boundaryLinks (r : Nat) : List (Nat × Nat) :=
  (regionCells r).flatMap fun c => (List.range 4).filterMap fun p =>
    match neighbor c p with
    | some d => if regionOf d = r then none else some (c, p)
    | none => none

/-- Credits of a boundary rill port after the reset of its region: what the router within had to return is returned (R320). -/
def State.settleRill (s : State) (c p : Nat) : State :=
  match neighbor c p with
  | none => s
  | some d =>
    s.forEach (List.range 4) fun s v =>
      let i := 4 * p + v
      let o := 4 * oppPort p + v
      let sent := (balOf (s.rt d).rillBal o).sent
      s.modRt c fun r => { r with rillBal := aput r.rillBal i { balOf r.rillBal i with credSent := sent, recv := sent } }

/-- A cell after the hard reset of its region: both table versions FREE, tables cleared, its NI in bring-up hold or as a fenced NI; the
cluster memory, the sluices, closed rill ports and the counts of its boundary rill ports stay. -/
def Cell.hardReset (x : Cell) (ncyc : Nat) : Cell :=
  let fenced := x.regs.flag CELL_FAULT_fenced
  { x with
    regs := (Regs.reset .cell).set CELL_FAULT_fenced fenced.toNat
    rt := { Router.reset with
      rotBase := ncyc % 4, sluices := x.rt.sluices, rillClosed := x.rt.rillClosed, rillBal := x.rt.rillBal }
    ni := { x.ni.cleared (if fenced then .ni else .bringUp) with descs := [], ejected := [] } }

/-- Remove the rill counts of the ports that lead within the region: both ends start anew. -/
def Router.dropInner (r : Router) (c : Nat) : Router :=
  { r with rillBal := r.rillBal.filter fun e => (neighbor c (e.1 / 4)).any fun d => regionOf d != regionOf c }

/-- A block controller after the hard reset of its region; the transfers that its crossings hold complete in Run (R403). -/
def Block.hardReset (x : Block) (ncyc : Nat) : Block :=
  { Block.reset with
    fenced := x.fenced, ctlReset := x.fenced, idleFrom := ncyc, since := x.since, crossing := x.crossing
    power := if x.power == .off then .off else .run }

/-- Clear the rows of a bank at cells of a region. -/
def Bank.without (k : Bank) (r : Nat) : Bank := { k with rows := k.rows.filter fun e => regionOf e.cell != r }

/-- The latches of a region's cells are forgotten with its units. -/
def Chip.dropRegion (h : Chip) (r : Nat) : Chip :=
  { h with
    banks0 := h.banks0.without r, banks1 := h.banks1.without r
    snaps := h.snaps.filter fun e => !((regionCells r).map kSnapCell).contains e.1 }

/-- Steps 2 and 3 of R316: the boundary closes, sluices and rill ports; the region's units are reset; the rill routes and the corner avoid the
region. The region manager's copy of the map is written again (R312). Gateways with a cell in the region present nothing (R452). -/
def State.isolateRegion (s : State) (r : Nat) : State :=
  let s := s.forEach (boundaryLinks r) fun s e => ((s.shutLink e.1 e.2 true 0).closeRill e.1 e.2).settleRill e.1 e.2
  let s := s.forEach (regionCells r) fun s c => ((s.releaseStalls c).modCell c fun x => x.hardReset s.ncyc).modRt c fun x => x.dropInner c
  let s := s.forEach (regionBlocks r) fun s b => s.modBlock b fun x => x.hardReset s.ncyc
  let s := s.modRegion r fun x => { Region.reset with map := x.map, bringUp := true, isolate := true, taken := x.taken }
  let s := s.forEach ((List.range 20).filter fun g => (List.range 8).any fun k => regionOf (gatewayCell g k).1 == r) fun s g =>
    s.modGw g fun x => { x with hold := true }
  ((s.modChip fun h => h.dropRegion r).rewriteRill).moveCorner

/-- HARD_RESET_ISOLATE: the flip asked for has been made, and the old version is FREE. -/
def execHardResetIsolate (r : Nat) (s : State) : Res :=
  onUnit (Instr.hardResetIsolate r).wf s
    (if !(s.region r).hard || !s.flipped (fun b => b.quiet.contains r) then s
    else (s.isolateRegion r).answerWait (kReset 5 r) sOK 0)

/-! ## The end of a reset (R184, R314, R318, R321, R461) -/

/-- An NI held by a reset leaves it: into bring-up hold while its region is held, else into service. A fenced NI and one of a block in Off
stay. -/
def State.endNi (s : State) (c : Nat) : State :=
  if (s.block (blockOf c)).power == .off || s.fencedCell c then s
  else if (s.region (regionOf c)).bringUp then s.modNi c fun x => { x with hold := .bringUp }
  else s.leaveReset c

/-- The reset of a block ends: its controller, unless the block is fenced, and its cells. -/
def State.endBlock (s : State) (b : Nat) : State :=
  (s.forEach (blockCells b) fun s c => s.endNi c).modBlock b fun x => { x with ctlReset := x.fenced, idleFrom := s.ncyc }

/-- Re-admission begins: the self-test of the region's blocks, with the boundary sluices that face awake regions in TEST (R461). -/
def State.beginReadmit (s : State) (r : Nat) : State :=
  let es := (s.facing r).filter fun e => !s.fencedCell e.1 && !((neighbor e.1 e.2).any s.fencedCell) &&
    ((aget (s.rt e.1).sluices e.2).bind (·.under)).isNone
  (s.forEach es fun s e => s.testLink e.1 e.2).beginTest (regionBlocks r) (testNcyc 0)

/-- RESET_ENDED: a scope and unit that stand in reset leave it, with the record of action 6; the command that ordered the reset completes. -/
def execResetEnded (scope u : Nat) (s : State) : Res :=
  onUnit (Instr.resetEnded scope u).wf s
    (match scope with
    | 1 | 2 =>
      let h := (s.ni u).hold
      if (scope == 1 && h != .ni) || (scope == 2 && h != .cell) then s
      else if s.fencedCell u then s.answerWait (kReset scope u) sOK 0
      else ((s.endNi u).resetRecord scope u 6).answerWait (kReset scope u) sOK 0
    | 3 =>
      if !(s.block u).ctlReset then s
      else if (s.block u).fenced then s.answerWait (kReset 3 u) sOK 0
      else ((s.endBlock u).resetRecord 3 u 6).answerWait (kReset 3 u) sOK 0
    | 4 =>
      if !((regionCells u).any fun c => (s.ni c).hold == .region) then s
      else
        let s := (s.forEach (regionBlocks u) fun s b => s.endBlock b).resetRecord 4 u 6
        (s.checkBalance (regionCells u)).1.answerWait (kReset 4 u) sOK 0
    | _ =>
      let x := s.region u
      if x.isolate && x.bringUp && !x.hard && !x.taken && (regionBlocks u).all fun b => (s.block b).test.isNone then s.beginReadmit u
      else s)

end Sys2Proof.Machine
end

