-- ==== Sys2Proof/Machine/Setup.lean ====
section
/-! DEFINITION. The mailbox commands of bring-up and set-up: GET_INFO, CISTERN_OPEN, DEFECT_LOAD, MAP_INSTALL, ROUTE_INIT (R431, R441, R443,
R451, R454, R456), PARTERRE_SET, CLASS_SET (R204, R213, R515), WINDOW_SET (R169, R190, R191), QUEUE_SET (R154, R164), REG_SET (R431). -/

namespace Sys2Proof.Machine

/-! ## GET_INFO -/

/-- GET_INFO (R431). -/
def execGetInfo (m : Nat) (s : State) : Res :=
  onUnit (Instr.getInfo m).wf s (s.plainCmd m 0x01 fun k s =>
    let free := 4096 - s.usedTrees.length
    s.finish k sOK 0 (leBytes 4 s.ftn.version.toNat ++ leBytes 4 (s.regShown .zhevber .chip 0 0).toNat ++
      leBytes 4 ((s.ftn.startCount.map (·.toNat)).getD 0) ++ leBytes 1 (((List.range 4).map fun i => s.slotState i * 4 ^ i).sum) ++ [0] ++
      leBytes 2 free ++ leBytes 8 s.time.toNat))

/-! ## CISTERN_OPEN (R441, R443, R453) -/

/-- A page list of a BADPAGE record. -/
def pageList (p : List Byte) : List Nat := (List.range (p.length / 2)).map fun i => pg p (2 * i) 2

/-- The pages that a copy's own BADPAGE records name (R439, R442). -/
def State.readBad (s : State) (j : Nat) : List Nat :=
  (List.range 4).flatMap fun i =>
    ((((s.cist j).find 5 i).bind fun r => s.bestPage j r).map fun n => pageList (pagePayload (s.page j n))).getD []

/-- Read both copies, and the retired pages of each. -/
def State.readCistern (s : State) : State :=
  s.forEach [0, 1] fun s j =>
    let s := s.readCopy j
    let bad := s.readBad j
    s.modCist j fun k => { k with badPages := k.badPages ++ bad.filter fun n => !k.badPages.contains n }

/-- Repair every record, counting those repaired. -/
def State.repairAll (s : State) : State × Nat :=
  s.allRecs.foldl (fun a e => let r := a.1.repair e.1 e.2; (r.1, a.2 + r.2)) (s, 0)

/-- Open the cistern for a day and a retention: the records are repaired, START is written with the count plus 1, old records are
rewritten. Nothing is left where neither copy could take START. -/
def State.openCistern (s : State) (day retention : Nat) : State × Nat :=
  let s := s.modFtn fun f => { f with day := day, retention := retention, dayFrom := s.now }
  let r := s.readCistern.repairAll
  let count := (((r.1.cistRead 1 0).map fun p => leNat (p.take 4)).getD 0 + 1) % 2 ^ 32
  let s := (r.1.modFtn fun f => { f with startCount := some (BitVec.ofNat 32 count) }).cistWrite 1 0 (leBytes 4 count)
  (s.retentionPass, r.2)

/-- CISTERN_OPEN. -/
def execCisternOpen (m : Nat) (s : State) : Res :=
  onUnit (Instr.cisternOpen m).wf s (s.plainCmd m 0x08 fun k s =>
    let keep := if k.arg 4 2 = 0 then 90 else k.arg 4 2
    let r := s.openCistern (k.arg 0 4) keep
    let usable := (r.1.cist 0).live.toNat + 2 * (r.1.cist 1).live.toNat
    if s.stepDone 4 then s.finish k sINUSE 4 []
    else if !(s.readCistern.cist 0).live && !(s.readCistern.cist 1).live then s.readCistern.finish k sNOTREADY 0x101 []
    else if usable = 0 then (r.1.modFtn fun f => { f with startCount := none }).finish k sNOTREADY 0x101 []
    else ((r.1.setStep 4).deriveSlot3).finish k sOK 0
      (leBytes 4 ((r.1.ftn.startCount.map (·.toNat)).getD 0) ++ leBytes 1 usable ++ [0, 0, 0] ++ leBytes 2 r.2))

/-! ## DEFECT_LOAD (R454) -/

/-- What a controller has to say is not said: loaded defects raise no records. -/
def State.unsaid (s old : State) : State :=
  let s := s.forEach allBlocks fun s b => s.modBlock b fun x => { x with waiting := (old.block b).waiting, regs := (old.block b).regs }
  s.forEach (List.range 16) fun s r => s.modRegion r fun x => { x with waiting := (old.region r).waiting }

/-- Apply a DEFECT map: port sluices of class LINK_UNCORR and fences, the escalations of R296 with them. A region that reaches its limit is
taken out and stays in bring-up hold. -/
def State.loadDefects (s : State) (map : List Byte) : State :=
  let apply (s : State) (i : Nat) : State :=
    let v := (map.getD i 0).toNat
    let c := mkCell (i % 96) (i / 96)
    let s := s.forEach ((List.range 4).filter fun p => v.testBit p) fun s p => s.closeSluice c p 2 1 0
    if v.testBit 4 || v.testBit 5 then s.fenceCell c 2 7 0 0 else s
  let t := (s.forEach (List.range 9216) apply).unsaid s
  t.forEach (List.range 16) fun s r =>
    if (s.region r).regs.get RGN_FAULT_CTL_block_fence_limit ≤ s.fencedBlocks r then
      s.modRegion r fun x => { x with taken := true, isolate := true }
    else s

/-- DEFECT_LOAD. -/
def execDefectLoad (m : Nat) (s : State) : Res :=
  onUnit (Instr.defectLoad m).wf s (s.mailboxCmd m 0x10 (fun _ => true)
    (fun k => if k.arg 0 1 = 0 then some 0 else if k.arg 0 1 = 1 then some 9216 else none) fun k s =>
    let done (s : State) : State :=
      (s.setStep 6).finish k sOK 0
        (leBytes 2 (allCells.filter s.fencedCell).length ++ leBytes 2 (allBlocks.filter fun b => (s.block b).fenced).length)
    if s.stepDone 6 then s.finish k sINUSE 6 []
    else if k.arg 0 1 = 0 then
      if !s.stepDone 4 then s.finish k sNOTREADY 0x101 [] else done (s.loadDefects (s.readDefect.getD []))
    else if k.arg 0 1 = 1 then
      let t := s.loadDefects k.ext
      done (if s.stepDone 4 then t.writeDefect k.ext else t)
    else s.badArg k 16)

/-! ## MAP_INSTALL (R456) -/

/-- The map of mode 0. -/
def State.plainMap (s : State) : List (Option Nat) :=
  (List.range 9216).map fun i => let c := mkCell (i % 96) (i / 96); if s.mappable c then some c else none

/-- The map that extended arguments spell. -/
def Cmd.map (k : Cmd) : List (Option Nat) :=
  (List.range 9216).map fun i => let v := k.extNum (2 * i) 2; if v = 0x3FFF then none else some v

/-- MAP_INSTALL: a map with an entry out of service or named twice installs nothing. -/
def execMapInstall (m : Nat) (s : State) : Res :=
  onUnit (Instr.mapInstall m).wf s (s.mailboxCmd m 0x11 (fun _ => true)
    (fun k => if k.arg 0 1 = 0 then some 0 else if k.arg 0 1 = 1 then some 18432 else none) fun k s =>
    let map := if k.arg 0 1 = 0 then s.plainMap else k.map
    let named := map.filterMap id
    if s.stepDone 8 then s.finish k sINUSE 8 []
    else if 1 < k.arg 0 1 then s.badArg k 16
    else if !(named.all s.mappable) || named.eraseDups.length ≠ named.length then s.finish k sREJECTED 2 []
    else ((s.installMap map).setStep 8).finish k sOK 0 (leBytes 2 (9216 - named.length)))

/-! ## ROUTE_INIT (R456) -/

/-- Fault code of INTERNAL where no corner can be chosen: R432 gives none (log 12). -/
def zNoCorner : Nat := 1

/-- Epoch-zero tables: rill routes around closed rill ports, cascade tables cleared, version 0 ACTIVE. -/
def State.epochZero (s : State) : State :=
  let s := if s.cells.ents.any fun e => e.2.rt.rillClosed != 0 then s.rewriteRill else s
  let b := s.newBuild
  let s := s.modChip fun h => { h.setBuild 0 b with active := 0, routed := true }
  { s with cells := s.cells.mapAll fun x => { x with rt := ({ x.rt with casc := [], rows0 := b.id }.setVer 0 vACTIVE).setVer 1 vFREE } }

/-- ROUTE_INIT. -/
def execRouteInit (m : Nat) (s : State) : Res :=
  onUnit (Instr.routeInit m).wf s (s.plainCmd m 0x13 fun k s =>
    let t := s.chooseCorner
    if s.stepDone 9 then s.finish k sINUSE 9 []
    else if !t.ctxValid 0 then t.finish k sINTERNAL zNoCorner []
    else (t.epochZero.setStep 9).finish k sOK 0 (leBytes 1 0))

/-! ## PARTERRE_SET and CLASS_SET (R204, R213, R515) -/

/-- Set the class of a parterre: the buckets concerned are refilled at the end of this ncyc (R204, State.refillSpill). -/
def State.setClass (s : State) (p cls : Nat) : State :=
  let f := CHP_SPILL_MAP_class_k.at (p / 8)
  s.modChipRegs fun r => r.set f (setBits (r.get f) (4 * (p % 8)) 4 cls)

/-- Set the parterre that owns cells. -/
def State.setOwner (s : State) (cells : List Nat) (p : Nat) : State :=
  s.forEach cells fun s c => s.zCell c fun s => (s.modCellRegs c fun r => r.set NI_OWNER_parterre p).refillNi c

/-- The parterre of a number, once created. -/
def State.parterre (s : State) (p : Nat) : Option Parterre := s.chip.parterres.find? fun x => x.id == p

/-- The cells that a mask of extended arguments names, bit 96y + x. -/
def Cmd.cells (k : Cmd) : List Nat :=
  ((List.range 9216).filter fun i => (k.ext.getD (i / 8) 0).getLsbD (i % 8)).map fun i => mkCell (i % 96) (i / 96)

/-- PARTERRE_SET op 0; an op above 1 is illegal. -/
def execParterreSetCreate (m : Nat) (s : State) : Res :=
  onUnit (Instr.parterreSetCreate m).wf s (s.mailboxCmd m 0x20 (fun k => k.arg 1 1 != 1)
    (fun k => if k.arg 1 1 = 0 then some 1152 else none) fun k s =>
    let p := k.arg 0 1
    let cells := k.cells
    if p = 0 then s.badArg k 16
    else if 1 < k.arg 1 1 then s.badArg k 17
    else if 15 < k.arg 2 1 then s.badArg k 18
    else if (s.parterre p).isSome then s.finish k sINUSE p []
    else match cells.find? fun c => s.cget c NI_OWNER_parterre != 0 && s.cget c NI_OWNER_parterre != p with
      | some c => s.finish k sINUSE (s.cget c NI_OWNER_parterre) []
      | none =>
        let s := (s.setClass p (k.arg 2 1)).setOwner cells p
        ((s.modChip fun h => { h with parterres := h.parterres ++ [⟨p, cells⟩] }).setStep 13).ok k)

/-- PARTERRE_SET op 1: its cells belong to no tenant; its class returns to 0. -/
def execParterreSetDestroy (m : Nat) (s : State) : Res :=
  onUnit (Instr.parterreSetDestroy m).wf s (s.mailboxCmd m 0x20 (fun k => k.arg 1 1 == 1) (fun _ => some 0) fun k s =>
    let p := k.arg 0 1
    if p = 0 || (s.parterre p).isNone then s.badArg k 16
    else if 15 < k.arg 2 1 then s.badArg k 18
    else
      let s := (s.setOwner (allCells.filter fun c => s.cget c NI_OWNER_parterre == p) 0).setClass p 0
      (s.modChip fun h => { h with parterres := h.parterres.filter fun x => x.id != p }).ok k)

/-- CLASS_SET: the buckets of the class are refilled at the end of this ncyc (R204, State.refillSpill). -/
def execClassSet (m : Nat) (s : State) : Res :=
  onUnit (Instr.classSet m).wf s (s.plainCmd m 0x21 fun k s =>
    let i := k.arg 0 1
    if 15 < i then s.badArg k 16
    else if 2 ^ 20 < k.arg 8 3 then s.badArg k 24
    else if 2 ^ 11 ≤ k.arg 12 2 then s.badArg k 28
    else
      (s.modChipRegs fun r => (((r.set (CHP_SPILL_CLASS_ni_rate.at i) (k.arg 2 2)).set (CHP_SPILL_CLASS_ni_burst.at i) (k.arg 4 2)).set
        (CHP_SPILL_CLASS_gw_rate.at i) (k.arg 8 3)).set (CHP_SPILL_CLASS_gw_burst.at i) (k.arg 12 2)).ok k)

/-! ## WINDOW_SET (R169, R190, R191, R503) -/

/-- A window as WINDOW_SET gives it or a table holds it: gateway cell (0 for an NI), parterre, base, granules, byte address. -/
structure Win where
  cell : Nat
  parterre : Nat
  base : Nat
  count : Nat
  addr : Nat
deriving DecidableEq, Repr

/-- The valid windows of an NI's table but one. -/
def Regs.niWindows (r : Regs) (but : Nat) : List Win :=
  ((List.range 16).filter fun w => w != but && r.flag (NI_WIN_A_valid.at w)).map fun w =>
    ⟨0, r.get (NI_WIN_A_parterre.at w), r.get (NI_WIN_A_base.at w), r.get (NI_WIN_A_count_m1.at w) + 1, r.get (NI_WIN_B_addr.at w) * 16⟩

/-- The valid windows of a gateway's table but one. -/
def Regs.gwWindows (r : Regs) (but : Nat) : List Win :=
  ((List.range 64).filter fun w => w != but && r.flag (CHP_MGW_WIN_A_valid.at w)).map fun w =>
    ⟨r.get (CHP_MGW_WIN_A_cell.at w), r.get (CHP_MGW_WIN_A_parterre.at w), r.get (CHP_MGW_WIN_A_base.at w),
     r.get (CHP_MGW_WIN_A_count_m1.at w) + 1, r.get (CHP_MGW_WIN_B_addr.at w) * 16⟩

/-- Do two runs of numbers share one? -/
def overlap (a n b m : Nat) : Bool := decide (a < b + m) && decide (b < a + n)

/-- The first row of R169 that a window breaks, numbered from 1; 0 when all hold. `gw` is the gateway, `atGw` tells an NI at a gateway
cell. -/
def Win.row (w : Win) (gw : Option Nat) (atGw : Bool) (others : List Win) : Nat :=
  let top := if gw.isNone && atGw then 0x800000 else 0x1000000
  let bytes := 48 * w.count
  if top < w.base + w.count || (gw.isSome && decide (w.base < 0x800000)) then 1
  else if others.any fun o => o.parterre == w.parterre && o.cell == w.cell && overlap o.base o.count w.base w.count then 2
  else if others.any fun o => o.parterre != w.parterre && overlap o.addr (48 * o.count) w.addr bytes then 3
  else if gw.isSome && decide (80000000000 < w.addr + bytes) then 4
  else if (gw == some 0 || gw == some 10) && decide (w.addr < 0x10000000) then 5
  else if w.addr % 16 ≠ 0 then 6
  else 0

/-- The gateway that a WINDOW_SET unit names. -/
def gwUnit (u : Nat) : Option Nat := if 0x3F80 ≤ u ∧ u < 0x3F94 then some (u - 0x3F80) else none

/-- Write a window into its table. -/
def State.putWindow (s : State) (u : Nat) (i flags : Nat) (w : Win) (tag : Nat) : State :=
  match gwUnit u with
  | some g => s.modGwRegs g fun r =>
      (((((((r.set (CHP_MGW_WIN_A_valid.at i) (flags % 2)).set (CHP_MGW_WIN_A_rd.at i) (bits flags 1 1)).set (CHP_MGW_WIN_A_wr.at i)
        (bits flags 2 1)).set (CHP_MGW_WIN_A_cell.at i) w.cell).set (CHP_MGW_WIN_A_parterre.at i) w.parterre).set
        (CHP_MGW_WIN_A_base.at i) w.base).set (CHP_MGW_WIN_A_count_m1.at i) (w.count - 1)).set (CHP_MGW_WIN_B_addr.at i) (w.addr / 16)
  | none => s.zCell u fun s => s.modCellRegs u fun r =>
      (((((((r.set (NI_WIN_A_valid.at i) (flags % 2)).set (NI_WIN_A_rd.at i) (bits flags 1 1)).set (NI_WIN_A_wr.at i) (bits flags 2 1)).set
        (NI_WIN_A_parterre.at i) w.parterre).set (NI_WIN_A_base.at i) w.base).set (NI_WIN_A_count_m1.at i) (w.count - 1)).set
        (NI_WIN_B_addr.at i) (w.addr / 16)).set (NI_WIN_TAG_tag.at i) tag

/-- WINDOW_SET: the rules of R169 hold of a window that is to be valid. -/
def execWindowSet (m : Nat) (s : State) : Res :=
  onUnit (Instr.windowSet m).wf s (s.plainCmd m 0x22 fun k s =>
    let u := k.arg 0 2
    let i := k.arg 2 1
    let fl := k.arg 3 1
    let gw := gwUnit u
    let w : Win := ⟨bits fl 3 3, k.arg 4 1, k.arg 5 3, k.arg 8 3 + 1, k.arg 16 8⟩
    let unitOk : Bool := match gw with
      | some g => s.chip.integ.mgwPresent.getLsbD g
      | none => cellOk u
    let others := match gw with
      | some g => (s.gw g).regs.gwWindows i
      | none => (s.cell u).regs.niWindows i
    if !unitOk then s.badArg k 16
    else if (if gw.isSome then 63 else 15) < i then s.badArg k 18
    else if 63 < fl || (gw.isNone && w.cell != 0) then s.badArg k 19
    else if (if gw.isSome then 2 ^ 40 else 2 ^ 48) ≤ w.addr then s.badArg k 32
    else
      let row := if fl % 2 = 0 then 0 else w.row gw (s.gatewayCell? u).isSome others
      if row ≠ 0 then s.finish k sCONFLICT row []
      else (s.putWindow u i fl w (k.arg 24 4)).ok k)

/-! ## QUEUE_SET (R154, R164) -/

/-- A queue's ring is configured anew: it is empty, without a ring fault (R153). -/
def Queue.newRing (y : Queue) : Queue := { y with p := 0, c := 0, u := 0, ringFault := false }

/-- May a queue's ring be configured: while U is 0, and to clear a ring fault, under which no release lowers U (R153, R164; log 67)? -/
def Queue.ringSettable (y : Queue) : Bool := y.u == 0 || y.ringFault

/-- QUEUE_SET: a queue's configuration changes only while it is empty without reservations, its ring only while U is 0 or to clear a ring
fault (R153); a queue disabled ends the reads that stall on it (R157). -/
def execQueueSet (m : Nat) (s : State) : Res :=
  onUnit (Instr.queueSet m).wf s (s.plainCmd m 0x23 fun k s =>
    let c := k.arg 0 2
    let q := k.arg 2 1
    let r := (s.cell c).regs
    let x := (s.ni c).queue q
    let others := (((List.range 64).filter fun j => j != q).map fun j => r.get (NI_Q_CFG_q_min.at j)).sum
    let cfg : List (Field × Nat) := [(NI_Q_CFG_q_min.at q, k.arg 4 2), (NI_Q_CFG_q_max.at q, k.arg 6 2),
      (NI_Q_CFG_wait_limit.at q, k.arg 8 2), (NI_Q_CFG_stale_time.at q, k.arg 10 2)]
    let ring : List (Field × Nat) := [(NI_Q_RING_base.at q, k.arg 16 8 / 4096), (NI_Q_RING_size_4k.at q, k.arg 24 2)]
    let changed (l : List (Field × Nat)) : Bool := l.any fun e => r.get e.1 != e.2
    if !cellOk c then s.badArg k 16
    else if 63 < q then s.badArg k 18
    else if 1024 < k.arg 4 2 || 1024 < k.arg 4 2 + others then s.badArg k 20
    else if 1024 < k.arg 6 2 || k.arg 6 2 < k.arg 4 2 then s.badArg k 22
    else if 2 ^ 12 ≤ k.arg 10 2 then s.badArg k 26
    else if k.arg 16 8 % 4096 ≠ 0 || 2 ^ 48 ≤ k.arg 16 8 then s.badArg k 32
    else if 4096 < k.arg 24 2 then s.badArg k 40
    else if (changed cfg && x.taken != 0) || (changed ring && !x.ringSettable) then s.finish k sINUSE q []
    else
      (s.zCell c fun s =>
        let s := (s.modCellRegs c fun r => (cfg ++ ring).foldl (fun r e => r.set e.1 e.2) r).endDisabled c q
        if x.ringSettable then s.modNi c fun n => n.modQueue q Queue.newRing else s).ok k)

/-! ## REG_SET and REG_SET_CRIT (R431) -/

/-- Registers that another command writes (R431, R513 to R516). -/
def cmdOwned (sc : Scope) (off : Nat) : Bool :=
  let in_ (a b : Nat) : Bool := decide (a ≤ off) && decide (off < b)
  match sc with
  | .cell => off == 0x40 || off == 0x4000 || in_ 0x4200 0x4600 || in_ 0x4C80 0x4DC0 || in_ 0x4E00 0x4EC0 || in_ 0x4F00 0x5080 || in_ 0x5100 0x5200
  | .link => off == 0 || off == 0x28
  | .gateway => in_ 0x400 0x800
  | .chip => off == 4 || off == 0x18 || in_ 0x200 0x300
  | _ => false

/-- The registers a REG_SET names: scope, offset and units; the chip's are named by their host address. None where no unit of that kind has
such a place; an empty list where the unit does not exist. -/
def State.regSetUnits (s : State) (k : Cmd) : Option (Scope × Nat × List Nat) :=
  let off := k.arg 0 4
  let u := k.arg 6 2
  let one (ok : Bool) : List Nat := if ok then [u] else []
  match k.arg 4 1 with
  | 0 => some (.cell, off, one (cellOk u))
  | 1 => some (.cell, off, allCells)
  | 2 => some (.block, off, one (blockOk u))
  | 3 => some (.block, off, allBlocks)
  | 4 => some (.region, off, one (regionOk u))
  | 5 => some (.region, off, List.range 16)
  | 6 => some (.link, off, one (linkOk u))
  | 7 => some (.link, off, List.range 48)
  | _ =>
    match place .zhevber off with
    | .unit .chip _ o => if o = off then some (.chip, o, [0]) else none
    | .unit .gateway g o => if off % 4 = 0 ∧ s.chip.integ.mgwPresent.getLsbD g then some (.gateway, o, [g]) else none
    | _ => none

/-- May Zhevber write a value into an NI's register: a queue's configuration changes only while the queue is empty without reservations, with
q_min at most q_max and the q_min of all queues at most 1,024 (R154, R164), its ring only while U is 0 or to clear a ring fault; abandon_us is
greater than a retx_us that is not 0 (R165). The status that refuses it and its detail. -/
def State.mayWriteNi (s : State) (c off : Nat) (v mask : W64) : Option (Nat × Nat) :=
  let r := (s.cell c).regs
  let y := ((regRow .cell off).map fun row => r.store off row v mask).getD r
  let q := (off - 0x4200) / 8 % 64
  let x := (s.ni c).queue q
  if off = 0x401C then
    if y.get NI_TOK_CTL_retx_us ≠ 0 ∧ y.get NI_TOK_CTL_abandon_us ≤ y.get NI_TOK_CTL_retx_us then some (sBADARG, 24) else none
  else if 0x4200 ≤ off ∧ off < 0x4400 then
    if y.get (NI_Q_CFG_q_max.at q) < y.get (NI_Q_CFG_q_min.at q) ∨
        1024 < ((List.range 64).map fun j => y.get (NI_Q_CFG_q_min.at j)).sum then some (sBADARG, 24)
    else if x.taken ≠ 0 ∧ y.read off ≠ r.read off then some (sINUSE, q) else none
  else if 0x4400 ≤ off ∧ off < 0x4600 then
    if !x.ringSettable ∧ y.read off ≠ r.read off then some (sINUSE, q) else none
  else none

/-- Zhevber writes a register of a unit for REG_SET (R404); a ring configured anew is empty. -/
def State.regWrite (s : State) (sc : Scope) (u off : Nat) (row : RegRow) (v mask : W64) : State :=
  let s := s.setReg sc u off row v mask
  if sc = .cell ∧ 0x4400 ≤ off ∧ off < 0x4600 ∧ ((s.ni u).queue ((off - 0x4400) / 8)).ringSettable then
    s.modNi u fun n => n.modQueue ((off - 0x4400) / 8) Queue.newRing
  else s

/-- The rules of REG_SET, REG_SET_CRIT with `crit`. CHP_CHIP_ID is written by SET_IDENTITY alone (R24). -/
def State.regSetRun (s : State) (k : Cmd) (crit : Bool) : State :=
  if 8 < k.arg 4 1 then s.badArg k 20
  else match s.regSetUnits k with
    | none => s.badArg k 16
    | some (sc, off, us) =>
      match regAt sc off with
      | some (_, row, false) =>
        let v := BitVec.ofNat 64 (k.arg 8 8)
        let mask := BitVec.ofNat 64 (k.arg 16 8)
        if row.rw = 0 || (cmdOwned sc off && !crit) || (sc == .chip && off == CHP_CHIP_ID_chip_id.off) then s.badArg k 16
        else if us.isEmpty then s.badArg k 22
        else match (if sc = .cell then us.findSome? fun c => s.mayWriteNi c off v mask else none) with
        | some (st, d) => s.finish k st d []
        | none =>
          (s.forEach us fun s u => s.regWrite sc u off row v mask).finish k sOK 0 (leBytes 2 us.length)
      | _ => s.badArg k 16

/-- REG_SET. -/
def execRegSet (m : Nat) (s : State) : Res := onUnit (Instr.regSet m).wf s (s.plainCmd m 0x24 fun k s => s.regSetRun k false)

/-- REG_SET_CRIT. -/
def execRegSetCrit (m : Nat) (s : State) : Res := onUnit (Instr.regSetCrit m).wf s (s.plainCmd m 0x25 fun k s => s.regSetRun k true)

end Sys2Proof.Machine
end

