-- ==== Sys2Proof/Machine/Crossing.lean ====
section
/-! DEFINITION. What ends with a block in Run (R403, R404, R408, R409): the exit from Doze, the wake of a region, and the transfers that the block's
crossings have held while its network clock stood still. -/

namespace Sys2Proof.Machine

/-- The next state of an outcome. -/
def State.nextOf (s : State) (r : Res) : State :=
  match r with
  | .next t => t
  | _ => s

/-- The access that a command of the core-visible window or of a port makes, at a block in Run. -/
def State.redoAccess (s : State) (i : Instr) : State :=
  s.nextOf (match i with
    | .cqMetaRead c core q loc e => execCqMetaRead c core q loc e s
    | .cqPop c core q => execCqPop c core q s
    | .cqRingRel c core q => execCqRingRel c core q s
    | .cqSendGo c core slot words v => execCqSendGo c core slot words v s
    | .cqSyncLoad c core slot ch => execCqSyncLoad c core slot ch s
    | .cqSyncClose c core slot ch => execCqSyncClose c core slot ch s
    | .cqSyncFlush c core slot ch => execCqSyncFlush c core slot ch s
    | .cqSyncBadOp c core slot ch => execCqSyncBadOp c core slot ch s
    | .cqSyncResRead c core slot send => execCqSyncResRead c core slot send s
    | .cqDringPiWrite c core r a => execCqDringPiWrite c core r a s
    | .cqMcRearm c core i a => execCqMcRearm c core i a s
    | .cqRedRearm c core i a => execCqRedRearm c core i a s
    | .cqRillGo c core slot a => execCqRillGo c core slot a s
    | .cqRillResRead c core slot loc e => execCqRillResRead c core slot loc e s
    | .cqRillPop c core => execCqRillPop c core s
    | .cqBarArrive c core x v => execCqBarArrive c core x v s
    | .cqBarWaitRead c core x result => execCqBarWaitRead c core x result s
    | .rcFieldRead a addr => execRcFieldRead a addr s
    | _ => .next s)

/-- The cell and core of an access to the core-visible window. -/
def coreOf (i : Instr) : Option (Nat × Nat) :=
  match i with
  | .cqMetaRead c core _ _ _ => some (c, core)
  | .cqPop c core _ => some (c, core)
  | .cqRingRel c core _ => some (c, core)
  | .cqSendGo c core _ _ _ => some (c, core)
  | .cqSyncLoad c core _ _ => some (c, core)
  | .cqSyncClose c core _ _ => some (c, core)
  | .cqSyncFlush c core _ _ => some (c, core)
  | .cqSyncBadOp c core _ _ => some (c, core)
  | .cqSyncResRead c core _ _ => some (c, core)
  | .cqDringPiWrite c core _ _ => some (c, core)
  | .cqMcRearm c core _ _ => some (c, core)
  | .cqRedRearm c core _ _ => some (c, core)
  | .cqRillGo c core _ _ => some (c, core)
  | .cqRillResRead c core _ _ _ => some (c, core)
  | .cqRillPop c core => some (c, core)
  | .cqBarArrive c core _ _ => some (c, core)
  | .cqBarWaitRead c core _ _ => some (c, core)
  | _ => none

/-- A held transfer completes (R403): a core's access when the core still waits for it, a reset of its NI having released it else (R314). -/
def State.redo (s : State) (x : Crossing) : State :=
  match x with
  | .command i =>
    match coreOf i with
    | none => s.redoAccess i
    | some (c, core) =>
      if ((s.ni c).core core).stall.any fun k => k.1 == .wakeUp then (s.modNi c fun x => x.unstall core).redoAccess i else s
  | .set sc u off v mask =>
    match regRow sc off with
    | some row => s.store sc u off row v mask
    | none => s

/-- The crossings of a block in Run complete what they hold, in order, each once (R403). -/
def State.crossingsDone (s : State) (b : Nat) : State :=
  if (s.block b).power ≠ .run then s
  else s.forEach (s.block b).crossing fun s x => (s.modBlock b fun k => { k with crossing := k.crossing.drop 1 }).redo x

/-- DOZE_EXIT_DONE (R408): Run; the idle count starts again; the held transfers complete. -/
def execDozeExitDone (b : Nat) (s : State) : Res :=
  onUnit (Instr.dozeExitDone b).wf s
    (if (s.block b).power == .doze && (s.block b).exiting then
      ((s.modBlock b fun x => { x with power := .run, exiting := false, idleFrom := s.ncyc }).modBlockRegs b fun r =>
        r.bump BLK_PWR_STAT_wakes).crossingsDone b
    else s)

/-- REGION_WAKE_DONE (R409, R457). -/
def execRegionWakeDone (r : Nat) (s : State) : Res :=
  onUnit (Instr.regionWakeDone r).wf s
    (let x := s.region r
    if !x.waking || x.sleepReq then s
    else if x.asleep then (s.releaseSleep r).wakesDone.forEach (regionBlocks r) State.crossingsDone
    else if !x.bringUp then s.modRegion r fun x => { x with waking := false }
    else if !s.facingTested r then s
    else (s.releaseBringUp r).wakesDone)

end Sys2Proof.Machine
end

