-- ==== Sys2Proof/Machine/Dispatch.lean ====
section
/-! DEFINITION. The meaning of every command: one arm per constructor of Instr, each a call of that command's own meaning. -/

namespace Sys2Proof.Machine

open Sys2Proof

/-- The effect of a command on everything but the queue. -/
def exec (i : Instr) (s : State) : Host.Outcome State Fault Refusal :=
  match i with
  | .getInfo m => Sys2Proof.Machine.execGetInfo m s
  | .setIdentity m => Sys2Proof.Machine.execSetIdentity m s
  | .setTime m => Sys2Proof.Machine.execSetTime m s
  | .cisternOpen m => Sys2Proof.Machine.execCisternOpen m s
  | .defectLoad m => Sys2Proof.Machine.execDefectLoad m s
  | .mapInstall m => Sys2Proof.Machine.execMapInstall m s
  | .blockTest m => Sys2Proof.Machine.execBlockTest m s
  | .blockTestEnd bad => Sys2Proof.Machine.execBlockTestEnd bad s
  | .routeInit m => Sys2Proof.Machine.execRouteInit m s
  | .parterreSetCreate m => Sys2Proof.Machine.execParterreSetCreate m s
  | .parterreSetDestroy m => Sys2Proof.Machine.execParterreSetDestroy m s
  | .classSet m => Sys2Proof.Machine.execClassSet m s
  | .windowSet m => Sys2Proof.Machine.execWindowSet m s
  | .queueSet m => Sys2Proof.Machine.execQueueSet m s
  | .regSet m => Sys2Proof.Machine.execRegSet m s
  | .regSetCrit m => Sys2Proof.Machine.execRegSetCrit m s
  | .treeSetup m => Sys2Proof.Machine.execTreeSetup m s
  | .treeRetire m => Sys2Proof.Machine.execTreeRetire m s
  | .treeRetireClear => Sys2Proof.Machine.execTreeRetireClear s
  | .mcLandSet m => Sys2Proof.Machine.execMcLandSet m s
  | .redLandSet m => Sys2Proof.Machine.execRedLandSet m s
  | .redHoldRelease m => Sys2Proof.Machine.execRedHoldRelease m s
  | .redHoldDiscard m => Sys2Proof.Machine.execRedHoldDiscard m s
  | .fileOpen m => Sys2Proof.Machine.execFileOpen m s
  | .fileData m => Sys2Proof.Machine.execFileData m s
  | .fileCommit m => Sys2Proof.Machine.execFileCommit m s
  | .schedSwitch m => Sys2Proof.Machine.execSchedSwitch m s
  | .schedStop m => Sys2Proof.Machine.execSchedStop m s
  | .bankSwitch => Sys2Proof.Machine.execBankSwitch s
  | .sequenceStop => Sys2Proof.Machine.execSequenceStop s
  | .routeExcept m => Sys2Proof.Machine.execRouteExcept m s
  | .sluiceReopen m => Sys2Proof.Machine.execSluiceReopen m s
  | .fenceCell m => Sys2Proof.Machine.execFenceCell m s
  | .unfenceCell m => Sys2Proof.Machine.execUnfenceCell m s
  | .fenceBlock m => Sys2Proof.Machine.execFenceBlock m s
  | .unfenceBlock m => Sys2Proof.Machine.execUnfenceBlock m s
  | .remap m => Sys2Proof.Machine.execRemap m s
  | .resetNi m => Sys2Proof.Machine.execResetNi m s
  | .resetCell m => Sys2Proof.Machine.execResetCell m s
  | .resetBlock m => Sys2Proof.Machine.execResetBlock m s
  | .resetSoftRegion m => Sys2Proof.Machine.execResetSoftRegion m s
  | .resetHardRegion m => Sys2Proof.Machine.execResetHardRegion m s
  | .hardResetIsolate r => Sys2Proof.Machine.execHardResetIsolate r s
  | .resetChip m => Sys2Proof.Machine.execResetChip m s
  | .balanceCheck m => Sys2Proof.Machine.execBalanceCheck m s
  | .powerRegionSleep m => Sys2Proof.Machine.execPowerRegionSleep m s
  | .sleepClockStop r => Sys2Proof.Machine.execSleepClockStop r s
  | .powerRegionWake m => Sys2Proof.Machine.execPowerRegionWake m s
  | .regionWakeDone r => Sys2Proof.Machine.execRegionWakeDone r s
  | .powerBlockOff m => Sys2Proof.Machine.execPowerBlockOff m s
  | .offPowerRemove b => Sys2Proof.Machine.execOffPowerRemove b s
  | .powerBlockOn m => Sys2Proof.Machine.execPowerBlockOn m s
  | .blockPowerOnDone b => Sys2Proof.Machine.execBlockPowerOnDone b s
  | .linkSet m => Sys2Proof.Machine.execLinkSet m s
  | .linkSetRetrain n => Sys2Proof.Machine.execLinkSetRetrain n s
  | .linkSetDeepReq n => Sys2Proof.Machine.execLinkSetDeepReq n s
  | .linkSetDeepRelease n => Sys2Proof.Machine.execLinkSetDeepRelease n s
  | .linkQuiesce m => Sys2Proof.Machine.execLinkQuiesce m s
  | .quiesceStart n => Sys2Proof.Machine.execQuiesceStart n s
  | .quiesceDrained n => Sys2Proof.Machine.execQuiesceDrained n s
  | .snapshot m => Sys2Proof.Machine.execSnapshot m s
  | .snapshotCollect m => Sys2Proof.Machine.execSnapshotCollect m s
  | .mbxCmdWrite m k v => Sys2Proof.Machine.execMbxCmdWrite m k v s
  | .mbxDbRing m => Sys2Proof.Machine.execMbxDbRing m s
  | .mbxDbAck m => Sys2Proof.Machine.execMbxDbAck m s
  | .mbxEvtCiWrite v => Sys2Proof.Machine.execMbxEvtCiWrite v s
  | .mbxMevtCiWrite v => Sys2Proof.Machine.execMbxMevtCiWrite v s
  | .bootWindowWrite a off v => Sys2Proof.Machine.execBootWindowWrite a off v s
  | .mbxBootCtlStart => Sys2Proof.Machine.execMbxBootCtlStart s
  | .keyPortResponse data last => Sys2Proof.Machine.execKeyPortResponse data last s
  | .keyVerdictTimeout => Sys2Proof.Machine.execKeyVerdictTimeout s
  | .fountaineerWatchdogExpire => Sys2Proof.Machine.execFountaineerWatchdogExpire s
  | .porAssert => Sys2Proof.Machine.execPorAssert s
  | .porRelease => Sys2Proof.Machine.execPorRelease s
  | .hostPortReset => Sys2Proof.Machine.execHostPortReset s
  | .mgmtPortReset => Sys2Proof.Machine.execMgmtPortReset s
  | .registerWrite a addr v => Sys2Proof.Machine.execRegisterWrite a addr v s
  | .rcFieldRead a addr => Sys2Proof.Machine.execRcFieldRead a addr s
  | .lowWordRead a addr => Sys2Proof.Machine.execLowWordRead a addr s
  | .lowWordWrite a addr v => Sys2Proof.Machine.execLowWordWrite a addr v s
  | .upperWordWrite a addr v => Sys2Proof.Machine.execUpperWordWrite a addr v s
  | .niMapCtlInvalOne c lid => Sys2Proof.Machine.execNiMapCtlInvalOne c lid s
  | .niMapCtlInvalAll c => Sys2Proof.Machine.execNiMapCtlInvalAll c s
  | .mapCacheFill c lid => Sys2Proof.Machine.execMapCacheFill c lid s
  | .niLatCtlModeWrite c v => Sys2Proof.Machine.execNiLatCtlModeWrite c v s
  | .latencySampleTick c => Sys2Proof.Machine.execLatencySampleTick c s
  | .blkPwrCtlHoldRun b => Sys2Proof.Machine.execBlkPwrCtlHoldRun b s
  | .cqMetaRead c core q loc e => Sys2Proof.Machine.execCqMetaRead c core q loc e s
  | .cqMetaWaitLimit c core => Sys2Proof.Machine.execCqMetaWaitLimit c core s
  | .cqPop c core q => Sys2Proof.Machine.execCqPop c core q s
  | .cqRingRel c core q => Sys2Proof.Machine.execCqRingRel c core q s
  | .cqSendGo c core slot words v => Sys2Proof.Machine.execCqSendGo c core slot words v s
  | .cqSendGoResume c core => Sys2Proof.Machine.execCqSendGoResume c core s
  | .cqSyncLoad c core slot ch => Sys2Proof.Machine.execCqSyncLoad c core slot ch s
  | .cqSyncClose c core slot ch => Sys2Proof.Machine.execCqSyncClose c core slot ch s
  | .cqSyncFlush c core slot ch => Sys2Proof.Machine.execCqSyncFlush c core slot ch s
  | .cqSyncBadOp c core slot ch => Sys2Proof.Machine.execCqSyncBadOp c core slot ch s
  | .cqSyncResRead c core slot send => Sys2Proof.Machine.execCqSyncResRead c core slot send s
  | .channelCloseComplete c ch => Sys2Proof.Machine.execChannelCloseComplete c ch s
  | .channelFetchDone c ch err => Sys2Proof.Machine.execChannelFetchDone c ch err s
  | .channelCacheEccError c ch reorder => Sys2Proof.Machine.execChannelCacheEccError c ch reorder s
  | .cqDringPiWrite c core r a => Sys2Proof.Machine.execCqDringPiWrite c core r a s
  | .cqMcRearm c core ix a => Sys2Proof.Machine.execCqMcRearm c core ix a s
  | .cqRedRearm c core ix a => Sys2Proof.Machine.execCqRedRearm c core ix a s
  | .cqRillGo c core slot a => Sys2Proof.Machine.execCqRillGo c core slot a s
  | .cqRillResRead c core slot loc e => Sys2Proof.Machine.execCqRillResRead c core slot loc e s
  | .cqRillPop c core => Sys2Proof.Machine.execCqRillPop c core s
  | .cqBarArrive c core x v => Sys2Proof.Machine.execCqBarArrive c core x v s
  | .cqBarWaitRead c core x result => Sys2Proof.Machine.execCqBarWaitRead c core x result s
  | .vc3Grant b => Sys2Proof.Machine.execVc3Grant b s
  | .routerDecode c pl p es tab => Sys2Proof.Machine.execRouterDecode c pl p es tab s
  | .switchAssign c pl => Sys2Proof.Machine.execSwitchAssign c pl s
  | .niHeadInject c pl => Sys2Proof.Machine.execNiHeadInject c pl s
  | .patienceExpire c pl => Sys2Proof.Machine.execPatienceExpire c pl s
  | .answerQueueInject c => Sys2Proof.Machine.execAnswerQueueInject c s
  | .heldPacketAnswer c ch => Sys2Proof.Machine.execHeldPacketAnswer c ch s
  | .injectionSelect c pl => Sys2Proof.Machine.execInjectionSelect c pl s
  | .fountainDelivery c e => Sys2Proof.Machine.execFountainDelivery c e s
  | .fountainInject c e => Sys2Proof.Machine.execFountainInject c e s
  | .fountainPatienceExpire c => Sys2Proof.Machine.execFountainPatienceExpire c s
  | .msgEject c => Sys2Proof.Machine.execMsgEject c s
  | .msgHeadEject c => Sys2Proof.Machine.execMsgHeadEject c s
  | .msgBodyEject c => Sys2Proof.Machine.execMsgBodyEject c s
  | .gapTimeout c ch => Sys2Proof.Machine.execGapTimeout c ch s
  | .staleTailTimeout c q => Sys2Proof.Machine.execStaleTailTimeout c q s
  | .dispatchFifoIssue c => Sys2Proof.Machine.execDispatchFifoIssue c s
  | .ackEject c => Sys2Proof.Machine.execAckEject c s
  | .nackEject c => Sys2Proof.Machine.execNackEject c s
  | .retransmitTimeout c t e => Sys2Proof.Machine.execRetransmitTimeout c t e s
  | .abandonTimeout c t => Sys2Proof.Machine.execAbandonTimeout c t s
  | .tokenStateEccError c t => Sys2Proof.Machine.execTokenStateEccError c t s
  | .descriptorStart c r => Sys2Proof.Machine.execDescriptorStart c r s
  | .wrEject c => Sys2Proof.Machine.execWrEject c s
  | .trancheFlush c ix => Sys2Proof.Machine.execTrancheFlush c ix s
  | .trancheComplSend c => Sys2Proof.Machine.execTrancheComplSend c s
  | .rdReqEject c => Sys2Proof.Machine.execRdReqEject c s
  | .rdDataEject c => Sys2Proof.Machine.execRdDataEject c s
  | .complEject c => Sys2Proof.Machine.execComplEject c s
  | .trackerTimeout c ix => Sys2Proof.Machine.execTrackerTimeout c ix s
  | .quarantineExpire c => Sys2Proof.Machine.execQuarantineExpire c s
  | .gatewayWr g k => Sys2Proof.Machine.execGatewayWr g k s
  | .gatewayRdReq g k => Sys2Proof.Machine.execGatewayRdReq g k s
  | .stackReadResponse g tag err => Sys2Proof.Machine.execStackReadResponse g tag err s
  | .stackWriteResponse g tag err => Sys2Proof.Machine.execStackWriteResponse g tag err s
  | .gatewayPiPoll g st => Sys2Proof.Machine.execGatewayPiPoll g st s
  | .sidebandResponse j page err => Sys2Proof.Machine.execSidebandResponse j page err s
  | .clusterMemoryResponse c tag err => Sys2Proof.Machine.execClusterMemoryResponse c tag err s
  | .mcastEject c => Sys2Proof.Machine.execMcastEject c s
  | .redEject c bad => Sys2Proof.Machine.execRedEject c bad s
  | .rangeTimeout c j ix => Sys2Proof.Machine.execRangeTimeout c j ix s
  | .holdTimeout c j ix => Sys2Proof.Machine.execHoldTimeout c j ix s
  | .shutTimeout c j ix => Sys2Proof.Machine.execShutTimeout c j ix s
  | .redResultEject c => Sys2Proof.Machine.execRedResultEject c s
  | .combTestTick b => Sys2Proof.Machine.execCombTestTick b s
  | .combTestDigest c agree refW refE => Sys2Proof.Machine.execCombTestDigest c agree refW refE s
  | .combDupDigest c agree => Sys2Proof.Machine.execCombDupDigest c agree s
  | .combDupTimeout c => Sys2Proof.Machine.execCombDupTimeout c s
  | .telEject c => Sys2Proof.Machine.execTelEject c s
  | .mntEject c => Sys2Proof.Machine.execMntEject c s
  | .rinseOffer c pl => Sys2Proof.Machine.execRinseOffer c pl s
  | .rinseTimeout c pl => Sys2Proof.Machine.execRinseTimeout c pl s
  | .schedRouterArrival c es tab => Sys2Proof.Machine.execSchedRouterArrival c es tab s
  | .schedSlotSource c gw st => Sys2Proof.Machine.execSchedSlotSource c gw st s
  | .periodWake r => Sys2Proof.Machine.execPeriodWake r s
  | .periodArmReport r => Sys2Proof.Machine.execPeriodArmReport r s
  | .schedIngressDeliver n => Sys2Proof.Machine.execSchedIngressDeliver n s
  | .rillFlitDecode c p vc ea eb tab => Sys2Proof.Machine.execRillFlitDecode c p vc ea eb tab s
  | .gather c x => Sys2Proof.Machine.execGather c x s
  | .release c x => Sys2Proof.Machine.execRelease c x s
  | .releaseFlip c => Sys2Proof.Machine.execReleaseFlip c s
  | .releaseArm c => Sys2Proof.Machine.execReleaseArm c s
  | .contextTimeout x => Sys2Proof.Machine.execContextTimeout x s
  | .bcastTally c => Sys2Proof.Machine.execBcastTally c s
  | .bcastFreeze c => Sys2Proof.Machine.execBcastFreeze c s
  | .bcastFree c => Sys2Proof.Machine.execBcastFree c s
  | .tallyTick => Sys2Proof.Machine.execTallyTick s
  | .tallyLatch c => Sys2Proof.Machine.execTallyLatch c s
  | .tallyResult => Sys2Proof.Machine.execTallyResult s
  | .freezeLatch u ecc => Sys2Proof.Machine.execFreezeLatch u ecc s
  | .epochFlipStart => Sys2Proof.Machine.execEpochFlipStart s
  | .installDone => Sys2Proof.Machine.execInstallDone s
  | .wakeDoze b => Sys2Proof.Machine.execWakeDoze b s
  | .wakeSleep r => Sys2Proof.Machine.execWakeSleep r s
  | .dozeExitDone b => Sys2Proof.Machine.execDozeExitDone b s
  | .dozeIdleReached b => Sys2Proof.Machine.execDozeIdleReached b s
  | .dozeGate b => Sys2Proof.Machine.execDozeGate b s
  | .fault c => Sys2Proof.Machine.execFault c s
  | .resetFlit c => Sys2Proof.Machine.execResetFlit c s
  | .sluiceFlit c => Sys2Proof.Machine.execSluiceFlit c s
  | .cmsg c => Sys2Proof.Machine.execCmsg c s
  | .cnack c => Sys2Proof.Machine.execCnack c s
  | .rillSequenceIngress n => Sys2Proof.Machine.execRillSequenceIngress n s
  | .timeSync n => Sys2Proof.Machine.execTimeSync n s
  | .timeResp n => Sys2Proof.Machine.execTimeResp n s
  | .timeRespU n => Sys2Proof.Machine.execTimeRespU n s
  | .timeFollow n => Sys2Proof.Machine.execTimeFollow n s
  | .timeStep r => Sys2Proof.Machine.execTimeStep r s
  | .timeSlew r => Sys2Proof.Machine.execTimeSlew r s
  | .timeExchangeTick => Sys2Proof.Machine.execTimeExchangeTick s
  | .holdoverExpire => Sys2Proof.Machine.execHoldoverExpire s
  | .faultWindowRoll b => Sys2Proof.Machine.execFaultWindowRoll b s
  | .watchdogPoll region u answered => Sys2Proof.Machine.execWatchdogPoll region u answered s
  | .cisternDayTick => Sys2Proof.Machine.execCisternDayTick s
  | .pcSampleTick c => Sys2Proof.Machine.execPcSampleTick c s
  | .pcSampleAnswer c pc => Sys2Proof.Machine.execPcSampleAnswer c pc s
  | .pcSampleTimeout c => Sys2Proof.Machine.execPcSampleTimeout c s
  | .linkDetectPoll n => Sys2Proof.Machine.execLinkDetectPoll n s
  | .linkTerminationSeen n h clk lanes => Sys2Proof.Machine.execLinkTerminationSeen n h clk lanes s
  | .trainingMessage n msg => Sys2Proof.Machine.execTrainingMessage n msg s
  | .linkTrainDone n => Sys2Proof.Machine.execLinkTrainDone n s
  | .linkTrainTimeout n => Sys2Proof.Machine.execLinkTrainTimeout n s
  | .linkLockDone n rx => Sys2Proof.Machine.execLinkLockDone n rx s
  | .linkLockTimeout n h l => Sys2Proof.Machine.execLinkLockTimeout n h l s
  | .capSend n => Sys2Proof.Machine.execCapSend n s
  | .capFrame n cap => Sys2Proof.Machine.execCapFrame n cap s
  | .lnkCtlAdmit n => Sys2Proof.Machine.execLnkCtlAdmit n s
  | .frameReq n f => Sys2Proof.Machine.execFrameReq n f s
  | .frameRep n f => Sys2Proof.Machine.execFrameRep n f s
  | .frameSched n f => Sys2Proof.Machine.execFrameSched n f s
  | .frameRill n f => Sys2Proof.Machine.execFrameRill n f s
  | .frameIdle n f => Sys2Proof.Machine.execFrameIdle n f s
  | .frameNak n f => Sys2Proof.Machine.execFrameNak n f s
  | .frameCrcFail n rill => Sys2Proof.Machine.execFrameCrcFail n rill s
  | .frameQuiesceRequest n => Sys2Proof.Machine.execFrameQuiesceRequest n s
  | .frameQuiesceDone n => Sys2Proof.Machine.execFrameQuiesceDone n s
  | .frameDeepRequest n => Sys2Proof.Machine.execFrameDeepRequest n s
  | .frameDeepAccept n => Sys2Proof.Machine.execFrameDeepAccept n s
  | .frameDeepRefuse n => Sys2Proof.Machine.execFrameDeepRefuse n s
  | .deepDrained n => Sys2Proof.Machine.execDeepDrained n s
  | .deepRetry n => Sys2Proof.Machine.execDeepRetry n s
  | .wakeTone n => Sys2Proof.Machine.execWakeTone n s
  | .deepExitTimeout n => Sys2Proof.Machine.execDeepExitTimeout n s
  | .ackTimeout n rill => Sys2Proof.Machine.execAckTimeout n rill s
  | .rillCreditFrame n => Sys2Proof.Machine.execRillCreditFrame n s
  | .laneFail n h l lost hdrs => Sys2Proof.Machine.execLaneFail n h l lost hdrs s
  | .clockLoss n => Sys2Proof.Machine.execClockLoss n s
  | .downDetectReturn n => Sys2Proof.Machine.execDownDetectReturn n s
  | .frameBoundary n => Sys2Proof.Machine.execFrameBoundary n s
  | .prbsCheckerLock n h l rx => Sys2Proof.Machine.execPrbsCheckerLock n h l rx s
  | .prbsCheckerUnlock n h l errs => Sys2Proof.Machine.execPrbsCheckerUnlock n h l errs s
  | .peerEntersTrain n => Sys2Proof.Machine.execPeerEntersTrain n s
  | .clockLaneFail n h => Sys2Proof.Machine.execClockLaneFail n h s
  | .timeFollowTimeout n => Sys2Proof.Machine.execTimeFollowTimeout n s
  | .recordSendingNcyc region u => Sys2Proof.Machine.execRecordSendingNcyc region u s
  | .resetEnded scope u => Sys2Proof.Machine.execResetEnded scope u s
  | .chipResetAfterResponse => Sys2Proof.Machine.execChipResetAfterResponse s
  | .fountaineerMemoryUncorrectable => Sys2Proof.Machine.execFountaineerMemoryUncorrectable s

end Sys2Proof.Machine
end

