-- ==== Sys2Proof/Machine/Tick.lean ====
section
/-! DEFINITION. One ncyc: what step does when no command waits (log 5). T and the count of ncyc advance, what the spec gives a time and no
command of its own happens, counters of ncyc count. First comes what the ncyc that passes still brings, then T advances, then what stands at the
start of the next one. -/

namespace Sys2Proof.Machine

/-- Cells, gateways and link ports that have a state of their own. -/
def Table.keys {α : Type} (t : Table α) : List Nat := t.ents.map (·.1)

/-- Did an NI's head packet on either dynamic plane wait through this ncyc (R97)? R97 does not say whether an answer that waits, or a packet in the
fountain buffer, counts as a head packet: the model counts the heads of R195 alone (log 68). -/
def Ni.headWaits (x : Ni) : Bool := x.headReq.isSome || x.headRep.isSome

/-- An ncyc with no request head, none selected or injected in it, and the fountain buffer not holding the plane, while some flow held a packet and
every such flow lacked weir credit (R206, R212). -/
def State.weirIdle (s : State) (c : Nat) : Bool :=
  let x := s.ni c
  let fl := (s.requestFlows c true).2
  x.hold == .none && x.headReq.isNone && !x.didNow dHead s.ncyc && x.fountServer.isNone && !(s.taken c .request).getLsbD 6 &&
    !fl.isEmpty && fl.all fun f => f.dry

/-- The counters of ncyc of one cell, and the watch's count of fountain slots (R97, R212, R233). -/
def State.cellTick (s : State) (c : Nat) : State :=
  if s.stopped c then s else
  let x := s.ni c
  let s := if x.headWaits then s.bump c NI_INJ_CNT_wait_ncyc else s
  let s := if s.weirIdle c then s.bump c NI_SHAPE_STAT_weir_idle else s
  s.forEach x.fountain fun s f => s.watch c f.pkt.type f.pkt.chanTree

/-- A gateway's busy count (R185, R194). -/
def State.gwTick (s : State) (g : Nat) : State :=
  if s.gwBusy g then s.modGwRegs g fun r => r.bump CHP_MGW_STAT_busy_ncyc else s

/-- The wake a rill sequence asks a port in Deep for, its PRBS generators and counters (R356, R357, R371). -/
def State.linkTick (s : State) (n : Nat) : State := ((s.rillWakes n).prbsSend n).modLink n fun l => l.prbsTick

/-- The counts that the tallies of this ncyc latch, over the chip (R90). -/
def State.copyTallies (s : State) : State :=
  { s with cells := { s.cells with ents := s.cells.ents.map fun (e : Nat × Cell) => (e.1, { e.2 with rt := e.2.rt.copyTally s.now }) } }

/-- Every register at the start of an ncyc (R11). -/
def State.settleRegs (s : State) : State :=
  { s.modChipRegs Regs.settled with
    cells := s.cells.mapAll fun x => { x with regs := x.regs.settled }
    blocks := s.blocks.mapAll fun x => { x with regs := x.regs.settled }
    regions := s.regions.mapAll fun x => { x with regs := x.regs.settled }
    links := s.links.mapAll fun x => { x with regs := x.regs.settled }
    gws := s.gws.mapAll fun x => { x with regs := x.regs.settled } }

/-- Is step 10 done: no region in service is in bring-up hold, and the version that routes through those woken is ACTIVE (R450)? -/
def State.regionsUp (s : State) : Bool :=
  s.stepDone 9 && ((List.range 16).all fun r => !(s.region r).bringUp || (s.region r).taken) && s.chip.flipReqs.isEmpty &&
  match s.chip.flip with
  | none => true
  | some f => decide (4 ≤ f.step)

/-- Is step 11 done: every bundle whose dimension has size 2 or more has an ACTIVE port; with step 10 on a chip alone (R450)? -/
def State.linksUp (s : State) : Bool :=
  s.stepDone 10 && (List.range 6).all fun b => decide (s.dim (b / 2) < 2) || (s.stepDone 5 && (s.bundlePort b).isSome)

/-- The steps of bring-up that no command's success sets (R450). -/
def State.checkSteps (s : State) : State :=
  let s := if !s.stepDone 10 && s.regionsUp then s.setStep 10 else s
  if !s.stepDone 11 && s.linksUp then s.setStep 11 else s

/-- Time advances by one ncyc: 8 units of T (R104). -/
def State.advance (s : State) : State := ({ s with ncyc := s.ncyc + 1, time := s.time + 8 } : State).applyStep

/-- What an ncyc still brings at its end. -/
def State.endNcyc (s : State) : State :=
  let s := (s.periodStart).settleReopens
  let s := s.forEach s.cells.keys State.cellTick
  let s := s.forEach s.gws.keys State.gwTick
  let s := s.forEach s.links.keys State.linkTick
  let s := s.copyTallies.refillSpill.flipTick.retree1
  let s := (s.idleTick.sleepTick).checkSteps.answerUnknown
  s.forEach (s.blocks.keys.filter fun b => !(s.block b).crossing.isEmpty) State.crossingsDone

/-- What stands at the start of an ncyc: completion strobes that waited, and what gateways and link ports present, in the decode stage of this
ncyc (R181, R521). -/
def State.beginNcyc (s : State) : State :=
  let s := s.forEach (s.cells.keys.filter fun c => !(s.ni c).strobes.isEmpty) State.nextStrobe
  let s := s.forEach s.gws.keys State.gwPresent
  s.forEach s.links.keys State.linkPresent1

/-- One ncyc passes; with tpn_por_n low nothing runs. -/
def State.tick (s : State) : State := if !s.por then s else s.endNcyc.advance.settleRegs.beginNcyc

end Sys2Proof.Machine
end

