-- ==== Sys2Proof/Safety.lean ====
section
/-! DEFINITION. What counts as a safe run and what it is for a command to complete, in the terms statements use: the canonical form of every
memory, the legality of the integration parameters, steps that answer a next state, mailbox commands that Zhevber accepts and answers. -/

namespace Sys2Proof.Machine

/-! ## Memory and parameters -/

/-- Every cluster memory is in canonical form. -/
def Table.memWf (t : Table Cell) : Bool := Memory.wf t.dflt.cm && t.ents.all fun e => Memory.wf e.2.cm

/-- Every stack is in canonical form. -/
def Table.stackWf (t : Table Gateway) : Bool := Memory.wf t.dflt.stack && t.ents.all fun e => Memory.wf e.2.stack

/-- Every memory of the block is in canonical form: cluster memories, stacks, the image area and the staging buffers. -/
def State.memWf (s : State) : Bool :=
  s.cells.memWf && s.gws.stackWf && Memory.wf s.ftn.image && s.ftn.staging.all fun e => Memory.wf e.2

/-! ## Runs -/

/-- n steps that all answer a next state end in t. -/
def runsTo : Nat → State → State → Prop
  | 0, s, t => s = t
  | n + 1, s, t => ∃ m, step s = .next m ∧ runsTo n m t

/-- Command i completes from state s: exec answers a next state, of which P holds. -/
def completes (i : Instr) (s : State) (P : State → Prop) : Prop := ∃ t, exec i s = .next t ∧ P t

/-! ## Mailbox commands (R421 to R432, R451) -/

/-- Zhevber accepts the command that stands in mailbox m, of an opcode: Zhevber runs, the mailbox is next in turn, the slot may give the
command, the tag and the counter hold where it is tagged, no flag is set, and every step of bring-up it needs is done (R424, R428, R431, R451). -/
def State.accepts (s : State) (m op : Nat) : Bool :=
  let k := s.cmdOf m
  mailboxOk m && s.zRuns && s.nextMbx == some m && k.opcode == op && opKnown op && slotAllowed k &&
  (!k.tagged || (!(s.slot k.slot).locked && s.tagOk k && decide ((s.slot k.slot).counter.toNat < k.counter))) &&
  k.flags == 0 && (opNeeds k).all s.stepDone

/-- The state in which an accepted command runs: its mailbox has been taken last, its slot holds its counter and no failures (R424, R428). -/
def State.accepted (s : State) (m : Nat) : State :=
  let k := s.cmdOf m
  let s := s.modFtn fun x => { x with last := m }
  if k.tagged then s.modSlot k.slot fun x => { x with counter := BitVec.ofNat 64 k.counter, fails := 0 } else s

/-- Mailbox m of state t holds the response of an opcode with a status and a detail, and is no longer busy (R421, R423). -/
def State.answers (t : State) (m op status detail : Nat) : Prop :=
  (t.mbx m).busy = false ∧ (t.mbx m).done = true ∧ (t.mbx m).rsp.getD 0 0 = BitVec.ofNat 32 (op + status * 65536) ∧
  (t.mbx m).rsp.getD 1 0 = BitVec.ofNat 32 detail

/-- Mailbox m of state t is still busy with a command that Zhevber has taken and answers later (R424). -/
def State.holds (t : State) (m : Nat) : Prop := (t.mbx m).busy = true ∧ (t.mbx m).taken = true

/-! ## Frames -/

/-- Every cell, block, region, link port and gateway of t is as in s. -/
def State.sameUnits (s t : State) : Prop :=
  t.cells = s.cells ∧ t.blocks = s.blocks ∧ t.regions = s.regions ∧ t.links = s.links ∧ t.gws = s.gws

/-- Every mailbox of t but m is as in s. -/
def State.sameOthers (s t : State) (m : Nat) : Prop := ∀ j, j < 10 → j ≠ m → t.mbx j = s.mbx j

/-- Every unit of t but cell c is as in s. -/
def State.onlyCell (s t : State) (c : Nat) : Prop :=
  (∀ d, d ≠ c → t.cell d = s.cell d) ∧ t.blocks = s.blocks ∧ t.regions = s.regions ∧ t.links = s.links ∧ t.gws = s.gws

/-- Every unit of t but link port n is as in s. -/
def State.onlyLink (s t : State) (n : Nat) : Prop :=
  (∀ d, d ≠ n → t.link d = s.link d) ∧ t.cells = s.cells ∧ t.blocks = s.blocks ∧ t.regions = s.regions ∧ t.gws = s.gws

/-- Every unit of t but gateway g is as in s. -/
def State.onlyGw (s t : State) (g : Nat) : Prop :=
  (∀ d, d ≠ g → t.gw d = s.gw d) ∧ t.cells = s.cells ∧ t.blocks = s.blocks ∧ t.regions = s.regions ∧ t.links = s.links

/-- Every unit of t but block b is as in s. -/
def State.onlyBlock (s t : State) (b : Nat) : Prop :=
  (∀ d, d ≠ b → t.block d = s.block d) ∧ t.cells = s.cells ∧ t.regions = s.regions ∧ t.links = s.links ∧ t.gws = s.gws

/-- Every unit of t but region r is as in s. -/
def State.onlyRegion (s t : State) (r : Nat) : Prop :=
  (∀ d, d ≠ r → t.region d = s.region d) ∧ t.cells = s.cells ∧ t.blocks = s.blocks ∧ t.links = s.links ∧ t.gws = s.gws

/-- The sequence at the front of a port's ingress is a, b, c, d and passes the port's check: slot 3 has a key, the rill of the port is not locked, the
counter is new and the tag holds (R285, R430). -/
def State.goodSeq (s : State) (n : Nat) (a b c d : Flit) : Prop :=
  (s.link n).frontSeq = some (a, b, c, d) ∧ s.slot3 = true ∧ (s.link n).locked = false ∧ a.kind = kROUTE ∧ c.kind = kCTR ∧ d.kind = kTAG ∧
  (s.link n).ctrRecv.toNat < c.payload.toNat ∧ d.payload = s.seqTag a { b with seg := 2 } c.payload

/-- A link port's rill has taken a good sequence with counter v: it is gone from the ingress, its counter held and the failures cleared (R351, R430). -/
def State.tookSeq (s t : State) (n : Nat) (v : W64) : Prop :=
  (t.link n).rillIng = (s.link n).rillIng.drop 4 ∧ (t.link n).ctrRecv = v ∧ (t.link n).fails = 0

/-- A core's access is served at once: its cell's NI is in service, its block runs and no access of the core waits (R314, R408, R497). -/
def State.coreFree (s : State) (c core : Nat) : Prop :=
  (s.ni c).hold = .none ∧ (s.block (blockOf c)).power = .run ∧ ((s.ni c).core core).stall = none

/-- t has answered a core's access with v, and nothing else has left the block since s. -/
def State.answered (s t : State) (c core : Nat) (v : W64) : Prop := t.out = s.out ++ [.coreRsp c core v]

/-- A send of one packet with CQ_SEND_GO value v is possible: the tuple is legal, its channel cached, OPEN and resolved, the token tk the next free
one, no other channel to the same peer holds it back (R138). -/
def State.sendReady (s : State) (c : Nat) (v : W64) (k : Chan) (tk : Nat) : Prop :=
  let ch := bits v.toNat 0 12
  let n := bits v.toNat 12 3
  let h := bits v.toNat 16 12
  n ≤ 5 ∧ (n ≠ 0 ∨ h ≠ 0) ∧ aget (s.ni c).chans ch = some k ∧ k.e.state = chOPEN ∧ k.e.resolved = true ∧ 1 ≤ (s.ni c).freeTokens ∧
  (s.ni c).freeToken? = some tk ∧ (s.ni c).interlocked ch k.e.peerChan = false

/-- That send has been made in t: the token is QUEUED with the channel's sequence number, the channel's next number is one more, and the core's
CQ_SEND_RES tells the outcome 0 with them (R137, R138). -/
def State.sentOne (t : State) (c core : Nat) (v : W64) (k : Chan) (tk : Nat) : Prop :=
  (∃ x, aget (t.ni c).tokens tk = some x ∧ x.st = .queued ∧ x.seq = k.e.txSeq ∧ x.use = .msg (bits v.toNat 0 12) k.e.peerChan none ∧
    ((t.ni c).core core).sendRes = sendResult 0 k.e.txSeq.toNat x.gen.toNat tk) ∧
  (∃ y, aget (t.ni c).chans (bits v.toNat 0 12) = some y ∧ y.e = { k.e with txSeq := k.e.txSeq + 1 }) ∧
  ((t.ni c).core core).stall = none

/-- The router of cell c has put a packet of which P holds on mesh output p of a dynamic plane: the neighbour decodes it 2 + r + s ncyc later (R65, R66). -/
def State.sentTo (s t : State) (c p : Nat) (pl : Plane) (P : Packet → Prop) : Prop :=
  ∃ e pk, neighbor c p = some e ∧ P pk ∧
    ((t.rt e).plane pl).arr = ((s.rt e).plane pl).arr ++ [⟨oppPort p, s.ncyc + 2 + s.linkExtra c p, pk⟩]

/-- The cells of t are those of s but for cell c and its neighbour behind port p; blocks, regions, link ports and gateways are as they were. -/
def State.onlyLinkEnds (s t : State) (c p : Nat) : Prop :=
  (∀ d, d ≠ c → neighbor c p ≠ some d → t.cell d = s.cell d) ∧ t.blocks = s.blocks ∧ t.regions = s.regions ∧ t.links = s.links ∧ t.gws = s.gws

/-- Packet p, handed over on a plane, is the next of its type at the NI of cell c and passes the checks of R48: it is addressed here, by another cell,
the NI is in service, crc, class, reserved bits and length are good, and the answer queue has room. -/
def State.receives (s : State) (c : Nat) (pl : Plane) (p : Packet) : Prop :=
  (s.ni c).ejected.find? (fun e => e.2.type == p.type) = some (pl, p) ∧ (s.ni c).hold = .none ∧ p.dstChip = s.chipId ∧ p.dstCell.toNat = c ∧
  p.crc = p.crcOf ∧ pktLegal p pl = true ∧ ¬(p.srcChip = s.chipId ∧ p.srcCell.toNat = c) ∧ s.answerFree c = true

/-- Message packet p is the next that channel k of cell c expects, from its peer, with nothing held out of order (R145, R146). -/
def State.inOrder (s : State) (c : Nat) (k : Chan) (p : Packet) : Prop :=
  aget (s.ni c).chans p.chanTree.toNat = some k ∧ k.e.state = chOPEN ∧ p.srcChip = k.e.peerChip ∧
  p.srcCell = (if k.e.resolved then k.e.peerPhys else k.e.peerCell) ∧ p.parterre = k.e.parterre ∧ p.seq.setWidth 8 = k.e.rxExpect ∧
  k.rx.held = [] ∧ k.rx.arrival = []

/-- Channel ch of cell c expects in t the number that comes n after k's, and holds nothing out of order. -/
def State.expectsNext (t : State) (c ch : Nat) (k : Chan) (n : Nat) : Prop :=
  ∃ y, aget (t.ni c).chans ch = some y ∧ y.e = { k.e with rxExpect := k.e.rxExpect + BitVec.ofNat 8 n } ∧ y.rx.held = [] ∧ y.rx.placed = none

/-- Queue q of cell c has one entry more in t than in s, at its tail, of which P holds. -/
def State.queued (s t : State) (c q : Nat) (P : QEntry → Prop) : Prop :=
  ∃ e, ((t.ni c).queue q).ents = ((s.ni c).queue q).ents ++ [e] ∧ P e

/-- Token tok of cell c is open in s with state tk, and closed in t: its state is st, its generation one more. -/
def State.closed (t : State) (c tok : Nat) (tk : Token) (st : TokState) : Prop :=
  ∃ k, aget (t.ni c).tokens tok = some k ∧ k.st = st ∧ k.gen = tk.gen + 1 ∧ k.use = tk.use

/-- A counting field of a register counts one more in r' than in r, up to its largest value. -/
def Regs.counted (r r' : Regs) (f : Field) : Prop := r'.get f = min (r.get f + 1) (2 ^ f.len - 1)

/-- Contribution p is one that tree entry j of cell c accepts in its declared format into an IDLE range (R250, R251): a vertex or root with a good
cascade entry, the parterre of the entry, a format of its chain, units within the pass. -/
def State.contributes (s : State) (c j : Nat) (p : Packet) : Prop :=
  let r := (s.cell c).regs
  let f := bits (p.pl 38 2) 0 4
  r.redEntry p.chanTree.toNat = some j ∧ r.redFmt j ≤ 8 ∧ r.get (NI_RED_TREE_A_role.at j) ≠ 0 ∧ s.redCascade c p.chanTree.toNat = true ∧
  p.parterre.toNat = r.get (NI_RED_TREE_A_parterre.at j) ∧ inChain (r.redFmt j) f = true ∧
  p.seq.toNat * 8 + fmtCount f ≤ 8 * r.redUnits j ∧ (s.ni c).range j (p.seq.toNat * 8 / fmtCount (r.redFmt j)) = RangeRt.idle

/-- The block a unit lies in, if any, runs: an access to the unit completes at once (R404). -/
def State.powered (s : State) (sc : Scope) (u : Nat) : Prop := ∀ b, unitBlock sc u = some b → (s.block b).power = .run

end Sys2Proof.Machine
end

