-- ==== Sys2Proof/Certificates/Slice0/Obligations.lean ====
section
/-! DEFINITION. The statements for the provers. Each formalises rules of spec/ that its entry in OBLIGATIONS.json cites, or says of
itself that it is derived. -/

open Sys2Proof Sys2Proof.Machine

/-! ## The queue and the step -/

/-- A step with command c at the front of the queue runs exec of c on the state with the queue's rest. -/
def Obligations.StepRunsFrontCommand : Prop :=
  ∀ (s : State) (c : Instr) (rest : List Instr), s.pending = c :: rest → step s = exec c { s with pending := rest }

/-- A step on an empty queue answers a next state: the queue stays empty and the integrator's parameters stay, and while tpn_por_n is low
nothing at all changes (the model's choice, logs 5 and 7). -/
def Obligations.EmptyQueueStep : Prop :=
  ∀ s : State, s.pending = [] →
    ∃ t, step s = .next t ∧ t.pending = [] ∧ t.chip.integ = s.chip.integ ∧ (s.por = false → t = s)

/-- Every command that names units the die has answers a next state; every other is refused by name (the model's choice, log 9). The queue is
what it was and the parameters the integrator set stay (R503). -/
def Obligations.EveryNamedUnitCommandAnswers : Prop :=
  ∀ (i : Instr) (s : State),
    (i.wf = true → ∃ t, exec i s = .next t ∧ t.pending = s.pending ∧ t.chip.integ = s.chip.integ) ∧
    (i.wf = false → exec i s = .refused .noSuchUnit)

/-- The block at reset: HELD, bring-up hold in every region and NI, empty queue, T and ncyc zero, every mailbox free, memory empty, no key. -/
def Obligations.ResetState : Prop :=
  State.reset.ftn.boot = .held ∧ State.reset.pending = [] ∧ State.reset.time = 0 ∧
  (∀ r, (State.reset.region r).bringUp = true) ∧ (∀ c, (State.reset.ni c).hold = .bringUp) ∧
  (∀ m, (State.reset.mbx m).busy = false ∧ (State.reset.mbx m).done = false ∧ (State.reset.mbx m).overrun = false) ∧
  (∀ i, (State.reset.slot i).key = none ∧ (State.reset.slot i).locked = false) ∧ State.reset.memWf = true

/-! ## Mailbox registers (R421, R436, R519) -/

/-- A write of a command word of a mailbox that is not busy writes that word; on a busy mailbox it writes none and sets overrun. Nothing else
changes. -/
def Obligations.CommandWordWrite : Prop :=
  ∀ (s : State) (m k : Nat) (v : W32), m < 10 → k < 16 →
    completes (.mbxCmdWrite m k v) s fun t =>
      t.mbx m = (if (s.mbx m).busy then { s.mbx m with overrun := true } else { s.mbx m with cmd := (s.mbx m).cmd.set k v }) ∧
      s.sameOthers t m ∧ s.sameUnits t

/-- A ring of a mailbox that is not busy makes it busy and clears done; a ring of a busy one sets overrun. An acknowledgement clears done and
overrun. The consumer indices take the index written, within their rings; a port's reset clears the halves it holds. Nothing else changes. -/
def Obligations.DoorbellsIndicesAndPortResets : Prop :=
  (∀ (s : State) (m : Nat), m < 10 →
    ((s.mbx m).busy = false → completes (.mbxDbRing m) s fun t =>
      (t.mbx m).busy = true ∧ (t.mbx m).done = false ∧ (t.mbx m).cmd = (s.mbx m).cmd ∧ s.sameOthers t m ∧ s.sameUnits t) ∧
    ((s.mbx m).busy = true → completes (.mbxDbRing m) s fun t =>
      t.mbx m = { s.mbx m with overrun := true } ∧ s.sameOthers t m ∧ s.sameUnits t) ∧
    completes (.mbxDbAck m) s fun t =>
      t.mbx m = { s.mbx m with done := false, overrun := false } ∧ s.sameOthers t m ∧ s.sameUnits t) ∧
  (∀ (s : State) (v : W32), completes (.mbxEvtCiWrite v) s fun t => t.ftn = { s.ftn with evCi := v.toNat % 1024 } ∧ s.sameUnits t) ∧
  (∀ (s : State) (v : W32), completes (.mbxMevtCiWrite v) s fun t => t.ftn = { s.ftn with mCi := v.toNat % 4096 } ∧ s.sameUnits t) ∧
  (∀ s : State, completes .hostPortReset s fun t =>
    t.portHost = ⟨none, none⟩ ∧ t.portMgmt = s.portMgmt ∧ t.ftn = s.ftn ∧ t.chip = s.chip ∧ s.sameUnits t) ∧
  (∀ s : State, completes .mgmtPortReset s fun t =>
    t.portMgmt = ⟨none, none⟩ ∧ t.portHost = s.portHost ∧ t.ftn = s.ftn ∧ t.chip = s.chip ∧ s.sameUnits t)

/-! ## Boot (R418 to R420, R447, R500) -/

/-- The boot window over the host port: every word of it reads back what its memory holds; the image area takes a write in HELD alone, its four bytes
little-endian and every other byte as before; a staging buffer takes one in RUNNING while its mailbox is not busy; any other write of a staging buffer is
ignored and sets the overrun bit of its mailbox. -/
def Obligations.BootWindow : Prop :=
  ∀ (s : State) (off : Nat) (v : W32), off % 4 = 0 →
    (off < 0x400000 →
      (completes (.rcFieldRead .host (0x800000 + off)) s fun t =>
        t.out = s.out ++ [.read .host (0x800000 + off) (BitVec.ofNat 32 (mreadLE s.ftn.image off 4))] ∧ t.ftn = s.ftn ∧ s.sameUnits t) ∧
      (s.ftn.boot = .held → Memory.wf s.ftn.image = true → completes (.bootWindowWrite .host off v) s fun t =>
        mreadLE t.ftn.image off 4 = v.toNat ∧ (∀ a, a < off ∨ off + 4 ≤ a → mread t.ftn.image a = mread s.ftn.image a) ∧
        t.ftn.staging = s.ftn.staging ∧ s.sameUnits t) ∧
      (s.ftn.boot ≠ .held → completes (.bootWindowWrite .host off v) s fun t => t.ftn = s.ftn ∧ s.sameUnits t)) ∧
    (0x400000 ≤ off → off < 0x800000 →
      let m := (off - 0x400000) / 524288
      let x := (off - 0x400000) % 524288
      (completes (.rcFieldRead .host (0x800000 + off)) s fun t =>
        t.out = s.out ++ [.read .host (0x800000 + off) (BitVec.ofNat 32 (mreadLE ((aget s.ftn.staging m).getD []) x 4))] ∧ t.ftn = s.ftn ∧
        s.sameUnits t) ∧
      (s.ftn.boot = .running → (s.mbx m).busy = false → completes (.bootWindowWrite .host off v) s fun t =>
        aget t.ftn.staging m = some (mwriteList ((aget s.ftn.staging m).getD []) x (leBytes 4 v.toNat)) ∧
        (∀ j, j ≠ m → aget t.ftn.staging j = aget s.ftn.staging j) ∧ t.ftn.image = s.ftn.image ∧ t.ftn.mbx = s.ftn.mbx ∧ s.sameUnits t) ∧
      (s.ftn.boot ≠ .running ∨ (s.mbx m).busy = true → completes (.bootWindowWrite .host off v) s fun t =>
        t.mbx m = { s.mbx m with overrun := true } ∧ s.sameOthers t m ∧ t.ftn.staging = s.ftn.staging ∧ t.ftn.image = s.ftn.image ∧ s.sameUnits t))

/-- Start in HELD checks the image: a bad header or length fails with cause 1, a bad CRC with cause 2, and a good image goes to VERIFYING and
out of the key port. Outside HELD start has no effect. -/
def Obligations.BootStart : Prop :=
  ∀ s : State,
    let bad := mreadList s.ftn.image 0 4 ≠ [0x5A, 0x48, 0x56, 0x42] ∨ s.imageLength < 64 ∨ 4194304 < s.imageLength
    let crcBad := s.imageCrc ≠ mreadLE s.ftn.image 60 4
    (s.ftn.boot = .held → bad → completes .mbxBootCtlStart s fun t =>
      t.ftn.boot = .failed ∧ t.ftn.cause = 1 ∧ t.ftn.image = s.ftn.image ∧ s.sameUnits t) ∧
    (s.ftn.boot = .held → ¬bad → crcBad → completes .mbxBootCtlStart s fun t =>
      t.ftn.boot = .failed ∧ t.ftn.cause = 2 ∧ t.ftn.image = s.ftn.image ∧ s.sameUnits t) ∧
    (s.ftn.boot = .held → ¬bad → ¬crcBad → completes .mbxBootCtlStart s fun t =>
      t.ftn.boot = .verifying ∧ t.ftn.since = s.ncyc ∧ t.out = s.out ++ [.keyImage ((s.imageLength + 7) / 8)] ∧ s.sameUnits t) ∧
    (s.ftn.boot ≠ .held → completes .mbxBootCtlStart s fun t => t.ftn = s.ftn ∧ s.sameUnits t)

/-- The key port in VERIFYING: a first beat with bit 0 clear fails with cause 3; beats 1 to 9 are collected; the tenth brings RUNNING, the nonce
of its beat, keys in slots 0 to 2, the version of the image and steps 2 and 3 done. 100 ms without the tenth fail with cause 4. The watchdog of a running
Fountaineer fails it with cause 6 and raises its fault output; an uncorrectable error of its memory fails it with cause 5. -/
def Obligations.KeyPortAndFailures : Prop :=
  (∀ (s : State) (data : W64) (last : Bool), s.ftn.boot = .verifying →
    (s.ftn.keyed = false → s.ftn.beats = [] → data.getLsbD 0 = false → completes (.keyPortResponse data last) s fun t =>
      t.ftn.boot = .failed ∧ t.ftn.cause = 3 ∧ s.sameUnits t) ∧
    (s.ftn.keyed = false → s.ftn.beats.length < 9 → (s.ftn.beats = [] → data.getLsbD 0 = true) →
      completes (.keyPortResponse data last) s fun t =>
        t.ftn = { s.ftn with beats := s.ftn.beats ++ [data], keyed := last } ∧ s.sameUnits t) ∧
    (s.ftn.keyed = false → s.ftn.beats.length = 9 → completes (.keyPortResponse data last) s fun t =>
      t.ftn.boot = .running ∧ t.ftn.nonce = data ∧ t.ftn.version = BitVec.ofNat 32 (mreadLE s.ftn.image 4 4) ∧
      (∀ i, i < 3 → (t.slot i).key.isSome = true) ∧ t.stepDone 2 = true ∧ t.stepDone 3 = true ∧ s.sameUnits t) ∧
    (s.ftn.since + 100 * 1800000 ≤ s.ncyc → completes .keyVerdictTimeout s fun t =>
      t.ftn.boot = .failed ∧ t.ftn.cause = 4 ∧ s.sameUnits t)) ∧
  (∀ s : State, s.ftn.boot = .running → completes .fountaineerWatchdogExpire s fun t =>
    t.ftn = { s.ftn with boot := .failed, cause := 6, faultOut := true } ∧ s.sameUnits t) ∧
  (∀ s : State, s.ftn.boot ≠ .failed → completes .fountaineerMemoryUncorrectable s fun t =>
    t.ftn = { s.ftn with boot := .failed, cause := 5 } ∧ s.sameUnits t)

/-! ## Resets of the chip (R314, R317, R452, R495) -/

/-- tpn_por_n going low resets the chip: boot HELD, T zero, every unit, router, NI and link port as after reset; what lies outside the chip stays:
cluster memories, stacks and the integrator's parameters. tpn_por_n going high sets step 1 of bring-up on a chip that has been reset. -/
def Obligations.PowerOnReset : Prop :=
  (∀ s : State, completes .porAssert s fun t =>
    t.por = false ∧ t.ftn = State.reset.ftn ∧ t.time = 0 ∧ t.blocks = State.reset.blocks ∧ t.regions = State.reset.regions ∧
    t.links = State.reset.links ∧ t.chip = { State.reset.chip with integ := s.chip.integ } ∧
    (∀ c, t.cell c = { Cell.reset with cm := (s.cell c).cm }) ∧ (∀ g, t.gw g = { Gateway.reset with stack := (s.gw g).stack })) ∧
  (∀ s : State, s.por = false → completes .porRelease s fun t =>
    t.por = true ∧ t.ftn = State.reset.ftn ∧ t.stepDone 1 = true ∧ (∀ c, (t.ni c).hold = .bringUp) ∧
    (∀ c, t.cell c = { Cell.reset with cm := (s.cell c).cm })) ∧
  (∀ s : State, s.por = true → completes .porRelease s fun t => t.ftn = s.ftn ∧ t.chip = s.chip ∧ s.sameUnits t)

/-- 1 µs after the response to a RESET of the chip it resets: boot HELD, step 1 done, every unit as after reset but for the memories outside the
chip; a command of a management mailbox that stood busy is answered ABANDONED. Before that time nothing changes. -/
def Obligations.ChipResetAfterResponse : Prop :=
  ∀ (s : State) (t0 : Nat), s.ftn.resetAt = some t0 →
    (t0 ≤ s.ncyc → completes .chipResetAfterResponse s fun t =>
      t.ftn.boot = .held ∧ t.ftn.resetAt = none ∧ t.stepDone 1 = true ∧ t.regions = State.reset.regions ∧
      (∀ c, t.cell c = { Cell.reset with cm := (s.cell c).cm }) ∧
      (∀ m, m = 8 ∨ m = 9 → (s.mbx m).busy = true → t.answers m (s.cmdOf m).opcode 0x0E 0)) ∧
    (s.ncyc < t0 → completes .chipResetAfterResponse s fun t => t.ftn = s.ftn ∧ t.chip = s.chip ∧ s.sameUnits t)

/-! ## Register accesses (R8 to R11, R404, R466, R505, R506, R511) -/

/-- What a write does to the bits of a register without reserved encodings: RW bits take the value written, W1C bits written 1 clear, but for one that
hardware has set in this ncyc, W1S bits written 1 set, every other bit stays, and no other register of the unit changes. -/
def Obligations.WriteByAccessCode : Prop :=
  ∀ (r : Regs) (o : Nat) (row : RegRow) (v mask : W64), enumsAt r.scope o = [] → row.rw &&& row.w1c = 0 →
    (∀ i, i < 64 → ((r.store o row v mask).read o).getLsbD i =
      (if row.rw.testBit i && mask.getLsbD i then v.getLsbD i
       else if row.w1c.testBit i && mask.getLsbD i && v.getLsbD i && (r.before o).getLsbD i then false
       else if row.w1s.testBit i && mask.getLsbD i && v.getLsbD i then true else (r.read o).getLsbD i)) ∧
    ∀ p, p ≠ o → (r.store o row v mask).read p = r.read p

/-- A 64-bit register over a port lies in two consecutive words, the lower one first: a read of the lower word returns it and latches the upper word; the next read of the upper word returns the latched
value; one that does not follow returns the live bits; an RC field is returned as it stood before what this ncyc has added. A write by Zhevber of the lower word is held, with nothing written; the next write of the upper word
stores both words at once. -/
def Obligations.SixtyFourBitRegisters : Prop :=
  ∀ (s : State) (a : Agent) (addr : Nat) (sc : Scope) (u off o : Nat) (row : RegRow),
    place a (wordAddr addr) = .unit sc u off → s.powered sc u → row.width = 64 →
    (regAt sc off = some (o, row, false) → off = o) ∧ (regAt sc off = some (o, row, true) → off = o + 4) ∧
    (s.window sc u off = none → regAt sc off = some (o, row, false) → completes (.lowWordRead a addr) s fun t =>
      t.out = s.out ++ [.read a (wordAddr addr) ((s.readShown a sc u o row).extractLsb' 0 32)] ∧
      (t.port a).latch = some (wordAddr addr, (s.readShown a sc u o row).extractLsb' 32 32)) ∧
    (s.window sc u off = none → regAt sc off = some (o, row, true) →
      (∀ k hi, (s.port a).latch = some (k, hi) → k + 4 = wordAddr addr → completes (.rcFieldRead a addr) s fun t =>
        t.out = s.out ++ [.read a (wordAddr addr) hi] ∧ (t.port a).latch = none ∧ s.sameUnits t) ∧
      ((∀ k hi, (s.port a).latch = some (k, hi) → k + 4 ≠ wordAddr addr) → completes (.rcFieldRead a addr) s fun t =>
        t.out = s.out ++ [.read a (wordAddr addr) ((s.readShown a sc u o row).extractLsb' 32 32)])) ∧
    (a = .zhevber → regAt sc off = some (o, row, false) → ∀ v : W32, completes (.lowWordWrite a addr v) s fun t =>
      t.portZhev = { s.portZhev with held := some (wordAddr addr, v) } ∧ t.chip = s.chip ∧ t.ftn = s.ftn ∧ s.sameUnits t) ∧
    (a = .zhevber → regAt sc off = some (o, row, true) → ∀ lo v : W32, s.portZhev.held = some (wordAddr addr - 4, lo) → 4 ≤ wordAddr addr →
      exec (.upperWordWrite a addr v) s =
        .next ((({ s with portZhev := { s.portZhev with held := none } } : State).store sc u o row (v ++ lo) (BitVec.allOnes 64)).keeping s))

/-- A 32-bit register over a port: a read by the host or the management agent returns its value, an RC field as it stood before what this ncyc has
added; it leaves each RC count equal to what this ncyc has added and changes no other bit of the register; one by Zhevber clears nothing; a write by Zhevber stores into the register; a write by the host or the management agent to a unit's register
writes none and is counted with its address. -/
def Obligations.RegisterReadsAndWrites : Prop :=
  ∀ (s : State) (a : Agent) (addr : Nat) (sc : Scope) (u off : Nat), place a (wordAddr addr) = .unit sc u off →
    (∀ (o : Nat) (row : RegRow), regAt sc off = some (o, row, false) → row.width = 32 → s.powered sc u →
      (s.window sc u off = none → highsAt (s.regsOf sc u).scope o = [] → completes (.rcFieldRead a addr) s fun t =>
        t.out = s.out ++ [.read a (wordAddr addr) (halfOf (s.readShown a sc u o row) false)] ∧
        (t.regsOf sc u).read o = (if a = .zhevber ∨ row.rc = 0 then (s.regsOf sc u).read o
          else ((s.regsOf sc u).read o &&& ~~~(BitVec.ofNat 64 row.rc)) |||
            ((((s.regsOf sc u).read o &&& BitVec.ofNat 64 row.rc) - ((s.regsOf sc u).before o &&& BitVec.ofNat 64 row.rc)) &&&
              BitVec.ofNat 64 row.rc)) ∧
        ∀ p, p ≠ o → (t.regsOf sc u).read p = (s.regsOf sc u).read p) ∧
      (a = .zhevber → ∀ v : W32,
        exec (.registerWrite a addr v) s = .next ((s.store sc u o row (v.setWidth 64) (BitVec.allOnes 64)).keeping s))) ∧
    (∀ v : W32, a ≠ .zhevber → sc ≠ .chip → (regAt sc off).isSome = true → completes (.registerWrite a addr v) s fun t =>
      s.sameUnits t ∧ t.ftn = s.ftn ∧ t.chget CHP_HOST_STAT_last_addr = wordAddr addr ∧
      (a = .host → t.chget CHP_HOST_STAT_host_refused = min (s.chget CHP_HOST_STAT_host_refused + 1) 65535) ∧
      (a = .mgmt → t.chget CHP_HOST_STAT_mgmt_refused = min (s.chget CHP_HOST_STAT_mgmt_refused + 1) 65535))

/-! ## Mailbox commands: order, checks and responses (R421 to R432) -/

/-- Zhevber's checks on a critical command (FENCE op 0) that stands next in turn, in their order: a slot that may not give it is answered SLOT_DENIED; a
locked slot LOCKED; a wrong tag AUTH_FAIL and an old counter STALE_COUNTER, each with the failures of the slot, one more. None of them does what the
command asks: every unit stays as it was. -/
def Obligations.CriticalCommandChecks : Prop :=
  ∀ (s : State) (m : Nat), m < 10 → s.zRuns = true → s.nextMbx = some m → (s.cmdOf m).opcode = 0x52 → (s.cmdOf m).arg 2 1 = 0 →
    let k := s.cmdOf m
    (slotAllowed k = false → completes (.fenceCell m) s fun t => t.answers m 0x52 0x06 0 ∧ s.sameUnits t) ∧
    (slotAllowed k = true → (s.slot k.slot).locked = true → completes (.fenceCell m) s fun t => t.answers m 0x52 0x05 0 ∧ s.sameUnits t) ∧
    (slotAllowed k = true → (s.slot k.slot).locked = false → s.tagOk k = false → completes (.fenceCell m) s fun t =>
      t.answers m 0x52 0x03 (t.slot k.slot).fails ∧ (t.slot k.slot).fails = (s.slot k.slot).fails + 1 ∧ s.sameUnits t) ∧
    (slotAllowed k = true → (s.slot k.slot).locked = false → s.tagOk k = true → k.counter ≤ (s.slot k.slot).counter.toNat →
      completes (.fenceCell m) s fun t =>
        t.answers m 0x52 0x04 (t.slot k.slot).fails ∧ (t.slot k.slot).fails = (s.slot k.slot).fails + 1 ∧ s.sameUnits t)

/-- Bring-up commands that Zhevber accepts, with legal arguments: GET_INFO answers the version and T; SET_IDENTITY sets the chip ID and the
dimensions; CISTERN_OPEN with a copy that reads, has free pages in three zones and no old record does step 4; MAP_INSTALL writes every region manager's map copy; ROUTE_INIT with a usable
corner sets version 0 ACTIVE and version 1 FREE everywhere; DEFECT_LOAD of a map given fences the cells that it marks and closes the ports. Each answers
OK and sets its step. -/
def Obligations.BringUpCommands : Prop :=
  ∀ (s : State) (m : Nat),
    let k := s.cmdOf m
    (s.accepts m 0x01 = true → k.extLen = 0 → completes (.getInfo m) s fun t =>
      t.answers m 0x01 0 0 ∧ (t.mbx m).rsp.getD 4 0 = s.ftn.version ∧ s.sameUnits t ∧ t.chip = s.chip) ∧
    (s.accepts m 0x02 = true → k.extLen = 0 → k.arg 0 2 ≤ 8191 → k.arg 2 2 ≤ 8191 → bits (k.arg 0 2) 8 5 ≤ bits (k.arg 2 2) 0 5 →
      bits (k.arg 0 2) 4 4 ≤ bits (k.arg 2 2) 5 4 → bits (k.arg 0 2) 0 4 ≤ bits (k.arg 2 2) 9 4 → completes (.setIdentity m) s fun t =>
        t.answers m 0x02 0 0 ∧ t.chget CHP_CHIP_ID_chip_id = k.arg 0 2 ∧ t.chget CHP_CHIP_ID_dim_x_m1 = bits (k.arg 2 2) 0 5 ∧
        t.chget CHP_CHIP_ID_dim_y_m1 = bits (k.arg 2 2) 5 4 ∧ t.chget CHP_CHIP_ID_dim_z_m1 = bits (k.arg 2 2) 9 4 ∧ t.stepDone 5 = true ∧
        s.sameUnits t) ∧
    (s.accepts m 0x08 = true → k.extLen = 0 → s.stepDone 4 = false →
      (let keep := if k.arg 4 2 = 0 then 90 else k.arg 4 2
       let a := s.accepted m
       let c := (a.modFtn fun f => { f with day := k.arg 0 4, retention := keep, dayFrom := s.now }).readCistern.repairAll.1
       ((a.readCistern.cist 0).live = true ∨ (a.readCistern.cist 1).live = true) ∧
       ∃ j, j < 2 ∧ (c.cist j).live = true ∧ (c.cist j).badReads = [] ∧ (∀ r ∈ (c.cist j).recs, k.arg 0 4 < r.day + keep) ∧
        3 ≤ ((List.range 16).filter fun z => ((c.cist j).nextFree z).isSome).length) →
      completes (.cisternOpen m) s fun t => t.answers m 0x08 0 0 ∧ t.stepDone 4 = true ∧ t.ftn.startCount.isSome = true) ∧
    (s.accepts m 0x10 = true → k.extLen = 0 → k.arg 0 1 = 0 → s.stepDone 4 = true → s.stepDone 6 = false → completes (.defectLoad m) s fun t =>
      t.answers m 0x10 0 0 ∧ t.stepDone 6 = true) ∧
    (s.accepts m 0x10 = true → k.extLen = 9216 → k.arg 0 1 = 1 → s.stepDone 6 = false → completes (.defectLoad m) s fun t =>
      t.answers m 0x10 0 0 ∧ t.stepDone 6 = true ∧ ∀ i, i < 9216 →
        ((k.ext.getD i 0).toNat.testBit 4 = true ∨ (k.ext.getD i 0).toNat.testBit 5 = true → t.fencedCell (mkCell (i % 96) (i / 96)) = true) ∧
        ∀ p, p < 4 → (k.ext.getD i 0).toNat.testBit p = true → (neighbor (mkCell (i % 96) (i / 96)) p).isSome = true →
          (aget (t.rt (mkCell (i % 96) (i / 96))).sluices p).isSome = true) ∧
    (s.accepts m 0x11 = true → k.extLen = 0 → k.arg 0 1 = 0 → s.stepDone 8 = false → completes (.mapInstall m) s fun t =>
      t.answers m 0x11 0 0 ∧ t.stepDone 8 = true ∧
      ∀ r, (t.region r).map = (List.range 9216).map fun i =>
        (i, mapWord (if s.mappable (mkCell (i % 96) (i / 96)) then some (mkCell (i % 96) (i / 96)) else none))) ∧
    (s.accepts m 0x13 = true → k.extLen = 0 → s.stepDone 9 = false → (s.accepted m).chooseCorner.ctxValid 0 = true →
      completes (.routeInit m) s fun t =>
        t.answers m 0x13 0 0 ∧ t.stepDone 9 = true ∧ (∀ c, (t.rt c).verState 0 = vACTIVE ∧ (t.rt c).verState 1 = vFREE ∧ (t.rt c).casc = []) ∧
        t.chip.active = 0 ∧ t.chip.routed = true)

/-- SET_TIME with legal arguments sets the fields of CHP_TIME_CTL; BLOCK_TEST starts the self-test of every block, or those named, not taken out and its
response waits for the end; BLOCK_TEST_END ends the tests that are due and the response is OK. -/
def Obligations.TimeAndSelfTestCommands : Prop :=
  ∀ (s : State) (m : Nat),
    let k := s.cmdOf m
    (s.accepts m 0x03 = true → k.extLen = 0 → k.arg 0 1 ≤ 3 → 1 ≤ k.arg 2 2 → k.arg 2 2 ≤ 4095 → 1 ≤ k.arg 4 1 → k.arg 4 1 ≤ 15 →
      k.arg 5 1 ≠ 0 → completes (.setTime m) s fun t =>
        t.answers m 0x03 0 0 ∧ t.chget CHP_TIME_CTL_master = bits (k.arg 0 1) 0 1 ∧ t.chget CHP_TIME_CTL_enable = bits (k.arg 0 1) 1 1 ∧
        t.chget CHP_TIME_CTL_recal_us = k.arg 2 2 ∧ t.chget CHP_TIME_CTL_lock_tol = k.arg 4 1 ∧ t.chget CHP_TIME_CTL_holdover_ms = k.arg 5 1 ∧
        (∀ c, t.ni c = s.ni c ∧ (t.cell c).cm = (s.cell c).cm) ∧ t.blocks = s.blocks ∧ t.regions = s.regions ∧ t.gws = s.gws) ∧
    (s.accepts m 0x12 = true → k.extLen = 0 → k.arg 0 1 = 0 → (k.arg 4 4 = 0 ∨ 40 ≤ k.arg 4 4) → s.stepDone 10 = false →
      (∀ b ∈ allBlocks, (s.block b).test = none) → completes (.blockTest m) s fun t =>
        t.holds m ∧ aget t.chip.mbxWait 100 = some m ∧ t.regions = s.regions ∧
        ∀ b ∈ allBlocks, (s.region (blockRegion b)).taken = false → (t.block b).test = some ⟨s.now + testNcyc (k.arg 4 4)⟩) ∧
    (s.accepts m 0x12 = true → k.extLen = 72 → k.arg 0 1 = 1 → (k.arg 4 4 = 0 ∨ 40 ≤ k.arg 4 4) → s.stepDone 10 = false →
      (∀ b ∈ allBlocks, (s.block b).test = none) → completes (.blockTest m) s fun t =>
        t.holds m ∧ aget t.chip.mbxWait 100 = some m ∧ t.regions = s.regions ∧
        ∀ b ∈ allBlocks, (t.block b).test = (if (leNat k.ext).testBit (blockIdx b) = true ∧ (s.region (blockRegion b)).taken = false then
          some ⟨s.now + testNcyc (k.arg 4 4)⟩ else none)) ∧
    ((∃ b ∈ allBlocks, ∃ e, (s.block b).test = some ⟨e⟩ ∧ e ≤ s.now) → aget s.chip.mbxWait 100 = some m → m < 10 → (s.mbx m).taken = true →
      (s.cmdOf m).opcode = 0x12 → ∀ bad : List (Nat × Nat), (∀ e ∈ bad, cellOk e.1 = true ∧ e.2 < 4) → completes (.blockTestEnd bad) s fun t =>
        t.answers m 0x12 0 0 ∧ t.stepDone 7 = true ∧ aget t.chip.mbxWait 100 = none)

/-- Set-up commands that Zhevber accepts, with legal arguments. PARTERRE_SET creates a parterre that owns its cells and destroys one; CLASS_SET sets
a class's rates and bursts; each answers OK. A cell of a block in Off keeps its owner (R404). -/
def Obligations.ParterreAndClassCommands : Prop :=
  ∀ (s : State) (m : Nat),
    let k := s.cmdOf m
    (s.accepts m 0x20 = true → k.extLen = 1152 → k.arg 1 1 = 0 → k.arg 0 1 ≠ 0 → k.arg 2 1 ≤ 15 → s.parterre (k.arg 0 1) = none →
      (∀ c ∈ k.cells, s.cget c NI_OWNER_parterre = 0 ∨ s.cget c NI_OWNER_parterre = k.arg 0 1) → completes (.parterreSetCreate m) s fun t =>
        t.answers m 0x20 0 0 ∧ t.chip.parterres = s.chip.parterres ++ [⟨k.arg 0 1, k.cells⟩] ∧
        (∀ c ∈ k.cells, (s.block (blockOf c)).power ≠ .off → t.cget c NI_OWNER_parterre = k.arg 0 1) ∧ t.classNow (k.arg 0 1) = k.arg 2 1 ∧
        t.stepDone 13 = true ∧ (∀ d, d ∉ k.cells → t.cell d = s.cell d) ∧
        ((∀ c ∈ k.cells, (s.block (blockOf c)).power = .run) → t.blocks = s.blocks ∧ t.regions = s.regions)) ∧
    (s.accepts m 0x20 = true → k.extLen = 0 → k.arg 1 1 = 1 → k.arg 0 1 ≠ 0 → k.arg 2 1 ≤ 15 → (s.parterre (k.arg 0 1)).isSome = true →
      completes (.parterreSetDestroy m) s fun t =>
        t.answers m 0x20 0 0 ∧ t.chip.parterres = s.chip.parterres.filter (fun x => x.id != k.arg 0 1) ∧
        t.classNow (k.arg 0 1) = 0 ∧
        (∀ c ∈ allCells, s.cget c NI_OWNER_parterre = k.arg 0 1 → (s.block (blockOf c)).power ≠ .off → t.cget c NI_OWNER_parterre = 0) ∧
        (∀ d, s.cget d NI_OWNER_parterre ≠ k.arg 0 1 → t.cell d = s.cell d) ∧
        ((∀ c ∈ allCells, s.cget c NI_OWNER_parterre = k.arg 0 1 → (s.block (blockOf c)).power = .run) →
          t.blocks = s.blocks ∧ t.regions = s.regions)) ∧
    (s.accepts m 0x21 = true → k.extLen = 0 → k.arg 0 1 ≤ 15 → k.arg 8 3 ≤ 2 ^ 20 → k.arg 12 2 < 2 ^ 11 → completes (.classSet m) s fun t =>
      t.answers m 0x21 0 0 ∧ t.chget (CHP_SPILL_CLASS_ni_rate.at (k.arg 0 1)) = k.arg 2 2 % 2 ^ CHP_SPILL_CLASS_ni_rate.len ∧
      t.chget (CHP_SPILL_CLASS_gw_rate.at (k.arg 0 1)) = k.arg 8 3 ∧ t.chget (CHP_SPILL_CLASS_gw_burst.at (k.arg 0 1)) = k.arg 12 2 ∧
      s.sameUnits t)

/-- WINDOW_SET of a cell's or a gateway's window that meets no row of R169 writes it; QUEUE_SET of a queue that holds no pool entries and no ring bytes (or
stands under a ring fault, log 67) writes its configuration and leaves its ring empty; REG_SET and REG_SET_CRIT write a register of each unit that
they name, if no rule of an NI's registers forbids the value; each answers OK. A cell's block runs (else log 62 applies). -/
def Obligations.WindowQueueAndRegisterCommands : Prop :=
  ∀ (s : State) (m : Nat),
    let k := s.cmdOf m
    (s.accepts m 0x22 = true → k.extLen = 0 → cellOk (k.arg 0 2) = true → (s.block (blockOf (k.arg 0 2))).power = .run → k.arg 2 1 ≤ 15 →
      k.arg 3 1 < 8 → k.arg 16 8 < 2 ^ 48 →
      (k.arg 3 1 % 2 = 1 → (⟨0, k.arg 4 1, k.arg 5 3, k.arg 8 3 + 1, k.arg 16 8⟩ : Win).row none (s.gatewayCell? (k.arg 0 2)).isSome
        ((s.cell (k.arg 0 2)).regs.niWindows (k.arg 2 1)) = 0) → completes (.windowSet m) s fun t =>
        t.answers m 0x22 0 0 ∧ t.cget (k.arg 0 2) (NI_WIN_A_valid.at (k.arg 2 1)) = k.arg 3 1 % 2 ∧
        t.cget (k.arg 0 2) (NI_WIN_A_parterre.at (k.arg 2 1)) = k.arg 4 1 ∧ t.cget (k.arg 0 2) (NI_WIN_A_base.at (k.arg 2 1)) = k.arg 5 3 ∧
        (∀ c, c ≠ k.arg 0 2 → t.cell c = s.cell c) ∧ t.blocks = s.blocks ∧ t.regions = s.regions ∧ t.links = s.links ∧ t.gws = s.gws) ∧
    (∀ g, s.accepts m 0x22 = true → k.extLen = 0 → k.arg 0 2 = 0x3F80 + g → g < 20 → s.chip.integ.mgwPresent.getLsbD g = true → k.arg 2 1 ≤ 63 →
      k.arg 3 1 < 64 → k.arg 16 8 < 2 ^ 40 →
      (k.arg 3 1 % 2 = 1 → (⟨bits (k.arg 3 1) 3 3, k.arg 4 1, k.arg 5 3, k.arg 8 3 + 1, k.arg 16 8⟩ : Win).row (some g)
        (s.gatewayCell? (k.arg 0 2)).isSome ((s.gw g).regs.gwWindows (k.arg 2 1)) = 0) → completes (.windowSet m) s fun t =>
        t.answers m 0x22 0 0 ∧ (t.gw g).regs.get (CHP_MGW_WIN_A_valid.at (k.arg 2 1)) = k.arg 3 1 % 2 ∧
        (t.gw g).regs.get (CHP_MGW_WIN_A_cell.at (k.arg 2 1)) = bits (k.arg 3 1) 3 3 ∧
        (t.gw g).regs.get (CHP_MGW_WIN_A_parterre.at (k.arg 2 1)) = k.arg 4 1 ∧
        (t.gw g).regs.get (CHP_MGW_WIN_A_base.at (k.arg 2 1)) = k.arg 5 3 ∧
        (∀ x, x ≠ g → t.gw x = s.gw x) ∧ t.cells = s.cells ∧ t.blocks = s.blocks ∧ t.regions = s.regions ∧ t.links = s.links) ∧
    (s.accepts m 0x23 = true → k.extLen = 0 → cellOk (k.arg 0 2) = true → (s.block (blockOf (k.arg 0 2))).power = .run → k.arg 2 1 ≤ 63 →
      k.arg 4 2 + (((List.range 64).filter fun j => j != k.arg 2 1).map fun j => s.cget (k.arg 0 2) (NI_Q_CFG_q_min.at j)).sum ≤ 1024 →
      k.arg 4 2 ≤ k.arg 6 2 → k.arg 6 2 ≤ 1024 → k.arg 10 2 < 2 ^ 12 → k.arg 16 8 % 4096 = 0 → k.arg 16 8 < 2 ^ 48 → k.arg 24 2 ≤ 4096 →
      ((s.ni (k.arg 0 2)).queue (k.arg 2 1)).taken = 0 →
      (((s.ni (k.arg 0 2)).queue (k.arg 2 1)).u = 0 ∨ ((s.ni (k.arg 0 2)).queue (k.arg 2 1)).ringFault = true) →
      completes (.queueSet m) s fun t => ((t.ni (k.arg 0 2)).queue (k.arg 2 1)).u = 0 ∧
        ((t.ni (k.arg 0 2)).queue (k.arg 2 1)).ringFault = false ∧
        t.answers m 0x23 0 0 ∧ t.cget (k.arg 0 2) (NI_Q_CFG_q_min.at (k.arg 2 1)) = k.arg 4 2 ∧
        t.cget (k.arg 0 2) (NI_Q_CFG_q_max.at (k.arg 2 1)) = k.arg 6 2 ∧ t.cget (k.arg 0 2) (NI_Q_CFG_stale_time.at (k.arg 2 1)) = k.arg 10 2 ∧
        (∀ c, c ≠ k.arg 0 2 → t.cell c = s.cell c) ∧ t.blocks = s.blocks ∧ t.regions = s.regions ∧ t.links = s.links ∧ t.gws = s.gws) ∧
    (∀ (crit : Bool) (sc : Scope) (off o : Nat) (us : List Nat) (row : RegRow),
      s.accepts m (if crit then 0x25 else 0x24) = true → k.extLen = 0 → k.arg 4 1 ≤ 8 → (s.accepted m).regSetUnits k = some (sc, off, us) →
      us ≠ [] → regAt sc off = some (o, row, false) → row.rw ≠ 0 → (cmdOwned sc off = false ∨ crit = true) →
      ¬(sc = .chip ∧ off = CHP_CHIP_ID_chip_id.off) →
      (sc = .cell → ∀ u ∈ us, (s.accepted m).mayWriteNi u off (BitVec.ofNat 64 (k.arg 8 8)) (BitVec.ofNat 64 (k.arg 16 8)) = none) →
      let w := us.foldl (fun a u => a.regWrite sc u off row (BitVec.ofNat 64 (k.arg 8 8)) (BitVec.ofNat 64 (k.arg 16 8))) (s.accepted m)
      completes (if crit then .regSetCrit m else .regSet m) s fun t => t.answers m (if crit then 0x25 else 0x24) 0 0 ∧ w.sameUnits t)

/-! ## Trees, landing entries, held ranges (R217, R229, R233, R234, R263, R272) -/

/-- TREE_SETUP of a tree that meets every row of R217 and, of a reduction tree, of R245, with its resources there, adds it to the trees in use and puts a
valid entry for it into the cascade table of each of its vertices, a valid tree entry into the NI of each record with a role. TREE_RETIRE takes
a tree's retirement into the queue, its response waiting; TREE_RETIRE_CLEAR, after a full clean interval with no range of the tree busy, clears its
entries, removes it from the trees in use and answers. -/
def Obligations.TreeCommands : Prop :=
  ∀ (s : State) (m : Nat),
    let k := s.cmdOf m
    let x := TreeRec.of k.ext
    let vs := vtxList k.ext 32 x.count
    let q := k.redSetup (32 + 8 * x.count)
    (s.accepts m 0x30 = true → k.extLen ≤ stagingSize → x.formOk = true → k.ext.length = 32 + 8 * x.count + 32 * x.kind → k.arg 0 1 ≤ x.kind →
      x.kind ≤ 1 → s.usedTrees.length < 4096 → (∀ r ∈ s.chip.retiring, r.tree ≠ x.tree) → s.treeUsed x.tree = false → s.treeRow x vs = 0 →
      (x.kind = 1 → 1 ≤ q.base ∧ q.base * (1 + (vs.map fun v => redHeight vs v).foldl max 0) ≤ 4095 ∧ 1 ≤ q.hold ∧ q.hold ≤ 4095 ∧
        redUps vs x.root = true ∧ s.redRow x vs q = 0 ∧ s.redRoom x vs q = 0 ∧ q.delivers = true) → completes (.treeSetup m) s fun t =>
        t.answers m 0x30 0 0 ∧ t.chip.trees = (s.chip.trees.filter fun y => y.id != x.tree) ++ [⟨x.tree, x.kind == 1, x.root, vs⟩] ∧
        (∀ v ∈ vs, bits ((t.rt v.cell).cascade x.tree) 8 1 = 1) ∧
        (x.kind = 1 → ∀ v ∈ vs, (v.role x.root q.forward).isSome = true → ((t.cell v.cell).regs.redEntry x.tree).isSome = true) ∧
        t.blocks = s.blocks ∧ t.regions = s.regions ∧ t.links = s.links ∧ t.gws = s.gws) ∧
    (s.accepts m 0x31 = true → k.extLen = 0 → k.arg 0 2 < 4096 → k.arg 2 1 ≤ 1 → s.treeUsed (k.arg 0 2) = true →
      (∀ r ∈ s.chip.retiring, r.tree ≠ k.arg 0 2) → completes (.treeRetire m) s fun t =>
        t.holds m ∧ t.chip.trees = s.chip.trees ∧ ∃ r, t.chip.retiring = s.chip.retiring ++ [r] ∧ r.tree = k.arg 0 2 ∧ r.mbx = m ∧
          r.discard = (k.arg 2 1 == 1) ∧ r.clean = false) ∧
    (∀ (r : Retire) (rest : List Retire), s.chip.retiring = r :: rest → r.clean = true →
      let x := (s.chip.trees.find? fun y => y.id == r.tree).getD ⟨r.tree, false, 0, []⟩
      let cells := x.verts.map Vtx.cell
      let w := if r.discard then cells.foldl (fun a c => a.discardHeld c x.id) s else s
      (∀ c ∈ cells, w.rangesIdle c x.id = true) → r.mbx < 10 → (s.mbx r.mbx).taken = true → completes .treeRetireClear s fun t =>
        t.answers r.mbx (s.cmdOf r.mbx).opcode 0 0 ∧ t.chip.trees = s.chip.trees.filter (fun y => y.id != x.id) ∧
        t.chip.retiring.map Retire.tree = rest.map Retire.tree ∧ ∀ c ∈ cells, bits ((t.rt c).cascade x.id) 8 1 = 0)

/-- MC_LAND_SET and RED_LAND_SET write a landing entry and a made valid entry starts cleared; RED_HOLD release emits the oldest held range of a
cell and its discard loses it. Each answers OK and changes no other cell's registers. The cell's block runs (else log 62 applies). -/
def Obligations.LandingAndHeldRangeCommands : Prop :=
  ∀ (s : State) (m : Nat),
    let k := s.cmdOf m
    let c := k.arg 0 2
    let i := k.arg 2 1
    (s.block (blockOf c)).power = .run →
    (s.accepts m 0x32 = true → k.extLen = 0 → cellOk c = true → i < 16 → k.arg 3 1 < 16 → k.arg 4 2 < 4096 → k.arg 6 2 < 4096 →
      (s.cellFlag c (NI_MC_LAND_valid.at i) = false ∨ k.arg 3 1 % 2 = 0) → completes (.mcLandSet m) s fun t =>
        t.answers m 0x32 0 0 ∧ t.cget c (NI_MC_LAND_valid.at i) = k.arg 3 1 % 2 ∧ t.cget c (NI_MC_LAND_sched_tree.at i) = k.arg 4 2 ∧
        t.cget c (NI_MC_LAND_dyn_tree.at i) = k.arg 6 2 ∧ t.cget c (NI_MC_LAND_base.at i) = k.arg 8 3 ∧
        t.cget c (NI_MC_LAND_parterre.at i) = k.arg 11 1 ∧ (k.arg 3 1 % 2 = 1 → aget (t.ni c).mcLands i = none) ∧
        (∀ d, d ≠ c → t.cell d = s.cell d) ∧ t.blocks = s.blocks ∧ t.regions = s.regions ∧ t.links = s.links ∧ t.gws = s.gws) ∧
    (s.accepts m 0x33 = true → k.extLen = 0 → cellOk c = true → i < 8 → k.arg 3 1 < 4 → k.arg 4 2 < 4096 →
      (s.cellFlag c (NI_RED_LAND_valid.at i) = false ∨ k.arg 3 1 % 2 = 0) → completes (.redLandSet m) s fun t =>
        t.answers m 0x33 0 0 ∧ t.cget c (NI_RED_LAND_valid.at i) = k.arg 3 1 % 2 ∧ t.cget c (NI_RED_LAND_tree.at i) = k.arg 4 2 ∧
        t.cget c (NI_RED_LAND_base.at i) = k.arg 8 3 ∧ t.cget c (NI_RED_LAND_parterre.at i) = k.arg 11 1 ∧
        (k.arg 3 1 % 2 = 1 → aget (t.ni c).redLands i = none) ∧
        (∀ d, d ≠ c → t.cell d = s.cell d) ∧ t.blocks = s.blocks ∧ t.regions = s.regions ∧ t.links = s.links ∧ t.gws = s.gws) ∧
    (∀ (key : Nat) (g : RangeRt), s.accepts m 0x34 = true → k.extLen = 0 → cellOk c = true → (s.ni c).oldestHeld = some (key, g) →
      (k.arg 2 1 = 0 → completes (.redHoldRelease m) s fun t =>
        t.answers m 0x34 0 0 ∧ t.cells = ((s.accepted m).redEmit c (key / 1024) (key % 1024)).cells) ∧
      (k.arg 2 1 = 1 → completes (.redHoldDiscard m) s fun t =>
        t.answers m 0x34 0 0 ∧ t.cells = ((s.accepted m).redLose c (key / 1024) (key % 1024)).cells ∧ t.blocks = s.blocks ∧ t.links = s.links))

/-! ## Files and schedules (R104, R105, R123, R124) -/

/-- FILE_OPEN opens a file of a kind that is not open; FILE_DATA appends the extended arguments; FILE_COMMIT of a slot-table file that meets every
check writes the spare bank, which a pending switch brings at its time (log 56); of a tree file that meets every check installs its trees; a file that fails a
check is rejected with its code and closed, with nothing installed; one whose tree breaks a rule is answered as TREE_SETUP answers (logs 57, 59). -/
def Obligations.FileCommands : Prop :=
  ∀ (s : State) (m : Nat),
    let k := s.cmdOf m
    (s.accepts m 0x40 = true → k.extLen = 0 → k.arg 0 1 ≤ 1 → (∀ f ∈ s.ftn.files, f.kind ≠ k.arg 0 1) → completes (.fileOpen m) s fun t =>
      t.answers m 0x40 0 0 ∧ t.ftn.files = ⟨k.arg 0 1, k.arg 4 4, []⟩ :: s.ftn.files ∧ s.sameUnits t) ∧
    (∀ (f : FileRt) (rest : List FileRt), s.accepts m 0x41 = true → k.extLen ≤ stagingSize → s.ftn.files = f :: rest →
      (f.bytes ++ k.ext).length ≤ f.total → completes (.fileData m) s fun t =>
        t.answers m 0x41 0 0 ∧ t.ftn.files = { f with bytes := f.bytes ++ k.ext } :: rest ∧ s.sameUnits t) ∧
    (∀ (f : FileRt) (rest : List FileRt), s.accepts m 0x42 = true → k.extLen = 0 → s.ftn.files = f :: rest → f.kind = 0 →
      slotFileCheck f.bytes s.chipId.toNat ((s.accepted m).otherId 0) = 0 → completes (.fileCommit m) s fun t =>
        t.answers m 0x42 0 0 ∧ t.ftn.files = rest ∧ t.spare = { bankOf f.bytes with t0 := s.chip.switchAt.getD 0 } ∧ t.bank = s.bank ∧
        t.chip.installed = true ∧ t.cells = s.cells) ∧
    (∀ (f : FileRt) (rest : List FileRt), s.accepts m 0x42 = true → k.extLen = 0 → s.ftn.files = f :: rest → f.kind = 0 →
      slotFileCheck f.bytes s.chipId.toNat ((s.accepted m).otherId 0) ≠ 0 → completes (.fileCommit m) s fun t =>
        t.answers m 0x42 0x0B (slotFileCheck f.bytes s.chipId.toNat ((s.accepted m).otherId 0)) ∧ t.ftn.files = rest ∧ t.bank = s.bank ∧
        t.spare = s.spare ∧ s.sameUnits t) ∧
    (∀ (f : FileRt) (rest : List FileRt), s.accepts m 0x42 = true → k.extLen = 0 → s.ftn.files = f :: rest → f.kind ≠ 0 →
      let code := treeFileCheck f.bytes s.chipId.toNat ((s.accepted m).otherId f.kind)
      let r := ((s.accepted m).modFtn fun x => { x with files := rest }).installTrees f.bytes 0 (num f.bytes 10 2)
      (code ≠ 0 → code ≠ 6 → completes (.fileCommit m) s fun t => t.answers m 0x42 0x0B code ∧ t.ftn.files = rest ∧ s.sameUnits t) ∧
      (code = 0 ∨ code = 6 → ∀ e, r.2 = some e → completes (.fileCommit m) s fun t => t.answers m 0x42 e.1 e.2 ∧ t.ftn.files = rest ∧ s.sameUnits t) ∧
      (code = 6 → r.2 = none → completes (.fileCommit m) s fun t => t.answers m 0x42 0x0B 6 ∧ t.ftn.files = rest ∧ s.sameUnits t) ∧
      (code = 0 → r.2 = none → completes (.fileCommit m) s fun t =>
        t.answers m 0x42 0 0 ∧ t.ftn.files = rest ∧ t.cells = r.1.cells ∧ t.chip.trees = r.1.chip.trees ∧
        t.chip.treeFile = some (BitVec.ofNat 64 (num f.bytes 16 8))))

/-- SCHED_SWITCH with an installed bank and a legal T0 names the switch, and the switch at T0 makes the spare bank the active one and runs; SCHED_STOP
at a boundary names the stop, and the stop at its time ends the sequence. -/
def Obligations.ScheduleCommands : Prop :=
  ∀ (s : State) (m : Nat),
    let k := s.cmdOf m
    (s.accepts m 0x43 = true → k.extLen = 0 → s.chip.installed = true →
      (s.chip.running = true → s.boundary (k.arg 0 8) = true) → (s.chip.running = false → s.now + 1000000 ≤ k.arg 0 8) →
      completes (.schedSwitch m) s fun t =>
        t.answers m 0x43 0 0 ∧ t.chip.switchAt = some (k.arg 0 8) ∧ t.spare = { s.spare with t0 := k.arg 0 8 } ∧ t.bank = s.bank ∧ s.sameUnits t) ∧
    (s.accepts m 0x44 = true → k.extLen = 0 → s.chip.running = true → s.boundary (k.arg 0 8) = true → completes (.schedStop m) s fun t =>
      t.answers m 0x44 0 0 ∧ t.chip.stopAt = some (k.arg 0 8) ∧ t.chip.running = true ∧ s.sameUnits t) ∧
    (∀ t0, s.chip.switchAt = some t0 → t0 ≤ s.now → completes .bankSwitch s fun t =>
      t.bank = s.spare ∧ t.spare = s.bank ∧ t.chip.running = true ∧ t.chip.switchAt = none ∧ t.chip.installed = false ∧
      t.cells = s.cells ∧ t.blocks = s.blocks ∧ t.regions = s.regions ∧ t.gws = s.gws ∧ ∀ n, t.link n = (s.link n).enterSched) ∧
    (∀ t0, s.chip.stopAt = some t0 → t0 ≤ s.now → completes .sequenceStop s fun t =>
      t.chip.running = false ∧ t.chip.stopAt = none ∧ t.bank = s.bank ∧ s.sameUnits t)

/-! ## Healing by command (R308 to R311, R321, R431) -/

/-- ROUTE_EXCEPT keeps its exceptions and its response waits for the flip; SLUICE_REOPEN of a port sluice sets it to TEST at both routers; REMAP
writes one entry of every region manager's map copy; BALANCE_CHECK answers the number of rows that failed. -/
def Obligations.HealingCommands : Prop :=
  ∀ (s : State) (m : Nat),
    let k := s.cmdOf m
    (s.accepts m 0x50 = true → k.arg 0 1 ≤ 16 → k.extLen = 4 * k.arg 0 1 → s.chip.routed = true →
      (let e := (List.range (k.arg 0 1)).map fun i => BitVec.ofNat 32 (k.extNum (4 * i) 4)
       ((s.accepted m).modChip fun h => { h with exc := e }).excOver = false) → completes (.routeExcept m) s fun t =>
        t.holds m ∧ t.chip.exc = ((List.range (k.arg 0 1)).map fun i => BitVec.ofNat 32 (k.extNum (4 * i) 4)) ∧
        t.chip.flipReqs = s.chip.flipReqs ++ [.command m 0x50] ∧ s.sameUnits t) ∧
    (∀ (d : Nat) (x : Sluice), s.accepts m 0x51 = true → k.extLen = 0 → cellOk (k.arg 0 2) = true → neighbor (k.arg 0 2) (k.arg 2 1) = some d →
      d ≠ k.arg 0 2 → aget (s.rt (k.arg 0 2)).sluices (k.arg 2 1) = some x → x.cell = false → completes (.sluiceReopen m) s fun t =>
        t.holds m ∧ (∃ y, aget (t.rt (k.arg 0 2)).sluices (k.arg 2 1) = some y ∧ y.test = true ∧ y.cell = false ∧ y.cls = x.cls) ∧
        (∃ y, aget (t.rt d).sluices (oppPort (k.arg 2 1)) = some y ∧ y.test = true) ∧ t.blocks = s.blocks ∧ t.regions = s.regions) ∧
    (s.accepts m 0x53 = true → k.extLen = 0 → logicalOk (k.arg 0 2) = true → cellOk (k.arg 2 2) = true → s.mappable (k.arg 2 2) = true →
      s.mappedTo (k.arg 2 2) = [] → completes (.remap m) s fun t =>
        t.answers m 0x53 0 0 ∧ (∀ r, aget (t.region r).map (k.arg 0 2) = some (mapWord (some (k.arg 2 2)))) ∧
        (∀ r l, l ≠ k.arg 0 2 → aget (t.region r).map l = aget (s.region r).map l) ∧ t.blocks = s.blocks ∧ t.links = s.links ∧ t.gws = s.gws) ∧
    (s.accepts m 0x55 = true → k.extLen = 0 → completes (.balanceCheck m) s fun t =>
      t.answers m 0x55 0 0 ∧ (t.mbx m).rsp.getD 4 0 = BitVec.ofNat 32 (min ((s.accepted m).failures allCells).length 65535) ∧ s.sameUnits t)

/-- FENCE: fencing a cell sets its fenced bit, holds its NI in NI reset and closes a sluice on each port toward a neighbour; unfencing it, when its
block is not fenced and its region is in service, clears the bit and takes the NI out of reset; fencing a block fences its 16 cells and holds its
controller in reset; unfencing it lifts both. -/
def Obligations.FenceCommands : Prop :=
  ∀ (s : State) (m : Nat),
    let k := s.cmdOf m
    let u := k.arg 0 2
    (s.accepts m 0x52 = true → k.extLen = 0 → k.arg 2 1 = 0 → cellOk u = true → s.fencedCell u = false → completes (.fenceCell m) s fun t =>
      t.answers m 0x52 0 0 ∧ t.fencedCell u = true ∧ (t.ni u).hold = .ni ∧
      ∀ p, p < 4 → (neighbor u p).isSome = true → (aget (t.rt u).sluices p).isSome = true) ∧
    (s.accepts m 0x52 = true → k.extLen = 0 → k.arg 2 1 = 1 → cellOk u = true → (s.block (blockOf u)).fenced = false → s.fencedCell u = true →
      (s.region (regionOf u)).bringUp = false → completes (.unfenceCell m) s fun t =>
        t.answers m 0x52 0 0 ∧ t.fencedCell u = false ∧ (t.ni u).hold = .none) ∧
    (s.accepts m 0x52 = true → k.extLen = 0 → k.arg 2 1 = 2 → blockOk u = true → (s.block u).fenced = false →
      completes (.fenceBlock m) s fun t =>
        t.answers m 0x52 0 0 ∧ (t.block u).fenced = true ∧ (t.block u).ctlReset = true ∧ ∀ c ∈ blockCells u, t.fencedCell c = true) ∧
    (s.accepts m 0x52 = true → k.extLen = 0 → k.arg 2 1 = 3 → blockOk u = true → (s.block u).fenced = true → completes (.unfenceBlock m) s fun t =>
      t.answers m 0x52 0 0 ∧ (t.block u).fenced = false ∧ (t.block u).ctlReset = false ∧ ∀ c ∈ blockCells u, t.fencedCell c = false)

/-! ## Resets by command (R314 to R318) -/

/-- RESET of an NI, a cell, a block or a soft region holds the NIs in it in reset and the command waits; RESET of a hard region asks for the flip that
isolates it and waits; RESET of the chip under slot 1 answers OK and names the time 1 µs later. -/
def Obligations.ResetCommands : Prop :=
  ∀ (s : State) (m : Nat),
    let k := s.cmdOf m
    let u := k.arg 2 2
    (s.accepts m 0x54 = true → k.extLen = 0 → k.arg 0 1 = 1 → cellOk u = true → completes (.resetNi m) s fun t =>
      t.holds m ∧ (t.ni u).hold = .ni ∧ aget t.chip.mbxWait (kReset 1 u) = some m ∧ (∀ d, d ≠ u → t.cell d = s.cell d)) ∧
    (s.accepts m 0x54 = true → k.extLen = 0 → k.arg 0 1 = 2 → cellOk u = true → completes (.resetCell m) s fun t =>
      t.holds m ∧ (t.ni u).hold = .cell ∧ aget t.chip.mbxWait (kReset 2 u) = some m ∧ (∀ d, d ≠ u → t.cell d = s.cell d)) ∧
    (s.accepts m 0x54 = true → k.extLen = 0 → k.arg 0 1 = 3 → blockOk u = true → completes (.resetBlock m) s fun t =>
      t.holds m ∧ (∀ c ∈ blockCells u, (t.ni c).hold = .cell) ∧ (t.block u).ctlReset = true ∧ aget t.chip.mbxWait (kReset 3 u) = some m) ∧
    (s.accepts m 0x54 = true → k.extLen = 0 → k.arg 0 1 = 4 → regionOk u = true → completes (.resetSoftRegion m) s fun t =>
      t.holds m ∧ (∀ b ∈ regionBlocks u, ∀ c ∈ blockCells b, (t.ni c).hold = .region) ∧ aget t.chip.mbxWait (kReset 4 u) = some m) ∧
    (s.accepts m 0x54 = true → k.extLen = 0 → k.arg 0 1 = 5 → regionOk u = true → (s.region u).hard = false → s.chip.routed = true →
      completes (.resetHardRegion m) s fun t =>
        t.holds m ∧ (t.region u).hard = true ∧ (t.region u).isolate = true ∧ t.chip.flipReqs = s.chip.flipReqs ++ [.follow] ∧
        aget t.chip.mbxWait (kReset 5 u) = some m ∧ t.cells = s.cells ∧ t.blocks = s.blocks) ∧
    (s.accepts m 0x54 = true → k.extLen = 0 → k.arg 0 1 = 6 → k.slot = 1 → completes (.resetChip m) s fun t =>
      t.answers m 0x54 0 0 ∧ t.ftn.resetAt = some (s.ncyc + 1800) ∧ s.sameUnits t)

/-- The end of a reset: an NI, cell or block that is not fenced leaves it, into service where its region is not held; the cells of a soft region reset
too; a hard region reset begins its re-admission test. The isolating flip of a hard reset puts the region's NIs into bring-up hold. -/
def Obligations.ResetEnds : Prop :=
  ∀ (s : State),
    (∀ c, cellOk c = true → s.fencedCell c = false → (s.block (blockOf c)).power ≠ .off → (s.region (regionOf c)).bringUp = false →
      ((s.ni c).hold = .ni → completes (.resetEnded 1 c) s fun t => (t.ni c).hold = .none) ∧
      ((s.ni c).hold = .cell → completes (.resetEnded 2 c) s fun t => (t.ni c).hold = .none)) ∧
    (∀ b, blockOk b = true → (s.block b).ctlReset = true → (s.block b).fenced = false → (s.block b).power ≠ .off →
      (s.region (blockRegion b)).bringUp = false → completes (.resetEnded 3 b) s fun t =>
        (t.block b).ctlReset = false ∧ ∀ c ∈ blockCells b, s.fencedCell c = false → (t.ni c).hold = .none) ∧
    (∀ r, regionOk r = true → (∃ c ∈ regionCells r, (s.ni c).hold = .region) → (s.region r).bringUp = false → completes (.resetEnded 4 r) s fun t =>
      ∀ b ∈ regionBlocks r, (s.block b).power ≠ .off → (t.block b).ctlReset = (s.block b).fenced ∧
        ∀ c ∈ blockCells b, s.fencedCell c = false → (t.ni c).hold = .none) ∧
    (∀ r, regionOk r = true → (s.region r).hard = true → s.flipped (fun b => b.quiet.contains r) = true →
      completes (.hardResetIsolate r) s fun t =>
        (t.region r).hard = false ∧ (t.region r).bringUp = true ∧ (t.region r).isolate = true ∧
        ∀ c ∈ regionCells r, s.fencedCell c = false → (t.ni c).hold = .bringUp) ∧
    (∀ r, regionOk r = true → (s.region r).isolate = true → (s.region r).bringUp = true → (s.region r).hard = false → (s.region r).taken = false →
      (∀ b ∈ regionBlocks r, (s.block b).test = none) → completes (.resetEnded 5 r) s fun t =>
        ∀ b ∈ regionBlocks r, (t.block b).test = some ⟨s.now + testNcyc 0⟩)

/-! ## Power (R404 to R413, R457) -/

/-- POWER: Sleep of a region whose blocks may leave Run, wake of regions in Sleep or bring-up hold, Off of a running block that may leave Run, On of a block in Off:
each command waits, with its mark on the region or block. -/
def Obligations.PowerCommands : Prop :=
  ∀ (s : State) (m : Nat),
    let k := s.cmdOf m
    let u := k.arg 2 2
    (s.accepts m 0x60 = true → k.extLen = 0 → k.arg 0 1 = 0 → u ≤ 15 → (s.region u).asleep = false → s.wakePending u = false →
      (s.region u).sleepReq = false → (s.region u).bringUp = false → aget s.chip.mbxWait (kSleep u) = none →
      (∀ b ∈ regionBlocks u, (s.block b).power = .off ∨ s.mayPowerDown b = true) → completes (.powerRegionSleep m) s fun t =>
        t.holds m ∧ aget t.chip.mbxWait (kSleep u) = some m ∧ s.sameUnits t) ∧
    (s.accepts m 0x60 = true → k.extLen = 0 → k.arg 0 1 = 1 → (u ≤ 15 ∨ u = 0xFFFF) →
      ((∃ r ∈ s.wakeNamed u, (s.region r).bringUp = true) ∨ s.stepDone 10 = true) → (∀ r ∈ s.wakeNamed u, (s.region r).taken = false) →
      (∃ r ∈ s.wakeNamed u, (s.region r).bringUp = true ∨ (s.region r).asleep = true) → completes (.powerRegionWake m) s fun t =>
        t.holds m ∧ (∀ r ∈ s.wakeNamed u, (t.region r).waking = true) ∧ aget t.chip.mbxWait m = some 0 ∧ t.blocks = s.blocks ∧
        ((∀ r ∈ s.wakeNamed u, (s.region r).bringUp = false) → t.cells = s.cells)) ∧
    (s.accepts m 0x60 = true → k.extLen = 0 → k.arg 0 1 = 2 → blockOk u = true → (s.block u).power = .run → (s.block u).exiting = false →
      (s.block u).offReq = false → (s.region (blockRegion u)).sleepReq = false → s.mayPowerDown u = true → s.chip.routed = true →
      completes (.powerBlockOff m) s fun t =>
        t.holds m ∧ (t.block u).offReq = true ∧ t.chip.flipReqs = s.chip.flipReqs ++ [.command m 0x60] ∧
        aget t.chip.mbxWait (kOff u) = some m ∧ t.cells = s.cells ∧ t.regions = s.regions) ∧
    (s.accepts m 0x60 = true → k.extLen = 0 → k.arg 0 1 = 3 → blockOk u = true → (s.block u).power = .off → completes (.powerBlockOn m) s fun t =>
      t.holds m ∧ (t.block u).exiting = true ∧ (t.block u).power = .off ∧ aget t.chip.mbxWait (kOff u) = some m ∧ t.cells = s.cells)

/-- The ends of power commands, once the flip they asked for has been made: a region's clock stops, a sleeping region enters Run, a block's power goes
and comes back with its NIs as after NI reset. -/
def Obligations.PowerTransitions : Prop :=
  ∀ (s : State),
    (∀ r, regionOk r = true → (s.region r).sleepReq = true → s.flipped (fun b => b.quiet.contains r) = true → s.wakePending r = false →
      s.regionQuiet r = true → completes (.sleepClockStop r) s fun t =>
        (t.region r).asleep = true ∧ (t.region r).sleepReq = false ∧ (∀ b ∈ regionBlocks r, (s.block b).power ≠ .off → (t.block b).power = .sleep) ∧
        (∀ b ∈ regionBlocks r, (s.block b).power = .off → (t.block b).power = .off) ∧
        ∀ c, t.ni c = s.ni c ∧ (t.cell c).cm = (s.cell c).cm) ∧
    (∀ r, regionOk r = true → (s.region r).waking = true → (s.region r).sleepReq = false → (s.region r).asleep = true →
      (∀ b ∈ regionBlocks r, (s.block b).crossing = []) → completes (.regionWakeDone r) s fun t =>
        (t.region r).asleep = false ∧ (t.region r).waking = false ∧ ∀ b ∈ regionBlocks r, (s.block b).power = .sleep → (t.block b).power = .run) ∧
    (∀ b, blockOk b = true → (s.block b).offReq = true → s.flipped (fun x => x.noTransit.contains b) = true → (s.block b).power = .doze →
      (s.block b).exiting = false → completes (.offPowerRemove b) s fun t =>
        (t.block b).power = .off ∧ (t.block b).offReq = false ∧ (∀ c ∈ blockCells b, (t.ni c).hold = .ni) ∧ t.regions = s.regions) ∧
    (∀ b, blockOk b = true → (s.block b).power = .off → (s.block b).exiting = true → completes (.blockPowerOnDone b) s fun t =>
      (t.block b).power = .run ∧ (t.block b).exiting = false ∧ ∀ c ∈ blockCells b, s.fencedCell c = false → (t.ni c).hold = .none)

/-- Doze: an idle block with auto_doze set begins its hold; the hold's end gates the clock and counts a doze, or, a condition of R406 having failed, ends in Run and counts an abort (DEDUCED, a log entry); a write that the
crossing has held is made at the exit; a WAKE flit at the controller, or
hold_run, starts the exit of a dozing block; the exit's end is Run and counts a wake; a WAKE at a sleeping region's manager marks it waking. -/
def Obligations.DozeAndWake : Prop :=
  ∀ (s : State) (b : Nat), blockOk b = true →
    ((s.block b).power = .run → (s.block b).regs.flag BLK_PWR_CTL_auto_doze = true → (s.block b).holdFrom = none → (s.block b).ctlReset = false →
      s.blockIdle b = true → (s.block b).idleFrom + (s.block b).regs.get BLK_PWR_CTL_idle_ncyc ≤ s.ncyc → completes (.dozeIdleReached b) s fun t =>
        t.block b = { s.block b with holdFrom := some s.ncyc } ∧ (∀ d, d ≠ b → t.block d = s.block d) ∧ t.cells = s.cells ∧ t.regions = s.regions) ∧
    (∀ t0, (s.block b).holdFrom = some t0 → t0 + 2 + s.entryExtra b ≤ s.ncyc → s.mayLeaveRun b = true → completes (.dozeGate b) s fun t =>
      (t.block b).power = .doze ∧ (t.block b).holdFrom = none ∧
      (t.block b).regs.get BLK_PWR_STAT_dozes = min ((s.block b).regs.get BLK_PWR_STAT_dozes + 1) (2 ^ BLK_PWR_STAT_dozes.len - 1) ∧
      (∀ d, d ≠ b → t.block d = s.block d) ∧ t.cells = s.cells ∧ t.regions = s.regions) ∧
    (∀ t0, (s.block b).holdFrom = some t0 → t0 + 2 + s.entryExtra b ≤ s.ncyc → s.mayLeaveRun b = false → (s.block b).power = .run →
      completes (.dozeGate b) s fun t =>
        (t.block b).power = .run ∧ (t.block b).holdFrom = none ∧ (s.block b).regs.counted (t.block b).regs BLK_PWR_STAT_aborts ∧ t.cells = s.cells) ∧
    (∀ (u off : Nat) (v mask : W64) (row : RegRow), (s.block b).power = .doze → (s.block b).exiting = true →
      (s.block b).crossing = [.set .cell u off v mask] → regRow .cell off = some row → off ≠ 0x80 → off ≠ 0x84 →
      completes (.dozeExitDone b) s fun t => (t.block b).power = .run ∧ (t.block b).crossing = [] ∧
        (t.cell u).regs = ((s.storeCell u off row v mask).cell u).regs) ∧
    ((s.block b).power = .doze → (s.block b).exiting = true → (s.block b).crossing = [] → completes (.dozeExitDone b) s fun t =>
      (t.block b).power = .run ∧ (t.block b).exiting = false ∧
      (t.block b).regs.get BLK_PWR_STAT_wakes = min ((s.block b).regs.get BLK_PWR_STAT_wakes + 1) (2 ^ BLK_PWR_STAT_wakes.len - 1) ∧
      (∀ d, d ≠ b → t.block d = s.block d) ∧ t.cells = s.cells ∧ t.regions = s.regions) ∧
    (∀ y, s.localFlit (bcCell b) (fun y => y.flit.kind == kWAKE && y.flit.aux == 0) = some y → (s.block b).power = .doze →
      completes (.wakeDoze b) s fun t => (t.block b).exiting = true ∧ (t.block b).power = .doze) ∧
    ((s.block b).regs.flag BLK_PWR_CTL_hold_run = true → (s.block b).power = .doze → completes (.blkPwrCtlHoldRun b) s fun t =>
      (t.block b).exiting = true ∧ t.cells = s.cells) ∧
    (∀ r y, regionOk r = true → s.localFlit (rmCell r) (fun y => y.flit.kind == kWAKE) = some y → (s.region r).asleep = true →
      completes (.wakeSleep r) s fun t => (t.region r).waking = true ∧ (t.region r).asleep = true)

/-! ## Link ports: control and detach (R345, R354, R357, R358, R374, R431) -/

/-- LINK_SET writes LNK_CTL and a DISABLED port told to detect enters DETECT; LINK_QUIESCE of an ACTIVE port asks for the flip that removes it and
waits; its detach starts once the flip is done and sends its request once drained. The retrain, deep_req and admit bits act. -/
def Obligations.LinkControl : Prop :=
  ∀ (s : State),
    (∀ m, let k := s.cmdOf m
      let n := k.arg 0 1
      let b := k.arg 1 1
      (s.accepts m 0x70 = true → k.extLen = 0 → linkOk n = true → s.linkPresent n = true → b ≤ 63 → k.arg 2 1 ≤ 2 → k.arg 3 1 ≤ 3 →
        k.arg 4 1 ≤ 7 → (bits b 5 1 = 1 → s.linkState n = 5) → (k.arg 3 1 = 0 ∨ s.linkState n = 0 ∨ s.linkState n = 8) →
        completes (.linkSet m) s fun t =>
          t.answers m 0x70 0 0 ∧ (t.link n).regs.get LNK_CTL_enable = bits b 0 1 ∧ (t.link n).regs.get LNK_CTL_detect_en = bits b 1 1 ∧
          (t.link n).regs.get LNK_CTL_deep_allow = bits b 2 1 ∧ (t.link n).regs.get LNK_CTL_deep_req = bits b 3 1 ∧
          (t.link n).regs.get LNK_CTL_eq_hold = bits b 4 1 ∧ (t.link n).regs.get LNK_CTL_width_max = k.arg 2 1 ∧
          (t.link n).regs.get LNK_CTL_loop = k.arg 3 1 ∧ (t.link n).regs.get LNK_CTL_preset = k.arg 4 1 ∧ s.onlyLink t n ∧
          (s.linkState n = 0 → bits b 0 1 = 1 → bits b 1 1 = 1 → k.arg 3 1 = 0 → t.linkState n = 1)) ∧
      (s.accepts m 0x71 = true → k.extLen = 0 → linkOk n = true → s.linkPresent n = true → s.linkActive n = true → (s.link n).task = .none →
        s.chip.routed = true → completes (.linkQuiesce m) s fun t =>
          t.holds m ∧ (t.link n).task = .quiesceFlip ∧ t.linkState n = 5 ∧ t.chip.flipReqs = s.chip.flipReqs ++ [.command m 0x71] ∧
          (n, m) ∈ t.chip.quiesce ∧ s.onlyLink t n)) ∧
    ∀ n, linkOk n = true →
      ((s.link n).task = .quiesceFlip → s.linkActive n = true → s.chip.flip = none → (s.build s.chip.active.toNat).ports.contains n = false →
        completes (.quiesceStart n) s fun t =>
          t.linkState n = 7 ∧ (t.link n).regs.get LNK_CTL_quiesce = 1 ∧ (t.link n).task = .quiescing false ∧ (t.link n).sched = false ∧
          (t.link n).bulk = (s.link n).bulk ∧ s.onlyLink t n) ∧
      (s.linkState n = 7 → (s.link n).task = .quiescing false → (s.link n).drained = true → (s.link n).rillOut = [] →
        completes (.quiesceDrained n) s fun t =>
          t.link n = { s.link n with task := .quiescing true, code := (t.link n).code } ∧ s.onlyLink t n ∧
          t.out = s.out ++ [.frame n ((s.link n).quiesceFrame 0)] ++
            if (s.link n).peerAsked then [.frame n ((s.link n).quiesceFrame 1)] else []) ∧
      (s.linkActive n = true → (s.link n).regs.flag LNK_CTL_retrain = true → completes (.linkSetRetrain n) s fun t =>
        t.linkState n = 2 ∧ (t.link n).retraining = true ∧ (t.link n).regs.get LNK_CTL_retrain = 0 ∧
        (s.link n).regs.counted (t.link n).regs LNK_STAT_retrains ∧ (t.link n).bulk = (s.link n).bulk ∧ (t.link n).rill = (s.link n).rill ∧
        s.onlyLink t n) ∧
      (s.linkActive n = true → (s.link n).regs.flag LNK_CTL_deep_req = true → (s.link n).task = .none → completes (.linkSetDeepReq n) s fun t =>
        t.link n = { s.link n with task := .deepHold } ∧ s.onlyLink t n) ∧
      ((s.link n).regs.flag LNK_CTL_deep_req = false →
        (s.linkState n = 6 → (s.link n).deepMine = true → completes (.linkSetDeepRelease n) s fun t =>
          t.linkState n = 3 ∧ (t.link n).task = .waking s.ncyc ∧ t.out = s.out ++ [.waveTone n] ∧ s.onlyLink t n) ∧
        (s.linkState n ≠ 6 → (s.link n).task = .deepHold → completes (.linkSetDeepRelease n) s fun t =>
          t.link n = { s.link n with task := .none } ∧ s.onlyLink t n)) ∧
      (s.admits = true →
        (s.linkState n = 1 ∨ s.linkState n = 2 ∨ s.linkState n = 3 → completes (.lnkCtlAdmit n) s fun t =>
          t.link n = { s.link n with regs := (s.link n).regs.set LNK_CTL_admit 1 } ∧ s.onlyLink t n) ∧
        (∀ (c : Cap) (w h : Nat), s.linkState n = 4 → (s.link n).peer = some c → s.capOk n c = true → c.admitted = true →
          linkWidth ((s.link n).regs.get LNK_CTL_width_max) c.widthMax.toNat ((s.link n).rxGood 0) ((s.link n).rxGood 1) c.rxGood0 c.rxGood1 =
            some (w, h) → completes (.lnkCtlAdmit n) s fun t =>
            t.linkState n = 5 ∧ (t.link n).regs.get LNK_STAT_width = w ∧ (t.link n).regs.get LNK_STAT_half = h ∧
            (t.link n).regs.get LNK_STAT_admitted = 1 ∧ s.onlyLink t n))

/-! ## Link ports: bring-up (R339 to R344, R374) -/

/-- Detect pulses in DETECT; a termination takes DETECT to TRAIN; a training message is answered; TRAIN ends in LOCK; lanes not ready in time have
failed; LOCK ends in CAPX with the lanes recorded; CAPs are sent, and a peer's CAP is recorded or its peer refused with cause 6. -/
def Obligations.LinkBringUp : Prop :=
  ∀ (s : State) (n : Nat), linkOk n = true →
    (s.linkState n = 1 → (s.link n).polled = none → completes (.linkDetectPoll n) s fun t =>
      t.link n = { s.link n with polled := some s.ncyc } ∧ t.out = s.out ++ [.detectPulse n] ∧ s.onlyLink t n) ∧
    (∀ h lanes, h < 2 → s.linkState n = 1 → 8 ≤ lanes → completes (.linkTerminationSeen n h true lanes) s fun t =>
      t.linkState n = 2 ∧ (t.link n).failed 0 = 0 ∧ (t.link n).failed 1 = 0 ∧ (t.link n).ready 0 = 0 ∧ (t.link n).ready 1 = 0 ∧ s.onlyLink t n) ∧
    (∀ msg : BitVec 56, s.linkState n = 2 → bits msg.toNat 0 5 ≤ 16 → completes (.trainingMessage n msg) s fun t =>
      let lane := bits msg.toNat 0 5
      let h := bits msg.toNat 5 1
      (∃ w : BitVec 56, t.out = s.out ++ [.training n h lane w] ∧ bits w.toNat 0 5 = lane ∧ bits w.toNat 5 1 = h) ∧
      (msg.getLsbD 6 = true → ((t.link n).ready h).getLsbD lane = true) ∧
      (msg.getLsbD 12 = true → bits ((s.link n).status (laneIdx h lane)) 4 1 = 0 →
        (t.link n).regs.get (LNK_EQ_preset.at (laneIdx h lane)) = bits msg.toNat 13 3) ∧ t.linkState n = 2 ∧ s.onlyLink t n) ∧
    (s.linkState n = 2 → completes (.linkTrainDone n) s fun t => t.linkState n = 3 ∧ s.onlyLink t n) ∧
    (s.linkState n = 2 → (s.link n).entered + usNcyc * (s.link n).regs.get LNK_TMR_train_timeout ≤ s.ncyc →
      let x := ((s.link n).failLanes 0 (~~~(s.link n).ready0)).failLanes 1 (~~~(s.link n).ready1)
      (x.usable = true → completes (.linkTrainTimeout n) s fun t =>
        t.linkState n = 3 ∧ (t.link n).failed0 = x.failed0 ∧ (t.link n).failed1 = x.failed1 ∧ s.onlyLink t n) ∧
      (x.usable = false → (s.link n).regs.flag LNK_CTL_enable = true → completes (.linkTrainTimeout n) s fun t =>
        t.linkState n = 9 ∧ (t.link n).regs.get LNK_STAT_last_down = (if (s.link n).retraining then 2 else 5) ∧ s.onlyLink t n)) ∧
    (∀ rx : List LaneRx, (∀ x ∈ rx, x.half < 2 ∧ x.lane < 17) → s.linkState n = 3 →
      let l := ((s.link n).recordLanes 0 (lanesWorking rx 0)).recordLanes 1 (lanesWorking rx 1)
      (halfNarrow (l.rxGood 0) = true ∨ halfNarrow (l.rxGood 1) = true → completes (.linkLockDone n rx) s fun t =>
        t.linkState n = 4 ∧ (t.link n).rtts = [] ∧ (t.link n).peer = none ∧
        (t.link n).regs.get (LNK_LANE_rx_good.at 0) = (lanesWorking rx 0 &&& ~~~(s.link n).failed0).toNat ∧
        (t.link n).regs.get (LNK_LANE_rx_good.at 1) = (lanesWorking rx 1 &&& ~~~(s.link n).failed1).toNat ∧ s.onlyLink t n) ∧
      (halfNarrow (l.rxGood 0) = false → halfNarrow (l.rxGood 1) = false → completes (.linkLockDone n rx) s fun t =>
        t.link n = (s.link n).countLock rx ∧ s.onlyLink t n)) ∧
    (∀ h l, h < 2 → l < 17 → s.linkState n = 3 → (s.link n).entered + 50 * usNcyc ≤ s.ncyc →
      ((s.link n).failLanes h (BitVec.ofNat 17 (2 ^ l))).usable = true → completes (.linkLockTimeout n h l) s fun t =>
        t.link n = (s.link n).failLanes h (BitVec.ofNat 17 (2 ^ l)) ∧ ((t.link n).failed h).getLsbD l = true ∧ s.onlyLink t n) ∧
    (s.linkState n = 4 → completes (.capSend n) s fun t => t.out = s.out ++ [.frame n ((s.link n).capFrame (s.capOf n))] ∧ t.link n = s.link n ∧
      s.onlyLink t n) ∧
    (∀ cap : Cap, s.linkState n = 4 →
      (s.admits = true → s.capOk n cap = false → completes (.capFrame n cap) s fun t =>
        t.linkState n = 0 ∧ (t.link n).regs.get LNK_STAT_last_down = 6 ∧ (t.link n).regs.get LNK_CTL_enable = 0 ∧ s.onlyLink t n) ∧
      (s.capOk n cap = true → cap.admitted = false →
        (linkWidth ((s.link n).regs.get LNK_CTL_width_max) cap.widthMax.toNat ((s.link n).rxGood 0) ((s.link n).rxGood 1) cap.rxGood0
          cap.rxGood1).isSome = true → completes (.capFrame n cap) s fun t =>
        t.linkState n = 4 ∧ (t.link n).peer = some cap ∧ (t.link n).regs.get LNK_STAT_peer_chip = cap.chipId.toNat ∧ s.onlyLink t n))

/-- The width of a port: both sides take the first entry of the order of R344 that every condition allows, width_max excluding the wider ones, and reach
the same choice; a port in CAPX for which none is allowed goes DOWN with cause 5. -/
def Obligations.WidthAgreed : Prop :=
  (∀ (a b : Nat) (m0 m1 p0 p1 : BitVec 18),
    linkWidth a b m0 m1 p0 p1 = linkWidth b a p0 p1 m0 m1 ∧
    linkWidth a b m0 m1 p0 p1 = [((0, 0) : Nat × Nat), (1, 0), (1, 1), (2, 0), (2, 1)].find? fun e =>
      let mine := if e.2 = 0 then m0 else m1
      let peer := if e.2 = 0 then p0 else p1
      match e.1 with
      | 0 => a == 0 && b == 0 && halfWhole m0 && halfWhole m1 && halfWhole p0 && halfWhole p1
      | 1 => decide (a ≤ 1) && decide (b ≤ 1) && halfWhole mine && halfWhole peer
      | _ => halfNarrow mine && halfNarrow peer) ∧
  (∀ (s : State) (n : Nat) (cap : Cap), linkOk n = true → s.linkState n = 4 → s.capOk n cap = true → (s.link n).retraining = false →
    (s.link n).regs.flag LNK_CTL_enable = true →
    linkWidth ((s.link n).regs.get LNK_CTL_width_max) cap.widthMax.toNat ((s.link n).rxGood 0) ((s.link n).rxGood 1) cap.rxGood0 cap.rxGood1 = none →
    completes (.capFrame n cap) s fun t => t.linkState n = 9 ∧ (t.link n).regs.get LNK_STAT_last_down = 5 ∧ s.onlyLink t n)

/-! ## Link ports: losses and PRBS (R354, R356, R358, R359) -/

/-- A lane that loses block lock or reaches lane_err_limit, a clock lane lost, or a peer that trains, retrains an ACTIVE port with its streams kept, and
invalid headers are counted; the loss of every clock takes an enabled port DOWN with cause 1 and nothing held; DOWN returns to DETECT after 1 ms; a PRBS
checker of LOOP locks on 64 bits that follow its pattern, counts errors, and unlocks with 64 of 1,024. -/
def Obligations.LinkLossesAndPrbs : Prop :=
  ∀ (s : State) (n : Nat), linkOk n = true →
    (∀ h l lost hdrs, h < 2 → l < 17 → s.linkActive n = true →
      let i := laneIdx h l
      let said := min ((s.link n).regs.get (LNK_LANE_ERR_sync_err.at i) + hdrs) 65535
      (lost = true ∨ (s.link n).regs.get LNK_TMR_lane_err_limit ≤ (aget (s.link n).hdrs i).getD 0 + hdrs →
        ((s.link n).failed h).getLsbD l = false → completes (.laneFail n h l lost hdrs) s fun t =>
        t.linkState n = 2 ∧ ((t.link n).failed h).getLsbD l = true ∧
        (lost = true → (s.link n).regs.counted (t.link n).regs (LNK_LANE_ERR_lock_loss.at i)) ∧
        (t.link n).regs.get (LNK_LANE_ERR_sync_err.at i) = said ∧
        (t.link n).retraining = true ∧ (t.link n).bulk = (s.link n).bulk ∧ s.onlyLink t n) ∧
      ((lost = false ∧ (aget (s.link n).hdrs i).getD 0 + hdrs < (s.link n).regs.get LNK_TMR_lane_err_limit) ∨
          ((s.link n).failed h).getLsbD l = true → completes (.laneFail n h l lost hdrs) s fun t =>
        t.linkState n = s.linkState n ∧ (t.link n).failed h = (s.link n).failed h ∧ (t.link n).regs.get (LNK_LANE_ERR_sync_err.at i) = said ∧
        (t.link n).retraining = (s.link n).retraining ∧ (t.link n).bulk = (s.link n).bulk ∧ s.onlyLink t n)) ∧
    (∀ h, h < 2 → s.linkActive n = true → completes (.clockLaneFail n h) s fun t =>
      t.linkState n = 2 ∧ (t.link n).clk h = false ∧ (t.link n).retraining = true ∧ (t.link n).bulk = (s.link n).bulk ∧ s.onlyLink t n) ∧
    (s.linkActive n = true → completes (.peerEntersTrain n) s fun t =>
      t.linkState n = 2 ∧ (t.link n).retraining = true ∧ (s.link n).regs.counted (t.link n).regs LNK_STAT_retrains ∧
      (t.link n).bulk = (s.link n).bulk ∧ s.onlyLink t n) ∧
    (s.linkState n = 5 ∨ s.linkState n = 7 → (s.link n).regs.flag LNK_CTL_enable = true → completes (.clockLoss n) s fun t =>
      t.linkState n = 9 ∧ (t.link n).regs.get LNK_STAT_last_down = 1 ∧ (s.link n).regs.counted (t.link n).regs LNK_STAT_downs ∧
      (t.link n).regs.get LNK_STAT_admitted = 0 ∧ (t.link n).bulkHeld = 0 ∧ (t.link n).rillOut = [] ∧ s.onlyLink t n) ∧
    (s.linkState n = 9 → (s.link n).entered + msNcyc ≤ s.ncyc → (s.link n).regs.flag LNK_CTL_detect_en = true → (s.link n).parked = false →
      completes (.downDetectReturn n) s fun t => t.linkState n = 1 ∧ (t.link n).entered = s.ncyc ∧ s.onlyLink t n) ∧
    (∀ h l, h < 2 → l < 17 → s.linkState n = 8 →
      (∀ rx : BitVec 95, (s.link n).regs.flag LNK_PRBS_CTL_chk_en = true → (s.link n).regs.flag (LNK_PRBS_CNT_locked.at (laneIdx h l)) = false →
        (prbsFollows ((s.link n).regs.get LNK_PRBS_CTL_pattern) ((s.link n).regs.flag LNK_PRBS_CTL_invert) rx = true →
          completes (.prbsCheckerLock n h l rx) s fun t =>
            (t.link n).regs = (s.link n).regs.set (LNK_PRBS_CNT_locked.at (laneIdx h l)) 1 ∧ s.onlyLink t n) ∧
        (prbsFollows ((s.link n).regs.get LNK_PRBS_CTL_pattern) ((s.link n).regs.flag LNK_PRBS_CTL_invert) rx = false →
          completes (.prbsCheckerLock n h l rx) s fun t => t.link n = s.link n ∧ s.onlyLink t n)) ∧
      (∀ errs, errs ≤ 1024 → (s.link n).regs.flag (LNK_PRBS_CNT_locked.at (laneIdx h l)) = true → completes (.prbsCheckerUnlock n h l errs) s fun t =>
        (t.link n).regs.get (LNK_PRBS_CNT_locked.at (laneIdx h l)) = (if 64 ≤ errs then 0 else 1) ∧
        (t.link n).regs.get (LNK_PRBS_CNT_errors.at (laneIdx h l)) =
          min ((s.link n).regs.get (LNK_PRBS_CNT_errors.at (laneIdx h l)) + errs) (2 ^ LNK_PRBS_CNT_errors.len - 1) ∧ s.onlyLink t n))

/-! ## Link ports: Deep and the peer's detach (R357, R358, R361) -/

/-- Deep: drained, an ACTIVE port asks; an answer of accept, or a request met by a request, enters DEEP, a refusal sets a retry after 10 µs; a request
is accepted where deep_allow is set and the port is drained; a wake tone leaves through LOCK, or takes the port DOWN with cause 7. The detach asked for
by the peer asks for a flip, and its done takes the port DOWN with cause 4. -/
def Obligations.LinkDeepAndDetach : Prop :=
  ∀ (s : State) (n : Nat), linkOk n = true →
    let l := s.link n
    (l.task = .deepHold → l.drained = true → completes (.deepDrained n) s fun t =>
      t.link n = { l with task := .deepAsked, code := (t.link n).code } ∧ t.out = s.out ++ [.frame n (l.deepFrame 0)] ∧ s.onlyLink t n) ∧
    (∀ at_, l.task = .deepRetry at_ → at_ ≤ s.ncyc → l.regs.flag LNK_CTL_deep_req = true → completes (.deepRetry n) s fun t =>
      t.link n = { l with task := .deepAsked, code := (t.link n).code } ∧ t.out = s.out ++ [.frame n (l.deepFrame 0)] ∧ s.onlyLink t n) ∧
    (s.linkActive n = true → l.task = .deepAsked → completes (.frameDeepRequest n) s fun t =>
      t.linkState n = 6 ∧ (t.link n).task = .none ∧ s.onlyLink t n) ∧
    (s.linkActive n = true → l.task ≠ .deepAsked → l.regs.flag LNK_CTL_deep_allow = true → l.drained = true →
      completes (.frameDeepRequest n) s fun t => t.linkState n = 6 ∧ .frame n (l.deepFrame 1) ∈ t.out ∧ s.onlyLink t n) ∧
    (s.linkActive n = true → l.task ≠ .deepAsked → (l.regs.flag LNK_CTL_deep_allow = false ∨ l.drained = false) →
      completes (.frameDeepRequest n) s fun t =>
        t.out = s.out ++ [.frame n (l.deepFrame 2)] ∧ t.link n = { l with code := (t.link n).code } ∧ s.onlyLink t n) ∧
    (s.linkActive n = true → l.task = .deepAsked → completes (.frameDeepAccept n) s fun t =>
      t.linkState n = 6 ∧ (t.link n).task = .none ∧ (t.link n).sched = false ∧ s.onlyLink t n) ∧
    (l.task = .deepAsked → l.regs.flag LNK_CTL_deep_req = true → completes (.frameDeepRefuse n) s fun t =>
      t.link n = { l with task := .deepRetry (s.ncyc + 18000) } ∧ s.onlyLink t n) ∧
    (s.linkState n = 6 → completes (.wakeTone n) s fun t =>
      t.linkState n = 3 ∧ (t.link n).task = .waking s.ncyc ∧ t.out = s.out ++ [.waveTone n] ∧ s.onlyLink t n) ∧
    (∀ since, l.task = .waking since → since + 180000 ≤ s.ncyc → l.regs.flag LNK_CTL_enable = true → completes (.deepExitTimeout n) s fun t =>
      t.linkState n = 9 ∧ (t.link n).regs.get LNK_STAT_last_down = 7 ∧ s.onlyLink t n) ∧
    (l.carries = true → l.task = .quiescing true → completes (.frameQuiesceRequest n) s fun t =>
      t.link n = { l with peerAsked := true, code := (t.link n).code } ∧ t.out = s.out ++ [.frame n (l.quiesceFrame 1)] ∧ s.onlyLink t n) ∧
    (l.carries = true → l.task = .none → s.zRuns = true → s.chip.routed = true → completes (.frameQuiesceRequest n) s fun t =>
      t.link n = { l with peerAsked := true, task := .quiesceFlip } ∧ t.chip.flipReqs = s.chip.flipReqs ++ [.follow] ∧ s.onlyLink t n) ∧
    (s.linkState n = 7 → l.task = .quiescing true → l.regs.flag LNK_CTL_enable = true → completes (.frameQuiesceDone n) s fun t =>
      t.linkState n = 9 ∧ (t.link n).regs.get LNK_STAT_last_down = 4 ∧ (t.link n).parked = true ∧ (t.link n).bulkHeld = 0 ∧ s.onlyLink t n)

/-! ## Link ports: frames (R285, R286, R347 to R353) -/

/-- Frames at ingress of a port that carries them: one of the expected seq moves the stream's expected seq by one and its packet or sequence is taken;
one that is not, or a crc failure, is discarded with a NAK, sent once; a header out of range is discarded and counted; a NAK or a timeout sends the unacknowledged frames again, or takes an enabled port
DOWN with cause 3 at replay_limit. -/
def Obligations.LinkFrameIngress : Prop :=
  ∀ (s : State) (n : Nat), linkOk n = true → (s.link n).carries = true →
    (∀ (pl : Plane) (f : Frame) (p : Packet), pl ≠ .sched → f.body = .packet p → f.seq = (s.link n).bulk.expect → f.stream = 0 →
      ((s.link n).ingress pl).length < 64 → s.ingressLegal p = true → p.dstChip ≠ s.chipId → completes (if pl = .reply then .frameRep n f else .frameReq n f) s fun t =>
        (t.link n).ingress pl = (s.link n).ingress pl ++ [⟨f.cell.toNat, 0, p⟩] ∧ (t.link n).bulk.expect = (s.link n).bulk.expect + 1 ∧
        (t.link n).bulk.sent = ((s.link n).bulk.ack f.field).sent ∧ s.onlyLink t n) ∧
    (∀ (f : Frame) (p : Packet) (c : Nat), f.body = .packet p → f.seq = (s.link n).bulk.expect → f.stream = 0 → (s.link n).ingRep.length < 64 →
      s.ingressLegal p = true → p.dstChip = s.chipId → untranslated p = false → logicalOk p.dstCell.toNat = true → (s.linkMapEntry n p.dstCell.toNat).2 = true →
      entryCell (s.linkMapEntry n p.dstCell.toNat).1 = some c → completes (.frameRep n f) s fun t =>
        (t.link n).ingRep = (s.link n).ingRep ++ [⟨f.cell.toNat, 0, Packet.regen { p with dstCell := BitVec.ofNat 14 c, logicalForm := 0 }⟩] ∧
        s.onlyLink t n) ∧
    (∀ (pl : Plane) (f : Frame) (p : Packet), pl ≠ .sched → f.body = .packet p → f.seq = (s.link n).bulk.expect → f.stream = 0 →
      ((s.link n).ingress pl).length < 64 → s.ingressLegal p = false → completes (if pl = .reply then .frameRep n f else .frameReq n f) s fun t =>
        (t.link n).ingReq = (s.link n).ingReq ∧ (t.link n).ingRep = (s.link n).ingRep ∧ (t.link n).illegal = (s.link n).illegal + 1 ∧
        (t.link n).bulk.expect = (s.link n).bulk.expect + 1 ∧ s.onlyLink t n) ∧
    (∀ (f : Frame) (p : Packet), f.body = .packet p → f.seq = (s.link n).bulk.expect → (s.link n).ingSched.length < 32 → s.ingressLegal p = true → p.dstChip ≠ s.chipId →
      let due := s.now - (s.now + 1024 - f.field.toNat) % 1024 + (s.link n).regs.get LNK_SCHED_sched_lat
      completes (.frameSched n f) s fun t =>
        (t.link n).ingSched = (s.link n).ingSched ++ (if due < s.now then [] else [⟨f.cell.toNat, due, p⟩]) ∧
        (due < s.now → (s.link n).regs.counted (t.link n).regs LNK_SCHED_late_drop) ∧
        (t.link n).bulk.expect = (s.link n).bulk.expect + 1 ∧ s.onlyLink t n) ∧
    (∀ (f : Frame) (a b c d : Flit) (c1 c2 c3 : BitVec 12), f.body = .rill [a, b, c, d] c1 c2 c3 → f.seq = (s.link n).rill.expect → f.stream = 0 →
      completes (.frameRill n f) s fun t =>
        (t.link n).rillIng = (s.link n).rillIng ++ [a, b, c, d] ∧ (t.link n).rill.expect = (s.link n).rill.expect + 1 ∧
        (t.link n).ingReq = (s.link n).ingReq ∧ s.onlyLink t n) ∧
    (∀ (f : Frame), f.body = .word (s.link n).rill.expect → f.seq = (s.link n).bulk.expect → f.stream = 0 → (s.link n).bulk.resume = false →
      completes (.frameIdle n f) s fun t => t.link n = { s.link n with bulk := (s.link n).bulk.ack f.field } ∧ t.out = s.out ∧ s.onlyLink t n) ∧
    (∀ (f : Frame) (o : SentFrame) (r : List SentFrame), f.stream = 0 → ((s.link n).bulk.ack f.field).sent = o :: r →
      (o.replays < (s.link n).regs.get LNK_TMR_replay_limit → completes (.frameNak n f) s fun t =>
        (t.link n).bulk.sent = (o :: r).map (fun x => { x with again := true }) ∧
        (s.link n).regs.counted (t.link n).regs LNK_FRM_CNT_replays ∧ s.onlyLink t n) ∧
      ((s.link n).regs.get LNK_TMR_replay_limit ≤ o.replays → (s.link n).regs.flag LNK_CTL_enable = true → completes (.frameNak n f) s fun t =>
        t.linkState n = 9 ∧ (t.link n).regs.get LNK_STAT_last_down = 3 ∧ s.onlyLink t n)) ∧
    (((s.link n).bulk.nakAt = none) → completes (.frameCrcFail n false) s fun t =>
      (s.link n).regs.counted (t.link n).regs LNK_FRM_CNT_crc_err ∧ (s.link n).regs.counted (t.link n).regs LNK_FRM_CNT_nak_sent ∧
      t.out = s.out ++ [.frame n ((s.link n).nakFrame false)] ∧ (t.link n).bulk.expect = (s.link n).bulk.expect ∧ s.onlyLink t n) ∧
    (∀ (o : SentFrame) (r : List SentFrame), (s.link n).bulk.sent = o :: r → o.again = false →
      o.sentAt + 16 * (s.link n).regs.get LNK_TMR_ack_timeout ≤ s.ncyc → o.replays < (s.link n).regs.get LNK_TMR_replay_limit →
      completes (.ackTimeout n false) s fun t =>
        (t.link n).bulk.sent = (o :: r).map (fun x => { x with again := true }) ∧
        (s.link n).regs.counted (t.link n).regs LNK_FRM_CNT_replays ∧ s.onlyLink t n)

/-- The frame a port sends at a boundary: in LOCK an IDLE; a waiting rill sequence ahead of a waiting packet, until 16 have gone in a row; then a
scheduled packet before those of the dynamic planes; with nothing waiting an IDLE. Credits owed for 16 ncyc go in a RILL frame with no sequence. -/
def Obligations.LinkFrameEgress : Prop :=
  ∀ (s : State) (n : Nat), linkOk n = true →
    (s.linkState n = 3 → completes (.frameBoundary n) s fun t =>
      (∃ f, t.out = s.out ++ [.frame n f] ∧ f.kind = 5 ∧ f.seq = (s.link n).bulk.next ∧ f.body = .word (s.link n).rill.next) ∧ s.onlyLink t n) ∧
    ((s.link n).carries = true →
      (∀ (q : List Flit) (r : List (List Flit)), (s.link n).rillOut = q :: r → (s.link n).rill.resume = false → (s.link n).rill.sent = [] →
        (s.link n).rillRun < 16 → timeFlit q = none → completes (.frameBoundary n) s fun t =>
          (∃ f, t.out = s.out ++ [.frame n f] ∧ f.kind = 4 ∧ f.seq = (s.link n).rill.next ∧ ∃ c1 c2 c3, f.body = .rill q c1 c2 c3) ∧
          (t.link n).rillOut = r ∧ (t.link n).rill.next = (s.link n).rill.next + 1 ∧ (t.link n).stagReq = (s.link n).stagReq ∧
          (t.link n).stagRep = (s.link n).stagRep ∧ (t.link n).stagSched = (s.link n).stagSched ∧ s.onlyLink t n) ∧
      (∀ (x : Staged) (r : List Staged), (s.link n).rillOut = [] → (s.link n).rill.sent = [] → (s.link n).bulk.resume = false →
        (s.link n).bulk.sent = [] → (s.link n).stagSched = x :: r → completes (.frameBoundary n) s fun t =>
          (∃ f, t.out = s.out ++ [.frame n f] ∧ f.kind = 3 ∧ f.seq = (s.link n).bulk.next ∧ f.field = BitVec.ofNat 10 x.egress ∧
            f.body = .packet (s.egressForm x.pkt)) ∧ (t.link n).stagSched = r ∧ (t.link n).bulk.next = (s.link n).bulk.next + 1 ∧
          (t.link n).stagReq = (s.link n).stagReq ∧ (t.link n).stagRep = (s.link n).stagRep ∧ s.onlyLink t n) ∧
      (∀ (x y : Staged) (r q : List Staged), (s.link n).rillOut = [] → (s.link n).rill.sent = [] → (s.link n).bulk.resume = false →
        (s.link n).bulk.sent = [] → (s.link n).stagSched = [] → (s.link n).stagRep = x :: r → (s.link n).stagReq = y :: q →
        completes (.frameBoundary n) s fun t =>
          (∃ f, t.out = s.out ++ [.frame n f] ∧ f.kind = (if (s.link n).altRep then 1 else 2) ∧
            f.body = .packet (s.egressForm (if (s.link n).altRep then y.pkt else x.pkt))) ∧ (t.link n).altRep = !(s.link n).altRep ∧
          s.onlyLink t n) ∧
      ((s.link n).rillWaits = false → (s.link n).bulkWaits = false → completes (.frameBoundary n) s fun t =>
        (∃ f, t.out = s.out ++ [.frame n f] ∧ f.kind = 5 ∧ f.seq = (s.link n).bulk.next ∧ f.body = .word (s.link n).rill.next) ∧
        (t.link n).bulk.next = (s.link n).bulk.next ∧ s.onlyLink t n) ∧
      (∀ t0, (s.link n).owedSince = some t0 → t0 + 16 ≤ s.ncyc → (s.link n).rillOut = [] → completes (.rillCreditFrame n) s fun t =>
        t.link n = { s.link n with rillOut := [[]], owedSince := none } ∧ s.onlyLink t n))

/-! ## Authenticated sequences and time between chips (R285, R384 to R387, R429, R430) -/

/-- A sequence at ingress that passes the check of slot 3 goes on into the mesh; one with a wrong tag or an old counter is counted and gone, the eighth
in a row locks the rill of the port. A SYNC is answered with the time of its arrival, RESP where this chip is locked, RESP_U where not. -/
def Obligations.SequenceIngress : Prop :=
  ∀ (s : State) (n : Nat) (a b c d : Flit), linkOk n = true →
    (s.goodSeq n a b c d → b.kind ≠ kTIME → (s.rt (linkCell n 0).1).rillOcc 5 b.vc.toNat ≤ 30 → b.tree = true → b.dst.toNat % 16 = 1 →
      completes (.rillSequenceIngress n) s fun t =>
        s.tookSeq t n c.payload ∧ (t.rt (linkCell n 0).1).rillIn = (s.rt (linkCell n 0).1).rillIn ++ [⟨5, s.ncyc, { b with seg := 0 }⟩] ∧
        (∀ e, e ≠ (linkCell n 0).1 → t.cell e = s.cell e) ∧ (∀ e, e ≠ n → t.link e = s.link e)) ∧
    ((s.link n).frontSeq = some (a, b, c, d) → s.slot3 = true → (s.link n).locked = false → b.kind ≠ kTIME →
      (s.rt (linkCell n 0).1).rillOcc 5 b.vc.toNat ≤ 30 →
      ((s.link n).ctrRecv.toNat ≥ c.payload.toNat ∨ d.payload ≠ s.seqTag a { b with seg := 2 } c.payload) →
      completes (.rillSequenceIngress n) s fun t =>
        (t.link n).rillIng = (s.link n).rillIng.drop 4 ∧ (t.link n).ctrRecv = (s.link n).ctrRecv ∧ (t.link n).fails = (s.link n).fails + 1 ∧
        (s.link n).regs.counted (t.link n).regs LNK_RILL_auth_fail ∧ (t.link n).locked = decide ((s.link n).fails = 7) ∧ s.onlyLink t n) ∧
    (s.goodSeq n a b c d → b.kind = kTIME → b.aux = 0 → s.timeRoom n = true → completes (.timeSync n) s fun t =>
      s.tookSeq t n c.payload ∧ s.onlyLink t n ∧ ∃ r g v m, (t.link n).rillOut = (s.link n).rillOut ++ [[r, g, v, m]] ∧
        g.kind = kTIME ∧ g.aux = (if s.chip.locked then 1 else 5) ∧ g.payload = s.time)

/-- An exchange with the parent: the tick sends a SYNC, RESP and FOLLOW fill it in; with a locked parent, a delay within 16 eighths of one_way and
within 10 µs its θ joins the stored values; else it is rejected. A joining chip with 16 values steps, later locks; without an exchange for holdover_ms a
locked chip unlocks. STEP waits at the region that stands for the chip's count, SLEW moves T by one eighth. -/
def Obligations.TimeExchange : Prop :=
  ∀ (s : State),
    (∀ (n : Nat) (a b c d : Flit) (x : TimeExch), linkOk n = true → s.goodSeq n a b c d → b.kind = kTIME → (s.link n).exch = some x →
      (b.aux = 1 → completes (.timeResp n) s fun t =>
        s.tookSeq t n c.payload ∧ (t.link n).exch = some { x with t2 := some b.payload, t4 := some s.time } ∧ s.onlyLink t n) ∧
      (b.aux = 5 → completes (.timeRespU n) s fun t =>
        s.tookSeq t n c.payload ∧ (t.link n).exch = some { x with t2 := some b.payload, t4 := some s.time, unlocked := true } ∧ s.onlyLink t n) ∧
      (∀ t2 t4, b.aux = 2 → x.t2 = some t2 → x.t4 = some t4 →
        let theta := ((t2 - x.t1).toInt - (t4 - b.payload).toInt) / 2
        let delay := ((t2 - x.t1).toInt + (t4 - b.payload).toInt) / 2
        let ok := x.unlocked = false ∧ (delay - ((s.link n).regs.get LNK_LAT_one_way : Int)).natAbs ≤ 16 ∧ s.ncyc ≤ x.since + 18000
        let offs := (theta :: (s.link n).offsets).take 16
        (¬ok → completes (.timeFollow n) s fun t =>
          (t.link n).exch = none ∧ (s.link n).regs.counted (t.link n).regs LNK_TIME_rejected ∧ (t.link n).offsets = (s.link n).offsets ∧
          t.chip = s.chip ∧ s.onlyLink t n) ∧
        (ok → s.chip.locked = false → offs.length < 16 → completes (.timeFollow n) s fun t =>
          (t.link n).exch = none ∧ (s.link n).regs.counted (t.link n).regs LNK_TIME_accepted ∧ (t.link n).offsets = offs ∧
          t.chip.locked = false ∧ t.chip.lastGood = s.ncyc ∧ s.onlyLink t n) ∧
        (ok → s.chip.locked = false → offs.length = 16 → s.chip.stepSent = false → completes (.timeFollow n) s fun t =>
          (t.link n).offsets = offs ∧ t.chip.stepSent = true ∧ t.chip.locked = false) ∧
        (ok → s.chip.locked = false → offs.length = 16 → s.chip.stepSent = true → s.chip.pendStep = none →
          (meanOf offs).natAbs ≤ s.chget CHP_TIME_CTL_lock_tol → completes (.timeFollow n) s fun t =>
          (t.link n).offsets = offs ∧ t.chip.locked = true ∧ t.stepDone 12 = true ∧ s.onlyLink t n))) ∧
    (∀ (n : Nat) (x : TimeExch), linkOk n = true → (s.link n).exch = some x → x.since + 18000 ≤ s.ncyc → completes (.timeFollowTimeout n) s fun t =>
      (t.link n).exch = none ∧ (s.link n).regs.counted (t.link n).regs LNK_TIME_rejected ∧ t.chip = s.chip ∧ s.onlyLink t n) ∧
    (∀ n, s.parentPort = some n → s.chip.regs.flag CHP_TIME_CTL_enable = true → s.zRuns = true → (s.link n).exch = none →
      s.chip.lastExch = none → s.timeRoom n = true → completes .timeExchangeTick s fun t =>
        (t.link n).exch = some ⟨s.time, none, none, false, s.ncyc⟩ ∧ t.chip.lastExch = some s.ncyc ∧ s.onlyLink t n ∧
        ∃ r g v m, (t.link n).rillOut = (s.link n).rillOut ++ [[r, g, v, m]] ∧ g.kind = kTIME ∧ g.aux = 0) ∧
    (s.chip.locked = true → s.isMaster = false → s.chip.lastGood + msNcyc * s.chget CHP_TIME_CTL_holdover_ms ≤ s.ncyc →
      completes .holdoverExpire s fun t =>
        t.chip.locked = false ∧ s.chip.regs.counted t.chip.regs CHP_TIME_STAT_unlocks ∧ (∀ n, (t.link n).sched = false) ∧
        t.cells = s.cells ∧ t.blocks = s.blocks ∧ t.regions = s.regions) ∧
    (∀ (r : Nat) (y : RillFlit), regionOk r = true → r = s.timeRegion →
      (s.localFlit (rmCell r) (fun z => z.flit.kind == kTIME && z.flit.aux == 3) = some y → completes (.timeStep r) s fun t =>
        t.chip.pendStep = some y.flit.payload.toInt ∧ t.time = s.time ∧ s.onlyCell t (rmCell r)) ∧
      (s.localFlit (rmCell r) (fun z => z.flit.kind == kTIME && z.flit.aux == 4) = some y →
        (bits y.flit.payload.toNat 0 2 = 1 → completes (.timeSlew r) s fun t =>
          t.time = (if s.time.toNat % 8 = 7 then s.time else s.time + 1) ∧ s.onlyCell t (rmCell r)) ∧
        (bits y.flit.payload.toNat 0 2 = 2 → completes (.timeSlew r) s fun t =>
          t.time = (if s.time.toNat % 8 = 0 then s.time else s.time - 1) ∧ s.onlyCell t (rmCell r))))

/-! ## The core-visible window (R134, R137, R138, R153, R156, R157, R171, R172) -/

/-- Accesses of a core: one behind an access that waits does nothing; one to an NI in reset answers 0; one to a block that does not run waits at its
crossing. CQ_META returns the head's metadata or stalls, to end with zero at the wait limit; the head's words and XTRA and the queue's status are
read; a corrected error of the head is counted; CQ_POP retires the head; a ring release frees the oldest placement; a producer index in range is taken,
another counted as refused. Each write answers 0 and no other unit changes. -/
def Obligations.CoreQueueAccess : Prop :=
  ∀ (s : State) (c core q : Nat), cellOk c = true → coreOk core = true → queueOk q = true →
    (∀ (i : Instr), coreOf i = some (c, core) → i.wf = true →
      (((s.ni c).core core).stall ≠ none → completes i s fun t => t.out = s.out ∧ s.sameUnits t) ∧
      (((s.ni c).core core).stall = none → (s.ni c).hold ≠ .none → completes i s fun t => s.answered t c core 0 ∧ s.sameUnits t) ∧
      (((s.ni c).core core).stall = none → (s.ni c).hold = .none → (s.block (blockOf c)).power ≠ .run → completes i s fun t =>
        t.out = s.out ∧ ((t.ni c).core core).stall = some (.wakeUp, s.ncyc) ∧
        (t.block (blockOf c)).crossing = (s.block (blockOf c)).crossing ++ [.command i] ∧ (∀ d, d ≠ c → t.cell d = s.cell d))) ∧
    (s.coreFree c core → ((s.ni c).queue q).ents ≠ [] →
      (completes (.cqMetaRead c core q .metaWord .none) s fun t =>
        s.answered t c core (((s.ni c).queue q).headMeta q) ∧ ∀ d, t.cell d = s.cell d) ∧
      (∀ loc : QueueLoc, loc.wf = true → loc ≠ .status → completes (.cqMetaRead c core q loc .single) s fun t =>
        (s.cell c).regs.counted (t.cell c).regs NI_MSG_STAT_q_corr ∧ t.ni c = s.ni c ∧ s.onlyCell t c)) ∧
    (s.coreFree c core → ((s.ni c).queue q).ents = [] → s.cget c (NI_Q_CFG_q_max.at q) ≠ 0 → ∀ e : Ecc,
      completes (.cqMetaRead c core q .metaWord e) s fun t =>
        t.out = s.out ∧ ((t.ni c).core core).stall = some (.meta_ q, s.ncyc) ∧ (t.ni c).queues = (s.ni c).queues ∧ s.onlyCell t c) ∧
    (s.coreFree c core →
      (∀ n, n < 6 → completes (.cqMetaRead c core q (.word n) .none) s fun t =>
        s.answered t c core (((s.ni c).queue q).headWord fun h => h.words.getD n 0) ∧ ∀ d, t.cell d = s.cell d) ∧
      (completes (.cqMetaRead c core q .xtra .none) s fun t =>
        s.answered t c core (((s.ni c).queue q).headWord fun h => h.xtra) ∧ ∀ d, t.cell d = s.cell d) ∧
      (completes (.cqMetaRead c core q .status .none) s fun t =>
        s.answered t c core ((s.ni c).queue q).statusWord ∧ ∀ d, t.cell d = s.cell d)) ∧
    (∀ t0, ((s.ni c).core core).stall = some (.meta_ q, t0) → s.cget c (NI_Q_CFG_wait_limit.at q) ≠ 0 →
      t0 + 256 * s.cget c (NI_Q_CFG_wait_limit.at q) ≤ s.ncyc → completes (.cqMetaWaitLimit c core) s fun t =>
        s.answered t c core 0 ∧ ((t.ni c).core core).stall = none ∧ (t.ni c).queues = (s.ni c).queues ∧ s.onlyCell t c) ∧
    (∀ (e : QEntry) (r : List QEntry), s.coreFree c core → ((s.ni c).queue q).ents = e :: r → completes (.cqPop c core q) s fun t =>
      s.answered t c core 0 ∧ ((t.ni c).queue q).ents = r ∧ ((t.ni c).queue q).stale = false ∧
      (∀ j, j ≠ q → (t.ni c).queue j = (s.ni c).queue j) ∧
      t.cget c NI_BAL_QUE2_return_total = (s.cget c NI_BAL_QUE2_return_total + 1) % 2 ^ NI_BAL_QUE2_return_total.len ∧ s.onlyCell t c) ∧
    (∀ z, s.coreFree c core → ((s.ni c).queue q).u ≠ 0 → ((s.ni c).queue q).ringFault = false →
      ringHdr (mreadLE (s.cell c).cm ((s.cell c).regs.ringBase q + ((s.ni c).queue q).c) 8) ((s.cell c).regs.ringSize q) ((s.ni c).queue q).c
        ((s.ni c).queue q).u = some (0, z) → completes (.cqRingRel c core q) s fun t =>
        s.answered t c core 0 ∧ ((t.ni c).queue q).u = ((s.ni c).queue q).u - z ∧
        ((t.ni c).queue q).c = (((s.ni c).queue q).c + z) % (s.cell c).regs.ringSize q ∧ (t.cell c).cm = (s.cell c).cm ∧ s.onlyCell t c) ∧
    (∀ (r : Nat) (v : W64), ringOk r = true → s.coreFree c core →
      (s.cellFlag c (NI_DRING_enable.at r) = true →
        ((v.setWidth 16 : BitVec 16) - ((s.ni c).ring r).ci).toNat ≤ 2 ^ s.cget c (NI_DRING_size_log2.at r) →
        completes (.cqDringPiWrite c core r (.writePi v)) s fun t =>
          s.answered t c core 0 ∧ ((t.ni c).ring r).pi = v.setWidth 16 ∧ ((t.ni c).ring r).ci = ((s.ni c).ring r).ci ∧
          (∀ j, j ≠ r → (t.ni c).ring j = (s.ni c).ring j) ∧ s.onlyCell t c) ∧
      (s.cellFlag c (NI_DRING_enable.at r) = false → completes (.cqDringPiWrite c core r (.writePi v)) s fun t =>
        s.answered t c core 0 ∧ t.ni c = s.ni c ∧ (s.cell c).regs.counted (t.cell c).regs NI_BULK_STAT_pi_refused ∧ s.onlyCell t c) ∧
      completes (.cqDringPiWrite c core r .readCi) s fun t => s.answered t c core ((s.ni c).ring r).word ∧ ∀ d, t.cell d = s.cell d)

/-- Sends: CQ_SEND_GO of a core on its own slot, and a stalled one resumed, take the next token for the packet; on another core's slot nothing happens
(the model's choice). The core sync commands: LOAD asks for a fetch, CLOSE makes a cached channel QUIESCING and writes CLOSED into the entry of one that
is not cached, FLUSH writes its entry back, a bad op results in 7, and the result is read; an operation behind a LOAD of the core that waits is queued. -/
def Obligations.CoreSendsAndSync : Prop :=
  ∀ (s : State) (c core : Nat), cellOk c = true → coreOk core = true →
    (∀ (ws : List W64) (v : W64) (k : Chan) (tk : Nat), s.coreFree c core → s.sendReady c v k tk → completes (.cqSendGo c core core ws v) s fun t =>
      s.answered t c core 0 ∧ t.sentOne c core v k tk ∧ s.onlyCell t c) ∧
    (∀ (x t0 : Nat) (v : W64) (k : Chan) (tk : Nat), ((s.ni c).core core).stall = some (.sendGo x v, t0) → s.sendReady c v k tk →
      completes (.cqSendGoResume c core) s fun t => s.answered t c core 0 ∧ t.sentOne c core v k tk ∧ s.onlyCell t c) ∧
    (∀ (slot : Nat) (ws : List W64) (v : W64), s.coreFree c core → coreOk slot = true → slot ≠ core → completes (.cqSendGo c core slot ws v) s fun t =>
      s.answered t c core 0 ∧ ∀ d, t.cell d = s.cell d) ∧
    (∀ (ch : Nat) (f : Fetch), channelOk ch = true → s.coreFree c core → f ∈ (s.ni c).fetches → f.load = some core →
      completes (.cqSyncClose c core core ch) s fun t =>
        s.answered t c core 0 ∧ ((t.ni c).core core).syncQ = ((s.ni c).core core).syncQ ++ [(opCLOSE, ch)] ∧
        ((t.ni c).core core).syncBusy = true ∧ (t.ni c).chans = (s.ni c).chans ∧ (t.cell c).cm = (s.cell c).cm ∧ s.onlyCell t c) ∧
    (∀ ch slot, channelOk ch = true → s.coreFree c core → coreOk slot = true → slot ≠ core → ∀ i : Instr,
      i ∈ [.cqSyncLoad c core slot ch, .cqSyncClose c core slot ch, .cqSyncFlush c core slot ch, .cqSyncBadOp c core slot ch,
        .cqSyncResRead c core slot false, .cqSyncResRead c core slot true] → completes i s fun t =>
        s.answered t c core 0 ∧ ∀ d, t.cell d = s.cell d) ∧
    (s.coreFree c core → completes (.cqSyncResRead c core core true) s fun t =>
      s.answered t c core ((s.ni c).core core).sendRes ∧ ∀ d, t.cell d = s.cell d) ∧
    (∀ ch, channelOk ch = true → s.coreFree c core → ((s.ni c).fetches.any fun f => f.load == some core) = false →
      ((s.ni c).core core).syncQ = [] →
      (completes (.cqSyncLoad c core core ch) s fun t =>
        s.answered t c core 0 ∧ (t.ni c).fetches = (s.ni c).fetches ++ [⟨ch, some core, []⟩] ∧ ((t.ni c).core core).syncBusy = true ∧
        ((t.ni c).core core).syncCh = ch ∧ (t.ni c).chans = (s.ni c).chans ∧ s.onlyCell t c) ∧
      (aget (s.ni c).chans ch = none → (s.ni c).faulted.contains ch = false → completes (.cqSyncClose c core core ch) s fun t =>
        s.answered t c core 0 ∧ (t.cell c).cm = setEntryState (s.cell c).cm (chanAddr (s.cell c).regs ch) chCLOSED ∧ ch ∉ (t.ni c).loaded ∧
        ((t.ni c).core core).syncRes = 0 ∧ s.onlyCell t c) ∧
      (∀ k, aget (s.ni c).chans ch = some k → completes (.cqSyncClose c core core ch) s fun t =>
        .coreRsp c core 0 ∈ t.out ∧ (∃ y, aget (t.ni c).chans ch = some y ∧ y.e = { k.e with state := chQUIESCING }) ∧
        ((t.ni c).core core).syncRes = 0 ∧ ((t.ni c).core core).syncBusy = false ∧ s.onlyCell t c) ∧
      (∀ k, aget (s.ni c).chans ch = some k → (s.ni c).faulted.contains ch = false → completes (.cqSyncFlush c core core ch) s fun t =>
        s.answered t c core 0 ∧ (t.cell c).cm = (k.e.accrue s.now32).writeBack (s.cell c).cm (chanAddr (s.cell c).regs ch) ∧
        ((t.ni c).core core).syncRes = 0 ∧ (t.ni c).chans = (s.ni c).chans ∧ s.onlyCell t c) ∧
      (completes (.cqSyncBadOp c core core ch) s fun t =>
        s.answered t c core 0 ∧ ((t.ni c).core core).syncRes = 7 ∧ (t.ni c).chans = (s.ni c).chans ∧ (t.cell c).cm = (s.cell c).cm ∧ s.onlyCell t c) ∧
      (((s.ni c).core core).syncBusy = false → completes (.cqSyncResRead c core core false) s fun t =>
        s.answered t c core (((s.ni c).core core).syncRes.setWidth 64) ∧ ∀ d, t.cell d = s.cell d) ∧
      (((s.ni c).core core).syncBusy = true → completes (.cqSyncResRead c core core false) s fun t =>
        t.out = s.out ∧ ((t.ni c).core core).stall = some (.syncRes, s.ncyc) ∧ s.onlyCell t c))

/-- The ends of fetches and CLOSEs: a LOAD of an OPEN entry toward another chip that passes R135 opens the channel; a fetch with nothing held caches the
entry; an error in the entry read makes the channel FAULTED and the LOAD's result 6; a QUIESCING channel with nothing open is CLOSED and written back; an error in a channel's cached state makes it FAULTED. -/
def Obligations.ChannelFetchAndClose : Prop :=
  ∀ (s : State) (c ch : Nat), cellOk c = true → channelOk ch = true →
    let a := chanAddr (s.cell c).regs ch
    let e := ChanEntry.load (s.cell c).cm a
    (∀ (f : Fetch) (core : Nat), (s.ni c).fetchOf ch = some f → f.load = some core → e.state = chOPEN → s.chipOk e.peerChip.toNat = true →
      logicalOk e.peerCell.toNat = true → e.peerChip.toNat ≠ s.chipId.toNat → s.loadCheck c ch e .remote = 0 → aget (s.ni c).chans ch = none →
      ((s.ni c).core core).syncQ = [] →
      (s.ni c).chans.length < 64 → (s.ni c).loaded.contains ch = false → completes (.channelFetchDone c ch false) s fun t =>
        (∃ y, aget (t.ni c).chans ch = some y ∧ y.e = e.opened .remote s.now32) ∧ ch ∈ (t.ni c).loaded ∧ ((t.ni c).core core).syncRes = 0 ∧
        (t.cell c).cm = (s.cell c).cm ∧ s.onlyCell t c) ∧
    (∀ (f : Fetch) (core : Nat), (s.ni c).fetchOf ch = some f → f.load = some core → ((s.ni c).core core).syncQ = [] →
      (s.block (blockOf c)).count (storeKey c) + 1 < (s.block (blockOf c)).regs.get BLK_FAULT_CTL_ni_uncorr_limit →
      completes (.channelFetchDone c ch true) s fun t =>
        ((t.ni c).core core).syncRes = 6 ∧ ch ∈ (t.ni c).faulted ∧ t.cget c CELL_FAULT_ni_fault = 1) ∧
    (∀ (f : Fetch), (s.ni c).fetchOf ch = some f → f.load = none → f.hold = [] → aget (s.ni c).chans ch = none → (s.ni c).chans.length < 64 →
      completes (.channelFetchDone c ch false) s fun t =>
        (∃ y, aget (t.ni c).chans ch = some y ∧ y.e = s.fetchedEntry c ch) ∧ (t.cell c).cm = (s.cell c).cm ∧ s.onlyCell t c) ∧
    (∀ k, aget (s.ni c).chans ch = some k → k.e.state = chQUIESCING → (s.ni c).chanTokens ch = [] → k.rx.held = [] → k.rx.placed = none →
      (s.ni c).fetchHeld ch = 0 → completes (.channelCloseComplete c ch) s fun t =>
        aget (t.ni c).chans ch = none ∧ s.onlyCell t c ∧ ch ∉ (t.ni c).loaded ∧ ch ∉ (t.ni c).faulted ∧
        (t.cell c).cm = (if (s.ni c).faulted.contains ch then setEntryState (s.cell c).cm a chFAULTED
          else setEntryState ((k.e.accrue s.now32).writeBack (s.cell c).cm a) a chCLOSED)) ∧
    (∀ (k : Chan) (reorder : Bool), aget (s.ni c).chans ch = some k →
      (s.block (blockOf c)).count (storeKey c) + 1 < (s.block (blockOf c)).regs.get BLK_FAULT_CTL_ni_uncorr_limit → completes (.channelCacheEccError c ch reorder) s fun t =>
      (∃ y, aget (t.ni c).chans ch = some y ∧ y.e.state = chFAULTED) ∧ ch ∈ (t.ni c).faulted ∧ t.cget c CELL_FAULT_ni_fault = 1)

/-! ## Core control messages, barriers and rearms (R230, R264, R277, R283, R284) -/

/-- Core control messages: CQ_RILL_DST keeps the destination; CQ_RILL_GO on the core's own slot stalls until a grant, which sends ROUTE and CMSG to another chip or records a refusal for
an endpoint that is none; a CMSG that arrives enters the inbox of an NI in service; a CNACK is recorded for the core that sent to its endpoint; the result
is read and cleared, the inbox popped. -/
def Obligations.CoreControlMessages : Prop :=
  ∀ (s : State),
    (∀ (c core : Nat) (dst v : W64), cellOk c = true → coreOk core = true → s.coreFree c core →
      (completes (.cqRillGo c core core (.dst dst)) s fun t => s.answered t c core 0 ∧ ((t.ni c).core core).rillDst = dst ∧ s.onlyCell t c) ∧
      (completes (.cqRillGo c core core (.go v)) s fun t =>
        t.out = s.out ∧ ((t.ni c).core core).stall = some (.rillGo ((s.ni c).core core).rillDst v, s.ncyc) ∧ s.onlyCell t c) ∧
      (∀ (slot : Nat) (a : RillWrite), coreOk slot = true → slot ≠ core → completes (.cqRillGo c core slot a) s fun t =>
        s.answered t c core 0 ∧ ∀ d, t.cell d = s.cell d) ∧
      (∀ slot, coreOk slot = true →
        (completes (.cqRillResRead c core slot .rx .none) s fun t => s.answered t c core (s.ni c).rxWord ∧ ∀ d, t.cell d = s.cell d) ∧
        (completes (.cqRillResRead c core slot .rxData .none) s fun t => s.answered t c core (s.ni c).rxData ∧ ∀ d, t.cell d = s.cell d)) ∧
      (∀ e : Ecc, completes (.cqRillResRead c core core .res e) s fun t =>
        s.answered t c core ((s.ni c).core core).rillRes ∧ ((t.ni c).core core).rillRes = 0 ∧ s.onlyCell t c) ∧
      (completes (.cqRillPop c core) s fun t => s.answered t c core 0 ∧ (t.ni c).inbox = (s.ni c).inbox.drop 1 ∧ s.onlyCell t c)) ∧
    (∀ (b core : Nat) (dst v : W64), blockOk b = true → (s.block b).ctlReset = false → s.rillStopped b = false → (s.block b).lastGrant = [] →
      (s.block b).nextGrant < 16 →
      let c := (blockCells b).getD (s.block b).nextGrant 0
      let chip := bits dst.toNat 14 13
      let lid := bits dst.toNat 0 14
      (s.ni c).rillWaiter = some (core, dst, v) → (s.ni c).hold = .none →
      (s.chipOk chip = true → logicalOk lid = true → chip ≠ s.chipId.toNat → completes (.vc3Grant b) s fun t =>
        s.answered t c core 0 ∧ ((t.ni c).core core).stall = none ∧ (s.cell c).regs.counted (t.cell c).regs NI_RILL_STAT_cmsg_sent ∧
        (∃ r m, (t.rt c).rillIn = (s.rt c).rillIn ++ [⟨4, s.ncyc, r⟩, ⟨4, s.ncyc, m⟩] ∧ r.kind = kROUTE ∧
          r.payload = routeWord chip s.chipId.toNat lid (s.lidOf c) ∧ m.kind = kCMSG ∧ m.payload = v ∧ m.parterre = (s.cell c).owner) ∧
        (t.block b).nextGrant = ((s.block b).nextGrant + 1) % 16 ∧ ∀ d, d ≠ c → t.cell d = s.cell d) ∧
      (s.chipOk chip = false → completes (.vc3Grant b) s fun t =>
        s.answered t c core 0 ∧ bits (((t.ni c).core core).rillRes).toNat 0 1 = 1 ∧ bits (((t.ni c).core core).rillRes).toNat 1 4 = 6 ∧
        (t.rt c).rillIn = (s.rt c).rillIn ∧ ∀ d, d ≠ c → t.cell d = s.cell d)) ∧
    (∀ (c : Nat) (x : RillFlit), cellOk c = true → (s.block (blockOf c)).power = .run → (s.ni c).hold = .none →
      (s.localFlit c (fun y => y.flit.kind == kCMSG) = some x → x.flit.parterre = (s.cell c).owner → (s.ni c).inbox.length < 32 →
        completes (.cmsg c) s fun t =>
          (t.ni c).inbox = (s.ni c).inbox ++ [⟨BitVec.ofNat 27 (s.cmsgSource (s.routeFor c x) x.flit), x.flit.payload⟩] ∧
          t.out = s.out ++ (if (s.ni c).inbox.isEmpty then [.rillNotify c] else []) ∧
          (s.cell c).regs.counted (t.cell c).regs NI_RILL_STAT_cmsg_rcvd ∧ s.onlyCell t c) ∧
      (∀ core e, s.localFlit c (fun y => y.flit.kind == kCNACK) = some x →
        (s.ni c).rillFrom.find? (fun k => k.2 == s.cmsgSource (s.routeFor c x) x.flit) = some (core, e) → completes (.cnack c) s fun t =>
          bits (((t.ni c).core core).rillRes).toNat 0 1 = 1 ∧ bits (((t.ni c).core core).rillRes).toNat 1 4 = bits x.flit.payload.toNat 0 4 ∧
          (s.cell c).regs.counted (t.cell c).regs NI_RILL_STAT_cnack_rcvd ∧ s.onlyCell t c))

/-- Core barriers and rearms: an arrival joins the generation once and its value is combined; a wait returns the generation of a released arrival, stalls
for one that is not, and tells of no arrival; the result of the last generation is read; a rearm starts a landing entry's run anew, and its word is
read. -/
def Obligations.CoreBarriersAndRearms : Prop :=
  ∀ (s : State) (c core : Nat), cellOk c = true → coreOk core = true → s.coreFree c core →
    (∀ (x : Nat) (v : W64), contextOk x = true →
      let k := (s.rt c).ctxRt x
      (s.ctxMine c x = true → aget ((s.ni c).bar x).arr core = none → k.localDone = false → completes (.cqBarArrive c core x v) s fun t =>
        s.answered t c core 0 ∧ ((t.rt c).ctxRt x).locals = k.locals + 1 ∧
        ((t.rt c).ctxRt x).partialV = (if k.have_ then combineOp (s.ctxOp x) k.partialV v else v) ∧
        aget ((t.ni c).bar x).arr core = some (k.gen, none) ∧ s.onlyCell t c) ∧
      (s.ctxMine c x = false → completes (.cqBarArrive c core x v) s fun t =>
        s.answered t c core 0 ∧ (s.cell c).regs.counted (t.cell c).regs CELL_RILL_CNT_gen_err ∧ t.ni c = s.ni c ∧ t.rt c = s.rt c ∧ s.onlyCell t c)) ∧
    (∀ x, contextOk x = true →
      (aget ((s.ni c).bar x).arr core = none → completes (.cqBarWaitRead c core x false) s fun t => s.answered t c core 0x800 ∧ ∀ d, t.cell d = s.cell d) ∧
      (∀ gen, aget ((s.ni c).bar x).arr core = some (gen, none) → completes (.cqBarWaitRead c core x false) s fun t =>
        t.out = s.out ∧ ((t.ni c).core core).stall = some (.barWait x, s.ncyc) ∧ s.onlyCell t c) ∧
      (∀ gen failed, aget ((s.ni c).bar x).arr core = some (gen, some failed) → completes (.cqBarWaitRead c core x false) s fun t =>
        s.answered t c core (BitVec.ofNat 64 (gen.toNat + failed.toNat * 1024)) ∧ ∀ d, t.cell d = s.cell d) ∧
      completes (.cqBarWaitRead c core x true) s fun t => s.answered t c core ((s.ni c).bar x).result ∧ ∀ d, t.cell d = s.cell d) ∧
    (∀ i, landOk i = true → completes (.cqMcRearm c core i .read) s fun t =>
      s.answered t c core ((s.ni c).mcRt i).word ∧ ∀ d, t.cell d = s.cell d) ∧
    (∀ i, i < 8 → completes (.cqRedRearm c core i .read) s fun t =>
      s.answered t c core ((s.ni c).redRt i).word ∧ ∀ d, t.cell d = s.cell d) ∧
    (∀ i, landOk i = true → completes (.cqMcRearm c core i .rearm) s fun t =>
      s.answered t c core 0 ∧ aget (t.ni c).mcLands i = some ⟨0, 0, false, 0⟩ ∧ (∀ j, j ≠ i → aget (t.ni c).mcLands j = aget (s.ni c).mcLands j) ∧
      s.onlyCell t c) ∧
    (∀ i, i < 8 → completes (.cqRedRearm c core i .rearm) s fun t =>
      s.answered t c core 0 ∧ aget (t.ni c).redLands i = some ⟨0, 0, false, 0, 0⟩ ∧
      (∀ j, j ≠ i → aget (t.ni c).redLands j = aget (s.ni c).redLands j) ∧ s.onlyCell t c)

/-! ## Rill contexts and epoch flips (R86, R90, R118, R280 to R282, R310) -/

/-- Trees of the rill's contexts: a GATHER of the generation is combined, once from each port; a RELEASE goes down the expect mask, starts the next
generation and releases the cores that arrived in it; the root's timeout releases the partial combine as failed; a BCAST goes down and is held for its T, a TALLY late after it;
an ARM marks the period armed. -/
def Obligations.RillContexts : Prop :=
  ∀ (s : State) (c : Nat), cellOk c = true →
    (∀ (x : Nat) (g : RillFlit), contextOk x = true → s.rillStopped (blockOf c) = false → s.localFlit c (fun y => y.ofCtx kGATHER x) = some g →
      let k := (s.rt c).ctxRt x
      (g.flit.dst.toNat / 16 = k.gen.toNat → (s.ctxExpect x c).getLsbD g.port = true → k.ports.getLsbD g.port = false →
        completes (.gather c x) s fun t =>
          ((t.rt c).ctxRt x).ports = k.ports ||| BitVec.ofNat 6 (2 ^ g.port) ∧ ((t.rt c).ctxRt x).gen = k.gen ∧
          ((t.rt c).ctxRt x).partialV = (if k.have_ then combineOp (s.ctxOp x) k.partialV g.flit.payload else g.flit.payload) ∧ s.onlyCell t c) ∧
      (g.flit.dst.toNat / 16 ≠ k.gen.toNat → completes (.gather c x) s fun t =>
        (s.cell c).regs.counted (t.cell c).regs CELL_RILL_CNT_gen_err ∧ ((t.rt c).ctxRt x).ports = k.ports ∧ s.onlyCell t c)) ∧
    (∀ (x : Nat) (g : RillFlit), contextOk x = true → s.localFlit c (fun y => y.ofCtx kRELEASE x && y.action == 0) = some g →
      let gen : BitVec 10 := BitVec.ofNat 10 (g.flit.dst.toNat / 16)
      completes (.release c x) s fun t =>
        (t.rt c).ctxRt x = CtxRt.start (gen + 1) ∧
        (t.rt c).rillIn = (s.rt c).rillIn ++ (s.ctxDown x c).map (fun o => ⟨8 + o, s.ncyc, { g.flit with src := BitVec.ofNat 14 c }⟩) ∧
        (2 ≤ x → ∀ core b, aget (s.ni c).bars x = some b → aget b.arr core = some (gen, none) →
          aget ((t.ni c).bar x).arr core = some (gen, some (g.flit.aux.getLsbD 0))) ∧
        (s.ctxRoot x = c → t.chget (CHP_RILL_CTX_generation.at x) = (gen + 1).toNat) ∧ s.onlyCell t c) ∧
    (∀ x t0 us, contextOk x = true → s.ctxRoot x = c → aget s.chip.ctxRoots x = some ⟨some (t0, us)⟩ → expired s.now t0 us = true →
      completes (.contextTimeout x) s fun t =>
        (t.rt c).rillLocal = (s.rt c).rillLocal ++
          [⟨4, s.ncyc, releaseFlit c x ((s.rt c).ctxRt x).gen true 0 ((s.rt c).ctxRt x).partialV⟩] ∧
        aget t.chip.ctxRoots x = none ∧ ((t.rt c).ctxRt x).sent = true ∧ s.onlyCell t c) ∧
    (∀ g, s.bcastOf c 1 = some g → completes (.bcastTally c) s fun t =>
      (t.rt c).tallyAt = some (s.namedT g.flit) ∧ (t.rt c).lateTally = decide (s.namedT g.flit < s.now) ∧
      (t.rt c).lateTallies = (s.rt c).lateTallies + (if s.namedT g.flit < s.now then 1 else 0) ∧ s.onlyCell t c ∧
      (t.rt c).rillIn = (s.rt c).rillIn ++
        (s.ctxDown (g.flit.dst.toNat % 16) c).map fun o => ⟨8 + o, s.ncyc, { g.flit with src := BitVec.ofNat 14 c }⟩) ∧
    (∀ g, s.bcastOf c 2 = some g → completes (.bcastFreeze c) s fun t =>
      (t.rt c).freezeAt = some (s.namedT g.flit) ∧ s.onlyCell t c ∧
      (t.rt c).rillIn = (s.rt c).rillIn ++
        (s.ctxDown (g.flit.dst.toNat % 16) c).map fun o => ⟨8 + o, s.ncyc, { g.flit with src := BitVec.ofNat 14 c }⟩) ∧
    (∀ g st, s.localFlit c (fun y => y.ofCtx kRELEASE 0 && y.action == 2) = some g → s.chip.arming = some st → g.flit.payload.getLsbD 0 = true →
      s.now < st → completes (.releaseArm c) s fun t => (t.rt c).armed = (st :: (s.rt c).armed).take 66 ∧ s.onlyCell t c)

/-- An epoch flip: the requests made join one flip, whose version is built from the state of now; its rows stand in every running router, which reports
READY; a RELEASE with action FLIP makes the version ACTIVE and the other DRAINING, its NI to follow in the next ncyc; a drain tallies at once, cells latch at the T named, a sum of zero ends
the drain, FREE frees the old version. -/
def Obligations.EpochFlips : Prop :=
  ∀ (s : State),
    (s.zRuns = true → s.chip.flip = none → s.chip.flipReqs ≠ [] → s.chip.routed = true → s.ctxValid 0 = true → completes .epochFlipStart s fun t =>
      t.chip.flip = some ⟨1, s.chip.active, 1 - s.chip.active, s.chip.flipReqs, 0, [], s.fenceHeld s.chip.active.toNat⟩ ∧ t.chip.flipReqs = [] ∧
      t.build (1 - s.chip.active).toNat = s.newBuild ∧ t.build s.chip.active.toNat = s.build s.chip.active.toNat ∧ t.chip.active = s.chip.active ∧
      s.sameUnits t) ∧
    (∀ f, s.chip.flip = some f → f.step = 1 → s.ctx0Idle = true → completes .installDone s fun t =>
      t.chip.flip = some { f with step := 2 } ∧ (∀ c, cellOk c = true → s.stopped c = false →
        (t.rt c).verState f.new_.toNat = vREADY ∧ ((t.rt c).ctxRt 0).localDone = true) ∧ t.links = s.links ∧ t.gws = s.gws) ∧
    (∀ c g, cellOk c = true → s.localFlit c (fun y => y.ofCtx kRELEASE 0 && y.action == 1) = some g → completes (.releaseFlip c) s fun t =>
      let n := bits g.flit.payload.toNat 0 1
      (t.rt c).verState n = vACTIVE ∧ (t.rt c).verState (1 - n) = (if (s.rt c).verState (1 - n) = vACTIVE then vDRAINING else (s.rt c).verState (1 - n)) ∧
      (t.rt c).epochNext = some (BitVec.ofNat 1 n) ∧ t.cget c NI_INJ_CTL_inj_epoch = s.cget c NI_INJ_CTL_inj_epoch ∧ (∀ d, d ≠ c → t.cell d = s.cell d) ∧ t.blocks = s.blocks ∧ t.regions = s.regions) ∧
    (∀ f, s.chip.flip = some f → f.step = 4 → f.tallies = [] → s.chip.tally = none → s.zRuns = true → s.ctxValid 0 = true →
      completes .tallyTick s fun t =>
        t.chip.tally = some ⟨s.now + s.bcastLead, true⟩ ∧ s.onlyCell t (s.ctxRoot 0) ∧
        ∃ b, (t.rt (s.ctxRoot 0)).rillLocal = (s.rt (s.ctxRoot 0)).rillLocal ++ [⟨4, s.ncyc, b⟩] ∧ b.kind = kBCAST ∧ bits b.payload.toNat 0 8 = 1) ∧
    (∀ (r : Router) (t0 now : Nat), r.tallyAt = some t0 → r.tallyCopy = none → t0 ≤ now →
      (r.copyTally now).tallyCopy = some [r.entered0, r.left0, r.entered1, r.left1, r.watchLive] ∧ (r.copyTally now).watchLive = 0) ∧
    (∀ (c t0 : Nat) (e0 l0 e1 l1 w : W32), cellOk c = true → (s.rt c).tallyAt = some t0 → (s.rt c).tallyCopy = some [e0, l0, e1, l1, w] →
      s.stopped c = false → completes (.tallyLatch c) s fun t =>
      t.cget c CELL_EPOCH_TALLY0_entered = e0.toNat ∧ t.cget c CELL_EPOCH_TALLY0_left = l0.toNat ∧
      t.cget c CELL_EPOCH_TALLY1_entered = e1.toNat ∧ t.cget c CELL_EPOCH_TALLY1_left = l1.toNat ∧
      t.cget c CELL_CASC_WATCH_seen = w.toNat % 2 ^ CELL_CASC_WATCH_seen.len ∧ (t.rt c).seen = w ∧ (t.rt c).tallyAt = none ∧
      (t.rt c).tallyCopy = none ∧ (t.rt c).latched = t0 ∧ s.onlyCell t c) ∧
    (∀ y f, s.chip.tally = some y → y.drain = true → y.at_ + s.rillH + 14 ≤ s.now → (s.running.all fun c => (s.rt c).latched == y.at_) = true →
      s.chip.flip = some f → f.step = 4 → completes .tallyResult s fun t =>
        t.chip.tally = none ∧ ∃ g, t.chip.flip = some g ∧ g.tallies = s.inFlight f.old :: f.tallies ∧ (s.inFlight f.old = 0 → g.step = 5) ∧
          (s.inFlight f.old < 0 → g.step = 4)) ∧
    (∀ c g, cellOk c = true → s.bcastOf c 3 = some g → completes (.bcastFree c) s fun t =>
      (t.rt c).verState (bits g.flit.payload.toNat 8 1) = vFREE ∧ s.onlyCell t c ∧
      (t.rt c).rillIn = (s.rt c).rillIn ++
        (s.ctxDown (g.flit.dst.toNat % 16) c).map fun o => ⟨8 + o, s.ncyc, { g.flit with src := BitVec.ofNat 14 c }⟩)

/-! ## Routers (R34, R65, R68 to R70, R72, R78 to R81, R89, R93, R224, R225) -/

/-- The stages of a router on a dynamic plane: a unicast packet under a version in use is decoded with its productive set; an uncorrectable one is
discarded and counted, one under a FREE version counted stale. In the switch stage a packet with EJECT free is handed to the NI; one with no productive
output free is deflected, aged and counted. The answer queue's head is injected with age 0. -/
def Obligations.RouterStages : Prop :=
  ∀ (s : State) (c : Nat) (pl : Plane), cellOk c = true → dynPlane pl = true →
    (∀ (p : Nat) (x : InFlight), p < 4 → ((s.rt c).plane pl).arr.find? (fun y => y.port == p && decide (y.due ≤ s.ncyc)) = some x →
      aget (s.rt c).sluices p = none →
      let v := x.pkt.epoch.toNat
      let o := s.productive c x.pkt v
      ((s.rt c).verState v ≠ vFREE → x.pkt.type ≠ tMCAST → s.acrossFence c x.pkt = false → o.prod ≠ 0 → o.emptyRow = false →
        completes (.routerDecode c pl p [] false) s fun t =>
          ((t.rt c).plane pl).dec = ((s.rt c).plane pl).dec ++ [⟨p, s.ncyc, x.pkt, o.prod, o.pref⟩] ∧
          ((t.rt c).plane pl).arr.length + 1 = ((s.rt c).plane pl).arr.length ∧
          (∀ d, d ≠ c → t.cell d = s.cell d) ∧ t.regions = s.regions ∧ t.links = s.links ∧ t.gws = s.gws) ∧
      ((s.rt c).verState v = vFREE → completes (.routerDecode c pl p [] false) s fun t =>
        ((t.rt c).plane pl).dec = ((s.rt c).plane pl).dec ∧
        (s.cell c).regs.counted (t.cell c).regs (deflField pl CELL_DEFL_CNT_REQ_stale CELL_DEFL_CNT_REP_stale) ∧
        (∀ d, d ≠ c → t.cell d = s.cell d) ∧ t.links = s.links ∧ t.gws = s.gws) ∧
      (neighbor c p = none → completes (.routerDecode c pl p [.double] false) s fun t =>
        ((t.rt c).plane pl).dec = ((s.rt c).plane pl).dec ∧ (s.cell c).regs.counted (t.cell c).regs CELL_ERR_CNT_uncorr ∧
        (s.cell c).regs.counted (t.cell c).regs CELL_EVENT_CNT_unattrib ∧ (t.rt c).lostW0 = (s.rt c).lostW0 + 1 ∧
        (∀ d, d ≠ c → t.cell d = s.cell d))) ∧
    (∀ d : Decoded, ((s.rt c).plane pl).dec = [d] → d.at_ < s.ncyc → d.pref ≠ .branch →
      ((s.prefOrder c d).find? (fun p => s.freeSlot c pl p) = some 4 → d.pkt.type ≠ 0 → d.pkt.type ≠ 15 → completes (.switchAssign c pl) s fun t =>
        (t.ni c).ejected = (s.ni c).ejected ++ [(pl, s.mark c pl d.pkt)] ∧ ((t.rt c).plane pl).dec = [] ∧ s.onlyCell t c) ∧
      (∀ p e, (s.prefOrder c d).find? (fun p => s.freeSlot c pl p) = none → s.deflPort c pl d = some p → neighbor c p = some e →
        d.pkt.type ≠ tTEL → completes (.switchAssign c pl) s fun t =>
          s.sentTo t c p pl (fun k => k.payload = d.pkt.payload ∧ k.age = (if d.pkt.age = 127 then 127 else d.pkt.age + 1)) ∧
          (s.cell c).regs.counted (t.cell c).regs (deflField pl CELL_DEFL_CNT_REQ_deflected CELL_DEFL_CNT_REP_deflected) ∧
          ((t.rt c).plane pl).dec = [] ∧ s.onlyLinkEnds t c p)) ∧
    (∀ (a : Packet) (r : List Packet) (p e : Nat), (s.rt c).answers = a :: r → s.mayInject c .reply = true → s.isLocal c a = false →
      s.injectPort c .reply (s.stamped c a 0) = some p → neighbor c p = some e → a.type ≠ tTEL → completes (.answerQueueInject c) s fun t =>
        (t.rt c).answers = r ∧ s.sentTo t c p .reply (fun k => k = Packet.regen (s.stamped c a 0)) ∧ s.onlyLinkEnds t c p)

/-- The fountain buffer: a slot's own branch is delivered once, its copy counted where no landing entry claims it; the serving slot's first free branch
takes a copy with age 0 and the branch is clear; after fount_patience ncyc what remains leaves as one re-rooted copy with age 1. -/
def Obligations.FountainBuffer : Prop :=
  ∀ (s : State) (c : Nat), cellOk c = true → (s.ni c).hold = .none →
    (∀ f, (s.ni c).didNow dFount s.ncyc = false →
      (s.ni c).fountain.find? (fun f => f.mask.getLsbD 4 && !(s.ni c).readsWait f.id && decide (f.placed < s.ncyc)) = some f →
      completes (.fountainDelivery c .none) s fun t =>
        (∀ g ∈ (t.ni c).fountain, g.id = f.id → g.mask.getLsbD 4 = false) ∧
        (f.pkt.crc ≠ f.pkt.crcOf → (s.cell c).regs.counted (t.cell c).regs NI_RX_CHECK_crc_err) ∧
        (f.pkt.crc = f.pkt.crcOf → pktLegal f.pkt .request = false → (s.cell c).regs.counted (t.cell c).regs NI_RX_CHECK_malformed) ∧
        (f.pkt.crc = f.pkt.crcOf → pktLegal f.pkt .request = true → (s.cell c).regs.mcLanding f.pkt = none → (s.cell c).regs.counted (t.cell c).regs NI_MC_STAT_mc_unclaimed) ∧
        s.onlyCell t c) ∧
    (∀ f, (s.ni c).headReq = none → s.mayInject c .request = true → (s.ni c).fountServer = some f → (s.ni c).readsWait f.id = false →
      f.placed < s.ncyc →
      (∀ p e, (s.rotOrder c).find? (fun p => f.mask.getLsbD p && s.freeOut c .request p) = some p → neighbor c p = some e →
        completes (.fountainInject c .none) s fun t =>
          s.sentTo t c p .request (fun k => k = Packet.regen (s.stamped c f.pkt 0)) ∧ (∀ g ∈ (t.ni c).fountain, g.id = f.id → g.mask.getLsbD p = false) ∧
          s.onlyLinkEnds t c p) ∧
      (∀ p e, f.since + s.cget c NI_FOUNT_CTL_fount_patience ≤ s.ncyc →
        (s.rotOrder c).any (fun p => f.mask.getLsbD p && s.freeOut c .request p) = false → s.anyPort c .request = some p → neighbor c p = some e →
        completes (.fountainPatienceExpire c) s fun t =>
          s.sentTo t c p .request (fun k => k = Packet.regen (s.stamped c (s.reroot c f.pkt f.mask) 1)) ∧ (∀ g ∈ (t.ni c).fountain, g.id = f.id → g.mask &&& f.mask = 0) ∧
          (s.cell c).regs.counted (t.cell c).regs NI_FOUNT_STAT_forced ∧ s.onlyLinkEnds t c p))

/-! ## Injection by the NI (R81, R195, R198, R252, R473) -/

/-- Selection of a head, at most one in an ncyc: on the request plane the next output of the oldest range in EMIT goes first, and of one message channel
with a token in its window its packet; on the reply plane without reads to serve a waiting sample. The head enters on a productive free port with age 0;
out of patience it is forced onto any free port with age 1. -/
def Obligations.NiInjection : Prop :=
  ∀ (s : State) (c : Nat), cellOk c = true → (s.ni c).hold = .none →
    ((s.ni c).headReq = none → (s.ni c).didNow dSelReq s.ncyc = false → (s.ni c).fountServer = none →
      (∀ key g p r, (s.ni c).oldestEmit = some (key, g) → g.outp = p :: r → completes (.injectionSelect c .request) s fun t =>
        ∃ h, (t.ni c).headReq = some h ∧ h.pkt = p ∧ h.src = .combine ∧ h.since = s.ncyc) ∧
      (∀ ch k tok tk, (s.ni c).oldestEmit = none → (s.ni c).descs = [] → (s.ni c).chans = [(ch, k)] → (s.ni c).chanNext ch = some (tok, tk) →
        k.e.privileged = true → (s.ni c).inWindow ch tk.seq = true → (s.cell c).owner = 0 → completes (.injectionSelect c .request) s fun t =>
          ∃ h, (t.ni c).headReq = some h ∧ h.pkt = tk.pkt ∧ h.src = .token tok ∧ h.since = s.ncyc ∧ s.onlyCell t c)) ∧
    (∀ m, (s.ni c).headRep = none → (s.ni c).didNow dSelRep s.ncyc = false → (s.ni c).serves = [] → (s.rt c).sample = some m →
      cellOk (s.cget c CELL_SPRAY_CTL_collector) = true → completes (.injectionSelect c .reply) s fun t =>
        (∃ h, (t.ni c).headRep = some h ∧ h.pkt = s.telPacket c m ∧ h.src = .tel) ∧ (t.rt c).sample = none ∧ s.onlyCell t c) ∧
    (∀ (pl : Plane) (h : Head), dynPlane pl = true → (s.ni c).head pl = some h → (∀ p, h.src ≠ .mnt p) → (s.ni c).readsWait h.id = false →
      (s.ni c).badReads.contains h.id = false → s.isLocal c h.pkt = false → s.mayInject c pl = true → s.answersFirst c pl = false →
      h.pkt.type ≠ tTEL →
      (∀ p e, s.injectPort c pl (s.stamped c h.pkt 0) = some p → neighbor c p = some e → completes (.niHeadInject c pl) s fun t =>
        s.sentTo t c p pl (fun k => k = Packet.regen (s.stamped c h.pkt 0)) ∧ (t.ni c).head pl = none ∧ s.onlyLinkEnds t c p) ∧
      (∀ p e, s.impatient c h.since = true → s.injectPort c pl (s.stamped c h.pkt 0) = none → s.anyPort c pl = some p → neighbor c p = some e →
        completes (.patienceExpire c pl) s fun t =>
          s.sentTo t c p pl (fun k => k = Packet.regen (s.stamped c h.pkt 1)) ∧ (t.ni c).head pl = none ∧
          (s.cell c).regs.counted (t.cell c).regs NI_INJ_CNT_forced ∧ s.onlyLinkEnds t c p))

/-! ## Messages (R141 to R150, R155, R158, R159) -/

/-- Message packets in order: a MSG and a MSG_HEAD of at most 40 bytes enter their queue and are acknowledged, a longer head is placed, its last body
makes the message visible; a held packet at its turn is processed; the gap timer fails a placed message and skips past it; a stale tail and a held
dispatch strobe are signalled. -/
def Obligations.MessagesArrive : Prop :=
  ∀ (s : State) (c : Nat), cellOk c = true →
    (∀ (p : Packet) (k : Chan), s.receives c .request p → s.inOrder c k p →
      let q := k.e.rxQueue.toNat
      let acked (t : State) := (t.rt c).answers = (s.rt c).answers ++ [ackFor p k.e.peerChan]
      (p.type = tMSG → k.rx.placed = none → (s.cell c).canTake q = true → completes (.msgEject c) s fun t =>
        s.queued t c q (fun e => e.channel = p.chanTree ∧ e.seq = p.seq.setWidth 8 ∧
          e.words = wordsOf (p.plBytes.take (8 * (p.length.toNat / 8))) ∧ e.kind = (if p.length.toNat % 8 = 0 then 1 else 2)) ∧
        acked t ∧ t.expectsNext c p.chanTree.toNat k 1 ∧ s.onlyCell t c) ∧
      (p.type = tMSG_HEAD → k.rx.placed = none → (s.cell c).canTake q = true → p.pl 0 3 ≤ 40 → p.last = 1 → completes (.msgHeadEject c) s fun t =>
        s.queued t c q (fun e => e.channel = p.chanTree ∧ e.seq = p.seq.setWidth 8 ∧ e.words = wordsOf ((p.plBytes.drop 8).take (p.pl 0 3))) ∧
        acked t ∧ t.expectsNext c p.chanTree.toNat k 1 ∧ s.onlyCell t c) ∧
      (p.type = tMSG_HEAD → k.rx.placed = none → (s.cell c).canTake q = true → 40 < p.pl 0 3 → p.pl 0 3 ≤ 48 → p.last = 0 →
        completes (.msgHeadEject c) s fun t =>
          (∃ y m, aget (t.ni c).chans p.chanTree.toNat = some y ∧ y.rx.placed = some m ∧ m.total = p.pl 0 3 ∧ m.packets = 2 ∧ m.wrote = 1 ∧
            m.queue = q ∧ y.e.rxExpect = k.e.rxExpect + 1) ∧
          ((t.ni c).queue q).reserved = ((s.ni c).queue q).reserved + 1 ∧ ((t.ni c).queue q).ents = ((s.ni c).queue q).ents ∧ acked t ∧ s.onlyCell t c) ∧
      (∀ m, p.type = tMSG_BODY → k.rx.placed = some m → m.fits m.next p = true → m.packets ≤ m.wrote + 1 → m.ringOff = none →
        completes (.msgBodyEject c) s fun t =>
          s.queued t c m.queue (fun e => e.channel = p.chanTree ∧ e.seq = m.head ∧
            e.words = wordsOf (m.data ++ p.plBytes.take p.length.toNat)) ∧ acked t ∧ t.expectsNext c p.chanTree.toNat k 1 ∧ s.onlyCell t c)) ∧
    (∀ (ch : Nat) (k : Chan) (p : Packet), channelOk ch = true → aget (s.ni c).chans ch = some k → (s.ni c).hold = .none → (s.ni c).fetches = [] →
      k.rx.held = [p] → k.rx.arrival = [] → p.seq.setWidth 8 = k.e.rxExpect → s.answerFree c = true → completes (.heldPacketAnswer c ch) s fun t =>
        (∃ y, aget (t.ni c).chans ch = some y ∧ y.rx.held = [] ∧ y.e.rxExpect = k.e.rxExpect + 1) ∧ s.onlyCell t c) ∧
    (∀ (ch : Nat) (k : Chan) (m : Placed) (t0 us : Nat), channelOk ch = true → aget (s.ni c).chans ch = some k → k.rx.gap = some (t0, us) →
      expired s.now t0 us = true → k.rx.held = [] → k.rx.arrival = [] → k.rx.placed = some m → completes (.gapTimeout c ch) s fun t =>
        t.expectsNext c ch k (m.packets - m.next) ∧ s.queued t c m.queue (fun e => e.kind = 4 ∧ e.seq = m.head) ∧
        t.cget c NI_MSG_STAT_skipped = min (s.cget c NI_MSG_STAT_skipped + (m.packets - m.next)) (2 ^ NI_MSG_STAT_skipped.len - 1) ∧ s.onlyCell t c) ∧
    (∀ q t0 us, queueOk q = true → ((s.ni c).queue q).since = some (t0, us) → ((s.ni c).queue q).ents ≠ [] → expired s.now t0 us = true →
      completes (.staleTailTimeout c q) s fun t =>
        (t.ni c).queue q = { (s.ni c).queue q with stale := true, since := none } ∧ t.out = s.out ++ [.queueNotify c q] ∧ s.onlyCell t c) ∧
    (∀ h q r, (s.ni c).dispatch = (h, q) :: r → (s.ni c).didNow dDispatch s.ncyc = false → completes (.dispatchFifoIssue c) s fun t =>
      (t.ni c).dispatch = r ∧ t.out = s.out ++ [.dispatch c h q] ∧ s.onlyCell t c)

/-- Tokens close once: an ACK of the token's generation frees it and clears nack_run, a NACK frees it and raises nack_run; the retransmit timer resends,
the abandon timer frees and counts; an error in its own state withdraws it. -/
def Obligations.TokensClose : Prop :=
  ∀ (s : State) (c tok : Nat) (tk : Token) (ch : Nat) (pc : BitVec 12) (k : Chan), cellOk c = true → tokenOk tok = true →
    aget (s.ni c).tokens tok = some tk → tk.isOpen = true → tk.use = .msg ch pc none → aget (s.ni c).chans ch = some k →
    (∀ p, s.receives c .reply p → p.type = tACK → (s.ni c).ackToken p.chanTree.toNat (p.seq.toNat % 256) = some (tok, tk) →
      tk.gen.toNat = p.seq.toNat / 256 → completes (.ackEject c) s fun t =>
        t.closed c tok tk .free ∧ (∃ y, aget (t.ni c).chans ch = some y ∧ y.e.nackRun = 0 ∧ y.e.txSeq = k.e.txSeq) ∧ s.onlyCell t c) ∧
    (∀ p, s.receives c .reply p → p.type = tNACK → p.cls = 2 → (s.ni c).nackToken p.chanTree.toNat (p.seq.toNat % 256) = some (tok, tk) →
      tk.gen.toNat = p.seq.toNat / 256 → k.e.stormLimit = 0 → completes (.nackEject c) s fun t =>
        t.closed c tok tk .free ∧ (∃ y, aget (t.ni c).chans ch = some y ∧ y.e.nackRun.toNat = min (k.e.nackRun.toNat + 1) 255) ∧ s.onlyCell t c) ∧
    (tk.st = .inflight → tk.retx ≠ 0 → expired s.now tk.start tk.retx = true → completes (.retransmitTimeout c tok .none) s fun t =>
      aget (t.ni c).tokens tok = some { tk with st := .resent, again := true } ∧ (∀ j, j ≠ tok → aget (t.ni c).tokens j = aget (s.ni c).tokens j) ∧
      t.out = s.out ∧ s.onlyCell t c) ∧
    (tk.st = .inflight ∨ tk.st = .resent → expired s.now tk.start tk.abandon = true → completes (.abandonTimeout c tok) s fun t =>
      t.closed c tok tk .free ∧ (s.cell c).regs.counted (t.cell c).regs NI_TOK_STAT_abandoned ∧ s.onlyCell t c) ∧
    ((s.block (blockOf c)).count (storeKey c) + 1 < (s.block (blockOf c)).regs.get BLK_FAULT_CTL_ni_uncorr_limit →
      completes (.tokenStateEccError c tok) s fun t => t.closed c tok tk .withdrawn ∧ t.cget c CELL_FAULT_ni_fault = 1)

/-! ## Bulk transfers (R170 to R182, R229, R497, R498) -/

/-- Bulk transfers: a descriptor that passes R174 starts, one that fails completes with its code and CI passes it; a WR or MCAST in a window is written to
cluster memory and joins its tranche or landing, one outside is refused; tranches fall due and send COMPL; RD_REQs are served, RD_DATA written; a COMPL is
counted and the last completes its WRITE; timeouts, quarantines and memory responses act. -/
def Obligations.BulkTransfers : Prop :=
  ∀ (s : State) (c : Nat), cellOk c = true →
    (∀ (r : Nat) (ws : List W64), r < 4 → (s.ni c).hold = .none → (s.ni c).descs = [] → ((s.ni c).ring r).bad = false →
      ((s.ni c).ring r).fetched = some ws →
      let d := Desc.ofWords (s.ni c).nextId r (((s.ni c).ring r).postedAt ((s.ni c).ring r).next) ((s.ni c).ring r).next ws
      (∀ chip wire, s.checkDesc c d ws = (s, .good chip wire) → d.length ≠ 0 → completes (.descriptorStart c r) s fun t =>
        (t.ni c).descs = [{ d with peerChip := chip, peerWire := wire }] ∧ ((t.ni c).ring r).next = ((s.ni c).ring r).next + 1 ∧
        ((t.ni c).ring r).ci = ((s.ni c).ring r).ci ∧ (t.cell c).cm = (s.cell c).cm ∧ s.onlyCell t c) ∧
      (∀ st re, s.checkDesc c d ws = (s, .bad st re) → st ≠ 0 → completes (.descriptorStart c r) s fun t =>
        (t.ni c).descs = [] ∧ ((t.ni c).ring r).ci = ((s.ni c).ring r).ci + 1 ∧
        (s.cell c).regs.counted (t.cell c).regs NI_BULK_STAT_desc_failed ∧ s.onlyCell t c)) ∧
    (∀ p w, s.receives c .request p → p.type = tWR → (s.ni c).tranches = [] →
      (s.cell c).regs.window p.parterre.toNat p.granule 1 true = some w → completes (.wrEject c) s fun t =>
        (t.cell c).cm = mwriteList (s.cell c).cm ((s.cell c).regs.windowAddr w p.granule) (p.plBytes.take p.length.toNat) ∧
        (∃ x, (t.ni c).tranches = [x] ∧ x.srcChip = p.srcChip ∧ x.srcCell = p.srcCell ∧ x.block = p.granule / 64 ∧ x.count = 1 ∧ x.pend = 1) ∧
        s.onlyCell t c) ∧
    (∀ p, s.receives c .request p → p.type = tWR → (s.cell c).regs.window p.parterre.toNat p.granule 1 true = none → completes (.wrEject c) s fun t =>
      (t.cell c).cm = (s.cell c).cm ∧ (t.rt c).answers = (s.rt c).answers ++ [nackFor p 5 p.granule] ∧
      (s.cell c).regs.counted (t.cell c).regs NI_BULK_STAT_window_fault ∧ s.onlyCell t c) ∧
    (∀ i x, (s.ni c).tranches[i]? = some x → x.joined + s.cget c NI_BULK_CTL_flush_ncyc ≤ s.ncyc → completes (.trancheFlush c i) s fun t =>
      (t.ni c).tranches = (s.ni c).tranches.map (fun k => if k.id = x.id then { k with due := true } else k) ∧ s.onlyCell t c) ∧
    (∀ x, (s.ni c).tranches.find? (fun x => x.due && x.pend == 0 && !x.bad) = some x → (s.ni c).hold = .none → (s.ni c).didNow dCompl s.ncyc = false →
      s.answerFree c = true → completes (.trancheComplSend c) s fun t =>
        (t.rt c).answers = (s.rt c).answers ++ [x.compl s.chipId (BitVec.ofNat 14 c)] ∧ (∀ k ∈ (t.ni c).tranches, k.id ≠ x.id) ∧ s.onlyCell t c) ∧
    (∀ p w, s.receives c .request p → p.type = tRD_REQ → (s.cell c).regs.window p.parterre.toNat p.granule 1 false = some w →
      rdFails p.granule (rdFields p).1 (rdFields p).2.1
        ((s.cell c).regs.get (NI_WIN_A_base.at w) + (s.cell c).regs.get (NI_WIN_A_count_m1.at w) + 1 - p.granule) = none →
      (s.ni c).serves.length < 32 → completes (.rdReqEject c) s fun t =>
        (∃ v, (t.ni c).serves = (s.ni c).serves ++ [v] ∧ v.req = p ∧ v.granule = p.granule ∧ v.land_ = (rdFields p).1 ∧ v.count = (rdFields p).2.1 ∧
          v.taken = 0) ∧ (t.cell c).cm = (s.cell c).cm ∧ s.onlyCell t c) ∧
    (∀ p w tok tk id land_ count got ll gr, s.receives c .reply p → p.type = tRD_DATA →
      (s.cell c).regs.window p.parterre.toNat p.granule 1 true = some w → (s.ni c).readToken (p.srcChip, p.srcCell) p.granule = some (tok, tk) →
      tk.use = .read id land_ count got ll gr → (s.ni c).quarantined p.granule = false →
      p.length.toNat = (if p.granule + 1 = land_ + count then ll else 48) → completes (.rdDataEject c) s fun t =>
        (t.cell c).cm = mwriteList (s.cell c).cm ((s.cell c).regs.windowAddr w p.granule) (p.plBytes.take p.length.toNat) ∧
        (t.ni c).tokens = (s.ni c).tokens ∧ s.onlyCell t c) ∧
    (∀ p d, s.receives c .reply p → p.type = tCOMPL → (s.ni c).descs = [d] → d.op = 1 →
      (s.ni c).tracker (p.srcChip, p.srcCell) p.granule (p.granule + 63) p.cls.toNat = some d →
      (d.confirmed + p.pl 0 2 + d.nacked < d.injected → completes (.complEject c) s fun t =>
        (∃ y, (t.ni c).descs = [y] ∧ y.confirmed = d.confirmed + p.pl 0 2 ∧ y.done = false) ∧ (t.cell c).cm = (s.cell c).cm ∧ s.onlyCell t c) ∧
      (d.done = false → d.n ≤ d.injected → d.injected ≤ d.confirmed + p.pl 0 2 + d.nacked → d.n ≤ d.confirmed + p.pl 0 2 → d.fail = none →
        completes (.complEject c) s fun t =>
          (t.ni c).descs = [] ∧ ((t.ni c).ring d.ring).ci = ((s.ni c).ring d.ring).ci + 1 ∧
          t.cget c NI_BULK_STAT_desc_failed = s.cget c NI_BULK_STAT_desc_failed ∧ s.onlyCell t c)) ∧
    (∀ d t0 us, (s.ni c).descs = [d] → d.done = false → d.tracker = some (t0, us) → expired s.now t0 us = true →
      completes (.trackerTimeout c 0) s fun t =>
        (t.ni c).descs = [] ∧ ((t.ni c).ring d.ring).ci = ((s.ni c).ring d.ring).ci + 1 ∧
        (s.cell c).regs.counted (t.cell c).regs NI_BULK_STAT_desc_failed ∧ s.onlyCell t c) ∧
    (completes (.quarantineExpire c) s fun t =>
      (t.ni c).quarantine = (s.ni c).quarantine.filter (fun q => decide (s.now < q.2.2)) ∧ (t.ni c).tokens = (s.ni c).tokens ∧ s.onlyCell t c) ∧
    (∀ tag q, (s.ni c).cmReqs.find? (fun q => q.tag == tag) = some q →
      (∀ r, q.use = .descriptor r → completes (.clusterMemoryResponse c tag false) s fun t =>
        ((t.ni c).ring r).fetching = false ∧ (t.ni c).cmReqs = dropFirst (fun q => q.tag == tag) (s.ni c).cmReqs ∧
        ((t.ni c).ring r).fetched = some ((List.range 8).map fun i =>
          mreadWord (s.cell c).cm (descAddr (s.cell c).regs r ((s.ni c).ring r).next + 8 * i)) ∧ s.onlyCell t c) ∧
      (∀ id, q.use = .tranche id → completes (.clusterMemoryResponse c tag false) s fun t =>
        (t.ni c).tranches = landTranche (s.ni c).tranches id false ∧ (t.ni c).cmReqs = dropFirst (fun q => q.tag == tag) (s.ni c).cmReqs ∧
        s.onlyCell t c)) ∧
    (∀ p i w, s.receives c .request p → p.type = tMCAST → (s.cell c).regs.mcLanding p = some i → ((s.ni c).mcRt i).done = false →
      p.parterre.toNat = (s.cell c).regs.get (NI_MC_LAND_parterre.at i) →
      (s.cell c).regs.window p.parterre.toNat ((s.cell c).regs.get (NI_MC_LAND_base.at i) + p.seq.toNat) 1 true = some w →
      completes (.mcastEject c) s fun t =>
        (t.cell c).cm = mwriteList (s.cell c).cm ((s.cell c).regs.windowAddr w ((s.cell c).regs.get (NI_MC_LAND_base.at i) + p.seq.toNat))
          (p.plBytes.take p.length.toNat) ∧ ((t.ni c).mcRt i).received = ((s.ni c).mcRt i).received + 1 ∧
        (p.last = 1 → ((t.ni c).mcRt i).expected = p.seq.toNat + 1) ∧ s.onlyCell t c)

/-! ## Memory gateways (R168, R170, R177, R179, R184, R186, R187, R442, R502, R521) -/

/-- Requests and responses at a memory gateway: a WR in a window is written to the stack and joins its tranche, one outside is refused with WINDOW; an
RD_REQ in a window is served from the stack; a read response readies its RD_DATA, in error it refuses; a write response counts toward its COMPL, in
error withholds it; the next RD_DATA is presented at its cell with the gateway's epoch; a stream ring takes its PI and starts a descriptor; the side-band marks a page in error, and a day passes. -/
def Obligations.GatewayRequests : Prop :=
  ∀ (s : State) (g k : Nat), gatewayOk g = true → k < 8 →
    let r := (s.gw g).regs
    (∀ a, (s.gw g).inq.find? (fun a => a.k == k && a.pkt.type == tWR) = some a → a.pkt.crc = a.pkt.crcOf → pktLegal a.pkt a.plane = true →
      (∀ w, r.gwWindow k a.pkt.parterre.toNat a.pkt.granule 1 true = some w → (s.gw g).tranches = [] → completes (.gatewayWr g k) s fun t =>
        (t.gw g).stack = mwriteList (s.gw g).stack (r.gwAddr w a.pkt.granule) (a.pkt.plBytes.take a.pkt.length.toNat) ∧
        (∃ x, (t.gw g).tranches = [x] ∧ x.srcChip = a.pkt.srcChip ∧ x.srcCell = a.pkt.srcCell ∧ x.block = a.pkt.granule / 64 ∧ x.cell = k ∧
          x.count = 1 ∧ x.pend = 1) ∧
        (∃ tag, t.out = s.out ++ [.stackWrite g tag (r.gwAddr w a.pkt.granule)]) ∧ s.onlyGw t g) ∧
      (r.gwWindow k a.pkt.parterre.toNat a.pkt.granule 1 true = none → completes (.gatewayWr g k) s fun t =>
        (t.gw g).stack = (s.gw g).stack ∧ r.counted (t.gw g).regs CHP_MGW_STAT_window_fault ∧ t.out = s.out ∧ s.onlyGw t g ∧
        (t.gw g).answers = (s.gw g).answers ++ (if a.plane = .sched then [] else [(k, nackFor a.pkt 5 a.pkt.granule)]))) ∧
    (∀ a w, (s.gw g).inq.find? (fun a => a.k == k && a.pkt.type == tRD_REQ) = some a → a.pkt.crc = a.pkt.crcOf → pktLegal a.pkt a.plane = true →
      r.gwWindow k a.pkt.parterre.toNat a.pkt.granule 1 false = some w →
      rdFails a.pkt.granule (rdFields a.pkt).1 (rdFields a.pkt).2.1
        (r.get (CHP_MGW_WIN_A_base.at w) + r.get (CHP_MGW_WIN_A_count_m1.at w) + 1 - a.pkt.granule) = none → completes (.gatewayRdReq g k) s fun t =>
        (∃ v, (t.gw g).serves = (s.gw g).serves ++ [v] ∧ v.k = k ∧ v.req = a.pkt ∧ v.count = (rdFields a.pkt).2.1 ∧ v.sent = 0 ∧
          v.addr = r.gwAddr w a.pkt.granule) ∧
        (t.gw g).reqs.length = (s.gw g).reqs.length + (rdFields a.pkt).2.1 ∧ (t.gw g).stack = (s.gw g).stack ∧ s.onlyGw t g) ∧
    (∀ (tag addr id i : Nat) (v : GwServe),
      (s.gw g).reqs = [⟨tag, addr, .read id i⟩] → (s.gw g).tranches = [] → (s.gw g).serves = [v] → v.id = id → v.k = k → v.sent = i →
      v.sent < v.count →
      (completes (.stackReadResponse g tag false) s fun t =>
        (t.gw g).reqs = [] ∧ (t.gw g).stack = (s.gw g).stack ∧ (t.gw g).answers = (s.gw g).answers ∧
        (t.gw g).serves = [{ v with ready := aput v.ready i (BitVec.ofNat 384 (mreadLE (s.gw g).stack addr 48), false) }] ∧ s.onlyGw t g) ∧
      (completes (.stackReadResponse g tag true) s fun t =>
        (t.gw g).serves = [] ∧ r.counted (t.gw g).regs CHP_MGW_STAT_stack_err ∧
        (t.gw g).answers = (s.gw g).answers ++ [(k, nackFor v.req 5 (0x80000000 + (v.granule + i) % 2 ^ 24))] ∧ s.onlyGw t g)) ∧
    (∀ (v : GwServe) (data : BitVec 384), (s.gw g).answers = [] → (s.gw g).serves = [v] → v.k = k → v.sent < v.count →
      aget v.ready v.sent = some (data, false) → s.mayPresent g k .reply = true →
      ∃ pk, ((((s.presentReply g k).rt (gatewayCell g k).1).plane .reply).arr =
          ((s.rt (gatewayCell g k).1).plane .reply).arr ++ [⟨(gatewayCell g k).2, s.ncyc, pk⟩]) ∧
        pk.type = tRD_DATA ∧ pk.dstChip = v.req.srcChip ∧ pk.dstCell = v.req.srcCell ∧ pk.epoch = (s.gw g).epoch ∧
        pk.length = BitVec.ofNat 6 (if v.sent + 1 = v.count then v.lastLen else 48)) ∧
    (∀ (tag addr : Nat) (x : Tranche), (s.gw g).reqs = [⟨tag, addr, .tranche x.id⟩] → (s.gw g).tranches = [x] → x.pend = 1 → x.bad = false →
      (completes (.stackWriteResponse g tag false) s fun t =>
        (t.gw g).tranches = [{ x with pend := 0 }] ∧ (t.gw g).answers = (s.gw g).answers ∧ (t.gw g).reqs = [] ∧ s.onlyGw t g) ∧
      (completes (.stackWriteResponse g tag true) s fun t =>
        (t.gw g).tranches = [] ∧ (t.gw g).answers = (s.gw g).answers ∧ r.counted (t.gw g).regs CHP_MGW_STAT_stack_err ∧ s.onlyGw t g)) ∧
    (∀ x : Tranche, (s.gw g).tranches = [x] → x.pend = 0 → x.bad = false → x.due = true →
      ((s.gwTranches g).gw g).tranches = [] ∧
      ((s.gwTranches g).gw g).answers = (s.gw g).answers ++ [(x.cell, x.compl s.chipId (BitVec.ofNat 14 (gatewayCell g x.cell).1))]) ∧
    (∀ st, streamOk st = true → r.flag (CHP_MGW_STREAM_enable.at st) = true → (s.gw g).hold = false →
      let pi : BitVec 16 := BitVec.ofNat 16 (mreadLE (s.gw g).stack (r.streamBase st) 2)
      let x := (s.gw g).stream st
      let ws := (List.range 8).map fun i => mreadWord (s.gw g).stack (r.streamDesc st x.ci + 8 * i)
      (pi - x.ci).toNat ≤ 2 ^ r.get (CHP_MGW_STREAM_size_log2.at st) →
      (x.cur.isSome = true ∨ pi = x.ci → completes (.gatewayPiPoll g st) s fun t =>
        (t.gw g).stream st = { x with pi := pi } ∧ (t.gw g).stack = (s.gw g).stack ∧ t.out = s.out ∧ s.onlyGw t g) ∧
      (x.cur = none → pi ≠ x.ci → s.streamCheck g st ws = none → completes (.gatewayPiPoll g st) s fun t =>
        ((t.gw g).stream st).cur = some ws ∧ ((t.gw g).stream st).pi = pi ∧ ((t.gw g).stream st).ci = x.ci ∧ ((t.gw g).stream st).sent = 0 ∧
        (t.gw g).stack = (s.gw g).stack ∧ s.onlyGw t g)) ∧
    (∀ (j page : Nat), j = 0 ∨ j = 10 → page < 65536 →
      (completes (.sidebandResponse j page false) s fun t => t.ftn = s.ftn ∧ s.sameUnits t) ∧
      (completes (.sidebandResponse j page true) s fun t =>
        page ∈ (t.cist j).badReads ∧ (∀ i, i = 0 ∨ i = 10 → i ≠ j → t.cist i = s.cist i) ∧ s.sameUnits t)) ∧
    (s.zRuns = true → s.cistOpen = true → s.ftn.dayFrom + 86400 * 1800000000 ≤ s.now → completes .cisternDayTick s fun t =>
      t.ftn.day = s.ftn.day + 1 ∧ t.ftn.dayFrom = s.ftn.dayFrom + 86400 * 1800000000)

/-! ## Reduction (R250 to R254, R263, R304, R305) -/

/-- Reduction at an NI: an accepted contribution opens its range and counts one arrival in each of its units; one that completes a vertex's range leaves it
for emission, a root holds it on a wrong count; an unknown tree is counted; a result is written at its landing; timers of ranges act; the combine test and
the duplicate clear, poison or fence. -/
def Obligations.ReductionAtNi : Prop :=
  ∀ (s : State) (c : Nat), cellOk c = true →
    let r := (s.cell c).regs
    (∀ p j, s.receives c .request p → p.type = tRED →
      (s.contributes c j p → (s.ni c).didNow dRed s.ncyc = false →
        let f := bits (p.pl 38 2) 0 4
        let d := r.redFmt j
        let i := p.seq.toNat * 8 / fmtCount d
        let u0 := p.seq.toNat - i * fmtCount d / 8
        (2 ≤ r.get (NI_RED_TREE_A_children.at j) → completes (.redEject c []) s fun t =>
          ((t.ni c).range j i).st = .open_ ∧ ((t.ni c).range j i).timer = (s.now, r.get (NI_RED_TREE_C_timeout_us.at j)) ∧
          (∀ u, u < fmtCount d / 8 → ∃ x, ((t.ni c).range j i).units[u]? = some x ∧
            x.arrivals = (if u0 ≤ u ∧ u < u0 + fmtCount f / 8 then 1 else 0) ∧
            x.count = (if u0 ≤ u ∧ u < u0 + fmtCount f / 8 then redCount p else 0)) ∧
          t.cget c (NI_BAL_RED_A_acc.at j) = (s.cget c (NI_BAL_RED_A_acc.at j) + redCount p * (fmtCount f / 8)) % 2 ^ (NI_BAL_RED_A_acc.at j).len ∧
          s.onlyCell t c) ∧
        (r.get (NI_RED_TREE_A_children.at j) = 1 → f = d → r.get (NI_RED_TREE_A_role.at j) = 1 → completes (.redEject c []) s fun t =>
          (((t.ni c).range j i).st = .emit ∨ ((t.ni c).range j i).st = .idle) ∧
          (∀ q ∈ ((t.ni c).range j i).outp, q.type = tRED ∧ q.chanTree.toNat = r.get (NI_RED_TREE_A_tree.at j))) ∧
        (r.get (NI_RED_TREE_A_children.at j) = 1 → f = d → 2 ≤ r.get (NI_RED_TREE_A_role.at j) → redCount p ≠ r.get (NI_RED_TREE_B_expected.at j) →
          completes (.redEject c []) s fun t =>
            ((t.ni c).range j i).st = .held ∧ ((t.ni c).range j i).fails.2 = true ∧ r.counted (t.cell c).regs (NI_RED_TSTAT_held.at j) ∧
            s.onlyCell t c)) ∧
      (r.redEntry p.chanTree.toNat = none → (s.ni c).didNow dRed s.ncyc = false → completes (.redEject c []) s fun t =>
        r.counted (t.cell c).regs NI_RED_STAT_red_unknown ∧ (t.ni c).ranges = (s.ni c).ranges ∧ (t.cell c).cm = (s.cell c).cm ∧ s.onlyCell t c)) ∧
    (∀ p, s.receives c .request p → p.type = tRED_RESULT →
      (r.redLanding p.chanTree.toNat = none → completes (.redResultEject c) s fun t =>
        r.counted (t.cell c).regs NI_RED_STAT_res_unclaimed ∧ (t.cell c).cm = (s.cell c).cm ∧ s.onlyCell t c) ∧
      (∀ i w, r.redLanding p.chanTree.toNat = some i → ((s.ni c).redRt i).done = false → p.parterre.toNat = r.get (NI_RED_LAND_parterre.at i) →
        r.window p.parterre.toNat (r.get (NI_RED_LAND_base.at i) + p.seq.toNat) 1 true = some w → completes (.redResultEject c) s fun t =>
          (t.cell c).cm = mwriteList (s.cell c).cm (r.windowAddr w (r.get (NI_RED_LAND_base.at i) + p.seq.toNat)) p.plBytes ∧
          ((t.ni c).redRt i).landed = ((s.ni c).redRt i).landed + fmtCount (bits (p.pl 38 2) 0 4) / 8 ∧
          ((t.ni c).redRt i).pend = ((s.ni c).redRt i).pend + 1 ∧ s.onlyCell t c)) ∧
    (∀ j i, treeOk j = true → rangeOk i = true →
      let g := (s.ni c).range j i
      (g.st = .open_ → g.due s.now = true → (s.cell c).redWaits j i = false →
        (g.units.all (fun u => decide (0 < u.arrivals)) = true → completes (.rangeTimeout c j i) s fun t =>
          ((t.ni c).range j i).st ≠ .open_ ∧ r.counted (t.cell c).regs (NI_RED_TSTAT_timeouts.at j) ∧ s.onlyCell t c) ∧
        (g.units.all (fun u => decide (0 < u.arrivals)) = false → completes (.rangeTimeout c j i) s fun t =>
          ((t.ni c).range j i).st = .shut ∧ r.counted (t.cell c).regs (NI_RED_TSTAT_lost.at j) ∧ s.onlyCell t c)) ∧
      (g.st = .held → g.due s.now = true → completes (.holdTimeout c j i) s fun t =>
        ((t.ni c).range j i).st ≠ .held ∧ (((t.ni c).range j i).st = .emit → ((t.ni c).range j i).fails = g.fails) ∧ s.onlyCell t c) ∧
      (g.st = .shut → g.due s.now = true → completes (.shutTimeout c j i) s fun t =>
        (t.ni c).range j i = RangeRt.idle ∧ s.onlyCell t c)) ∧
    (∀ b, blockOk b = true → (s.block b).regs.flag BLK_RINSE_CTL_comb_test = true → s.now % 2 ^ 20 = 0 → (s.block b).ctlReset = false →
      completes (.combTestTick b) s fun t => (t.block b).combPend = (blockCells b).filter (fun d => cx d % 2 == 0) ∧ s.onlyBlock t b) ∧
    ((s.block (blockOf c)).combPend.contains (pairOf c) = true →
      (∀ w e, completes (.combTestDigest c true w e) s fun t =>
        (t.block (blockOf c)).combPend = removeFrom (s.block (blockOf c)).combPend (pairOf c) ∧ s.onlyBlock t (blockOf c)) ∧
      ((s.reference (pairOf c)).isSome = true → (s.reference (pairOf c + 1)).isSome = true → completes (.combTestDigest c false true true) s fun t =>
        ∀ d, t.fencedCell d = s.fencedCell d) ∧
      (∀ e, s.ctlActs (blockOf c) = true → completes (.combTestDigest c false false e) s fun t => t.fencedCell (pairOf c) = true)) ∧
    (∀ d, (s.ni c).dup = some d →
      (completes (.combDupDigest c true) s fun t => (t.ni c).dup = none ∧ (t.ni c).ranges = (s.ni c).ranges ∧ s.onlyCell t c) ∧
      (((s.ni c).range d.tree d.range).st ≠ .idle → ((s.ni c).range d.tree d.range).st ≠ .shut → completes (.combDupDigest c false) s fun t =>
        (t.ni c).dup = none ∧ (∀ a ∈ ((t.ni c).range d.tree d.range).accs, a.poison = true) ∧ pairOf c ∈ (t.block (blockOf c)).combPend ∧
        (s.block (blockOf c)).regs.counted (t.block (blockOf c)).regs BLK_RINSE_STAT_comb_mismatch) ∧
      (d.since + 16 ≤ s.ncyc → completes (.combDupTimeout c) s fun t => (t.ni c).dup = none ∧ s.onlyCell t c))

/-! ## Observation, rinse and snapshots (R207, R301 to R303, R312, R475 to R483) -/

/-- Telemetry, PC samples and latency samples are recorded; the map cache drops and takes entries; rinse offers a test on the next port, withdraws it in
time, and counts a pass or closes the sluice on a confirmed failure; SNAPSHOT is held and broadcast, units latch at its T, the dump is written. -/
def Obligations.ObservationRinseAndSnapshots : Prop :=
  ∀ (s : State) (c : Nat), cellOk c = true →
    let r := (s.cell c).regs
    (∀ p, s.receives c .reply p → p.type = tTEL →
      (r.flag NI_TEL_RING_enable = true → completes (.telEject c) s fun t =>
        (t.cell c).cm = mwriteList (s.cell c).cm (ring32 (r.get NI_TEL_RING_base) (r.get NI_TEL_RING_size_log2) (s.ni c).telWritten.toNat)
          (p.plBytes.take 32) ∧ (t.ni c).telWritten = (s.ni c).telWritten + 1 ∧ s.onlyCell t c) ∧
      (r.flag NI_TEL_RING_enable = false → completes (.telEject c) s fun t =>
        (t.cell c).cm = (s.cell c).cm ∧ r.counted (t.cell c).regs NI_TEL_STAT_tel_unclaimed ∧ s.onlyCell t c)) ∧
    (∀ k, (s.ni c).hold = .none → (s.block (blockOf c)).power = .run → r.flag NI_PCS_CTL_enable = true → aget (s.ni c).did dPcs = none → (s.ni c).pcs = none →
      r.pcsNext (s.ni c).pcsCore = some k → completes (.pcSampleTick c) s fun t =>
        (∃ m, (t.ni c).pcs = some m ∧ m.core = k ∧ m.since = s.ncyc ∧ m.time = s.time ∧ m.code = (s.stallOf c k).1 ∧
          m.stalled = (s.stallOf c k).2.2) ∧ (t.ni c).pcsCore = (k + 1) % 32 ∧ t.out = s.out ++ [.pcsRequest c k] ∧ s.onlyCell t c) ∧
    (∀ m, (s.ni c).pcs = some m → r.flag NI_PCS_RING_enable = true →
      let a := ring32 (r.get NI_PCS_RING_base) (r.get NI_PCS_RING_size_log2) (s.ni c).pcsWritten.toNat
      (∀ pc, s.ncyc ≤ m.since + 16 → completes (.pcSampleAnswer c pc) s fun t =>
        (t.cell c).cm = mwriteList (s.cell c).cm a (m.bytes pc true) ∧ (t.ni c).pcs = none ∧
        (t.ni c).pcsWritten = (s.ni c).pcsWritten + 1 ∧ s.onlyCell t c) ∧
      (m.since + 16 < s.ncyc → completes (.pcSampleTimeout c) s fun t =>
        (t.cell c).cm = mwriteList (s.cell c).cm a (m.bytes 0 false) ∧ (t.ni c).pcs = none ∧ r.counted (t.cell c).regs NI_PCS_STAT_no_answer ∧
        s.onlyCell t c)) ∧
    (∀ v : W32, completes (.niLatCtlModeWrite c v) s fun t =>
      t.cget c NI_LAT_CTL_mode = (if bits v.toNat 0 2 = 3 then s.cget c NI_LAT_CTL_mode else bits v.toNat 0 2) ∧
      (t.cget c NI_LAT_CTL_mode ≠ s.cget c NI_LAT_CTL_mode → ∀ q, q < 64 → t.cget c (NI_QLAT_S_samples.at q) = 0) ∧
      (t.ni c).latNext = s.ncyc + 2 ^ (8 + bits v.toNat 8 4) ∧ s.onlyCell t c) ∧
    (s.cget c NI_LAT_CTL_mode = 1 → (s.ni c).latNext ≤ s.ncyc → (s.block (blockOf c)).power = .run → completes (.latencySampleTick c) s fun t =>
      (∀ q, q < 64 → r.counted (t.cell c).regs (NI_QLAT_S_samples.at q)) ∧ (t.ni c).latNext = s.ncyc + r.latInterval ∧ s.onlyCell t c) ∧
    (∀ lid, logicalOk lid = true →
      (completes (.niMapCtlInvalOne c lid) s fun t =>
        (t.ni c).mapCache = (s.ni c).mapCache.filter (fun e => e.lid != lid) ∧ s.onlyCell t c) ∧
      ((s.ni c).mapMiss.contains lid = true → (s.ni c).mapCache.length < 128 → completes (.mapCacheFill c lid) s fun t =>
        (t.ni c).mapMiss = (s.ni c).mapMiss.filter (fun l => l != lid) ∧
        (t.ni c).mapCache = (s.ni c).mapCache.filter (fun e => e.lid != lid) ++ [⟨lid, s.mapOf c lid, (s.ni c).nextId⟩] ∧ s.onlyCell t c)) ∧
    (completes (.niMapCtlInvalAll c) s fun t => (t.ni c).mapCache = [] ∧ s.onlyCell t c) ∧
    (∀ (pl : Plane) (p : Nat), s.rinses c pl = true → s.owedRetest c pl = none → aget (s.ni c).did (dRinse pl) = none → s.nextRinse c pl = some p →
      s.rinseRoom c pl p = true → completes (.rinseOffer c pl) s fun t =>
        let pk := s.mntPacket c p (s.block (blockOf c)).rinseT (s.block (blockOf c)).rinseQ
        (pl = .request → (t.ni c).mntReq = some (pk, p, s.ncyc)) ∧ (pl = .reply → (t.ni c).mntRep = some (pk, p, s.ncyc)) ∧
        (pl = .sched → (s.block (blockOf c)).regs.counted (t.block (blockOf c)).regs BLK_RINSE_STAT_sent) ∧
        (t.block (blockOf c)).rinseT = (s.block (blockOf c)).rinseT + 1 ∧ aget (t.block (blockOf c)).rinsePort (rinseKey c pl) = some ((p + 1) % 4)) ∧
    (∀ (pl : Plane) (pk : Packet) (p since : Nat), (if pl = .reply then (s.ni c).mntRep else (s.ni c).mntReq) = some (pk, p, since) →
      since + (s.block (blockOf c)).regs.get BLK_RINSE_CTL_rinse_timeout ≤ s.ncyc → completes (.rinseTimeout c pl) s fun t =>
        (if pl = .reply then (t.ni c).mntRep else (t.ni c).mntReq) = none ∧ s.onlyCell t c) ∧
    (∀ (pl : Plane) (p : Packet) (i d : Nat), s.receives c pl p → p.type = tMNT → s.chip.reopens = [] →
      (List.range 4).find? (fun i => neighbor c i == some p.srcCell.toNat) = some i → neighbor c i = some d → d ≠ c →
      (p.payload = rinsePattern p.chanTree p.seq → completes (.mntEject c) s fun t =>
        (s.block (blockOf c)).regs.counted (t.block (blockOf c)).regs BLK_RINSE_STAT_passed ∧ (∀ e, e ≠ c → t.cell e = s.cell e) ∧
        (aget (s.rt c).sluices i = none → (t.rt c).sluices = (s.rt c).sluices)) ∧
      (p.payload ≠ rinsePattern p.chanTree p.seq →
        ((s.ni c).retest.all (fun e => e.1 != awaitKey i pl) = true → completes (.mntEject c) s fun t =>
          (retestKey (oppPort i) pl, p.chanTree, p.seq) ∈ (t.ni d).retest ∧ (awaitKey i pl, p.chanTree, p.seq) ∈ (t.ni c).retest ∧
          t.blocks = s.blocks) ∧
        ((s.ni c).retest.any (fun e => e.1 == awaitKey i pl && e.2.1 == p.chanTree && e.2.2 == p.seq) = true → completes (.mntEject c) s fun t =>
          ∃ x, aget (t.rt c).sluices i = some x ∧ x.test = false))) ∧
    (∀ m, s.accepts m 0x80 = true → (s.cmdOf m).extLen = 0 →
      ((s.cmdOf m).arg 0 8 = 0 → s.chip.snap = none → completes (.snapshot m) s fun t =>
        t.holds m ∧ t.chip.snap = some ⟨BitVec.ofNat 64 (8 * (s.now + s.bcastLead)), m, BitVec.ofNat 16 ((s.cmdOf m).arg 8 2)⟩ ∧
        (∃ x, (t.rt (s.ctxRoot 0)).rillLocal = (s.rt (s.ctxRoot 0)).rillLocal ++ [x] ∧ x.flit.kind = kBCAST) ∧
        s.onlyCell t (s.ctxRoot 0)) ∧
      ((s.cmdOf m).arg 0 8 ≠ 0 → (s.cmdOf m).arg 0 8 / 8 < s.now + s.bcastLead → completes (.snapshot m) s fun t =>
        t.answers m 0x80 2 16 ∧ t.chip.snap = s.chip.snap ∧ s.sameUnits t)) ∧
    (∀ (u : SnapUnit) (p : Snap) (ecc : Bool), u.wf = true → s.chip.snap = some p → s.snapDue u (p.t.toNat / 8) = true → p.t.toNat / 8 ≤ s.now →
      completes (.freezeLatch u ecc) s fun t =>
        t.snapped (snapKey u) (p.t.toNat / 8) = true ∧
        (∀ d, u = .cell d → t.cget d CELL_SNAP_STAT_valid = 1 ∧ t.cget d CELL_SNAP_STAT_ecc_err = ecc.toNat) ∧ t.blocks = s.blocks ∧
        t.regions = s.regions ∧ t.links = s.links ∧ t.gws = s.gws) ∧
    (∀ (m : Nat) (p : Snap), m < 10 → s.chip.snap = some p → p.mbx = m → (s.mbx m).taken = true → s.zRuns = true → p.t.toNat / 8 < s.now →
      (snapUnits (maskRegions p.mask)).any (fun u => s.snapDue u (p.t.toNat / 8)) = false →
      (∀ j, j < 10 → aget s.chip.mbxWait (kSnapWait j) = none) → completes (.snapshotCollect m) s fun t =>
        t.chip.snap = none ∧ t.answers m (s.cmdOf m).opcode 0 0 ∧
        aget t.ftn.staging m = some (mwriteList ((aget s.ftn.staging m).getD []) 0 (s.dump p)) ∧ s.sameUnits t)

/-! ## The scheduled plane (R102 to R119) -/

/-- The scheduled plane: at a router a packet without an active row is lost and counted, one on the input its row names goes to its output, one on another
input is lost; a source injects its packet in its slot or slips; the period about to start wakes its blocks and is armed or reported; a link's ingress
delivers a packet in its ncyc and drops a late one. -/
def Obligations.ScheduledPlane : Prop :=
  ∀ (s : State),
    (∀ (c : Nat) (es : List (List Ecc)) (x : InFlight), cellOk c = true → es.length = 4 → (s.ni c).didNow dSched s.ncyc = false →
      (s.block (blockOf c)).power = .run → (s.rt c).sched = [x] → x.due + 1 ≤ s.ncyc → x.port < 5 →
      es.getD x.port [] = [] → aget (s.rt c).sluices x.port = none → x.pkt.type ≠ tMNT → x.pkt.type ≠ 0 → x.pkt.type ≠ 15 →
      (s.activeRows c = [] → completes (.schedRouterArrival c es false) s fun t =>
        (t.rt c).sched = [] ∧ (s.cell c).regs.counted (t.cell c).regs CELL_SCHED_CNT_outside_slot ∧ ∀ d, d ≠ c → t.cell d = s.cell d) ∧
      (∀ r, s.activeRows c = [r] →
        (r.inPort ≠ x.port → completes (.schedRouterArrival c es false) s fun t =>
          (t.rt c).sched = [] ∧ (s.cell c).regs.counted (t.cell c).regs CELL_SCHED_CNT_wrong_input ∧ ∀ d, d ≠ c → t.cell d = s.cell d) ∧
        (∀ o d, r.inPort = x.port → (List.range 5).filter (fun o => r.mask.testBit o) = [o] → neighbor c o = some d → d ≠ c →
          s.schedOpen c o x.pkt = true → completes (.schedRouterArrival c es false) s fun t =>
            (t.rt c).sched = [] ∧ (t.rt d).sched = (s.rt d).sched ++ [⟨oppPort o, s.ncyc + 2 + s.linkExtra c o, Packet.regen x.pkt⟩] ∧
            ∀ e, e ≠ c → e ≠ d → t.cell e = s.cell e) ∧
        (r.inPort = x.port → (List.range 5).filter (fun o => r.mask.testBit o) = [4] → completes (.schedRouterArrival c es false) s fun t =>
          (t.ni c).ejected = (s.ni c).ejected ++ [(.sched, x.pkt)] ∧ (t.rt c).sched = [] ∧ ∀ d, d ≠ c → t.cell d = s.cell d))) ∧
    (∀ (c st p q start : Nat), cellOk c = true → s.stopped c = false → s.pos = some (p, q, start) →
      (st < 64 → (s.activeRows c).any (fun r => r.inPort == 4 && r.stream == st) = true → (s.ni c).didNow (300 + st) s.ncyc = false →
        ((aget (s.ni c).slips st).map (·.1)) ≠ some start → (s.ni c).hold = .none →
        let rows := (s.bank.rowsOf c p).filter fun r => r.inPort == 4 && r.stream == st
        (∀ d, s.slotDesc c st = some d → slotsFrom rows (q + 1) ≠ 0 → completes (.schedSlotSource c false st) s fun t =>
          (∃ pk, (t.rt c).sched = (s.rt c).sched ++ [⟨4, s.ncyc - 1, pk⟩] ∧ pk.type = (s.descPacket c d d.injected).type ∧ pk.cls = 0 ∧
            pk.epoch = 0 ∧ pk.age = 0 ∧ pk.payload = (s.descPacket c d d.injected).payload) ∧ s.onlyCell t c) ∧
        (s.slotDesc c st = none → completes (.schedSlotSource c false st) s fun t =>
          (t.rt c).sched = (s.rt c).sched ∧ (aget (t.ni c).slips st).map (·.1) = some start ∧
          (s.cell c).regs.counted (t.cell c).regs NI_SCHED_STAT_slip_events ∧ t.cget c NI_SCHED_STAT_last_stream = st ∧ s.onlyCell t c)) ∧
      (∀ g k port, streamOk st = true → edgeOf c port = some (.gateway g k) → port < 4 →
        (∀ o, o < 4 → o ≠ port → ∀ g' k', edgeOf c o ≠ some (.gateway g' k')) →
        (s.activeRows c).any (fun r => r.inPort == port && r.stream == st) = true → aget (s.gw g).did (1000 + st) ≠ some (s.ncyc + 1) →
        (s.gw g).hold = false → (((s.gw g).stream st).slip.map (·.1)) ≠ some start → ((s.gw g).stream st).idles start = false →
        s.slotGranule g st = false →
        completes (.schedSlotSource c true st) s fun t =>
          (((t.gw g).stream st).slip.map (·.1)) = some start ∧ ((t.gw g).stream st).sent = ((s.gw g).stream st).sent ∧ s.onlyGw t g)) ∧
    (∀ r, regionOk r = true →
      (∀ e ∈ s.ahead (s.chget CHP_SCHED_CTL_wake_lead), completes (.periodWake r) s fun t =>
        (∀ k ∈ regionBlocks r, (s.bankFor e.1).wakes? e.2.1 k = true → (s.block k).power = .doze → (t.block k).exiting = true) ∧
        ((∃ k ∈ regionBlocks r, (s.bankFor e.1).wakes? e.2.1 k = true ∧ (s.block k).power = .sleep) → (t.region r).waking = true) ∧
        t.cells = s.cells) ∧
      (∀ st, s.armTarget = some st → s.chip.flip = none → s.ctxValid 0 = true → s.zRuns = true →
        (∀ c ∈ regionCells r, s.stopped c = false → ((s.rt c).ctxRt 0).localDone = false) →
        completes (.periodArmReport r) s fun t =>
          t.chip.arming = some st ∧ (∀ c ∈ regionCells r, s.stopped c = false → ((t.rt c).ctxRt 0).localDone = true) ∧ t.blocks = s.blocks ∧
          t.regions = s.regions ∧ t.links = s.links ∧ t.gws = s.gws)) ∧
    (∀ (n : Nat) (x : Ingress), linkOk n = true → (s.link n).ingSched = [x] →
      (x.at_ = s.now → completes (.schedIngressDeliver n) s fun t =>
        (t.link n).ingSched = [] ∧ (t.rt (linkCell n x.half).1).sched =
          (s.rt (linkCell n x.half).1).sched ++ [⟨(linkCell n x.half).2, s.ncyc - 1, x.pkt⟩]) ∧
      (x.at_ < s.now → completes (.schedIngressDeliver n) s fun t =>
        (t.link n).ingSched = [] ∧ (s.link n).regs.counted (t.link n).regs LNK_SCHED_late_drop ∧ s.onlyLink t n))

/-! ## The rill network, fault records and watchdogs (R274 to R278, R280, R296, R297, R300, R306, R314) -/

/-- A rill flit in error is lost and counted, a malformed one too; one whose output is free goes to its router's units or to the neighbour. A waiting
fault record goes out; a FAULT flit is forwarded, or Zhevber acts on it; RESET and SLUICE flits act on their unit; a window's end clears the counts; a
second missed poll fences a block or starts a region's reset. -/
def Obligations.RillNetAndFaultFlits : Prop :=
  ∀ (s : State),
    (∀ (c inp vc : Nat) (x : RillFlit), cellOk c = true → inp < 6 → vc < 4 → s.rillStopped (blockOf c) = false → s.rillHead c inp vc = some x →
      (inp ≠ 4 → completes (.rillFlitDecode c inp vc .double .none false) s fun t => (s.cell c).regs.counted (t.cell c).regs CELL_RILL_CNT_uncorr ∧
        (t.rt c).rillIn = dropFirst (fun y => y == x) (s.rt c).rillIn ++ [⟨4, s.ncyc, rillNotice c inp⟩] ∧ s.onlyCell t c) ∧
      (s.rillWant c x = .bad → completes (.rillFlitDecode c inp vc .none .none false) s fun t =>
        (t.rt c).rillIn = dropFirst (fun y => y == x) (s.rt c).rillIn ∧
        (s.cell c).regs.counted (t.cell c).regs CELL_RILL_CNT_malformed ∧ s.onlyCell t c) ∧
      (s.rillWant c x = .local_ → s.rillCan c inp x.flit .local_ = true → s.rillTurn c inp vc .local_ = true → x.flit.kind ≠ kCMSG → x.flit.kind ≠ kCNACK →
        completes (.rillFlitDecode c inp vc .none .none false) s fun t =>
          (t.rt c).rillLocal = (s.rt c).rillLocal ++ [⟨inp, s.ncyc, x.flit⟩] ∧
          (t.rt c).rillIn = dropFirst (fun y => y == x) (s.rt c).rillIn ∧ s.onlyCell t c) ∧
      (∀ p d, s.rillWant c x = .mesh p → neighbor c p = some d → d ≠ c → s.rillCan c inp x.flit (.mesh p) = true →
        s.rillTurn c inp vc (.mesh p) = true → completes (.rillFlitDecode c inp vc .none .none false) s fun t =>
          (t.rt d).rillIn = (s.rt d).rillIn ++
            [⟨oppPort p, s.ncyc + 1 + s.linkExtra c p + (if regionCross c d then 4 else 0), x.flit⟩] ∧
          (t.rt c).rillIn = dropFirst (fun y => y == x) (s.rt c).rillIn ∧ s.onlyLinkEnds t c p) ∧
      (∀ p, s.rillWant c x = .mesh p → s.rillCan c inp x.flit (.mesh p) = false → completes (.rillFlitDecode c inp vc .none .none false) s fun t => s.sameUnits t)) ∧
    (∀ (u : Nat) (f : FaultRec),
      (blockOk u = true → (s.block u).waiting = some f → (∀ t0, (s.block u).lastSend = some t0 → t0 + 16 ≤ s.ncyc) → (s.block u).ctlReset = false →
        s.rillStopped u = false → completes (.recordSendingNcyc false u) s fun t =>
          (t.block u).waiting = none ∧ (t.block u).lastSend = some s.ncyc ∧
          (t.rt (bcCell u)).rillIn = (s.rt (bcCell u)).rillIn ++ [⟨rkBlock, s.ncyc, faultFlit (bcCell u) (rmCell (blockRegion u)) f⟩] ∧
          (∀ d, d ≠ bcCell u → t.cell d = s.cell d) ∧ t.regions = s.regions) ∧
      (regionOk u = true → (s.region u).waiting = some f → (∀ t0, (s.region u).lastSend = some t0 → t0 + 16 ≤ s.ncyc) → s.ctxValid 0 = true →
        completes (.recordSendingNcyc true u) s fun t =>
          (t.region u).waiting = none ∧ (t.region u).lastSend = some s.ncyc ∧
          (t.rt (rmCell u)).rillIn = (s.rt (rmCell u)).rillIn ++ [⟨rkRegion, s.ncyc, faultFlit (rmCell u) s.cornerRoot f⟩] ∧
          (∀ d, d ≠ rmCell u → t.cell d = s.cell d) ∧ t.blocks = s.blocks)) ∧
    (∀ (c : Nat) (x : RillFlit), cellOk c = true → s.localFlit c (fun y => y.flit.kind == kFAULT) = some x →
      ((FaultRec.ofWord x.flit.payload).level = 0 → (FaultRec.ofWord x.flit.payload).unit.toNat = c →
        (∀ p, (FaultRec.ofWord x.flit.payload).port.toNat = p → p < 4 → (neighbor c p).isSome = true → completes (.fault c) s fun t =>
          (t.block (blockOf c)).count (countKey c p 1 3) = (s.block (blockOf c)).count (countKey c p 1 3) + 1)) ∧
      ((FaultRec.ofWord x.flit.payload).level ≠ 0 → c = rmCell (regionOf c) → s.ctxValid 0 = true → completes (.fault c) s fun t =>
        (t.rt c).rillIn = (s.rt c).rillIn ++ [⟨rkRegion, s.ncyc, faultFlit c s.cornerRoot (FaultRec.ofWord x.flit.payload)⟩] ∧
        (t.rt c).rillLocal = dropFirst (fun y => y == x) (s.rt c).rillLocal ∧ s.onlyCell t c) ∧
      ((FaultRec.ofWord x.flit.payload).level ≠ 0 → c ≠ rmCell (regionOf c) → c = s.cornerRoot → s.zRuns = true → s.chip.routed = true → (FaultRec.ofWord x.flit.payload).action = 1 →
        completes (.fault c) s fun t =>
          (t.rt c).rillLocal = dropFirst (fun y => y == x) (s.rt c).rillLocal ∧
          ((FaultRec.ofWord x.flit.payload).cls = 8 → t.chip.rillGen = s.chip.rillGen + 1 ∧ t.chip.flipReqs = s.chip.flipReqs ∧
            (∀ d, t.ni d = s.ni d) ∧ t.blocks = s.blocks) ∧
          ((FaultRec.ofWord x.flit.payload).cls ≠ 8 → t.chip.flipReqs = s.chip.flipReqs ++ [.reroute] ∧ t.chip.rillGen = s.chip.rillGen ∧
            s.onlyCell t c))) ∧
    (∀ (c : Nat) (x : RillFlit), cellOk c = true → s.localFlit c (fun y => y.flit.kind == kRESET) = some x → completes (.resetFlit c) s fun t =>
      (x.flit.aux.toNat = 1 → (t.ni c).hold = .ni ∧ ∀ d, d ≠ c → t.cell d = s.cell d) ∧
      (x.flit.aux.toNat = 2 → (t.ni c).hold = .cell ∧ ∀ d, d ≠ c → t.cell d = s.cell d) ∧
      (x.flit.aux.toNat = 3 → (t.block (blockOf c)).ctlReset = true ∧ ∀ d ∈ blockCells (blockOf c), (t.ni d).hold = .cell) ∧
      (x.flit.aux.toNat = 4 → ∀ b ∈ regionBlocks (regionOf c), ∀ d ∈ blockCells b, (t.ni d).hold = .region) ∧
      (x.flit.aux.toNat = 5 → (t.region (regionOf c)).hard = true ∧ t.blocks = s.blocks)) ∧
    (∀ (c p : Nat) (x : RillFlit), cellOk c = true → p < 4 → s.localFlit c (fun y => y.flit.kind == kSLUICE) = some x →
      (neighbor c p).isSome = true → completes (.sluiceFlit c) s fun t =>
        (x.flit.payload.toNat.testBit p = true →
          (bits x.flit.payload.toNat 4 2 = 0 → aget (t.rt c).sluices p = none) ∧
          (bits x.flit.payload.toNat 4 2 = 1 → ∃ y, aget (t.rt c).sluices p = some y ∧ y.test = false) ∧
          (bits x.flit.payload.toNat 4 2 = 2 → ∃ y, aget (t.rt c).sluices p = some y ∧ y.test = true)) ∧
        (x.flit.payload.toNat.testBit p = false → aget (t.rt c).sluices p = aget (s.rt c).sluices p) ∧ s.onlyCell t c) ∧
    (∀ b, blockOk b = true → s.now % 2 ^ (16 + (s.block b).regs.get BLK_FAULT_CTL_window_log2) = 0 → completes (.faultWindowRoll b) s fun t =>
      (t.block b).counts = [] ∧ (∀ n, n < 48 → blockOf (linkCell n 0).1 = b → (t.link n).xlate = 0) ∧ t.cells = s.cells ∧ t.regions = s.regions) ∧
    (∀ u, regionOk u = true → s.pollDue u (s.region u).polled = true →
      (completes (.watchdogPoll true u true) s fun t => (t.region u).missed = 0 ∧ s.onlyRegion t u) ∧
      ((s.region u).missed = 1 → completes (.watchdogPoll true u false) s fun t => (t.region u).hard = true ∧ t.cells = s.cells ∧ t.blocks = s.blocks)) ∧
    (∀ u, blockOk u = true → (s.block u).power ≠ .off → s.pollDue (blockRegion u) (s.block u).polled = true →
      (completes (.watchdogPoll false u true) s fun t => (t.block u).missed = 0 ∧ s.onlyBlock t u) ∧
      ((s.block u).missed = 1 → completes (.watchdogPoll false u false) s fun t =>
        (t.block u).fenced = true ∧ (t.block u).ctlReset = true ∧ ∀ c ∈ blockCells u, (t.ni c).hold = .cell))

/-! ## Encodings, runs and the invariant -/

/-- The header of a packet, the word of a fault record and the NI-owned fields of a channel entry read back as they were written: no bit of the layouts
is dropped and no two fields share one. -/
def Obligations.WireFormsReadBack : Prop :=
  (∀ p : Packet, Packet.ofHeader (Packet.header p) p.payload p.check = p) ∧
  (∀ (h : BitVec 128) (pl : BitVec 384) (ck : BitVec 64), Packet.header (Packet.ofHeader h pl ck) = h) ∧
  (∀ r : FaultRec, FaultRec.ofWord r.word = r) ∧
  (∀ (e : ChanEntry) (m : Mem) (a : Nat), Memory.wf m = true →
    ChanEntry.load (e.writeBack m a) a =
      { ChanEntry.load m a with
        txSeq := e.txSeq, rxExpect := e.rxExpect, nackRun := e.nackRun, peerPhys := e.peerPhys, resolved := e.resolved, credit := e.credit,
        finish := e.finish, upd := e.upd, mult := e.mult, cutSkip := e.cutSkip })

/-- A queue of commands that name units of the die runs to its end, one command a step in its order, with no fault and no refusal; one that names a unit
the die has not is where the run stops, refused by name. The integrator's parameters stay throughout (the stop is the model's choice, log 9). -/
def Obligations.QueueRunsInOrder : Prop :=
  (∀ s : State, (∀ i ∈ s.pending, i.wf = true) →
    ∃ t, runsTo s.pending.length s t ∧ t.pending = [] ∧ t.chip.integ = s.chip.integ) ∧
  (∀ (s : State) (l r : List Instr) (i : Instr), s.pending = l ++ i :: r → (∀ j ∈ l, j.wf = true) → i.wf = false →
    ∃ t, runsTo l.length s t ∧ t.pending = i :: r ∧ step t = .refused .noSuchUnit)

/-- Every step keeps every memory of the block in canonical form: cluster memories, stacks, the image area and the staging buffers. -/
def Obligations.StepKeepsMemoriesCanonical : Prop :=
  ∀ s t : State, s.memWf = true → step s = .next t → t.memWf = true
end

