-- ==== Sys2Proof/Laws/State.lean ====
section
/-! SUPPORT. One lemma per field of State and update of it, each true by unfolding, so that no later proof unfolds an update. -/

namespace Sys2Proof.Machine

variable (s : State)

/-! ## modCell -/

@[simp] theorem State.modCell_pending (c : Nat) (f : Cell → Cell) : (s.modCell c f).pending = s.pending := rfl
@[simp] theorem State.modCell_free (c : Nat) (f : Cell → Cell) : (s.modCell c f).free = s.free := rfl
@[simp] theorem State.modCell_out (c : Nat) (f : Cell → Cell) : (s.modCell c f).out = s.out := rfl
@[simp] theorem State.modCell_time (c : Nat) (f : Cell → Cell) : (s.modCell c f).time = s.time := rfl
@[simp] theorem State.modCell_ncyc (c : Nat) (f : Cell → Cell) : (s.modCell c f).ncyc = s.ncyc := rfl
@[simp] theorem State.modCell_por (c : Nat) (f : Cell → Cell) : (s.modCell c f).por = s.por := rfl
@[simp] theorem State.modCell_chip (c : Nat) (f : Cell → Cell) : (s.modCell c f).chip = s.chip := rfl
@[simp] theorem State.modCell_cells (c : Nat) (f : Cell → Cell) : (s.modCell c f).cells = s.cells.mod c f := rfl
@[simp] theorem State.modCell_blocks (c : Nat) (f : Cell → Cell) : (s.modCell c f).blocks = s.blocks := rfl
@[simp] theorem State.modCell_regions (c : Nat) (f : Cell → Cell) : (s.modCell c f).regions = s.regions := rfl
@[simp] theorem State.modCell_links (c : Nat) (f : Cell → Cell) : (s.modCell c f).links = s.links := rfl
@[simp] theorem State.modCell_gws (c : Nat) (f : Cell → Cell) : (s.modCell c f).gws = s.gws := rfl
@[simp] theorem State.modCell_ftn (c : Nat) (f : Cell → Cell) : (s.modCell c f).ftn = s.ftn := rfl
@[simp] theorem State.modCell_portHost (c : Nat) (f : Cell → Cell) : (s.modCell c f).portHost = s.portHost := rfl
@[simp] theorem State.modCell_portMgmt (c : Nat) (f : Cell → Cell) : (s.modCell c f).portMgmt = s.portMgmt := rfl
@[simp] theorem State.modCell_portZhev (c : Nat) (f : Cell → Cell) : (s.modCell c f).portZhev = s.portZhev := rfl

/-! ## modBlock -/

@[simp] theorem State.modBlock_pending (b : Nat) (f : Block → Block) : (s.modBlock b f).pending = s.pending := rfl
@[simp] theorem State.modBlock_free (b : Nat) (f : Block → Block) : (s.modBlock b f).free = s.free := rfl
@[simp] theorem State.modBlock_out (b : Nat) (f : Block → Block) : (s.modBlock b f).out = s.out := rfl
@[simp] theorem State.modBlock_time (b : Nat) (f : Block → Block) : (s.modBlock b f).time = s.time := rfl
@[simp] theorem State.modBlock_ncyc (b : Nat) (f : Block → Block) : (s.modBlock b f).ncyc = s.ncyc := rfl
@[simp] theorem State.modBlock_por (b : Nat) (f : Block → Block) : (s.modBlock b f).por = s.por := rfl
@[simp] theorem State.modBlock_chip (b : Nat) (f : Block → Block) : (s.modBlock b f).chip = s.chip := rfl
@[simp] theorem State.modBlock_cells (b : Nat) (f : Block → Block) : (s.modBlock b f).cells = s.cells := rfl
@[simp] theorem State.modBlock_blocks (b : Nat) (f : Block → Block) : (s.modBlock b f).blocks = s.blocks.mod b f := rfl
@[simp] theorem State.modBlock_regions (b : Nat) (f : Block → Block) : (s.modBlock b f).regions = s.regions := rfl
@[simp] theorem State.modBlock_links (b : Nat) (f : Block → Block) : (s.modBlock b f).links = s.links := rfl
@[simp] theorem State.modBlock_gws (b : Nat) (f : Block → Block) : (s.modBlock b f).gws = s.gws := rfl
@[simp] theorem State.modBlock_ftn (b : Nat) (f : Block → Block) : (s.modBlock b f).ftn = s.ftn := rfl
@[simp] theorem State.modBlock_portHost (b : Nat) (f : Block → Block) : (s.modBlock b f).portHost = s.portHost := rfl
@[simp] theorem State.modBlock_portMgmt (b : Nat) (f : Block → Block) : (s.modBlock b f).portMgmt = s.portMgmt := rfl
@[simp] theorem State.modBlock_portZhev (b : Nat) (f : Block → Block) : (s.modBlock b f).portZhev = s.portZhev := rfl

/-! ## modRegion -/

@[simp] theorem State.modRegion_pending (r : Nat) (f : Region → Region) : (s.modRegion r f).pending = s.pending := rfl
@[simp] theorem State.modRegion_free (r : Nat) (f : Region → Region) : (s.modRegion r f).free = s.free := rfl
@[simp] theorem State.modRegion_out (r : Nat) (f : Region → Region) : (s.modRegion r f).out = s.out := rfl
@[simp] theorem State.modRegion_time (r : Nat) (f : Region → Region) : (s.modRegion r f).time = s.time := rfl
@[simp] theorem State.modRegion_ncyc (r : Nat) (f : Region → Region) : (s.modRegion r f).ncyc = s.ncyc := rfl
@[simp] theorem State.modRegion_por (r : Nat) (f : Region → Region) : (s.modRegion r f).por = s.por := rfl
@[simp] theorem State.modRegion_chip (r : Nat) (f : Region → Region) : (s.modRegion r f).chip = s.chip := rfl
@[simp] theorem State.modRegion_cells (r : Nat) (f : Region → Region) : (s.modRegion r f).cells = s.cells := rfl
@[simp] theorem State.modRegion_blocks (r : Nat) (f : Region → Region) : (s.modRegion r f).blocks = s.blocks := rfl
@[simp] theorem State.modRegion_regions (r : Nat) (f : Region → Region) : (s.modRegion r f).regions = s.regions.mod r f := rfl
@[simp] theorem State.modRegion_links (r : Nat) (f : Region → Region) : (s.modRegion r f).links = s.links := rfl
@[simp] theorem State.modRegion_gws (r : Nat) (f : Region → Region) : (s.modRegion r f).gws = s.gws := rfl
@[simp] theorem State.modRegion_ftn (r : Nat) (f : Region → Region) : (s.modRegion r f).ftn = s.ftn := rfl
@[simp] theorem State.modRegion_portHost (r : Nat) (f : Region → Region) : (s.modRegion r f).portHost = s.portHost := rfl
@[simp] theorem State.modRegion_portMgmt (r : Nat) (f : Region → Region) : (s.modRegion r f).portMgmt = s.portMgmt := rfl
@[simp] theorem State.modRegion_portZhev (r : Nat) (f : Region → Region) : (s.modRegion r f).portZhev = s.portZhev := rfl

/-! ## modLink -/

@[simp] theorem State.modLink_pending (n : Nat) (f : Link → Link) : (s.modLink n f).pending = s.pending := rfl
@[simp] theorem State.modLink_free (n : Nat) (f : Link → Link) : (s.modLink n f).free = s.free := rfl
@[simp] theorem State.modLink_out (n : Nat) (f : Link → Link) : (s.modLink n f).out = s.out := rfl
@[simp] theorem State.modLink_time (n : Nat) (f : Link → Link) : (s.modLink n f).time = s.time := rfl
@[simp] theorem State.modLink_ncyc (n : Nat) (f : Link → Link) : (s.modLink n f).ncyc = s.ncyc := rfl
@[simp] theorem State.modLink_por (n : Nat) (f : Link → Link) : (s.modLink n f).por = s.por := rfl
@[simp] theorem State.modLink_chip (n : Nat) (f : Link → Link) : (s.modLink n f).chip = s.chip := rfl
@[simp] theorem State.modLink_cells (n : Nat) (f : Link → Link) : (s.modLink n f).cells = s.cells := rfl
@[simp] theorem State.modLink_blocks (n : Nat) (f : Link → Link) : (s.modLink n f).blocks = s.blocks := rfl
@[simp] theorem State.modLink_regions (n : Nat) (f : Link → Link) : (s.modLink n f).regions = s.regions := rfl
@[simp] theorem State.modLink_links (n : Nat) (f : Link → Link) : (s.modLink n f).links = s.links.mod n f := rfl
@[simp] theorem State.modLink_gws (n : Nat) (f : Link → Link) : (s.modLink n f).gws = s.gws := rfl
@[simp] theorem State.modLink_ftn (n : Nat) (f : Link → Link) : (s.modLink n f).ftn = s.ftn := rfl
@[simp] theorem State.modLink_portHost (n : Nat) (f : Link → Link) : (s.modLink n f).portHost = s.portHost := rfl
@[simp] theorem State.modLink_portMgmt (n : Nat) (f : Link → Link) : (s.modLink n f).portMgmt = s.portMgmt := rfl
@[simp] theorem State.modLink_portZhev (n : Nat) (f : Link → Link) : (s.modLink n f).portZhev = s.portZhev := rfl

/-! ## modGw -/

@[simp] theorem State.modGw_pending (g : Nat) (f : Gateway → Gateway) : (s.modGw g f).pending = s.pending := rfl
@[simp] theorem State.modGw_free (g : Nat) (f : Gateway → Gateway) : (s.modGw g f).free = s.free := rfl
@[simp] theorem State.modGw_out (g : Nat) (f : Gateway → Gateway) : (s.modGw g f).out = s.out := rfl
@[simp] theorem State.modGw_time (g : Nat) (f : Gateway → Gateway) : (s.modGw g f).time = s.time := rfl
@[simp] theorem State.modGw_ncyc (g : Nat) (f : Gateway → Gateway) : (s.modGw g f).ncyc = s.ncyc := rfl
@[simp] theorem State.modGw_por (g : Nat) (f : Gateway → Gateway) : (s.modGw g f).por = s.por := rfl
@[simp] theorem State.modGw_chip (g : Nat) (f : Gateway → Gateway) : (s.modGw g f).chip = s.chip := rfl
@[simp] theorem State.modGw_cells (g : Nat) (f : Gateway → Gateway) : (s.modGw g f).cells = s.cells := rfl
@[simp] theorem State.modGw_blocks (g : Nat) (f : Gateway → Gateway) : (s.modGw g f).blocks = s.blocks := rfl
@[simp] theorem State.modGw_regions (g : Nat) (f : Gateway → Gateway) : (s.modGw g f).regions = s.regions := rfl
@[simp] theorem State.modGw_links (g : Nat) (f : Gateway → Gateway) : (s.modGw g f).links = s.links := rfl
@[simp] theorem State.modGw_gws (g : Nat) (f : Gateway → Gateway) : (s.modGw g f).gws = s.gws.mod g f := rfl
@[simp] theorem State.modGw_ftn (g : Nat) (f : Gateway → Gateway) : (s.modGw g f).ftn = s.ftn := rfl
@[simp] theorem State.modGw_portHost (g : Nat) (f : Gateway → Gateway) : (s.modGw g f).portHost = s.portHost := rfl
@[simp] theorem State.modGw_portMgmt (g : Nat) (f : Gateway → Gateway) : (s.modGw g f).portMgmt = s.portMgmt := rfl
@[simp] theorem State.modGw_portZhev (g : Nat) (f : Gateway → Gateway) : (s.modGw g f).portZhev = s.portZhev := rfl

/-! ## modChip -/

@[simp] theorem State.modChip_pending (f : Chip → Chip) : (s.modChip f).pending = s.pending := rfl
@[simp] theorem State.modChip_free (f : Chip → Chip) : (s.modChip f).free = s.free := rfl
@[simp] theorem State.modChip_out (f : Chip → Chip) : (s.modChip f).out = s.out := rfl
@[simp] theorem State.modChip_time (f : Chip → Chip) : (s.modChip f).time = s.time := rfl
@[simp] theorem State.modChip_ncyc (f : Chip → Chip) : (s.modChip f).ncyc = s.ncyc := rfl
@[simp] theorem State.modChip_por (f : Chip → Chip) : (s.modChip f).por = s.por := rfl
@[simp] theorem State.modChip_chip (f : Chip → Chip) : (s.modChip f).chip = f s.chip := rfl
@[simp] theorem State.modChip_cells (f : Chip → Chip) : (s.modChip f).cells = s.cells := rfl
@[simp] theorem State.modChip_blocks (f : Chip → Chip) : (s.modChip f).blocks = s.blocks := rfl
@[simp] theorem State.modChip_regions (f : Chip → Chip) : (s.modChip f).regions = s.regions := rfl
@[simp] theorem State.modChip_links (f : Chip → Chip) : (s.modChip f).links = s.links := rfl
@[simp] theorem State.modChip_gws (f : Chip → Chip) : (s.modChip f).gws = s.gws := rfl
@[simp] theorem State.modChip_ftn (f : Chip → Chip) : (s.modChip f).ftn = s.ftn := rfl
@[simp] theorem State.modChip_portHost (f : Chip → Chip) : (s.modChip f).portHost = s.portHost := rfl
@[simp] theorem State.modChip_portMgmt (f : Chip → Chip) : (s.modChip f).portMgmt = s.portMgmt := rfl
@[simp] theorem State.modChip_portZhev (f : Chip → Chip) : (s.modChip f).portZhev = s.portZhev := rfl

/-! ## modFtn -/

@[simp] theorem State.modFtn_pending (f : Ftn → Ftn) : (s.modFtn f).pending = s.pending := rfl
@[simp] theorem State.modFtn_free (f : Ftn → Ftn) : (s.modFtn f).free = s.free := rfl
@[simp] theorem State.modFtn_out (f : Ftn → Ftn) : (s.modFtn f).out = s.out := rfl
@[simp] theorem State.modFtn_time (f : Ftn → Ftn) : (s.modFtn f).time = s.time := rfl
@[simp] theorem State.modFtn_ncyc (f : Ftn → Ftn) : (s.modFtn f).ncyc = s.ncyc := rfl
@[simp] theorem State.modFtn_por (f : Ftn → Ftn) : (s.modFtn f).por = s.por := rfl
@[simp] theorem State.modFtn_chip (f : Ftn → Ftn) : (s.modFtn f).chip = s.chip := rfl
@[simp] theorem State.modFtn_cells (f : Ftn → Ftn) : (s.modFtn f).cells = s.cells := rfl
@[simp] theorem State.modFtn_blocks (f : Ftn → Ftn) : (s.modFtn f).blocks = s.blocks := rfl
@[simp] theorem State.modFtn_regions (f : Ftn → Ftn) : (s.modFtn f).regions = s.regions := rfl
@[simp] theorem State.modFtn_links (f : Ftn → Ftn) : (s.modFtn f).links = s.links := rfl
@[simp] theorem State.modFtn_gws (f : Ftn → Ftn) : (s.modFtn f).gws = s.gws := rfl
@[simp] theorem State.modFtn_ftn (f : Ftn → Ftn) : (s.modFtn f).ftn = f s.ftn := rfl
@[simp] theorem State.modFtn_portHost (f : Ftn → Ftn) : (s.modFtn f).portHost = s.portHost := rfl
@[simp] theorem State.modFtn_portMgmt (f : Ftn → Ftn) : (s.modFtn f).portMgmt = s.portMgmt := rfl
@[simp] theorem State.modFtn_portZhev (f : Ftn → Ftn) : (s.modFtn f).portZhev = s.portZhev := rfl

/-! ## modRt -/

@[simp] theorem State.modRt_pending (c : Nat) (f : Router → Router) : (s.modRt c f).pending = s.pending := rfl
@[simp] theorem State.modRt_free (c : Nat) (f : Router → Router) : (s.modRt c f).free = s.free := rfl
@[simp] theorem State.modRt_out (c : Nat) (f : Router → Router) : (s.modRt c f).out = s.out := rfl
@[simp] theorem State.modRt_time (c : Nat) (f : Router → Router) : (s.modRt c f).time = s.time := rfl
@[simp] theorem State.modRt_ncyc (c : Nat) (f : Router → Router) : (s.modRt c f).ncyc = s.ncyc := rfl
@[simp] theorem State.modRt_por (c : Nat) (f : Router → Router) : (s.modRt c f).por = s.por := rfl
@[simp] theorem State.modRt_chip (c : Nat) (f : Router → Router) : (s.modRt c f).chip = s.chip := rfl
@[simp] theorem State.modRt_blocks (c : Nat) (f : Router → Router) : (s.modRt c f).blocks = s.blocks := rfl
@[simp] theorem State.modRt_regions (c : Nat) (f : Router → Router) : (s.modRt c f).regions = s.regions := rfl
@[simp] theorem State.modRt_links (c : Nat) (f : Router → Router) : (s.modRt c f).links = s.links := rfl
@[simp] theorem State.modRt_gws (c : Nat) (f : Router → Router) : (s.modRt c f).gws = s.gws := rfl
@[simp] theorem State.modRt_ftn (c : Nat) (f : Router → Router) : (s.modRt c f).ftn = s.ftn := rfl
@[simp] theorem State.modRt_portHost (c : Nat) (f : Router → Router) : (s.modRt c f).portHost = s.portHost := rfl
@[simp] theorem State.modRt_portMgmt (c : Nat) (f : Router → Router) : (s.modRt c f).portMgmt = s.portMgmt := rfl
@[simp] theorem State.modRt_portZhev (c : Nat) (f : Router → Router) : (s.modRt c f).portZhev = s.portZhev := rfl

/-! ## modNi -/

@[simp] theorem State.modNi_pending (c : Nat) (f : Ni → Ni) : (s.modNi c f).pending = s.pending := rfl
@[simp] theorem State.modNi_free (c : Nat) (f : Ni → Ni) : (s.modNi c f).free = s.free := rfl
@[simp] theorem State.modNi_out (c : Nat) (f : Ni → Ni) : (s.modNi c f).out = s.out := rfl
@[simp] theorem State.modNi_time (c : Nat) (f : Ni → Ni) : (s.modNi c f).time = s.time := rfl
@[simp] theorem State.modNi_ncyc (c : Nat) (f : Ni → Ni) : (s.modNi c f).ncyc = s.ncyc := rfl
@[simp] theorem State.modNi_por (c : Nat) (f : Ni → Ni) : (s.modNi c f).por = s.por := rfl
@[simp] theorem State.modNi_chip (c : Nat) (f : Ni → Ni) : (s.modNi c f).chip = s.chip := rfl
@[simp] theorem State.modNi_blocks (c : Nat) (f : Ni → Ni) : (s.modNi c f).blocks = s.blocks := rfl
@[simp] theorem State.modNi_regions (c : Nat) (f : Ni → Ni) : (s.modNi c f).regions = s.regions := rfl
@[simp] theorem State.modNi_links (c : Nat) (f : Ni → Ni) : (s.modNi c f).links = s.links := rfl
@[simp] theorem State.modNi_gws (c : Nat) (f : Ni → Ni) : (s.modNi c f).gws = s.gws := rfl
@[simp] theorem State.modNi_ftn (c : Nat) (f : Ni → Ni) : (s.modNi c f).ftn = s.ftn := rfl
@[simp] theorem State.modNi_portHost (c : Nat) (f : Ni → Ni) : (s.modNi c f).portHost = s.portHost := rfl
@[simp] theorem State.modNi_portMgmt (c : Nat) (f : Ni → Ni) : (s.modNi c f).portMgmt = s.portMgmt := rfl
@[simp] theorem State.modNi_portZhev (c : Nat) (f : Ni → Ni) : (s.modNi c f).portZhev = s.portZhev := rfl

/-! ## modCellRegs -/

@[simp] theorem State.modCellRegs_pending (c : Nat) (f : Regs → Regs) : (s.modCellRegs c f).pending = s.pending := rfl
@[simp] theorem State.modCellRegs_free (c : Nat) (f : Regs → Regs) : (s.modCellRegs c f).free = s.free := rfl
@[simp] theorem State.modCellRegs_out (c : Nat) (f : Regs → Regs) : (s.modCellRegs c f).out = s.out := rfl
@[simp] theorem State.modCellRegs_time (c : Nat) (f : Regs → Regs) : (s.modCellRegs c f).time = s.time := rfl
@[simp] theorem State.modCellRegs_ncyc (c : Nat) (f : Regs → Regs) : (s.modCellRegs c f).ncyc = s.ncyc := rfl
@[simp] theorem State.modCellRegs_por (c : Nat) (f : Regs → Regs) : (s.modCellRegs c f).por = s.por := rfl
@[simp] theorem State.modCellRegs_chip (c : Nat) (f : Regs → Regs) : (s.modCellRegs c f).chip = s.chip := rfl
@[simp] theorem State.modCellRegs_blocks (c : Nat) (f : Regs → Regs) : (s.modCellRegs c f).blocks = s.blocks := rfl
@[simp] theorem State.modCellRegs_regions (c : Nat) (f : Regs → Regs) : (s.modCellRegs c f).regions = s.regions := rfl
@[simp] theorem State.modCellRegs_links (c : Nat) (f : Regs → Regs) : (s.modCellRegs c f).links = s.links := rfl
@[simp] theorem State.modCellRegs_gws (c : Nat) (f : Regs → Regs) : (s.modCellRegs c f).gws = s.gws := rfl
@[simp] theorem State.modCellRegs_ftn (c : Nat) (f : Regs → Regs) : (s.modCellRegs c f).ftn = s.ftn := rfl
@[simp] theorem State.modCellRegs_portHost (c : Nat) (f : Regs → Regs) : (s.modCellRegs c f).portHost = s.portHost := rfl
@[simp] theorem State.modCellRegs_portMgmt (c : Nat) (f : Regs → Regs) : (s.modCellRegs c f).portMgmt = s.portMgmt := rfl
@[simp] theorem State.modCellRegs_portZhev (c : Nat) (f : Regs → Regs) : (s.modCellRegs c f).portZhev = s.portZhev := rfl

/-! ## modBlockRegs -/

@[simp] theorem State.modBlockRegs_pending (b : Nat) (f : Regs → Regs) : (s.modBlockRegs b f).pending = s.pending := rfl
@[simp] theorem State.modBlockRegs_free (b : Nat) (f : Regs → Regs) : (s.modBlockRegs b f).free = s.free := rfl
@[simp] theorem State.modBlockRegs_out (b : Nat) (f : Regs → Regs) : (s.modBlockRegs b f).out = s.out := rfl
@[simp] theorem State.modBlockRegs_time (b : Nat) (f : Regs → Regs) : (s.modBlockRegs b f).time = s.time := rfl
@[simp] theorem State.modBlockRegs_ncyc (b : Nat) (f : Regs → Regs) : (s.modBlockRegs b f).ncyc = s.ncyc := rfl
@[simp] theorem State.modBlockRegs_por (b : Nat) (f : Regs → Regs) : (s.modBlockRegs b f).por = s.por := rfl
@[simp] theorem State.modBlockRegs_chip (b : Nat) (f : Regs → Regs) : (s.modBlockRegs b f).chip = s.chip := rfl
@[simp] theorem State.modBlockRegs_cells (b : Nat) (f : Regs → Regs) : (s.modBlockRegs b f).cells = s.cells := rfl
@[simp] theorem State.modBlockRegs_regions (b : Nat) (f : Regs → Regs) : (s.modBlockRegs b f).regions = s.regions := rfl
@[simp] theorem State.modBlockRegs_links (b : Nat) (f : Regs → Regs) : (s.modBlockRegs b f).links = s.links := rfl
@[simp] theorem State.modBlockRegs_gws (b : Nat) (f : Regs → Regs) : (s.modBlockRegs b f).gws = s.gws := rfl
@[simp] theorem State.modBlockRegs_ftn (b : Nat) (f : Regs → Regs) : (s.modBlockRegs b f).ftn = s.ftn := rfl
@[simp] theorem State.modBlockRegs_portHost (b : Nat) (f : Regs → Regs) : (s.modBlockRegs b f).portHost = s.portHost := rfl
@[simp] theorem State.modBlockRegs_portMgmt (b : Nat) (f : Regs → Regs) : (s.modBlockRegs b f).portMgmt = s.portMgmt := rfl
@[simp] theorem State.modBlockRegs_portZhev (b : Nat) (f : Regs → Regs) : (s.modBlockRegs b f).portZhev = s.portZhev := rfl

/-! ## modRegionRegs -/

@[simp] theorem State.modRegionRegs_pending (r : Nat) (f : Regs → Regs) : (s.modRegionRegs r f).pending = s.pending := rfl
@[simp] theorem State.modRegionRegs_free (r : Nat) (f : Regs → Regs) : (s.modRegionRegs r f).free = s.free := rfl
@[simp] theorem State.modRegionRegs_out (r : Nat) (f : Regs → Regs) : (s.modRegionRegs r f).out = s.out := rfl
@[simp] theorem State.modRegionRegs_time (r : Nat) (f : Regs → Regs) : (s.modRegionRegs r f).time = s.time := rfl
@[simp] theorem State.modRegionRegs_ncyc (r : Nat) (f : Regs → Regs) : (s.modRegionRegs r f).ncyc = s.ncyc := rfl
@[simp] theorem State.modRegionRegs_por (r : Nat) (f : Regs → Regs) : (s.modRegionRegs r f).por = s.por := rfl
@[simp] theorem State.modRegionRegs_chip (r : Nat) (f : Regs → Regs) : (s.modRegionRegs r f).chip = s.chip := rfl
@[simp] theorem State.modRegionRegs_cells (r : Nat) (f : Regs → Regs) : (s.modRegionRegs r f).cells = s.cells := rfl
@[simp] theorem State.modRegionRegs_blocks (r : Nat) (f : Regs → Regs) : (s.modRegionRegs r f).blocks = s.blocks := rfl
@[simp] theorem State.modRegionRegs_links (r : Nat) (f : Regs → Regs) : (s.modRegionRegs r f).links = s.links := rfl
@[simp] theorem State.modRegionRegs_gws (r : Nat) (f : Regs → Regs) : (s.modRegionRegs r f).gws = s.gws := rfl
@[simp] theorem State.modRegionRegs_ftn (r : Nat) (f : Regs → Regs) : (s.modRegionRegs r f).ftn = s.ftn := rfl
@[simp] theorem State.modRegionRegs_portHost (r : Nat) (f : Regs → Regs) : (s.modRegionRegs r f).portHost = s.portHost := rfl
@[simp] theorem State.modRegionRegs_portMgmt (r : Nat) (f : Regs → Regs) : (s.modRegionRegs r f).portMgmt = s.portMgmt := rfl
@[simp] theorem State.modRegionRegs_portZhev (r : Nat) (f : Regs → Regs) : (s.modRegionRegs r f).portZhev = s.portZhev := rfl

/-! ## modLinkRegs -/

@[simp] theorem State.modLinkRegs_pending (n : Nat) (f : Regs → Regs) : (s.modLinkRegs n f).pending = s.pending := rfl
@[simp] theorem State.modLinkRegs_free (n : Nat) (f : Regs → Regs) : (s.modLinkRegs n f).free = s.free := rfl
@[simp] theorem State.modLinkRegs_out (n : Nat) (f : Regs → Regs) : (s.modLinkRegs n f).out = s.out := rfl
@[simp] theorem State.modLinkRegs_time (n : Nat) (f : Regs → Regs) : (s.modLinkRegs n f).time = s.time := rfl
@[simp] theorem State.modLinkRegs_ncyc (n : Nat) (f : Regs → Regs) : (s.modLinkRegs n f).ncyc = s.ncyc := rfl
@[simp] theorem State.modLinkRegs_por (n : Nat) (f : Regs → Regs) : (s.modLinkRegs n f).por = s.por := rfl
@[simp] theorem State.modLinkRegs_chip (n : Nat) (f : Regs → Regs) : (s.modLinkRegs n f).chip = s.chip := rfl
@[simp] theorem State.modLinkRegs_cells (n : Nat) (f : Regs → Regs) : (s.modLinkRegs n f).cells = s.cells := rfl
@[simp] theorem State.modLinkRegs_blocks (n : Nat) (f : Regs → Regs) : (s.modLinkRegs n f).blocks = s.blocks := rfl
@[simp] theorem State.modLinkRegs_regions (n : Nat) (f : Regs → Regs) : (s.modLinkRegs n f).regions = s.regions := rfl
@[simp] theorem State.modLinkRegs_gws (n : Nat) (f : Regs → Regs) : (s.modLinkRegs n f).gws = s.gws := rfl
@[simp] theorem State.modLinkRegs_ftn (n : Nat) (f : Regs → Regs) : (s.modLinkRegs n f).ftn = s.ftn := rfl
@[simp] theorem State.modLinkRegs_portHost (n : Nat) (f : Regs → Regs) : (s.modLinkRegs n f).portHost = s.portHost := rfl
@[simp] theorem State.modLinkRegs_portMgmt (n : Nat) (f : Regs → Regs) : (s.modLinkRegs n f).portMgmt = s.portMgmt := rfl
@[simp] theorem State.modLinkRegs_portZhev (n : Nat) (f : Regs → Regs) : (s.modLinkRegs n f).portZhev = s.portZhev := rfl

/-! ## modGwRegs -/

@[simp] theorem State.modGwRegs_pending (g : Nat) (f : Regs → Regs) : (s.modGwRegs g f).pending = s.pending := rfl
@[simp] theorem State.modGwRegs_free (g : Nat) (f : Regs → Regs) : (s.modGwRegs g f).free = s.free := rfl
@[simp] theorem State.modGwRegs_out (g : Nat) (f : Regs → Regs) : (s.modGwRegs g f).out = s.out := rfl
@[simp] theorem State.modGwRegs_time (g : Nat) (f : Regs → Regs) : (s.modGwRegs g f).time = s.time := rfl
@[simp] theorem State.modGwRegs_ncyc (g : Nat) (f : Regs → Regs) : (s.modGwRegs g f).ncyc = s.ncyc := rfl
@[simp] theorem State.modGwRegs_por (g : Nat) (f : Regs → Regs) : (s.modGwRegs g f).por = s.por := rfl
@[simp] theorem State.modGwRegs_chip (g : Nat) (f : Regs → Regs) : (s.modGwRegs g f).chip = s.chip := rfl
@[simp] theorem State.modGwRegs_cells (g : Nat) (f : Regs → Regs) : (s.modGwRegs g f).cells = s.cells := rfl
@[simp] theorem State.modGwRegs_blocks (g : Nat) (f : Regs → Regs) : (s.modGwRegs g f).blocks = s.blocks := rfl
@[simp] theorem State.modGwRegs_regions (g : Nat) (f : Regs → Regs) : (s.modGwRegs g f).regions = s.regions := rfl
@[simp] theorem State.modGwRegs_links (g : Nat) (f : Regs → Regs) : (s.modGwRegs g f).links = s.links := rfl
@[simp] theorem State.modGwRegs_ftn (g : Nat) (f : Regs → Regs) : (s.modGwRegs g f).ftn = s.ftn := rfl
@[simp] theorem State.modGwRegs_portHost (g : Nat) (f : Regs → Regs) : (s.modGwRegs g f).portHost = s.portHost := rfl
@[simp] theorem State.modGwRegs_portMgmt (g : Nat) (f : Regs → Regs) : (s.modGwRegs g f).portMgmt = s.portMgmt := rfl
@[simp] theorem State.modGwRegs_portZhev (g : Nat) (f : Regs → Regs) : (s.modGwRegs g f).portZhev = s.portZhev := rfl

/-! ## modChipRegs -/

@[simp] theorem State.modChipRegs_pending (f : Regs → Regs) : (s.modChipRegs f).pending = s.pending := rfl
@[simp] theorem State.modChipRegs_free (f : Regs → Regs) : (s.modChipRegs f).free = s.free := rfl
@[simp] theorem State.modChipRegs_out (f : Regs → Regs) : (s.modChipRegs f).out = s.out := rfl
@[simp] theorem State.modChipRegs_time (f : Regs → Regs) : (s.modChipRegs f).time = s.time := rfl
@[simp] theorem State.modChipRegs_ncyc (f : Regs → Regs) : (s.modChipRegs f).ncyc = s.ncyc := rfl
@[simp] theorem State.modChipRegs_por (f : Regs → Regs) : (s.modChipRegs f).por = s.por := rfl
@[simp] theorem State.modChipRegs_cells (f : Regs → Regs) : (s.modChipRegs f).cells = s.cells := rfl
@[simp] theorem State.modChipRegs_blocks (f : Regs → Regs) : (s.modChipRegs f).blocks = s.blocks := rfl
@[simp] theorem State.modChipRegs_regions (f : Regs → Regs) : (s.modChipRegs f).regions = s.regions := rfl
@[simp] theorem State.modChipRegs_links (f : Regs → Regs) : (s.modChipRegs f).links = s.links := rfl
@[simp] theorem State.modChipRegs_gws (f : Regs → Regs) : (s.modChipRegs f).gws = s.gws := rfl
@[simp] theorem State.modChipRegs_ftn (f : Regs → Regs) : (s.modChipRegs f).ftn = s.ftn := rfl
@[simp] theorem State.modChipRegs_portHost (f : Regs → Regs) : (s.modChipRegs f).portHost = s.portHost := rfl
@[simp] theorem State.modChipRegs_portMgmt (f : Regs → Regs) : (s.modChipRegs f).portMgmt = s.portMgmt := rfl
@[simp] theorem State.modChipRegs_portZhev (f : Regs → Regs) : (s.modChipRegs f).portZhev = s.portZhev := rfl

/-! ## bump -/

@[simp] theorem State.bump_pending (c : Nat) (f : Field) : (s.bump c f).pending = s.pending := rfl
@[simp] theorem State.bump_free (c : Nat) (f : Field) : (s.bump c f).free = s.free := rfl
@[simp] theorem State.bump_out (c : Nat) (f : Field) : (s.bump c f).out = s.out := rfl
@[simp] theorem State.bump_time (c : Nat) (f : Field) : (s.bump c f).time = s.time := rfl
@[simp] theorem State.bump_ncyc (c : Nat) (f : Field) : (s.bump c f).ncyc = s.ncyc := rfl
@[simp] theorem State.bump_por (c : Nat) (f : Field) : (s.bump c f).por = s.por := rfl
@[simp] theorem State.bump_chip (c : Nat) (f : Field) : (s.bump c f).chip = s.chip := rfl
@[simp] theorem State.bump_blocks (c : Nat) (f : Field) : (s.bump c f).blocks = s.blocks := rfl
@[simp] theorem State.bump_regions (c : Nat) (f : Field) : (s.bump c f).regions = s.regions := rfl
@[simp] theorem State.bump_links (c : Nat) (f : Field) : (s.bump c f).links = s.links := rfl
@[simp] theorem State.bump_gws (c : Nat) (f : Field) : (s.bump c f).gws = s.gws := rfl
@[simp] theorem State.bump_ftn (c : Nat) (f : Field) : (s.bump c f).ftn = s.ftn := rfl
@[simp] theorem State.bump_portHost (c : Nat) (f : Field) : (s.bump c f).portHost = s.portHost := rfl
@[simp] theorem State.bump_portMgmt (c : Nat) (f : Field) : (s.bump c f).portMgmt = s.portMgmt := rfl
@[simp] theorem State.bump_portZhev (c : Nat) (f : Field) : (s.bump c f).portZhev = s.portZhev := rfl

/-! ## emit -/

@[simp] theorem State.emit_pending (o : Out) : (s.emit o).pending = s.pending := rfl
@[simp] theorem State.emit_free (o : Out) : (s.emit o).free = s.free := rfl
@[simp] theorem State.emit_out (o : Out) : (s.emit o).out = s.out ++ [o] := rfl
@[simp] theorem State.emit_time (o : Out) : (s.emit o).time = s.time := rfl
@[simp] theorem State.emit_ncyc (o : Out) : (s.emit o).ncyc = s.ncyc := rfl
@[simp] theorem State.emit_por (o : Out) : (s.emit o).por = s.por := rfl
@[simp] theorem State.emit_chip (o : Out) : (s.emit o).chip = s.chip := rfl
@[simp] theorem State.emit_cells (o : Out) : (s.emit o).cells = s.cells := rfl
@[simp] theorem State.emit_blocks (o : Out) : (s.emit o).blocks = s.blocks := rfl
@[simp] theorem State.emit_regions (o : Out) : (s.emit o).regions = s.regions := rfl
@[simp] theorem State.emit_links (o : Out) : (s.emit o).links = s.links := rfl
@[simp] theorem State.emit_gws (o : Out) : (s.emit o).gws = s.gws := rfl
@[simp] theorem State.emit_ftn (o : Out) : (s.emit o).ftn = s.ftn := rfl
@[simp] theorem State.emit_portHost (o : Out) : (s.emit o).portHost = s.portHost := rfl
@[simp] theorem State.emit_portMgmt (o : Out) : (s.emit o).portMgmt = s.portMgmt := rfl
@[simp] theorem State.emit_portZhev (o : Out) : (s.emit o).portZhev = s.portZhev := rfl

/-! ## keeping -/

@[simp] theorem State.keeping_free (old : State) : (s.keeping old).free = s.free := rfl
@[simp] theorem State.keeping_out (old : State) : (s.keeping old).out = s.out := rfl
@[simp] theorem State.keeping_time (old : State) : (s.keeping old).time = s.time := rfl
@[simp] theorem State.keeping_ncyc (old : State) : (s.keeping old).ncyc = s.ncyc := rfl
@[simp] theorem State.keeping_por (old : State) : (s.keeping old).por = s.por := rfl
@[simp] theorem State.keeping_cells (old : State) : (s.keeping old).cells = s.cells := rfl
@[simp] theorem State.keeping_blocks (old : State) : (s.keeping old).blocks = s.blocks := rfl
@[simp] theorem State.keeping_regions (old : State) : (s.keeping old).regions = s.regions := rfl
@[simp] theorem State.keeping_links (old : State) : (s.keeping old).links = s.links := rfl
@[simp] theorem State.keeping_gws (old : State) : (s.keeping old).gws = s.gws := rfl
@[simp] theorem State.keeping_ftn (old : State) : (s.keeping old).ftn = s.ftn := rfl
@[simp] theorem State.keeping_portHost (old : State) : (s.keeping old).portHost = s.portHost := rfl
@[simp] theorem State.keeping_portMgmt (old : State) : (s.keeping old).portMgmt = s.portMgmt := rfl
@[simp] theorem State.keeping_portZhev (old : State) : (s.keeping old).portZhev = s.portZhev := rfl

@[simp] theorem State.keeping_pending (old : State) : (s.keeping old).pending = old.pending := rfl
@[simp] theorem State.keeping_chip (old : State) : (s.keeping old).chip = { s.chip with integ := old.chip.integ } := rfl

end Sys2Proof.Machine
end

