-- ==== Sys2Proof/Laws/Tables.lean ====
section
/-! SUPPORT. What reading a keyed list, a table or a unit of the state gives after a change: the value put there, and everything else as it
was. -/

namespace Sys2Proof.Machine

variable {α : Type}

/-! ## Keyed lists -/

@[simp] theorem aget_nil (k : Nat) : aget ([] : Assoc α) k = none := rfl

theorem aget_aput (l : Assoc α) (k j : Nat) (v : α) : aget (aput l k v) j = if k = j then some v else aget l j := by
  induction l with
  | nil => simp [aput, aget]
  | cons e r ih =>
    obtain ⟨a, b⟩ := e
    by_cases h1 : k < a
    · simp [aput, aget, h1]
    · by_cases h2 : a = k
      · subst h2
        by_cases h3 : a = j <;> simp [aput, aget, h3]
      · have h3 : ¬k < a := h1
        simp only [aput, h3, if_false, h2, aget, ih]
        by_cases h4 : a = j
        · subst h4
          simp [Ne.symm h2]
        · simp [h4]

@[simp] theorem aget_aput_same (l : Assoc α) (k : Nat) (v : α) : aget (aput l k v) k = some v := by simp [aget_aput]

theorem aget_aput_ne (l : Assoc α) {k j : Nat} (v : α) (h : k ≠ j) : aget (aput l k v) j = aget l j := by simp [aget_aput, h]

/-! ## Tables -/

theorem Table.get_set (t : Table α) (k j : Nat) (v : α) : (t.set k v).get j = if k = j then v else t.get j := by
  by_cases h : k = j <;> simp [Table.get, Table.set, aget_aput, h]

theorem Table.get_mod (t : Table α) (k j : Nat) (f : α → α) : (t.mod k f).get j = if k = j then f (t.get j) else t.get j := by
  by_cases h : k = j
  · subst h
    simp [Table.mod, Table.get_set]
  · simp [Table.mod, Table.get_set, h]

@[simp] theorem Table.get_mod_same (t : Table α) (k : Nat) (f : α → α) : (t.mod k f).get k = f (t.get k) := by simp [Table.get_mod]

theorem Table.get_mod_ne (t : Table α) {k j : Nat} (f : α → α) (h : k ≠ j) : (t.mod k f).get j = t.get j := by simp [Table.get_mod, h]

theorem Table.get_mapAll (t : Table α) (f : α → α) (k : Nat) : (t.mapAll f).get k = f (t.get k) := by
  obtain ⟨d, l⟩ := t
  simp only [Table.mapAll, Table.get]
  induction l with
  | nil => simp [aget]
  | cons e r ih =>
    obtain ⟨a, b⟩ := e
    by_cases h : a = k <;> simp_all [aget]

/-! ## Units of the state -/

variable (s : State)

theorem State.cell_modCell (c d : Nat) (f : Cell → Cell) : (s.modCell c f).cell d = if c = d then f (s.cell d) else s.cell d :=
  Table.get_mod _ _ _ _

theorem State.block_modBlock (b d : Nat) (f : Block → Block) : (s.modBlock b f).block d = if b = d then f (s.block d) else s.block d :=
  Table.get_mod _ _ _ _

theorem State.region_modRegion (r d : Nat) (f : Region → Region) :
    (s.modRegion r f).region d = if r = d then f (s.region d) else s.region d :=
  Table.get_mod _ _ _ _

theorem State.link_modLink (n d : Nat) (f : Link → Link) : (s.modLink n f).link d = if n = d then f (s.link d) else s.link d :=
  Table.get_mod _ _ _ _

theorem State.gw_modGw (g d : Nat) (f : Gateway → Gateway) : (s.modGw g f).gw d = if g = d then f (s.gw d) else s.gw d :=
  Table.get_mod _ _ _ _

@[simp] theorem State.cell_modCell_same (c : Nat) (f : Cell → Cell) : (s.modCell c f).cell c = f (s.cell c) := by
  simp [State.cell_modCell]

@[simp] theorem State.block_modBlock_same (b : Nat) (f : Block → Block) : (s.modBlock b f).block b = f (s.block b) := by
  simp [State.block_modBlock]

@[simp] theorem State.region_modRegion_same (r : Nat) (f : Region → Region) : (s.modRegion r f).region r = f (s.region r) := by
  simp [State.region_modRegion]

@[simp] theorem State.link_modLink_same (n : Nat) (f : Link → Link) : (s.modLink n f).link n = f (s.link n) := by
  simp [State.link_modLink]

@[simp] theorem State.gw_modGw_same (g : Nat) (f : Gateway → Gateway) : (s.modGw g f).gw g = f (s.gw g) := by
  simp [State.gw_modGw]

@[simp] theorem State.ni_modNi_same (c : Nat) (f : Ni → Ni) : (s.modNi c f).ni c = f (s.ni c) := by
  simp [State.ni, State.modNi]

@[simp] theorem State.rt_modRt_same (c : Nat) (f : Router → Router) : (s.modRt c f).rt c = f (s.rt c) := by
  simp [State.rt, State.modRt]

@[simp] theorem State.rt_modNi (c d : Nat) (f : Ni → Ni) : (s.modNi c f).rt d = s.rt d := by
  by_cases h : c = d
  · subst h
    simp [State.rt, State.modNi]
  · simp [State.rt, State.modNi, State.cell_modCell, h]

@[simp] theorem State.ni_modRt (c d : Nat) (f : Router → Router) : (s.modRt c f).ni d = s.ni d := by
  by_cases h : c = d
  · subst h
    simp [State.ni, State.modRt]
  · simp [State.ni, State.modRt, State.cell_modCell, h]

/-- A unit of one kind is as it was after a change of another kind: the tables are separate fields. -/
theorem State.cell_congr {s t : State} (h : t.cells = s.cells) (c : Nat) : t.cell c = s.cell c := by simp [State.cell, h]

theorem State.block_congr {s t : State} (h : t.blocks = s.blocks) (b : Nat) : t.block b = s.block b := by simp [State.block, h]

theorem State.region_congr {s t : State} (h : t.regions = s.regions) (r : Nat) : t.region r = s.region r := by simp [State.region, h]

theorem State.link_congr {s t : State} (h : t.links = s.links) (n : Nat) : t.link n = s.link n := by simp [State.link, h]

theorem State.gw_congr {s t : State} (h : t.gws = s.gws) (g : Nat) : t.gw g = s.gw g := by simp [State.gw, h]

end Sys2Proof.Machine
end

