-- ==== Sys2Proof/Laws/Memory.lean ====
section
/-! SUPPORT. Memory in canonical form (MEMORY, log 6): a byte written reads back, every other byte stays, and every write keeps the form. -/

namespace Sys2Proof.Machine

/-- The least address of a canonical memory from which it may go on: every listed address is above b. -/
def Mem.above (m : Mem) (b : Nat) : Bool := m.all fun e => decide (b < e.1)

theorem Memory.wf_cons {a : Nat} {b : Byte} {r : Mem} (h : Memory.wf ((a, b) :: r) = true) :
    b ≠ 0 ∧ Memory.wf r = true ∧ Mem.above r a = true := by
  induction r generalizing a b with
  | nil => exact ⟨by simpa [Memory.wf] using h, rfl, rfl⟩
  | cons e r ih =>
    obtain ⟨a', b'⟩ := e
    simp only [Memory.wf, Bool.and_eq_true, decide_eq_true_eq] at h
    obtain ⟨⟨h1, h2⟩, h3⟩ := h
    obtain ⟨-, -, h6⟩ := ih h3
    refine ⟨h1, h3, ?_⟩
    simp only [Mem.above, List.all_cons, Bool.and_eq_true, decide_eq_true_eq, List.all_eq_true] at h6 ⊢
    exact ⟨h2, fun e he => Nat.lt_trans h2 (h6 e he)⟩

theorem Memory.wf_of_cons {a : Nat} {b : Byte} {r : Mem} (hb : b ≠ 0) (hr : Memory.wf r = true) (ha : Mem.above r a = true) :
    Memory.wf ((a, b) :: r) = true := by
  cases r with
  | nil =>
    simp only [Memory.wf, decide_eq_true_eq]
    exact hb
  | cons e r =>
    obtain ⟨a', b'⟩ := e
    simp only [Mem.above, List.all_cons, Bool.and_eq_true, decide_eq_true_eq] at ha
    simp only [Memory.wf, Bool.and_eq_true, decide_eq_true_eq]
    exact ⟨⟨hb, ha.1⟩, hr⟩

@[simp] theorem Mem.above_cons (a : Nat) (v : Byte) (r : Mem) (b : Nat) :
    Mem.above ((a, v) :: r) b = true ↔ b < a ∧ Mem.above r b = true := by
  simp only [Mem.above, List.all_cons, Bool.and_eq_true, decide_eq_true_eq]

theorem mwrite_above (m : Mem) (a : Nat) (v : Byte) (b : Nat) (h : Mem.above m b = true) (hb : b < a) :
    Mem.above (mwrite m a v) b = true := by
  induction m with
  | nil =>
    simp only [mwrite]
    split
    · rfl
    · exact (Mem.above_cons ..).2 ⟨hb, rfl⟩
  | cons e r ih =>
    obtain ⟨a', b'⟩ := e
    obtain ⟨h1, h2⟩ := (Mem.above_cons ..).1 h
    simp only [mwrite]
    split
    · split
      · exact h
      · exact (Mem.above_cons ..).2 ⟨hb, h⟩
    · split
      · split
        · exact h2
        · exact (Mem.above_cons ..).2 ⟨hb, h2⟩
      · exact (Mem.above_cons ..).2 ⟨h1, ih h2⟩

/-- Every byte write keeps the canonical form. -/
theorem mwrite_wf (m : Mem) (a : Nat) (v : Byte) (h : Memory.wf m = true) : Memory.wf (mwrite m a v) = true := by
  induction m with
  | nil =>
    simp only [mwrite]
    split
    · rfl
    · simpa only [Memory.wf, decide_eq_true_eq]
  | cons e r ih =>
    obtain ⟨a', b'⟩ := e
    obtain ⟨h1, h2, h3⟩ := Memory.wf_cons h
    simp only [mwrite]
    split
    · split
      · exact h
      · refine Memory.wf_of_cons (by assumption) h ?_
        simp only [Mem.above, List.all_cons, Bool.and_eq_true, decide_eq_true_eq, List.all_eq_true] at h3 ⊢
        exact ⟨by assumption, fun e he => Nat.lt_trans (by assumption) (h3 e he)⟩
    · split
      · rename_i h4
        subst h4
        split
        · exact h2
        · exact Memory.wf_of_cons (by assumption) h2 h3
      · exact Memory.wf_of_cons h1 (ih h2) (mwrite_above r a v a' h3 (by omega))

/-- Every write of a list of bytes keeps the canonical form. -/
theorem mwriteList_wf (m : Mem) (a : Nat) (bs : List Byte) (h : Memory.wf m = true) : Memory.wf (mwriteList m a bs) = true := by
  induction bs generalizing m a with
  | nil => exact h
  | cons b r ih => exact ih _ _ (mwrite_wf _ _ _ h)

/-- Every write of a 64-bit word keeps the canonical form. -/
theorem mwriteWord_wf (m : Mem) (a : Nat) (v : W64) (h : Memory.wf m = true) : Memory.wf (mwriteWord m a v) = true :=
  mwriteList_wf _ _ _ h

theorem aget_above (m : Mem) (b k : Nat) (h : Mem.above m b = true) (hk : k ≤ b) : aget m k = none := by
  induction m with
  | nil => rfl
  | cons e r ih =>
    obtain ⟨a', b'⟩ := e
    simp only [Mem.above, List.all_cons, Bool.and_eq_true, decide_eq_true_eq] at h
    have : a' ≠ k := by omega
    simpa [aget, this] using ih h.2

/-- What a byte reads after a write: the byte written there, every other byte as it was. -/
theorem mread_mwrite (m : Mem) (a k : Nat) (v : Byte) (h : Memory.wf m = true) :
    mread (mwrite m a v) k = if a = k then v else mread m k := by
  induction m with
  | nil =>
    simp only [mwrite]
    split <;> rename_i hv <;> by_cases hk : a = k <;> simp [mread, aget, hk, hv]
  | cons e r ih =>
    obtain ⟨a', b'⟩ := e
    obtain ⟨h1, h2, h3⟩ := Memory.wf_cons h
    have ih := ih h2
    simp only [mread] at ih ⊢
    simp only [mwrite]
    split
    · rename_i h4
      have hn : aget r a = none := aget_above r a' a h3 (by omega)
      have hne : a' ≠ a := by omega
      split
      · rename_i hv
        by_cases hk : a = k
        · subst hk
          simp [aget, hne, hn, hv]
        · simp [hk]
      · by_cases hk : a = k <;> simp [aget, hk]
    · split
      · rename_i h4
        subst h4
        have hn : aget r a' = none := aget_above r a' a' h3 (le_refl _)
        split
        · rename_i hv
          by_cases hk : a' = k
          · subst hk
            simp [hn, hv]
          · simp [aget, hk]
        · by_cases hk : a' = k <;> simp [aget, hk]
      · rename_i h4 h5
        by_cases hk : a' = k
        · subst hk
          have : a ≠ a' := fun h => h5 h.symm
          simp [aget, this]
        · by_cases hk2 : a = k <;> simp_all [aget]

/-- A write of a list of bytes changes no byte outside it. -/
theorem mread_mwriteList_ne (m : Mem) (a k : Nat) (bs : List Byte) (h : Memory.wf m = true) (hk : k < a ∨ a + bs.length ≤ k) :
    mread (mwriteList m a bs) k = mread m k := by
  induction bs generalizing m a with
  | nil => rfl
  | cons b r ih =>
    simp only [List.length_cons] at hk
    rw [mwriteList, ih _ _ (mwrite_wf _ _ _ h) (by omega), mread_mwrite _ _ _ _ h]
    have : a ≠ k := by omega
    simp [this]

/-! ## Little-endian numbers (R7) -/

theorem leNat_leBytes (n v : Nat) : leNat (leBytes n v) = v % 256 ^ n := by
  induction n generalizing v with
  | zero => simp [leBytes, leNat, Nat.mod_one]
  | succ n ih =>
    have h : v % (256 * 256 ^ n) = v % 256 + 256 * (v / 256 % 256 ^ n) := Nat.mod_mul
    simp only [leBytes, leNat, ih, BitVec.toNat_ofNat, Nat.pow_succ']
    rw [h]

@[simp] theorem leBytes_length (n v : Nat) : (leBytes n v).length = n := by
  induction n generalizing v with
  | zero => rfl
  | succ n ih => simp [leBytes, ih]

/-- A byte of a written list reads back. -/
theorem mread_mwriteList (m : Mem) (a : Nat) (bs : List Byte) (h : Memory.wf m = true) (i : Nat) (hi : i < bs.length) :
    mread (mwriteList m a bs) (a + i) = bs[i] := by
  induction bs generalizing m a i with
  | nil => simp at hi
  | cons b r ih =>
    rw [mwriteList]
    cases i with
    | zero =>
      rw [mread_mwriteList_ne _ _ _ _ (mwrite_wf _ _ _ h) (by omega), mread_mwrite _ _ _ _ h]
      simp
    | succ i =>
      have := ih (mwrite m a b) (a + 1) (mwrite_wf _ _ _ h) i (by simpa using hi)
      simpa [Nat.add_assoc, Nat.add_comm 1] using this

/-- A written list of bytes reads back as the number it spells. -/
theorem mreadLE_mwriteList (m : Mem) (a : Nat) (bs : List Byte) (h : Memory.wf m = true) :
    mreadLE (mwriteList m a bs) a bs.length = leNat bs := by
  have : mreadList (mwriteList m a bs) a bs.length = bs := by
    apply List.ext_getElem
    · simp [mreadList]
    · intro i h1 h2
      simp [mreadList, mread_mwriteList _ _ _ h i h2]
  rw [mreadLE, this]

end Sys2Proof.Machine
end

