-- ==== Sys2Proof/Laws/Registers.lean ====
section
/-! SUPPORT. What a register field reads after a field of the same registers has been set (R8, R10): the value put there, and every
field that shares no bit with it as it was. -/

namespace Sys2Proof.Machine

/-! ## Bits of numbers -/

theorem bits_lt (x lo len : Nat) : bits x lo len < 2 ^ len := Nat.mod_lt _ (Nat.two_pow_pos _)

theorem testBit_bits (x lo len i : Nat) : (bits x lo len).testBit i = (decide (i < len) && x.testBit (lo + i)) := by
  simp [bits, Nat.testBit_mod_two_pow, Nat.testBit_div_two_pow, Nat.add_comm]

/-- Setting a field puts its bits in place and keeps every other bit. -/
theorem testBit_setBits (x lo len v i : Nat) :
    (setBits x lo len v).testBit i = if lo ≤ i ∧ i < lo + len then v.testBit (i - lo) else x.testBit i := by
  have hx : x - bits x lo len * 2 ^ lo = x / 2 ^ (lo + len) * 2 ^ (lo + len) + x % 2 ^ lo := by
    have h1 := Nat.div_add_mod x (2 ^ lo)
    have h2 := Nat.div_add_mod (x / 2 ^ lo) (2 ^ len)
    rw [Nat.div_div_eq_div_mul, ← Nat.pow_add] at h2
    have h3 : 2 ^ lo * (2 ^ len * (x / 2 ^ (lo + len)) + x / 2 ^ lo % 2 ^ len) + x % 2 ^ lo = x := by rw [h2]; exact h1
    have h4 : 2 ^ lo * (2 ^ len * (x / 2 ^ (lo + len))) = x / 2 ^ (lo + len) * 2 ^ (lo + len) := by rw [Nat.pow_add]; ring
    rw [Nat.mul_add, h4] at h3
    have h5 : bits x lo len * 2 ^ lo = 2 ^ lo * (x / 2 ^ lo % 2 ^ len) := by simp [bits, Nat.mul_comm]
    omega
  have hv : v % 2 ^ len * 2 ^ lo + x % 2 ^ lo < 2 ^ (lo + len) := by
    have h1 : v % 2 ^ len + 1 ≤ 2 ^ len := Nat.mod_lt _ (Nat.two_pow_pos _)
    have h2 : x % 2 ^ lo < 2 ^ lo := Nat.mod_lt _ (Nat.two_pow_pos _)
    have h3 : (v % 2 ^ len + 1) * 2 ^ lo ≤ 2 ^ len * 2 ^ lo := Nat.mul_le_mul_right _ h1
    rw [Nat.pow_add, Nat.mul_comm (2 ^ lo)]
    rw [Nat.add_mul] at h3
    omega
  have hs : setBits x lo len v = 2 ^ (lo + len) * (x / 2 ^ (lo + len)) + (2 ^ lo * (v % 2 ^ len) + x % 2 ^ lo) := by
    rw [setBits, hx]; ring
  rw [hs, Nat.testBit_two_pow_mul_add _ (by rw [Nat.mul_comm (2 ^ lo)]; exact hv),
    Nat.testBit_two_pow_mul_add _ (Nat.mod_lt _ (Nat.two_pow_pos _))]
  by_cases h1 : i < lo
  · simp [h1, show i < lo + len by omega, Nat.testBit_mod_two_pow, show ¬(lo ≤ i) by omega]
  · by_cases h2 : i < lo + len
    · simp [h1, h2, show lo ≤ i ∧ i < lo + len by omega, Nat.testBit_mod_two_pow, show i - lo < len by omega]
    · rw [if_neg h2, if_neg (fun h => h2 h.2), Nat.testBit_div_two_pow]
      congr 1
      omega

theorem setBits_lt {x lo len v n : Nat} (hx : x < 2 ^ n) (h : lo + len ≤ n) : setBits x lo len v < 2 ^ n := by
  apply Nat.lt_pow_two_of_testBit
  intro i hi
  rw [testBit_setBits, if_neg (by omega)]
  exact Nat.testBit_lt_two_pow (Nat.lt_of_lt_of_le hx (Nat.pow_le_pow_right (by decide) hi))

theorem bits_setBits (x lo len v : Nat) : bits (setBits x lo len v) lo len = v % 2 ^ len := by
  apply Nat.eq_of_testBit_eq
  intro i
  rw [testBit_bits, testBit_setBits, Nat.testBit_mod_two_pow]
  by_cases h : i < len <;> simp [h]

theorem bits_setBits_ne (x lo len v lo' len' : Nat) (h : lo + len ≤ lo' ∨ lo' + len' ≤ lo) :
    bits (setBits x lo len v) lo' len' = bits x lo' len' := by
  apply Nat.eq_of_testBit_eq
  intro i
  rw [testBit_bits, testBit_bits, testBit_setBits]
  by_cases hi : i < len'
  · rw [if_neg (by omega)]
  · simp [hi]

/-! ## Fields of registers -/

@[simp] theorem Regs.write_scope (r : Regs) (o : Nat) (v : W64) : (r.write o v).scope = r.scope := rfl
@[simp] theorem Regs.set_scope (r : Regs) (f : Field) (v : Nat) : (r.set f v).scope = r.scope := rfl
@[simp] theorem Regs.add_scope (r : Regs) (f : Field) (n : Nat) : (r.add f n).scope = r.scope := rfl
@[simp] theorem Regs.bump_scope (r : Regs) (f : Field) : (r.bump f).scope = r.scope := rfl

theorem Regs.read_write (r : Regs) (o p : Nat) (v : W64) : (r.write o v).read p = if o = p then v else r.read p := by
  by_cases h : o = p
  · simp [Regs.read, Regs.write, h]
  · simp [Regs.read, Regs.write, aget_aput, h]

/-- A field that lies in its 64-bit register. -/
abbrev Field.fits (f : Field) : Prop := f.lo + f.len ≤ 64

theorem Regs.read_set (r : Regs) (f : Field) (v p : Nat) (hf : f.fits) :
    ((r.set f v).read p).toNat = if f.off = p then setBits (r.read p).toNat f.lo f.len v else (r.read p).toNat := by
  by_cases h : f.off = p
  · subst h
    have h1 := setBits_lt (v := v) (r.read f.off).isLt hf
    simpa [Regs.set, Regs.read_write] using h1
  · simp [Regs.set, Regs.read_write, h]

theorem Regs.get_set_same (r : Regs) (f : Field) (v : Nat) (hf : f.fits) : (r.set f v).get f = v % 2 ^ f.len := by
  simp [Regs.get, Regs.read_set _ _ _ _ hf, bits_setBits]

theorem Regs.get_set_ne (r : Regs) (f g : Field) (v : Nat) (hf : f.fits)
    (h : f.off ≠ g.off ∨ f.lo + f.len ≤ g.lo ∨ g.lo + g.len ≤ f.lo) : (r.set f v).get g = r.get g := by
  by_cases ho : f.off = g.off
  · have h2 : f.lo + f.len ≤ g.lo ∨ g.lo + g.len ≤ f.lo := by
      rcases h with h | h
      · exact absurd ho h
      · exact h
    simp [Regs.get, Regs.read_set _ _ _ _ hf, ho, bits_setBits_ne _ _ _ _ _ _ h2]
  · simp [Regs.get, Regs.read_set _ _ _ _ hf, ho]

theorem Regs.get_lt (r : Regs) (f : Field) : r.get f < 2 ^ f.len := bits_lt _ _ _

/-- A saturating counter goes up by one until it is all-ones (R12). -/
theorem Regs.get_bump_same (r : Regs) (f : Field) (hf : f.fits) : (r.bump f).get f = min (r.get f + 1) (2 ^ f.len - 1) := by
  rw [Regs.bump, Regs.add, Regs.get_set_same _ _ _ hf]
  exact Nat.mod_eq_of_lt (Nat.lt_of_le_of_lt (Nat.min_le_right _ _) (Nat.sub_lt (Nat.two_pow_pos _) (by decide)))

theorem Regs.get_add_same (r : Regs) (f : Field) (n : Nat) (hf : f.fits) : (r.add f n).get f = min (r.get f + n) (2 ^ f.len - 1) := by
  rw [Regs.add, Regs.get_set_same _ _ _ hf]
  exact Nat.mod_eq_of_lt (Nat.lt_of_le_of_lt (Nat.min_le_right _ _) (Nat.sub_lt (Nat.two_pow_pos _) (by decide)))

theorem Regs.get_add_ne (r : Regs) (f g : Field) (n : Nat) (hf : f.fits)
    (h : f.off ≠ g.off ∨ f.lo + f.len ≤ g.lo ∨ g.lo + g.len ≤ f.lo) : (r.add f n).get g = r.get g := Regs.get_set_ne _ _ _ _ hf h

theorem Regs.get_bump_ne (r : Regs) (f g : Field) (hf : f.fits)
    (h : f.off ≠ g.off ∨ f.lo + f.len ≤ g.lo ∨ g.lo + g.len ≤ f.lo) : (r.bump f).get g = r.get g := Regs.get_set_ne _ _ _ _ hf h

end Sys2Proof.Machine
end

