-- ==== Sys2Proof/Laws/Steps.lean ====
section
/-! SUPPORT. What onUnit and keeping say, once: a command that names units of the die answers its new state with the queue and the
integration parameters as they were; every other field is the new state's. -/

namespace Sys2Proof.Machine

theorem onUnit_of {ok : Bool} (h : ok = true) (old s : State) : onUnit ok old s = .next (s.keeping old) := by simp [onUnit, h]

theorem onUnit_not {ok : Bool} (h : ok = false) (old s : State) : onUnit ok old s = .refused .noSuchUnit := by simp [onUnit, h]

variable (s old : State)

@[simp] theorem State.keeping_integ : (s.keeping old).chip.integ = old.chip.integ := rfl
@[simp] theorem State.keeping_chip_regs : (s.keeping old).chip.regs = s.chip.regs := rfl
@[simp] theorem State.keeping_cell (c : Nat) : (s.keeping old).cell c = s.cell c := rfl
@[simp] theorem State.keeping_ni (c : Nat) : (s.keeping old).ni c = s.ni c := rfl
@[simp] theorem State.keeping_rt (c : Nat) : (s.keeping old).rt c = s.rt c := rfl
@[simp] theorem State.keeping_block (b : Nat) : (s.keeping old).block b = s.block b := rfl
@[simp] theorem State.keeping_region (r : Nat) : (s.keeping old).region r = s.region r := rfl
@[simp] theorem State.keeping_link (n : Nat) : (s.keeping old).link n = s.link n := rfl
@[simp] theorem State.keeping_gw (g : Nat) : (s.keeping old).gw g = s.gw g := rfl
@[simp] theorem State.keeping_mbx (m : Nat) : (s.keeping old).mbx m = s.mbx m := rfl
@[simp] theorem State.keeping_slot (i : Nat) : (s.keeping old).slot i = s.slot i := rfl
@[simp] theorem State.keeping_cget (c : Nat) (f : Field) : (s.keeping old).cget c f = s.cget c f := rfl
@[simp] theorem State.keeping_chget (f : Field) : (s.keeping old).chget f = s.chget f := rfl
@[simp] theorem State.keeping_stepDone (n : Nat) : (s.keeping old).stepDone n = s.stepDone n := rfl
@[simp] theorem State.keeping_zRuns : (s.keeping old).zRuns = s.zRuns := rfl

/-- A step with a command in front runs it on the rest of the queue. -/
theorem step_cons (c : Instr) (rest : List Instr) (h : s.pending = c :: rest) : step s = exec c { s with pending := rest } := by
  simp [step, h]

/-- A step on an empty queue is one ncyc. -/
theorem step_nil (h : s.pending = []) : step s = .next (s.tick.keeping s) := by simp [step, h]

end Sys2Proof.Machine
end

