-- ==== Sys2Proof/Laws/Mailbox.lean ====
section
/-! SUPPORT. What the shared operations of mailbox commands do, once: changing a mailbox or a slot, writing a response, completing a
command, posting an event, and taking a command that Zhevber accepts. -/

namespace Sys2Proof.Machine

variable (s : State)

/-! ## Mailboxes and slots -/

theorem State.mbx_modMbx {m j : Nat} (f : Mailbox → Mailbox) (hj : j < 10) :
    (s.modMbx m f).mbx j = if j = m then f (s.mbx j) else s.mbx j := by
  simp [State.mbx, State.modMbx, State.modFtn, List.getD, hj]

@[simp] theorem State.mbx_congr {t : State} (h : t.ftn.mbx = s.ftn.mbx) (m : Nat) : t.mbx m = s.mbx m := by simp [State.mbx, h]

@[simp] theorem State.modMbx_cells (m : Nat) (f : Mailbox → Mailbox) : (s.modMbx m f).cells = s.cells := rfl
@[simp] theorem State.modMbx_blocks (m : Nat) (f : Mailbox → Mailbox) : (s.modMbx m f).blocks = s.blocks := rfl
@[simp] theorem State.modMbx_regions (m : Nat) (f : Mailbox → Mailbox) : (s.modMbx m f).regions = s.regions := rfl
@[simp] theorem State.modMbx_links (m : Nat) (f : Mailbox → Mailbox) : (s.modMbx m f).links = s.links := rfl
@[simp] theorem State.modMbx_gws (m : Nat) (f : Mailbox → Mailbox) : (s.modMbx m f).gws = s.gws := rfl
@[simp] theorem State.modMbx_chip (m : Nat) (f : Mailbox → Mailbox) : (s.modMbx m f).chip = s.chip := rfl
@[simp] theorem State.modMbx_ncyc (m : Nat) (f : Mailbox → Mailbox) : (s.modMbx m f).ncyc = s.ncyc := rfl
@[simp] theorem State.modMbx_time (m : Nat) (f : Mailbox → Mailbox) : (s.modMbx m f).time = s.time := rfl

/-! ## Events change the rings and their counts and nothing else -/

/-- What a posted event leaves as it was. -/
structure State.Posted (s t : State) : Prop where
  cells : t.cells = s.cells
  blocks : t.blocks = s.blocks
  regions : t.regions = s.regions
  links : t.links = s.links
  gws : t.gws = s.gws
  mbx : t.ftn.mbx = s.ftn.mbx
  slots : t.ftn.slots = s.ftn.slots
  boot : t.ftn.boot = s.ftn.boot
  files : t.ftn.files = s.ftn.files
  chip : { t.chip with regs := s.chip.regs } = s.chip
  regs : ∀ f : Field, f.off ≠ MBX_EVT_STAT_dropped.off → t.chip.regs.get f = s.chip.regs.get f

theorem State.Posted.rfl (s : State) : s.Posted s :=
  ⟨Eq.refl _, Eq.refl _, Eq.refl _, Eq.refl _, Eq.refl _, Eq.refl _, Eq.refl _, Eq.refl _, Eq.refl _, Eq.refl _, fun _ _ => Eq.refl _⟩

theorem State.Posted.trans {s t u : State} (h : s.Posted t) (k : t.Posted u) : s.Posted u where
  cells := k.cells.trans h.cells
  blocks := k.blocks.trans h.blocks
  regions := k.regions.trans h.regions
  links := k.links.trans h.links
  gws := k.gws.trans h.gws
  mbx := k.mbx.trans h.mbx
  slots := k.slots.trans h.slots
  boot := k.boot.trans h.boot
  files := k.files.trans h.files
  chip := by
    have h1 := h.chip
    have h2 := k.chip
    have h3 : ({ u.chip with regs := s.chip.regs } : Chip) = { t.chip with regs := s.chip.regs } := by rw [← h2]
    rw [h3, h1]
  regs := fun f hf => (k.regs f hf).trans (h.regs f hf)

theorem State.posted_put (s : State) (g : Ftn → Ftn)
    (h : ∀ x, (g x).mbx = x.mbx ∧ (g x).slots = x.slots ∧ (g x).boot = x.boot ∧ (g x).files = x.files) : s.Posted (s.modFtn g) :=
  ⟨Eq.refl _, Eq.refl _, Eq.refl _, Eq.refl _, Eq.refl _, (h _).1, (h _).2.1, (h _).2.2.1, (h _).2.2.2, Eq.refl _, fun _ _ => Eq.refl _⟩

theorem State.posted_count (s : State) (f : Field) (hf : f.off = MBX_EVT_STAT_dropped.off) (hl : f.fits) :
    s.Posted (s.modChipRegs fun r => r.bump f) :=
  ⟨Eq.refl _, Eq.refl _, Eq.refl _, Eq.refl _, Eq.refl _, Eq.refl _, Eq.refl _, Eq.refl _, Eq.refl _, Eq.refl _,
    fun _ hg => Regs.get_bump_ne _ _ _ hl (.inl fun h => hg (h.symm.trans hf))⟩

theorem State.posted_postHost (s : State) (e : Event) : s.Posted (s.postHost e) := by
  have hp := State.posted_put
  have hc := fun (s : State) => State.posted_count s MBX_EVT_STAT_dropped (Eq.refl _) (by decide)
  simp only [State.postHost]
  split
  · exact (hp _ _ fun _ => by simp).trans (hc _)
  · split
    · exact hp _ _ fun _ => by simp
    · have h1 := (hp s (fun f => { f with ring := aput f.ring (f.evHead % evSize) (overflow e.seq e.time s.ftn.evOwed), evHead := (f.evHead + 1) % evSize })
        fun _ => by simp).trans (hp _ (fun f => { f with evOwed := 0 }) fun _ => by simp)
      split
      · exact h1.trans ((hp _ _ fun _ => by simp).trans (hc _))
      · exact h1.trans (hp _ _ fun _ => by simp)

theorem State.posted_postMgmt (s : State) (e : Event) : s.Posted (s.postMgmt e) := by
  have hp := State.posted_put
  have hc := fun (s : State) => State.posted_count s MBX_EVT_STAT_mgmt_dropped (by decide) (by decide)
  simp only [State.postMgmt]
  split
  · exact (hp _ _ fun _ => by simp).trans (hc _)
  · split
    · exact hp _ _ fun _ => by simp
    · have h1 := (hp s (fun f => { f with mgmt := aput f.mgmt (f.mHead % mevSize) (overflow e.seq e.time s.ftn.mOwed), mHead := (f.mHead + 1) % mevSize })
        fun _ => by simp).trans (hp _ (fun f => { f with mOwed := 0 }) fun _ => by simp)
      split
      · exact h1.trans ((hp _ _ fun _ => by simp).trans (hc _))
      · exact h1.trans (hp _ _ fun _ => by simp)

theorem State.posted_post (s : State) (ty u : Nat) (a b : W64) : s.Posted (s.post ty u a b) := by
  simp only [State.post]
  split
  · exact State.Posted.rfl s
  · exact ((State.posted_put s _ fun _ => by simp).trans (State.posted_postHost _ _)).trans (State.posted_postMgmt _ _)

/-! ## Responses -/

theorem leNat_lt (bs : List Byte) : leNat bs < 256 ^ bs.length := by
  induction bs with
  | nil => simp [leNat]
  | cons b r ih =>
    have := b.isLt
    simp only [leNat, List.length_cons, Nat.pow_succ]
    omega

theorem Cmd.num_lt (k : Cmd) (off n : Nat) : k.num off n < 256 ^ n := by
  refine Nat.lt_of_lt_of_le (leNat_lt _) (Nat.pow_le_pow_right (by decide) ?_)
  simp

/-- What a response leaves as it was: everything but the mailbox. -/
@[simp] theorem State.respondMbx_cells (k : Cmd) (a : Bool) (st d : Nat) (r : List Byte) : (s.respondMbx k a st d r).cells = s.cells := by
  simp only [State.respondMbx]; split <;> rfl

/-- The first two words of a response and the flags of its mailbox (R421, R423). -/
theorem State.respondMbx_answers (k : Cmd) (a : Bool) (st d : Nat) (r : List Byte) (hm : k.m < 10) (hs : st < 256) :
    (s.respondMbx k a st d r).answers k.m k.opcode st d := by
  have ho : k.opcode < 65536 := k.num_lt 0 2
  simp only [State.answers, State.respondMbx, State.mbx_modMbx _ _ hm, if_true]
  refine ⟨trivial, trivial, ?_, ?_⟩
  · simp only [bytesWords, padTo, leBytes]
    simp [leNat]
    congr 1
    omega
  · simp only [bytesWords, padTo, leBytes]
    apply BitVec.eq_of_toNat_eq
    simp [leNat]
    omega

/-- What a response leaves as it was: every field of the Fountaineer but the mailboxes, and every other unit but the bring-up record of
a failed step, which an OK response does not write (R464). -/
theorem State.respondMbx_ftn (k : Cmd) (a : Bool) (st d : Nat) (r : List Byte) :
    (s.respondMbx k a sOK d r).chip = s.chip ∧
    { (s.respondMbx k a st d r) with ftn := s.ftn, chip := s.chip } = s ∧
    { (s.respondMbx k a st d r).ftn with mbx := s.ftn.mbx } = s.ftn := by
  refine ⟨by simp only [State.respondMbx]; split <;> simp_all [State.modMbx, State.modFtn], ?_, ?_⟩ <;>
    (simp only [State.respondMbx]; split <;> rfl)

/-! ## Completing a command (R423, R435, R464) -/

/-- A completed command answers its mailbox. -/
theorem State.finish_answers (k : Cmd) (st d : Nat) (r : List Byte) (hm : k.m < 10) (hs : st < 256) :
    (s.finish k st d r).answers k.m k.opcode st d := by
  have h := s.respondMbx_answers k true st d r hm hs
  have key : ∀ t : State, t.ftn.mbx = (s.respondMbx k true st d r).ftn.mbx → t.answers k.m k.opcode st d := by
    intro t ht
    simpa [State.answers, State.mbx, ht] using h
  apply key
  simp only [State.finish]
  split
  · exact (State.posted_post _ _ _ _ _).mbx
  · rfl

/-- What completing a command with OK leaves as it was: all but its mailbox, the event rings and their counts. -/
structure State.Done (s t : State) : Prop where
  cells : t.cells = s.cells
  blocks : t.blocks = s.blocks
  regions : t.regions = s.regions
  links : t.links = s.links
  gws : t.gws = s.gws
  slots : t.ftn.slots = s.ftn.slots
  boot : t.ftn.boot = s.ftn.boot
  files : t.ftn.files = s.ftn.files
  chip : { t.chip with regs := s.chip.regs } = s.chip
  regs : ∀ f : Field, f.off ≠ MBX_EVT_STAT_dropped.off → t.chip.regs.get f = s.chip.regs.get f

theorem State.finish_done (k : Cmd) (d : Nat) (r : List Byte) : s.Done (s.finish k sOK d r) := by
  have h : ∀ t : State, (s.respondMbx k true sOK d r).Posted t → s.Done t := fun t h =>
    ⟨h.cells, h.blocks, h.regions, h.links, h.gws, h.slots, h.boot, h.files, h.chip, h.regs⟩
  apply h
  simp only [State.finish]
  split
  · exact State.posted_post _ _ _ _ _
  · exact State.Posted.rfl _

/-! ## Accepting a command (R424, R428, R431, R451) -/

@[simp] theorem State.accepted_cells (m : Nat) : (s.accepted m).cells = s.cells := by simp only [State.accepted]; split <;> rfl
@[simp] theorem State.accepted_blocks (m : Nat) : (s.accepted m).blocks = s.blocks := by simp only [State.accepted]; split <;> rfl
@[simp] theorem State.accepted_regions (m : Nat) : (s.accepted m).regions = s.regions := by simp only [State.accepted]; split <;> rfl
@[simp] theorem State.accepted_links (m : Nat) : (s.accepted m).links = s.links := by simp only [State.accepted]; split <;> rfl
@[simp] theorem State.accepted_gws (m : Nat) : (s.accepted m).gws = s.gws := by simp only [State.accepted]; split <;> rfl
@[simp] theorem State.accepted_chip (m : Nat) : (s.accepted m).chip = s.chip := by simp only [State.accepted]; split <;> rfl
@[simp] theorem State.accepted_time (m : Nat) : (s.accepted m).time = s.time := by simp only [State.accepted]; split <;> rfl
@[simp] theorem State.accepted_ncyc (m : Nat) : (s.accepted m).ncyc = s.ncyc := by simp only [State.accepted]; split <;> rfl
@[simp] theorem State.accepted_mbx (m j : Nat) : (s.accepted m).mbx j = s.mbx j := by
  simp only [State.accepted, State.mbx]; split <;> rfl
@[simp] theorem State.accepted_boot (m : Nat) : (s.accepted m).ftn.boot = s.ftn.boot := by simp only [State.accepted]; split <;> rfl
@[simp] theorem State.accepted_files (m : Nat) : (s.accepted m).ftn.files = s.ftn.files := by simp only [State.accepted]; split <;> rfl
@[simp] theorem State.accepted_stepDone (m n : Nat) : (s.accepted m).stepDone n = s.stepDone n := by
  simp [State.stepDone, State.chget]
@[simp] theorem State.accepted_zRuns (m : Nat) : (s.accepted m).zRuns = s.zRuns := by simp [State.zRuns]

theorem find?_none_of_all {α : Type} (l : List α) (p : α → Bool) (h : l.all p = true) : l.find? (fun a => !p a) = none := by
  simpa using h

/-- The length of the extended arguments is what a command's row asks for. -/
def Cmd.extFits (k : Cmd) (e : Option Nat) : Prop :=
  match e with
  | some n => k.extLen = n
  | none => k.extLen ≤ stagingSize

/-- A command that Zhevber accepts runs its own rules. -/
theorem State.mailboxCmd_accepted {m op : Nat} (row : Cmd → Bool) (e : Cmd → Option Nat) (body : Cmd → State → State)
    (h : s.accepts m op = true) (hr : row (s.cmdOf m) = true) (he : (s.cmdOf m).extFits (e (s.cmdOf m))) :
    s.mailboxCmd m op row e body = body (s.cmdOf m) (s.accepted m) := by
  simp only [State.accepts, Bool.and_eq_true, Bool.or_eq_true, Bool.not_eq_true', beq_iff_eq, decide_eq_true_eq] at h
  obtain ⟨⟨⟨⟨⟨⟨⟨⟨hm, hz⟩, hn⟩, ho⟩, hk⟩, hs⟩, ht⟩, hf⟩, hd⟩ := h
  have hgen : ∀ t : State, t.chip = s.chip →
      t.generalChecks (s.cmdOf m) (e (s.cmdOf m)) (body (s.cmdOf m)) = body (s.cmdOf m) t := by
    intro t hc
    have hstep : ∀ n, t.stepDone n = s.stepDone n := fun n => by simp [State.stepDone, State.chget, hc]
    have hfind : (opNeeds (s.cmdOf m)).find? (fun n => !t.stepDone n) = none := by
      simp only [hstep]
      exact find?_none_of_all _ _ hd
    simp only [State.generalChecks, hf, ne_eq, not_true_eq_false, if_false, hfind]
    cases hx : e (s.cmdOf m) with
    | none =>
      simp only [hx, Cmd.extFits] at he
      simp [Nat.not_lt.2 he]
    | some n =>
      simp only [hx, Cmd.extFits] at he
      simp [he]
  have hm' : (s.cmdOf m).m = m := rfl
  simp only [State.mailboxCmd, hz, hn, beq_self_eq_true, ho, hr, Bool.and_self, if_true, State.takeCmd, hk, hs, hm', Bool.not_true, Bool.false_eq_true, if_false]
  simp only [State.accepted]
  rcases ht with ht | ⟨⟨hl, htag⟩, hctr⟩
  · simp only [ht, Bool.not_false, if_true, Bool.false_eq_true, if_false]
    exact hgen _ rfl
  · have e1 : ∀ t : State, t.ftn.slots = s.ftn.slots → t.slot (s.cmdOf m).slot = s.slot (s.cmdOf m).slot := fun t h => by
      simp [State.slot, h]
    by_cases htg : (s.cmdOf m).tagged = true
    · have htag' : (s.modFtn fun x => { x with last := m }).tagOk (s.cmdOf m) = true := htag
      have hsl : (s.modFtn fun x => { x with last := m }).slot (s.cmdOf m).slot = s.slot (s.cmdOf m).slot := rfl
      simp only [htg, Bool.not_true, hsl, hl, htag', Nat.not_le.2 hctr, if_false, if_true, Bool.false_eq_true]
      exact hgen _ rfl
    · simp only [htg, Bool.not_false, if_true, if_false, Bool.false_eq_true]
      exact hgen _ rfl

theorem State.accepts_lt {m op : Nat} (h : s.accepts m op = true) : m < 10 := by
  simp only [State.accepts, Bool.and_eq_true] at h
  simpa [mailboxOk] using h.1.1.1.1.1.1.1.1

theorem State.accepts_opcode {m op : Nat} (h : s.accepts m op = true) : (s.cmdOf m).opcode = op := by
  simp only [State.accepts, Bool.and_eq_true, beq_iff_eq] at h
  exact h.1.1.1.1.1.2

/-- An accepted command with one row and no extended arguments runs its own rules. -/
theorem State.plainCmd_accepted {m op : Nat} (body : Cmd → State → State) (h : s.accepts m op = true) (he : (s.cmdOf m).extLen = 0) :
    s.plainCmd m op body = body (s.cmdOf m) (s.accepted m) :=
  s.mailboxCmd_accepted (fun _ => true) (fun _ => some 0) body h rfl he

/-- An accepted command that completes answers its mailbox with its status. -/
theorem State.accepted_finish_answers {m op : Nat} (h : s.accepts m op = true) (t : State) (st d : Nat) (r : List Byte) (hs : st < 256) :
    (t.finish (s.cmdOf m) st d r).answers m op st d := by
  have := t.finish_answers (s.cmdOf m) st d r (s.accepts_lt h) hs
  rwa [s.accepts_opcode h] at this

/-- An accepted command stands in a busy mailbox. -/
theorem State.accepts_busy {m op : Nat} (h : s.accepts m op = true) : (s.mbx m).busy = true := by
  simp only [State.accepts, Bool.and_eq_true, beq_iff_eq] at h
  have := List.find?_some h.1.1.1.1.1.1.2
  simp only [Bool.and_eq_true] at this
  exact this.1

/-- A command that waits holds its mailbox, whatever it changed outside the mailboxes. -/
theorem State.accepted_holds {m op : Nat} (h : s.accepts m op = true) (t : State) (ht : t.ftn.mbx = s.ftn.mbx) :
    (t.holdMbx (s.cmdOf m)).holds m := by
  have hb := s.accepts_busy h
  have hm := s.accepts_lt h
  have hmm : (s.cmdOf m).m = m := rfl
  simp only [State.holds, State.holdMbx, hmm, State.mbx_modMbx _ _ hm, if_true, State.mbx_congr s ht, hb, and_self]

/-! ## Steps of bring-up (R450) -/

theorem Regs.done_setBits (r : Regs) (k w j : Nat) (hk : k < 14) :
    bits ((r.set CHP_BRINGUP_done (setBits (r.get CHP_BRINGUP_done) k 1 w)).get CHP_BRINGUP_done) j 1 =
      if j = k then w % 2 else bits (r.get CHP_BRINGUP_done) j 1 := by
  have hl : setBits (r.get CHP_BRINGUP_done) k 1 w < 2 ^ 14 := setBits_lt (Regs.get_lt r CHP_BRINGUP_done) (by omega)
  rw [Regs.get_set_same _ _ _ (by decide), Nat.mod_eq_of_lt (by simpa [CHP_BRINGUP_done] using hl)]
  by_cases h : j = k
  · subst h
    simp [bits_setBits]
  · simp [h, bits_setBits_ne _ k 1 w j 1 (by omega)]

/-- What setting a step of bring-up does: that step is done, a step done stays done, and nothing but CHP_BRINGUP changes. -/
theorem State.setStep_spec (n : Nat) (h1 : 1 ≤ n) (h2 : n ≤ 13) :
    (s.setStep n).stepDone n = true ∧ (∀ j, 1 ≤ j → j ≤ 13 → s.stepDone j = true → (s.setStep n).stepDone j = true) ∧
    { s.setStep n with chip := s.chip } = s ∧ { (s.setStep n).chip with regs := s.chip.regs } = s.chip ∧
    ∀ f : Field, f.off ≠ CHP_BRINGUP_done.off → (s.setStep n).chip.regs.get f = s.chip.regs.get f := by
  have hb : CHP_BRINGUP_ready.fits := by decide
  have hb2 : CHP_BRINGUP_done.fits := by decide
  have key : ∀ t : State, t = s.modChipRegs (fun r => r.set CHP_BRINGUP_done (setBits (r.get CHP_BRINGUP_done) (n - 1) 1 1)) →
      ∀ j, 1 ≤ j → t.stepDone j = (decide (j = n) || s.stepDone j) := by
    intro t ht j hj
    subst ht
    simp only [State.stepDone, State.chget, State.modChipRegs, State.modChip]
    rw [Regs.done_setBits _ _ _ _ (by omega)]
    by_cases h : j = n
    · simp [h]
    · simp [h, show ¬(j - 1 = n - 1) by omega]
  have key2 : ∀ t : State, ∀ j, 1 ≤ j → j ≤ 13 →
      (t.modChipRegs fun r => (r.set CHP_BRINGUP_done (setBits (r.get CHP_BRINGUP_done) 13 1 1)).set CHP_BRINGUP_ready 1).stepDone j = t.stepDone j := by
    intro t j hj hk
    simp only [State.stepDone, State.chget, State.modChipRegs, State.modChip]
    rw [Regs.get_set_ne _ _ _ _ hb (by decide), Regs.done_setBits _ _ _ _ (by omega), if_neg (by omega)]
  have hk := key _ rfl
  refine ⟨?_, ?_, ?_, ?_, ?_⟩
  · simp only [State.setStep]
    split
    · rw [key2 _ _ h1 h2, hk _ h1]; simp
    · rw [hk _ h1]; simp
  · intro j hj hj2 hd
    simp only [State.setStep]
    split
    · rw [key2 _ _ hj hj2, hk _ hj, hd]; simp
    · rw [hk _ hj, hd]; simp
  · simp only [State.setStep]
    split <;> rfl
  · simp only [State.setStep]
    split <;> rfl
  · intro f hf
    have e : ∀ (r : Regs) v, (r.set CHP_BRINGUP_done v).get f = r.get f := fun r v => Regs.get_set_ne _ _ _ _ hb2 (.inl (Ne.symm hf))
    have e2 : ∀ (r : Regs) v, (r.set CHP_BRINGUP_ready v).get f = r.get f := fun r v =>
      Regs.get_set_ne _ _ _ _ hb (.inl fun h => hf (h.symm.trans (by decide)))
    simp only [State.setStep]
    split
    · simp only [State.modChipRegs, State.modChip, e, e2]
    · simp only [State.modChipRegs, State.modChip, e]

end Sys2Proof.Machine
end

