-- ==== Sys2Proof/Laws/Crypto.lean ====
section
/-! SUPPORT. What the cipher and the message authentication answer: always 16 bytes; and that a mailbox whose words end in the tag of the words
before them passes the check of R428. -/

namespace Sys2Proof.Machine

/-- Every element of a list is a byte. -/
def AllBytes (l : List Nat) : Prop := ∀ x ∈ l, x < 256

theorem xtime_lt {a : Nat} (h : a < 256) : xtime a < 256 := by
  unfold xtime
  split
  · exact Nat.mod_lt _ (by decide)
  · omega

theorem gmulAux_lt (n : Nat) {a b acc : Nat} (ha : a < 256) (hc : acc < 256) : gmulAux n a b acc < 256 := by
  induction n generalizing a b acc with
  | zero => exact hc
  | succ n ih =>
    refine ih (xtime_lt ha) ?_
    split
    · exact Nat.xor_lt_two_pow (n := 8) hc ha
    · exact hc

theorem gmul_lt {a : Nat} (b : Nat) (ha : a < 256) : gmul a b < 256 := gmulAux_lt 8 ha (by decide)

theorem ginv_lt {a : Nat} (h : a < 256) : ginv a < 256 := by
  unfold ginv
  repeat' first | exact h | apply gmul_lt

theorem subByte_lt {b : Nat} (h : b < 256) : subByte b < 256 := by
  have r (x k : Nat) : rotByte x k < 2 ^ 8 := Nat.mod_lt _ (by decide)
  have g : ginv b < 2 ^ 8 := ginv_lt h
  exact Nat.xor_lt_two_pow (n := 8) (Nat.xor_lt_two_pow (Nat.xor_lt_two_pow (Nat.xor_lt_two_pow (Nat.xor_lt_two_pow g (r _ _)) (r _ _)) (r _ _))
    (r _ _)) (by decide)

theorem xorBytes_bytes {a b : List Nat} (ha : AllBytes a) (hb : AllBytes b) : AllBytes (xorBytes a b) := by
  intro x hx
  obtain ⟨i, hi, rfl⟩ := List.mem_iff_getElem.1 hx
  simp only [xorBytes, List.getElem_zipWith]
  exact Nat.xor_lt_two_pow (n := 8) (ha _ (List.getElem_mem _)) (hb _ (List.getElem_mem _))

@[simp] theorem xorBytes_length (a b : List Nat) : (xorBytes a b).length = min a.length b.length := by simp [xorBytes]

theorem AllBytes.append {a b : List Nat} (ha : AllBytes a) (hb : AllBytes b) : AllBytes (a ++ b) := by
  intro x hx
  rcases List.mem_append.1 hx with h | h
  · exact ha _ h
  · exact hb _ h

theorem AllBytes.take {a : List Nat} (h : AllBytes a) (n : Nat) : AllBytes (a.take n) := fun x hx => h x (List.mem_of_mem_take hx)

theorem AllBytes.drop {a : List Nat} (h : AllBytes a) (n : Nat) : AllBytes (a.drop n) := fun x hx => h x (List.mem_of_mem_drop hx)

theorem AllBytes.map_sub {a : List Nat} (h : AllBytes a) : AllBytes (a.map subByte) := by
  intro x hx
  obtain ⟨y, hy, rfl⟩ := List.mem_map.1 hx
  exact subByte_lt (h y hy)

theorem AllBytes.getD {a : List Nat} (h : AllBytes a) (i : Nat) : a.getD i 0 < 256 := by
  rw [List.getD_eq_getElem?_getD]
  cases e : a[i]? with
  | none => decide
  | some v => exact h v (List.mem_of_getElem? e)

theorem shiftRows_bytes {b : List Nat} (h : AllBytes b) : AllBytes (shiftRows b) := by
  intro x hx
  obtain ⟨i, -, rfl⟩ := List.mem_map.1 hx
  exact h.getD _

@[simp] theorem shiftRows_length (b : List Nat) : (shiftRows b).length = 16 := by simp [shiftRows]

theorem mixColumn_bytes {c : List Nat} (h : AllBytes c) : AllBytes (mixColumn c) := by
  intro x hx
  obtain ⟨i, -, rfl⟩ := List.mem_map.1 hx
  have g (j : Nat) : c.getD (j % 4) 0 < 2 ^ 8 := h.getD _
  have t (j : Nat) : xtime (c.getD (j % 4) 0) < 2 ^ 8 := xtime_lt (g j)
  exact Nat.xor_lt_two_pow (n := 8) (Nat.xor_lt_two_pow (Nat.xor_lt_two_pow (t _) (Nat.xor_lt_two_pow (t _) (g _))) (g _)) (g _)

/-- The words of a key schedule: four bytes each. -/
def WordsOk (ws : List (List Nat)) : Prop := ∀ w ∈ ws, AllBytes w ∧ w.length = 4

theorem rcon_lt {r : Nat} (h : r < 256) (b : Bool) : (if b then xtime r else r) < 256 := by
  split
  · exact xtime_lt h
  · exact h

theorem keyWords_ok (nk more i rcon : Nat) (ws : List (List Nat)) (hr : rcon < 256) (h : WordsOk ws) (hn : 1 ≤ nk) (hl : nk ≤ ws.length) :
    WordsOk (keyWords nk more i rcon ws) ∧ (keyWords nk more i rcon ws).length = ws.length + more := by
  induction more generalizing i rcon ws with
  | zero => exact ⟨h, rfl⟩
  | succ n ih =>
    have hold : AllBytes (ws.getD (nk - 1) []) ∧ (ws.getD (nk - 1) []).length = 4 := by
      have : nk - 1 < ws.length := by omega
      simpa [List.getD_eq_getElem?_getD, this] using h _ (List.getElem_mem this)
    have hlast : AllBytes (ws.headD []) ∧ (ws.headD []).length = 4 := by
      cases ws with
      | nil => simp at hl; omega
      | cons a r => exact h a (by simp)
    have step (t : List Nat) (ht : AllBytes t) (hl4 : t.length = 4) : WordsOk (xorBytes (ws.getD (nk - 1) []) t :: ws) := by
      intro w hw
      rcases List.mem_cons.1 hw with rfl | hw
      · exact ⟨xorBytes_bytes hold.1 ht, by rw [xorBytes_length, hold.2, hl4]; rfl⟩
      · exact h w hw
    have key (t : List Nat) (ht : AllBytes t) (hl4 : t.length = 4) := ih (i + 1) (if i % nk == 0 then xtime rcon else rcon)
      (xorBytes (ws.getD (nk - 1) []) t :: ws) (rcon_lt hr _) (step t ht hl4) (by simp; omega)
    have rot : AllBytes (((ws.headD []).drop 1 ++ (ws.headD []).take 1).map subByte) := ((hlast.1.drop 1).append (hlast.1.take 1)).map_sub
    have goal (t : List Nat) (ht : AllBytes t) (hl4 : t.length = 4) :
        WordsOk (keyWords nk n (i + 1) (if i % nk == 0 then xtime rcon else rcon) (xorBytes (ws.getD (nk - 1) []) t :: ws)) ∧
        (keyWords nk n (i + 1) (if i % nk == 0 then xtime rcon else rcon) (xorBytes (ws.getD (nk - 1) []) t :: ws)).length = ws.length + (n + 1) := by
      have := key t ht hl4
      exact ⟨this.1, by rw [this.2]; simp; omega⟩
    unfold keyWords
    refine goal _ ?_ ?_
    · split
      · exact xorBytes_bytes rot (by intro x hx; simp at hx; omega)
      · split
        · exact hlast.1.map_sub
        · exact hlast.1
    · split
      · simp only [xorBytes_length, List.length_map, List.length_append, List.length_drop, List.length_take, hlast.2]; rfl
      · split <;> simp only [List.length_map, hlast.2]

theorem fours_ok (n : Nat) {l : List Nat} (h : AllBytes l) (hl : 4 * n ≤ l.length) : WordsOk (fours n l) := by
  intro w hw
  obtain ⟨i, hi, rfl⟩ := List.mem_map.1 hw
  have := List.mem_range.1 hi
  exact ⟨(h.drop _).take 4, by simp; omega⟩

theorem AllBytes.flatten {ws : List (List Nat)} (h : ∀ w ∈ ws, AllBytes w) : AllBytes ws.flatten := by
  intro x hx
  obtain ⟨w, hw, hx⟩ := List.mem_flatten.1 hx
  exact h w hw x hx

theorem flatten_length_four (ws : List (List Nat)) (h : ∀ w ∈ ws, w.length = 4) : ws.flatten.length = 4 * ws.length := by
  induction ws with
  | nil => rfl
  | cons a r ih =>
    simp only [List.flatten_cons, List.length_append, List.length_cons, h a (by simp), ih (fun w hw => h w (List.mem_cons_of_mem _ hw))]
    omega

/-- Every round key of a key of 16 or 32 bytes is 16 bytes. -/
theorem roundKeys_ok {key : List Nat} (h : AllBytes key) (hl : key.length = 16 ∨ key.length = 32) :
    ∀ k ∈ roundKeys key, AllBytes k ∧ k.length = 16 := by
  have hlen : (fours (key.length / 4) key).length = key.length / 4 := by simp [fours]
  have hw : WordsOk (fours (key.length / 4) key).reverse := fun w hw => fours_ok _ h (by omega) w (List.mem_reverse.1 hw)
  obtain ⟨ok, len⟩ := keyWords_ok (key.length / 4) (4 * (key.length / 4 + 7) - key.length / 4) (key.length / 4) 1
    (fours (key.length / 4) key).reverse (by decide) hw (by omega) (by simp [hlen])
  intro k hk
  simp only [roundKeys, List.mem_map, List.mem_range] at hk
  obtain ⟨r, hr, rfl⟩ := hk
  have sub : ∀ w ∈ (((keyWords (key.length / 4) (4 * (key.length / 4 + 7) - key.length / 4) (key.length / 4) 1
      (fours (key.length / 4) key).reverse).reverse.drop (4 * r)).take 4), AllBytes w ∧ w.length = 4 :=
    fun w hw => ok w (List.mem_reverse.1 (List.mem_of_mem_drop (List.mem_of_mem_take hw)))
  refine ⟨AllBytes.flatten fun w hw => (sub w hw).1, ?_⟩
  rw [flatten_length_four _ fun w hw => (sub w hw).2]
  simp only [List.length_take, List.length_drop, List.length_reverse, len, hlen]
  omega

theorem aesRounds_ok (ks : List (List Nat)) (b : List Nat) (hk : ∀ k ∈ ks, AllBytes k ∧ k.length = 16) (hb : AllBytes b) (hl : b.length = 16) :
    AllBytes (aesRounds ks b) ∧ (aesRounds ks b).length = 16 := by
  induction ks generalizing b with
  | nil => exact ⟨hb, hl⟩
  | cons k r ih =>
    have k0 := hk k (by simp)
    have sr : AllBytes (shiftRows (b.map subByte)) := shiftRows_bytes hb.map_sub
    cases r with
    | nil => exact ⟨xorBytes_bytes sr k0.1, by simp [aesRounds, k0.2]⟩
    | cons k' r' =>
      have mix : AllBytes ((fours 4 (shiftRows (b.map subByte))).flatMap mixColumn) := by
        intro x hx
        obtain ⟨c, hc, hx⟩ := List.mem_flatMap.1 hx
        exact mixColumn_bytes (fours_ok 4 sr (by simp) c hc).1 x hx
      have ml : ((fours 4 (shiftRows (b.map subByte))).flatMap mixColumn).length = 16 := by
        rw [List.length_flatMap]; simp [fours, mixColumn, Function.comp_def]
      exact ih _ (fun w hw => hk w (List.mem_cons_of_mem _ hw)) (xorBytes_bytes mix k0.1) (by simp [ml, k0.2])

/-- A block of 16 bytes enciphers to 16 bytes. -/
theorem aesBlock_ok {key b : List Nat} (hk : AllBytes key) (hkl : key.length = 16 ∨ key.length = 32) (hb : AllBytes b) (hl : b.length = 16) :
    AllBytes (aesBlock key b) ∧ (aesBlock key b).length = 16 := by
  have ok := roundKeys_ok hk hkl
  unfold aesBlock
  cases e : roundKeys key with
  | nil => exact ⟨hb, hl⟩
  | cons k r =>
    rw [e] at ok
    have k0 := ok k (by simp)
    exact aesRounds_ok r _ (fun w hw => ok w (List.mem_cons_of_mem _ hw)) (xorBytes_bytes hb k0.1) (by simp [hl, k0.2])

theorem beBytes_bytes (n v : Nat) : AllBytes (beBytes n v) := by
  intro x hx
  obtain ⟨i, -, rfl⟩ := List.mem_map.1 hx
  exact Nat.mod_lt _ (by decide)

@[simp] theorem beBytes_length (n v : Nat) : (beBytes n v).length = n := by simp [beBytes]

theorem replicate_bytes (n : Nat) : AllBytes (List.replicate n 0) := by
  intro x hx
  rw [List.eq_of_mem_replicate hx]; decide

theorem cmacChain_ok {key : List Nat} (hk : AllBytes key) (hkl : key.length = 16 ∨ key.length = 32) (n : Nat) (msg x : List Nat)
    (hm : AllBytes msg) (hx : AllBytes x) (hl : x.length = 16) (hn : 16 * n ≤ msg.length) :
    AllBytes (cmacChain key n msg x) ∧ (cmacChain key n msg x).length = 16 := by
  induction n generalizing msg x with
  | zero => exact ⟨hx, hl⟩
  | succ n ih =>
    have b := aesBlock_ok hk hkl (xorBytes_bytes hx (hm.take 16)) (by simp; omega)
    exact ih _ _ (hm.drop 16) b.1 b.2 (by simp; omega)

/-- The CMAC of bytes is 16 bytes (R427). -/
theorem cmac_ok {key msg : List Nat} (hk : AllBytes key) (hkl : key.length = 16 ∨ key.length = 32) (hm : AllBytes msg) :
    AllBytes (cmac key msg) ∧ (cmac key msg).length = 16 := by
  unfold cmac
  have ch := cmacChain_ok hk hkl ((msg.length + 15) / 16 - 1) msg (List.replicate 16 0) hm (replicate_bytes 16) (by simp) (by omega)
  have tail : AllBytes (msg.drop (16 * ((msg.length + 15) / 16 - 1))) := hm.drop _
  refine aesBlock_ok hk hkl (xorBytes_bytes ch.1 ?_) ?_
  · split
    · exact xorBytes_bytes tail (beBytes_bytes _ _)
    · exact xorBytes_bytes ((tail.append (by intro x hx; simp at hx; omega)).append (replicate_bytes _)) (beBytes_bytes _ _)
  · simp only [xorBytes_length, ch.2]
    split
    · simp_all
    · simp; omega

/-! ## Commands with their tag -/

theorem natBytes_bytes (bs : List Byte) : AllBytes (natBytes bs) := by
  intro x hx
  obtain ⟨b, -, rfl⟩ := List.mem_map.1 hx
  exact b.isLt

theorem natBytes_ofNat {l : List Nat} (h : AllBytes l) : natBytes (l.map (BitVec.ofNat 8)) = l := by
  induction l with
  | nil => rfl
  | cons a r ih =>
    have := h a (by simp)
    simp only [natBytes, List.map_cons, BitVec.toNat_ofNat, List.cons.injEq]
    exact ⟨Nat.mod_eq_of_lt this, ih fun x hx => h x (List.mem_cons_of_mem _ hx)⟩

theorem leBytes_leNat (bs : List Byte) : leBytes bs.length (leNat bs) = bs := by
  induction bs with
  | nil => rfl
  | cons b r ih =>
    have hb := b.isLt
    simp only [List.length_cons, leBytes, leNat, List.cons.injEq]
    refine ⟨?_, ?_⟩
    · apply BitVec.eq_of_toNat_eq; simp; omega
    · rw [show (b.toNat + 256 * leNat r) / 256 = leNat r by omega]; exact ih

theorem wordBytes_bytesWords (n : Nat) (l : List Byte) (h : l.length = 4 * n) : wordBytes (bytesWords n l) = l := by
  have piece (i : Nat) (hi : i < n) : leBytes 4 (BitVec.ofNat 32 (leNat ((l.drop (4 * i)).take 4))).toNat = (l.drop (4 * i)).take 4 := by
    have hl4 : ((l.drop (4 * i)).take 4).length = 4 := by simp; omega
    have hlt := leNat_lt ((l.drop (4 * i)).take 4)
    rw [hl4] at hlt
    rw [BitVec.toNat_ofNat, Nat.mod_eq_of_lt (by simpa using hlt)]
    have := leBytes_leNat ((l.drop (4 * i)).take 4)
    rwa [hl4] at this
  have cat : ∀ m, m ≤ n → ((List.range m).map fun i => (l.drop (4 * i)).take 4).flatten = l.take (4 * m) := by
    intro m
    induction m with
    | zero => simp
    | succ m ih =>
      intro hm
      rw [List.range_succ, List.map_append, List.flatten_append, ih (by omega)]
      simp only [List.map_cons, List.map_nil, List.flatten_cons, List.flatten_nil, List.append_nil]
      rw [show 4 * (m + 1) = 4 * m + 4 by omega, List.take_add]
  have e : wordBytes (bytesWords n l) = ((List.range n).map fun i => (l.drop (4 * i)).take 4).flatten := by
    simp only [wordBytes, bytesWords, List.flatMap, List.map_map]
    congr 1
    exact List.map_congr_left fun i hi => piece i (List.mem_range.1 hi)
  rw [e, cat n (Nat.le_refl n), List.take_of_length_le (by omega)]

/-- A command whose last 16 bytes are the tag of the rest under its slot's key verifies (R427, R428). -/
theorem State.tagOk_of (s : State) (k : Cmd) (key : BitVec 128) (hkey : (s.slot k.slot).key = some key)
    (h : k.bytes.drop 48 = (cmac (beBytes 16 key.toNat) (s.taggedBytes k)).map (BitVec.ofNat 8)) : s.tagOk k = true := by
  have ok := cmac_ok (beBytes_bytes 16 key.toNat) (.inl (by simp)) (natBytes_bytes (k.bytes.take 48 ++
    (if k.opcode = 0x42 then ((s.ftn.files.head?).map (·.bytes)).getD [] else k.ext)))
  simp only [State.tagOk, State.slotMac, hkey, Option.map_some, h, beq_iff_eq, Option.some.injEq]
  exact (natBytes_ofNat ok.1).symm

end Sys2Proof.Machine
end

