-- ==== Sys2Proof/Laws/PerInstr.lean ====
section
/-! SUPPORT. The family CommandForm, one lemma for each command: what the command answers is decided by its syntax alone. Where every unit it names
exists it answers a next state; where one does not exist it is refused by name. -/

namespace Sys2Proof.Laws.CommandForm

open Sys2Proof Sys2Proof.Machine

/-- The command answers through onUnit: by its well-formedness a next state that keeps queue and parameters, or the refusal (log 9). -/
def Statement (i : Instr) : Prop := ∀ s : State, ∃ t : State, exec i s = onUnit i.wf s t

theorem getInfo (m : Nat) : Statement (.getInfo m) := fun _ => ⟨_, rfl⟩
theorem setIdentity (m : Nat) : Statement (.setIdentity m) := fun _ => ⟨_, rfl⟩
theorem setTime (m : Nat) : Statement (.setTime m) := fun _ => ⟨_, rfl⟩
theorem cisternOpen (m : Nat) : Statement (.cisternOpen m) := fun _ => ⟨_, rfl⟩
theorem defectLoad (m : Nat) : Statement (.defectLoad m) := fun _ => ⟨_, rfl⟩
theorem mapInstall (m : Nat) : Statement (.mapInstall m) := fun _ => ⟨_, rfl⟩
theorem blockTest (m : Nat) : Statement (.blockTest m) := fun _ => ⟨_, rfl⟩
theorem blockTestEnd (bad : List (Nat × Nat)) : Statement (.blockTestEnd bad) := fun _ => ⟨_, rfl⟩
theorem routeInit (m : Nat) : Statement (.routeInit m) := fun _ => ⟨_, rfl⟩
theorem parterreSetCreate (m : Nat) : Statement (.parterreSetCreate m) := fun _ => ⟨_, rfl⟩
theorem parterreSetDestroy (m : Nat) : Statement (.parterreSetDestroy m) := fun _ => ⟨_, rfl⟩
theorem classSet (m : Nat) : Statement (.classSet m) := fun _ => ⟨_, rfl⟩
theorem windowSet (m : Nat) : Statement (.windowSet m) := fun _ => ⟨_, rfl⟩
theorem queueSet (m : Nat) : Statement (.queueSet m) := fun _ => ⟨_, rfl⟩
theorem regSet (m : Nat) : Statement (.regSet m) := fun _ => ⟨_, rfl⟩
theorem regSetCrit (m : Nat) : Statement (.regSetCrit m) := fun _ => ⟨_, rfl⟩
theorem treeSetup (m : Nat) : Statement (.treeSetup m) := fun _ => ⟨_, rfl⟩
theorem treeRetire (m : Nat) : Statement (.treeRetire m) := fun _ => ⟨_, rfl⟩
theorem treeRetireClear : Statement (.treeRetireClear) := fun _ => ⟨_, rfl⟩
theorem mcLandSet (m : Nat) : Statement (.mcLandSet m) := fun _ => ⟨_, rfl⟩
theorem redLandSet (m : Nat) : Statement (.redLandSet m) := fun _ => ⟨_, rfl⟩
theorem redHoldRelease (m : Nat) : Statement (.redHoldRelease m) := fun _ => ⟨_, rfl⟩
theorem redHoldDiscard (m : Nat) : Statement (.redHoldDiscard m) := fun _ => ⟨_, rfl⟩
theorem fileOpen (m : Nat) : Statement (.fileOpen m) := fun _ => ⟨_, rfl⟩
theorem fileData (m : Nat) : Statement (.fileData m) := fun _ => ⟨_, rfl⟩
theorem fileCommit (m : Nat) : Statement (.fileCommit m) := fun _ => ⟨_, rfl⟩
theorem schedSwitch (m : Nat) : Statement (.schedSwitch m) := fun _ => ⟨_, rfl⟩
theorem schedStop (m : Nat) : Statement (.schedStop m) := fun _ => ⟨_, rfl⟩
theorem bankSwitch : Statement (.bankSwitch) := fun _ => ⟨_, rfl⟩
theorem sequenceStop : Statement (.sequenceStop) := fun _ => ⟨_, rfl⟩
theorem routeExcept (m : Nat) : Statement (.routeExcept m) := fun _ => ⟨_, rfl⟩
theorem sluiceReopen (m : Nat) : Statement (.sluiceReopen m) := fun _ => ⟨_, rfl⟩
theorem fenceCell (m : Nat) : Statement (.fenceCell m) := fun _ => ⟨_, rfl⟩
theorem unfenceCell (m : Nat) : Statement (.unfenceCell m) := fun _ => ⟨_, rfl⟩
theorem fenceBlock (m : Nat) : Statement (.fenceBlock m) := fun _ => ⟨_, rfl⟩
theorem unfenceBlock (m : Nat) : Statement (.unfenceBlock m) := fun _ => ⟨_, rfl⟩
theorem remap (m : Nat) : Statement (.remap m) := fun _ => ⟨_, rfl⟩
theorem resetNi (m : Nat) : Statement (.resetNi m) := fun _ => ⟨_, rfl⟩
theorem resetCell (m : Nat) : Statement (.resetCell m) := fun _ => ⟨_, rfl⟩
theorem resetBlock (m : Nat) : Statement (.resetBlock m) := fun _ => ⟨_, rfl⟩
theorem resetSoftRegion (m : Nat) : Statement (.resetSoftRegion m) := fun _ => ⟨_, rfl⟩
theorem resetHardRegion (m : Nat) : Statement (.resetHardRegion m) := fun _ => ⟨_, rfl⟩
theorem hardResetIsolate (r : Nat) : Statement (.hardResetIsolate r) := fun _ => ⟨_, rfl⟩
theorem resetChip (m : Nat) : Statement (.resetChip m) := fun _ => ⟨_, rfl⟩
theorem balanceCheck (m : Nat) : Statement (.balanceCheck m) := fun _ => ⟨_, rfl⟩
theorem powerRegionSleep (m : Nat) : Statement (.powerRegionSleep m) := fun _ => ⟨_, rfl⟩
theorem sleepClockStop (r : Nat) : Statement (.sleepClockStop r) := fun _ => ⟨_, rfl⟩
theorem powerRegionWake (m : Nat) : Statement (.powerRegionWake m) := fun _ => ⟨_, rfl⟩
theorem regionWakeDone (r : Nat) : Statement (.regionWakeDone r) := fun _ => ⟨_, rfl⟩
theorem powerBlockOff (m : Nat) : Statement (.powerBlockOff m) := fun _ => ⟨_, rfl⟩
theorem offPowerRemove (b : Nat) : Statement (.offPowerRemove b) := fun _ => ⟨_, rfl⟩
theorem powerBlockOn (m : Nat) : Statement (.powerBlockOn m) := fun _ => ⟨_, rfl⟩
theorem blockPowerOnDone (b : Nat) : Statement (.blockPowerOnDone b) := fun _ => ⟨_, rfl⟩
theorem linkSet (m : Nat) : Statement (.linkSet m) := fun _ => ⟨_, rfl⟩
theorem linkSetRetrain (n : Nat) : Statement (.linkSetRetrain n) := fun _ => ⟨_, rfl⟩
theorem linkSetDeepReq (n : Nat) : Statement (.linkSetDeepReq n) := fun _ => ⟨_, rfl⟩
theorem linkSetDeepRelease (n : Nat) : Statement (.linkSetDeepRelease n) := fun _ => ⟨_, rfl⟩
theorem linkQuiesce (m : Nat) : Statement (.linkQuiesce m) := fun _ => ⟨_, rfl⟩
theorem quiesceStart (n : Nat) : Statement (.quiesceStart n) := fun _ => ⟨_, rfl⟩
theorem quiesceDrained (n : Nat) : Statement (.quiesceDrained n) := fun _ => ⟨_, rfl⟩
theorem snapshot (m : Nat) : Statement (.snapshot m) := fun _ => ⟨_, rfl⟩
theorem snapshotCollect (m : Nat) : Statement (.snapshotCollect m) := fun _ => ⟨_, rfl⟩
theorem mbxCmdWrite (m : Nat) (k : Nat) (v : W32) : Statement (.mbxCmdWrite m k v) := fun _ => ⟨_, rfl⟩
theorem mbxDbRing (m : Nat) : Statement (.mbxDbRing m) := fun _ => ⟨_, rfl⟩
theorem mbxDbAck (m : Nat) : Statement (.mbxDbAck m) := fun _ => ⟨_, rfl⟩
theorem mbxEvtCiWrite (v : W32) : Statement (.mbxEvtCiWrite v) := fun _ => ⟨_, rfl⟩
theorem mbxMevtCiWrite (v : W32) : Statement (.mbxMevtCiWrite v) := fun _ => ⟨_, rfl⟩
theorem bootWindowWrite (a : Agent) (off : Nat) (v : W32) : Statement (.bootWindowWrite a off v) := fun _ => ⟨_, rfl⟩
theorem mbxBootCtlStart : Statement (.mbxBootCtlStart) := fun _ => ⟨_, rfl⟩
theorem keyPortResponse (data : W64) (last : Bool) : Statement (.keyPortResponse data last) := fun _ => ⟨_, rfl⟩
theorem keyVerdictTimeout : Statement (.keyVerdictTimeout) := fun _ => ⟨_, rfl⟩
theorem fountaineerWatchdogExpire : Statement (.fountaineerWatchdogExpire) := fun _ => ⟨_, rfl⟩
theorem porAssert : Statement (.porAssert) := fun _ => ⟨_, rfl⟩
theorem porRelease : Statement (.porRelease) := fun _ => ⟨_, rfl⟩
theorem hostPortReset : Statement (.hostPortReset) := fun _ => ⟨_, rfl⟩
theorem mgmtPortReset : Statement (.mgmtPortReset) := fun _ => ⟨_, rfl⟩
theorem registerWrite (a : Agent) (addr : Nat) (v : W32) : Statement (.registerWrite a addr v) := fun _ => ⟨_, rfl⟩
theorem rcFieldRead (a : Agent) (addr : Nat) : Statement (.rcFieldRead a addr) := fun _ => ⟨_, rfl⟩
theorem lowWordRead (a : Agent) (addr : Nat) : Statement (.lowWordRead a addr) := fun _ => ⟨_, rfl⟩
theorem lowWordWrite (a : Agent) (addr : Nat) (v : W32) : Statement (.lowWordWrite a addr v) := fun _ => ⟨_, rfl⟩
theorem upperWordWrite (a : Agent) (addr : Nat) (v : W32) : Statement (.upperWordWrite a addr v) := fun _ => ⟨_, rfl⟩
theorem niMapCtlInvalOne (c : Nat) (lid : Nat) : Statement (.niMapCtlInvalOne c lid) := fun _ => ⟨_, rfl⟩
theorem niMapCtlInvalAll (c : Nat) : Statement (.niMapCtlInvalAll c) := fun _ => ⟨_, rfl⟩
theorem mapCacheFill (c : Nat) (lid : Nat) : Statement (.mapCacheFill c lid) := fun _ => ⟨_, rfl⟩
theorem niLatCtlModeWrite (c : Nat) (v : W32) : Statement (.niLatCtlModeWrite c v) := fun _ => ⟨_, rfl⟩
theorem latencySampleTick (c : Nat) : Statement (.latencySampleTick c) := fun _ => ⟨_, rfl⟩
theorem blkPwrCtlHoldRun (b : Nat) : Statement (.blkPwrCtlHoldRun b) := fun _ => ⟨_, rfl⟩
theorem cqMetaRead (c : Nat) (core : Nat) (q : Nat) (loc : QueueLoc) (e : Ecc) : Statement (.cqMetaRead c core q loc e) := fun _ => ⟨_, rfl⟩
theorem cqMetaWaitLimit (c : Nat) (core : Nat) : Statement (.cqMetaWaitLimit c core) := fun _ => ⟨_, rfl⟩
theorem cqPop (c : Nat) (core : Nat) (q : Nat) : Statement (.cqPop c core q) := fun _ => ⟨_, rfl⟩
theorem cqRingRel (c : Nat) (core : Nat) (q : Nat) : Statement (.cqRingRel c core q) := fun _ => ⟨_, rfl⟩
theorem cqSendGo (c : Nat) (core : Nat) (slot : Nat) (words : List W64) (v : W64) : Statement (.cqSendGo c core slot words v) := fun _ => ⟨_, rfl⟩
theorem cqSendGoResume (c : Nat) (core : Nat) : Statement (.cqSendGoResume c core) := fun _ => ⟨_, rfl⟩
theorem cqSyncLoad (c : Nat) (core : Nat) (slot : Nat) (ch : Nat) : Statement (.cqSyncLoad c core slot ch) := fun _ => ⟨_, rfl⟩
theorem cqSyncClose (c : Nat) (core : Nat) (slot : Nat) (ch : Nat) : Statement (.cqSyncClose c core slot ch) := fun _ => ⟨_, rfl⟩
theorem cqSyncFlush (c : Nat) (core : Nat) (slot : Nat) (ch : Nat) : Statement (.cqSyncFlush c core slot ch) := fun _ => ⟨_, rfl⟩
theorem cqSyncBadOp (c : Nat) (core : Nat) (slot : Nat) (ch : Nat) : Statement (.cqSyncBadOp c core slot ch) := fun _ => ⟨_, rfl⟩
theorem cqSyncResRead (c : Nat) (core : Nat) (slot : Nat) (send : Bool) : Statement (.cqSyncResRead c core slot send) := fun _ => ⟨_, rfl⟩
theorem channelCloseComplete (c : Nat) (ch : Nat) : Statement (.channelCloseComplete c ch) := fun _ => ⟨_, rfl⟩
theorem channelFetchDone (c : Nat) (ch : Nat) (err : Bool) : Statement (.channelFetchDone c ch err) := fun _ => ⟨_, rfl⟩
theorem channelCacheEccError (c : Nat) (ch : Nat) (reorder : Bool) : Statement (.channelCacheEccError c ch reorder) := fun _ => ⟨_, rfl⟩
theorem cqDringPiWrite (c : Nat) (core : Nat) (r : Nat) (a : RingAccess) : Statement (.cqDringPiWrite c core r a) := fun _ => ⟨_, rfl⟩
theorem cqMcRearm (c : Nat) (core : Nat) (i : Nat) (a : LandAccess) : Statement (.cqMcRearm c core i a) := fun _ => ⟨_, rfl⟩
theorem cqRedRearm (c : Nat) (core : Nat) (i : Nat) (a : LandAccess) : Statement (.cqRedRearm c core i a) := fun _ => ⟨_, rfl⟩
theorem cqRillGo (c : Nat) (core : Nat) (slot : Nat) (a : RillWrite) : Statement (.cqRillGo c core slot a) := fun _ => ⟨_, rfl⟩
theorem cqRillResRead (c : Nat) (core : Nat) (slot : Nat) (loc : RillLoc) (e : Ecc) : Statement (.cqRillResRead c core slot loc e) := fun _ => ⟨_, rfl⟩
theorem cqRillPop (c : Nat) (core : Nat) : Statement (.cqRillPop c core) := fun _ => ⟨_, rfl⟩
theorem cqBarArrive (c : Nat) (core : Nat) (x : Nat) (v : W64) : Statement (.cqBarArrive c core x v) := fun _ => ⟨_, rfl⟩
theorem cqBarWaitRead (c : Nat) (core : Nat) (x : Nat) (result : Bool) : Statement (.cqBarWaitRead c core x result) := fun _ => ⟨_, rfl⟩
theorem vc3Grant (b : Nat) : Statement (.vc3Grant b) := fun _ => ⟨_, rfl⟩
theorem routerDecode (c : Nat) (pl : Plane) (p : Nat) (es : List Ecc) (tab : Bool) : Statement (.routerDecode c pl p es tab) := fun _ => ⟨_, rfl⟩
theorem switchAssign (c : Nat) (pl : Plane) : Statement (.switchAssign c pl) := fun _ => ⟨_, rfl⟩
theorem niHeadInject (c : Nat) (pl : Plane) : Statement (.niHeadInject c pl) := fun _ => ⟨_, rfl⟩
theorem patienceExpire (c : Nat) (pl : Plane) : Statement (.patienceExpire c pl) := fun _ => ⟨_, rfl⟩
theorem answerQueueInject (c : Nat) : Statement (.answerQueueInject c) := fun _ => ⟨_, rfl⟩
theorem heldPacketAnswer (c : Nat) (ch : Nat) : Statement (.heldPacketAnswer c ch) := fun _ => ⟨_, rfl⟩
theorem injectionSelect (c : Nat) (pl : Plane) : Statement (.injectionSelect c pl) := fun _ => ⟨_, rfl⟩
theorem fountainDelivery (c : Nat) (e : Ecc) : Statement (.fountainDelivery c e) := fun _ => ⟨_, rfl⟩
theorem fountainInject (c : Nat) (e : Ecc) : Statement (.fountainInject c e) := fun _ => ⟨_, rfl⟩
theorem fountainPatienceExpire (c : Nat) : Statement (.fountainPatienceExpire c) := fun _ => ⟨_, rfl⟩
theorem msgEject (c : Nat) : Statement (.msgEject c) := fun _ => ⟨_, rfl⟩
theorem msgHeadEject (c : Nat) : Statement (.msgHeadEject c) := fun _ => ⟨_, rfl⟩
theorem msgBodyEject (c : Nat) : Statement (.msgBodyEject c) := fun _ => ⟨_, rfl⟩
theorem gapTimeout (c : Nat) (ch : Nat) : Statement (.gapTimeout c ch) := fun _ => ⟨_, rfl⟩
theorem staleTailTimeout (c : Nat) (q : Nat) : Statement (.staleTailTimeout c q) := fun _ => ⟨_, rfl⟩
theorem dispatchFifoIssue (c : Nat) : Statement (.dispatchFifoIssue c) := fun _ => ⟨_, rfl⟩
theorem ackEject (c : Nat) : Statement (.ackEject c) := fun _ => ⟨_, rfl⟩
theorem nackEject (c : Nat) : Statement (.nackEject c) := fun _ => ⟨_, rfl⟩
theorem retransmitTimeout (c : Nat) (t : Nat) (e : Ecc) : Statement (.retransmitTimeout c t e) := fun _ => ⟨_, rfl⟩
theorem abandonTimeout (c : Nat) (t : Nat) : Statement (.abandonTimeout c t) := fun _ => ⟨_, rfl⟩
theorem tokenStateEccError (c : Nat) (t : Nat) : Statement (.tokenStateEccError c t) := fun _ => ⟨_, rfl⟩
theorem descriptorStart (c : Nat) (r : Nat) : Statement (.descriptorStart c r) := fun _ => ⟨_, rfl⟩
theorem wrEject (c : Nat) : Statement (.wrEject c) := fun _ => ⟨_, rfl⟩
theorem trancheFlush (c : Nat) (i : Nat) : Statement (.trancheFlush c i) := fun _ => ⟨_, rfl⟩
theorem trancheComplSend (c : Nat) : Statement (.trancheComplSend c) := fun _ => ⟨_, rfl⟩
theorem rdReqEject (c : Nat) : Statement (.rdReqEject c) := fun _ => ⟨_, rfl⟩
theorem rdDataEject (c : Nat) : Statement (.rdDataEject c) := fun _ => ⟨_, rfl⟩
theorem complEject (c : Nat) : Statement (.complEject c) := fun _ => ⟨_, rfl⟩
theorem trackerTimeout (c : Nat) (i : Nat) : Statement (.trackerTimeout c i) := fun _ => ⟨_, rfl⟩
theorem quarantineExpire (c : Nat) : Statement (.quarantineExpire c) := fun _ => ⟨_, rfl⟩
theorem gatewayWr (g : Nat) (k : Nat) : Statement (.gatewayWr g k) := fun _ => ⟨_, rfl⟩
theorem gatewayRdReq (g : Nat) (k : Nat) : Statement (.gatewayRdReq g k) := fun _ => ⟨_, rfl⟩
theorem stackReadResponse (g : Nat) (tag : Nat) (err : Bool) : Statement (.stackReadResponse g tag err) := fun _ => ⟨_, rfl⟩
theorem stackWriteResponse (g : Nat) (tag : Nat) (err : Bool) : Statement (.stackWriteResponse g tag err) := fun _ => ⟨_, rfl⟩
theorem gatewayPiPoll (g : Nat) (st : Nat) : Statement (.gatewayPiPoll g st) := fun _ => ⟨_, rfl⟩
theorem sidebandResponse (j : Nat) (page : Nat) (err : Bool) : Statement (.sidebandResponse j page err) := fun _ => ⟨_, rfl⟩
theorem clusterMemoryResponse (c : Nat) (tag : Nat) (err : Bool) : Statement (.clusterMemoryResponse c tag err) := fun _ => ⟨_, rfl⟩
theorem mcastEject (c : Nat) : Statement (.mcastEject c) := fun _ => ⟨_, rfl⟩
theorem redEject (c : Nat) (bad : List Nat) : Statement (.redEject c bad) := fun _ => ⟨_, rfl⟩
theorem rangeTimeout (c : Nat) (j : Nat) (i : Nat) : Statement (.rangeTimeout c j i) := fun _ => ⟨_, rfl⟩
theorem holdTimeout (c : Nat) (j : Nat) (i : Nat) : Statement (.holdTimeout c j i) := fun _ => ⟨_, rfl⟩
theorem shutTimeout (c : Nat) (j : Nat) (i : Nat) : Statement (.shutTimeout c j i) := fun _ => ⟨_, rfl⟩
theorem redResultEject (c : Nat) : Statement (.redResultEject c) := fun _ => ⟨_, rfl⟩
theorem combTestTick (b : Nat) : Statement (.combTestTick b) := fun _ => ⟨_, rfl⟩
theorem combTestDigest (c : Nat) (agree : Bool) (refW : Bool) (refE : Bool) : Statement (.combTestDigest c agree refW refE) := fun _ => ⟨_, rfl⟩
theorem combDupDigest (c : Nat) (agree : Bool) : Statement (.combDupDigest c agree) := fun _ => ⟨_, rfl⟩
theorem combDupTimeout (c : Nat) : Statement (.combDupTimeout c) := fun _ => ⟨_, rfl⟩
theorem telEject (c : Nat) : Statement (.telEject c) := fun _ => ⟨_, rfl⟩
theorem mntEject (c : Nat) : Statement (.mntEject c) := fun _ => ⟨_, rfl⟩
theorem rinseOffer (c : Nat) (pl : Plane) : Statement (.rinseOffer c pl) := fun _ => ⟨_, rfl⟩
theorem rinseTimeout (c : Nat) (pl : Plane) : Statement (.rinseTimeout c pl) := fun _ => ⟨_, rfl⟩
theorem schedRouterArrival (c : Nat) (es : List (List Ecc)) (tab : Bool) : Statement (.schedRouterArrival c es tab) := fun _ => ⟨_, rfl⟩
theorem schedSlotSource (c : Nat) (gw : Bool) (st : Nat) : Statement (.schedSlotSource c gw st) := fun _ => ⟨_, rfl⟩
theorem periodWake (r : Nat) : Statement (.periodWake r) := fun _ => ⟨_, rfl⟩
theorem periodArmReport (r : Nat) : Statement (.periodArmReport r) := fun _ => ⟨_, rfl⟩
theorem schedIngressDeliver (n : Nat) : Statement (.schedIngressDeliver n) := fun _ => ⟨_, rfl⟩
theorem rillFlitDecode (c : Nat) (p : Nat) (vc : Nat) (ea : Ecc) (eb : Ecc) (tab : Bool) : Statement (.rillFlitDecode c p vc ea eb tab) := fun _ => ⟨_, rfl⟩
theorem gather (c : Nat) (x : Nat) : Statement (.gather c x) := fun _ => ⟨_, rfl⟩
theorem release (c : Nat) (x : Nat) : Statement (.release c x) := fun _ => ⟨_, rfl⟩
theorem releaseFlip (c : Nat) : Statement (.releaseFlip c) := fun _ => ⟨_, rfl⟩
theorem releaseArm (c : Nat) : Statement (.releaseArm c) := fun _ => ⟨_, rfl⟩
theorem contextTimeout (x : Nat) : Statement (.contextTimeout x) := fun _ => ⟨_, rfl⟩
theorem bcastTally (c : Nat) : Statement (.bcastTally c) := fun _ => ⟨_, rfl⟩
theorem bcastFreeze (c : Nat) : Statement (.bcastFreeze c) := fun _ => ⟨_, rfl⟩
theorem bcastFree (c : Nat) : Statement (.bcastFree c) := fun _ => ⟨_, rfl⟩
theorem tallyTick : Statement (.tallyTick) := fun _ => ⟨_, rfl⟩
theorem tallyLatch (c : Nat) : Statement (.tallyLatch c) := fun _ => ⟨_, rfl⟩
theorem tallyResult : Statement (.tallyResult) := fun _ => ⟨_, rfl⟩
theorem freezeLatch (u : SnapUnit) (ecc : Bool) : Statement (.freezeLatch u ecc) := fun _ => ⟨_, rfl⟩
theorem epochFlipStart : Statement (.epochFlipStart) := fun _ => ⟨_, rfl⟩
theorem installDone : Statement (.installDone) := fun _ => ⟨_, rfl⟩
theorem wakeDoze (b : Nat) : Statement (.wakeDoze b) := fun _ => ⟨_, rfl⟩
theorem wakeSleep (r : Nat) : Statement (.wakeSleep r) := fun _ => ⟨_, rfl⟩
theorem dozeExitDone (b : Nat) : Statement (.dozeExitDone b) := fun _ => ⟨_, rfl⟩
theorem dozeIdleReached (b : Nat) : Statement (.dozeIdleReached b) := fun _ => ⟨_, rfl⟩
theorem dozeGate (b : Nat) : Statement (.dozeGate b) := fun _ => ⟨_, rfl⟩
theorem fault (c : Nat) : Statement (.fault c) := fun _ => ⟨_, rfl⟩
theorem resetFlit (c : Nat) : Statement (.resetFlit c) := fun _ => ⟨_, rfl⟩
theorem sluiceFlit (c : Nat) : Statement (.sluiceFlit c) := fun _ => ⟨_, rfl⟩
theorem cmsg (c : Nat) : Statement (.cmsg c) := fun _ => ⟨_, rfl⟩
theorem cnack (c : Nat) : Statement (.cnack c) := fun _ => ⟨_, rfl⟩
theorem rillSequenceIngress (n : Nat) : Statement (.rillSequenceIngress n) := fun _ => ⟨_, rfl⟩
theorem timeSync (n : Nat) : Statement (.timeSync n) := fun _ => ⟨_, rfl⟩
theorem timeResp (n : Nat) : Statement (.timeResp n) := fun _ => ⟨_, rfl⟩
theorem timeRespU (n : Nat) : Statement (.timeRespU n) := fun _ => ⟨_, rfl⟩
theorem timeFollow (n : Nat) : Statement (.timeFollow n) := fun _ => ⟨_, rfl⟩
theorem timeStep (r : Nat) : Statement (.timeStep r) := fun _ => ⟨_, rfl⟩
theorem timeSlew (r : Nat) : Statement (.timeSlew r) := fun _ => ⟨_, rfl⟩
theorem timeExchangeTick : Statement (.timeExchangeTick) := fun _ => ⟨_, rfl⟩
theorem holdoverExpire : Statement (.holdoverExpire) := fun _ => ⟨_, rfl⟩
theorem faultWindowRoll (b : Nat) : Statement (.faultWindowRoll b) := fun _ => ⟨_, rfl⟩
theorem watchdogPoll (region : Bool) (u : Nat) (answered : Bool) : Statement (.watchdogPoll region u answered) := fun _ => ⟨_, rfl⟩
theorem cisternDayTick : Statement (.cisternDayTick) := fun _ => ⟨_, rfl⟩
theorem pcSampleTick (c : Nat) : Statement (.pcSampleTick c) := fun _ => ⟨_, rfl⟩
theorem pcSampleAnswer (c : Nat) (pc : W64) : Statement (.pcSampleAnswer c pc) := fun _ => ⟨_, rfl⟩
theorem pcSampleTimeout (c : Nat) : Statement (.pcSampleTimeout c) := fun _ => ⟨_, rfl⟩
theorem linkDetectPoll (n : Nat) : Statement (.linkDetectPoll n) := fun _ => ⟨_, rfl⟩
theorem linkTerminationSeen (n : Nat) (h : Nat) (clk : Bool) (lanes : Nat) : Statement (.linkTerminationSeen n h clk lanes) := fun _ => ⟨_, rfl⟩
theorem trainingMessage (n : Nat) (msg : BitVec 56) : Statement (.trainingMessage n msg) := fun _ => ⟨_, rfl⟩
theorem linkTrainDone (n : Nat) : Statement (.linkTrainDone n) := fun _ => ⟨_, rfl⟩
theorem linkTrainTimeout (n : Nat) : Statement (.linkTrainTimeout n) := fun _ => ⟨_, rfl⟩
theorem linkLockDone (n : Nat) (rx : List LaneRx) : Statement (.linkLockDone n rx) := fun _ => ⟨_, rfl⟩
theorem linkLockTimeout (n : Nat) (h : Nat) (l : Nat) : Statement (.linkLockTimeout n h l) := fun _ => ⟨_, rfl⟩
theorem capSend (n : Nat) : Statement (.capSend n) := fun _ => ⟨_, rfl⟩
theorem capFrame (n : Nat) (cap : Cap) : Statement (.capFrame n cap) := fun _ => ⟨_, rfl⟩
theorem lnkCtlAdmit (n : Nat) : Statement (.lnkCtlAdmit n) := fun _ => ⟨_, rfl⟩
theorem frameReq (n : Nat) (f : Frame) : Statement (.frameReq n f) := fun _ => ⟨_, rfl⟩
theorem frameRep (n : Nat) (f : Frame) : Statement (.frameRep n f) := fun _ => ⟨_, rfl⟩
theorem frameSched (n : Nat) (f : Frame) : Statement (.frameSched n f) := fun _ => ⟨_, rfl⟩
theorem frameRill (n : Nat) (f : Frame) : Statement (.frameRill n f) := fun _ => ⟨_, rfl⟩
theorem frameIdle (n : Nat) (f : Frame) : Statement (.frameIdle n f) := fun _ => ⟨_, rfl⟩
theorem frameNak (n : Nat) (f : Frame) : Statement (.frameNak n f) := fun _ => ⟨_, rfl⟩
theorem frameCrcFail (n : Nat) (rill : Bool) : Statement (.frameCrcFail n rill) := fun _ => ⟨_, rfl⟩
theorem frameQuiesceRequest (n : Nat) : Statement (.frameQuiesceRequest n) := fun _ => ⟨_, rfl⟩
theorem frameQuiesceDone (n : Nat) : Statement (.frameQuiesceDone n) := fun _ => ⟨_, rfl⟩
theorem frameDeepRequest (n : Nat) : Statement (.frameDeepRequest n) := fun _ => ⟨_, rfl⟩
theorem frameDeepAccept (n : Nat) : Statement (.frameDeepAccept n) := fun _ => ⟨_, rfl⟩
theorem frameDeepRefuse (n : Nat) : Statement (.frameDeepRefuse n) := fun _ => ⟨_, rfl⟩
theorem deepDrained (n : Nat) : Statement (.deepDrained n) := fun _ => ⟨_, rfl⟩
theorem deepRetry (n : Nat) : Statement (.deepRetry n) := fun _ => ⟨_, rfl⟩
theorem wakeTone (n : Nat) : Statement (.wakeTone n) := fun _ => ⟨_, rfl⟩
theorem deepExitTimeout (n : Nat) : Statement (.deepExitTimeout n) := fun _ => ⟨_, rfl⟩
theorem ackTimeout (n : Nat) (rill : Bool) : Statement (.ackTimeout n rill) := fun _ => ⟨_, rfl⟩
theorem rillCreditFrame (n : Nat) : Statement (.rillCreditFrame n) := fun _ => ⟨_, rfl⟩
theorem laneFail (n : Nat) (h : Nat) (l : Nat) (lost : Bool) (hdrs : Nat) : Statement (.laneFail n h l lost hdrs) := fun _ => ⟨_, rfl⟩
theorem clockLoss (n : Nat) : Statement (.clockLoss n) := fun _ => ⟨_, rfl⟩
theorem downDetectReturn (n : Nat) : Statement (.downDetectReturn n) := fun _ => ⟨_, rfl⟩
theorem frameBoundary (n : Nat) : Statement (.frameBoundary n) := fun _ => ⟨_, rfl⟩
theorem prbsCheckerLock (n : Nat) (h : Nat) (l : Nat) (rx : BitVec 95) : Statement (.prbsCheckerLock n h l rx) := fun _ => ⟨_, rfl⟩
theorem prbsCheckerUnlock (n : Nat) (h : Nat) (l : Nat) (errs : Nat) : Statement (.prbsCheckerUnlock n h l errs) := fun _ => ⟨_, rfl⟩
theorem peerEntersTrain (n : Nat) : Statement (.peerEntersTrain n) := fun _ => ⟨_, rfl⟩
theorem clockLaneFail (n : Nat) (h : Nat) : Statement (.clockLaneFail n h) := fun _ => ⟨_, rfl⟩
theorem timeFollowTimeout (n : Nat) : Statement (.timeFollowTimeout n) := fun _ => ⟨_, rfl⟩
theorem recordSendingNcyc (region : Bool) (u : Nat) : Statement (.recordSendingNcyc region u) := fun _ => ⟨_, rfl⟩
theorem resetEnded (scope : Nat) (u : Nat) : Statement (.resetEnded scope u) := fun _ => ⟨_, rfl⟩
theorem chipResetAfterResponse : Statement (.chipResetAfterResponse) := fun _ => ⟨_, rfl⟩
theorem fountaineerMemoryUncorrectable : Statement (.fountaineerMemoryUncorrectable) := fun _ => ⟨_, rfl⟩

end Sys2Proof.Laws.CommandForm
end

