-- ==== Sys2Proof/Tests/Slice0.lean ====
section
/-! SUPPORT. Tests: ill-formed commands are refused, worked values from the spec and the standards it names, one step each of small states, and for every
statement with hypotheses a state and operands that meet them. -/

open Sys2Proof Sys2Proof.Machine

namespace Sys2Proof.Tests

-- One theorem at a time: each kernel evaluation that runs beside others holds a heap of its own.
set_option Elab.async false

/-! ## States of the tests -/

/-- The key that every slot holds. -/
def key : BitVec 128 := 0x0123456789abcdef0011223344556677

/-- A block in service, 2^25 ncyc after reset: Zhevber runs with keys in every slot, every step of bring-up is done, tables are installed with version 0
active, no NI is held, contexts 0 and 2 are valid, and the master's ID is set to 0 so that nothing in the state is free. -/
def up : State :=
  { State.reset with
    ncyc := 2 ^ 25
    time := 2 ^ 28
    chip := { Chip.reset with
      routed := true
      masterId := 0
      regs := (((Regs.reset .chip).set CHP_BRINGUP_done 0x3FFF).set (CHP_RILL_CTX_valid.at 0) 1).set (CHP_RILL_CTX_valid.at 2) 1 }
    cells := ⟨{ Cell.reset with ni := { Ni.reset with hold := .none }, rt := { Router.reset with ver0 := vACTIVE } }, []⟩
    regions := ⟨{ Region.reset with bringUp := false }, []⟩
    gws := ⟨{ Gateway.reset with hold := false }, []⟩
    ftn := { Ftn.reset with boot := .running, slots := List.replicate 4 ⟨some key, 0, 0, false⟩ } }

/-- The 48 bytes of a command before its tag (R422), with counter 1. -/
def head (op slot extLen : Nat) (args : List Byte) : List Byte :=
  leBytes 2 op ++ leBytes 1 slot ++ leBytes 1 0 ++ leBytes 4 extLen ++ leBytes 8 1 ++ padTo 32 args

/-- Mailbox m rung with a command, its tag under the slot's key and its extended arguments staged. -/
def send (s : State) (m op slot : Nat) (args ext : List Byte) : State :=
  let b := head op slot ext.length args
  let rest := if op = 0x42 then ((s.ftn.files.head?).map (·.bytes)).getD [] else ext
  let tag := (cmac (beBytes 16 key.toNat) (natBytes (b ++ rest))).map (BitVec.ofNat 8)
  (s.modFtn fun x => { x with staging := if ext.all (· == 0) then [] else [(m, mwriteList [] 0 ext)] }).modMbx m fun x =>
    { x with cmd := bytesWords 16 (b ++ tag), busy := true }

/-- What is left to check of a command once its tag is known to hold. -/
def checked (s : State) (m op slot : Nat) (ext : List Byte) : Bool :=
  let k := s.cmdOf m
  mailboxOk m && s.zRuns && s.nextMbx == some m && k.opcode == op && opKnown op && slotAllowed k && k.slot == slot && k.ext == ext &&
  (s.slot slot).key == some key && !(s.slot slot).locked && decide ((s.slot slot).counter.toNat < k.counter) && k.flags == 0 &&
  (opNeeds k).all s.stepDone

/-- The tag of a command sent so holds. -/
theorem tag_send {s : State} {m op slot : Nat} {args ext : List Byte} (hm : m < 10)
    (hop : ((send s m op slot args ext).cmdOf m).opcode = op) (hs : ((send s m op slot args ext).cmdOf m).slot = slot)
    (he : ((send s m op slot args ext).cmdOf m).ext = ext) (hk : ((send s m op slot args ext).slot slot).key = some key) :
    (send s m op slot args ext).tagOk ((send s m op slot args ext).cmdOf m) = true := by
  have hl : (head op slot ext.length args).length = 48 := by simp [head, padTo]
  have hb : ((send s m op slot args ext).cmdOf m).bytes = head op slot ext.length args ++
      (cmac (beBytes 16 key.toNat) (natBytes (head op slot ext.length args ++
        (if op = 0x42 then ((s.ftn.files.head?).map (·.bytes)).getD [] else ext)))).map (BitVec.ofNat 8) := by
    have ok := cmac_ok (beBytes_bytes 16 key.toNat) (.inl (by simp)) (natBytes_bytes (head op slot ext.length args ++
        (if op = 0x42 then ((s.ftn.files.head?).map (·.bytes)).getD [] else ext)))
    have e : ((send s m op slot args ext).mbx m).cmd = bytesWords 16 (head op slot ext.length args ++
        (cmac (beBytes 16 key.toNat) (natBytes (head op slot ext.length args ++
          (if op = 0x42 then ((s.ftn.files.head?).map (·.bytes)).getD [] else ext)))).map (BitVec.ofNat 8)) := by
      unfold send; rw [State.mbx_modMbx _ _ hm, if_pos rfl]
    simp only [State.cmdOf, e]
    exact wordBytes_bytesWords 16 _ (by simp only [List.length_append, List.length_map, ok.2, hl])
  refine State.tagOk_of _ _ key (by rw [hs]; exact hk) ?_
  rw [hb, List.drop_left' hl]
  congr 2
  simp only [State.taggedBytes, hb, List.take_left' hl, hop, he]
  rfl

/-- A command sent so is accepted. -/
theorem accepts_send {s : State} {m op slot : Nat} {args ext : List Byte} (h : checked (send s m op slot args ext) m op slot ext = true) :
    (send s m op slot args ext).accepts m op = true := by
  simp only [checked, Bool.and_eq_true, beq_iff_eq, Bool.not_eq_true', decide_eq_true_eq] at h
  obtain ⟨⟨⟨⟨⟨⟨⟨⟨⟨⟨⟨⟨h0, h1⟩, h2⟩, h3⟩, h4⟩, h5⟩, h6⟩, h7⟩, h8⟩, h9⟩, h10⟩, h11⟩, h12⟩ := h
  simp [State.accepts, h0, h1, h2, h3, h4, h5, h6, tag_send (of_decide_eq_true h0) h3 h6 h7 h8, h9, h10, h11, h12]

/-! ## Witnesses: the queue, mailboxes, boot -/

theorem witness_StepRunsFrontCommand :
    ({ State.reset with pending := [.mbxDbRing 3, .mbxDbAck 3] } : State).pending = .mbxDbRing 3 :: [.mbxDbAck 3] := rfl

theorem witness_EmptyQueueStep : State.reset.pending = [] ∧ ({ State.reset with por := false } : State).por = false := ⟨rfl, rfl⟩

theorem witness_EveryNamedUnitCommandAnswers : (Instr.mbxDbRing 9).wf = true ∧ (Instr.mbxDbRing 10).wf = false := by decide

/-- Mailbox 9 busy with a command of all zeros. -/
def busy9 : State := up.modMbx 9 fun x => { x with busy := true }

theorem witness_CommandWordWrite : 9 < 10 ∧ 15 < 16 ∧ (up.mbx 9).busy = false ∧ (busy9.mbx 9).busy = true := by decide +kernel

theorem witness_DoorbellsIndicesAndPortResets : 9 < 10 ∧ (up.mbx 9).busy = false ∧ (busy9.mbx 9).busy = true := by decide +kernel

theorem witness_BootWindow :
    (0x3FFFFC % 4 = 0 ∧ 0x3FFFFC < 0x400000 ∧ State.reset.ftn.boot = .held ∧ Memory.wf State.reset.ftn.image = true ∧ up.ftn.boot ≠ .held) ∧
    (0x400000 ≤ 0x7FFFFC ∧ 0x7FFFFC < 0x800000 ∧ up.ftn.boot = .running ∧ (up.mbx ((0x7FFFFC - 0x400000) / 524288)).busy = false ∧
      State.reset.ftn.boot ≠ .running) := by decide +kernel

/-- An image of a header alone, its CRC in place or a byte of it changed. -/
def image (bad : Nat) : State :=
  State.reset.modFtn fun f =>
    let m := mwriteList (mwriteList [] 0 [0x5A, 0x48, 0x56, 0x42, 7]) 8 (leBytes 4 64)
    { f with image := mwriteList m 60 (leBytes 4 (crc32 (mreadList m 0 60 ++ List.replicate 4 0) ^^^ bad)) }

theorem witness_BootStart :
    (State.reset.ftn.boot = .held ∧ mreadList State.reset.ftn.image 0 4 ≠ [0x5A, 0x48, 0x56, 0x42]) ∧
    ((image 1).ftn.boot = .held ∧ ¬(mreadList (image 1).ftn.image 0 4 ≠ [0x5A, 0x48, 0x56, 0x42] ∨ (image 1).imageLength < 64 ∨
      4194304 < (image 1).imageLength) ∧ (image 1).imageCrc ≠ mreadLE (image 1).ftn.image 60 4) ∧
    ((image 0).ftn.boot = .held ∧ ¬(mreadList (image 0).ftn.image 0 4 ≠ [0x5A, 0x48, 0x56, 0x42] ∨ (image 0).imageLength < 64 ∨
      4194304 < (image 0).imageLength) ∧ ¬((image 0).imageCrc ≠ mreadLE (image 0).ftn.image 60 4)) ∧ up.ftn.boot ≠ .held := by decide +kernel

/-- The Fountaineer in VERIFYING with n beats taken. -/
def verifying (n : Nat) : State := { up with ftn := { up.ftn with boot := .verifying, beats := (List.replicate n 0).set 0 1 } }

theorem witness_KeyPortAndFailures :
    ((verifying 0).ftn.boot = .verifying ∧ (verifying 0).ftn.keyed = false ∧ (verifying 0).ftn.beats = [] ∧ (2 : W64).getLsbD 0 = false ∧
      (verifying 0).ftn.beats.length < 9 ∧ (1 : W64).getLsbD 0 = true) ∧
    ((verifying 8).ftn.boot = .verifying ∧ (verifying 8).ftn.keyed = false ∧ (verifying 8).ftn.beats.length < 9 ∧ (verifying 8).ftn.beats ≠ []) ∧
    ((verifying 9).ftn.boot = .verifying ∧ (verifying 9).ftn.keyed = false ∧ (verifying 9).ftn.beats.length = 9) ∧
    (let s := { verifying 0 with ncyc := 100 * 1800000 }; s.ftn.boot = .verifying ∧ s.ftn.since + 100 * 1800000 ≤ s.ncyc) ∧
    up.ftn.boot = .running ∧ up.ftn.boot ≠ .failed := by decide +kernel

theorem witness_PowerOnReset : ({ up with por := false } : State).por = false ∧ up.por = true := ⟨rfl, rfl⟩

/-- A reset of the chip due at a time. -/
def resetDue (t : Nat) : State := busy9.modFtn fun f => { f with resetAt := some t }

theorem witness_ChipResetAfterResponse :
    ((resetDue busy9.ncyc).ftn.resetAt = some busy9.ncyc ∧ busy9.ncyc ≤ (resetDue busy9.ncyc).ncyc ∧ ((resetDue busy9.ncyc).mbx 9).busy = true) ∧
    ((resetDue (busy9.ncyc + 1)).ftn.resetAt = some (busy9.ncyc + 1) ∧ (resetDue (busy9.ncyc + 1)).ncyc < busy9.ncyc + 1) := by decide +kernel

/-! ## Witnesses: registers (R8 to R11) -/

theorem witness_WriteByAccessCode :
    enumsAt (Regs.reset .cell).scope 0x60 = [] ∧ ∃ row, regAt .cell 0x60 = some (0x60, row, false) ∧ row.rw &&& row.w1c = 0 ∧ row.w1c ≠ 0 :=
  ⟨by decide +kernel, _, rfl, by decide +kernel⟩

/-- The first host address of the registers of the last cell. -/
def cellAt : Nat := 0x40000000 + 12255 * 0x8000

/-- The host's port with the upper word after an address latched. -/
def latched (a : Nat) : State := { up with portHost := ⟨some (a, 9), none⟩ }

theorem witness_SixtyFourBitRegisters :
    (∃ row, place .host (wordAddr (cellAt + 0x4120)) = .unit .cell 12255 0x4120 ∧ up.powered .cell 12255 ∧
      regAt .cell 0x4120 = some (0x4120, row, false) ∧ row.width = 64 ∧ up.window .cell 12255 0x4120 = none) ∧
    (∃ row, place .host (wordAddr (cellAt + 0x4124)) = .unit .cell 12255 0x4124 ∧ (latched (cellAt + 0x4120)).powered .cell 12255 ∧
      regAt .cell 0x4124 = some (0x4120, row, true) ∧ row.width = 64 ∧ (latched (cellAt + 0x4120)).window .cell 12255 0x4124 = none ∧
      ((latched (cellAt + 0x4120)).port .host).latch = some (cellAt + 0x4120, 9) ∧ cellAt + 0x4120 + 4 = wordAddr (cellAt + 0x4124) ∧
      ∀ k hi, (up.port .host).latch = some (k, hi) → k + 4 ≠ wordAddr (cellAt + 0x4124)) ∧
    place .zhevber (wordAddr (cellAt + 0x4120)) = .unit .cell 12255 0x4120 ∧ place .zhevber (wordAddr (cellAt + 0x4124)) = .unit .cell 12255 0x4124 ∧
    (let s := { up with portZhev := ⟨none, some (wordAddr (cellAt + 0x4124) - 4, 7)⟩ }
     s.portZhev.held = some (wordAddr (cellAt + 0x4124) - 4, 7) ∧ 4 ≤ wordAddr (cellAt + 0x4124)) := by
  refine ⟨⟨_, by decide +kernel, fun b _ => rfl, rfl, by decide +kernel, by decide +kernel⟩,
    ⟨_, by decide +kernel, fun b _ => rfl, rfl, by decide +kernel, by decide +kernel, rfl, by decide +kernel, fun _ _ h => ?_⟩,
    by decide +kernel, by decide +kernel, rfl, by decide +kernel⟩
  exact absurd h (by simp [State.port, up, State.reset, PortLatch.reset])

theorem witness_RegisterReadsAndWrites :
    (∃ row, place .host (wordAddr (cellAt + 0x60)) = .unit .cell 12255 0x60 ∧ regAt .cell 0x60 = some (0x60, row, false) ∧ row.width = 32 ∧
      up.powered .cell 12255 ∧ up.window .cell 12255 0x60 = none) ∧
    place .zhevber (wordAddr (cellAt + 0x60)) = .unit .cell 12255 0x60 ∧
    place .mgmt (wordAddr (cellAt + 0x60)) = .unit .cell 12255 0x60 ∧ Scope.cell ≠ .chip ∧ (regAt .cell 0x60).isSome = true :=
  ⟨⟨_, by decide +kernel, rfl, by decide +kernel, fun b _ => rfl, by decide +kernel⟩, by decide +kernel, by decide +kernel, by decide, by decide +kernel⟩

/-! ## Witnesses: mailbox commands -/

/-- Slot 1 changed. -/
def slot1 (f : Slot → Slot) : State := up.modSlot 1 f

theorem witness_CriticalCommandChecks :
    (let s := send up 9 0x52 2 [5, 0, 0] []
     9 < 10 ∧ s.zRuns = true ∧ s.nextMbx = some 9 ∧ (s.cmdOf 9).opcode = 0x52 ∧ (s.cmdOf 9).arg 2 1 = 0 ∧ slotAllowed (s.cmdOf 9) = false) ∧
    (let s := send (slot1 fun x => { x with locked := true }) 0 0x52 1 [5, 0, 0] []
     s.zRuns = true ∧ s.nextMbx = some 0 ∧ (s.cmdOf 0).opcode = 0x52 ∧ (s.cmdOf 0).arg 2 1 = 0 ∧ slotAllowed (s.cmdOf 0) = true ∧
     (s.slot (s.cmdOf 0).slot).locked = true) ∧
    (let s := send (slot1 fun x => { x with key := none }) 0 0x52 1 [5, 0, 0] []
     s.zRuns = true ∧ s.nextMbx = some 0 ∧ (s.cmdOf 0).opcode = 0x52 ∧ (s.cmdOf 0).arg 2 1 = 0 ∧ slotAllowed (s.cmdOf 0) = true ∧
     (s.slot (s.cmdOf 0).slot).locked = false ∧ s.tagOk (s.cmdOf 0) = false) ∧
    (let s := send (slot1 fun x => { x with counter := 1 }) 0 0x52 1 [5, 0, 0] []
     (s.zRuns = true ∧ s.nextMbx = some 0 ∧ (s.cmdOf 0).opcode = 0x52 ∧ (s.cmdOf 0).arg 2 1 = 0 ∧ slotAllowed (s.cmdOf 0) = true ∧
     (s.slot (s.cmdOf 0).slot).locked = false ∧ (s.cmdOf 0).counter ≤ (s.slot (s.cmdOf 0).slot).counter.toNat) ∧ s.tagOk (s.cmdOf 0) = true) := by
  refine ⟨by decide +kernel, by decide +kernel, by decide +kernel, by decide +kernel, tag_send (by decide) ?_ ?_ ?_ ?_⟩ <;> decide +kernel

/-- The block in service but for one step of bring-up. -/
def without (n : Nat) : State := up.modChipRegs fun r => r.set CHP_BRINGUP_done (0x3FFF - 2 ^ (n - 1))

theorem witness_BringUpCommands :
    (let s := send up 0 0x01 0xFF [] []; s.accepts 0 0x01 = true ∧ (s.cmdOf 0).extLen = 0) ∧
    (let s := send up 0 0x02 1 [0xFF, 0x1F, 0xFF, 0x1F] []; s.accepts 0 0x02 = true ∧ (s.cmdOf 0).extLen = 0 ∧ (s.cmdOf 0).arg 0 2 ≤ 8191 ∧
      (s.cmdOf 0).arg 2 2 ≤ 8191 ∧ bits ((s.cmdOf 0).arg 0 2) 8 5 ≤ bits ((s.cmdOf 0).arg 2 2) 0 5 ∧
      bits ((s.cmdOf 0).arg 0 2) 4 4 ≤ bits ((s.cmdOf 0).arg 2 2) 5 4 ∧ bits ((s.cmdOf 0).arg 0 2) 0 4 ≤ bits ((s.cmdOf 0).arg 2 2) 9 4) ∧
    (let s := send (without 6) 0 0x10 1 [1] (List.replicate 9216 0)
     s.accepts 0 0x10 = true ∧ (s.cmdOf 0).extLen = 9216 ∧ (s.cmdOf 0).arg 0 1 = 1 ∧ s.stepDone 6 = false) ∧
    (let s := send (without 8) 0 0x11 1 [0] []
     s.accepts 0 0x11 = true ∧ (s.cmdOf 0).extLen = 0 ∧ (s.cmdOf 0).arg 0 1 = 0 ∧ s.stepDone 8 = false) ∧
    (let s := send (without 9) 0 0x13 1 [] []
     s.accepts 0 0x13 = true ∧ (s.cmdOf 0).extLen = 0 ∧ s.stepDone 9 = false ∧ (s.accepted 0).chooseCorner.ctxValid 0 = true) := by
  refine ⟨?_, ⟨accepts_send ?_, ?_⟩, ⟨accepts_send ?_, ?_⟩, ⟨accepts_send ?_, ?_⟩, accepts_send ?_, ?_⟩ <;> decide +kernel

/-- A test of block 0 that ends now, its command waiting in mailbox 0. -/
def testing : State :=
  ((send up 0 0x12 0xFF [] []).modMbx 0 fun x => { x with taken := true }).modChip fun h => { h with mbxWait := [(100, 0)] }

theorem witness_TimeAndSelfTestCommands :
    (let s := send up 9 0x03 1 [3, 0, 0xFF, 0x0F, 15, 1] []; s.accepts 9 0x03 = true ∧ (s.cmdOf 9).extLen = 0 ∧ (s.cmdOf 9).arg 0 1 ≤ 3 ∧
      1 ≤ (s.cmdOf 9).arg 2 2 ∧ (s.cmdOf 9).arg 2 2 ≤ 4095 ∧ 1 ≤ (s.cmdOf 9).arg 4 1 ∧ (s.cmdOf 9).arg 4 1 ≤ 15 ∧ (s.cmdOf 9).arg 5 1 ≠ 0) ∧
    (let s := send (without 10) 0 0x12 0xFF [0, 0, 0, 0, 40] []; s.accepts 0 0x12 = true ∧ (s.cmdOf 0).extLen = 0 ∧ (s.cmdOf 0).arg 0 1 = 0 ∧
      40 ≤ (s.cmdOf 0).arg 4 4 ∧ s.stepDone 10 = false ∧ ∀ b ∈ allBlocks, (s.block b).test = none) ∧
    (let s := testing.modBlock 0 fun x => { x with test := some ⟨testing.now⟩ }
     (0 ∈ allBlocks ∧ (s.block 0).test = some ⟨testing.now⟩ ∧ testing.now ≤ s.now) ∧ aget s.chip.mbxWait 100 = some 0 ∧ 0 < 10 ∧
     (s.mbx 0).taken = true ∧ (s.cmdOf 0).opcode = 0x12) := by
  refine ⟨⟨accepts_send ?_, ?_⟩, ?_, ?_⟩ <;> decide +kernel

/-- The block in service with parterre 255 of no cells. -/
def withParterre : State := up.modChip fun h => { h with parterres := [⟨255, []⟩] }

theorem witness_ParterreAndClassCommands :
    (let s := send up 0 0x20 0 [255, 0, 15] (List.replicate 1152 0); s.accepts 0 0x20 = true ∧ (s.cmdOf 0).extLen = 1152 ∧
      ((s.cmdOf 0).arg 1 1 = 0 ∧ (s.cmdOf 0).arg 0 1 ≠ 0 ∧ (s.cmdOf 0).arg 2 1 ≤ 15 ∧ s.parterre ((s.cmdOf 0).arg 0 1) = none) ∧
      ∀ c ∈ (s.cmdOf 0).cells, s.cget c NI_OWNER_parterre = 0 ∨ s.cget c NI_OWNER_parterre = (s.cmdOf 0).arg 0 1) ∧
    (let s := send withParterre 0 0x20 0 [255, 1, 15] []; s.accepts 0 0x20 = true ∧ (s.cmdOf 0).extLen = 0 ∧ (s.cmdOf 0).arg 1 1 = 1 ∧
      (s.cmdOf 0).arg 0 1 ≠ 0 ∧ (s.cmdOf 0).arg 2 1 ≤ 15 ∧ (s.parterre ((s.cmdOf 0).arg 0 1)).isSome = true) ∧
    (let s := send up 0 0x21 1 [15, 0, 9, 0, 0, 0, 0, 0, 0, 0, 16, 0, 0xFF, 7] []; s.accepts 0 0x21 = true ∧ (s.cmdOf 0).extLen = 0 ∧
      (s.cmdOf 0).arg 0 1 ≤ 15 ∧ (s.cmdOf 0).arg 8 3 ≤ 2 ^ 20 ∧ (s.cmdOf 0).arg 12 2 < 2 ^ 11) := by
  refine ⟨⟨accepts_send ?_, ?_, ?_, fun c _ => .inl (show up.cget 0 NI_OWNER_parterre = 0 by decide +kernel)⟩, ⟨accepts_send ?_, ?_⟩, accepts_send ?_, ?_⟩ <;> decide +kernel

theorem witness_WindowQueueAndRegisterCommands :
    (let s := send up 0 0x22 0 [0x81, 0, 15, 1, 3] []; let k := s.cmdOf 0; s.accepts 0 0x22 = true ∧ k.extLen = 0 ∧ k.arg 0 2 < 0x3F00 ∧
      cellOk (k.arg 0 2) = true ∧ k.arg 2 1 ≤ 15 ∧ k.arg 3 1 < 8 ∧ k.arg 4 1 < 256 ∧ k.arg 16 8 < 2 ^ 48 ∧ k.arg 3 1 % 2 = 1 ∧
      (⟨0, k.arg 4 1, k.arg 5 3, k.arg 8 3 + 1, k.arg 16 8⟩ : Win).row none (s.gatewayCell? (k.arg 0 2)).isSome
        ((s.cell (k.arg 0 2)).regs.niWindows (k.arg 2 1)) = 0) ∧
    (let s := send up 0 0x23 0xFF ([0x81, 0, 63, 0, 0, 1, 0, 4] ++ List.replicate 16 0 ++ [0, 16]) []; let k := s.cmdOf 0
     s.accepts 0 0x23 = true ∧ k.extLen = 0 ∧ cellOk (k.arg 0 2) = true ∧ k.arg 2 1 ≤ 63 ∧
      k.arg 4 2 + (((List.range 64).filter fun j => j != k.arg 2 1).map fun j => s.cget (k.arg 0 2) (NI_Q_CFG_q_min.at j)).sum ≤ 1024 ∧
      k.arg 4 2 ≤ k.arg 6 2 ∧ k.arg 6 2 ≤ 1024 ∧ k.arg 10 2 < 2 ^ 12 ∧ k.arg 16 8 % 4096 = 0 ∧ k.arg 16 8 < 2 ^ 48 ∧ k.arg 24 2 ≤ 4096 ∧
      ((s.ni (k.arg 0 2)).queue (k.arg 2 1)).taken = 0 ∧ ((s.ni (k.arg 0 2)).queue (k.arg 2 1)).u = 0) := by
  refine ⟨⟨accepts_send ?_, ?_⟩, ?_⟩ <;> decide +kernel

/-! ## Witnesses: trees, landings, files, schedules -/

/-- The bytes of a tree record with its vertices (R123). -/
def treeExt (tree kind root expected : Nat) (vs : List (Nat × Nat × Nat × Nat)) : List Byte :=
  leBytes 2 tree ++ leBytes 2 kind ++ leBytes 2 root ++ leBytes 2 vs.length ++ leBytes 8 0 ++ leBytes 4 expected ++ leBytes 12 0 ++
    vs.flatMap fun v => leBytes 2 v.1 ++ leBytes 1 v.2.1 ++ leBytes 1 v.2.2.1 ++ leBytes 1 v.2.2.2 ++ leBytes 3 0

/-- A root with a branch East, and the cell behind it with a local branch. -/
def twoVerts : List (Nat × Nat × Nat × Nat) := [(0, 1, 4, 0), (1, 16, 2, 0)]

/-- The records of a reduction tree of the two: each contributes, the root combines. -/
def twoReds : List (Nat × Nat × Nat × Nat) := [(0, 17, 4, 2), (1, 16, 2, 1)]

/-- Tree 4095 over the two vertices stands installed, closing or not. -/
def treed (ret : List Retire) : State :=
  let s := (up.setCascade 0 4095 0x101).setCascade 1 4095 0x110
  s.modChip fun h => { h with trees := [⟨4095, false, 0, twoVerts⟩], retiring := ret }

theorem witness_TreeCommands :
    (let s := send up 0 0x30 0 [] (treeExt 4095 0 0 0 twoVerts); let k := s.cmdOf 0; let x := TreeRec.of k.ext; let vs := vtxList k.ext 32 x.count
     s.accepts 0 0x30 = true ∧ k.extLen ≤ stagingSize ∧ x.formOk = true ∧ k.ext.length = 32 + 8 * x.count + 32 * x.kind ∧ k.arg 0 1 ≤ x.kind ∧
     x.kind ≤ 1 ∧ s.usedTrees.length < 4096 ∧ (∀ r ∈ s.chip.retiring, r.tree ≠ x.tree) ∧ s.treeUsed x.tree = false ∧ s.treeRow x vs = 0 ∧ x.kind ≠ 1) ∧
    (let e := treeExt 4094 1 0 2 twoReds ++ leBytes 12 1 ++ leBytes 4 (2 ^ 31) ++ leBytes 16 0
     let s := send up 0 0x30 0 ([0, 0, 0, 0] ++ leBytes 2 4095 ++ leBytes 2 4095) e; let k := s.cmdOf 0; let x := TreeRec.of k.ext
     let vs := vtxList k.ext 32 x.count; let q := k.redSetup (32 + 8 * x.count)
     s.accepts 0 0x30 = true ∧ k.extLen ≤ stagingSize ∧ x.formOk = true ∧ k.ext.length = 32 + 8 * x.count + 32 * x.kind ∧ k.arg 0 1 ≤ x.kind ∧
     x.kind = 1 ∧ s.usedTrees.length < 4096 ∧ s.treeUsed x.tree = false ∧ s.treeRow x vs = 0 ∧ 1 ≤ q.base ∧
     q.base * (1 + (vs.map fun v => redHeight vs v).foldl max 0) ≤ 4095 ∧ 1 ≤ q.hold ∧ q.hold ≤ 4095 ∧ redUps vs x.root = true ∧
     s.redRow x vs q = 0 ∧ s.redRoom x vs q = 0 ∧ q.delivers = true) ∧
    (let s := send (treed []) 0 0x31 0 [0xFF, 0x0F, 1] []; s.accepts 0 0x31 = true ∧ (s.cmdOf 0).extLen = 0 ∧ (s.cmdOf 0).arg 0 2 < 4096 ∧
      (s.cmdOf 0).arg 2 1 ≤ 1 ∧ s.treeUsed ((s.cmdOf 0).arg 0 2) = true ∧ ∀ r ∈ s.chip.retiring, r.tree ≠ (s.cmdOf 0).arg 0 2) ∧
    (let s := (send (treed [⟨4095, 0, true, true, 0⟩]) 0 0x31 0 [0xFF, 0x0F, 1] []).modMbx 0 fun x => { x with taken := true }
     s.chip.retiring = [⟨4095, 0, true, true, 0⟩] ∧
     (∀ c ∈ twoVerts.map Vtx.cell, ((twoVerts.map Vtx.cell).foldl (fun a c => a.discardHeld c 4095) s).rangesIdle c 4095 = true) ∧
     (s.mbx 0).taken = true) := by
  refine ⟨⟨accepts_send ?_, ?_⟩, ⟨accepts_send ?_, ?_⟩, ⟨accepts_send ?_, ?_⟩, ?_⟩ <;> decide +kernel

/-- Range 0 of tree entry 15 held at the cell in the corner. -/
def heldAt (c : Nat) : State := up.modNi c fun x => x.setRange 15 0 { RangeRt.idle with st := .held }

theorem witness_LandingAndHeldRangeCommands :
    (let s := send up 0 0x32 0xFF [0xDF, 0x2F, 15, 1, 0xFF, 0x0F, 0xFF, 0x0F] []; let k := s.cmdOf 0
     (s.block (blockOf (k.arg 0 2))).power = .run ∧ s.accepts 0 0x32 = true ∧ k.extLen = 0 ∧ cellOk (k.arg 0 2) = true ∧ k.arg 2 1 < 16 ∧
     k.arg 3 1 < 16 ∧ k.arg 4 2 < 4096 ∧ k.arg 6 2 < 4096 ∧ s.cellFlag (k.arg 0 2) (NI_MC_LAND_valid.at (k.arg 2 1)) = false ∧ k.arg 3 1 % 2 = 1) ∧
    (let s := send up 0 0x33 0xFF [0xDF, 0x2F, 7, 3, 0xFF, 0x0F] []; let k := s.cmdOf 0
     (s.block (blockOf (k.arg 0 2))).power = .run ∧ s.accepts 0 0x33 = true ∧ k.extLen = 0 ∧ cellOk (k.arg 0 2) = true ∧ k.arg 2 1 < 8 ∧
     k.arg 3 1 < 4 ∧ k.arg 4 2 < 4096 ∧ s.cellFlag (k.arg 0 2) (NI_RED_LAND_valid.at (k.arg 2 1)) = false ∧ k.arg 3 1 % 2 = 1) ∧
    (let s := send (heldAt 12255) 0 0x34 0xFF [0xDF, 0x2F, 0] []; s.accepts 0 0x34 = true ∧ (s.cmdOf 0).extLen = 0 ∧
      cellOk ((s.cmdOf 0).arg 0 2) = true ∧ (s.ni ((s.cmdOf 0).arg 0 2)).oldestHeld = some (15 * 1024, { RangeRt.idle with st := .held }) ∧
      (s.cmdOf 0).arg 2 1 = 0) ∧
    (let s := send (heldAt 12255) 0 0x34 0xFF [0xDF, 0x2F, 1] []; s.accepts 0 0x34 = true ∧ (s.cmdOf 0).extLen = 0 ∧
      cellOk ((s.cmdOf 0).arg 0 2) = true ∧ (s.ni ((s.cmdOf 0).arg 0 2)).oldestHeld = some (15 * 1024, { RangeRt.idle with st := .held }) ∧
      (s.cmdOf 0).arg 2 1 = 1) := by
  refine ⟨?_, ?_, ?_, ?_⟩ <;> decide +kernel

/-- A file with its CRC put in at an offset. -/
def withCrc (b : List Byte) (off : Nat) : List Byte :=
  b.take off ++ leBytes 4 (crc32 (b.take off ++ [0, 0, 0, 0] ++ b.drop (off + 4))) ++ b.drop (off + 4)

/-- A slot-table file of one period without rows, with schedule_id id. -/
def slotFile (id : Nat) : List Byte :=
  withCrc (padTo 24 [0x4E, 0x4C, 0x5A, 0x53, 1, 0, 1] ++ leBytes 8 id ++ padTo 32 (leBytes 4 1024) ++
    (leBytes 4 128 ++ leBytes 4 128 ++ leBytes 4 128 ++ leBytes 4 128) ++ List.replicate 120 0) 124

/-- A tree file of one tree over two vertices, with schedule_id id. -/
def treeFileOf (id root : Nat) : List Byte :=
  withCrc (padTo 10 [0x4E, 0x4C, 0x5A, 0x54, 1] ++ leBytes 2 1 ++ leBytes 4 2 ++ leBytes 8 id ++ leBytes 4 64 ++ leBytes 4 96 ++
    List.replicate 32 0 ++ treeExt 4095 0 root 0 twoVerts) 60

/-- Files delivered, and not yet committed. -/
def withFiles (l : List FileRt) : State := up.modFtn fun x => { x with files := l }

/-- The commit of a file delivered whole, beside one of the other kind. -/
def commit (kind : Nat) (b : List Byte) (rest : List FileRt) : State := send (withFiles (⟨kind, b.length, b⟩ :: rest)) 0 0x42 1 [] []

theorem witness_FileCommands :
    (let s := send (withFiles [⟨0, 0, []⟩]) 0 0x40 0xFF [1, 0, 0, 0, 0xFF] []; s.accepts 0 0x40 = true ∧ (s.cmdOf 0).extLen = 0 ∧
      (s.cmdOf 0).arg 0 1 ≤ 1 ∧ ∀ f ∈ s.ftn.files, f.kind ≠ (s.cmdOf 0).arg 0 1) ∧
    (let s := send (withFiles [⟨0, 9, [7]⟩]) 0 0x41 0xFF [] [1, 2, 3, 4, 5, 6, 7, 8]; s.accepts 0 0x41 = true ∧ (s.cmdOf 0).extLen ≤ stagingSize ∧
      s.ftn.files = [⟨0, 9, [7]⟩] ∧ ([7] ++ (s.cmdOf 0).ext).length ≤ 9) ∧
    (let s := commit 0 (slotFile 5) []; s.accepts 0 0x42 = true ∧ (s.cmdOf 0).extLen = 0 ∧ s.ftn.files = [⟨0, 200, slotFile 5⟩] ∧
      slotFileCheck (slotFile 5) s.chipId.toNat ((s.accepted 0).otherId 0) = 0) ∧
    (let s := commit 0 [1] []; s.accepts 0 0x42 = true ∧ (s.cmdOf 0).extLen = 0 ∧ s.ftn.files = [⟨0, 1, [1]⟩] ∧
      slotFileCheck [1] s.chipId.toNat ((s.accepted 0).otherId 0) ≠ 0) ∧
    (let s := commit 1 [1] []; s.accepts 0 0x42 = true ∧ (s.cmdOf 0).extLen = 0 ∧ s.ftn.files = [⟨1, 1, [1]⟩] ∧
      treeFileCheck [1] s.chipId.toNat ((s.accepted 0).otherId 1) = 1) ∧
    (let s := commit 1 (treeFileOf 5 1) []; s.accepts 0 0x42 = true ∧ (s.cmdOf 0).extLen = 0 ∧ s.ftn.files = [⟨1, 112, treeFileOf 5 1⟩] ∧
      treeFileCheck (treeFileOf 5 1) s.chipId.toNat ((s.accepted 0).otherId 1) = 0 ∧
      (((s.accepted 0).modFtn fun x => { x with files := [] }).installTrees (treeFileOf 5 1) 0 (num (treeFileOf 5 1) 10 2)).2 = some (sCONFLICT, 2)) ∧
    (let r : FileRt := ⟨0, 200, slotFile 6⟩
     let s := commit 1 (treeFileOf 5 0) [r]; s.accepts 0 0x42 = true ∧ (s.cmdOf 0).extLen = 0 ∧ s.ftn.files = [⟨1, 112, treeFileOf 5 0⟩, r] ∧
      treeFileCheck (treeFileOf 5 0) s.chipId.toNat ((s.accepted 0).otherId 1) = 6 ∧
      (((s.accepted 0).modFtn fun x => { x with files := [r] }).installTrees (treeFileOf 5 0) 0 (num (treeFileOf 5 0) 10 2)).2 = none) ∧
    (let s := commit 1 (treeFileOf 5 0) []; s.accepts 0 0x42 = true ∧ (s.cmdOf 0).extLen = 0 ∧ s.ftn.files = [⟨1, 112, treeFileOf 5 0⟩] ∧
      treeFileCheck (treeFileOf 5 0) s.chipId.toNat ((s.accepted 0).otherId 1) = 0 ∧
      (((s.accepted 0).modFtn fun x => { x with files := [] }).installTrees (treeFileOf 5 0) 0 (num (treeFileOf 5 0) 10 2)).2 = none) := by
  refine ⟨?_, ?_, ⟨accepts_send ?_, ?_⟩, ⟨accepts_send ?_, ?_⟩, ⟨accepts_send ?_, ?_⟩, ⟨accepts_send ?_, ?_⟩, ⟨accepts_send ?_, ?_⟩,
    accepts_send ?_, ?_⟩ <;> decide +kernel

/-- A bank of one period of the least length that started a while ago. -/
def bank0 : Bank := { Bank.reset with valid := true, t0 := 2 ^ 20, lens := [1024] }

/-- The sequence runs on bank 0, with bank 1 written. -/
def running (sw stop : Option Nat) : State :=
  up.modChip fun h => { h with running := true, installed := true, banks0 := bank0, banks1 := { bank0 with t0 := 0 }, switchAt := sw, stopAt := stop }

theorem witness_ScheduleCommands :
    (let s := send (running none none) 0 0x43 1 (leBytes 8 (2 ^ 25 + 1024)) []; s.accepts 0 0x43 = true ∧ (s.cmdOf 0).extLen = 0 ∧
      s.chip.installed = true ∧ s.chip.running = true ∧ s.boundary ((s.cmdOf 0).arg 0 8) = true) ∧
    (let s := send (up.modChip fun h => { h with installed := true }) 0 0x43 1 (leBytes 8 (2 ^ 25 + 1000000)) []; s.accepts 0 0x43 = true ∧
      (s.cmdOf 0).extLen = 0 ∧ s.chip.installed = true ∧ s.chip.running = false ∧ s.now + 1000000 ≤ (s.cmdOf 0).arg 0 8) ∧
    (let s := send (running none none) 0 0x44 1 (leBytes 8 (2 ^ 25 + 1024)) []; s.accepts 0 0x44 = true ∧ (s.cmdOf 0).extLen = 0 ∧
      s.chip.running = true ∧ s.boundary ((s.cmdOf 0).arg 0 8) = true) ∧
    (let s := running (some (2 ^ 25)) none; s.chip.switchAt = some (2 ^ 25) ∧ 2 ^ 25 ≤ s.now) ∧
    (let s := running none (some (2 ^ 25)); s.chip.stopAt = some (2 ^ 25) ∧ 2 ^ 25 ≤ s.now) := by
  refine ⟨⟨accepts_send ?_, ?_⟩, ⟨accepts_send ?_, ?_⟩, ⟨accepts_send ?_, ?_⟩, ?_, ?_⟩ <;> decide +kernel

/-! ## Witnesses: healing, fences, resets, power -/

/-- The block in service with a closed port sluice between cell 0 and the next. -/
def sluiced0 : State := up.shutLink 0 0 false 2

theorem witness_HealingCommands :
    (let s := send up 0 0x50 1 [1] [0, 0, 0, 0]; s.accepts 0 0x50 = true ∧ (s.cmdOf 0).arg 0 1 ≤ 16 ∧ (s.cmdOf 0).extLen = 4 * (s.cmdOf 0).arg 0 1 ∧
      s.chip.routed = true ∧
      ((s.accepted 0).modChip fun h => { h with exc := (List.range ((s.cmdOf 0).arg 0 1)).map fun i => BitVec.ofNat 32 ((s.cmdOf 0).extNum (4 * i) 4) }).excOver = false) ∧
    (let s := send sluiced0 0 0x51 1 [0, 0, 0] []; s.accepts 0 0x51 = true ∧ (s.cmdOf 0).extLen = 0 ∧ cellOk ((s.cmdOf 0).arg 0 2) = true ∧
      neighbor ((s.cmdOf 0).arg 0 2) ((s.cmdOf 0).arg 2 1) = some 1 ∧ 1 ≠ (s.cmdOf 0).arg 0 2 ∧
      aget (s.rt ((s.cmdOf 0).arg 0 2)).sluices ((s.cmdOf 0).arg 2 1) = some ⟨false, false, 2, [], none⟩) ∧
    (let s := send up 0 0x53 1 [0xFF, 0x23, 0xDF, 0x2F] []; s.accepts 0 0x53 = true ∧ (s.cmdOf 0).extLen = 0 ∧ logicalOk ((s.cmdOf 0).arg 0 2) = true ∧
      cellOk ((s.cmdOf 0).arg 2 2) = true ∧ s.mappable ((s.cmdOf 0).arg 2 2) = true ∧ s.mappedTo ((s.cmdOf 0).arg 2 2) = []) ∧
    (let s := send up 0 0x55 0xFF [] []; s.accepts 0 0x55 = true ∧ (s.cmdOf 0).extLen = 0) := by
  refine ⟨⟨accepts_send ?_, ?_⟩, ⟨accepts_send ?_, ?_⟩, ⟨accepts_send ?_, ?_⟩, ?_⟩ <;> decide +kernel

/-- Cell or block fenced as FENCE fences it. -/
def fencedC (c : Nat) : State := up.fenceOnly c 0
/-- A fenced block. -/
def fencedB (b : Nat) : State := up.fenceBlockOnly b 0

theorem witness_FenceCommands :
    (let s := send up 0 0x52 1 [0xDF, 0x2F, 0] []; s.accepts 0 0x52 = true ∧ (s.cmdOf 0).extLen = 0 ∧ (s.cmdOf 0).arg 2 1 = 0 ∧
      cellOk ((s.cmdOf 0).arg 0 2) = true ∧ s.fencedCell ((s.cmdOf 0).arg 0 2) = false) ∧
    (let s := send (fencedC 0) 0 0x52 1 [0, 0, 1] []; s.accepts 0 0x52 = true ∧ (s.cmdOf 0).extLen = 0 ∧ (s.cmdOf 0).arg 2 1 = 1 ∧
      cellOk ((s.cmdOf 0).arg 0 2) = true ∧ (s.block (blockOf ((s.cmdOf 0).arg 0 2))).fenced = false ∧ s.fencedCell ((s.cmdOf 0).arg 0 2) = true ∧
      (s.region (regionOf ((s.cmdOf 0).arg 0 2))).bringUp = false) ∧
    (let s := send up 0 0x52 1 [0xF7, 2, 2] []; s.accepts 0 0x52 = true ∧ (s.cmdOf 0).extLen = 0 ∧ (s.cmdOf 0).arg 2 1 = 2 ∧
      blockOk ((s.cmdOf 0).arg 0 2) = true ∧ (s.block ((s.cmdOf 0).arg 0 2)).fenced = false) ∧
    (let s := send (fencedB 0) 0 0x52 1 [0, 0, 3] []; s.accepts 0 0x52 = true ∧ (s.cmdOf 0).extLen = 0 ∧ (s.cmdOf 0).arg 2 1 = 3 ∧
      blockOk ((s.cmdOf 0).arg 0 2) = true ∧ (s.block ((s.cmdOf 0).arg 0 2)).fenced = true) := by
  refine ⟨⟨accepts_send ?_, ?_⟩, ⟨accepts_send ?_, ?_⟩, ⟨accepts_send ?_, ?_⟩, accepts_send ?_, ?_⟩ <;> decide +kernel

theorem witness_ResetCommands :
    (let s := send up 0 0x54 0 [1, 0, 0xDF, 0x2F] []; s.accepts 0 0x54 = true ∧ (s.cmdOf 0).extLen = 0 ∧ (s.cmdOf 0).arg 0 1 = 1 ∧
      cellOk ((s.cmdOf 0).arg 2 2) = true) ∧
    (let s := send up 0 0x54 0 [2, 0, 0xDF, 0x2F] []; s.accepts 0 0x54 = true ∧ (s.cmdOf 0).extLen = 0 ∧ (s.cmdOf 0).arg 0 1 = 2 ∧
      cellOk ((s.cmdOf 0).arg 2 2) = true) ∧
    (let s := send up 0 0x54 0 [3, 0, 0xF7, 2] []; s.accepts 0 0x54 = true ∧ (s.cmdOf 0).extLen = 0 ∧ (s.cmdOf 0).arg 0 1 = 3 ∧
      blockOk ((s.cmdOf 0).arg 2 2) = true) ∧
    (let s := send up 0 0x54 0 [4, 0, 15, 0] []; s.accepts 0 0x54 = true ∧ (s.cmdOf 0).extLen = 0 ∧ (s.cmdOf 0).arg 0 1 = 4 ∧
      regionOk ((s.cmdOf 0).arg 2 2) = true) ∧
    (let s := send up 0 0x54 0 [5, 0, 15, 0] []; s.accepts 0 0x54 = true ∧ (s.cmdOf 0).extLen = 0 ∧ (s.cmdOf 0).arg 0 1 = 5 ∧
      regionOk ((s.cmdOf 0).arg 2 2) = true ∧ (s.region ((s.cmdOf 0).arg 2 2)).hard = false ∧ s.chip.routed = true) ∧
    (let s := send up 0 0x54 1 [6] []; s.accepts 0 0x54 = true ∧ (s.cmdOf 0).extLen = 0 ∧ (s.cmdOf 0).arg 0 1 = 6 ∧ (s.cmdOf 0).slot = 1) := by
  refine ⟨⟨accepts_send ?_, ?_⟩, ⟨accepts_send ?_, ?_⟩, ⟨accepts_send ?_, ?_⟩, ⟨accepts_send ?_, ?_⟩, ⟨accepts_send ?_, ?_⟩, accepts_send ?_, ?_⟩ <;>
    decide +kernel

/-- The flip that routes nothing through region r has been made. -/
def isolated (r : Nat) : State :=
  (up.modRegion r fun x => { x with hard := true, isolate := true }).modChip fun h =>
    { h with build0 := { h.build0 with quiet := [r] }, build1 := { h.build1 with quiet := [r] } }

theorem witness_ResetEnds :
    (let s := up.resetNi 12255 .ni; cellOk 12255 = true ∧ s.fencedCell 12255 = false ∧ (s.block (blockOf 12255)).power ≠ .off ∧
      (s.region (regionOf 12255)).bringUp = false ∧ (s.ni 12255).hold = .ni) ∧
    (let s := up.resetCell 12255 .cell; s.fencedCell 12255 = false ∧ (s.block (blockOf 12255)).power ≠ .off ∧ (s.ni 12255).hold = .cell) ∧
    (let s := up.resetBlock 759 .cell; blockOk 759 = true ∧ (s.block 759).ctlReset = true ∧ (s.block 759).fenced = false ∧ (s.block 759).power ≠ .off ∧
      (s.region (blockRegion 759)).bringUp = false) ∧
    (let s := up.modNi 0 fun x => { x with hold := .region }; regionOk 0 = true ∧ 0 ∈ regionCells 0 ∧ (s.ni 0).hold = .region ∧ (s.region 0).bringUp = false) ∧
    (let s := isolated 15; regionOk 15 = true ∧ (s.region 15).hard = true ∧ s.flipped (fun b => b.quiet.contains 15) = true) ∧
    (let s := (isolated 15).modRegion 15 fun x => { x with hard := false, bringUp := true }
     (s.region 15).isolate = true ∧ (s.region 15).bringUp = true ∧ (s.region 15).hard = false ∧ (s.region 15).taken = false ∧
      ∀ b ∈ regionBlocks 15, (s.block b).test = none) := by
  decide +kernel

/-- A region asleep, with all its blocks. -/
def asleep (r : Nat) (waking : Bool) : State :=
  (up.forEach (regionBlocks r) fun s b => s.modBlock b fun x => { x with power := .sleep }).modRegion r fun x => { x with asleep := true, waking := waking }

/-- A region whose blocks doze, with a Sleep asked for and the flip made. -/
def dozing15 : State :=
  ((isolated 15).forEach (regionBlocks 15) fun s b => s.modBlock b fun x => { x with power := .doze }).modRegion 15 fun x =>
    { x with hard := false, isolate := false, sleepReq := true }

/-- Block 759 changed. -/
def block759 (f : Block → Block) : State := up.modBlock 759 f

theorem witness_PowerCommands :
    (let s := send up 0 0x60 1 [0, 0, 15, 0] []; s.accepts 0 0x60 = true ∧ (s.cmdOf 0).extLen = 0 ∧ (s.cmdOf 0).arg 0 1 = 0 ∧ (s.cmdOf 0).arg 2 2 = 15 ∧
      (s.region 15).asleep = false ∧ s.wakePending 15 = false ∧ (s.region 15).sleepReq = false ∧ (s.region 15).bringUp = false ∧
      aget s.chip.mbxWait (kSleep 15) = none ∧ ∀ b ∈ regionBlocks 15, (s.block b).power = .off ∨ s.mayPowerDown b = true) ∧
    (let s := send (asleep 15 false) 0 0x60 1 [1, 0, 15, 0] []; s.accepts 0 0x60 = true ∧ (s.cmdOf 0).extLen = 0 ∧ (s.cmdOf 0).arg 0 1 = 1 ∧
      (s.cmdOf 0).arg 2 2 = 15 ∧ s.stepDone 10 = true ∧ s.wakeNamed 15 = [15] ∧ (s.region 15).taken = false ∧ (s.region 15).asleep = true) ∧
    (let s := send (up.modRegion 15 fun x => { x with bringUp := true }) 0 0x60 1 [1, 0, 0xFF, 0xFF] []; s.accepts 0 0x60 = true ∧
      (s.cmdOf 0).extLen = 0 ∧ (s.cmdOf 0).arg 0 1 = 1 ∧ (s.cmdOf 0).arg 2 2 = 0xFFFF ∧ s.wakeNamed 0xFFFF = [15] ∧ (s.region 15).bringUp = true ∧
      (s.region 15).taken = false) ∧
    (let s := send up 0 0x60 1 [2, 0, 0xF7, 2] []; s.accepts 0 0x60 = true ∧ (s.cmdOf 0).extLen = 0 ∧ (s.cmdOf 0).arg 0 1 = 2 ∧
      (s.cmdOf 0).arg 2 2 = 759 ∧ blockOk 759 = true ∧ (s.block 759).power = .run ∧ (s.block 759).exiting = false ∧ (s.block 759).offReq = false ∧
      (s.region (blockRegion 759)).sleepReq = false ∧ s.mayPowerDown 759 = true ∧ s.chip.routed = true) ∧
    (let s := send (block759 fun x => { x with power := .off }) 0 0x60 1 [3, 0, 0xF7, 2] []; s.accepts 0 0x60 = true ∧ (s.cmdOf 0).extLen = 0 ∧
      (s.cmdOf 0).arg 0 1 = 3 ∧ (s.cmdOf 0).arg 2 2 = 759 ∧ (s.block 759).power = .off) := by
  refine ⟨⟨accepts_send ?_, ?_⟩, ⟨accepts_send ?_, ?_⟩, ⟨accepts_send ?_, ?_⟩, ⟨accepts_send ?_, ?_⟩, accepts_send ?_, ?_⟩ <;> decide +kernel

/-- Block 759 doze with an Off asked for, and the flip made. -/
def offering : State :=
  (block759 fun x => { x with power := .doze, offReq := true }).modChip fun h =>
    { h with build0 := { h.build0 with noTransit := [759] }, build1 := { h.build1 with noTransit := [759] } }

theorem witness_PowerTransitions :
    (regionOk 15 = true ∧ (dozing15.region 15).sleepReq = true ∧ dozing15.flipped (fun b => b.quiet.contains 15) = true ∧
      dozing15.wakePending 15 = false ∧ dozing15.regionQuiet 15 = true) ∧
    (let s := asleep 15 true; (s.region 15).waking = true ∧ (s.region 15).sleepReq = false ∧ (s.region 15).asleep = true ∧
      ∀ b ∈ regionBlocks 15, (s.block b).crossing = []) ∧
    ((offering.block 759).offReq = true ∧ offering.flipped (fun x => x.noTransit.contains 759) = true ∧ (offering.block 759).power = .doze ∧
      (offering.block 759).exiting = false) ∧
    (let s := block759 fun x => { x with power := .off, exiting := true }; (s.block 759).power = .off ∧ (s.block 759).exiting = true) := by
  decide +kernel

/-- A flit that waits for the units at a router. -/
def flitAt (s : State) (c : Nat) (f : Flit) : State := s.modRt c fun r => { r with rillLocal := [⟨4, 0, f⟩] }

theorem witness_DozeAndWake :
    (let s := block759 fun x => { x with regs := x.regs.set BLK_PWR_CTL_auto_doze 1 }; blockOk 759 = true ∧ (s.block 759).power = .run ∧
      (s.block 759).regs.flag BLK_PWR_CTL_auto_doze = true ∧ (s.block 759).holdFrom = none ∧ (s.block 759).ctlReset = false ∧ s.blockIdle 759 = true ∧
      (s.block 759).idleFrom + (s.block 759).regs.get BLK_PWR_CTL_idle_ncyc ≤ s.ncyc) ∧
    (let s := block759 fun x => { x with holdFrom := some (2 ^ 25 - 2) }; (s.block 759).holdFrom = some (2 ^ 25 - 2) ∧
      2 ^ 25 - 2 + 2 + s.entryExtra 759 ≤ s.ncyc ∧ s.mayLeaveRun 759 = true) ∧
    (let s := block759 fun x => { x with holdFrom := some (2 ^ 25 - 2), regs := x.regs.set BLK_PWR_CTL_hold_run 1 }
     (s.block 759).holdFrom = some (2 ^ 25 - 2) ∧ 2 ^ 25 - 2 + 2 + s.entryExtra 759 ≤ s.ncyc ∧ s.mayLeaveRun 759 = false ∧ (s.block 759).power = .run) ∧
    (let s := block759 fun x => { x with power := .doze, exiting := true, crossing := [.set .cell 12255 0x4000 5 0xFFFFFFFF] }
     (s.block 759).power = .doze ∧ (s.block 759).exiting = true ∧ (s.block 759).crossing = [.set .cell 12255 0x4000 5 0xFFFFFFFF] ∧
     (regRow .cell 0x4000).isSome = true) ∧
    (let s := block759 fun x => { x with power := .doze, exiting := true }; (s.block 759).power = .doze ∧ (s.block 759).exiting = true ∧
      (s.block 759).crossing = []) ∧
    (let s := flitAt (block759 fun x => { x with power := .doze }) (bcCell 759) (mkFlit 0 0x10 (bcCell 759) 0 0 0)
     (s.localFlit (bcCell 759) fun y => y.flit.kind == kWAKE && y.flit.aux == 0).isSome = true ∧ (s.block 759).power = .doze) ∧
    (let s := block759 fun x => { x with power := .doze, regs := x.regs.set BLK_PWR_CTL_hold_run 1 }
     (s.block 759).regs.flag BLK_PWR_CTL_hold_run = true ∧ (s.block 759).power = .doze) ∧
    (let s := flitAt (asleep 15 false) (rmCell 15) (mkFlit 0 0x10 (rmCell 15) 0 0 0)
     regionOk 15 = true ∧ (s.localFlit (rmCell 15) fun y => y.flit.kind == kWAKE).isSome = true ∧ (s.region 15).asleep = true) := by
  decide +kernel

/-! ## Witnesses: link ports and time between chips -/

/-- Link port 47 in a state, enabled, changed. -/
def lk (st : Nat) (f : Link → Link) : State :=
  up.modLink 47 fun l => f { l with regs := ((l.regs.set LNK_STAT_state st).set LNK_CTL_enable 1).set LNK_CTL_detect_en 1 }

/-- A register field of the port set. -/
def lreg (f : Field) (v : Nat) (l : Link) : Link := { l with regs := l.regs.set f v }

/-- The port's receivers work on every lane, with their clock. -/
def lanesUp (l : Link) : Link :=
  ((lreg (LNK_LANE_rx_good.at 0) 0x1FFFF ∘ lreg (LNK_LANE_rx_good.at 1) 0x1FFFF) ∘ (lreg (LNK_LANE_rx_clk_ok.at 0) 1 ∘ lreg (LNK_LANE_rx_clk_ok.at 1) 1)) l

/-- In a torus of two chips in every direction. -/
def inTorus (s : State) : State :=
  s.modChipRegs fun r => ((r.set CHP_CHIP_ID_dim_x_m1 1).set CHP_CHIP_ID_dim_y_m1 1).set CHP_CHIP_ID_dim_z_m1 1

/-- The CAP of the right peer of port 47, with lanes. -/
def peerCap (s : State) (admitted : Bool) (m0 m1 : BitVec 18) : Cap :=
  { chipId := BitVec.ofNat 13 (s.peerChip (bundleOf 47)), port := 23, version := 1, dims := BitVec.ofNat 16 s.dims, widthMax := 0, ready := true,
    admitted := admitted, rxGood0 := m0, rxGood1 := m1, tSend := 0, tEcho := 0, tResid := 0 }

/-- A port in CAPX with a CAP of its peer. -/
def capped : State := inTorus (lk 4 fun l => { lanesUp l with peer := some (peerCap (inTorus up) true 0x3FFFF 0x3FFFF) })

theorem witness_LinkControl :
    (let s := send (lk 5 id) 0 0x70 1 [47, 63, 2, 0, 7] []; s.accepts 0 0x70 = true ∧ (s.cmdOf 0).extLen = 0 ∧ linkOk 47 = true ∧
      (s.cmdOf 0).arg 0 1 = 47 ∧ s.linkPresent 47 = true ∧ (s.cmdOf 0).arg 1 1 ≤ 63 ∧ (s.cmdOf 0).arg 2 1 ≤ 2 ∧ (s.cmdOf 0).arg 4 1 ≤ 7 ∧
      bits ((s.cmdOf 0).arg 1 1) 5 1 = 1 ∧ s.linkState 47 = 5 ∧ (s.cmdOf 0).arg 3 1 = 0) ∧
    (let s := send up 0 0x70 1 [47, 3, 0, 3, 0] []; s.accepts 0 0x70 = true ∧ (s.cmdOf 0).extLen = 0 ∧ (s.cmdOf 0).arg 0 1 = 47 ∧
      s.linkPresent 47 = true ∧ (s.cmdOf 0).arg 3 1 = 3 ∧ s.linkState 47 = 0) ∧
    (let s := send up 0 0x70 1 [47, 3, 0, 0, 0] []; s.accepts 0 0x70 = true ∧ (s.cmdOf 0).extLen = 0 ∧ (s.cmdOf 0).arg 0 1 = 47 ∧
      s.linkState 47 = 0 ∧ bits ((s.cmdOf 0).arg 1 1) 0 1 = 1 ∧ bits ((s.cmdOf 0).arg 1 1) 1 1 = 1 ∧ (s.cmdOf 0).arg 3 1 = 0) ∧
    (let s := send (lk 5 id) 0 0x71 1 [47] []; s.accepts 0 0x71 = true ∧ (s.cmdOf 0).extLen = 0 ∧ (s.cmdOf 0).arg 0 1 = 47 ∧ s.linkPresent 47 = true ∧
      s.linkActive 47 = true ∧ (s.link 47).task = .none ∧ s.chip.routed = true) ∧
    (let s := lk 5 fun l => { l with task := .quiesceFlip }; (s.link 47).task = .quiesceFlip ∧ s.linkActive 47 = true ∧ s.chip.flip = none ∧
      (s.build s.chip.active.toNat).ports.contains 47 = false) ∧
    (let s := lk 7 fun l => { l with task := .quiescing false }; s.linkState 47 = 7 ∧ (s.link 47).task = .quiescing false ∧
      (s.link 47).drained = true ∧ (s.link 47).rillOut = []) ∧
    (let s := lk 5 (lreg LNK_CTL_retrain 1); s.linkActive 47 = true ∧ (s.link 47).regs.flag LNK_CTL_retrain = true) ∧
    (let s := lk 5 (lreg LNK_CTL_deep_req 1); s.linkActive 47 = true ∧ (s.link 47).regs.flag LNK_CTL_deep_req = true ∧ (s.link 47).task = .none) ∧
    (let s := lk 6 fun l => { l with deepMine := true }; (s.link 47).regs.flag LNK_CTL_deep_req = false ∧ s.linkState 47 = 6 ∧ (s.link 47).deepMine = true) ∧
    (let s := lk 5 fun l => { l with task := .deepHold }; (s.link 47).regs.flag LNK_CTL_deep_req = false ∧ s.linkState 47 ≠ 6 ∧
      (s.link 47).task = .deepHold) ∧
    ((lk 3 id).admits = true ∧ (lk 3 id).linkState 47 = 3) ∧
    (capped.admits = true ∧ capped.linkState 47 = 4 ∧ (capped.link 47).peer = some (peerCap (inTorus up) true 0x3FFFF 0x3FFFF) ∧
      capped.capOk 47 (peerCap (inTorus up) true 0x3FFFF 0x3FFFF) = true ∧
      linkWidth ((capped.link 47).regs.get LNK_CTL_width_max) 0 ((capped.link 47).rxGood 0) ((capped.link 47).rxGood 1) 0x3FFFF 0x3FFFF = some (0, 0)) := by
  refine ⟨⟨accepts_send ?_, ?_⟩, ⟨accepts_send ?_, ?_⟩, ⟨accepts_send ?_, ?_⟩, ⟨accepts_send ?_, ?_⟩, ?_⟩ <;> decide +kernel

/-- Sync headers of 64 data blocks and the marker of its lane, as a lane gives them. -/
def goodLane (h p : Nat) : LaneRx := ⟨h, p, List.replicate 64 syncData, some (0, markerWord h p ++ syncCtrl)⟩

theorem witness_LinkBringUp :
    ((lk 1 id).linkState 47 = 1 ∧ ((lk 1 id).link 47).polled = none) ∧ (1 < 2 ∧ 8 ≤ 16) ∧
    (let s := lk 2 id; s.linkState 47 = 2 ∧ bits (0xF070 : BitVec 56).toNat 0 5 = 16 ∧ (0xF070 : BitVec 56).getLsbD 6 = true ∧
      (0xF070 : BitVec 56).getLsbD 12 = true ∧ bits ((s.link 47).status (laneIdx 1 16)) 4 1 = 0) ∧
    (let s := lk 2 fun l => { l with ready0 := 0xFF }; (s.link 47).entered + usNcyc * (s.link 47).regs.get LNK_TMR_train_timeout ≤ s.ncyc ∧
      (((s.link 47).failLanes 0 (~~~(s.link 47).ready0)).failLanes 1 (~~~(s.link 47).ready1)).usable = true) ∧
    (let s := lk 2 fun l => { l with ready0 := 0x7F }; (s.link 47).entered + usNcyc * (s.link 47).regs.get LNK_TMR_train_timeout ≤ s.ncyc ∧
      (((s.link 47).failLanes 0 (~~~(s.link 47).ready0)).failLanes 1 (~~~(s.link 47).ready1)).usable = false ∧
      (s.link 47).regs.flag LNK_CTL_enable = true) ∧
    (let s := lk 3 id; let rx := (List.range 8).map (goodLane 1); (∀ x ∈ rx, x.half < 2 ∧ x.lane < 17) ∧ s.linkState 47 = 3 ∧
      halfNarrow ((((s.link 47).recordLanes 0 (lanesWorking rx 0)).recordLanes 1 (lanesWorking rx 1)).rxGood 1) = true) ∧
    (let s := lk 3 id; let rx := (List.range 7).map (goodLane 1); (∀ x ∈ rx, x.half < 2 ∧ x.lane < 17) ∧
      halfNarrow ((((s.link 47).recordLanes 0 (lanesWorking rx 0)).recordLanes 1 (lanesWorking rx 1)).rxGood 0) = false ∧
      halfNarrow ((((s.link 47).recordLanes 0 (lanesWorking rx 0)).recordLanes 1 (lanesWorking rx 1)).rxGood 1) = false) ∧
    (let s := lk 3 id; s.linkState 47 = 3 ∧ (s.link 47).entered + 50 * usNcyc ≤ s.ncyc ∧ ((s.link 47).failLanes 1 (BitVec.ofNat 17 (2 ^ 16))).usable = true) ∧
    (let s := inTorus (lk 4 lanesUp); s.linkState 47 = 4 ∧ s.admits = true ∧ s.capOk 47 { peerCap s false 0 0 with version := 2 } = false ∧
      s.capOk 47 (peerCap s false 0x3FFFF 0x3FFFF) = true ∧
      (linkWidth ((s.link 47).regs.get LNK_CTL_width_max) 0 ((s.link 47).rxGood 0) ((s.link 47).rxGood 1) 0x3FFFF 0x3FFFF).isSome = true) := by
  decide +kernel

theorem witness_WidthAgreed :
    (let s := inTorus (lk 4 lanesUp); linkOk 47 = true ∧ s.linkState 47 = 4 ∧ s.capOk 47 (peerCap s false 0x200FE 0x1FFFF) = true ∧
      (s.link 47).retraining = false ∧ (s.link 47).regs.flag LNK_CTL_enable = true ∧
      linkWidth ((s.link 47).regs.get LNK_CTL_width_max) 0 ((s.link 47).rxGood 0) ((s.link 47).rxGood 1) 0x200FE 0x1FFFF = none) := by
  decide +kernel

theorem witness_LinkLossesAndPrbs :
    (lk 5 id).linkActive 47 = true ∧ (((lk 5 id).link 47).failed 1).getLsbD 16 = false ∧
    ((lk 5 id).link 47).regs.get LNK_TMR_lane_err_limit ≤ (aget ((lk 5 id).link 47).hdrs (laneIdx 1 16)).getD 0 + 64 ∧
    (aget ((lk 5 id).link 47).hdrs (laneIdx 1 16)).getD 0 + 63 < ((lk 5 id).link 47).regs.get LNK_TMR_lane_err_limit ∧
    (((lk 5 fun l => { l with failed1 := 2 ^ 16 }).link 47).failed 1).getLsbD 16 = true ∧ (lk 7 id).linkState 47 = 7 ∧ ((lk 7 id).link 47).regs.flag LNK_CTL_enable = true ∧
    (let s := lk 9 id; s.linkState 47 = 9 ∧ (s.link 47).entered + msNcyc ≤ s.ncyc ∧ (s.link 47).regs.flag LNK_CTL_detect_en = true ∧
      (s.link 47).parked = false) ∧
    (let s := lk 8 (lreg LNK_PRBS_CTL_chk_en 1); s.linkState 47 = 8 ∧ (s.link 47).regs.flag LNK_PRBS_CTL_chk_en = true ∧
      (s.link 47).regs.flag (LNK_PRBS_CNT_locked.at (laneIdx 1 16)) = false ∧
      prbsFollows ((s.link 47).regs.get LNK_PRBS_CTL_pattern) ((s.link 47).regs.flag LNK_PRBS_CTL_invert)
        (BitVec.ofNat 95 (prbsRun 31 28 95 0x2AAAAAAA).1) = true ∧
      prbsFollows ((s.link 47).regs.get LNK_PRBS_CTL_pattern) ((s.link 47).regs.flag LNK_PRBS_CTL_invert) 0 = false) ∧
    (let s := lk 8 (lreg (LNK_PRBS_CNT_locked.at (laneIdx 1 16)) 1); (s.link 47).regs.flag (LNK_PRBS_CNT_locked.at (laneIdx 1 16)) = true) := by
  decide +kernel

/-- Two in flight and a request for Deep. -/
def deepTask (t : LinkTask) : State := lk 5 fun l => { lreg LNK_CTL_deep_req 1 l with task := t }

theorem witness_LinkDeepAndDetach :
    (((deepTask .deepHold).link 47).task = .deepHold ∧ ((deepTask .deepHold).link 47).drained = true) ∧
    (let s := deepTask (.deepRetry (2 ^ 25)); (s.link 47).task = .deepRetry (2 ^ 25) ∧ 2 ^ 25 ≤ s.ncyc ∧ (s.link 47).regs.flag LNK_CTL_deep_req = true) ∧
    ((deepTask .deepAsked).linkActive 47 = true ∧ ((deepTask .deepAsked).link 47).task = .deepAsked) ∧
    (let s := lk 5 (lreg LNK_CTL_deep_allow 1); s.linkActive 47 = true ∧ (s.link 47).task ≠ .deepAsked ∧
      (s.link 47).regs.flag LNK_CTL_deep_allow = true ∧ (s.link 47).drained = true) ∧
    (let s := lk 5 (lreg LNK_CTL_deep_allow 0); s.linkActive 47 = true ∧ (s.link 47).task ≠ .deepAsked ∧ (s.link 47).regs.flag LNK_CTL_deep_allow = false) ∧
    ((lk 6 id).linkState 47 = 6) ∧
    (let s := lk 3 fun l => { l with task := .waking (2 ^ 25 - 180000) }; (s.link 47).task = .waking (2 ^ 25 - 180000) ∧
      2 ^ 25 - 180000 + 180000 ≤ s.ncyc ∧ (s.link 47).regs.flag LNK_CTL_enable = true) ∧
    (let s := lk 7 fun l => { l with task := .quiescing true }; (s.link 47).carries = true ∧ (s.link 47).task = .quiescing true ∧ s.linkState 47 = 7) ∧
    (let s := lk 5 id; (s.link 47).carries = true ∧ (s.link 47).task = .none ∧ s.zRuns = true ∧ s.chip.routed = true) := by
  decide +kernel

/-- A write from chip 0 to a chip and cell. -/
def pkt (chip cell : Nat) : Packet :=
  { type := tWR, cls := 0, epoch := 0, cmark := 0, echo := 0, last := 0, logicalForm := 1, age := 0, dstChip := BitVec.ofNat 13 chip,
    dstCell := BitVec.ofNat 14 cell, srcChip := 0, srcCell := 0, chanTree := 0, seq := 0, length := 48, parterre := 0, crc := 0, reserved := 0,
    payload := 0, check := 0 }

/-- A frame of a kind. -/
def frm (kind : Nat) (field : BitVec 10) (b : FrameBody) : Frame := ⟨BitVec.ofNat 4 kind, 0, field, 1, 0, b⟩

/-- A frame sent that waits for its acknowledgement. -/
def sentF (replays : Nat) : SentFrame := ⟨frm 1 0 (.packet (pkt 1 0)), 0, replays, false⟩

/-- A flit of a kind on VC2. -/
def flit (kind : BitVec 5) (aux : BitVec 3) (v : W64) : Flit := ⟨2, kind, 0, 0, 0, 0, aux, v⟩

/-- A logical ID maps to a cell, the word with even parity. -/
def mapped (s : State) (lid c : Nat) : State :=
  { s with regions := s.regions.mapAll fun x => { x with map := aput x.map lid (mapWord (some c)) } }

theorem witness_LinkFrameIngress :
    (let s := inTorus (lk 5 id); linkOk 47 = true ∧ (s.link 47).carries = true ∧
      ((frm 1 0 (.packet (pkt 1 9215))).seq = (s.link 47).bulk.expect ∧ ((s.link 47).ingress .request).length < 64 ∧
        ((s.link 47).ingress .reply).length < 64 ∧ s.ingressLegal (pkt 1 9215) = true ∧ (pkt 1 9215).dstChip ≠ s.chipId) ∧
      (s.ingressLegal (pkt 0x1000 0) = false ∧ s.ingressLegal (pkt 1 9216) = false) ∧ (s.link 47).ingSched.length < 32 ∧
      (s.link 47).rill.expect = 0 ∧ (s.link 47).bulk.resume = false ∧ (s.link 47).bulk.nakAt = none) ∧
    (let s := mapped (inTorus (lk 5 id)) 9215 12255; s.ingressLegal (pkt 0 9215) = true ∧ (pkt 0 9215).dstChip = s.chipId ∧
      untranslated (pkt 0 9215) = false ∧ logicalOk 9215 = true ∧ (s.linkMapEntry 47 9215).2 = true ∧
      entryCell (s.linkMapEntry 47 9215).1 = some 12255) ∧
    (let s := lk 5 fun l => { l with bulk := { l.bulk with sent := [sentF 0] } }
     ((s.link 47).bulk.ack 0).sent = [sentF 0] ∧ (sentF 0).replays < (s.link 47).regs.get LNK_TMR_replay_limit ∧ (sentF 0).again = false ∧
      (sentF 0).sentAt + 16 * (s.link 47).regs.get LNK_TMR_ack_timeout ≤ s.ncyc) ∧
    (let s := lk 5 fun l => { l with bulk := { l.bulk with sent := [sentF 255] } }
     ((s.link 47).bulk.ack 0).sent = [sentF 255] ∧ (s.link 47).regs.get LNK_TMR_replay_limit ≤ (sentF 255).replays ∧
      (s.link 47).regs.flag LNK_CTL_enable = true) := by
  decide +kernel

/-- A staged packet. -/
def stag (e : Nat) : Staged := ⟨1, e, pkt 1 0⟩

theorem witness_LinkFrameEgress :
    ((lk 3 id).linkState 47 = 3) ∧
    (let s := lk 5 fun l => { l with rillOut := [List.replicate 4 (flit 0x0A 0 0)], stagReq := [stag 0], rillRun := 15 }
     (s.link 47).carries = true ∧ (s.link 47).rillOut = [List.replicate 4 (flit 0x0A 0 0)] ∧ (s.link 47).rill.resume = false ∧
      (s.link 47).rill.sent = [] ∧ (s.link 47).rillRun < 16 ∧ timeFlit (List.replicate 4 (flit 0x0A 0 0)) = none) ∧
    (let s := lk 5 fun l => { l with stagSched := [stag 1023], stagReq := [stag 0], stagRep := [stag 0] }
     (s.link 47).carries = true ∧ (s.link 47).rillOut = [] ∧ (s.link 47).rill.sent = [] ∧ (s.link 47).bulk.resume = false ∧ (s.link 47).bulk.sent = [] ∧
      (s.link 47).stagSched = [stag 1023]) ∧
    (let s := lk 5 fun l => { l with stagReq := [stag 0], stagRep := [stag 0] }
     (s.link 47).carries = true ∧ (s.link 47).rillOut = [] ∧ (s.link 47).rill.sent = [] ∧ (s.link 47).bulk.resume = false ∧ (s.link 47).bulk.sent = [] ∧
      (s.link 47).stagSched = [] ∧ (s.link 47).stagReq = [stag 0] ∧ (s.link 47).stagRep = [stag 0]) ∧
    (let s := lk 7 id; (s.link 47).carries = true ∧ (s.link 47).rillWaits = false ∧ (s.link 47).bulkWaits = false) ∧
    (let s := lk 5 fun l => { l with owedSince := some (2 ^ 25 - 16) }
     (s.link 47).carries = true ∧ (s.link 47).owedSince = some (2 ^ 25 - 16) ∧ 2 ^ 25 - 16 + 16 ≤ s.ncyc ∧ (s.link 47).rillOut = []) := by
  decide +kernel

/-- Slot 3 is usable. -/
def keyed (s : State) : State := s.modFtn fun f => { f with startCount := some 1 }

/-- Port 47 with a sequence of body b and counter 1 at its front, with the tag that slot 3 gives it. -/
def seqAt (s : State) (b : Flit) : State :=
  s.modLink 47 fun l => { l with rillIng :=
    [flit kROUTE 0 0, b, flit kCTR 0 1, flit kTAG 0 (s.seqTag (flit kROUTE 0 0) { b with seg := 2 } 1)] }

/-- Such a sequence is a good one. -/
theorem good_seqAt {s : State} (b : Flit) (hs : s.slot3 = true) (hl : (s.link 47).locked = false) (hc : (s.link 47).ctrRecv = 0) :
    (seqAt s b).goodSeq 47 (flit kROUTE 0 0) b (flit kCTR 0 1) (flit kTAG 0 (s.seqTag (flit kROUTE 0 0) { b with seg := 2 } 1)) := by
  refine ⟨?_, hs, ?_, rfl, rfl, rfl, ?_, rfl⟩ <;> simp [seqAt, Link.frontSeq, hl, hc, flit]

/-- A tree flit of context 1. -/
def bc1 : Flit := { flit 0x0A 0 0 with dst := 1 }

theorem witness_SequenceIngress :
    (let s := seqAt (keyed (lk 5 id)) bc1
     (∃ a c d, s.goodSeq 47 a bc1 c d) ∧ bc1.kind ≠ kTIME ∧ (s.rt (linkCell 47 0).1).rillOcc 5 bc1.vc.toNat ≤ 30 ∧ bc1.tree = true ∧
      bc1.dst.toNat % 16 = 1) ∧
    (let s := seqAt (keyed (lk 5 fun l => { l with ctrRecv := 1, fails := 7 })) bc1
     (s.link 47).frontSeq = some (flit kROUTE 0 0, bc1, flit kCTR 0 1, (s.link 47).rillIng.getD 3 bc1) ∧ s.slot3 = true ∧
      (s.link 47).locked = false ∧ (s.link 47).ctrRecv.toNat ≥ (flit kCTR 0 1).payload.toNat) ∧
    (let s := seqAt (keyed (lk 5 id)) (flit kTIME 0 0)
     (∃ a c d, s.goodSeq 47 a (flit kTIME 0 0) c d) ∧ s.timeRoom 47 = true) := by
  refine ⟨⟨⟨_, _, _, good_seqAt _ ?_ ?_ ?_⟩, ?_⟩, ⟨rfl, ?_⟩, ⟨_, _, _, good_seqAt _ ?_ ?_ ?_⟩, ?_⟩ <;> decide +kernel

/-- An exchange under way on port 47, with n stored values. -/
def exchs (x : TimeExch) (n : Nat) (h : Chip → Chip) : State :=
  (keyed (lk 5 fun l => { l with exch := some x, offsets := List.replicate n 0 })).modChip h

/-- An exchange that met a locked parent 100 eighths of a ncyc after the start of time. -/
def metExch (u : Bool) : TimeExch := ⟨100, some 100, some 100, u, 2 ^ 25 - 18000⟩

/-- Port 12 is the parent port of a chip of a torus whose master lies in its +x direction. -/
def tickable : State :=
  (keyed ((inTorus up).modLink 12 fun l => { l with regs := l.regs.set LNK_STAT_state 5 })).modChip fun h =>
    { h with masterId := 0x100, regs := h.regs.set CHP_TIME_CTL_enable 1 }

theorem witness_TimeExchange :
    (let s := seqAt (exchs ⟨100, none, none, false, 0⟩ 0 id) (flit kTIME 1 100)
     (∃ a c d, s.goodSeq 47 a (flit kTIME 1 100) c d) ∧ (s.link 47).exch = some ⟨100, none, none, false, 0⟩) ∧
    (let s := seqAt (exchs ⟨100, none, none, false, 0⟩ 0 id) (flit kTIME 5 100)
     (∃ a c d, s.goodSeq 47 a (flit kTIME 5 100) c d) ∧ (s.link 47).exch = some ⟨100, none, none, false, 0⟩) ∧
    (let s := seqAt (exchs (metExch true) 0 id) (flit kTIME 2 100)
     (∃ a c d, s.goodSeq 47 a (flit kTIME 2 100) c d) ∧ (s.link 47).exch = some (metExch true) ∧ (metExch true).unlocked = true) ∧
    (let s := seqAt (exchs (metExch false) 0 id) (flit kTIME 2 100)
     (∃ a c d, s.goodSeq 47 a (flit kTIME 2 100) c d) ∧ (s.link 47).exch = some (metExch false) ∧
      (0 - ((s.link 47).regs.get LNK_LAT_one_way : Int)).natAbs ≤ 16 ∧ s.ncyc ≤ (metExch false).since + 18000 ∧ s.chip.locked = false ∧
      (0 :: (s.link 47).offsets).length < 16) ∧
    (let s := seqAt (exchs (metExch false) 15 id) (flit kTIME 2 100)
     (∃ a c d, s.goodSeq 47 a (flit kTIME 2 100) c d) ∧ (0 :: (s.link 47).offsets).length = 16 ∧ s.chip.locked = false ∧ s.chip.stepSent = false) ∧
    (let s := seqAt (exchs (metExch false) 15 fun h => { h with stepSent := true }) (flit kTIME 2 100)
     (∃ a c d, s.goodSeq 47 a (flit kTIME 2 100) c d) ∧ ((0 : Int) :: (s.link 47).offsets).length = 16 ∧ s.chip.locked = false ∧ s.chip.stepSent = true ∧
      s.chip.pendStep = none ∧ (meanOf ((0 : Int) :: (s.link 47).offsets)).natAbs ≤ s.chget CHP_TIME_CTL_lock_tol) ∧
    (let s := exchs (metExch false) 0 id; (s.link 47).exch = some (metExch false) ∧ (metExch false).since + 18000 ≤ s.ncyc) ∧
    (let s := tickable
     s.parentPort = some 12 ∧ s.chip.regs.flag CHP_TIME_CTL_enable = true ∧ s.zRuns = true ∧ (s.link 12).exch = none ∧ s.chip.lastExch = none ∧
      s.timeRoom 12 = true) ∧
    (let s := up.modChip fun h => { h with locked := true }
     s.chip.locked = true ∧ s.isMaster = false ∧ s.chip.lastGood + msNcyc * s.chget CHP_TIME_CTL_holdover_ms ≤ s.ncyc) ∧
    (let s := flitAt up (rmCell 0) (mkFlit 2 0x11 (rmCell 0) 0 3 4096)
     regionOk 0 = true ∧ 0 = s.timeRegion ∧ (s.localFlit (rmCell 0) fun z => z.flit.kind == kTIME && z.flit.aux == 3).isSome = true) ∧
    (∀ v < 3, 0 < v → let s := flitAt up (rmCell 0) (mkFlit 2 0x11 (rmCell 0) 0 4 (BitVec.ofNat 64 v))
     0 = s.timeRegion ∧ s.localFlit (rmCell 0) (fun z => z.flit.kind == kTIME && z.flit.aux == 4) =
      some ⟨4, 0, mkFlit 2 0x11 (rmCell 0) 0 4 (BitVec.ofNat 64 v)⟩ ∧ bits (BitVec.ofNat 64 v).toNat 0 2 = v) := by
  refine ⟨⟨⟨_, _, _, good_seqAt _ ?_ ?_ ?_⟩, ?_⟩, ⟨⟨_, _, _, good_seqAt _ ?_ ?_ ?_⟩, ?_⟩, ⟨⟨_, _, _, good_seqAt _ ?_ ?_ ?_⟩, ?_⟩,
    ⟨⟨_, _, _, good_seqAt _ ?_ ?_ ?_⟩, ?_⟩, ⟨⟨_, _, _, good_seqAt _ ?_ ?_ ?_⟩, ?_⟩, ⟨⟨_, _, _, good_seqAt _ ?_ ?_ ?_⟩, ?_⟩, ?_⟩ <;> decide +kernel

/-! ## Witnesses: the core-visible window -/

/-- A register of cell 12255 set. -/
def creg (f : Field) (v : Nat) (s : State) : State := s.modCellRegs 12255 fun r => r.set f v

/-- Core 31 of cell 12255 changed. -/
def core31 (f : CoreRt → CoreRt) (s : State) : State := s.modNi 12255 fun x => x.modCore 31 f

/-- A word of the cluster memory of cell 12255. -/
def cword (a : Nat) (v : W64) (s : State) : State := s.modCell 12255 fun x => { x with cm := mwriteWord x.cm a v }

/-- An entry of a queue. -/
def qent : QEntry := ⟨0, 1, 7, 3, 5, 0, 0, 8, false, List.replicate 6 9, 0, 0⟩

theorem witness_CoreQueueAccess :
    (cellOk 12255 = true ∧ coreOk 31 = true ∧ queueOk 63 = true ∧ coreOf (.cqPop 12255 31 63) = some (12255, 31) ∧
      (Instr.cqPop 12255 31 63).wf = true) ∧
    (((core31 (fun e => { e with stall := some (.syncRes, 0) }) up).ni 12255).core 31).stall ≠ none ∧
    (let s := up.resetNi 12255 .ni; ((s.ni 12255).core 31).stall = none ∧ (s.ni 12255).hold ≠ .none) ∧
    (let s := block759 fun x => { x with power := .doze }; blockOf 12255 = 759 ∧ ((s.ni 12255).core 31).stall = none ∧ (s.ni 12255).hold = .none ∧
      (s.block 759).power ≠ .run) ∧
    (let s := up.modNi 12255 fun x => x.modQueue 63 fun k => { k with ents := [qent] }
     s.coreFree 12255 31 ∧ ((s.ni 12255).queue 63).ents = [qent] ∧ (QueueLoc.word 5).wf = true) ∧
    (let s := creg (NI_Q_CFG_q_max.at 63) 1 up; s.coreFree 12255 31 ∧ ((s.ni 12255).queue 63).ents = [] ∧ s.cget 12255 (NI_Q_CFG_q_max.at 63) ≠ 0) ∧
    (let s := creg (NI_Q_CFG_wait_limit.at 63) 1 (core31 (fun e => { e with stall := some (.meta_ 63, 2 ^ 25 - 256) }) up)
     ((s.ni 12255).core 31).stall = some (.meta_ 63, 2 ^ 25 - 256) ∧ s.cget 12255 (NI_Q_CFG_wait_limit.at 63) ≠ 0 ∧
      2 ^ 25 - 256 + 256 * s.cget 12255 (NI_Q_CFG_wait_limit.at 63) ≤ s.ncyc) ∧
    (let s := cword 4032 (ringHeader 0 7 64) (creg (NI_Q_RING_size_4k.at 63) 1 (up.modNi 12255 fun x => x.modQueue 63 fun k => { k with c := 4032, u := 64 }))
     s.coreFree 12255 31 ∧ ((s.ni 12255).queue 63).u ≠ 0 ∧ ((s.ni 12255).queue 63).ringFault = false ∧
      ringHdr (mreadLE (s.cell 12255).cm ((s.cell 12255).regs.ringBase 63 + ((s.ni 12255).queue 63).c) 8) ((s.cell 12255).regs.ringSize 63)
        ((s.ni 12255).queue 63).c ((s.ni 12255).queue 63).u = some (0, 64)) ∧
    (let s := creg (NI_DRING_size_log2.at 67) 4 (creg (NI_DRING_enable.at 67) 1 up)
     ringOk 67 = true ∧ s.coreFree 12255 31 ∧ s.cellFlag 12255 (NI_DRING_enable.at 67) = true ∧
      (((16 : W64).setWidth 16 : BitVec 16) - ((s.ni 12255).ring 67).ci).toNat ≤ 2 ^ s.cget 12255 (NI_DRING_size_log2.at 67)) ∧
    (up.coreFree 12255 31 ∧ up.cellFlag 12255 (NI_DRING_enable.at 67) = false) := by
  refine ⟨?_, ?_, ?_, ?_, ⟨⟨?_, ?_, ?_⟩, ?_⟩, ⟨⟨?_, ?_, ?_⟩, ?_⟩, ?_, ⟨⟨?_, ?_, ?_⟩, ?_⟩, ⟨?_, ⟨?_, ?_, ?_⟩, ?_⟩, ⟨?_, ?_, ?_⟩, ?_⟩ <;> decide +kernel

/-- The entry of a channel to cell 5 of chip 1 there, OPEN, with status and receive queue 0. -/
def chent : ChanEntry := { ChanEntry.load [] 0 with state := chOPEN, peerChan := 9, peerChip := 1, peerCell := 5, peerPhys := 5, resolved := true }

/-- Channel 4095 of cell 12255 cached with an entry. -/
def chan (e : ChanEntry) (s : State) : State :=
  s.modNi 12255 fun x => { x with chans := [(4095, ⟨e, ⟨[], [], none, none, false, none, false⟩, 0, false, false⟩)] }

/-- The cached channel. -/
def chanv (e : ChanEntry) : Chan := ⟨e, ⟨[], [], none, none, false, none, false⟩, 0, false, false⟩

/-- CQ_SEND_GO of five words on channel 4095 with handler 4095. -/
def goWord : W64 := BitVec.ofNat 64 (4095 + 5 * 2 ^ 12 + 4095 * 2 ^ 16)

theorem witness_CoreSendsAndSync :
    ((chan chent up).coreFree 12255 31 ∧ (chan chent up).sendReady 12255 goWord (chanv chent) 0) ∧
    (let s := core31 (fun e => { e with stall := some (.sendGo 4095 goWord, 0) }) (chan chent up)
     ((s.ni 12255).core 31).stall = some (.sendGo 4095 goWord, 0) ∧ s.sendReady 12255 goWord (chanv chent) 0) ∧
    (up.coreFree 12255 31 ∧ coreOk 30 = true ∧ 30 ≠ 31) ∧
    (let s := up.modNi 12255 fun x => { x with fetches := [⟨4095, some 31, []⟩] }
     channelOk 4095 = true ∧ s.coreFree 12255 31 ∧ (⟨4095, some 31, []⟩ : Fetch) ∈ (s.ni 12255).fetches) ∧
    (((up.ni 12255).fetches.any fun f => f.load == some 31) = false ∧ ((up.ni 12255).core 31).syncQ = [] ∧ aget (up.ni 12255).chans 4095 = none ∧
      (up.ni 12255).faulted.contains 4095 = false ∧ ((up.ni 12255).core 31).syncBusy = false) ∧
    (let s := chan chent up; ((s.ni 12255).fetches.any fun f => f.load == some 31) = false ∧ ((s.ni 12255).core 31).syncQ = [] ∧
      aget (s.ni 12255).chans 4095 = some (chanv chent) ∧ (s.ni 12255).faulted.contains 4095 = false) ∧
    (let s := core31 (fun e => { e with syncBusy := true }) up; s.coreFree 12255 31 ∧ ((s.ni 12255).fetches.any fun f => f.load == some 31) = false ∧
      ((s.ni 12255).core 31).syncQ = [] ∧ ((s.ni 12255).core 31).syncBusy = true) := by
  unfold State.coreFree State.sendReady; decide +kernel

/-- The words of an OPEN entry toward cell 5 of chip 1, in memory where channel 4095's lies. -/
def openIn (s : State) : State := cword (64 * 4095) (BitVec.ofNat 64 (1 + 9 * 2 ^ 4 + 2 ^ 16 + 5 * 2 ^ 29)) s

/-- A fetch of channel 4095's entry under way. -/
def fetching (core : Option Nat) (s : State) : State := s.modNi 12255 fun x => { x with fetches := [⟨4095, core, []⟩] }

theorem witness_ChannelFetchAndClose :
    (let s := creg (NI_Q_CFG_q_max.at 0) 16 (openIn (fetching (some 31) (inTorus up)))
     let e := ChanEntry.load (s.cell 12255).cm (chanAddr (s.cell 12255).regs 4095)
     (s.ni 12255).fetchOf 4095 = some ⟨4095, some 31, []⟩ ∧ e.state = chOPEN ∧ s.chipOk 0x100 = true ∧ e.peerChip.toNat = 1 ∧ s.chipOk e.peerChip.toNat = true ∧
      logicalOk e.peerCell.toNat = true ∧ e.peerChip.toNat ≠ s.chipId.toNat ∧ s.loadCheck 12255 4095 e .remote = 0 ∧
      aget (s.ni 12255).chans 4095 = none ∧ ((s.ni 12255).core 31).syncQ = [] ∧ (s.ni 12255).chans.length < 64 ∧
      (s.ni 12255).loaded.contains 4095 = false) ∧
    (let s := fetching (some 31) up; (s.ni 12255).fetchOf 4095 = some ⟨4095, some 31, []⟩ ∧ ((s.ni 12255).core 31).syncQ = [] ∧
      (s.block (blockOf 12255)).count (storeKey 12255) + 1 < (s.block (blockOf 12255)).regs.get BLK_FAULT_CTL_ni_uncorr_limit) ∧
    (let s := fetching none up; (s.ni 12255).fetchOf 4095 = some ⟨4095, none, []⟩ ∧ aget (s.ni 12255).chans 4095 = none ∧
      (s.ni 12255).chans.length < 64) ∧
    (let s := chan { chent with state := chQUIESCING } up
     aget (s.ni 12255).chans 4095 = some (chanv { chent with state := chQUIESCING }) ∧ (s.ni 12255).chanTokens 4095 = [] ∧
      (s.ni 12255).fetchHeld 4095 = 0) ∧
    (let s := chan chent up; aget (s.ni 12255).chans 4095 = some (chanv chent) ∧
      (s.block (blockOf 12255)).count (storeKey 12255) + 1 < (s.block (blockOf 12255)).regs.get BLK_FAULT_CTL_ni_uncorr_limit) := by
  decide +kernel

/-- Core 31 of the last cell of block 759 waits to send v to an endpoint; the grant has come to that cell. -/
def waiter (dst v : W64) : State :=
  (core31 (fun e => { e with stall := some (.rillGo dst v, 0) }) (inTorus up)).modBlock 759 fun x => { x with nextGrant := (cellIdx 12255) }

theorem witness_CoreControlMessages :
    (up.coreFree 12255 31 ∧ cellOk 12255 = true ∧ coreOk 31 = true ∧ coreOk 0 = true ∧ 0 ≠ 31) ∧
    (∀ chip < 2, let s := waiter (BitVec.ofNat 64 (9215 + (1 + chip * 0x1000) * 2 ^ 14)) 77
     blockOk 759 = true ∧ (s.block 759).ctlReset = false ∧ s.rillStopped 759 = false ∧ (s.block 759).lastGrant = [] ∧ (s.block 759).nextGrant < 16 ∧
      (blockCells 759).getD (s.block 759).nextGrant 0 = 12255 ∧
      (s.ni 12255).rillWaiter = some (31, BitVec.ofNat 64 (9215 + (1 + chip * 0x1000) * 2 ^ 14), 77) ∧ (s.ni 12255).hold = .none ∧
      s.chipOk (1 + chip * 0x1000) = (chip == 0) ∧ logicalOk 9215 = true ∧ 1 + chip * 0x1000 ≠ s.chipId.toNat) ∧
    (let s := flitAt up 12255 { mkFlit 3 0x18 12255 0 0 77 with seg := 0 }
     (s.block (blockOf 12255)).power = .run ∧ (s.ni 12255).hold = .none ∧
      s.localFlit 12255 (fun y => y.flit.kind == kCMSG) = some ⟨4, 0, { mkFlit 3 0x18 12255 0 0 77 with seg := 0 }⟩ ∧
      (mkFlit 3 0x18 12255 0 0 77).parterre = (s.cell 12255).owner ∧ (s.ni 12255).inbox.length < 32) ∧
    (let f := mkFlit 3 0x19 12255 0 0 8
     let s := (flitAt up 12255 f).modNi 12255 fun x => { x with rillFrom := [(31, up.cmsgSource none f)] }
     s.localFlit 12255 (fun y => y.flit.kind == kCNACK) = some ⟨4, 0, f⟩ ∧
      (s.ni 12255).rillFrom.find? (fun k => k.2 == s.cmsgSource (s.routeFor 12255 ⟨4, 0, f⟩) f) = some (31, up.cmsgSource none f)) := by
  unfold State.coreFree; decide +kernel

/-- Context 15 is that of parterre 200, which owns cell 12255, whose NI it expects. -/
def ctxOwn (s : State) : State :=
  creg NI_OWNER_parterre 200 (creg (CELL_RILL_TREE_expect.at 15) 0x10 (s.modChipRegs fun r =>
    (r.set (CHP_RILL_CTX_valid.at 15) 1).set (CHP_RILL_CTX_parterre.at 15) 200))

/-- Core 31 has arrived in generation 1023 of context 15, which is released (or not). -/
def arrived (r : Option Bool) : State := up.modNi 12255 fun x => { x with bars := [(15, ⟨[(31, (1023, r))], 5⟩)] }

theorem witness_CoreBarriersAndRearms :
    (up.coreFree 12255 31 ∧ contextOk 15 = true ∧ landOk 15 = true ∧ aget ((up.ni 12255).bar 15).arr 31 = none ∧ up.ctxMine 12255 15 = false) ∧
    (let s := ctxOwn up; s.coreFree 12255 31 ∧ s.ctxMine 12255 15 = true ∧ aget ((s.ni 12255).bar 15).arr 31 = none ∧
      ((s.rt 12255).ctxRt 15).localDone = false) ∧
    (∀ r ∈ [none, some false, some true], (arrived r).coreFree 12255 31 ∧ aget (((arrived r).ni 12255).bar 15).arr 31 = some (1023, r)) := by
  unfold State.coreFree; decide +kernel

/-! ## Witnesses: rill contexts, flips, routers, the fountain buffer, injection -/

/-- The router of cell 12255 changed. -/
def rt1 (f : Router → Router) (s : State) : State := s.modRt 12255 f

/-- The tree of context 15 expects port 2 at cell 12255, which is its root, in generation 1023. -/
def ctx15 : State :=
  (creg (CELL_RILL_TREE_expect.at 15) 0x14 (creg (CELL_RILL_TREE_up_port.at 15) 7 (rt1 (fun r => r.modCtx 15 fun k => { k with gen := 1023 }) up))).modChipRegs
    fun r => (r.set (CHP_RILL_CTX_root.at 15) 12255).set (CHP_RILL_CTX_valid.at 15) 1

/-- A flit of a tree that has come to the units of cell 12255 from port 2. -/
def treeFlit (s : State) (kind dst aux : Nat) (v : W64) : State :=
  rt1 (fun r => { r with rillLocal := [⟨2, 0, mkFlit 1 kind dst 0 aux v⟩] }) s

/-- A BCAST of an operation with an argument. -/
def bcast (op arg : Nat) : State := treeFlit up 0x0A 15 0 (BitVec.ofNat 64 (op + arg * 256))

theorem witness_RillContexts :
    (let s := treeFlit ctx15 8 (1023 * 16 + 15) 0 9
     contextOk 15 = true ∧ s.rillStopped (blockOf 12255) = false ∧
      s.localFlit 12255 (fun y => y.ofCtx kGATHER 15) = some ⟨2, 0, mkFlit 1 8 (1023 * 16 + 15) 0 0 9⟩ ∧
      (mkFlit 1 8 (1023 * 16 + 15) 0 0 9).dst.toNat / 16 = ((s.rt 12255).ctxRt 15).gen.toNat ∧ (s.ctxExpect 15 12255).getLsbD 2 = true ∧
      ((s.rt 12255).ctxRt 15).ports.getLsbD 2 = false) ∧
    (let s := treeFlit ctx15 8 15 0 9
     s.localFlit 12255 (fun y => y.ofCtx kGATHER 15) = some ⟨2, 0, mkFlit 1 8 15 0 0 9⟩ ∧
      (mkFlit 1 8 15 0 0 9).dst.toNat / 16 ≠ ((s.rt 12255).ctxRt 15).gen.toNat) ∧
    (let s := treeFlit ((ctx15).modNi 12255 fun x => { x with bars := [(15, ⟨[(31, (1023, none))], 5⟩)] }) 9 (1023 * 16 + 15) 1 9
     s.localFlit 12255 (fun y => y.ofCtx kRELEASE 15 && y.action == 0) = some ⟨2, 0, mkFlit 1 9 (1023 * 16 + 15) 0 1 9⟩ ∧
      aget (s.ni 12255).bars 15 = some ⟨[(31, (1023, none))], 5⟩ ∧ s.ctxRoot 15 = 12255) ∧
    (let s := ctx15.modChip fun h => { h with ctxRoots := [(15, ⟨some (0, 1)⟩)] }
     s.ctxRoot 15 = 12255 ∧ aget s.chip.ctxRoots 15 = some ⟨some (0, 1)⟩ ∧ expired s.now 0 1 = true) ∧
    ((bcast 1 0).bcastOf 12255 1).isSome = true ∧ ((bcast 2 0).bcastOf 12255 2).isSome = true ∧
    (let s := (treeFlit up 9 0 4 1).modChip fun h => { h with arming := some (2 ^ 25 + 1) }
     s.localFlit 12255 (fun y => y.ofCtx kRELEASE 0 && y.action == 2) = some ⟨2, 0, mkFlit 1 9 0 0 4 1⟩ ∧ s.chip.arming = some (2 ^ 25 + 1) ∧
      (mkFlit 1 9 0 0 4 1).payload.getLsbD 0 = true ∧ s.now < 2 ^ 25 + 1) := by
  decide +kernel

/-- A flip in a step, with its tallies. -/
def flipAt (step : Nat) (f : Chip → Chip) : State := up.modChip fun h => f { h with flip := some ⟨step, 0, 1, [.reroute], 0, [], 0⟩ }

/-- Every cell has latched the tally of the T given. -/
def latchedAt (t : Nat) (s : State) : State := { s with cells := s.cells.mapAll fun x => { x with rt := { x.rt with latched := t } } }

theorem witness_EpochFlips :
    (let s := up.modChip fun h => { h with flipReqs := [.reroute] }; s.zRuns = true ∧ s.chip.flip = none ∧ s.chip.flipReqs ≠ [] ∧
      s.chip.routed = true ∧ s.ctxValid 0 = true) ∧
    ((flipAt 1 id).chip.flip = some ⟨1, 0, 1, [.reroute], 0, [], 0⟩ ∧ (flipAt 1 id).ctx0Idle = true) ∧
    (treeFlit up 9 0 2 1).localFlit 12255 (fun y => y.ofCtx kRELEASE 0 && y.action == 1) = some ⟨2, 0, mkFlit 1 9 0 0 2 1⟩ ∧
    (let s := flipAt 4 id; s.chip.flip = some ⟨4, 0, 1, [.reroute], 0, [], 0⟩ ∧ s.chip.tally = none ∧ s.zRuns = true ∧ s.ctxValid 0 = true) ∧
    (let s := rt1 (fun r => { r with tallyAt := some 7 }) up; (s.rt 12255).tallyAt = some 7 ∧ (s.rt 12255).tallyCopy = none ∧ 7 ≤ s.now) ∧
    (let s := rt1 (fun r => { r with tallyAt := some 7, tallyCopy := some [1, 2, 3, 4, 5] }) up
     (s.rt 12255).tallyAt = some 7 ∧ (s.rt 12255).tallyCopy = some [1, 2, 3, 4, 5] ∧ s.stopped 12255 = false) ∧
    (let s := latchedAt 7 (flipAt 4 fun h => { h with tally := some ⟨7, true⟩ })
     s.chip.tally = some ⟨7, true⟩ ∧ 7 + s.rillH + 14 ≤ s.now ∧ (s.running.all fun c => (s.rt c).latched == 7) = true ∧
      s.chip.flip = some ⟨4, 0, 1, [.reroute], 0, [], 0⟩) ∧
    ((bcast 3 1).bcastOf 12255 3).isSome = true := by
  decide +kernel

/-- A packet of a type and class from cell 0 to cell 12255, with a good crc. -/
def pkt1 (f : Packet → Packet) : Packet :=
  let p := f { pkt 0 12255 with logicalForm := 0 }
  { p with crc := p.crcOf }

/-- A packet that stands at input 2 of cell 12255 on a plane. -/
def arrives (pl : Plane) (p : Packet) (s : State) : State := rt1 (fun r => r.arrive pl ⟨2, 2 ^ 25, p⟩) s

/-- A packet decoded at cell 12255. -/
def decoded (pl : Plane) (d : Decoded) (s : State) : State := rt1 (fun r => r.setPlane pl { r.plane pl with dec := [d] }) s

/-- An answer to the neighbour cell. -/
def toNeighbour : Packet := pkt1 fun p => { p with type := tACK, cls := 2, length := 0, dstCell := 12254 }

theorem witness_RouterStages :
    (∀ pl ∈ [Plane.request, Plane.reply], let s := arrives pl (pkt1 id) up
     dynPlane pl = true ∧ ((s.rt 12255).plane pl).arr.find? (fun y => y.port == 2 && decide (y.due ≤ s.ncyc)) = some ⟨2, 2 ^ 25, pkt1 id⟩ ∧
      aget (s.rt 12255).sluices 2 = none ∧ (s.rt 12255).verState 0 ≠ vFREE ∧ (pkt1 id).type ≠ tMCAST ∧ s.acrossFence 12255 (pkt1 id) = false ∧
      (s.productive 12255 (pkt1 id) 0).prod ≠ 0 ∧ (s.productive 12255 (pkt1 id) 0).emptyRow = false) ∧
    (let p := { pkt1 id with epoch := 1 }; let s := arrives .request p up
     ((s.rt 12255).plane .request).arr.find? (fun y => y.port == 2 && decide (y.due ≤ s.ncyc)) = some ⟨2, 2 ^ 25, p⟩ ∧ (s.rt 12255).verState 1 = vFREE) ∧
    (let s := rt1 (fun r => r.arrive .reply ⟨0, 2 ^ 25, pkt1 id⟩) up
     ((s.rt 12255).plane .reply).arr.find? (fun y => y.port == 0 && decide (y.due ≤ s.ncyc)) = some ⟨0, 2 ^ 25, pkt1 id⟩ ∧
      aget (s.rt 12255).sluices 0 = none ∧ neighbor 12255 0 = none) ∧
    (let d : Decoded := ⟨2, 0, pkt1 id, 16, .home⟩; let s := decoded .reply d up
     ((s.rt 12255).plane .reply).dec = [d] ∧ d.at_ < s.ncyc ∧ d.pref ≠ .branch ∧ (s.prefOrder 12255 d).find? (fun p => s.freeSlot 12255 .reply p) = some 4 ∧
      d.pkt.type ≠ 0 ∧ d.pkt.type ≠ 15) ∧
    (∀ a ∈ [126, 127], let d : Decoded := ⟨2, 0, { pkt1 id with age := BitVec.ofNat 7 a }, 0, .grid⟩; let s := decoded .request d up
     ((s.rt 12255).plane .request).dec = [d] ∧ d.at_ < s.ncyc ∧ d.pref ≠ .branch ∧ (s.prefOrder 12255 d).find? (fun p => s.freeSlot 12255 .request p) = none ∧
      s.deflPort 12255 .request d = some 3 ∧ neighbor 12255 3 = some 12127 ∧ d.pkt.type ≠ tTEL) ∧
    (let s := rt1 (fun r => { r with answers := [toNeighbour] }) up
     (s.rt 12255).answers = [toNeighbour] ∧ s.mayInject 12255 .reply = true ∧ s.isLocal 12255 toNeighbour = false ∧
      s.injectPort 12255 .reply (s.stamped 12255 toNeighbour 0) = some 2 ∧ neighbor 12255 2 = some 12254 ∧ toNeighbour.type ≠ tTEL) := by
  decide +kernel

/-- A multicast packet of tree 4095. -/
def mcast : Packet := pkt1 fun p => { p with type := tMCAST, cls := 1, chanTree := 4095 }

/-- Slot 3 of the fountain buffer of cell 12255 with a mask, waiting since n. -/
def fslot (m : BitVec 5) (p : Packet) (n : Nat) : FountSlot := ⟨p, m, n, 3, 0⟩

/-- The fountain buffer of cell 12255 with that slot. -/
def fount (f : FountSlot) : State := up.modNi 12255 fun x => { x with fountain := [f] }

theorem witness_FountainBuffer :
    (∀ p ∈ [mcast, { mcast with crc := ~~~mcast.crc }, pkt1 (fun p => { p with type := tMCAST, cls := 1, chanTree := 4095, length := 0 })],
     let s := fount (fslot 16 p 0)
     (s.ni 12255).hold = .none ∧ (s.ni 12255).didNow dFount s.ncyc = false ∧
      (s.ni 12255).fountain.find? (fun f => f.mask.getLsbD 4 && !(s.ni 12255).readsWait f.id && decide (f.placed < s.ncyc)) = some (fslot 16 p 0)) ∧
    (mcast.crc = mcast.crcOf ∧ pktLegal mcast .request = true ∧ (up.cell 12255).regs.mcLanding mcast = none ∧
      ({ mcast with crc := ~~~mcast.crc } : Packet).crc ≠ ({ mcast with crc := ~~~mcast.crc } : Packet).crcOf ∧
      pktLegal (pkt1 fun p => { p with type := tMCAST, cls := 1, chanTree := 4095, length := 0 }) .request = false) ∧
    (let s := fount (fslot 8 mcast 0)
     (s.ni 12255).headReq = none ∧ s.mayInject 12255 .request = true ∧ (s.ni 12255).fountServer = some (fslot 8 mcast 0) ∧
      (s.ni 12255).readsWait 3 = false ∧ (fslot 8 mcast 0).placed < s.ncyc ∧
      (s.rotOrder 12255).find? (fun p => (8 : BitVec 5).getLsbD p && s.freeOut 12255 .request p) = some 3 ∧ neighbor 12255 3 = some 12127) ∧
    (let s := fount (fslot 1 mcast 0)
     (s.ni 12255).headReq = none ∧ s.mayInject 12255 .request = true ∧ (s.ni 12255).fountServer = some (fslot 1 mcast 0) ∧
      (fslot 1 mcast 0).since + s.cget 12255 NI_FOUNT_CTL_fount_patience ≤ s.ncyc ∧
      (s.rotOrder 12255).any (fun p => (1 : BitVec 5).getLsbD p && s.freeOut 12255 .request p) = false ∧ s.anyPort 12255 .request = some 2 ∧
      neighbor 12255 2 = some 12254) := by
  decide +kernel

/-- A range in EMIT with one packet. -/
def emitting : RangeRt := { RangeRt.idle with st := .emit, outp := [pkt1 fun p => { p with type := tRED, cls := 1 }] }

/-- A token of channel 4095 with a packet that waits. -/
def token (st : TokState) : Token := ⟨st, 3, .msg 4095 9 none, 5, pkt1 fun p => { p with type := tMSG, cls := 2, length := 8 }, 0, 1, 1, false, 0⟩

/-- A head of a plane since n. -/
def head1 (n : Nat) (p : Packet) : Head := ⟨p, n, .combine, 7⟩

theorem witness_NiInjection :
    (let s := up.modNi 12255 fun x => { x with ranges := [(15 * 1024, emitting)] }
     (s.ni 12255).hold = .none ∧ (s.ni 12255).headReq = none ∧ (s.ni 12255).didNow dSelReq s.ncyc = false ∧ (s.ni 12255).fountServer = none ∧
      (s.ni 12255).oldestEmit = some (15 * 1024, emitting) ∧ emitting.outp = [pkt1 fun p => { p with type := tRED, cls := 1 }]) ∧
    (let s := (chan { chent with privileged := true } up).modNi 12255 fun x => { x with tokens := [(255, token .queued)] }
     (s.ni 12255).headReq = none ∧ (s.ni 12255).fountServer = none ∧ (s.ni 12255).oldestEmit = none ∧ (s.ni 12255).descs = [] ∧
      (s.ni 12255).chans = [(4095, chanv { chent with privileged := true })] ∧ (s.ni 12255).chanNext 4095 = some (255, token .queued) ∧
      (s.ni 12255).inWindow 4095 (token .queued).seq = true ∧ (s.cell 12255).owner = 0) ∧
    (let s := creg CELL_SPRAY_CTL_collector 0 (rt1 (fun r => { r with sample := some ⟨1, 2, 3, 4⟩ }) up)
     (s.ni 12255).headRep = none ∧ (s.ni 12255).didNow dSelRep s.ncyc = false ∧ (s.ni 12255).serves = [] ∧ (s.rt 12255).sample = some ⟨1, 2, 3, 4⟩ ∧
      cellOk (s.cget 12255 CELL_SPRAY_CTL_collector) = true) ∧
    (let s := up.modNi 12255 fun x => { x with headReq := some (head1 0 toNeighbour) }
     (s.ni 12255).head .request = some (head1 0 toNeighbour) ∧ (∀ p, (head1 0 toNeighbour).src ≠ .mnt p) ∧ (s.ni 12255).readsWait 7 = false ∧
      (s.ni 12255).badReads.contains 7 = false ∧ s.isLocal 12255 toNeighbour = false ∧ s.mayInject 12255 .request = true ∧
      s.answersFirst 12255 .request = false ∧ s.injectPort 12255 .request (s.stamped 12255 toNeighbour 0) = some 2 ∧ neighbor 12255 2 = some 12254) ∧
    (let s := creg NI_INJ_CTL_patience 16 (rt1 (fun r => r.setPlane .reply { r.plane .reply with stamp := 2 ^ 25, used := 4 }) (up.modNi 12255 fun x =>
      { x with headRep := some (head1 (2 ^ 25 - 16) toNeighbour) }))
     (s.ni 12255).head .reply = some (head1 (2 ^ 25 - 16) toNeighbour) ∧ s.mayInject 12255 .reply = true ∧ s.answersFirst 12255 .reply = false ∧
      s.impatient 12255 (2 ^ 25 - 16) = true ∧ s.injectPort 12255 .reply (s.stamped 12255 toNeighbour 0) = none ∧ s.anyPort 12255 .reply = some 3 ∧
      neighbor 12255 3 = some 12127) := by
  refine ⟨?_, ?_, ?_, ⟨?_, fun _ => nofun, ?_⟩, ?_⟩ <;> decide +kernel

/-! ## Witnesses: messages, tokens, bulk transfers, gateways -/

/-- Packet p has been handed to the NI of cell 12255 on a plane. -/
def handed (pl : Plane) (p : Packet) (s : State) : State := s.modNi 12255 fun x => { x with ejected := [(pl, p)] }

/-- The channel of a peer in cell 0 of this chip, with receive and status queue 0. -/
def msgCh : ChanEntry := { ChanEntry.load [] 0 with state := chOPEN, peerChan := 9, rxExpect := 5 }

/-- Channel 4095 of cell 12255 with that entry and a receive state, its queue with room. -/
def rxState (rx : RxState) (s : State) : State :=
  creg (NI_Q_CFG_q_max.at 0) 1 (s.modNi 12255 fun x => { x with chans := [(4095, ⟨msgCh, rx, 0, false, false⟩)] })

/-- Nothing received. -/
def rx0 : RxState := ⟨[], [], none, none, false, none, false⟩

/-- A message of 48 bytes placed in an entry, its head received. -/
def placed : Placed := ⟨4, 48, 2, 1, 1, 40, 0, 3, none, List.replicate 40 1⟩

/-- A MSG of one word. -/
def msgP : Packet := pkt1 fun p => { p with type := tMSG, cls := 2, chanTree := 4095, seq := 5, length := 8 }
/-- A MSG_HEAD of a message of n bytes. -/
def headP (n : Nat) (last : BitVec 1) : Packet :=
  pkt1 fun p => { p with type := tMSG_HEAD, cls := 2, chanTree := 4095, seq := 5, length := BitVec.ofNat 6 (8 + min n 40), last := last, payload := BitVec.ofNat 384 n }
/-- The last MSG_BODY of a message of 48 bytes. -/
def bodyP : Packet := pkt1 fun p => { p with type := tMSG_BODY, cls := 2, chanTree := 4095, seq := 5, length := 8, last := 1 }

/-- The channel as it is cached then. -/
def rxChan (rx : RxState) : Chan := ⟨msgCh, rx, 0, false, false⟩

theorem witness_MessagesArrive :
    (∀ p ∈ [msgP, headP 40 1, headP 41 0, headP 48 0], let s := handed .request p (rxState rx0 up)
     s.receives 12255 .request p ∧ s.inOrder 12255 (rxChan rx0) p ∧ (s.cell 12255).canTake 0 = true) ∧
    ((headP 40 1).pl 0 3 ≤ 40 ∧ (headP 40 1).last = 1 ∧ 40 < (headP 41 0).pl 0 3 ∧ (headP 48 0).pl 0 3 ≤ 48 ∧ (headP 48 0).last = 0) ∧
    (let s := handed .request bodyP (rxState { rx0 with placed := some placed } up)
     s.receives 12255 .request bodyP ∧ s.inOrder 12255 (rxChan { rx0 with placed := some placed }) bodyP ∧ placed.fits placed.next bodyP = true ∧
      placed.packets ≤ placed.wrote + 1 ∧ placed.ringOff = none) ∧
    (let s := rxState { rx0 with held := [msgP] } up
     channelOk 4095 = true ∧ aget (s.ni 12255).chans 4095 = some (rxChan { rx0 with held := [msgP] }) ∧ (s.ni 12255).hold = .none ∧
      (s.ni 12255).fetches = [] ∧ msgP.seq.setWidth 8 = msgCh.rxExpect ∧ s.answerFree 12255 = true) ∧
    (let s := rxState { rx0 with placed := some placed, gap := some (0, 1) } up
     aget (s.ni 12255).chans 4095 = some (rxChan { rx0 with placed := some placed, gap := some (0, 1) }) ∧ expired s.now 0 1 = true) ∧
    (let s := up.modNi 12255 fun x => x.modQueue 63 fun k => { k with ents := [qent], since := some (0, 1) }
     queueOk 63 = true ∧ ((s.ni 12255).queue 63).since = some (0, 1) ∧ ((s.ni 12255).queue 63).ents ≠ [] ∧ expired s.now 0 1 = true) ∧
    (let s := up.modNi 12255 fun x => { x with dispatch := [(3, 63)] }
     (s.ni 12255).dispatch = [(3, 63)] ∧ (s.ni 12255).didNow dDispatch s.ncyc = false) := by
  unfold State.receives State.inOrder; refine ⟨?_, ?_, ?_, ?_, ?_, ?_⟩ <;> decide +kernel

/-- Token 255 of channel 4095 in a state. -/
def tok255 (st : TokState) : State := (chan chent up).modNi 12255 fun x => { x with tokens := [(255, token st)] }

/-- An answer for sequence number 5 of generation 3 that names a channel. -/
def answerP (t : BitVec 4) (ch : BitVec 12) : Packet :=
  pkt1 fun p => { p with type := t, cls := 2, chanTree := ch, seq := 3 * 256 + 5, length := if t = tACK then 0 else 8, payload := 0x101 }

theorem witness_TokensClose :
    (let s := handed .reply (answerP tACK 4095) (tok255 .inflight)
     cellOk 12255 = true ∧ tokenOk 255 = true ∧ aget (s.ni 12255).tokens 255 = some (token .inflight) ∧ (token .inflight).isOpen = true ∧
      (token .inflight).use = .msg 4095 9 none ∧ aget (s.ni 12255).chans 4095 = some (chanv chent) ∧ s.receives 12255 .reply (answerP tACK 4095) ∧
      (answerP tACK 4095).type = tACK ∧ (s.ni 12255).ackToken 4095 5 = some (255, token .inflight) ∧
      (token .inflight).gen.toNat = (answerP tACK 4095).seq.toNat / 256) ∧
    (let s := handed .reply (answerP tNACK 9) (tok255 .inflight)
     s.receives 12255 .reply (answerP tNACK 9) ∧ (answerP tNACK 9).type = tNACK ∧ (answerP tNACK 9).cls = 2 ∧
      (s.ni 12255).nackToken 9 5 = some (255, token .inflight) ∧ (token .inflight).gen.toNat = (answerP tNACK 9).seq.toNat / 256 ∧
      chent.stormLimit = 0) ∧
    ((token .inflight).st = .inflight ∧ (token .inflight).retx ≠ 0 ∧ expired (tok255 .inflight).now (token .inflight).start (token .inflight).retx = true) ∧
    ((token .resent).st = .resent ∧ expired (tok255 .resent).now (token .resent).start (token .resent).abandon = true) ∧
    (let s := tok255 .queued; aget (s.ni 12255).tokens 255 = some (token .queued) ∧ (token .queued).isOpen = true ∧
      (s.block (blockOf 12255)).count (storeKey 12255) + 1 < (s.block (blockOf 12255)).regs.get BLK_FAULT_CTL_ni_uncorr_limit) := by
  unfold State.receives; decide +kernel

/-- Window 15 of cell 12255 opens the granules from 0x7FFFF0 for parterre 0, 16 of them, to reads and writes. -/
def windowed (s : State) : State :=
  creg (NI_WIN_A_valid.at 15) 1 (creg (NI_WIN_A_rd.at 15) 1 (creg (NI_WIN_A_wr.at 15) 1 (creg (NI_WIN_A_base.at 15) 0x7FFFF0
    (creg (NI_WIN_A_count_m1.at 15) 15 s))))

/-- A bulk packet of a type for granule 0x7FFFFF. -/
def bulkP (t : BitVec 4) (f : Packet → Packet) : Packet :=
  pkt1 fun p => f { p with type := t, cls := 1, chanTree := 0x7FF, seq := 0xFFF, last := 1, length := 48 }

/-- The words of a WRITE of a granule to the cell with a logical ID on this chip. -/
def writeW (op lid : Nat) : List W64 :=
  [BitVec.ofNat 64 (op + 16 + 48 * 2 ^ 8), BitVec.ofNat 64 lid, BitVec.ofNat 64 0x7FFFFF, 0, 0, 0, 0, 0]

/-- Ring 3 of cell 12255 has read such a descriptor. -/
def posted (op lid : Nat) (s : State) : State := s.modNi 12255 fun x => x.modRing 3 fun k => { k with pi := 1, fetched := some (writeW op lid) }

/-- A tranche of the block 0x1FFFF. -/
def tranche (due : Bool) (pend : Nat) : Tranche := ⟨4, 0, 0, 1, 0x1FFFF, 0, 0, 1, 0, 0, 0, due, pend, false⟩

/-- A WRITE of n packets to cell 0 under way, i of them injected, c confirmed. -/
def writing (n i c : Nat) : Desc := { Desc.ofWords 6 3 0 0 (writeW 1 0) with n := n, injected := i, confirmed := c, tracker := some (0, 1) }

/-- A READ's token: granules 0x7FFFFF alone, of 48 bytes. -/
def readTok : Token := { token .inflight with use := .read 6 0x7FFFFF 1 0 48 0x7FFFFF }

/-- A request of the cluster port under tag 9. -/
def req9 (use : CmUse) : State := up.modNi 12255 fun x => { x with cmReqs := [⟨9, false, use⟩] }

/-- Landing 15 of cell 12255 takes the dynamic tree 4095 at granule 0x7FFFF0. -/
def landed (s : State) : State :=
  creg (NI_MC_LAND_valid.at 15) 1 (creg (NI_MC_LAND_dyn_valid.at 15) 1 (creg (NI_MC_LAND_dyn_tree.at 15) 4095 (creg (NI_MC_LAND_base.at 15) 0x7FFFF0 s)))

theorem witness_BulkTransfers :
    (let s := posted 1 (9215 + 2 ^ 14) (windowed (inTorus up)); let k := (s.ni 12255).ring 3
     let d := Desc.ofWords (s.ni 12255).nextId 3 (k.postedAt k.next) k.next (writeW 1 (9215 + 2 ^ 14))
     (s.ni 12255).hold = .none ∧ (s.ni 12255).descs = [] ∧ k.bad = false ∧ k.fetched = some (writeW 1 (9215 + 2 ^ 14)) ∧ d.length ≠ 0 ∧
      s.checkDesc 12255 d (writeW 1 (9215 + 2 ^ 14)) = (s, .good 1 9215)) ∧
    (let s := posted 6 5 (windowed up); let k := (s.ni 12255).ring 3
     let d := Desc.ofWords (s.ni 12255).nextId 3 (k.postedAt k.next) k.next (writeW 6 5)
     k.fetched = some (writeW 6 5) ∧ s.checkDesc 12255 d (writeW 6 5) = (s, .bad stBADDESC 0) ∧ stBADDESC ≠ 0) ∧
    (let s := handed .request (bulkP tWR id) (windowed up)
     s.receives 12255 .request (bulkP tWR id) ∧ (bulkP tWR id).type = tWR ∧ (s.ni 12255).tranches = [] ∧
      (s.cell 12255).regs.window 0 (bulkP tWR id).granule 1 true = some 15 ∧ (bulkP tWR id).granule = 0x7FFFFF) ∧
    (let s := handed .request (bulkP tWR id) up
     s.receives 12255 .request (bulkP tWR id) ∧ (s.cell 12255).regs.window 0 (bulkP tWR id).granule 1 true = none) ∧
    (let s := creg NI_BULK_CTL_flush_ncyc 7 (up.modNi 12255 fun x => { x with tranches := [{ tranche false 0 with joined := 2 ^ 25 - 7 }] })
     (s.ni 12255).tranches[0]? = some { tranche false 0 with joined := 2 ^ 25 - 7 } ∧ 2 ^ 25 - 7 + s.cget 12255 NI_BULK_CTL_flush_ncyc ≤ s.ncyc) ∧
    (let s := up.modNi 12255 fun x => { x with tranches := [tranche true 0] }
     (s.ni 12255).tranches.find? (fun x => x.due && x.pend == 0 && !x.bad) = some (tranche true 0) ∧ (s.ni 12255).hold = .none ∧
      (s.ni 12255).didNow dCompl s.ncyc = false ∧ s.answerFree 12255 = true) ∧
    (let p := bulkP tRD_REQ fun p => { p with length := 12, last := 0, payload := BitVec.ofNat 384 (0xFFFFFF + 48 * 2 ^ 32) }
     let s := handed .request p (windowed up)
     s.receives 12255 .request p ∧ p.type = tRD_REQ ∧ (s.cell 12255).regs.window 0 p.granule 1 false = some 15 ∧
      rdFails p.granule (rdFields p).1 (rdFields p).2.1
        ((s.cell 12255).regs.get (NI_WIN_A_base.at 15) + (s.cell 12255).regs.get (NI_WIN_A_count_m1.at 15) + 1 - p.granule) = none ∧
      (s.ni 12255).serves.length < 32) ∧
    (let s := handed .reply (bulkP tRD_DATA id) ((windowed up).modNi 12255 fun x => { x with tokens := [(255, readTok)], descs := [{ writing 1 1 0 with op := 2 }] })
     s.receives 12255 .reply (bulkP tRD_DATA id) ∧ (s.cell 12255).regs.window 0 0x7FFFFF 1 true = some 15 ∧
      (s.ni 12255).readToken (0, 0) 0x7FFFFF = some (255, readTok) ∧ (s.ni 12255).quarantined 0x7FFFFF = false ∧
      (bulkP tRD_DATA id).length.toNat = 48) ∧
    (∀ i ∈ [2, 1], let p := bulkP tCOMPL fun p => { p with seq := 0xFC0, length := 8, last := 0, payload := 1 }
     let d := { writing i i 0 with remoteG := 0x7FFFFF }
     let s := handed .reply p (up.modNi 12255 fun x => { x with descs := [d] })
     s.receives 12255 .reply p ∧ (s.ni 12255).descs = [d] ∧ d.op = 1 ∧ (s.ni 12255).tracker (0, 0) p.granule (p.granule + 63) 1 = some d ∧
      p.pl 0 2 = 1 ∧ d.done = false ∧ d.fail = none) ∧
    (let s := up.modNi 12255 fun x => { x with descs := [writing 1 1 0] }
     (s.ni 12255).descs = [writing 1 1 0] ∧ (writing 1 1 0).done = false ∧ (writing 1 1 0).tracker = some (0, 1) ∧ expired s.now 0 1 = true) ∧
    (∀ u ∈ [CmUse.descriptor 67, .tranche 4], ((req9 u).ni 12255).cmReqs.find? (fun q => q.tag == 9) = some ⟨9, false, u⟩) ∧
    (let p := bulkP tMCAST fun p => { p with chanTree := 4095, seq := 15, dstCell := 12255 }; let s := handed .request p (landed (windowed up))
     s.receives 12255 .request p ∧ p.type = tMCAST ∧ (s.cell 12255).regs.mcLanding p = some 15 ∧ ((s.ni 12255).mcRt 15).done = false ∧
      p.parterre.toNat = (s.cell 12255).regs.get (NI_MC_LAND_parterre.at 15) ∧
      (s.cell 12255).regs.window 0 ((s.cell 12255).regs.get (NI_MC_LAND_base.at 15) + p.seq.toNat) 1 true = some 15) := by
  unfold State.receives; refine ⟨?_, ?_, ?_, ?_, ?_, ?_, ?_, ?_, ?_, ?_, ?_, ?_⟩ <;> decide +kernel

/-! ## Witnesses: gateways -/

/-- Gateway 19 changed. -/
def gw19 (f : Gateway → Gateway) (s : State) : State := s.modGw 19 f

/-- A register of gateway 19 set. -/
def greg (f : Field) (v : Nat) : State → State := gw19 fun x => { x with regs := x.regs.set f v }

/-- Window 63 of gateway 19 opens the last 16 granules at its last cell for parterre 0, to reads and writes. -/
def gwWindowed (s : State) : State :=
  greg (CHP_MGW_WIN_A_valid.at 63) 1 (greg (CHP_MGW_WIN_A_cell.at 63) 7 (greg (CHP_MGW_WIN_A_rd.at 63) 1 (greg (CHP_MGW_WIN_A_wr.at 63) 1
    (greg (CHP_MGW_WIN_A_base.at 63) 0xFFFFF0 (greg (CHP_MGW_WIN_A_count_m1.at 63) 15 s)))))

/-- A request of a type for the last granule, from cell 0, at the last cell of gateway 19. -/
def atGw (pl : Plane) (p : Packet) (s : State) : State := gw19 (fun x => { x with inq := [⟨7, pl, p⟩] }) s

/-- A WR of the last granule. -/
def gwWr : Packet := bulkP tWR fun p => { p with chanTree := 0xFFF }
/-- A scheduled WR of it. -/
def gwWrS : Packet := bulkP tWR fun p => { p with chanTree := 0xFFF, cls := 0 }
/-- An RD_REQ of the last granule that lands at granule 0xFFFFFE. -/
def gwRd : Packet := bulkP tRD_REQ fun p => { p with chanTree := 0xFFF, length := 12, last := 0, payload := BitVec.ofNat 384 (0xFFFFFE + 48 * 2 ^ 32) }

/-- That RD_REQ as it is served, n of its data sent. -/
def gwServe (ready : Assoc (BitVec 384 × Bool)) : GwServe := ⟨3, 7, gwRd, 0xFFFFFF, 0xFFFFFE, 1, 48, 720, 0, ready⟩

/-- Gateway 19 serves it with its request under tag 9. -/
def gwServing : State := gw19 (fun x => { x with reqs := [⟨9, 720, .read 3 0⟩], serves := [gwServe []] }) up

/-- Its last cell's tranche of one granule. -/
def gwTranche (due : Bool) (pend : Nat) : Tranche := { tranche due pend with block := 0x3FFFF, cell := 7 }

/-- The words of a scheduled MCAST of one packet from the last granule. -/
def streamW : List W64 := [BitVec.ofNat 64 (4 + 48 * 2 ^ 8), 0, 0xFFFFFF, 0, 0, 0, 0, 0]

/-- Stream ring 63 of gateway 19 enabled with that descriptor posted. -/
def streaming : State :=
  greg (CHP_MGW_STREAM_weight.at 63) 0 (greg (CHP_MGW_STREAM_base.at 63) 1 (greg (CHP_MGW_STREAM_enable.at 63) 1 (gw19 (fun x =>
    { x with stack := mwriteWord (mwriteWord (mwriteList [] 4096 [1]) (4096 + 128) (streamW.getD 0 0)) (4096 + 144) 0xFFFFFF }) (gwWindowed up))))

theorem witness_GatewayRequests :
    (let s := atGw .request gwWr (gwWindowed up)
     gatewayOk 19 = true ∧ (s.gw 19).inq.find? (fun a => a.k == 7 && a.pkt.type == tWR) = some ⟨7, .request, gwWr⟩ ∧ gwWr.crc = gwWr.crcOf ∧
      pktLegal gwWr .request = true ∧ (s.gw 19).regs.gwWindow 7 gwWr.parterre.toNat gwWr.granule 1 true = some 63 ∧ (s.gw 19).tranches = []) ∧
    (∀ q ∈ [(Plane.request, gwWr), (Plane.sched, gwWrS)], let s := atGw q.1 q.2 up
     (s.gw 19).inq.find? (fun a => a.k == 7 && a.pkt.type == tWR) = some ⟨7, q.1, q.2⟩ ∧ q.2.crc = q.2.crcOf ∧ pktLegal q.2 q.1 = true ∧
      (s.gw 19).regs.gwWindow 7 q.2.parterre.toNat q.2.granule 1 true = none) ∧
    (let s := atGw .request gwRd (gwWindowed up); let r := (s.gw 19).regs
     (s.gw 19).inq.find? (fun a => a.k == 7 && a.pkt.type == tRD_REQ) = some ⟨7, .request, gwRd⟩ ∧ gwRd.crc = gwRd.crcOf ∧
      pktLegal gwRd .request = true ∧ r.gwWindow 7 gwRd.parterre.toNat gwRd.granule 1 false = some 63 ∧
      rdFails gwRd.granule (rdFields gwRd).1 (rdFields gwRd).2.1
        (r.get (CHP_MGW_WIN_A_base.at 63) + r.get (CHP_MGW_WIN_A_count_m1.at 63) + 1 - gwRd.granule) = none) ∧
    ((gwServing.gw 19).reqs = [⟨9, 720, .read 3 0⟩] ∧ (gwServing.gw 19).tranches = [] ∧ (gwServing.gw 19).serves = [gwServe []] ∧
      (gwServe []).sent < (gwServe []).count) ∧
    (let s := gw19 (fun x => { x with serves := [gwServe [(0, (5, false))]] }) up
     (s.gw 19).answers = [] ∧ (s.gw 19).serves = [gwServe [(0, (5, false))]] ∧ aget (gwServe [(0, (5, false))]).ready 0 = some (5, false) ∧
      s.mayPresent 19 7 .reply = true) ∧
    (let s := gw19 (fun x => { x with reqs := [⟨9, 0, .tranche 4⟩], tranches := [gwTranche false 1] }) up
     (s.gw 19).reqs = [⟨9, 0, .tranche (gwTranche false 1).id⟩] ∧ (s.gw 19).tranches = [gwTranche false 1] ∧ (gwTranche false 1).pend = 1 ∧
      (gwTranche false 1).bad = false) ∧
    (let s := gw19 (fun x => { x with tranches := [gwTranche true 0] }) up
     (s.gw 19).tranches = [gwTranche true 0] ∧ (gwTranche true 0).pend = 0 ∧ (gwTranche true 0).due = true) ∧
    (let s := greg (CHP_MGW_STREAM_enable.at 63) 1 up; let r := (s.gw 19).regs; let x := (s.gw 19).stream 63
     streamOk 63 = true ∧ r.flag (CHP_MGW_STREAM_enable.at 63) = true ∧ (s.gw 19).hold = false ∧
      BitVec.ofNat 16 (mreadLE (s.gw 19).stack (r.streamBase 63) 2) = x.ci) ∧
    (let s := streaming; let r := (s.gw 19).regs; let x := (s.gw 19).stream 63
     r.flag (CHP_MGW_STREAM_enable.at 63) = true ∧ (s.gw 19).hold = false ∧
      BitVec.ofNat 16 (mreadLE (s.gw 19).stack (r.streamBase 63) 2) = 1 ∧ x.ci = 0 ∧
      ((1 : BitVec 16) - x.ci).toNat ≤ 2 ^ r.get (CHP_MGW_STREAM_size_log2.at 63) ∧ x.cur = none ∧
      ((List.range 8).map fun i => mreadWord (s.gw 19).stack (r.streamDesc 63 x.ci + 8 * i)) = streamW ∧ s.streamCheck 19 63 streamW = none) ∧
    (let s := { up with time := 2 ^ 51, ftn := { up.ftn with startCount := some 1 } }
     s.zRuns = true ∧ s.cistOpen = true ∧ s.ftn.dayFrom + 86400 * 1800000000 ≤ s.now) := by
  refine ⟨?_, ?_, ?_, ?_, ?_, ?_, ?_, ?_, ?_, ?_⟩ <;> decide +kernel

/-! ## Witnesses: reduction -/

/-- Tree 4095 of cell 12255 in its last entry, in the format of 32 elements: role, children, contributions expected. -/
def redTree (role children expected : Nat) (s : State) : State :=
  creg (NI_RED_TREE_A_valid.at 15) 1 (creg (NI_RED_TREE_A_tree.at 15) 4095 (creg (NI_RED_TREE_A_role.at 15) role
    (creg (NI_RED_TREE_A_children.at 15) children (creg (NI_RED_TREE_A_format.at 15) 1 (creg (NI_RED_TREE_B_expected.at 15) expected
      (creg (NI_RED_TREE_C_timeout_us.at 15) 100 (rt1 (fun r => { r with casc := [(4095, 0x300)] }) s)))))))

/-- A RED or RED_RESULT of one contribution for range 1 of that tree. -/
def redP (t : BitVec 4) : Packet := bulkP t fun p => { p with chanTree := 4095, seq := 4, payload := BitVec.ofNat 384 (2 ^ 288 + 2 ^ 304) }

/-- The last range of the last entry of cell 12255. -/
def ranged (g : RangeRt) : State := (redTree 1 2 2 up).modNi 12255 fun x => { x with ranges := [(16383, g)] }

/-- A range in a state whose timer has run out, arrivals of its units. -/
def timed (st : RangeSt) (arr : List Nat) : RangeRt := { RangeRt.idle with st, timer := (0, 1), units := arr.map fun n => ⟨n, n, 0⟩ }

/-- The pair of cell 12255 has a combine test to answer. -/
def tested (f : State → State) : State := f ((up).modBlock 759 fun x => { x with combPend := [12254] })

theorem witness_ReductionAtNi :
    (∀ q ∈ [(1, 7, 0), (1, 1, 2), (2, 1, 2)], let s := handed .request (redP tRED) (redTree q.1 q.2.1 q.2.2 up); let r := (s.cell 12255).regs
     (s.receives 12255 .request (redP tRED) ∧ s.contributes 12255 15 (redP tRED) ∧ (s.ni 12255).didNow dRed s.ncyc = false) ∧
      r.get (NI_RED_TREE_A_children.at 15) = q.2.1 ∧ bits ((redP tRED).pl 38 2) 0 4 = r.redFmt 15 ∧ r.get (NI_RED_TREE_A_role.at 15) = q.1 ∧
      redCount (redP tRED) = 1 ∧ r.get (NI_RED_TREE_B_expected.at 15) = q.2.2) ∧
    (let s := handed .request (redP tRED) up
     s.receives 12255 .request (redP tRED) ∧ (s.cell 12255).regs.redEntry 4095 = none ∧ (s.ni 12255).didNow dRed s.ncyc = false) ∧
    (let s := handed .request (redP tRED_RESULT) up
     s.receives 12255 .request (redP tRED_RESULT) ∧ (s.cell 12255).regs.redLanding 4095 = none) ∧
    (let s := creg (NI_RED_LAND_valid.at 7) 1 (creg (NI_RED_LAND_tree.at 7) 4095 (creg (NI_RED_LAND_base.at 7) 0x7FFFFB
       (handed .request (redP tRED_RESULT) (windowed up)))); let r := (s.cell 12255).regs
     s.receives 12255 .request (redP tRED_RESULT) ∧ r.redLanding 4095 = some 7 ∧ ((s.ni 12255).redRt 7).done = false ∧
      (redP tRED_RESULT).parterre.toNat = r.get (NI_RED_LAND_parterre.at 7) ∧
      r.window 0 (r.get (NI_RED_LAND_base.at 7) + (redP tRED_RESULT).seq.toNat) 1 true = some 15) ∧
    (∀ a ∈ [[1, 2], [1, 0]], let s := ranged (timed .open_ a); let g := (s.ni 12255).range 15 1023
     treeOk 15 = true ∧ rangeOk 1023 = true ∧ g = timed .open_ a ∧ g.due s.now = true ∧ (s.cell 12255).redWaits 15 1023 = false) ∧
    ((timed .open_ [1, 2]).units.all (fun u => decide (0 < u.arrivals)) = true ∧
      (timed .open_ [1, 0]).units.all (fun u => decide (0 < u.arrivals)) = false) ∧
    (∀ st ∈ [RangeSt.held, .shut], let s := ranged (timed st [1]); let g := (s.ni 12255).range 15 1023
     g.st = st ∧ g.due s.now = true) ∧
    (let s := block759 fun x => { x with regs := x.regs.set BLK_RINSE_CTL_comb_test 1 }
     blockOk 759 = true ∧ (s.block 759).regs.flag BLK_RINSE_CTL_comb_test = true ∧ s.now % 2 ^ 20 = 0 ∧ (s.block 759).ctlReset = false) ∧
    (let s := tested id
     (s.block (blockOf 12255)).combPend.contains (pairOf 12255) = true ∧ (s.reference (pairOf 12255)).isSome = true ∧
      (s.reference (pairOf 12255 + 1)).isSome = true ∧ s.ctlActs (blockOf 12255) = true) ∧
    (let s := (ranged (timed .open_ [1])).modNi 12255 fun x => { x with dup := some ⟨15, 1023, 2 ^ 25 - 16⟩ }
     (s.ni 12255).dup = some ⟨15, 1023, 2 ^ 25 - 16⟩ ∧ ((s.ni 12255).range 15 1023).st = .open_ ∧ 2 ^ 25 - 16 + 16 ≤ s.ncyc) := by
  unfold State.receives State.contributes
  refine ⟨?_, ?_, ?_, ?_, ?_, ?_, ?_, ?_, ?_, ?_⟩ <;> decide +kernel

/-! ## Witnesses: observation, rinse, snapshots -/

/-- A TEL from cell 0. -/
def telP : Packet := pkt1 fun p => { p with type := tTEL, cls := 3, length := 32 }

/-- A sample of core 31 taken in an ncyc. -/
def sampled (n : Nat) : PcSample := ⟨31, n, 0, 0, 0, 0, 0⟩

/-- Cell 12255 waits for the answer to a sample taken in an ncyc, its ring in use. -/
def sampling (n : Nat) : State := creg NI_PCS_RING_enable 1 (up.modNi 12255 fun x => { x with pcs := some (sampled n) })

/-- Block 759 rinses every plane, next on port 3 of cell 12255. -/
def rinsing : State := block759 fun x => { x with
  regs := (x.regs.set BLK_RINSE_CTL_enable 1).set BLK_RINSE_CTL_planes 7, rinsePort := [(47, 3), (46, 3), (45, 3)] }

/-- A test packet that the neighbour at port 2 sends to cell 12255, as it arrives well or ill, its check bytes
set to 0 (nothing reads them past the decode stage). -/
def mntP (good : Bool) : Packet :=
  let p := up.mntPacket 12254 0 0x2FF 4095
  let p := if good then p else { p with payload := 0 }
  { p with crc := p.crcOf, check := 0 }

/-- Cell 12255 awaits the second test of that packet, or not. -/
def waiting (w : Bool) (s : State) : State := if w then s.modNi 12255 fun x => { x with retest := [(awaitKey 2 .reply, (0x2FF, 4095))] } else s

/-- A snapshot of region 15 at 8 T in mailbox 9. -/
def snapping (t : Nat) (s : State) : State := s.modChip fun h => { h with snap := some ⟨BitVec.ofNat 64 (8 * t), 9, 0x8000⟩ }

theorem witness_ObservationRinseAndSnapshots :
    (∀ e ∈ [0, 1], let s := creg NI_TEL_RING_enable e (handed .reply telP up)
     s.receives 12255 .reply telP ∧ telP.type = tTEL ∧ (s.cell 12255).regs.flag NI_TEL_RING_enable = (e == 1)) ∧
    (let s := creg NI_PCS_CTL_enable 1 (creg NI_PCS_CTL_core_mask 0x80000000 up); let r := (s.cell 12255).regs
     (s.ni 12255).hold = .none ∧ (s.block (blockOf 12255)).power = .run ∧ r.flag NI_PCS_CTL_enable = true ∧ aget (s.ni 12255).did dPcs = none ∧ (s.ni 12255).pcs = none ∧
      r.pcsNext (s.ni 12255).pcsCore = some 31) ∧
    (∀ n ∈ [2 ^ 25 - 16, 2 ^ 25 - 17], ((sampling n).ni 12255).pcs = some (sampled n) ∧
      ((sampling n).cell 12255).regs.flag NI_PCS_RING_enable = true ∧ (sampling n).ncyc = 2 ^ 25) ∧
    (let s := creg NI_LAT_CTL_mode 1 up; s.cget 12255 NI_LAT_CTL_mode = 1 ∧ (s.ni 12255).latNext ≤ s.ncyc ∧ (s.block (blockOf 12255)).power = .run) ∧
    (let s := up.modNi 12255 fun x => { x with mapMiss := [9215] }
     logicalOk 9215 = true ∧ (s.ni 12255).mapMiss.contains 9215 = true ∧ (s.ni 12255).mapCache.length < 128) ∧
    (∀ pl ∈ [Plane.request, .reply, .sched], let s := rinsing
     s.rinses 12255 pl = true ∧ s.owedRetest 12255 pl = none ∧ aget (s.ni 12255).did (dRinse pl) = none ∧ s.nextRinse 12255 pl = some 3 ∧
      s.rinseRoom 12255 pl 3 = true) ∧
    (∀ pl ∈ [Plane.request, .reply], let s := up.modNi 12255 fun x => { x with mntReq := some (telP, 3, 0), mntRep := some (telP, 3, 0) }
     (if pl = .reply then (s.ni 12255).mntRep else (s.ni 12255).mntReq) = some (telP, 3, 0) ∧
      0 + (s.block (blockOf 12255)).regs.get BLK_RINSE_CTL_rinse_timeout ≤ s.ncyc) ∧
    (∀ q ∈ [(true, false), (false, false), (false, true)], let s := waiting q.2 (handed .reply (mntP q.1) up)
     s.receives 12255 .reply (mntP q.1) ∧ (mntP q.1).type = tMNT ∧ s.chip.reopens = [] ∧
      (List.range 4).find? (fun i => neighbor 12255 i == some (mntP q.1).srcCell.toNat) = some 2 ∧ neighbor 12255 2 = some 12254 ∧
      (s.ni 12255).retest = if q.2 then [(awaitKey 2 .reply, (0x2FF, 4095))] else []) ∧
    ((mntP true).payload = rinsePattern (mntP true).chanTree (mntP true).seq ∧ (mntP false).payload ≠ rinsePattern (mntP false).chanTree (mntP false).seq ∧
      (mntP false).chanTree = 0x2FF ∧ (mntP false).seq = 4095) ∧
    (let s := send up 9 0x80 0xFF [0, 0, 0, 0, 0, 0, 0, 0, 0, 0x80] []
     s.accepts 9 0x80 = true ∧ (s.cmdOf 9).extLen = 0 ∧ (s.cmdOf 9).arg 0 8 = 0 ∧ s.chip.snap = none) ∧
    (let s := send up 9 0x80 0xFF [0, 0, 0, 0x10] []
     s.accepts 9 0x80 = true ∧ (s.cmdOf 9).extLen = 0 ∧ (s.cmdOf 9).arg 0 8 ≠ 0 ∧ (s.cmdOf 9).arg 0 8 / 8 < s.now + s.bcastLead) ∧
    (∀ u ∈ [SnapUnit.cell 12255, .block 759, .region 15, .link 47, .gateway 19, .fountaineer],
     let s := (snapping (2 ^ 25) up).modRt (up.snapCell u) fun r => { r with freezeAt := some (2 ^ 25) }
     u.wf = true ∧ s.chip.snap = some ⟨2 ^ 28, 9, 0x8000⟩ ∧ s.snapDue u (2 ^ 25) = true ∧ 2 ^ 25 ≤ s.now) ∧
    (let s := (snapping (2 ^ 25 - 1) up).modMbx 9 fun x => { x with taken := true }
     s.chip.snap = some ⟨2 ^ 28 - 8, 9, 0x8000⟩ ∧ (s.mbx 9).taken = true ∧ s.zRuns = true ∧ (2 ^ 28 - 8) / 8 < s.now ∧
      (snapUnits (maskRegions 0x8000)).any (fun u => s.snapDue u (2 ^ 25 - 1)) = false ∧ ∀ j < 10, aget s.chip.mbxWait (kSnapWait j) = none) := by
  unfold State.receives
  refine ⟨?_, ?_, ?_, ?_, ?_, ?_, ?_, ?_, ?_, ?_, ?_, ?_, ?_⟩ <;> decide +kernel

/-! ## Witnesses: the scheduled plane -/

/-- A row of cell c in period 0: from cycle 100 on for n cycles, an input, a mask of outputs, a stream. -/
def schedRow (c n inp mask st : Nat) : SchedRow := ⟨c, 0, BitVec.ofNat 64 (100 + (n - 1) * 2 ^ 24 + inp * 2 ^ 40 + mask * 2 ^ 43 + st * 2 ^ 48)⟩

/-- The sequence of two periods with those rows has run for 100 ncyc; every block is to be awake in the second period. -/
def underWay (rows : List SchedRow) (s : State) : State :=
  s.modChip fun h => { h with
    running := true
    banks0 := { h.banks0 with valid := true, t0 := 2 ^ 25 - 100, lens := [1024, 1024], rows := rows, wakes := [0, 2 ^ 760 - 1] } }

/-- A packet stands at an input of cell 12255 on the scheduled plane, and the router runs the period. -/
def onSched (p : Nat) (s : State) : State := rt1 (fun r => { r with sched := [⟨p, 0, pkt1 id⟩], armed := [2 ^ 25 - 100] }) s

/-- The cell's stream 63 has a WRITE of two packets posted. -/
def schedDesc : Desc := { Desc.ofWords 6 67 0 0 (writeW 1 0) with n := 2 }

/-- The cell at which stream rings of gateway 19 enter the mesh, and its port. -/
def gwEnd : Nat × Nat := gatewayCell 19 7

/-- A packet waits at the ingress of link 47 for an ncyc. -/
def ingAt (n : Nat) : Ingress := ⟨1, n, pkt1 id⟩

theorem witness_ScheduledPlane :
    (∀ rows ∈ [[], [schedRow 12255 1 0 8 0], [schedRow 12255 1 2 8 0], [schedRow 12255 1 2 16 0]], let s := underWay rows (onSched 2 up)
     (s.ni 12255).didNow dSched s.ncyc = false ∧ (s.block (blockOf 12255)).power = .run ∧ (s.rt 12255).sched = [⟨2, 0, pkt1 id⟩] ∧
      aget (s.rt 12255).sluices 2 = none ∧ (pkt1 id).type ≠ tMNT ∧ (pkt1 id).type ≠ 0 ∧ (pkt1 id).type ≠ 15 ∧ s.activeRows 12255 = rows ∧
      s.schedOpen 12255 3 (pkt1 id) = true) ∧
    ((schedRow 12255 1 0 8 0).inPort ≠ 2 ∧ (schedRow 12255 1 2 8 0).inPort = 2 ∧ neighbor 12255 3 = some 12127 ∧
      (List.range 5).filter (fun o => (schedRow 12255 1 2 8 0).mask.testBit o) = [3] ∧
      (List.range 5).filter (fun o => (schedRow 12255 1 2 16 0).mask.testBit o) = [4]) ∧
    (∀ ds ∈ [[schedDesc], []], let rows := [schedRow 12255 2 4 8 63]
     let s := (underWay rows (rt1 (fun r => { r with armed := [2 ^ 25 - 100] }) up)).modNi 12255 fun x => { x with descs := ds }
     s.stopped 12255 = false ∧ s.pos = some (0, 100, 2 ^ 25 - 100) ∧ (s.activeRows 12255).any (fun r => r.inPort == 4 && r.stream == 63) = true ∧
      (s.ni 12255).didNow (300 + 63) s.ncyc = false ∧ ((aget (s.ni 12255).slips 63).map (·.1)) ≠ some (2 ^ 25 - 100) ∧ (s.ni 12255).hold = .none ∧
      s.slotDesc 12255 63 = ds.head? ∧ slotsFrom ((s.bank.rowsOf 12255 0).filter fun r => r.inPort == 4 && r.stream == 63) (100 + 1) ≠ 0) ∧
    (let s := (underWay [schedRow gwEnd.1 1 gwEnd.2 1 63] up).modRt gwEnd.1 fun r => { r with armed := [2 ^ 25 - 100] }
     cellOk gwEnd.1 = true ∧ s.stopped gwEnd.1 = false ∧ s.pos = some (0, 100, 2 ^ 25 - 100) ∧ edgeOf gwEnd.1 gwEnd.2 = some (.gateway 19 7) ∧
      gwEnd.2 < 4 ∧ (∀ o, o < 4 → o ≠ gwEnd.2 → ∀ g' k', edgeOf gwEnd.1 o ≠ some (.gateway g' k')) ∧
      (s.activeRows gwEnd.1).any (fun r => r.inPort == gwEnd.2 && r.stream == 63) = true ∧ aget (s.gw 19).did (1000 + 63) ≠ some (s.ncyc + 1) ∧
      (s.gw 19).hold = false ∧ ((((s.gw 19).stream 63).slip.map (·.1)) ≠ some (2 ^ 25 - 100)) ∧
      ((s.gw 19).stream 63).idles (2 ^ 25 - 100) = false ∧ s.slotGranule 19 63 = false) ∧
    (∀ p ∈ [Power.doze, .sleep], let s := underWay [] (block759 fun x => { x with power := p })
     (false, 1, 2 ^ 25 + 924) ∈ s.ahead (s.chget CHP_SCHED_CTL_wake_lead) ∧ 759 ∈ regionBlocks 15 ∧ (s.bankFor false).wakes? 1 759 = true ∧
      (s.block 759).power = p) ∧
    (let s := underWay [] up
     s.armTarget = some (2 ^ 25 + 924) ∧ s.chip.flip = none ∧ s.ctxValid 0 = true ∧ s.zRuns = true ∧
      ∀ c ∈ regionCells 15, s.stopped c = false → ((s.rt c).ctxRt 0).localDone = false) ∧
    (∀ n ∈ [2 ^ 25, 2 ^ 25 - 1], let s := lk 5 fun l => { l with ingSched := [ingAt n] }
     linkOk 47 = true ∧ (s.link 47).ingSched = [ingAt n] ∧ s.now = 2 ^ 25 ∧ (ingAt n).at_ = n) := by
  have h : ∀ o < 4, o ≠ gwEnd.2 → edgeOf gwEnd.1 o = none := by decide +kernel
  refine ⟨?_, ?_, ?_, ⟨?_, ?_, ?_, ?_, ?_, fun o h1 h2 g k => by rw [h o h1 h2]; nofun, ?_⟩, ?_, ?_, ?_⟩ <;> decide +kernel

/-! ## Witnesses: the rill network, records, watchdogs; encodings, runs, the invariant -/

/-- A flit of VC 0 waits at input 2 of cell 12255, the port to 12127 closed or not. -/
def rillAt (f : Flit) (closed : Bool) : State := rt1 (fun r => { r with rillIn := [⟨2, 0, f⟩], rillClosed := if closed then 8 else 0 }) up

/-- A FAULT flit with a record at the units of a cell. -/
def faultAt (c : Nat) (f : FaultRec) : State := flitAt up c (faultFlit 0 c f)

/-- The record of a sluice closed at port 2 of cell 5, of a class. -/
def closedRec (cls : Nat) : FaultRec := mkRec cls 2 5 2 0 1 7

theorem witness_RillNetAndFaultFlits :
    (let f := mkFlit 0 0x10 12127 0 0 0; let s := rillAt f false
     s.rillStopped (blockOf 12255) = false ∧ s.rillHead 12255 2 0 = some ⟨2, 0, f⟩ ∧ s.rillWant 12255 ⟨2, 0, f⟩ = .mesh 3 ∧
      neighbor 12255 3 = some 12127 ∧ s.rillCan 12255 2 f (.mesh 3) = true ∧ s.rillTurn 12255 2 0 (.mesh 3) = true) ∧
    (let f := mkFlit 0 0x10 12127 0 0 0; let s := rillAt f true
     s.rillHead 12255 2 0 = some ⟨2, 0, f⟩ ∧ s.rillWant 12255 ⟨2, 0, f⟩ = .mesh 3 ∧ s.rillCan 12255 2 f (.mesh 3) = false) ∧
    (let f := mkFlit 0 0x05 12127 0 0 0; let s := rillAt f false
     s.rillHead 12255 2 0 = some ⟨2, 0, f⟩ ∧ s.rillWant 12255 ⟨2, 0, f⟩ = .bad) ∧
    (let f := mkFlit 0 0x10 12255 0 0 0; let s := rillAt f false
     s.rillHead 12255 2 0 = some ⟨2, 0, f⟩ ∧ s.rillWant 12255 ⟨2, 0, f⟩ = .local_ ∧ s.rillCan 12255 2 f .local_ = true ∧
      s.rillTurn 12255 2 0 .local_ = true ∧ f.kind ≠ kCMSG ∧ f.kind ≠ kCNACK) ∧
    (let s := block759 fun x => { x with waiting := some (closedRec 1), lastSend := some (2 ^ 25 - 16) }
     (s.block 759).waiting = some (closedRec 1) ∧ (s.block 759).lastSend = some (2 ^ 25 - 16) ∧ 2 ^ 25 - 16 + 16 ≤ s.ncyc ∧
      (s.block 759).ctlReset = false ∧ s.rillStopped 759 = false) ∧
    (let s := up.modRegion 15 fun x => { x with waiting := some (closedRec 1) }
     (s.region 15).waiting = some (closedRec 1) ∧ (s.region 15).lastSend = none ∧ s.ctxValid 0 = true) ∧
    (let r := mkRec 8 0 12255 2 0 0 1; let s := faultAt 12255 r
     s.localFlit 12255 (fun y => y.flit.kind == kFAULT) = some ⟨4, 0, faultFlit 0 12255 r⟩ ∧ FaultRec.ofWord (faultFlit 0 12255 r).payload = r ∧
      r.level = 0 ∧ r.unit.toNat = 12255 ∧ r.port.toNat = 2 ∧ (neighbor 12255 2).isSome = true) ∧
    (∀ c ∈ [rmCell 15, 0], ∀ k ∈ [8, 1], let s := faultAt c (closedRec k)
     cellOk c = true ∧ s.localFlit c (fun y => y.flit.kind == kFAULT) = some ⟨4, 0, faultFlit 0 c (closedRec k)⟩ ∧
      FaultRec.ofWord (faultFlit 0 c (closedRec k)).payload = closedRec k ∧ s.ctxValid 0 = true ∧ s.zRuns = true ∧ s.chip.routed = true) ∧
    ((closedRec 8).level ≠ 0 ∧ (closedRec 8).action = 1 ∧ (closedRec 8).cls = 8 ∧ (closedRec 1).cls ≠ 8 ∧
      rmCell 15 = rmCell (regionOf (rmCell 15)) ∧ 0 ≠ rmCell (regionOf 0) ∧ 0 = up.cornerRoot) ∧
    (∀ a ∈ [1, 2, 3, 4, 5], let f := mkFlit 0 0x01 12255 0 a 0; let s := flitAt up 12255 f
     s.localFlit 12255 (fun y => y.flit.kind == kRESET) = some ⟨4, 0, f⟩ ∧ f.aux.toNat = a) ∧
    (∀ a ∈ [0, 1, 2], let f := mkFlit 0 0x02 12255 0 0 (BitVec.ofNat 64 (4 + 16 * a)); let s := flitAt up 12255 f
     s.localFlit 12255 (fun y => y.flit.kind == kSLUICE) = some ⟨4, 0, f⟩ ∧ f.payload.toNat.testBit 2 = true ∧ f.payload.toNat.testBit 3 = false ∧
      bits f.payload.toNat 4 2 = a ∧ (neighbor 12255 2).isSome = true) ∧
    (up.now % 2 ^ (16 + (up.block 759).regs.get BLK_FAULT_CTL_window_log2) = 0 ∧ blockOk 759 = true) ∧
    (let s := (block759 fun x => { x with missed := 1 }).modRegion 15 fun x => { x with missed := 1 }
     regionOk 15 = true ∧ s.pollDue 15 (s.region 15).polled = true ∧ (s.region 15).missed = 1 ∧ (s.block 759).power ≠ .off ∧
      s.pollDue (blockRegion 759) (s.block 759).polled = true ∧ (s.block 759).missed = 1) := by
  refine ⟨?_, ?_, ?_, ?_, ?_, ?_, ?_, ?_, ?_, ?_, ?_, ?_, ?_⟩ <;> decide +kernel

theorem witness_WireFormsReadBack : Memory.wf ([(5, 7), (9, 1)] : Mem) = true := by decide

theorem witness_QueueRunsInOrder :
    (let s := { up with pending := [.wrEject 12255, .linkDetectPoll 47, .wrEject 96] }
     s.pending = [.wrEject 12255, .linkDetectPoll 47] ++ .wrEject 96 :: [] ∧
      (∀ j ∈ [Instr.wrEject 12255, .linkDetectPoll 47], j.wf = true) ∧ (Instr.wrEject 96).wf = false) ∧
    ∀ i ∈ ({ up with pending := [.wrEject 12255, .linkDetectPoll 47] } : State).pending, i.wf = true := by
  decide +kernel

theorem witness_StepKeepsMemoriesCanonical :
    let s := { up with pending := [.sidebandResponse 0 0 false] }
    s.memWf = true ∧ ∃ t, step s = .next t :=
  ⟨by decide +kernel, _, rfl⟩

/-! ## Witness: the cistern opens (R438 to R441, R453) -/

/-- CRC-32 run on over n zero bytes. -/
def crcZeros : Nat → Nat → Nat
  | 0, c => c
  | n + 1, c => if c = 0 then 0 else crcZeros n (crc32Byte c 0)

theorem crcZeros_eq (n c : Nat) : (List.replicate n (0 : Byte)).foldl crc32Byte c = crcZeros n c := by
  induction n generalizing c with
  | zero => rfl
  | succ n ih =>
    rw [List.replicate_succ, List.foldl_cons, ih, crcZeros]
    split
    · subst c
      have : crc32Byte 0 0 = 0 := by decide
      rw [this]
      cases n <;> simp [crcZeros]
    · rfl

/-- The header of a directory page of generation 1 without records. -/
def dirHead : List Byte :=
  [0x43, 0x53, 0x54, 0x4E, 1] ++ List.replicate 11 0 ++ [1] ++ List.replicate 43 0 ++ leBytes 4 223236996

/-- The page as a whole. -/
def dirPage : List Byte := dirHead ++ List.replicate 4032 0

theorem dirPage_crc : pageCrc dirPage = 223236996 := by
  have e : dirPage.take 60 ++ dirPage.drop 64 = dirHead.take 60 ++ List.replicate 4032 0 := rfl
  rw [pageCrc, e, crc32, List.foldl_append, crcZeros_eq]
  decide +kernel

theorem dirPage_good : pageGood dirPage 0 0 = true := by
  have h : pg dirPage 60 4 = 223236996 := rfl
  have h2 : dirPage.take 4 = [0x43, 0x53, 0x54, 0x4E] := rfl
  have h3 : pg dirPage 4 1 = 1 := rfl
  have h4 : pg dirPage 5 1 = 0 := rfl
  have h5 : pg dirPage 8 2 = 0 := rfl
  simp [pageGood, h, h2, h3, h4, h5, dirPage_crc]

/-- A page never written is no good copy. -/
theorem zeros_bad (n kind part : Nat) : pageGood (List.replicate n 0) kind part = false := by
  have : ((List.replicate n (0 : Byte)).take 4 == [0x43, 0x53, 0x54, 0x4E]) = false := by
    rw [List.take_replicate]
    cases h : min 4 n with
    | zero => rfl
    | succ k => rfl
  simp only [pageGood, this, Bool.false_and]

/-- Copy A's stack with that page first. -/
def dirStack : Mem := mwriteList [] 0 dirHead

theorem page_zero {s : State} (h : (s.gw 0).stack = dirStack) : s.page 0 0 = dirPage := by
  have l : dirHead.length = 64 := rfl
  simp only [State.page, cistGw, if_pos, h]
  refine List.ext_getElem (by simp only [mreadList, dirPage, l, pageSize, List.length_map, List.length_range, List.length_append, List.length_replicate]) fun i h1 h2 => ?_
  simp only [mreadList, List.getElem_map, List.getElem_range, dirPage, List.getElem_append, List.getElem_replicate, Nat.zero_mul]
  split
  next hi => exact mread_mwriteList [] 0 dirHead rfl i hi
  next hi => rw [dirStack, mread_mwriteList_ne [] 0 _ dirHead rfl (by omega)]; rfl

theorem page_other {s : State} (h : (s.gw 0).stack = dirStack) (h' : (s.gw 10).stack = []) (j n : Nat) (hn : j ≠ 0 ∨ n ≠ 0) :
    s.page j n = List.replicate 4096 0 := by
  have l : dirHead.length = 64 := rfl
  refine List.ext_getElem (by simp only [State.page, mreadList, pageSize, List.length_map, List.length_range, List.length_replicate]) fun i h1 h2 => ?_
  simp only [State.page, mreadList, List.getElem_map, List.getElem_range, List.getElem_replicate, pageSize]
  by_cases hj : j = 0
  · have : n ≠ 0 := by simpa [hj] using hn
    rw [cistGw, if_pos hj, h, dirStack, mread_mwriteList_ne [] 0 _ dirHead rfl (by omega)]; rfl
  · rw [cistGw, if_neg hj, h']; rfl

/-- Copy A as it is read then. -/
def dirCopy : CistCopy := ⟨true, false, 0, 1, [], List.replicate 16 0, [], []⟩

theorem dirPage_tail (o n : Nat) (h : 64 ≤ o) : pg dirPage o n = 0 := by
  have l : dirHead.length = 64 := rfl
  have z (k : Nat) : leNat (List.replicate k (0 : Byte)) = 0 := by
    induction k with
    | zero => rfl
    | succ k ih => rw [List.replicate_succ, leNat, ih]; rfl
  rw [pg, dirPage, List.drop_append, List.drop_eq_nil_of_le (by omega), List.nil_append, List.drop_replicate, List.take_replicate, z]

section
variable {s : State} (h : (s.gw 0).stack = dirStack) (h' : (s.gw 10).stack = [])
include h h'

omit h' in
theorem anchorGen_zero (hb : (s.cist 0).badReads = []) : s.anchorGen 0 0 = some 1 := by
  have g : s.goodAt 0 0 0 0 = true := by simp only [State.goodAt, hb, page_zero h, dirPage_good]; rfl
  have e : pageGen dirPage = 1 := rfl
  rw [State.anchorGen, anchorPages, List.find?_cons_of_pos (by exact g), Option.map_some, page_zero h, e]

theorem anchorGen_other (j k : Nat) (hk : j ≠ 0 ∨ k ≠ 0) : s.anchorGen j k = none := by
  have g (n : Nat) (hn : j ≠ 0 ∨ n ≠ 0) : s.goodAt j n 0 0 = false := by
    rw [State.goodAt, page_other h h' j n hn, zeros_bad, Bool.and_false]
  rw [State.anchorGen, anchorPages, List.find?_eq_none.2, Option.map_none]
  intro n hn
  simp only [List.mem_cons, List.not_mem_nil, or_false] at hn
  rw [g n (by omega)]
  exact Bool.false_ne_true

theorem bestAnchor_zero (hb : (s.cist 0).badReads = []) : s.bestAnchor 0 = some (0, 1) := by
  have r : List.range 16 = [0, 1, 2, 3, 4, 5, 6, 7, 8, 9, 10, 11, 12, 13, 14, 15] := rfl
  simp only [State.bestAnchor, r, List.foldl_cons, List.foldl_nil, anchorGen_zero h hb, anchorGen_other h h' 0 _ (.inr (Nat.succ_ne_zero _))]

theorem bestAnchor_one : s.bestAnchor 1 = none := by
  have r : List.range 16 = [0, 1, 2, 3, 4, 5, 6, 7, 8, 9, 10, 11, 12, 13, 14, 15] := rfl
  simp only [State.bestAnchor, r, List.foldl_cons, List.foldl_nil, anchorGen_other h h' 1 _ (.inl Nat.one_ne_zero)]

theorem readCopy_zero (hb : s.ftn.copyA = CistCopy.reset) : s.readCopy 0 = s.modCist 0 fun _ => dirCopy := by
  have b : (s.cist 0).badReads = [] := by rw [State.cist, if_pos rfl, hb]; rfl
  have g : s.goodAt 0 0 0 0 = true := by simp only [State.goodAt, b, page_zero h, dirPage_good]; rfl
  have d : dirEntries dirPage = [] := by
    rw [dirEntries, List.filterMap_eq_nil_iff]
    intro i _
    simp only [dirPage_tail (128 + 12 * i) 1 (by omega), if_pos]
  have z : ((List.range 16).map fun z => pg dirPage (64 + 2 * z) 2) = List.replicate 16 0 := by
    have (z : Nat) : pg dirPage (64 + 2 * z) 2 = 0 := dirPage_tail _ _ (by omega)
    simp only [this]
    rfl
  have p : (anchorPages 0).find? (fun n => s.goodAt 0 n 0 0) = some 0 := List.find?_cons_of_pos (by exact g)
  simp only [State.readCopy, bestAnchor_zero h h' b, p, page_zero h, d, z, List.map_nil]
  simp only [State.modCist, State.modFtn, if_pos, hb]
  rfl

theorem readCopy_one (hb : s.ftn.copyB = CistCopy.reset) : s.readCopy 1 = s.modCist 1 fun _ => { CistCopy.reset with usable := false } := by
  simp only [State.readCopy, bestAnchor_one h h', State.modCist, State.modFtn, hb]
  rfl

theorem readCistern_eq (ha : s.ftn.copyA = CistCopy.reset) (hb : s.ftn.copyB = CistCopy.reset) :
    s.readCistern = s.modFtn fun x => { x with copyA := dirCopy, copyB := { CistCopy.reset with usable := false } } := by
  let s1 := s.modFtn fun x => { x with copyA := dirCopy }
  have b0 : ∀ t : State, t.ftn.copyA = dirCopy → t.readBad 0 = [] := by
    intro t ht
    simp only [State.readBad, State.cist, if_pos, ht]
    rfl
  have b1 : ∀ t : State, t.ftn.copyB = { CistCopy.reset with usable := false } → t.readBad 1 = [] := by
    intro t ht
    simp only [State.readBad, State.cist, Nat.one_ne_zero, if_neg, ht, not_false_eq_true]
    rfl
  have r0 : s.readCopy 0 = s1 := by rw [readCopy_zero h h' ha]; rfl
  have e1 : (s1.modCist 0 fun k => { k with badPages := k.badPages ++ ([] : List Nat).filter fun n => !k.badPages.contains n }) = s1 := rfl
  have r1 : s1.readCopy 1 = s1.modCist 1 fun _ => { CistCopy.reset with usable := false } := readCopy_one (s := s1) h h' hb
  simp only [State.readCistern, State.forEach, List.foldl_cons, List.foldl_nil]
  rw [r0, b0 s1 rfl, e1, r1, b1 _ rfl]
  rfl

end

theorem repairAll_none {s : State} (ha : s.ftn.copyA.recs = []) (hb : s.ftn.copyB.recs = []) : s.repairAll = (s, 0) := by
  have : s.allRecs = [] := by simp only [State.allRecs, ha, hb]; rfl
  rw [State.repairAll, this]
  rfl

theorem dirCopy_free (z : Nat) (hz : z < 16) : (dirCopy.nextFree z).isSome = true := by
  rw [CistCopy.nextFree, List.find?_isSome]
  refine ⟨4096 * z + 100, List.mem_map.2 ⟨100, by simp, ?_⟩, ?_⟩
  · have : dirCopy.zones.getD z 0 = 0 := by
      have e : dirCopy.zones = List.replicate 16 0 := rfl
      rw [e, List.getD_eq_getElem?_getD, List.getElem?_replicate]; split <;> rfl
    rw [this]
  · have e1 : dirCopy.badPages = [] := rfl
    have e2 : dirCopy.recs = [] := rfl
    simp only [CistCopy.free, e1, e2, anchorPage, List.contains_nil, List.any_nil, Bool.not_false, Bool.and_true, Bool.not_eq_true', Bool.or_eq_false_iff,
      Bool.and_eq_false_iff, decide_eq_false_iff_not]
    omega

/-- Mailbox 0 asks for the cistern, copy A readable. -/
def opening : State := send ((without 4).modGw 0 fun x => { x with stack := dirStack }) 0 0x08 1 [7, 0, 0, 0, 0, 0] []

theorem witness_BringUpCommands_cisternOpen :
    opening.accepts 0 0x08 = true ∧ (opening.cmdOf 0).extLen = 0 ∧ opening.stepDone 4 = false ∧
    (let k := opening.cmdOf 0
     let keep := if k.arg 4 2 = 0 then 90 else k.arg 4 2
     let a := opening.accepted 0
     let c := (a.modFtn fun f => { f with day := k.arg 0 4, retention := keep, dayFrom := opening.now }).readCistern.repairAll.1
     ((a.readCistern.cist 0).live = true ∨ (a.readCistern.cist 1).live = true) ∧
     ∃ j, j < 2 ∧ (c.cist j).live = true ∧ (c.cist j).badReads = [] ∧ (∀ r ∈ (c.cist j).recs, k.arg 0 4 < r.day + keep) ∧
      3 ≤ ((List.range 16).filter fun z => ((c.cist j).nextFree z).isSome).length) := by
  refine ⟨accepts_send (by decide +kernel), by decide +kernel, by decide +kernel, ?_⟩
  have hA : (opening.accepted 0).readCistern = _ := readCistern_eq rfl rfl rfl rfl
  intro k keep a c
  have hC : c = (a.modFtn fun f => { f with day := k.arg 0 4, retention := keep, dayFrom := opening.now }).modFtn fun x =>
      { x with copyA := dirCopy, copyB := { CistCopy.reset with usable := false } } := by
    show (State.repairAll (State.readCistern _)).1 = _
    rw [readCistern_eq rfl rfl rfl rfl, repairAll_none rfl rfl]
  have hc : c.cist 0 = dirCopy := by rw [hC]; rfl
  refine ⟨.inl ?_, 0, by decide, ?_, ?_, ?_, ?_⟩
  · rw [hA]; rfl
  · rw [hc]; rfl
  · rw [hc]; rfl
  · rw [hc]; intro r hr; exact absurd hr (List.not_mem_nil)
  · have : ((List.range 16).filter fun z => ((c.cist 0).nextFree z).isSome) = List.range 16 :=
      List.filter_eq_self.2 fun z hz => by rw [hc]; exact dirCopy_free z (List.mem_range.1 hz)
    rw [this, List.length_range]
    decide

theorem witness_BringUpCommands_defectLoad :
    let s := send (without 6) 0 0x10 1 [0] []
    s.accepts 0 0x10 = true ∧ (s.cmdOf 0).extLen = 0 ∧ (s.cmdOf 0).arg 0 1 = 0 ∧ s.stepDone 4 = true ∧ s.stepDone 6 = false := by
  refine ⟨accepts_send ?_, ?_⟩ <;> decide +kernel

theorem witness_TimeAndSelfTestCommands_named :
    let s := send (without 10) 0 0x12 0xFF [1, 0, 0, 0, 40] (List.replicate 72 0xFF)
    s.accepts 0 0x12 = true ∧ (s.cmdOf 0).extLen = 72 ∧ (s.cmdOf 0).arg 0 1 = 1 ∧ 40 ≤ (s.cmdOf 0).arg 4 4 ∧ s.stepDone 10 = false ∧
      ∀ b ∈ allBlocks, (s.block b).test = none := by
  decide +kernel

theorem witness_WindowQueueAndRegisterCommands_units :
    (let s := send up 0 0x22 0 [0x93, 0x3F, 63, 0x39, 255, 0, 0, 0x80, 0, 0, 0, 0, 0, 0, 0, 0, 0x10] []
     let k := s.cmdOf 0
     s.accepts 0 0x22 = true ∧ k.extLen = 0 ∧ k.arg 0 2 = 0x3F80 + 19 ∧ s.chip.integ.mgwPresent.getLsbD 19 = true ∧ k.arg 2 1 ≤ 63 ∧ k.arg 3 1 < 64 ∧
      k.arg 16 8 < 2 ^ 40 ∧ k.arg 3 1 % 2 = 1 ∧
      (⟨bits (k.arg 3 1) 3 3, k.arg 4 1, k.arg 5 3, k.arg 8 3 + 1, k.arg 16 8⟩ : Win).row (some 19)
        (s.gatewayCell? (k.arg 0 2)).isSome ((s.gw 19).regs.gwWindows (k.arg 2 1)) = 0) ∧
    (up.block (blockOf 0x81)).power = .run ∧
    (∃ row, (send up 0 0x24 0xFF ([0x50, 0x40, 0, 0, 0, 0, 0xDF, 0x2F] ++ [5]) []).accepts 0 0x24 = true ∧
      (let s := send up 0 0x24 0xFF ([0x50, 0x40, 0, 0, 0, 0, 0xDF, 0x2F] ++ [5]) []
       (s.cmdOf 0).extLen = 0 ∧ (s.cmdOf 0).arg 4 1 ≤ 8 ∧ (s.accepted 0).regSetUnits (s.cmdOf 0) = some (.cell, 0x4050, [0x2FDF]) ∧ regAt .cell 0x4050 = some (0x4050, row, false) ∧ row.rw ≠ 0 ∧
       cmdOwned .cell 0x4050 = false ∧
       (s.accepted 0).mayWriteNi 0x2FDF 0x4050 (BitVec.ofNat 64 ((s.cmdOf 0).arg 8 8)) (BitVec.ofNat 64 ((s.cmdOf 0).arg 16 8)) = none)) := by
  refine ⟨⟨accepts_send ?_, ?_⟩, ?_, _, ?_, ?_, ?_, ?_, rfl, ?_⟩ <;> decide +kernel

/-! ## Ill-formed commands, one for each check -/

/-- Each names a unit that the die does not have, the first number past the range. -/
def illFormed : List Instr :=
  [.getInfo 10, .mbxCmdWrite 0 16 0, .bcastTally 0x60, .bcastTally 0x3000, .tallyLatch 12256, .niMapCtlInvalOne 0 9216, .blkPwrCtlHoldRun 760,
    .sleepClockStop 16, .linkDetectPoll 48, .gatewayWr 20 0, .gatewayWr 0 8, .gatewayPiPoll 0 64, .sidebandResponse 1 0 false,
    .cqPop 0 32 0, .cqPop 0 0 64, .cqMetaRead 0 0 0 (.word 6) .none, .cqSyncLoad 0 0 32 0, .cqSyncLoad 0 0 0 4096, .cqDringPiWrite 0 0 68 .readCi,
    .cqMcRearm 0 0 16 .read, .cqRedRearm 0 0 8 .read, .contextTimeout 16, .switchAssign 0 .sched, .rillFlitDecode 0 6 0 .none .none false,
    .rillFlitDecode 0 5 4 .none .none false, .routerDecode 0 .request 4 [] false, .tokenStateEccError 0 256, .rangeTimeout 0 16 0, .rangeTimeout 0 0 1024,
    .schedRouterArrival 0 [[], [], []] false, .schedSlotSource 0 false 64, .linkTerminationSeen 0 2 true 0, .laneFail 0 0 17 true 0,
    .linkLockDone 0 [⟨0, 17, [], none⟩], .freezeLatch (.gateway 20) false, .blockTestEnd [(0, 4)], .prbsCheckerUnlock 0 0 0 1025, .resetEnded 0 0, .resetEnded 3 760, .resetEnded 5 16]

theorem test_ill_formed_refused : illFormed.all (fun i => !i.wf) = true := by decide +kernel

theorem test_ill_formed_exec : exec (.getInfo 10) up = .refused .noSuchUnit := rfl

/-! ## Worked values -/

/-- "123456789" in ASCII. -/
def digits : List Byte := [0x31, 0x32, 0x33, 0x34, 0x35, 0x36, 0x37, 0x38, 0x39]

/-- R46's check value of CRC-16. -/
theorem test_crc16 : crc16 digits = 0xD0DB := by decide +kernel

/-- R349's check value of CRC-32. -/
theorem test_crc32 : crc32 digits = 0xCBF43926 := by decide +kernel

/-- The CMAC of the empty message (RFC 4493, section 4, example 1). -/
theorem test_cmac : cmac (beBytes 16 0x2b7e151628aed2a6abf7158809cf4f3c) [] = beBytes 16 0xbb1d6929e95937287fa37d129b756746 := by decide +kernel

/-- The addresses of the worked example of spec/18_integration_map.md (R504, R507 to R513). -/
theorem test_places :
    (place .host 0x4DE34228 = .unit .cell 0x1BC6 0x4228 ∧ regAt .cell 0x4228 = (regRow .cell 0x4228).map (fun r => (0x4228, r, false)) ∧
      (NI_Q_CFG_q_min.at 5).off = 0x4228) ∧
    ((regAt .cell 0x422C).map (fun e => (e.1, e.2.2)) = some (0x4228, true)) ∧
    (place .host 0x031B1018 = .unit .block 0x1B1 BLK_PWR_STAT_state.off) ∧
    (place .host 0x02050010 = .unit .region 10 RGN_FLIP_STAT_step.off) ∧
    (place .host 0x0100C150 = .unit .link 12 (LNK_LANE_ERR_sync_err.at (laneIdx 1 3)).off) := by
  decide +kernel

/-- The encoded slot entries of the worked example of spec/04_clepsydra_schedules.md (R106). -/
theorem test_slot_entries :
    (let r : SchedRow := ⟨0, 1, 0x00030C000B3D0900⟩
     (r.start, r.run, r.inPort, r.mask, r.stream) = (4000000, 12, 4, 0x01, 3)) ∧
    (let r : SchedRow := ⟨0, 1, 0x000382000B3D0948⟩
     (r.start, r.run, r.inPort, r.mask, r.stream) = (4000072, 12, 2, 0x10, 3)) := by
  decide +kernel

/-- Chip 0x0025 of a 32 × 16 × 16 system with every port of +x, +y and the other bundles ACTIVE, and none of −x (spec/13_system.md, R378). -/
def lostBundle : State :=
  let s := up.modChipRegs fun r => ((((r.set CHP_CHIP_ID_chip_id 0x0025).set CHP_CHIP_ID_dim_x_m1 31).set
    CHP_CHIP_ID_dim_y_m1 15).set CHP_CHIP_ID_dim_z_m1 15)
  ([0, 2, 3, 4, 5].flatMap bundlePorts).foldl (fun s n => s.modLink n fun l => { l with regs := l.regs.set LNK_STAT_state 5 }) s

theorem test_automatic_exceptions : lostBundle.newExc = [0xC7FFFF25, 0x44000000] ∧ lostBundle.chipId = 0x0025 ∧
    lostBundle.dimOrder 0x1EE5 = 1 := by decide +kernel

end Sys2Proof.Tests
end

/-! PROOFS. The scope family: every command answers by its form alone, and a queue of commands runs in its order (R3, R20, R27, R503); what an access
over a port does to the register it names (R8 to R11, R404, R466, R505, R511). -/

/-! ## Commands and queues (log 9) -/

namespace Sys2Proof.Laws.CommandForm

open Sys2Proof

/-- The family holds of every command: one law for each constructor, in their order. -/
theorem statement (i : Instr) : Statement i :=
  Instr.casesOn (motive := Statement) i
    getInfo setIdentity setTime cisternOpen defectLoad mapInstall blockTest routeInit parterreSetCreate parterreSetDestroy classSet
    windowSet queueSet regSet regSetCrit treeSetup treeRetire mcLandSet redLandSet redHoldRelease redHoldDiscard fileOpen fileData
    fileCommit schedSwitch schedStop routeExcept sluiceReopen fenceCell unfenceCell fenceBlock unfenceBlock remap resetNi resetCell
    resetBlock resetSoftRegion resetHardRegion hardResetIsolate resetChip balanceCheck powerRegionSleep sleepClockStop powerRegionWake
    regionWakeDone powerBlockOff offPowerRemove powerBlockOn blockPowerOnDone linkSet linkSetRetrain linkSetDeepReq linkSetDeepRelease
    linkQuiesce quiesceStart quiesceDrained snapshot snapshotCollect mbxCmdWrite mbxDbRing mbxDbAck mbxEvtCiWrite mbxMevtCiWrite
    bootWindowWrite keyPortResponse registerWrite rcFieldRead lowWordRead lowWordWrite upperWordWrite niMapCtlInvalOne niMapCtlInvalAll
    mapCacheFill niLatCtlModeWrite latencySampleTick blkPwrCtlHoldRun cqMetaRead cqMetaWaitLimit cqPop cqRingRel cqSendGo cqSendGoResume
    cqSyncLoad cqSyncClose cqSyncFlush cqSyncBadOp cqSyncResRead channelCloseComplete channelFetchDone channelCacheEccError cqDringPiWrite
    cqMcRearm cqRedRearm cqRillGo cqRillResRead cqRillPop cqBarArrive cqBarWaitRead vc3Grant routerDecode switchAssign niHeadInject
    patienceExpire answerQueueInject heldPacketAnswer injectionSelect fountainDelivery fountainInject fountainPatienceExpire msgEject
    msgHeadEject msgBodyEject gapTimeout staleTailTimeout dispatchFifoIssue ackEject nackEject retransmitTimeout abandonTimeout
    tokenStateEccError descriptorStart wrEject trancheFlush trancheComplSend rdReqEject rdDataEject complEject trackerTimeout
    quarantineExpire gatewayWr gatewayRdReq stackReadResponse stackWriteResponse gatewayPiPoll sidebandResponse clusterMemoryResponse
    mcastEject redEject rangeTimeout holdTimeout shutTimeout redResultEject combTestTick combTestDigest combDupDigest combDupTimeout
    telEject mntEject rinseOffer rinseTimeout schedRouterArrival schedSlotSource periodWake periodArmReport schedIngressDeliver
    rillFlitDecode gather release releaseFlip releaseArm contextTimeout bcastTally bcastFreeze bcastFree tallyLatch freezeLatch wakeDoze
    wakeSleep dozeExitDone dozeIdleReached dozeGate fault resetFlit sluiceFlit cmsg cnack rillSequenceIngress timeSync timeResp timeRespU
    timeFollow timeStep timeSlew faultWindowRoll watchdogPoll pcSampleTick pcSampleAnswer pcSampleTimeout linkDetectPoll linkTerminationSeen
    trainingMessage linkTrainDone linkTrainTimeout linkLockDone linkLockTimeout capSend capFrame lnkCtlAdmit frameReq frameRep frameSched
    frameRill frameIdle frameNak frameCrcFail frameQuiesceRequest frameQuiesceDone frameDeepRequest frameDeepAccept frameDeepRefuse
    deepDrained deepRetry wakeTone deepExitTimeout ackTimeout rillCreditFrame laneFail clockLoss downDetectReturn frameBoundary
    prbsCheckerLock prbsCheckerUnlock peerEntersTrain clockLaneFail timeFollowTimeout recordSendingNcyc resetEnded blockTestEnd
    treeRetireClear bankSwitch sequenceStop mbxBootCtlStart keyVerdictTimeout fountaineerWatchdogExpire porAssert porRelease hostPortReset
    mgmtPortReset tallyTick tallyResult epochFlipStart installDone timeExchangeTick holdoverExpire cisternDayTick chipResetAfterResponse
    fountaineerMemoryUncorrectable

end Sys2Proof.Laws.CommandForm

namespace Sys2Proof.Machine

open Sys2Proof

theorem exec_of_wf {i : Instr} (h : i.wf = true) (s : State) :
    ∃ t, exec i s = .next t ∧ t.pending = s.pending ∧ t.chip.integ = s.chip.integ := by
  obtain ⟨t, ht⟩ := Laws.CommandForm.statement i s
  exact ⟨t.keeping s, ht.trans (onUnit_of h s t), rfl, rfl⟩

theorem exec_of_not_wf {i : Instr} (h : i.wf = false) (s : State) : exec i s = .refused .noSuchUnit := by
  obtain ⟨t, ht⟩ := Laws.CommandForm.statement i s
  exact ht.trans (onUnit_not h s t)

theorem step_of_wf {s : State} {c : Instr} {rest : List Instr} (hp : s.pending = c :: rest) (h : c.wf = true) :
    ∃ t, step s = .next t ∧ t.pending = rest ∧ t.chip.integ = s.chip.integ := by
  rw [step_cons s c rest hp]
  exact exec_of_wf h { s with pending := rest }

/-- The commands in front of a queue, all well formed, run in their order, one a step, up to the queue's rest. -/
theorem runsTo_of_wf (l r : List Instr) (s : State) (hp : s.pending = l ++ r) (hl : ∀ j ∈ l, j.wf = true) :
    ∃ t, runsTo l.length s t ∧ t.pending = r ∧ t.chip.integ = s.chip.integ := by
  induction l generalizing s with
  | nil => exact ⟨s, rfl, hp, rfl⟩
  | cons c l ih =>
    obtain ⟨hc, hl⟩ := List.forall_mem_cons.1 hl
    obtain ⟨m, hm, hmp, hmi⟩ := step_of_wf hp hc
    obtain ⟨t, ht, htp, hti⟩ := ih m hmp hl
    exact ⟨t, ⟨m, hm, ht⟩, htp, hti.trans hmi⟩

/-- Settles O3: the form of a command decides its answer. -/
theorem everyNamedUnitCommandAnswers : Obligations.EveryNamedUnitCommandAnswers :=
  fun _ s => ⟨fun h => exec_of_wf h s, fun h => exec_of_not_wf h s⟩

/-- Settles O59, by induction on the commands in front of the one that stops the run, or on all of them. -/
theorem queueRunsInOrder : Obligations.QueueRunsInOrder := by
  refine ⟨fun s h => runsTo_of_wf s.pending [] s (List.append_nil _).symm h, fun s l r i hp hl hi => ?_⟩
  obtain ⟨t, ht, htp, -⟩ := runsTo_of_wf l (i :: r) s hp hl
  exact ⟨t, ht, htp, (step_cons t i r htp).trans (exec_of_not_wf hi _)⟩

end Sys2Proof.Machine

/-! ## Registers after a store and after a read that takes RC bits (R9 to R11) -/

namespace Sys2Proof.Machine

theorem Regs.read_store_ne (r : Regs) {o p : Nat} (row : RegRow) (v mask : W64) (he : enumsAt r.scope o = []) (hp : p ≠ o) :
    (r.store o row v mask).read p = r.read p := by
  simp [Regs.store, he, Regs.read_write, Ne.symm hp]

/-- Each bit of a stored register by its access code (R10): RW before W1C, W1C before W1S. -/
theorem Regs.getLsbD_store (r : Regs) (o : Nat) (row : RegRow) (v mask : W64) (he : enumsAt r.scope o = [])
    (hd : row.rw &&& row.w1c = 0) {i : Nat} (hi : i < 64) :
    ((r.store o row v mask).read o).getLsbD i =
      if row.rw.testBit i && mask.getLsbD i then v.getLsbD i
      else if row.w1c.testBit i && mask.getLsbD i && v.getLsbD i && (r.before o).getLsbD i then false
      else if row.w1s.testBit i && mask.getLsbD i && v.getLsbD i then true else (r.read o).getLsbD i := by
  have hdis : (row.rw.testBit i && row.w1c.testBit i) = false := by rw [← Nat.testBit_and, hd, Nat.zero_testBit]
  simp only [Regs.store, he, List.foldl_nil, Regs.read_write, if_true, BitVec.getLsbD_and, BitVec.getLsbD_or, BitVec.getLsbD_not,
    BitVec.getLsbD_ofNat, hi, decide_true, Bool.true_and]
  cases hm : mask.getLsbD i
  case false => simp
  case true =>
    by_cases hrw : row.rw.testBit i = true
    · have hc : row.w1c.testBit i = false := by simpa [hrw] using hdis
      cases v.getLsbD i <;> simp [hrw, hc]
    · cases v.getLsbD i
      case false => simp [hrw]
      case true => simp [hrw, Bool.or_comm, Bool.and_comm]

/-- Settles O12: the bits of the register written, and the other registers. -/
theorem writeByAccessCode : Obligations.WriteByAccessCode :=
  fun r o row v mask he hd => ⟨fun _ hi => r.getLsbD_store o row v mask he hd hi, fun _ hp => r.read_store_ne row v mask he hp⟩

/-- What a read that takes the masked RC bits of a count leaves: what this ncyc has added, and every other register as it was. -/
theorem Regs.read_take (r : Regs) (o mask p : Nat) (hh : highsAt r.scope o = []) :
    (r.take o mask).read p =
      if o = p then
        (r.read o &&& ~~~(BitVec.ofNat 64 mask)) |||
          (((r.read o &&& BitVec.ofNat 64 mask) - (r.before o &&& BitVec.ofNat 64 mask)) &&& BitVec.ofNat 64 mask)
      else r.read p := by
  simp only [Regs.take, hh, List.foldl_nil, Regs.read, aget_aput]
  split <;> rfl

/-! ## The registers of a unit and the halves a port holds (R9) -/

section units

variable (s : State)

@[simp] theorem State.modRegs_out (sc : Scope) (u : Nat) (f : Regs → Regs) : (s.modRegs sc u f).out = s.out := by cases sc <;> rfl
@[simp] theorem State.port_modRegs (a : Agent) (sc : Scope) (u : Nat) (f : Regs → Regs) : (s.modRegs sc u f).port a = s.port a := by
  cases sc <;> cases a <;> rfl

@[simp] theorem State.regsOf_modRegs (sc : Scope) (u : Nat) (f : Regs → Regs) : (s.modRegs sc u f).regsOf sc u = f (s.regsOf sc u) := by
  cases sc <;>
    simp [State.modRegs, State.regsOf, State.modCellRegs, State.modBlockRegs, State.modRegionRegs, State.modLinkRegs, State.modGwRegs,
      State.modChipRegs]

@[simp] theorem State.modPort_out (a : Agent) (f : PortLatch → PortLatch) : (s.modPort a f).out = s.out := by cases a <;> rfl
@[simp] theorem State.modPort_ftn (a : Agent) (f : PortLatch → PortLatch) : (s.modPort a f).ftn = s.ftn := by cases a <;> rfl
@[simp] theorem State.modPort_chip (a : Agent) (f : PortLatch → PortLatch) : (s.modPort a f).chip = s.chip := by cases a <;> rfl
@[simp] theorem State.modPort_block (a : Agent) (f : PortLatch → PortLatch) (b : Nat) : (s.modPort a f).block b = s.block b := by
  cases a <;> rfl
@[simp] theorem State.regsOf_modPort (a : Agent) (f : PortLatch → PortLatch) (sc : Scope) (u : Nat) :
    (s.modPort a f).regsOf sc u = s.regsOf sc u := by
  cases a <;> rfl
@[simp] theorem State.port_modPort (a : Agent) (f : PortLatch → PortLatch) : (s.modPort a f).port a = f (s.port a) := by cases a <;> rfl

@[simp] theorem State.regsOf_emit (o : Out) (sc : Scope) (u : Nat) : (s.emit o).regsOf sc u = s.regsOf sc u := rfl
@[simp] theorem State.port_emit (o : Out) (a : Agent) : (s.emit o).port a = s.port a := by cases a <;> rfl
@[simp] theorem State.regsOf_keeping (old : State) (sc : Scope) (u : Nat) : (s.keeping old).regsOf sc u = s.regsOf sc u := by
  cases sc <;> rfl
@[simp] theorem State.port_keeping (old : State) (a : Agent) : (s.keeping old).port a = s.port a := by cases a <;> rfl

theorem State.sameUnits_modPort (a : Agent) (f : PortLatch → PortLatch) : s.sameUnits (s.modPort a f) := by
  cases a <;> exact ⟨rfl, rfl, rfl, rfl, rfl⟩

@[simp] theorem State.clearRc_out (a : Agent) (sc : Scope) (u o mask : Nat) : (s.clearRc a sc u o mask).out = s.out := by
  unfold State.clearRc
  split <;> simp
@[simp] theorem State.port_clearRc (a b : Agent) (sc : Scope) (u o mask : Nat) : (s.clearRc b sc u o mask).port a = s.port a := by
  unfold State.clearRc
  split <;> simp

theorem State.regsOf_clearRc (a : Agent) (sc : Scope) (u o mask : Nat) :
    (s.clearRc a sc u o mask).regsOf sc u = if a = .zhevber ∨ mask = 0 then s.regsOf sc u else (s.regsOf sc u).take o mask := by
  by_cases ha : a = .zhevber <;> by_cases hm : mask = 0 <;> simp [State.clearRc, ha, hm]

end units

/-! ## The register behind a word (R9, R508) -/

/-- A word lies in the register at its offset, or is the upper word of the 64-bit register before it. -/
theorem regAt_cases {sc : Scope} {off o : Nat} {row : RegRow} {upper : Bool} (h : regAt sc off = some (o, row, upper)) :
    (upper = false ∧ off = o ∧ regRow sc o = some row) ∨ (upper = true ∧ off = o + 4 ∧ regRow sc o = some row ∧ row.width = 64) := by
  unfold regAt at h
  split at h
  · cases h
  · split at h
    next hr =>
      cases h
      exact .inl ⟨rfl, rfl, hr⟩
    next =>
      split at h
      · cases h
      · split at h
        next hr =>
          split at h
          next hw =>
            cases h
            exact .inr ⟨rfl, by omega, hr, hw⟩
          next => cases h
        next => cases h

theorem regAt_lower {sc : Scope} {off o : Nat} {row : RegRow} (h : regAt sc off = some (o, row, false)) : off = o := by
  obtain ⟨-, ho, -⟩ | ⟨h, -⟩ := regAt_cases h
  · exact ho
  · cases h

theorem regAt_upper {sc : Scope} {off o : Nat} {row : RegRow} (h : regAt sc off = some (o, row, true)) : off = o + 4 := by
  obtain ⟨h, -⟩ | ⟨-, ho, -⟩ := regAt_cases h
  · cases h
  · exact ho

/-! ## Accesses to units that are powered (R404) -/

section accesses

variable {s : State} {a : Agent} {addr : Nat} {sc : Scope} {u off o : Nat} {row : RegRow} {upper : Bool}

theorem State.onPower_of_powered (h : s.powered sc u) (x : Crossing) (f g : State → State) : s.onPower sc u off x f g = f s := by
  unfold State.onPower
  split
  next => rfl
  next b hb => simp [State.powerGate, h b hb]

theorem State.setReg_of_powered (h : s.powered sc u) (v mask : W64) : s.setReg sc u o row v mask = s.store sc u o row v mask :=
  State.onPower_of_powered h ..

theorem State.powered_modPort (h : s.powered sc u) (b : Agent) (f : PortLatch → PortLatch) : (s.modPort b f).powered sc u := by
  simpa [State.powered] using h

section reads

variable (hpl : place a (wordAddr addr) = .unit sc u off) (hpw : s.powered sc u) (hw : s.window sc u off = none)
include hpl hpw hw

theorem exec_rcFieldRead_of_reg (hr : regAt sc off = some (o, row, upper)) :
    exec (.rcFieldRead a addr) s = .next ((s.readReg a sc u o row upper (wordAddr addr)).keeping s) := by
  have h : s.readAccess a addr = s.readReg a sc u o row upper (wordAddr addr) := by
    simp [State.readAccess, hpl, State.onPower_of_powered hpw, hw, hr]
  exact congrArg (fun t => Host.Outcome.next (t.keeping s)) h

/-- LOW_WORD_READ and RC_FIELD_READ are one access over a port (R8, R9). -/
theorem exec_lowWordRead_of_reg (hr : regAt sc off = some (o, row, upper)) :
    exec (.lowWordRead a addr) s = .next ((s.readReg a sc u o row upper (wordAddr addr)).keeping s) :=
  exec_rcFieldRead_of_reg hpl hpw hw hr

end reads

theorem halfOf_false (v : W64) : halfOf v false = v.extractLsb' 0 32 := rfl
theorem halfOf_true (v : W64) : halfOf v true = v.extractLsb' 32 32 := rfl

theorem State.readReg_lower_out (x : Nat) :
    (s.readReg a sc u o row false x).out = s.out ++ [.read a x (halfOf (s.readShown a sc u o row) false)] := by
  by_cases h : row.width = 64 <;> simp [State.readReg, h]

theorem State.readReg_lower_latch (h : row.width = 64) (x : Nat) :
    ((s.readReg a sc u o row false x).port a).latch = some (x, halfOf (s.readShown a sc u o row) true) := by
  simp [State.readReg, h]

theorem State.readReg_lower_regsOf (h : row.width = 32) (x : Nat) :
    (s.readReg a sc u o row false x).regsOf sc u =
      if a = .zhevber ∨ row.rc = 0 then s.regsOf sc u else (s.regsOf sc u).take o row.rc := by
  simp [State.readReg, h, State.regsOf_clearRc]

theorem State.readReg_upper_latched {k x : Nat} {hi : W32} (hl : (s.port a).latch = some (k, hi)) (hk : k + 4 = x) :
    s.readReg a sc u o row true x = (s.modPort a fun p => { p with latch := none }).emit (.read a x hi) := by
  simp [State.readReg, hl, hk]

theorem State.readReg_upper_live {x : Nat} (hl : ∀ k hi, (s.port a).latch = some (k, hi) → k + 4 ≠ x) :
    s.readReg a sc u o row true x =
      (s.clearRc a sc u o (row.rc / 2 ^ 32 * 2 ^ 32)).emit (.read a x (halfOf (s.readShown a sc u o row) true)) := by
  cases h : (s.port a).latch with
  | none => simp [State.readReg, h]
  | some e => simp [State.readReg, h, hl e.1 e.2 h]

/-! ## Writes over a port (R8, R9, R505, R511) -/

/-- REGISTER_WRITE, LOW_WORD_WRITE and UPPER_WORD_WRITE are one access over a port (R8, R9). -/
theorem exec_registerWrite (s : State) (a : Agent) (addr : Nat) (v : W32) :
    exec (.registerWrite a addr v) s = .next ((s.writeWord a addr v).keeping s) := rfl

theorem exec_lowWordWrite (s : State) (a : Agent) (addr : Nat) (v : W32) :
    exec (.lowWordWrite a addr v) s = .next ((s.writeWord a addr v).keeping s) := rfl

theorem exec_upperWordWrite (s : State) (a : Agent) (addr : Nat) (v : W32) :
    exec (.upperWordWrite a addr v) s = .next ((s.writeWord a addr v).keeping s) := rfl

theorem wordAddr_lt (addr : Nat) : wordAddr addr < 2 ^ 32 := by
  unfold wordAddr
  omega

section zhevberWrites

variable (hpl : place .zhevber (wordAddr addr) = .unit sc u off)
include hpl

theorem State.writeWord_zhevber_word (hpw : s.powered sc u) (hr : regAt sc off = some (o, row, upper)) (hwd : row.width = 32) (v : W32) :
    s.writeWord .zhevber addr v = s.store sc u o row (v.setWidth 64) (BitVec.allOnes 64) := by
  simp [State.writeWord, State.zWrite, hpl, hr, hwd, State.setReg_of_powered hpw]

theorem State.writeWord_zhevber_lower (hr : regAt sc off = some (o, row, false)) (hwd : row.width = 64) (v : W32) :
    s.writeWord .zhevber addr v = s.modPort .zhevber fun p => { p with held := some (wordAddr addr, v) } := by
  simp [State.writeWord, State.zWrite, hpl, hr, hwd]

theorem State.writeWord_zhevber_upper (hpw : s.powered sc u) (hr : regAt sc off = some (o, row, true)) (hwd : row.width = 64) {k : Nat}
    {lo : W32} (hh : s.portZhev.held = some (k, lo)) (hk : k + 4 = wordAddr addr) (v : W32) :
    s.writeWord .zhevber addr v =
      (s.modPort .zhevber fun p => { p with held := none }).store sc u o row (v ++ lo) (BitVec.allOnes 64) := by
  have hh' : (s.port .zhevber).held = some (k, lo) := hh
  simp [State.writeWord, State.zWrite, hpl, hr, hwd, hh', hk, State.setReg_of_powered (State.powered_modPort hpw _ _)]

end zhevberWrites

/-- A write of the host or the management agent to a register of a unit other than the chip: refused, the lower word of a 64-bit register held. -/
theorem State.writeWord_refused (hpl : place a (wordAddr addr) = .unit sc u off) (ha : a ≠ .zhevber) (hsc : sc ≠ .chip)
    (hr : (regAt sc off).isSome = true) (v : W32) :
    ∃ held, s.writeWord a addr v = (s.modPort a fun p => { p with held := held }).refuseWrite a (wordAddr addr) :=
  ⟨_, by simp [State.writeWord, State.portWrite, ha, hpl, hsc, Place.mapped, hr]; rfl⟩

theorem State.sameUnits_refuseWrite {t : State} (h : s.sameUnits t) (x : Nat) : s.sameUnits (t.refuseWrite a x) := h

theorem State.sameUnits_keeping {t : State} (h : s.sameUnits t) (old : State) : s.sameUnits (t.keeping old) := h

theorem State.chget_refuseWrite_last_addr {x : Nat} (hx : x < 2 ^ 32) : (s.refuseWrite a x).chget CHP_HOST_STAT_last_addr = x :=
  (Regs.get_set_same _ _ _ (by decide)).trans (Nat.mod_eq_of_lt hx)

theorem State.chget_refuseWrite_host (x : Nat) :
    (s.refuseWrite .host x).chget CHP_HOST_STAT_host_refused = min (s.chget CHP_HOST_STAT_host_refused + 1) 65535 :=
  (Regs.get_set_ne _ _ _ _ (by decide) (by decide)).trans (Regs.get_bump_same _ CHP_HOST_STAT_host_refused (by decide))

theorem State.chget_refuseWrite_mgmt (x : Nat) :
    (s.refuseWrite .mgmt x).chget CHP_HOST_STAT_mgmt_refused = min (s.chget CHP_HOST_STAT_mgmt_refused + 1) 65535 :=
  (Regs.get_set_ne _ _ _ _ (by decide) (by decide)).trans (Regs.get_bump_same _ CHP_HOST_STAT_mgmt_refused (by decide))

end accesses

/-- Settles O13, clause by clause: the two words, the reads of the lower and of the upper word, Zhevber's writes of them. -/
theorem sixtyFourBitRegisters : Obligations.SixtyFourBitRegisters := by
  intro s a addr sc u off o row hpl hpw hwd
  refine ⟨regAt_lower, regAt_upper, fun hw hr => ?_, fun hw hr => ⟨fun k hi hl hk => ?_, fun hl => ?_⟩, ?_, ?_⟩
  · exact ⟨_, exec_lowWordRead_of_reg hpl hpw hw hr, State.readReg_lower_out _,
      (congrArg PortLatch.latch (State.port_keeping _ s a)).trans (State.readReg_lower_latch hwd _)⟩
  · refine ⟨_, exec_rcFieldRead_of_reg hpl hpw hw hr, ?_⟩
    rw [State.readReg_upper_latched hl hk]
    exact ⟨by simp, by simp, State.sameUnits_modPort s a _⟩
  · refine ⟨_, exec_rcFieldRead_of_reg hpl hpw hw hr, ?_⟩
    rw [State.readReg_upper_live hl]
    simp [halfOf_true]
  · rintro rfl hr v
    refine ⟨_, exec_lowWordWrite s _ addr v, ?_⟩
    rw [State.writeWord_zhevber_lower hpl hr hwd v]
    exact ⟨rfl, rfl, rfl, State.sameUnits_modPort s _ _⟩
  · rintro rfl hr lo v hh h4
    rw [exec_upperWordWrite, State.writeWord_zhevber_upper hpl hpw hr hwd hh (Nat.sub_add_cancel h4)]
    rfl

/-- Settles O14, clause by clause: reads, Zhevber's write, and a write that is refused. -/
theorem registerReadsAndWrites : Obligations.RegisterReadsAndWrites := by
  intro s a addr sc u off hpl
  refine ⟨fun o row hr hwd hpw => ⟨fun hw hh => ?_, ?_⟩, fun v ha hsc hr => ?_⟩
  · refine ⟨_, exec_rcFieldRead_of_reg hpl hpw hw hr, State.readReg_lower_out _, ?_⟩
    rw [State.regsOf_keeping, State.readReg_lower_regsOf hwd]
    constructor
    · split
      · rfl
      · simp [Regs.read_take _ _ _ _ hh]
    · intro p hp
      split
      · rfl
      · simp [Regs.read_take _ _ _ _ hh, Ne.symm hp]
  · rintro rfl v
    rw [exec_registerWrite, State.writeWord_zhevber_word hpl hpw hr hwd]
  · obtain ⟨held, hwr⟩ := State.writeWord_refused (s := s) hpl ha hsc hr v
    refine ⟨_, exec_registerWrite s a addr v, ?_⟩
    rw [hwr]
    refine ⟨State.sameUnits_keeping (State.sameUnits_refuseWrite (State.sameUnits_modPort s a _) _) s, ?_,
      State.chget_refuseWrite_last_addr (wordAddr_lt addr), ?_, ?_⟩
    · simp [State.refuseWrite]
    · rintro rfl
      exact State.chget_refuseWrite_host _
    · rintro rfl
      exact State.chget_refuseWrite_mgmt _

end Sys2Proof.Machine

/-! PROOFS. The packets family: the forms a packet header, a fault record and a channel entry take read back as they were written (R36, R132, R200,
R298); what the stages of a router do to the packets of a dynamic plane (R34, R65, R68 to R70, R72, R78 to R80, R89). -/

namespace Sys2Proof

open Sys2Proof.Machine

/-! ## Headers and fault records (R36, R298) -/

theorem Packet.ofHeader_header (p : Packet) : Packet.ofHeader p.header p.payload p.check = p := by
  simp (disch := decide) only [Packet.ofHeader, Packet.header, BitVec.extractLsb'_append_eq_of_add_le,
    BitVec.extractLsb'_append_eq_of_le, BitVec.extractLsb'_eq_self, Nat.reduceSub]

/-- The fields of the header lie end to end, so that they spell all of its 128 bits. -/
theorem Packet.header_ofHeader (h : BitVec 128) (pl : BitVec 384) (ck : BitVec 64) : (Packet.ofHeader h pl ck).header = h := by
  simp only [Packet.ofHeader, Packet.header]
  iterate 17 rw [BitVec.extractLsb'_append_extractLsb'_eq_extractLsb' (by rfl)]
  exact BitVec.extractLsb'_eq_self

end Sys2Proof

namespace Sys2Proof.Machine

theorem FaultRec.ofWord_word (r : FaultRec) : FaultRec.ofWord r.word = r := by
  simp (disch := decide) only [FaultRec.ofWord, FaultRec.word, BitVec.extractLsb'_append_eq_of_add_le,
    BitVec.extractLsb'_append_eq_of_le, BitVec.extractLsb'_eq_self, Nat.reduceSub]

/-! ## Words of memory (R7) -/

theorem bits_mod_two_pow (x lo len n : Nat) (h : lo + len ≤ n) : bits (x % 2 ^ n) lo len = bits x lo len := by
  refine Nat.eq_of_testBit_eq fun i => ?_
  simp only [testBit_bits, Nat.testBit_mod_two_pow]
  by_cases hi : i < len
  · simp [hi, show lo + i < n by omega]
  · simp [hi]

theorem ofNat_bits_toNat {n : Nat} (v : BitVec n) (lo len : Nat) : BitVec.ofNat len (bits v.toNat lo len) = v.extractLsb' lo len :=
  BitVec.eq_of_toNat_eq (by simp [bits, Nat.shiftRight_eq_div_pow])

/-- A 64-bit word written reads back as its number. -/
theorem mreadLE_mwriteWord {m : Mem} (a : Nat) (v : W64) (h : Memory.wf m = true) : mreadLE (mwriteWord m a v) a 8 = v.toNat := by
  have hr := mreadLE_mwriteList m a (leBytes 8 v.toNat) h
  rw [leBytes_length, leNat_leBytes] at hr
  exact hr.trans (Nat.mod_eq_of_lt v.isLt)

/-- A word that lies beside the one written reads as it did. -/
theorem mreadLE_mwriteWord_ne {m : Mem} {a b : Nat} (v : W64) (h : Memory.wf m = true) (hb : b + 8 ≤ a ∨ a + 8 ≤ b) :
    mreadLE (mwriteWord m a v) b 8 = mreadLE m b 8 := by
  have hr : mreadList (mwriteWord m a v) b 8 = mreadList m b 8 :=
    List.map_congr_left fun i hi => mread_mwriteList_ne m a (b + i) _ h (by rw [leBytes_length]; have := List.mem_range.1 hi; omega)
  rw [mreadLE, hr, mreadLE]

/-! ## A channel entry after its NI-owned fields have been written back (R132, R200) -/

/-- Word 1 of an entry with the NI-owned fields of it replaced. -/
def ChanEntry.word1 (e : ChanEntry) (w : Nat) : Nat :=
  setBits (setBits (setBits (setBits (setBits w 0 8 e.txSeq.toNat) 8 8 e.rxExpect.toNat) 16 8 e.nackRun.toNat) 48 14 e.peerPhys.toNat) 62 1
    e.resolved.toNat

/-- Word 4 of an entry with the NI-owned fields of it replaced. -/
def ChanEntry.word4 (e : ChanEntry) (w : Nat) : Nat :=
  setBits (setBits (setBits w 0 32 e.upd.toNat) 32 16 e.mult.toNat) 48 8 e.cutSkip.toNat

section writeBack

variable (e : ChanEntry) {m : Mem} (a : Nat) (h : Memory.wf m = true)
include h

/-- Words 1, 3 and 4 are written, each from what stood in it before. -/
theorem ChanEntry.writeBack_eq :
    e.writeBack m a =
      mwriteWord (mwriteWord (mwriteWord m (a + 8) (BitVec.ofNat 64 (e.word1 (mreadLE m (a + 8) 8)))) (a + 24) (e.finish ++ e.credit)) (a + 32)
        (BitVec.ofNat 64 (e.word4 (mreadLE m (a + 32) 8))) := by
  have h1 := mwriteWord_wf m (a + 8) (BitVec.ofNat 64 (e.word1 (mreadLE m (a + 8) 8))) h
  rw [← mreadLE_mwriteWord_ne (a := a + 8) (b := a + 32) _ h (by omega), ← mreadLE_mwriteWord_ne (a := a + 24) (b := a + 32) _ h1 (by omega)]
  rfl

/-- What each word of the entry reads after the write-back. -/
theorem ChanEntry.words_writeBack :
    mreadLE (e.writeBack m a) a 8 = mreadLE m a 8 ∧
    mreadLE (e.writeBack m a) (a + 8) 8 = e.word1 (mreadLE m (a + 8) 8) % 2 ^ 64 ∧
    mreadLE (e.writeBack m a) (a + 16) 8 = mreadLE m (a + 16) 8 ∧
    mreadLE (e.writeBack m a) (a + 24) 8 = (e.finish ++ e.credit).toNat ∧
    mreadLE (e.writeBack m a) (a + 32) 8 = e.word4 (mreadLE m (a + 32) 8) % 2 ^ 64 := by
  rw [e.writeBack_eq a h]
  have h1 := mwriteWord_wf m (a + 8) (BitVec.ofNat 64 (e.word1 (mreadLE m (a + 8) 8))) h
  have h2 := mwriteWord_wf _ (a + 24) (e.finish ++ e.credit) h1
  simp (disch := omega) only [mreadLE_mwriteWord _ _ h, mreadLE_mwriteWord _ _ h1, mreadLE_mwriteWord _ _ h2, mreadLE_mwriteWord_ne _ h,
    mreadLE_mwriteWord_ne _ h1, mreadLE_mwriteWord_ne _ h2, BitVec.toNat_ofNat, and_self]

/-- The NI-owned fields of an entry read back as they were written, the others as they stood. -/
theorem ChanEntry.load_writeBack :
    ChanEntry.load (e.writeBack m a) a =
      { ChanEntry.load m a with
        txSeq := e.txSeq, rxExpect := e.rxExpect, nackRun := e.nackRun, peerPhys := e.peerPhys, resolved := e.resolved, credit := e.credit,
        finish := e.finish, upd := e.upd, mult := e.mult, cutSkip := e.cutSkip } := by
  obtain ⟨w0, w1, w2, w3, w4⟩ := e.words_writeBack a h
  have hr : (e.resolved.toNat % 2 ^ 1 != 0) = e.resolved := by cases e.resolved <;> rfl
  simp (disch := decide) only [ChanEntry.load, entryBits, Nat.mul_zero, Nat.add_zero, Nat.mul_one, Nat.reduceMul, w0, w1, w2, w3, w4,
    bits_mod_two_pow, ChanEntry.word1, ChanEntry.word4, bits_setBits, bits_setBits_ne, ofNat_bits_toNat,
    BitVec.extractLsb'_append_eq_of_add_le, BitVec.extractLsb'_append_eq_of_le, BitVec.extractLsb'_eq_self, Nat.reduceSub, hr,
    BitVec.toNat_mod_cancel, BitVec.ofNat_toNat, BitVec.setWidth_eq]

end writeBack

/-- Settles O58: the header both ways, the fault record, the channel entry. -/
theorem wireFormsReadBack : Obligations.WireFormsReadBack :=
  ⟨Packet.ofHeader_header, Packet.header_ofHeader, FaultRec.ofWord_word, fun e _ a h => e.load_writeBack a h⟩

end Sys2Proof.Machine

namespace Sys2Proof.Machine

/-- A command that names units of the die completes in its own new state. -/
theorem completes_onUnit {i : Instr} {s t : State} {P : State → Prop} (he : exec i s = onUnit i.wf s t) (hw : i.wf = true)
    (hP : P (t.keeping s)) : completes i s P :=
  ⟨_, he.trans (onUnit_of hw s t), hP⟩

/-! ## The planes of a router -/

@[simp] theorem Router.plane_setPlane (r : Router) (pl : Plane) (x : RtPlane) : (r.setPlane pl x).plane pl = x := by cases pl <;> rfl

@[simp] theorem Router.setPlane_sluices (r : Router) (pl : Plane) (x : RtPlane) : (r.setPlane pl x).sluices = r.sluices := by cases pl <;> rfl

@[simp] theorem Router.setPlane_rotBase (r : Router) (pl : Plane) (x : RtPlane) : (r.setPlane pl x).rotBase = r.rotBase := by cases pl <;> rfl

@[simp] theorem Router.setPlane_defl (r : Router) (pl : Plane) (x : RtPlane) : (r.setPlane pl x).defl = r.defl := by cases pl <;> rfl

@[simp] theorem Router.setPlane_rows0 (r : Router) (pl : Plane) (x : RtPlane) : (r.setPlane pl x).rows0 = r.rows0 := by cases pl <;> rfl

@[simp] theorem Router.setPlane_rows1 (r : Router) (pl : Plane) (x : RtPlane) : (r.setPlane pl x).rows1 = r.rows1 := by cases pl <;> rfl

@[simp] theorem Router.setPlane_answers (r : Router) (pl : Plane) (x : RtPlane) : (r.setPlane pl x).answers = r.answers := by cases pl <;> rfl

@[simp] theorem Router.setPlane_lostW0 (r : Router) (pl : Plane) (x : RtPlane) : (r.setPlane pl x).lostW0 = r.lostW0 := by cases pl <;> rfl

@[simp] theorem Router.verState_setPlane (r : Router) (pl : Plane) (x : RtPlane) (v : Nat) : (r.setPlane pl x).verState v = r.verState v := by
  cases pl <;> rfl

@[simp] theorem Router.plane_leave (r : Router) (v : Nat) (pl : Plane) : (r.leave v).plane pl = r.plane pl := by
  unfold Router.leave
  split <;> rfl

theorem Router.plane_lostW0 (r : Router) (n : Nat) (pl : Plane) : ({ r with lostW0 := n } : Router).plane pl = r.plane pl := rfl

@[simp] theorem Router.answers_enter (r : Router) (v : Nat) : (r.enter v).answers = r.answers := by
  unfold Router.enter
  split <;> rfl

theorem Router.arrive_arr (r : Router) {pl : Plane} (hpl : dynPlane pl = true) (x : InFlight) :
    ((r.arrive pl x).plane pl).arr = (r.plane pl).arr ++ [x] := by
  cases pl
  · cases hpl
  all_goals simp [Router.arrive]

/-! ## Changes inside one cell -/

/-- t is s but for what cell c holds; the ncyc and the chip's own state are s's too. -/
structure State.Within (s t : State) (c : Nat) : Prop where
  ncyc : t.ncyc = s.ncyc
  chip : t.chip = s.chip
  only : s.onlyCell t c

theorem State.within_modCell (s : State) (c : Nat) (f : Cell → Cell) : s.Within (s.modCell c f) c :=
  ⟨rfl, rfl, fun _ hd => by simp [State.cell_modCell, Ne.symm hd], rfl, rfl, rfl, rfl⟩

namespace State.Within

variable {s t u : State} {c : Nat}

theorem refl (s : State) (c : Nat) : s.Within s c := ⟨rfl, rfl, fun _ _ => rfl, rfl, rfl, rfl, rfl⟩

theorem trans (h : s.Within t c) (k : t.Within u c) : s.Within u c := by
  obtain ⟨hn, hc, ho, hb, hr, hl, hg⟩ := h
  obtain ⟨kn, kc, ko, kb, kr, kl, kg⟩ := k
  exact ⟨kn.trans hn, kc.trans hc, fun d hd => (ko d hd).trans (ho d hd), kb.trans hb, kr.trans hr, kl.trans hl, kg.trans hg⟩

theorem block (h : s.Within t c) (b : Nat) : t.block b = s.block b := by
  obtain ⟨-, hb, -⟩ := h.only
  exact State.block_congr hb b

theorem link (h : s.Within t c) (n : Nat) : t.link n = s.link n := by
  obtain ⟨-, -, -, hl, -⟩ := h.only
  exact State.link_congr hl n

theorem gw (h : s.Within t c) (g : Nat) : t.gw g = s.gw g := by
  obtain ⟨-, -, -, -, hg⟩ := h.only
  exact State.gw_congr hg g

end State.Within

theorem State.regs_modRt (s : State) (c d : Nat) (f : Router → Router) : ((s.modRt c f).cell d).regs = (s.cell d).regs := by
  by_cases h : c = d <;> simp [State.modRt, State.cell_modCell, h]

theorem State.regs_bump (s : State) (c : Nat) (f : Field) : ((s.bump c f).cell c).regs = (s.cell c).regs.bump f := by
  simp [State.bump, State.modCellRegs]

@[simp] theorem State.rt_modCellRegs (s : State) (c d : Nat) (f : Regs → Regs) : (s.modCellRegs c f).rt d = s.rt d := by
  by_cases h : c = d <;> simp [State.modCellRegs, State.rt, State.cell_modCell, h]

@[simp] theorem State.ni_modCellRegs (s : State) (c d : Nat) (f : Regs → Regs) : (s.modCellRegs c f).ni d = s.ni d := by
  by_cases h : c = d <;> simp [State.modCellRegs, State.ni, State.cell_modCell, h]

@[simp] theorem State.rt_bump (s : State) (c d : Nat) (f : Field) : (s.bump c f).rt d = s.rt d := s.rt_modCellRegs ..

@[simp] theorem State.ni_bump (s : State) (c d : Nat) (f : Field) : (s.bump c f).ni d = s.ni d := s.ni_modCellRegs ..

/-! ## Side notes of a router: sampling, the watched tree, wake requests (R92, R233, R472) -/

/-- The registers that side notes count in. -/
def noteRegs : List Nat := [CELL_OBS_CNT_sampled.off, CELL_EVENT_CNT_wake_req.off]

/-- t is s but for changes at cell c that the choice of an output does not depend on. -/
structure State.Alike (s t : State) (c : Nat) : Prop extends s.Within t c where
  taken : ∀ pl, t.taken c pl = s.taken c pl
  sluices : (t.rt c).sluices = (s.rt c).sluices
  rotBase : (t.rt c).rotBase = (s.rt c).rotBase
  defl : (t.rt c).defl = (s.rt c).defl
  regs : ∀ f : Field, f.off ∉ noteRegs → (t.cell c).regs.get f = (s.cell c).regs.get f

/-- t is s but for side notes at cell c: the packets decoded, the answers queued and the NI are s's too. -/
structure State.Noted (s t : State) (c : Nat) : Prop extends s.Alike t c where
  ni : t.ni c = s.ni c
  dec : ∀ pl, ((t.rt c).plane pl).dec = ((s.rt c).plane pl).dec
  answers : (t.rt c).answers = (s.rt c).answers

/-- A change of a router that a side note makes. -/
structure Router.Noted (r r' : Router) : Prop where
  plane : ∀ pl, r'.plane pl = r.plane pl
  sluices : r'.sluices = r.sluices
  rotBase : r'.rotBase = r.rotBase
  defl : r'.defl = r.defl
  answers : r'.answers = r.answers

theorem State.noted_modRt (s : State) (c : Nat) {f : Router → Router} (h : (s.rt c).Noted (f (s.rt c))) : s.Noted (s.modRt c f) c where
  toWithin := s.within_modCell c _
  taken pl := by simp only [State.taken, State.rt_modRt_same, State.modRt_ncyc, h.plane]
  sluices := by rw [State.rt_modRt_same, h.sluices]
  rotBase := by rw [State.rt_modRt_same, h.rotBase]
  defl := by rw [State.rt_modRt_same, h.defl]
  regs f _ := by rw [State.regs_modRt]
  ni := s.ni_modRt c c f
  dec pl := by rw [State.rt_modRt_same, h.plane]
  answers := by rw [State.rt_modRt_same, h.answers]

theorem State.noted_bump (s : State) (c : Nat) (f : Field) (hf : f.fits) (hn : f.off ∈ noteRegs) : s.Noted (s.bump c f) c where
  toWithin := s.within_modCell c _
  taken pl := by simp only [State.taken, State.rt_bump, State.bump_ncyc]
  sluices := by rw [State.rt_bump]
  rotBase := by rw [State.rt_bump]
  defl := by rw [State.rt_bump]
  regs g hg := by rw [State.regs_bump, Regs.get_bump_ne _ _ _ hf (.inl fun h => hg (h ▸ hn))]
  ni := s.ni_bump c c f
  dec pl := by rw [State.rt_bump]
  answers := by rw [State.rt_bump]

theorem State.Alike.trans {s t u : State} {c : Nat} (h : s.Alike t c) (k : t.Alike u c) : s.Alike u c where
  toWithin := h.toWithin.trans k.toWithin
  taken pl := (k.taken pl).trans (h.taken pl)
  sluices := k.sluices.trans h.sluices
  rotBase := k.rotBase.trans h.rotBase
  defl := k.defl.trans h.defl
  regs f hf := (k.regs f hf).trans (h.regs f hf)

theorem State.Noted.refl (s : State) (c : Nat) : s.Noted s c :=
  ⟨⟨.refl s c, fun _ => rfl, rfl, rfl, rfl, fun _ _ => rfl⟩, rfl, fun _ => rfl, rfl⟩

theorem State.Noted.trans {s t u : State} {c : Nat} (h : s.Noted t c) (k : t.Noted u c) : s.Noted u c where
  toAlike := h.toAlike.trans k.toAlike
  ni := k.ni.trans h.ni
  dec pl := (k.dec pl).trans (h.dec pl)
  answers := k.answers.trans h.answers

theorem State.noted_spray (s : State) (c : Nat) (pl : Plane) (port : Nat) (input : Bool) (p : Packet) (tag : W32) :
    s.Noted (s.spray c pl port input p tag) c := by
  simp only [State.spray]
  generalize lfsrStep _ = l
  have hl : s.Noted (s.modRt c fun x => { x with lfsr := l }) c := s.noted_modRt c ⟨fun _ => rfl, rfl, rfl, rfl, rfl⟩
  split
  · split
    · split
      · exact hl.trans (State.noted_bump _ c _ (by decide) (by decide))
      · exact (hl.trans (State.noted_bump _ c _ (by decide) (by decide))).trans (State.noted_modRt _ c ⟨fun _ => rfl, rfl, rfl, rfl, rfl⟩)
    · exact hl
  · exact .refl s c

theorem State.noted_watch (s : State) (c : Nat) (ty : BitVec 4) (tree : BitVec 12) : s.Noted (s.watch c ty tree) c := by
  simp only [State.watch]
  split
  · exact s.noted_modRt c ⟨fun _ => rfl, rfl, rfl, rfl, rfl⟩
  · exact .refl s c

theorem State.noted_rillSend (s : State) (c : Nat) (f : Flit) : s.Noted (s.rillSend c f) c := by
  unfold State.rillSend State.rillSendAs
  exact s.noted_modRt c ⟨fun _ => rfl, rfl, rfl, rfl, rfl⟩

/-- A wake request is a count and a flit at the router's own local port (R92). -/
theorem State.noted_wake (s : State) (c p : Nat) : s.Noted (s.wake c p) c := by
  have hs : s.Noted ((s.bump c CELL_EVENT_CNT_wake_req).modRt c fun r => { r with wakeSent := aput r.wakeSent p s.ncyc }) c :=
    (s.noted_bump c _ (by decide) (by decide)).trans (State.noted_modRt _ c ⟨fun _ => rfl, rfl, rfl, rfl, rfl⟩)
  simp only [State.wake]
  cases neighbor c p with
  | none => exact .refl s c
  | some d =>
    dsimp only
    split_ifs
    · exact .refl s c
    · cases (s.block (blockOf d)).power
      case run => exact .refl s c
      case off => exact hs
      all_goals exact hs.trans (State.noted_rillSend _ c _)

/-! ## What the choice of an output reads (R68, R76, R79, R80, R93) -/

section decisions

variable {s t : State} {c : Nat} (h : s.Alike t c)
include h

theorem State.Alike.freeOut (pl : Plane) (p : Nat) : t.freeOut c pl p = s.freeOut c pl p := by
  simp only [State.freeOut, State.busyOut, State.sluiced, State.linkOpen, State.edgeAccepts, State.linkActive, State.linkState,
    h.taken, h.sluices, h.block, h.link, h.gw, h.chip, h.ncyc]

theorem State.Alike.freeSlot (pl : Plane) (p : Nat) : t.freeSlot c pl p = s.freeSlot c pl p := by
  simp only [State.freeSlot, h.taken, h.freeOut]

theorem State.Alike.rotOrder : t.rotOrder c = s.rotOrder c := by
  simp only [State.rotOrder, State.rot, h.ncyc, h.rotBase]

theorem State.Alike.prefOrder (d : Decoded) : t.prefOrder c d = s.prefOrder c d := by
  simp only [State.prefOrder, h.rotOrder]

theorem State.Alike.deflPort (pl : Plane) (d : Decoded) : t.deflPort c pl d = s.deflPort c pl d := by
  simp only [State.deflPort, State.backOut, State.linkActive, State.linkState, h.taken, h.rotOrder, h.freeOut, h.link, h.gw, h.chip]
  rfl

theorem State.Alike.mark (pl : Plane) (pk : Packet) : t.mark c pl pk = s.mark c pl pk := by
  simp only [State.mark, State.cget, h.regs CELL_RT_PARAM_cmark_age (by decide), h.regs CELL_RT_PARAM_cmark_rate (by decide), h.defl, h.ncyc]
  rfl

end decisions

/-! ## A packet on a mesh output (R35, R65, R66) -/

theorem neighbor_ne {c p e : Nat} (h : neighbor c p = some e) : e ≠ c := by
  rintro rfl
  unfold neighbor cx cy at h
  split at h <;> simp at h <;> omega

/-- What putting a packet on mesh output p of cell c does: it is on its way to the neighbour, its check bytes regenerated; of cell c the packets
decoded and answers queued stay, and every count but those of side notes. -/
structure State.Drove (s t : State) (c p : Nat) (pl : Plane) (pk : Packet) : Prop where
  sent : s.sentTo t c p pl (· = pk.regen)
  ends : s.onlyLinkEnds t c p
  dec : ((t.rt c).plane pl).dec = ((s.rt c).plane pl).dec
  answers : (t.rt c).answers = (s.rt c).answers
  regs : ∀ f : Field, f.off ∉ noteRegs → (t.cell c).regs.get f = (s.cell c).regs.get f

theorem State.within_take (s : State) (c : Nat) (pl : Plane) (m : BitVec 7) : s.Within (s.take c pl m) c := s.within_modCell c _

@[simp] theorem State.dec_take (s : State) (c : Nat) (pl : Plane) (m : BitVec 7) :
    (((s.take c pl m).rt c).plane pl).dec = ((s.rt c).plane pl).dec := by
  simp [State.take]

@[simp] theorem State.answers_take (s : State) (c : Nat) (pl : Plane) (m : BitVec 7) : ((s.take c pl m).rt c).answers = (s.rt c).answers := by
  simp [State.take]

@[simp] theorem State.regs_take (s : State) (c d : Nat) (pl : Plane) (m : BitVec 7) : ((s.take c pl m).cell d).regs = (s.cell d).regs :=
  s.regs_modRt ..

@[simp] theorem State.ni_take (s : State) (c d : Nat) (pl : Plane) (m : BitVec 7) : (s.take c pl m).ni d = s.ni d := s.ni_modRt ..

theorem State.linkExtra_congr {s t : State} (h : t.chip = s.chip) (c p : Nat) : t.linkExtra c p = s.linkExtra c p := by
  simp only [State.linkExtra, h]

/-- A change inside cell c is not seen by its neighbour: what is sent after it is sent from the state before. -/
theorem State.Within.sentTo {s t u : State} {c p : Nat} {pl : Plane} {P : Packet → Prop} (h : s.Within t c) (k : t.sentTo u c p pl P) :
    s.sentTo u c p pl P := by
  obtain ⟨e, pk, he, hP, ha⟩ := k
  have hrt : t.rt e = s.rt e := congrArg Cell.rt (h.only.1 e (neighbor_ne he))
  exact ⟨e, pk, he, hP, by rw [ha, h.ncyc, State.linkExtra_congr h.chip, hrt]⟩

theorem State.Within.onlyLinkEnds {s t u : State} {c p : Nat} (h : s.Within t c) (k : t.onlyLinkEnds u c p) : s.onlyLinkEnds u c p := by
  obtain ⟨ho, hb, hr, hl, hg⟩ := h.only
  obtain ⟨ko, kb, kr, kl, kg⟩ := k
  exact ⟨fun d hd hn => (ko d hd hn).trans (ho d hd), kb.trans hb, kr.trans hr, kl.trans hl, kg.trans hg⟩

theorem State.drove_drive (s : State) {c p e : Nat} {pl : Plane} (pk : Packet) (hpl : dynPlane pl = true) (he : neighbor c p = some e) :
    s.Drove (s.drive c pl p pk) c p pl pk := by
  have hec := neighbor_ne he
  have hd : s.drive c pl p pk = s.modRt e fun r => r.arrive pl ⟨oppPort p, s.ncyc + 2 + s.linkExtra c p, pk.regen⟩ := by
    simp only [State.drive, he]
  have hc (d : Nat) (h : e ≠ d) : (s.drive c pl p pk).cell d = s.cell d := by rw [hd, State.modRt, State.cell_modCell, if_neg h]
  refine ⟨⟨e, _, he, rfl, ?_⟩, ⟨fun d _ hn => hc d fun h => hn (h ▸ he), ?_⟩, ?_, ?_, fun f _ => ?_⟩
  · rw [hd, State.rt_modRt_same, Router.arrive_arr _ hpl]
  · rw [hd]
    exact ⟨rfl, rfl, rfl, rfl⟩
  all_goals simp only [State.rt, hc c hec]

theorem State.drove_driveOut (s : State) {c p e : Nat} {pl : Plane} {pk : Packet} (tag : W32) (hpl : dynPlane pl = true)
    (he : neighbor c p = some e) (ht : pk.type ≠ tTEL) : s.Drove (s.driveOut c pl p pk tag) c p pl pk := by
  let a := s.take c pl (BitVec.ofNat 7 (2 ^ p))
  let b := a.spray c pl (pointPort c p) false pk tag
  have hd : s.driveOut c pl p pk tag = b.drive c pl p pk := by simp [State.driveOut, ht, a, b]
  have hb : a.Noted b c := a.noted_spray ..
  have hw : s.Within b c := (s.within_take c pl _).trans hb.toWithin
  obtain ⟨hs, hn, hdec, hans, hr⟩ := b.drove_drive pk hpl he
  rw [hd]
  refine ⟨hw.sentTo hs, hw.onlyLinkEnds hn, ?_, ?_, fun f hf => ?_⟩
  · rw [hdec, hb.dec, State.dec_take]
  · rw [hans, hb.answers, State.answers_take]
  · rw [hr f hf, hb.regs f hf, State.regs_take]

@[simp] theorem State.mark_type (s : State) (c : Nat) (pl : Plane) (pk : Packet) : (s.mark c pl pk).type = pk.type := by
  simp only [State.mark]
  split <;> rfl

@[simp] theorem State.mark_payload (s : State) (c : Nat) (pl : Plane) (pk : Packet) : (s.mark c pl pk).payload = pk.payload := by
  simp only [State.mark]
  split <;> rfl

@[simp] theorem State.mark_age (s : State) (c : Nat) (pl : Plane) (pk : Packet) : (s.mark c pl pk).age = pk.age := by
  simp only [State.mark]
  split <;> rfl

/-- A packet given to a mesh output leaves marked (R93). -/
theorem State.drove_give (s : State) {c p e : Nat} {pl : Plane} {pk : Packet} (hpl : dynPlane pl = true) (he : neighbor c p = some e)
    (ht : pk.type ≠ tTEL) : s.Drove (s.give c pl p pk) c p pl (s.mark c pl pk) := by
  have h4 : p ≠ 4 := by
    rintro rfl
    cases he
  rw [State.give, if_neg h4]
  exact s.drove_driveOut _ hpl he (by rwa [State.mark_type])

/-- A packet of a type that is not reserved waits for the command of its type (R69). -/
theorem State.handOver_of_type (s : State) (c : Nat) (pl : Plane) {pk : Packet} (h0 : pk.type ≠ 0) (h15 : pk.type ≠ 15) :
    s.handOver c pl pk = s.modNi c fun x => { x with ejected := x.ejected ++ [(pl, pk)] } :=
  if_neg (by simpa using ⟨h0, h15⟩)

/-- EJECT: the packet, marked, is the last that the NI has been handed (R69, R93). -/
theorem State.give_eject (s : State) (c : Nat) (pl : Plane) {pk : Packet} (h0 : pk.type ≠ 0) (h15 : pk.type ≠ 15) :
    ((s.give c pl 4 pk).ni c).ejected = (s.ni c).ejected ++ [(pl, s.mark c pl pk)] ∧
    (((s.give c pl 4 pk).rt c).plane pl).dec = ((s.rt c).plane pl).dec ∧ s.Within (s.give c pl 4 pk) c := by
  let a := s.take c pl 16
  let b := a.spray c pl 4 false (s.mark c pl pk) (s.rxTag c (s.mark c pl pk))
  have hb : a.Noted b c := a.noted_spray ..
  have hg : s.give c pl 4 pk = (b.modRt c fun r => r.leave (s.mark c pl pk).epoch.toNat).modNi c fun x =>
      { x with ejected := x.ejected ++ [(pl, s.mark c pl pk)] } :=
    State.handOver_of_type _ c pl (by rwa [State.mark_type]) (by rwa [State.mark_type])
  rw [hg]
  refine ⟨?_, ?_, (((s.within_take c pl _).trans hb.toWithin).trans (b.within_modCell c _)).trans (State.within_modCell _ c _)⟩
  · rw [State.ni_modNi_same, State.ni_modRt, hb.ni, State.ni_take]
  · rw [State.rt_modNi, State.rt_modRt_same, Router.plane_leave, hb.dec, State.dec_take]

/-! ## The switch stage of one packet (R69, R78, R80, R99) -/

/-- What pass 1 notes of a packet that is no multicast copy before it looks for an output. -/
def State.noticed (s : State) (c : Nat) (pl : Plane) (d : Decoded) : State :=
  let a := (s.spray c pl (pointPort c d.port) true d.pkt (transitTag d.pkt)).watch c d.pkt.type d.pkt.chanTree
  match a.prefOrder c d with
  | p :: _ => if p != 4 && a.dozing c p then a.wake c p else a
  | [] => a

theorem State.noted_noticed (s : State) (c : Nat) (pl : Plane) (d : Decoded) : s.Noted (s.noticed c pl d) c := by
  have ha := (s.noted_spray c pl (pointPort c d.port) true d.pkt (transitTag d.pkt)).trans (State.noted_watch _ c d.pkt.type d.pkt.chanTree)
  simp only [State.noticed]
  split
  · split
    · exact ha.trans (State.noted_wake _ c _)
    · exact ha
  · exact ha

/-- Pass 1 for a packet that is no multicast copy: its preferred free output, or it loses. -/
theorem Pass.one_unicast (s : State) (c : Nat) (pl : Plane) {d : Decoded} (hp : d.pref ≠ .branch) :
    Pass.one c pl ⟨s, [], []⟩ d =
      match (s.prefOrder c d).find? (fun p => s.freeSlot c pl p) with
      | some p => ⟨(s.noticed c pl d).give c pl p d.pkt, [], []⟩
      | none => ⟨s.noticed c pl d, [d], []⟩ := by
  have hn := s.noted_noticed c pl d
  have ha := (s.noted_spray c pl (pointPort c d.port) true d.pkt (transitTag d.pkt)).trans (State.noted_watch _ c d.pkt.type d.pkt.chanTree)
  have h1 : Pass.one c pl ⟨s, [], []⟩ d =
      match (s.prefOrder c d).find? (fun p => (s.noticed c pl d).freeSlot c pl p) with
      | some p => ⟨(s.noticed c pl d).give c pl p d.pkt, [], []⟩
      | none => ⟨s.noticed c pl d, [d], []⟩ := by
    rw [← ha.prefOrder]
    obtain ⟨port, at_, pkt, prod, pref⟩ := d
    cases pref with
    | branch => exact absurd rfl hp
    | _ => rfl
  simpa only [hn.freeSlot] using h1

/-- The state in which the switch stage has taken up the packets that wait for it. -/
def State.takenUp (s : State) (c : Nat) (pl : Plane) : State :=
  s.modRt c fun r => r.setPlane pl { r.plane pl with dec := (r.plane pl).dec.filter fun d => !decide (d.at_ < s.ncyc) }

theorem State.alike_takenUp (s : State) (c : Nat) (pl : Plane) : s.Alike (s.takenUp c pl) c where
  toWithin := s.within_modCell c _
  taken pl' := by cases pl <;> cases pl' <;> simp [State.takenUp, State.taken, Router.plane, Router.setPlane]
  sluices := by simp [State.takenUp]
  rotBase := by simp [State.takenUp]
  defl := by simp [State.takenUp]
  regs f _ := by rw [State.takenUp, State.regs_modRt]

/-! ## Deflection (R78, R80, R93, R99) -/

theorem State.noted_age (s : State) (c : Nat) (pk : Packet) : s.Noted (s.age c pk).1 c := by
  unfold State.age
  split
  · exact .refl s c
  · split
    · exact s.noted_bump c _ (by decide) (by decide)
    · exact .refl s c

/-- A deflected packet is one older, up to 127. -/
theorem State.age_packet (s : State) (c : Nat) (pk : Packet) :
    (s.age c pk).2 = { pk with age := if pk.age = 127 then 127 else pk.age + 1 } := by
  unfold State.age
  split
  next h => rw [← h]
  next => rfl

theorem State.within_noteDefl (s : State) (c : Nat) (pl : Plane) : s.Within (s.noteDefl c pl) c := by
  unfold State.noteDefl
  split
  · exact (s.within_modCell c _).trans (State.within_modCell _ c _)
  · exact s.within_modCell c _

theorem State.dec_noteDefl (s : State) (c : Nat) (pl : Plane) : (((s.noteDefl c pl).rt c).plane pl).dec = ((s.rt c).plane pl).dec := by
  unfold State.noteDefl
  split
  · rw [State.rt_modRt_same, State.rt_bump]
    rfl
  · rw [State.rt_bump]

theorem State.regs_noteDefl (s : State) (c : Nat) (pl : Plane) :
    ((s.noteDefl c pl).cell c).regs = (s.cell c).regs.bump (deflField pl CELL_DEFL_CNT_REQ_deflected CELL_DEFL_CNT_REP_deflected) := by
  unfold State.noteDefl
  split
  · rw [State.regs_modRt, State.regs_bump]
  · rw [State.regs_bump]

/-- The deflections of a plane have bits of their own in a register where no side note counts (R98). -/
theorem deflected_own (pl : Plane) (r : Regs) :
    let f := deflField pl CELL_DEFL_CNT_REQ_deflected CELL_DEFL_CNT_REP_deflected
    f.fits ∧ f.off ∉ noteRegs ∧ (r.bump (deflField pl CELL_DEFL_CNT_REQ_noroute CELL_DEFL_CNT_REP_noroute)).get f = r.get f := by
  cases pl <;> exact ⟨by decide, by decide, Regs.get_bump_ne _ _ _ (by decide) (by decide)⟩

/-- A deflection: the packet leaves on the port chosen, one older, and is counted. -/
theorem State.deflect_mesh (s : State) {c p e : Nat} {pl : Plane} {d : Decoded} (hpl : dynPlane pl = true) (hp : s.deflPort c pl d = some p)
    (he : neighbor c p = some e) (ht : d.pkt.type ≠ tTEL) :
    s.sentTo (State.deflect c pl s d) c p pl
      (fun k => k.payload = d.pkt.payload ∧ k.age = (if d.pkt.age = 127 then 127 else d.pkt.age + 1)) ∧
    (s.cell c).regs.counted ((State.deflect c pl s d).cell c).regs (deflField pl CELL_DEFL_CNT_REQ_deflected CELL_DEFL_CNT_REP_deflected) ∧
    (((State.deflect c pl s d).rt c).plane pl).dec = ((s.rt c).plane pl).dec ∧ s.onlyLinkEnds (State.deflect c pl s d) c p := by
  let a := s.age c d.pkt
  let b := a.1.noteDefl c pl
  let u := if d.prod = 0 then b.bump c (deflField pl CELL_DEFL_CNT_REQ_noroute CELL_DEFL_CNT_REP_noroute) else b
  let f := deflField pl CELL_DEFL_CNT_REQ_deflected CELL_DEFL_CNT_REP_deflected
  obtain ⟨hfit, hoff, hno⟩ := deflected_own pl (b.cell c).regs
  have hd : State.deflect c pl s d = u.give c pl p a.2 := by simp only [State.deflect, hp, u, b, a]
  have ha : s.Noted a.1 c := s.noted_age c d.pkt
  obtain ⟨hbu, hbr, hbg⟩ : b.Within u c ∧ u.rt c = b.rt c ∧ (u.cell c).regs.get f = (b.cell c).regs.get f := by
    by_cases h0 : d.prod = 0
    · simp only [u, if_pos h0]
      exact ⟨b.within_modCell c _, b.rt_bump .., by rw [State.regs_bump, hno]⟩
    · simp only [u, if_neg h0]
      exact ⟨.refl b c, trivial, trivial⟩
  have hw : s.Within u c := (ha.toWithin.trans (a.1.within_noteDefl c pl)).trans hbu
  obtain ⟨⟨e', pk, he', hpk, harr⟩, hends, hdec, -, hregs⟩ := u.drove_give hpl he (pk := a.2) (by rwa [s.age_packet])
  rw [hd]
  refine ⟨hw.sentTo ⟨e', pk, he', ?_, harr⟩, ?_, ?_, hw.onlyLinkEnds hends⟩
  · simp [hpk, Packet.regen, a, State.age_packet]
  · rw [Regs.counted, hregs f hoff, hbg, State.regs_noteDefl, Regs.get_bump_same _ _ hfit, ha.regs f hoff]
  · rw [hdec, hbr, State.dec_noteDefl, ha.dec]

section single

variable (s : State) {c : Nat} {pl : Plane} {d : Decoded} (hd : ((s.rt c).plane pl).dec = [d]) (ha : d.at_ < s.ncyc) (hp : d.pref ≠ .branch)
include hd ha

theorem State.dec_takenUp : (((s.takenUp c pl).rt c).plane pl).dec = [] := by
  simp [State.takenUp, hd, ha]

include hp

theorem State.switchAssign_single :
    s.switchAssign c pl =
      match (s.prefOrder c d).find? (fun p => s.freeSlot c pl p) with
      | some p => ((s.takenUp c pl).noticed c pl d).give c pl p d.pkt
      | none => State.deflect c pl ((s.takenUp c pl).noticed c pl d) d := by
  have hu := s.alike_takenUp c pl
  have hs : s.switchAssign c pl =
      (fun a : Pass => a.verts.foldl (State.branches c pl) (a.losers.foldl (State.deflect c pl) a.st))
        (Pass.one c pl ⟨s.takenUp c pl, [], []⟩ d) := by
    simp [State.switchAssign, hd, ha, State.ranked, State.rankInsert, State.takenUp]
  rw [hs, Pass.one_unicast _ c pl hp, hu.prefOrder]
  simp only [hu.freeSlot]
  cases (s.prefOrder c d).find? (fun p => s.freeSlot c pl p) <;> rfl

end single

theorem exec_switchAssign (c : Nat) (pl : Plane) (s : State) :
    exec (.switchAssign c pl) s = onUnit (Instr.switchAssign c pl).wf s (s.switchAssign c pl) := rfl

theorem exec_routerDecode (c : Nat) (pl : Plane) (p : Nat) (es : List Ecc) (tab : Bool) (s : State) :
    exec (.routerDecode c pl p es tab) s = onUnit (Instr.routerDecode c pl p es tab).wf s (s.decodeInput c pl p es tab) := rfl

theorem exec_answerQueueInject (c : Nat) (s : State) :
    exec (.answerQueueInject c) s = onUnit (Instr.answerQueueInject c).wf s (s.injectAnswer c) := rfl

section switch

variable {s : State} {c : Nat} {pl : Plane} {d : Decoded} (hc : cellOk c = true) (hpl : dynPlane pl = true)
  (hd : ((s.rt c).plane pl).dec = [d]) (ha : d.at_ < s.ncyc) (hp : d.pref ≠ .branch)
include hc hpl hd ha hp

theorem switchAssign_ejects (hf : (s.prefOrder c d).find? (fun p => s.freeSlot c pl p) = some 4) (h0 : d.pkt.type ≠ 0)
    (h15 : d.pkt.type ≠ 15) :
    completes (.switchAssign c pl) s fun t =>
      (t.ni c).ejected = (s.ni c).ejected ++ [(pl, s.mark c pl d.pkt)] ∧ ((t.rt c).plane pl).dec = [] ∧ s.onlyCell t c := by
  have hu := s.alike_takenUp c pl
  have hn := (s.takenUp c pl).noted_noticed c pl d
  obtain ⟨hej, hdec, hw⟩ := ((s.takenUp c pl).noticed c pl d).give_eject c pl h0 h15
  refine completes_onUnit (exec_switchAssign c pl s) (by simp [Instr.wf, hc, hpl]) ?_
  rw [s.switchAssign_single hd ha hp, hf]
  refine ⟨?_, ?_, ((hu.toWithin.trans hn.toWithin).trans hw).only⟩
  · rw [State.keeping_ni, hej, hn.ni, (hu.trans hn.toAlike).mark]
    simp [State.takenUp]
  · rw [State.keeping_rt, hdec, hn.dec, s.dec_takenUp hd ha]

theorem switchAssign_deflects {p e : Nat} (hf : (s.prefOrder c d).find? (fun p => s.freeSlot c pl p) = none)
    (hdp : s.deflPort c pl d = some p) (he : neighbor c p = some e) (ht : d.pkt.type ≠ tTEL) :
    completes (.switchAssign c pl) s fun t =>
      s.sentTo t c p pl (fun k => k.payload = d.pkt.payload ∧ k.age = (if d.pkt.age = 127 then 127 else d.pkt.age + 1)) ∧
      (s.cell c).regs.counted (t.cell c).regs (deflField pl CELL_DEFL_CNT_REQ_deflected CELL_DEFL_CNT_REP_deflected) ∧
      ((t.rt c).plane pl).dec = [] ∧ s.onlyLinkEnds t c p := by
  have hn := (s.takenUp c pl).noted_noticed c pl d
  have hu := (s.alike_takenUp c pl).trans hn.toAlike
  obtain ⟨hs, hcnt, hdec, hends⟩ := ((s.takenUp c pl).noticed c pl d).deflect_mesh hpl (by rwa [hu.deflPort]) he ht
  refine completes_onUnit (exec_switchAssign c pl s) (by simp [Instr.wf, hc, hpl]) ?_
  rw [s.switchAssign_single hd ha hp, hf]
  refine ⟨hu.sentTo hs, ?_, ?_, hu.onlyLinkEnds hends⟩
  · rwa [Regs.counted, hu.regs _ (deflected_own pl (s.cell c).regs).2.1] at hcnt
  · rw [State.keeping_rt, hdec, hn.dec, s.dec_takenUp hd ha]

end switch

/-! ## The answer queue (R70, R81) -/

/-- An injection onto a mesh output (R81, R90). -/
theorem State.inject_mesh (s : State) {c p e : Nat} {pl : Plane} {pk : Packet} (tag : W32) (hpl : dynPlane pl = true)
    (he : neighbor c p = some e) (ht : pk.type ≠ tTEL) :
    s.sentTo (s.inject c pl p pk tag) c p pl (· = pk.regen) ∧ s.onlyLinkEnds (s.inject c pl p pk tag) c p ∧
    ((s.inject c pl p pk tag).rt c).answers = (s.rt c).answers := by
  let a := (s.take c pl 64).modRt c fun r => r.enter pk.epoch.toNat
  let b := (a.watch c pk.type pk.chanTree).spray c pl 4 true pk tag
  have hb : a.Noted b c := (a.noted_watch c _ _).trans (State.noted_spray _ c ..)
  have hw : s.Within b c := ((s.within_take c pl _).trans (State.within_modCell _ c _)).trans hb.toWithin
  obtain ⟨hs, hn, -, hans, -⟩ := b.drove_driveOut tag hpl he ht
  refine ⟨hw.sentTo hs, hw.onlyLinkEnds hn, hans.trans (hb.answers.trans ?_)⟩
  rw [State.rt_modRt_same, Router.answers_enter, State.answers_take]

/-- The head leaves the answer queue; its tag is counted in the registers of the NI alone (R70, R469). -/
theorem State.popAnswer_answerTag (s : State) (c : Nat) (pk : Packet) :
    s.Within ((s.popAnswer c).answerTag c pk) c ∧ (((s.popAnswer c).answerTag c pk).rt c).answers = (s.rt c).answers.drop 1 := by
  have hw : s.Within (s.popAnswer c) c := s.within_modCell c _
  have ha : ((s.popAnswer c).rt c).answers = (s.rt c).answers.drop 1 := by rw [State.popAnswer, State.rt_modRt_same]
  unfold State.answerTag
  split
  · exact ⟨hw, ha⟩
  · exact ⟨hw.trans (State.within_modCell _ c _), by rw [State.tagTx, State.rt_modCellRegs, ha]⟩

theorem answerQueueInject_sends {s : State} {c p e : Nat} {a : Packet} {r : List Packet} (hc : cellOk c = true) (ha : (s.rt c).answers = a :: r)
    (hm : s.mayInject c .reply = true) (hl : s.isLocal c a = false) (hp : s.injectPort c .reply (s.stamped c a 0) = some p)
    (he : neighbor c p = some e) (ht : a.type ≠ tTEL) :
    completes (.answerQueueInject c) s fun t =>
      (t.rt c).answers = r ∧ s.sentTo t c p .reply (fun k => k = Packet.regen (s.stamped c a 0)) ∧ s.onlyLinkEnds t c p := by
  let k := s.stamped c a 0
  have hl' : s.isLocal c k = false := hl
  have hi : s.injectAnswer c = ((s.popAnswer c).answerTag c k).inject c .reply p k (transitTag k) := by
    simp [State.injectAnswer, ha, hm, hl', hp, k]
  obtain ⟨hw, hans⟩ := s.popAnswer_answerTag c k
  obtain ⟨hs, hn, hans'⟩ := ((s.popAnswer c).answerTag c k).inject_mesh (transitTag k) (pl := .reply) rfl he (show k.type ≠ tTEL from ht)
  refine completes_onUnit (exec_answerQueueInject c s) hc ?_
  rw [hi]
  exact ⟨by rw [State.keeping_rt, hans', hans, ha]; rfl, hw.sentTo hs, hw.onlyLinkEnds hn⟩

/-! ## The decode stage of one input (R34, R65, R72, R89) -/

theorem dropFirst_eq_eraseP {α : Type} (p : α → Bool) (l : List α) : dropFirst p l = l.eraseP p := by
  induction l with
  | nil => rfl
  | cons a r ih => cases h : p a <;> simp [dropFirst, h, ih]

theorem length_dropFirst {α : Type} {p : α → Bool} {l : List α} {x : α} (h : l.find? p = some x) : (dropFirst p l).length + 1 = l.length := by
  rw [dropFirst_eq_eraseP, List.length_eraseP_add_one (List.mem_of_find?_eq_some h) (List.find?_some h)]

/-- The state in which the packet that is due at input p has been taken off it, a Doze hold of the block ended. -/
def State.inputTaken (s : State) (c : Nat) (pl : Plane) (p : Nat) : State :=
  (s.modRt c fun r => r.setPlane pl
    { r.plane pl with arr := dropFirst (fun y => y.port == p && decide (y.due ≤ s.ncyc)) (r.plane pl).arr }).abortHold (blockOf c)

/-! Ending a Doze hold changes the block alone. -/

@[simp] theorem State.abortHold_cells (s : State) (b : Nat) : (s.abortHold b).cells = s.cells := by
  unfold State.abortHold
  split <;> rfl

@[simp] theorem State.abortHold_chip (s : State) (b : Nat) : (s.abortHold b).chip = s.chip := by
  unfold State.abortHold
  split <;> rfl

@[simp] theorem State.abortHold_ncyc (s : State) (b : Nat) : (s.abortHold b).ncyc = s.ncyc := by
  unfold State.abortHold
  split <;> rfl

@[simp] theorem State.abortHold_regions (s : State) (b : Nat) : (s.abortHold b).regions = s.regions := by
  unfold State.abortHold
  split <;> rfl

@[simp] theorem State.abortHold_links (s : State) (b : Nat) : (s.abortHold b).links = s.links := by
  unfold State.abortHold
  split <;> rfl

@[simp] theorem State.abortHold_gws (s : State) (b : Nat) : (s.abortHold b).gws = s.gws := by
  unfold State.abortHold
  split <;> rfl

section inputTaken

variable (s : State) (c : Nat) (pl : Plane) (p : Nat)

@[simp] theorem State.inputTaken_chip : (s.inputTaken c pl p).chip = s.chip := by simp [State.inputTaken]
@[simp] theorem State.inputTaken_ncyc : (s.inputTaken c pl p).ncyc = s.ncyc := by simp [State.inputTaken]
@[simp] theorem State.inputTaken_regions : (s.inputTaken c pl p).regions = s.regions := by simp [State.inputTaken]
@[simp] theorem State.inputTaken_links : (s.inputTaken c pl p).links = s.links := by simp [State.inputTaken]
@[simp] theorem State.inputTaken_gws : (s.inputTaken c pl p).gws = s.gws := by simp [State.inputTaken]

theorem State.cell_inputTaken (d : Nat) : (s.inputTaken c pl p).cell d = (s.modRt c fun r => r.setPlane pl
    { r.plane pl with arr := dropFirst (fun y => y.port == p && decide (y.due ≤ s.ncyc)) (r.plane pl).arr }).cell d :=
  State.cell_congr (State.abortHold_cells _ _) d

@[simp] theorem State.rt_inputTaken : (s.inputTaken c pl p).rt c = (s.rt c).setPlane pl
    { (s.rt c).plane pl with arr := dropFirst (fun y => y.port == p && decide (y.due ≤ s.ncyc)) ((s.rt c).plane pl).arr } := by
  rw [State.rt, State.cell_inputTaken, ← State.rt, State.rt_modRt_same]

@[simp] theorem State.regs_inputTaken (d : Nat) : ((s.inputTaken c pl p).cell d).regs = (s.cell d).regs := by
  rw [State.cell_inputTaken, State.regs_modRt]

theorem State.cell_inputTaken_ne {d : Nat} (h : d ≠ c) : (s.inputTaken c pl p).cell d = s.cell d := by
  rw [State.cell_inputTaken]
  exact (s.within_modCell c _).only.1 d h

end inputTaken

/-! ### What the decode of a packet reads -/

theorem State.bundleEdge_congr {s t : State} (hl : t.links = s.links) (c b : Nat) : t.bundleEdge c b = s.bundleEdge c b := by
  simp only [State.bundleEdge, State.linkActive, State.linkState, State.link_congr hl]
  rfl

section routes

variable {s t : State} {c : Nat} (hchip : t.chip = s.chip)
include hchip

theorem State.chipId_congr : t.chipId = s.chipId := by simp only [State.chipId, State.chget, hchip]

theorem State.bundle_congr (dst v : Nat) : t.bundle dst v = s.bundle dst v := by
  unfold State.bundle State.dimOrder State.dim State.chget State.build
  rw [State.chipId_congr hchip, hchip]

theorem State.steerPort_congr (pk : Packet) : t.steerPort c pk = s.steerPort c pk := by simp only [State.steerPort, hchip]

theorem State.openMask_congr (hs : (t.rt c).sluices = (s.rt c).sluices) (m : BitVec 4) : t.openMask c m = s.openMask c m := by
  simp only [State.openMask, State.closedPorts, State.sluiced, State.tiedOff, hchip, hs]
  rfl

section rows

variable (h0 : (t.rt c).rows0 = (s.rt c).rows0) (h1 : (t.rt c).rows1 = (s.rt c).rows1)
include h0 h1

theorem State.rowOf_congr (v k : Nat) : t.rowOf c v k = s.rowOf c v k := by
  unfold State.rowOf State.build
  rw [hchip, h0, h1]

theorem State.detour_congr (v : Nat) : t.detour c v = s.detour c v := by
  unfold State.detour State.build
  rw [hchip, h0, h1]

end rows

/-- The productive set depends on the installed rows, the sluices, the link ports and the chip's own state (R72). -/
theorem State.productive_congr (hl : t.links = s.links) (hs : (t.rt c).sluices = (s.rt c).sluices) (h0 : (t.rt c).rows0 = (s.rt c).rows0)
    (h1 : (t.rt c).rows1 = (s.rt c).rows1) (pk : Packet) (v : Nat) : t.productive c pk v = s.productive c pk v := by
  unfold State.productive
  simp only [State.chipId_congr hchip, State.bundle_congr hchip, State.steerPort_congr hchip, State.openMask_congr hchip hs,
    State.bundleEdge_congr hl, State.rowOf_congr hchip h0 h1, State.detour_congr hchip h0 h1]

theorem State.acrossFence_congr (hs : (t.rt c).sluices = (s.rt c).sluices)
    (hr : ∀ d, (t.cell d).regs = (s.cell d).regs) (pk : Packet) : t.acrossFence c pk = s.acrossFence c pk := by
  simp only [State.acrossFence, State.chipId_congr hchip, State.fencedCell, hs, hr]

end routes

/-! ### A packet that cannot go on: the NACK and the stale count (R48, R89) -/

/-- What raising a NACK leaves as it was at the cell: the packets decoded, and every count but those of side notes. -/
theorem State.nack_keeps (s : State) (c : Nat) (pk : Packet) (reason detail : Nat) :
    s.Within (s.nack c pk reason detail) c ∧ (∀ pl, (((s.nack c pk reason detail).rt c).plane pl).dec = ((s.rt c).plane pl).dec) ∧
    ∀ f : Field, f.off ∉ noteRegs → ((s.nack c pk reason detail).cell c).regs.get f = (s.cell c).regs.get f := by
  unfold State.nack State.answer
  split
  · split
    · exact ⟨s.within_modCell c _, fun _ => by rw [State.rt_modRt_same]; rfl, fun _ _ => by rw [State.regs_modRt]⟩
    · have hb := s.noted_bump c CELL_EVENT_CNT_answer_drop (by decide) (by decide)
      exact ⟨hb.toWithin, hb.dec, hb.regs⟩
  · exact ⟨.refl s c, fun _ => rfl, fun _ _ => rfl⟩

theorem State.posted_zRecord (s : State) (r : FaultRec) : s.Posted (s.zRecord r) := by
  unfold State.zRecord
  split <;> exact s.posted_post ..

/-- A packet under a FREE version is counted stale; no packet decoded goes (R89). -/
theorem State.stale_counts (s : State) (c : Nat) (pl : Plane) (pk : Packet) :
    (((s.stale c pl pk).rt c).plane pl).dec = ((s.rt c).plane pl).dec ∧
    (s.cell c).regs.counted ((s.stale c pl pk).cell c).regs (deflField pl CELL_DEFL_CNT_REQ_stale CELL_DEFL_CNT_REP_stale) ∧
    (∀ d, d ≠ c → (s.stale c pl pk).cell d = s.cell d) ∧ (s.stale c pl pk).links = s.links ∧ (s.stale c pl pk).gws = s.gws := by
  let f := deflField pl CELL_DEFL_CNT_REQ_stale CELL_DEFL_CNT_REP_stale
  let b := s.bump c f
  let u := b.nack c pk rSTALE (s.rt c).activeVer
  obtain ⟨hfit, hoff⟩ : f.fits ∧ f.off ∉ noteRegs := by cases pl <;> exact ⟨by decide, by decide⟩
  have hp : u.Posted (s.stale c pl pk) := u.posted_zRecord _
  have hcell (d : Nat) : (s.stale c pl pk).cell d = u.cell d := State.cell_congr hp.cells d
  obtain ⟨hw, hdec, hregs⟩ := b.nack_keeps c pk rSTALE (s.rt c).activeVer
  obtain ⟨ho, -, -, hl, hg⟩ := ((s.within_modCell c _).trans hw).only
  refine ⟨?_, ?_, fun d hd => (hcell d).trans (ho d hd), hp.links.trans hl, hp.gws.trans hg⟩
  · rw [State.rt, hcell, ← State.rt, hdec, State.rt_bump]
  · rw [Regs.counted, hcell, hregs f hoff, State.regs_bump, Regs.get_bump_same _ _ hfit]

/-! ### The three ways of a packet -/

section decode

variable {s : State} {c : Nat} {pl : Plane} {p : Nat} {x : InFlight}

theorem State.decodeInput_clean (hf : ((s.rt c).plane pl).arr.find? (fun y => y.port == p && decide (y.due ≤ s.ncyc)) = some x) (tab : Bool) :
    s.decodeInput c pl p [] tab = (s.inputTaken c pl p).decodeGood c p pl x.pkt tab := by
  simp only [State.decodeInput, hf]
  rfl

theorem State.decodeGood_free (hs : aget (s.rt c).sluices p = none) {pk : Packet} (hv : (s.rt c).verState pk.epoch.toNat = vFREE) (tab : Bool) :
    s.decodeGood c p pl pk tab = (s.dropDecoded c pk).stale c pl pk := by
  simp [State.decodeGood, hs, hv]

/-- A unicast packet under a version in use with a productive output keeps its version and waits for the switch stage. -/
theorem State.decodeGood_routed (hs : aget (s.rt c).sluices p = none) {pk : Packet} (hv : (s.rt c).verState pk.epoch.toNat ≠ vFREE)
    (hm : pk.type ≠ tMCAST) (hx : s.acrossFence c pk = false) (h0 : (s.productive c pk pk.epoch.toNat).prod ≠ 0)
    (he : (s.productive c pk pk.epoch.toNat).emptyRow = false) :
    s.decodeGood c p pl pk false =
      s.keep c pl ⟨p, s.ncyc, pk, (s.productive c pk pk.epoch.toNat).prod, (s.productive c pk pk.epoch.toNat).pref⟩ := by
  have hu : s.decodeGood c p pl pk false = s.decodeUnicast c p pl pk false := by simp [State.decodeGood, hs, hv, hm]
  have h0' : ((s.productive c pk pk.epoch.toNat).prod == 0) = false := beq_false_of_ne h0
  rw [hu]
  simp only [State.decodeUnicast, State.when_, h0', Bool.false_and, Bool.false_eq_true, if_false, hx, he, Bool.and_false, Bool.or_false]

/-- An uncorrectable word 0 at an edge input is counted; edge inputs set no fault bit and count toward no limit (R34, R90, R296). -/
theorem State.decodeInput_lost (hf : ((s.rt c).plane pl).arr.find? (fun y => y.port == p && decide (y.due ≤ s.ncyc)) = some x)
    (hs : aget (s.rt c).sluices p = none) (hn : neighbor c p = none) (tab : Bool) :
    s.decodeInput c pl p [.double] tab =
      (((s.inputTaken c pl p).bump c CELL_ERR_CNT_uncorr).bump c CELL_EVENT_CNT_unattrib).modRt c fun r => { r with lostW0 := r.lostW0 + 1 } := by
  have hc : (s.inputTaken c pl p).closedTo c p x.pkt = false := by simp [State.closedTo, hs]
  have hd : s.decodeInput c pl p [.double] tab =
      ((((((s.inputTaken c pl p).when_ ((s.inputTaken c pl p).closedTo c p x.pkt) fun s => s.bump c CELL_ERR_CNT_sluice_drop).bump c
        CELL_ERR_CNT_uncorr).portFault c p).bump c CELL_EVENT_CNT_unattrib).modRt c fun r => { r with lostW0 := r.lostW0 + 1 }).linkError
          c p pl.code 1 := by
    simp only [State.decodeInput, hf]
    rfl
  rw [hd, hc]
  simp [State.when_, State.portFault, State.linkError, hn]

variable (hc : cellOk c = true) (hpl : dynPlane pl = true) (hp : p < 4)
  (hf : ((s.rt c).plane pl).arr.find? (fun y => y.port == p && decide (y.due ≤ s.ncyc)) = some x) (hs : aget (s.rt c).sluices p = none)
include hc hpl hp hf hs

theorem routerDecode_routes (hv : (s.rt c).verState x.pkt.epoch.toNat ≠ vFREE) (hm : x.pkt.type ≠ tMCAST)
    (hx : s.acrossFence c x.pkt = false) (h0 : (s.productive c x.pkt x.pkt.epoch.toNat).prod ≠ 0)
    (he : (s.productive c x.pkt x.pkt.epoch.toNat).emptyRow = false) :
    completes (.routerDecode c pl p [] false) s fun t =>
      ((t.rt c).plane pl).dec = ((s.rt c).plane pl).dec ++
        [⟨p, s.ncyc, x.pkt, (s.productive c x.pkt x.pkt.epoch.toNat).prod, (s.productive c x.pkt x.pkt.epoch.toNat).pref⟩] ∧
      ((t.rt c).plane pl).arr.length + 1 = ((s.rt c).plane pl).arr.length ∧
      (∀ d, d ≠ c → t.cell d = s.cell d) ∧ t.regions = s.regions ∧ t.links = s.links ∧ t.gws = s.gws := by
  have hr : (s.inputTaken c pl p).productive c x.pkt x.pkt.epoch.toNat = s.productive c x.pkt x.pkt.epoch.toNat :=
    State.productive_congr (by simp) (by simp) (by simp) (by simp) (by simp) _ _
  have hx' : (s.inputTaken c pl p).acrossFence c x.pkt = false := (State.acrossFence_congr (by simp) (by simp) (by simp) _).trans hx
  refine completes_onUnit (exec_routerDecode c pl p [] false s) (by simp [Instr.wf, hc, hpl, portOk, hp]) ?_
  rw [State.decodeInput_clean hf, State.decodeGood_routed (by simpa) (by simpa) hm hx' (by rwa [hr]) (by rwa [hr]), hr]
  refine ⟨by simp [State.keep], ?_, fun d hd => ?_, by simp [State.keep], by simp [State.keep], by simp [State.keep]⟩
  · simpa [State.keep] using length_dropFirst hf
  · exact ((State.within_modCell _ c _).only.1 d hd).trans (s.cell_inputTaken_ne c pl p hd)

theorem routerDecode_stale (hv : (s.rt c).verState x.pkt.epoch.toNat = vFREE) :
    completes (.routerDecode c pl p [] false) s fun t =>
      ((t.rt c).plane pl).dec = ((s.rt c).plane pl).dec ∧
      (s.cell c).regs.counted (t.cell c).regs (deflField pl CELL_DEFL_CNT_REQ_stale CELL_DEFL_CNT_REP_stale) ∧
      (∀ d, d ≠ c → t.cell d = s.cell d) ∧ t.links = s.links ∧ t.gws = s.gws := by
  obtain ⟨hdec, hcnt, ho, hl, hg⟩ := ((s.inputTaken c pl p).dropDecoded c x.pkt).stale_counts c pl x.pkt
  refine completes_onUnit (exec_routerDecode c pl p [] false s) (by simp [Instr.wf, hc, hpl, portOk, hp]) ?_
  rw [State.decodeInput_clean hf, State.decodeGood_free (by simpa) (by simpa)]
  refine ⟨hdec.trans (by simp [State.dropDecoded]), ?_, fun d hd => ?_, hl.trans (by simp [State.dropDecoded]),
    hg.trans (by simp [State.dropDecoded])⟩
  · rwa [State.dropDecoded, State.regs_modRt, State.regs_inputTaken] at hcnt
  · exact (ho d hd).trans (((State.within_modCell _ c _).only.1 d hd).trans (s.cell_inputTaken_ne c pl p hd))

theorem routerDecode_loses (hn : neighbor c p = none) :
    completes (.routerDecode c pl p [.double] false) s fun t =>
      ((t.rt c).plane pl).dec = ((s.rt c).plane pl).dec ∧ (s.cell c).regs.counted (t.cell c).regs CELL_ERR_CNT_uncorr ∧
      (s.cell c).regs.counted (t.cell c).regs CELL_EVENT_CNT_unattrib ∧ (t.rt c).lostW0 = (s.rt c).lostW0 + 1 ∧
      (∀ d, d ≠ c → t.cell d = s.cell d) := by
  let a := s.inputTaken c pl p
  let b := a.bump c CELL_ERR_CNT_uncorr
  let u := b.bump c CELL_EVENT_CNT_unattrib
  have hw : a.Within (u.modRt c fun r => { r with lostW0 := r.lostW0 + 1 }) c :=
    ((a.within_modCell c _).trans (b.within_modCell c _)).trans (u.within_modCell c _)
  have hr : ((u.modRt c fun r => { r with lostW0 := r.lostW0 + 1 }).cell c).regs =
      ((s.cell c).regs.bump CELL_ERR_CNT_uncorr).bump CELL_EVENT_CNT_unattrib := by
    rw [State.regs_modRt, State.regs_bump, State.regs_bump, State.regs_inputTaken]
  refine completes_onUnit (exec_routerDecode c pl p [.double] false s) (by simp [Instr.wf, hc, hpl, portOk, hp]) ?_
  rw [State.decodeInput_lost hf hs hn]
  refine ⟨?_, ?_, ?_, ?_, fun d hd => (hw.only.1 d hd).trans (s.cell_inputTaken_ne c pl p hd)⟩
  · rw [State.keeping_rt, State.rt_modRt_same, Router.plane_lostW0, State.rt_bump, State.rt_bump, State.rt_inputTaken,
      Router.plane_setPlane]
  · rw [State.keeping_cell, Regs.counted, hr, Regs.get_bump_ne _ _ _ (by decide) (by decide), Regs.get_bump_same _ _ (by decide)]
  · rw [State.keeping_cell, Regs.counted, hr, Regs.get_bump_same _ _ (by decide), Regs.get_bump_ne _ _ _ (by decide) (by decide)]
  · rw [State.keeping_rt, State.rt_modRt_same]
    simp

end decode

/-- Settles O47: the three ways of a packet in the decode stage, the two of one in the switch stage, and the head of the answer queue. -/
theorem routerStages : Obligations.RouterStages := by
  intro s c pl hc hpl
  refine ⟨fun p x hp hf hs => ⟨fun hv hm hx h0 he => ?_, fun hv => ?_, fun hn => ?_⟩,
    fun d hd ha hp => ⟨fun hf h0 h15 => ?_, fun p e hf hdp he ht => ?_⟩, fun a r p e ha hm hl hp he ht => ?_⟩
  · exact routerDecode_routes hc hpl hp hf hs hv hm hx h0 he
  · exact routerDecode_stale hc hpl hp hf hs hv
  · exact routerDecode_loses hc hpl hp hf hs hn
  · exact switchAssign_ejects hc hpl hd ha hp hf h0 h15
  · exact switchAssign_deflects hc hpl hd ha hp hf hdp he ht
  · exact answerQueueInject_sends hc ha hm hl hp he ht

end Sys2Proof.Machine

/-! PROOFS. The deflection planes family: how a block dozes and wakes (R92, R407, R408, R413), how an epoch flip installs, switches, drains and
frees (R86, R90, R118, R310), how the NI selects a head and injects it (R81, R195, R198, R252, R473). -/

namespace Sys2Proof.Machine

/-- A command that names units of the die completes in t, where its own new state is t. -/
theorem completes_next {i : Instr} {s u : State} (t : State) {P : State → Prop} (he : exec i s = onUnit i.wf s u) (hw : i.wf = true)
    (hu : u = t) (hP : P (t.keeping s)) : completes i s P :=
  completes_onUnit he hw (hu ▸ hP)

/-- What each change of a loop keeps, the loop keeps. -/
theorem State.forEach_keeps {α β : Type} (g : State → β) {f : State → α → State} (h : ∀ s a, g (f s a) = g s) (l : List α) (s : State) :
    g (s.forEach l f) = g s := by
  induction l generalizing s with
  | nil => rfl
  | cons a l ih => exact (ih (f s a)).trans (h s a)

/-! ## Wake triggers (R92, R407, R408, R409) -/

theorem State.onlyBlock_modBlock (s : State) (b : Nat) (f : Block → Block) : s.onlyBlock (s.modBlock b f) b :=
  ⟨fun _ hd => by rw [State.block_modBlock, if_neg (Ne.symm hd)], rfl, rfl, rfl, rfl⟩

theorem State.onlyBlock.trans {s t u : State} {b : Nat} (h : s.onlyBlock t b) (k : t.onlyBlock u b) : s.onlyBlock u b := by
  obtain ⟨hb, hc, hr, hl, hg⟩ := h
  obtain ⟨kb, kc, kr, kl, kg⟩ := k
  exact ⟨fun d hd => (kb d hd).trans (hb d hd), kc.trans hc, kr.trans hr, kl.trans hl, kg.trans hg⟩

@[simp] theorem State.block_modBlockRegs_same (s : State) (b : Nat) (f : Regs → Regs) :
    (s.modBlockRegs b f).block b = { s.block b with regs := f (s.block b).regs } := s.block_modBlock_same b _

section wakes

variable (s : State) (r b : Nat)

@[simp] theorem State.wakeRegion_cells : (s.wakeRegion r).cells = s.cells := by unfold State.wakeRegion; split <;> rfl
@[simp] theorem State.wakeRegion_blocks : (s.wakeRegion r).blocks = s.blocks := by unfold State.wakeRegion; split <;> rfl
@[simp] theorem State.wakeRegion_links : (s.wakeRegion r).links = s.links := by unfold State.wakeRegion; split <;> rfl
@[simp] theorem State.wakeRegion_gws : (s.wakeRegion r).gws = s.gws := by unfold State.wakeRegion; split <;> rfl
@[simp] theorem State.wakeRegion_chip : (s.wakeRegion r).chip = s.chip := by unfold State.wakeRegion; split <;> rfl

@[simp] theorem State.block_wakeRegion (d : Nat) : (s.wakeRegion r).block d = s.block d := State.block_congr (s.wakeRegion_blocks r) d

/-- A sleeping region marks that it is to wake. -/
theorem State.region_wakeRegion_asleep (h : (s.region r).asleep = true) :
    (s.wakeRegion r).region r = { s.region r with waking := true } := by
  rw [State.wakeRegion, if_pos (by simp [h]), State.region_modRegion_same]

/-- A dozing block starts its exit; a sleeping region of its wakes. -/
theorem State.wakeBlock_doze (h : (s.block b).power = .doze) :
    s.wakeBlock b = (s.wakeRegion (blockRegion b)).modBlock b fun x => { x with exiting := true } := if_pos h

/-- A wake trigger ends a Doze hold, as a decoded packet does. -/
theorem State.wakeBlock_hold (hp : (s.block b).power ≠ .doze) (hh : (s.block b).holdFrom.isSome = true) :
    s.wakeBlock b = (s.wakeRegion (blockRegion b)).abortHold b := by
  rw [State.wakeBlock, if_neg hp, if_pos hh, State.abortHold, if_pos (by rwa [State.block_wakeRegion])]

end wakes

/-- A Doze hold that ends early is an abort (R407). -/
theorem State.block_abortHold_hold (s : State) (b : Nat) (h : (s.block b).holdFrom.isSome = true) :
    (s.abortHold b).block b =
      { s.block b with holdFrom := none, idleFrom := s.ncyc + 1, regs := (s.block b).regs.bump BLK_PWR_STAT_aborts } := by
  rw [State.abortHold, if_pos h, State.block_modBlockRegs_same, State.block_modBlock_same]

/-! ## A write that a crossing has held (R403) -/

theorem State.regs_modNi (s : State) (c d : Nat) (f : Ni → Ni) : ((s.modNi c f).cell d).regs = (s.cell d).regs := by
  by_cases h : c = d <;> simp [State.modNi, State.cell_modCell, h]

section stored

variable (s : State) (c o : Nat) (row : RegRow) (v mask : W64)

@[simp] theorem State.endDisabled_blocks (q : Nat) : (s.endDisabled c q).blocks = s.blocks := by
  unfold State.endDisabled
  split
  · rfl
  · exact State.forEach_keeps State.blocks (fun _ _ => by rfl) _ s

@[simp] theorem State.regs_endDisabled (q : Nat) : ((s.endDisabled c q).cell c).regs = (s.cell c).regs := by
  unfold State.endDisabled
  split
  · rfl
  · exact State.forEach_keeps (fun s => (s.cell c).regs) (fun t e => by exact t.regs_modNi c c fun x => x.unstall e.1) _ s

@[simp] theorem State.storeCell_blocks : (s.storeCell c o row v mask).blocks = s.blocks := by
  unfold State.storeCell
  extract_lets s₁ own s₂
  have h₁ : s₁.blocks = s.blocks := by
    simp only [s₁]
    split <;> rfl
  have h₂ : s₂.blocks = s.blocks := h₁
  split
  · exact h₂
  · split
    · rw [State.endDisabled_blocks, h₂]
    · exact h₂

/-- The registers of a cell after a write of one of them, the trees of the contexts 0 and 1 apart. -/
def State.regsStored (s : State) (c o : Nat) (row : RegRow) (v mask : W64) : Regs :=
  let y := ((s.cell c).store s.now32 s.ncyc o row v mask).regs
  if o = 0x4000 ∧ y.get NI_OWNER_parterre ≠ s.cget c NI_OWNER_parterre then y.set NI_SPILL_credit (s.spillBurst y) else y

theorem State.regs_storeCell (h0 : o ≠ 0x80) (h1 : o ≠ 0x84) : ((s.storeCell c o row v mask).cell c).regs = s.regsStored c o row v mask := by
  let u := s.modCell c fun x => x.store s.now32 s.ncyc o row v mask
  let y := ((s.cell c).store s.now32 s.ncyc o row v mask).regs
  have ho : ¬(o = 0x80 ∨ o = 0x84) := by omega
  have hy : (u.cell c).regs = y := congrArg Cell.regs (s.cell_modCell_same c _)
  have hs : s.storeCell c o row v mask =
      if o = 0x4000 ∧ u.cget c NI_OWNER_parterre ≠ s.cget c NI_OWNER_parterre then u.refillNi c
      else if 0x4200 ≤ o ∧ o < 0x4400 then u.endDisabled c ((o - 0x4200) / 8) else u := by
    rw [State.storeCell, if_neg ho]
  have hr : s.regsStored c o row v mask =
      if o = 0x4000 ∧ u.cget c NI_OWNER_parterre ≠ s.cget c NI_OWNER_parterre then y.set NI_SPILL_credit (s.spillBurst y) else y := by
    rw [State.cget, hy]
    rfl
  rw [hs, hr]
  split
  · rw [State.refillNi, State.cell_modCell_same, hy]
    rfl
  · split
    · rw [State.regs_endDisabled, hy]
    · exact hy

theorem State.regsStored_congr {s t : State} (hc : t.cells = s.cells) (hchip : t.chip = s.chip) (hn : t.ncyc = s.ncyc) (ht : t.time = s.time) :
    t.regsStored c o row v mask = s.regsStored c o row v mask := by
  simp only [State.regsStored, State.cget, State.cell_congr hc, hn, State.now32, State.now, ht, State.spillBurst, State.classNow, hchip]
  rfl

end stored

/-! ## The exit from Doze (R408) -/

/-- The block runs again: its idle count starts anew, the wake is counted. -/
def State.backInRun (s : State) (b : Nat) : State :=
  (s.modBlock b fun x => { x with power := .run, exiting := false, idleFrom := s.ncyc }).modBlockRegs b fun r => r.bump BLK_PWR_STAT_wakes

theorem State.block_backInRun (s : State) (b : Nat) :
    (s.backInRun b).block b =
      { s.block b with power := .run, exiting := false, idleFrom := s.ncyc, regs := (s.block b).regs.bump BLK_PWR_STAT_wakes } := by
  rw [State.backInRun, State.block_modBlockRegs_same, State.block_modBlock_same]

theorem State.onlyBlock_backInRun (s : State) (b : Nat) : s.onlyBlock (s.backInRun b) b :=
  (s.onlyBlock_modBlock b _).trans (State.onlyBlock_modBlock _ b _)

theorem State.crossingsDone_nil {s : State} {b : Nat} (hp : (s.block b).power = .run) (hc : (s.block b).crossing = []) :
    s.crossingsDone b = s := by
  simp [State.crossingsDone, hp, hc, State.forEach]

theorem State.crossingsDone_set {s : State} {b : Nat} (hp : (s.block b).power = .run) {u off : Nat} {v mask : W64} {row : RegRow}
    (hc : (s.block b).crossing = [.set .cell u off v mask]) (hr : regRow .cell off = some row) :
    s.crossingsDone b = (s.modBlock b fun k => { k with crossing := k.crossing.drop 1 }).storeCell u off row v mask := by
  simp [State.crossingsDone, hp, hc, State.forEach, State.redo, hr, State.store]

/-! ## The steps of Doze -/

section doze

variable {s : State} {b : Nat} (hb : blockOk b = true)
include hb

theorem dozeIdleReached_holds (hp : (s.block b).power = .run) (ha : (s.block b).regs.flag BLK_PWR_CTL_auto_doze = true)
    (hh : (s.block b).holdFrom = none) (hc : (s.block b).ctlReset = false) (hi : s.blockIdle b = true)
    (hn : (s.block b).idleFrom + (s.block b).regs.get BLK_PWR_CTL_idle_ncyc ≤ s.ncyc) :
    completes (.dozeIdleReached b) s fun t =>
      t.block b = { s.block b with holdFrom := some s.ncyc } ∧ (∀ d, d ≠ b → t.block d = s.block d) ∧ t.cells = s.cells ∧
      t.regions = s.regions := by
  refine completes_next (s.modBlock b fun x => { x with holdFrom := some s.ncyc }) rfl hb (if_pos (by simp [hp, ha, hh, hc, hi, hn])) ?_
  obtain ⟨ho, hcells, hregions, -⟩ := s.onlyBlock_modBlock b fun x => { x with holdFrom := some s.ncyc }
  exact ⟨s.block_modBlock_same b _, ho, hcells, hregions⟩

section gate

variable {t0 : Nat} (hh : (s.block b).holdFrom = some t0) (ht : t0 + 2 + s.entryExtra b ≤ s.ncyc)
include hh ht

theorem dozeGate_dozes (hm : s.mayLeaveRun b = true) :
    completes (.dozeGate b) s fun t =>
      (t.block b).power = .doze ∧ (t.block b).holdFrom = none ∧
      (t.block b).regs.get BLK_PWR_STAT_dozes = min ((s.block b).regs.get BLK_PWR_STAT_dozes + 1) (2 ^ BLK_PWR_STAT_dozes.len - 1) ∧
      (∀ d, d ≠ b → t.block d = s.block d) ∧ t.cells = s.cells ∧ t.regions = s.regions := by
  let u := s.modBlock b fun x => { x with holdFrom := none, power := .doze, since := s.ncyc }
  refine completes_next (u.modBlockRegs b fun r => r.bump BLK_PWR_STAT_dozes) rfl hb ?_ ?_
  · simp only [hh, if_neg (Nat.not_lt.2 ht), hm]
    rfl
  · obtain ⟨ho, hcells, hregions, -⟩ := (s.onlyBlock_modBlock b _).trans (u.onlyBlock_modBlock b fun x => { x with regs := x.regs.bump _ })
    have hbk : (u.modBlockRegs b fun r => r.bump BLK_PWR_STAT_dozes).block b =
        { s.block b with
          holdFrom := none, power := .doze, since := s.ncyc, regs := (s.block b).regs.bump BLK_PWR_STAT_dozes } := by
      rw [State.block_modBlockRegs_same, State.block_modBlock_same]
    rw [State.keeping_block, hbk]
    exact ⟨rfl, rfl, Regs.get_bump_same _ _ (by decide), ho, hcells, hregions⟩

theorem dozeGate_aborts (hm : s.mayLeaveRun b = false) (hp : (s.block b).power = .run) :
    completes (.dozeGate b) s fun t =>
      (t.block b).power = .run ∧ (t.block b).holdFrom = none ∧ (s.block b).regs.counted (t.block b).regs BLK_PWR_STAT_aborts ∧
      t.cells = s.cells := by
  have hs : (s.block b).holdFrom.isSome = true := by rw [hh]; rfl
  refine completes_next (s.wakeBlock b) rfl hb ?_ ?_
  · simp only [hh, if_neg (Nat.not_lt.2 ht), hm]
    rfl
  · rw [s.wakeBlock_hold b (by simp [hp]) hs, State.keeping_block, State.block_abortHold_hold _ b (by rwa [State.block_wakeRegion]),
      State.block_wakeRegion]
    exact ⟨hp, rfl, Regs.get_bump_same _ _ (by decide), by simp⟩

end gate

section exit

variable (hp : (s.block b).power = .doze) (he : (s.block b).exiting = true)
include hp he

theorem dozeExitDone_writes {u off : Nat} {v mask : W64} {row : RegRow} (hc : (s.block b).crossing = [.set .cell u off v mask])
    (hr : regRow .cell off = some row) (h0 : off ≠ 0x80) (h1 : off ≠ 0x84) :
    completes (.dozeExitDone b) s fun t =>
      (t.block b).power = .run ∧ (t.block b).crossing = [] ∧ (t.cell u).regs = ((s.storeCell u off row v mask).cell u).regs := by
  let w := (s.backInRun b).modBlock b fun k => { k with crossing := k.crossing.drop 1 }
  have hrun := s.block_backInRun b
  refine completes_next (w.storeCell u off row v mask) rfl hb ?_ ?_
  · rw [hp, he]
    exact State.crossingsDone_set (s := s.backInRun b) (by rw [hrun]) (by rw [hrun, hc]) hr
  · rw [State.keeping_block, State.block_congr (w.storeCell_blocks u off row v mask), State.block_modBlock_same, hrun, hc,
      State.keeping_cell, State.regs_storeCell _ _ _ _ _ _ h0 h1, State.regs_storeCell _ _ _ _ _ _ h0 h1]
    exact ⟨rfl, rfl, State.regsStored_congr u off row v mask (s := s) rfl rfl rfl rfl⟩

theorem dozeExitDone_runs (hc : (s.block b).crossing = []) :
    completes (.dozeExitDone b) s fun t =>
      (t.block b).power = .run ∧ (t.block b).exiting = false ∧
      (t.block b).regs.get BLK_PWR_STAT_wakes = min ((s.block b).regs.get BLK_PWR_STAT_wakes + 1) (2 ^ BLK_PWR_STAT_wakes.len - 1) ∧
      (∀ d, d ≠ b → t.block d = s.block d) ∧ t.cells = s.cells ∧ t.regions = s.regions := by
  have hrun := s.block_backInRun b
  obtain ⟨ho, hcells, hregions, -⟩ := s.onlyBlock_backInRun b
  refine completes_next (s.backInRun b) rfl hb ?_ ?_
  · rw [hp, he]
    exact State.crossingsDone_nil (s := s.backInRun b) (by rw [hrun]) (by rw [hrun, hc])
  · rw [State.keeping_block, hrun]
    exact ⟨rfl, rfl, Regs.get_bump_same _ _ (by decide), ho, hcells, hregions⟩

end exit

section waking

variable (hp : (s.block b).power = .doze)
include hp

theorem wakeDoze_exits {y : RillFlit} (hy : s.localFlit (bcCell b) (fun y => y.flit.kind == kWAKE && y.flit.aux == 0) = some y) :
    completes (.wakeDoze b) s fun t => (t.block b).exiting = true ∧ (t.block b).power = .doze := by
  let u := s.modRt (bcCell b) fun r => r.takeLocal fun z => z == y
  have hpu : (u.block b).power = .doze := hp
  refine completes_next (u.wakeBlock b) rfl hb (by rw [hy]) ?_
  rw [u.wakeBlock_doze b hpu, State.keeping_block, State.block_modBlock_same, State.block_wakeRegion]
  exact ⟨rfl, hpu⟩

theorem blkPwrCtlHoldRun_exits (hr : (s.block b).regs.flag BLK_PWR_CTL_hold_run = true) :
    completes (.blkPwrCtlHoldRun b) s fun t => (t.block b).exiting = true ∧ t.cells = s.cells := by
  refine completes_next (s.wakeBlock b) rfl hb (if_pos hr) ?_
  rw [s.wakeBlock_doze b hp, State.keeping_block, State.block_modBlock_same]
  exact ⟨rfl, s.wakeRegion_cells _⟩

end waking

end doze

theorem wakeSleep_wakes {s : State} {r : Nat} {y : RillFlit} (hr : regionOk r = true)
    (hy : s.localFlit (rmCell r) (fun y => y.flit.kind == kWAKE) = some y) (ha : (s.region r).asleep = true) :
    completes (.wakeSleep r) s fun t => (t.region r).waking = true ∧ (t.region r).asleep = true := by
  let u := s.modRt (rmCell r) fun x => x.takeLocal fun z => z == y
  let w := u.when_ (y.flit.aux == 1) fun s => s.modRegionRegs r fun q => q.bump RGN_PWR_STAT_wake_reqs
  have hw : (w.region r).asleep = true := by
    simp only [w, State.when_]
    split
    · rw [State.modRegionRegs, State.region_modRegion_same]
      exact ha
    · exact ha
  refine completes_next (w.wakeRegion r) rfl hr (by rw [hy]) ?_
  rw [State.keeping_region, w.region_wakeRegion_asleep r hw]
  exact ⟨rfl, hw⟩

/-- Settles O30: into Doze, out of it with and without a held write, and the three wake triggers. -/
theorem dozeAndWake : Obligations.DozeAndWake := by
  intro s b hb
  refine ⟨fun hp ha hh hc hi hn => ?_, fun t0 hh ht hm => ?_, fun t0 hh ht hm hp => ?_, fun u off v mask row hp he hc hr h0 h1 => ?_,
    fun hp he hc => ?_, fun y hy hp => ?_, fun hr hp => ?_, fun r y hr hy ha => ?_⟩
  · exact dozeIdleReached_holds hb hp ha hh hc hi hn
  · exact dozeGate_dozes hb hh ht hm
  · exact dozeGate_aborts hb hh ht hm hp
  · exact dozeExitDone_writes hb hp he hc hr h0 h1
  · exact dozeExitDone_runs hb hp he hc
  · exact wakeDoze_exits hb hp hy
  · exact blkPwrCtlHoldRun_exits hb hp hr
  · exact wakeSleep_wakes hr hy ha

end Sys2Proof.Machine

namespace Sys2Proof.Machine

/-! ## Changes of one router in a row -/

theorem aput_aput {α : Type} (l : Assoc α) (k : Nat) (v w : α) : aput (aput l k v) k w = aput l k w := by
  induction l with
  | nil => simp [aput]
  | cons e r ih =>
    obtain ⟨a, b⟩ := e
    by_cases h1 : k < a
    · simp [aput, h1]
    · by_cases h2 : a = k <;> simp [aput, h1, h2, ih]

theorem Table.mod_mod {α : Type} (t : Table α) (k : Nat) (f g : α → α) : (t.mod k f).mod k g = t.mod k fun x => g (f x) := by
  rw [Table.mod, Table.get_mod_same]
  simp [Table.mod, Table.set, aput_aput]

theorem State.modRt_modRt (s : State) (c : Nat) (f g : Router → Router) : (s.modRt c f).modRt c g = s.modRt c fun r => g (f r) := by
  simp only [State.modRt, State.modCell, Table.mod_mod]

theorem State.onlyCell_modRt (s : State) (c : Nat) (f : Router → Router) : s.onlyCell (s.modRt c f) c := (s.within_modCell c _).only

/-! ## Flits that go down a context's tree (R275, R281, R282) -/

/-- A router after a tree flit of its own has gone to the outputs os. -/
def Router.sendTree (r : Router) (now : Nat) (os : List Nat) (f : Flit) : Router :=
  { r with rillIn := r.rillIn ++ os.map fun o => ⟨8 + o, now + (if f.kind == kGATHER then 1 else 0), f⟩ }

theorem State.forEach_treeSend (s : State) (c : Nat) (h : Router → Router) (f : Flit) (os : List Nat) :
    ((s.modRt c h).forEach os fun s o => s.treeSend c o f) = s.modRt c fun r => (h r).sendTree s.ncyc os f := by
  induction os generalizing h with
  | nil => simp [State.forEach, Router.sendTree]
  | cons o os ih =>
    have hs : (s.modRt c h).treeSend c o f = s.modRt c fun r => (h r).sendTree s.ncyc [o] f := s.modRt_modRt c h _
    have hi := ih fun r => (h r).sendTree s.ncyc [o] f
    simp only [State.forEach, List.foldl_cons] at hi ⊢
    rw [hs, hi]
    simp [Router.sendTree]

/-- The outputs down a context's tree depend on the trees Zhevber wrote and the router's own registers (R290). -/
theorem State.ctxDown_modRt (s : State) (x c : Nat) {h : Router → Router} (hh : (h (s.rt c)).treeSet = (s.rt c).treeSet) :
    (s.modRt c h).ctxDown x c = s.ctxDown x c := by
  simp only [State.ctxDown, State.ctxExpect, State.treeAt, State.rt_modRt_same, hh, State.modRt_chip, State.cget, State.regs_modRt]

/-- A BCAST is taken and goes down the tree. -/
theorem State.passBcast_eq (s : State) (c : Nat) (g : RillFlit) :
    s.passBcast c g = s.modRt c fun r =>
      (r.takeLocal fun y => y == g).sendTree s.ncyc (s.ctxDown (g.flit.dst.toNat % 16) c) { g.flit with src := BitVec.ofNat 14 c } := by
  rw [State.passBcast, State.treeDown, s.ctxDown_modRt _ c rfl, State.forEach_treeSend]

/-- The router of a cell that a RELEASE of context 0 has passed: a new generation has started. -/
def State.releasedRt (s : State) (c : Nat) (g : RillFlit) (r : Router) : Router :=
  ((r.takeLocal fun y => y == g).modCtx 0 fun _ => CtxRt.start (BitVec.ofNat 10 (g.flit.dst.toNat / 16) + 1)).sendTree s.ncyc (s.ctxDown 0 c)
    { g.flit with src := BitVec.ofNat 14 c }

/-- A RELEASE of context 0 is taken and goes down the tree; at the root the chip's registers tell the new generation. -/
theorem State.passRelease_zero (s : State) (c : Nat) (g : RillFlit) :
    s.passRelease c 0 g = s.modRt c (s.releasedRt c g) ∨ ∃ h, s.passRelease c 0 g = (s.modRt c (s.releasedRt c g)).modChipRegs h := by
  have hd : (s.modRt c fun r => (r.takeLocal fun y => y == g).modCtx 0 fun _ =>
      CtxRt.start (BitVec.ofNat 10 (g.flit.dst.toNat / 16) + 1)).ctxDown 0 c = s.ctxDown 0 c := s.ctxDown_modRt 0 c rfl
  rw [State.passRelease, if_neg (by decide), State.treeDown, hd, State.forEach_treeSend]
  split
  · exact .inr ⟨_, rfl⟩
  · exact .inl rfl

/-! ## Version states (R85) -/

theorem Router.verState_setVer (r : Router) (v w : Nat) (st : BitVec 2) :
    (r.setVer v st).verState w = if (v = 0 ↔ w = 0) then st else r.verState w := by
  unfold Router.setVer Router.verState
  by_cases hv : v = 0 <;> by_cases hw : w = 0 <;> simp [hv, hw]

@[simp] theorem Router.setVer_rillIn (r : Router) (v : Nat) (st : BitVec 2) : (r.setVer v st).rillIn = r.rillIn := by
  unfold Router.setVer
  split <;> rfl

theorem Router.verState_flip (r : Router) {n : Nat} (hn : n < 2) :
    (r.flip n).verState n = vACTIVE ∧
    (r.flip n).verState (1 - n) = (if r.verState (1 - n) = vACTIVE then vDRAINING else r.verState (1 - n)) := by
  have hf (w : Nat) : (r.flip n).verState w =
      ((r.setVer n vACTIVE).setVer (1 - n) (if r.verState (1 - n) == vACTIVE then vDRAINING else r.verState (1 - n))).verState w := rfl
  have hne : ¬(1 - n = 0 ↔ n = 0) := by omega
  simp only [hf, Router.verState_setVer, beq_iff_eq, hne, if_false, if_true]
  exact ⟨trivial, trivial⟩

/-! ## Units that a completed command leaves as they were -/

/-- The units of the die. -/
def State.units (s : State) : Table Cell × Table Block × Table Region × Table Link × Table Gateway :=
  (s.cells, s.blocks, s.regions, s.links, s.gws)

theorem State.sameUnits_iff_units (s t : State) : s.sameUnits t ↔ t.units = s.units := by
  simp only [State.sameUnits, State.units, Prod.mk.injEq]

theorem State.Posted.units {s t : State} (h : s.Posted t) : t.units = s.units :=
  (s.sameUnits_iff_units t).1 ⟨h.cells, h.blocks, h.regions, h.links, h.gws⟩

theorem State.Posted.chip_eq {s t : State} (h : s.Posted t) : t.chip = { s.chip with regs := t.chip.regs } := by
  rw [← h.chip]

theorem State.units_finishHeld (s : State) (m st d : Nat) (l : List Byte) : (s.finishHeld m st d l).units = s.units := by
  have hr : (s.respondMbx (s.cmdOf m) true st d l).units = s.units := by
    simp only [State.respondMbx]
    split <;> rfl
  unfold State.finishHeld State.finish
  split
  · split
    · exact (State.posted_post _ _ _ _ _).units.trans hr
    · exact hr
  · rfl

theorem State.units_flipDone (s : State) (f : Flip) : (s.flipDone f).units = s.units := by
  unfold State.flipDone
  refine (State.forEach_keeps State.units (fun t r => ?_) _ _).trans (State.posted_post _ _ _ _ _).units
  cases r with
  | command m op =>
    dsimp only
    split
    · exact State.units_finishHeld ..
    · split
      · exact State.units_finishHeld ..
      · rfl
  | _ => rfl

/-- What only cell c differs in, still only it does after steps that change no unit. -/
theorem State.onlyCell.of_units {s t u : State} {c : Nat} (h : s.onlyCell t c) (k : u.units = t.units) : s.onlyCell u c := by
  obtain ⟨hc, hb, hr, hl, hg⟩ := h
  obtain ⟨kc, kb, kr, kl, kg⟩ := (t.sameUnits_iff_units u).2 k
  exact ⟨fun d hd => (State.cell_congr kc d).trans (hc d hd), kb.trans hb, kr.trans hr, kl.trans hl, kg.trans hg⟩

/-! ## Cells whose clock runs (R409, R410) -/

theorem blockOf_of_mem_blockCells {b c : Nat} (h : c ∈ blockCells b) : blockOf c = b := by
  obtain ⟨i, hi, rfl⟩ := List.mem_map.1 h
  have := List.mem_range.1 hi
  simp only [blockOf, cx, cy, mkCell]
  omega

theorem State.stopped_congr {s t : State} (c : Nat) (h : ∀ b, (t.block b).power = (s.block b).power) : t.stopped c = s.stopped c := by
  simp only [State.stopped, h]

section allRunning

variable (s : State) (f : Cell → Cell)

@[simp] theorem State.allRunning_blocks : (s.allRunning f).blocks = s.blocks :=
  State.forEach_keeps State.blocks (fun _ _ => by rfl) _ { s with cells := s.cells.mapAll f }
@[simp] theorem State.allRunning_links : (s.allRunning f).links = s.links :=
  State.forEach_keeps State.links (fun _ _ => by rfl) _ { s with cells := s.cells.mapAll f }
@[simp] theorem State.allRunning_gws : (s.allRunning f).gws = s.gws :=
  State.forEach_keeps State.gws (fun _ _ => by rfl) _ { s with cells := s.cells.mapAll f }
@[simp] theorem State.allRunning_chip : (s.allRunning f).chip = s.chip :=
  State.forEach_keeps State.chip (fun _ _ => by rfl) _ { s with cells := s.cells.mapAll f }

theorem State.cell_forEach_set (u : Table Cell) {c : Nat} {l : List Nat} (h : c ∉ l) :
    (s.forEach l fun s d => { s with cells := s.cells.set d (u.get d) }).cell c = s.cell c := by
  induction l generalizing s with
  | nil => rfl
  | cons d l ih =>
    obtain ⟨hd, hl⟩ := not_or.1 (mt List.mem_cons.2 h)
    refine (ih _ hl).trans ?_
    simp [State.cell, Table.get_set, Ne.symm hd]

theorem State.cell_allRunning {c : Nat} (h : s.stopped c = false) : (s.allRunning f).cell c = f (s.cell c) := by
  refine (State.cell_forEach_set _ _ fun hm => ?_).trans (Table.get_mapAll _ _ _)
  obtain ⟨b, hb, hc⟩ := List.mem_flatMap.1 hm
  obtain ⟨-, hp⟩ := List.mem_filter.1 hb
  rw [← blockOf_of_mem_blockCells hc] at hp
  exact Bool.false_ne_true (h.symm.trans hp)

end allRunning

/-! ## Step 1 of a flip: the requests join it (R86, R310) -/

/-- The chip's state once the requests have joined a flip to a version of build b. -/
def Chip.joinFlip (h : Chip) (b : Build) (held : Nat → Int) : Chip :=
  { h.setBuild (1 - h.active) b with
    flip := some ⟨1, h.active, 1 - h.active, h.flipReqs, 0, [], held h.active.toNat⟩
    flipReqs := [] }

/-- The new version gets its build, the ACTIVE one keeps its own. -/
theorem Chip.builds_joinFlip (h : Chip) (b : Build) (held : Nat → Int) :
    (if (1 - h.active).toNat = 0 then (h.joinFlip b held).build0 else (h.joinFlip b held).build1) = b ∧
    (if h.active.toNat = 0 then (h.joinFlip b held).build0 else (h.joinFlip b held).build1) =
      (if h.active.toNat = 0 then h.build0 else h.build1) ∧
    (h.joinFlip b held).active = h.active := by
  rcases BitVec.eq_zero_or_eq_one h.active with ha | ha <;> simp [Chip.joinFlip, Chip.setBuild, ha]

theorem epochFlipStart_joins {s : State} (hz : s.zRuns = true) (hf : s.chip.flip = none) (hq : s.chip.flipReqs ≠ []) (hr : s.chip.routed = true)
    (hv : s.ctxValid 0 = true) :
    completes .epochFlipStart s fun t =>
      t.chip.flip = some ⟨1, s.chip.active, 1 - s.chip.active, s.chip.flipReqs, 0, [], s.fenceHeld s.chip.active.toNat⟩ ∧ t.chip.flipReqs = [] ∧
      t.build (1 - s.chip.active).toNat = s.newBuild ∧ t.build s.chip.active.toNat = s.build s.chip.active.toNat ∧
      t.chip.active = s.chip.active ∧ s.sameUnits t := by
  let u := if s.excOver then s.zRecord (mkRec 0x0A 3 0 7 0 0 0) else s
  have hp : s.Posted u := by
    simp only [u]
    split
    · exact s.posted_zRecord _
    · exact State.Posted.rfl s
  have ha : u.chip.active = s.chip.active := by rw [hp.chip_eq]
  have hreqs : u.chip.flipReqs = s.chip.flipReqs := by rw [hp.chip_eq]
  have hbuild : u.build s.chip.active.toNat = s.build s.chip.active.toNat := by rw [State.build, State.build, hp.chip_eq]
  have hempty : s.chip.flipReqs.isEmpty = false := by simpa using hq
  obtain ⟨hnew, hold, hact⟩ := u.chip.builds_joinFlip s.newBuild s.fenceHeld
  refine completes_next (u.modChip fun h => h.joinFlip s.newBuild s.fenceHeld) rfl rfl (if_neg (by simp [hz, hf, hempty, hr, hv])) ?_
  rw [ha] at hnew hold hact
  refine ⟨?_, rfl, hnew, hold.trans hbuild, hact, hp.cells, hp.blocks, hp.regions, hp.links, hp.gws⟩
  rw [← ha, ← hreqs]
  rfl

end Sys2Proof.Machine

namespace Sys2Proof.Machine

/-! ## Step 2: the rows of the new version stand in every running router (R86, R95, R411) -/

section installs

variable (s : State)

@[simp] theorem State.raiseGolden_blocks (n : Nat) : (s.raiseGolden n).blocks = s.blocks := by simp only [State.raiseGolden]; split <;> rfl
@[simp] theorem State.raiseGolden_links (n : Nat) : (s.raiseGolden n).links = s.links := by simp only [State.raiseGolden]; split <;> rfl
@[simp] theorem State.raiseGolden_gws (n : Nat) : (s.raiseGolden n).gws = s.gws := by simp only [State.raiseGolden]; split <;> rfl
@[simp] theorem State.raiseGolden_chip (n : Nat) : (s.raiseGolden n).chip = s.chip := by simp only [State.raiseGolden]; split <;> rfl

@[simp] theorem State.wakeBlock_cells (b : Nat) : (s.wakeBlock b).cells = s.cells := by
  simp only [State.wakeBlock]
  split_ifs <;> exact s.wakeRegion_cells _
@[simp] theorem State.wakeBlock_links (b : Nat) : (s.wakeBlock b).links = s.links := by
  simp only [State.wakeBlock]
  split_ifs <;> exact s.wakeRegion_links _
@[simp] theorem State.wakeBlock_gws (b : Nat) : (s.wakeBlock b).gws = s.gws := by
  simp only [State.wakeBlock]
  split_ifs <;> exact s.wakeRegion_gws _
@[simp] theorem State.wakeBlock_chip (b : Nat) : (s.wakeBlock b).chip = s.chip := by
  simp only [State.wakeBlock]
  split_ifs <;> exact s.wakeRegion_chip _

/-- A wake trigger leaves the power state of every block to the end of its exit. -/
theorem State.power_wakeBlock (b d : Nat) : ((s.wakeBlock b).block d).power = (s.block d).power := by
  simp only [State.wakeBlock]
  split_ifs <;> by_cases hd : b = d <;> simp [State.modBlockRegs, State.block_modBlock, hd]

/-- The dozing blocks wake for their rows. -/
def State.dozersWoken : State := s.forEach (allBlocks.filter fun b => (s.block b).power == .doze) fun s b => s.wakeBlock b

@[simp] theorem State.dozersWoken_cells : s.dozersWoken.cells = s.cells := State.forEach_keeps State.cells State.wakeBlock_cells _ s
@[simp] theorem State.dozersWoken_links : s.dozersWoken.links = s.links := State.forEach_keeps State.links State.wakeBlock_links _ s
@[simp] theorem State.dozersWoken_gws : s.dozersWoken.gws = s.gws := State.forEach_keeps State.gws State.wakeBlock_gws _ s
@[simp] theorem State.dozersWoken_chip : s.dozersWoken.chip = s.chip := State.forEach_keeps State.chip State.wakeBlock_chip _ s

@[simp] theorem State.stopped_dozersWoken (c : Nat) : s.dozersWoken.stopped c = s.stopped c :=
  State.stopped_congr c fun d => State.forEach_keeps (fun t => (t.block d).power) (fun t b => t.power_wakeBlock b d) _ s

@[simp] theorem State.noteArrival_cells (c x : Nat) : (s.noteArrival c x).cells = s.cells := by unfold State.noteArrival; split <;> rfl
@[simp] theorem State.noteArrival_links (c x : Nat) : (s.noteArrival c x).links = s.links := by unfold State.noteArrival; split <;> rfl
@[simp] theorem State.noteArrival_gws (c x : Nat) : (s.noteArrival c x).gws = s.gws := by unfold State.noteArrival; split <;> rfl
@[simp] theorem State.noteArrival_flip (c x : Nat) : (s.noteArrival c x).chip.flip = s.chip.flip := by
  unfold State.noteArrival
  split <;> rfl

end installs

/-- A cell in which the rows of build id stand as version n. -/
def Cell.installed (n id : Nat) (x : Cell) : Cell :=
  { x with rt := (if n = 0 then { x.rt with rows0 := id } else { x.rt with rows1 := id }).setVer n vREADY }

theorem Cell.verState_installed (n id : Nat) (x : Cell) : (x.installed n id).rt.verState n = vREADY := by
  rw [Cell.installed, Router.verState_setVer, if_pos Iff.rfl]

/-- A cell whose router has reported itself ready for version v in the barrier of context 0. -/
def Cell.reports (v : BitVec 1) (x : Cell) : Cell :=
  { x with rt := x.rt.modCtx 0 fun k => { k.add 0 (v.setWidth 64) with localDone := true } }

theorem Cell.localDone_reports (v : BitVec 1) (x : Cell) : ((x.reports v).rt.ctxRt 0).localDone = true := by
  simp [Cell.reports, Router.ctxRt, Router.modCtx]

/-- The rows of build id stand as version n in every running router, the dozing blocks wake, and every running router reports itself ready. -/
def State.readied (s : State) (n id : Nat) (v : BitVec 1) : State :=
  (s.allRunning (Cell.installed n id)).dozersWoken.allRunning (Cell.reports v)

section readied

variable (s : State) (n id : Nat) (v : BitVec 1)

@[simp] theorem State.readied_links : (s.readied n id v).links = s.links := by simp only [State.readied, State.allRunning_links, State.dozersWoken_links]
@[simp] theorem State.readied_gws : (s.readied n id v).gws = s.gws := by simp only [State.readied, State.allRunning_gws, State.dozersWoken_gws]
@[simp] theorem State.readied_chip : (s.readied n id v).chip = s.chip := by simp only [State.readied, State.allRunning_chip, State.dozersWoken_chip]

theorem State.cell_readied {c : Nat} (h : s.stopped c = false) : (s.readied n id v).cell c = ((s.cell c).installed n id).reports v := by
  have ha : (s.allRunning (Cell.installed n id)).stopped c = false :=
    (State.stopped_congr c fun b => congrArg Block.power (State.block_congr (s.allRunning_blocks _) b)).trans h
  rw [State.readied, State.cell_allRunning _ _ (by rwa [State.stopped_dozersWoken]), State.cell_congr (State.dozersWoken_cells _),
    State.cell_allRunning _ _ h]

end readied

theorem State.stopped_raiseGolden (s : State) (n c : Nat) : (s.raiseGolden n).stopped c = s.stopped c :=
  State.stopped_congr c fun b => congrArg Block.power (State.block_congr (s.raiseGolden_blocks n) b)

theorem State.cell_modFlip (s : State) (f : Flip → Flip) (c : Nat) : (s.modFlip f).cell c = s.cell c := rfl

@[simp] theorem State.keeping_flip (s old : State) : (s.keeping old).chip.flip = s.chip.flip := rfl
@[simp] theorem State.keeping_tally (s old : State) : (s.keeping old).chip.tally = s.chip.tally := rfl

theorem installDone_readies {s : State} {f : Flip} (hf : s.chip.flip = some f) (hs : f.step = 1) (hi : s.ctx0Idle = true) :
    completes .installDone s fun t =>
      t.chip.flip = some { f with step := 2 } ∧ (∀ c, cellOk c = true → s.stopped c = false →
        (t.rt c).verState f.new_.toNat = vREADY ∧ ((t.rt c).ctxRt 0).localDone = true) ∧ t.links = s.links ∧ t.gws = s.gws := by
  let n := f.new_.toNat
  let id := (s.build n).id
  let g := s.raiseGolden (s.longestPath (s.build n))
  let r := (g.allRunning (Cell.installed n id)).dozersWoken.cornerRoot
  refine completes_next (((g.readied n id f.new_).modFlip fun f => { f with step := 2 }).noteArrival r 0) rfl rfl ?_ ?_
  · simp only [hf]
    rw [if_neg (by simp [hs, hi]), if_pos hs]
    rfl
  · have hg : g.stopped = s.stopped := funext fun c => s.stopped_raiseGolden _ c
    have hchip : g.chip = s.chip := s.raiseGolden_chip _
    have hlinks : g.links = s.links := s.raiseGolden_links _
    have hgws : g.gws = s.gws := s.raiseGolden_gws _
    clear_value g
    refine ⟨?_, fun c _ hc => ?_, ?_, ?_⟩
    · simp [State.modFlip, hchip, hf]
    · rw [State.keeping_rt, State.rt, State.cell_congr (State.noteArrival_cells _ _ _), State.cell_modFlip,
        g.cell_readied n id f.new_ (by rwa [hg])]
      exact ⟨Cell.verState_installed n _ _, Cell.localDone_reports _ _⟩
    · simp [State.modFlip, hlinks]
    · simp [State.modFlip, hgws]

/-! ## Step 3: a router flips (R86) -/

theorem releaseFlip_flips {s : State} {c : Nat} {g : RillFlit} (hc : cellOk c = true)
    (hg : s.localFlit c (fun y => y.ofCtx kRELEASE 0 && y.action == 1) = some g) :
    completes (.releaseFlip c) s fun t =>
      let n := bits g.flit.payload.toNat 0 1
      (t.rt c).verState n = vACTIVE ∧ (t.rt c).verState (1 - n) = (if (s.rt c).verState (1 - n) = vACTIVE then vDRAINING else (s.rt c).verState (1 - n)) ∧
      (t.rt c).epochNext = some (BitVec.ofNat 1 n) ∧ t.cget c NI_INJ_CTL_inj_epoch = s.cget c NI_INJ_CTL_inj_epoch ∧ (∀ d, d ≠ c → t.cell d = s.cell d) ∧
      t.blocks = s.blocks ∧ t.regions = s.regions := by
  let n := bits g.flit.payload.toNat 0 1
  let p := s.passRelease c 0 g
  let u := if p.cornerRoot = c then p.modFlip fun f => { f with step := 3, unattrib0 := p.lostWord0 } else p
  let m := s.modRt c (s.releasedRt c g)
  have hp : p.cells = m.cells ∧ p.blocks = s.blocks ∧ p.regions = s.regions := by
    simp only [p]
    rcases s.passRelease_zero c g with h | ⟨k, h⟩ <;> rw [h] <;> exact ⟨rfl, rfl, rfl⟩
  obtain ⟨hcells, hblocks, hregions⟩ : u.cells = m.cells ∧ u.blocks = s.blocks ∧ u.regions = s.regions := by
    simp only [u]
    split <;> exact hp
  have hrt : u.rt c = s.releasedRt c g (s.rt c) := (congrArg Cell.rt (State.cell_congr hcells c)).trans (s.rt_modRt_same c _)
  obtain ⟨hnew, hold⟩ := (u.rt c).verState_flip (n := n) (Nat.mod_lt _ (by decide))
  refine completes_next (u.modRt c fun r => r.flip n) rfl hc (by rw [hg]) ?_
  rw [State.keeping_cget, State.cget, State.regs_modRt, State.cell_congr hcells, State.regs_modRt, State.keeping_rt, State.rt_modRt_same]
  refine ⟨hnew, ?_, rfl, rfl, fun d hd => ?_, hblocks, hregions⟩
  · rw [hold, hrt]
    rfl
  · exact ((u.onlyCell_modRt c fun r => r.flip n).1 d hd).trans ((State.cell_congr hcells d).trans ((s.onlyCell_modRt c _).1 d hd))

/-! ## Tallies (R90, R233, R282) -/

theorem bits_bcast_op (op arg : Nat) (h : op < 256) : bits (BitVec.ofNat 64 (op + arg % 2 ^ 56 * 2 ^ 8)).toNat 0 8 = op := by
  simp only [bits, BitVec.toNat_ofNat]
  omega

/-- A broadcast starts at the root's own router. -/
theorem State.broadcast_starts (s : State) (x : Nat) {op : Nat} (arg : Nat) (h : op < 256) :
    s.onlyCell (s.broadcast x op arg) (s.ctxRoot x) ∧
    ∃ b, ((s.broadcast x op arg).rt (s.ctxRoot x)).rillLocal = (s.rt (s.ctxRoot x)).rillLocal ++ [⟨4, s.ncyc, b⟩] ∧ b.kind = kBCAST ∧
      bits b.payload.toNat 0 8 = op :=
  ⟨s.onlyCell_modRt _ _, _, congrArg Router.rillLocal (s.rt_modRt_same _ _), rfl, bits_bcast_op op arg h⟩

theorem tallyTick_first {s : State} {f : Flip} (hf : s.chip.flip = some f) (hs : f.step = 4) (he : f.tallies = []) (hn : s.chip.tally = none)
    (hz : s.zRuns = true) (hv : s.ctxValid 0 = true) :
    completes .tallyTick s fun t =>
      t.chip.tally = some ⟨s.now + s.bcastLead, true⟩ ∧ s.onlyCell t (s.ctxRoot 0) ∧
      ∃ b, (t.rt (s.ctxRoot 0)).rillLocal = (s.rt (s.ctxRoot 0)).rillLocal ++ [⟨4, s.ncyc, b⟩] ∧ b.kind = kBCAST ∧ bits b.payload.toNat 0 8 = 1 := by
  let t := s.now + s.bcastLead
  refine completes_next ((s.broadcast 0 1 t).modChip fun h => { h with tally := some ⟨t, true⟩, lastTally := t }) rfl rfl
    (by simp [State.draining, hf, hs, he, hn, hz, hv, t]) ?_
  exact ⟨rfl, s.broadcast_starts 0 t (by decide)⟩

theorem Router.copyTally_copies {r : Router} {t0 now : Nat} (ht : r.tallyAt = some t0) (hc : r.tallyCopy = none) (hn : t0 ≤ now) :
    (r.copyTally now).tallyCopy = some [r.entered0, r.left0, r.entered1, r.left1, r.watchLive] ∧ (r.copyTally now).watchLive = 0 := by
  simp [Router.copyTally, ht, hc, hn]

@[simp] theorem State.rt_modCell_same (s : State) (c : Nat) (f : Cell → Cell) : (s.modCell c f).rt c = (f (s.cell c)).rt :=
  congrArg Cell.rt (s.cell_modCell_same c f)

@[simp] theorem State.cget_modCell_same (s : State) (c : Nat) (f : Cell → Cell) (x : Field) :
    (s.modCell c f).cget c x = (f (s.cell c)).regs.get x := congrArg (fun y => Cell.regs y |>.get x) (s.cell_modCell_same c f)

/-- The counts that a cell latches are read in its tally and watch registers (R100). -/
theorem Cell.get_latchTally (x : Cell) (t : Nat) (e0 l0 e1 l1 w : W32) :
    let r := (x.latchTally t [e0, l0, e1, l1, w]).regs
    r.get CELL_EPOCH_TALLY0_entered = e0.toNat ∧ r.get CELL_EPOCH_TALLY0_left = l0.toNat ∧ r.get CELL_EPOCH_TALLY1_entered = e1.toNat ∧
    r.get CELL_EPOCH_TALLY1_left = l1.toNat ∧ r.get CELL_CASC_WATCH_seen = w.toNat % 2 ^ CELL_CASC_WATCH_seen.len := by
  have hlt (v : W32) : v.toNat % 2 ^ 32 = v.toNat := Nat.mod_eq_of_lt v.isLt
  refine ⟨?_, ?_, ?_, ?_, Regs.get_set_same _ _ _ (by decide)⟩
  all_goals
    simp (disch := decide) only [Cell.latchTally, Regs.get_set_ne, Regs.get_set_same]
    exact hlt _

theorem tallyLatch_latches {s : State} {c t0 : Nat} {e0 l0 e1 l1 w : W32} (hc : cellOk c = true) (ht : (s.rt c).tallyAt = some t0)
    (hl : (s.rt c).tallyCopy = some [e0, l0, e1, l1, w]) (hs : s.stopped c = false) :
    completes (.tallyLatch c) s fun t =>
      t.cget c CELL_EPOCH_TALLY0_entered = e0.toNat ∧ t.cget c CELL_EPOCH_TALLY0_left = l0.toNat ∧
      t.cget c CELL_EPOCH_TALLY1_entered = e1.toNat ∧ t.cget c CELL_EPOCH_TALLY1_left = l1.toNat ∧
      t.cget c CELL_CASC_WATCH_seen = w.toNat % 2 ^ CELL_CASC_WATCH_seen.len ∧ (t.rt c).seen = w ∧ (t.rt c).tallyAt = none ∧
      (t.rt c).tallyCopy = none ∧ (t.rt c).latched = t0 ∧ s.onlyCell t c := by
  let l := [e0, l0, e1, l1, w]
  obtain ⟨h0, h1, h2, h3, h4⟩ := (s.cell c).get_latchTally t0 e0 l0 e1 l1 w
  refine completes_next (s.modCell c fun x => x.latchTally t0 l) rfl hc (by simp [ht, hl, hs, l]) ?_
  simp only [State.keeping_cget, State.cget_modCell_same, State.keeping_rt, State.rt_modCell_same]
  exact ⟨h0, h1, h2, h3, h4, rfl, rfl, rfl, rfl, (s.within_modCell c _).only⟩

/-! ## The end of a drain (R86, R90, R308) -/

theorem State.inFlight_congr {s t : State} (hc : t.cells = s.cells) (hb : t.blocks = s.blocks) (v : BitVec 1) : t.inFlight v = s.inFlight v := by
  simp only [State.inFlight, State.running, State.stopped, State.block_congr hb, State.cell_congr hc]

theorem drainEnds_zero (l : List Int) (a : Int) : drainEnds (0 :: l) a = true := rfl

theorem drainEnds_neg {n : Int} (h : n < 0) (l : List Int) (a : Int) : drainEnds (n :: l) a = false := by
  simp [drainEnds, h.ne, h.le]

/-- A watch in progress takes note of a tally in the chip's own state alone; tally and flip stay. -/
theorem State.judgeWatch_keeps (s : State) (t : Nat) :
    (s.judgeWatch t).cells = s.cells ∧ (s.judgeWatch t).blocks = s.blocks ∧ (s.judgeWatch t).chip.flip = s.chip.flip ∧
    (s.judgeWatch t).chip.tally = s.chip.tally := by
  unfold State.judgeWatch
  split
  · exact ⟨rfl, rfl, rfl, rfl⟩
  · split <;> exact ⟨rfl, rfl, rfl, rfl⟩

/-- At the end of a drain its flip is in step 5, with what is left as lost. -/
theorem State.endDrain_flip (s : State) (f : Flip) (left : Int) :
    (s.endDrain f left).chip.flip = (s.chip.flip.map fun f => { f with step := 5, lost := left }) ∧
    (s.endDrain f left).chip.tally = s.chip.tally := by
  let u := s.modFlip fun f => { f with step := 5, lost := left }
  let w := if 0 < left then u.zRecord (mkRec 0x0A 3 0 7 0 0 left.toNat) else u
  have hp : u.Posted w := by
    simp only [w]
    split
    · exact u.posted_zRecord _
    · exact State.Posted.rfl u
  have hd : (s.endDrain f left).chip = w.chip := rfl
  rw [hd, hp.chip_eq]
  exact ⟨rfl, rfl⟩

/-- A tally's sum joins the drain; a sum of zero ends it, a negative one does not. -/
theorem State.judgeDrain_flip {s : State} {f : Flip} (hf : s.chip.flip = some f) (hs : f.step = 4) :
    (s.judgeDrain f).chip.tally = s.chip.tally ∧
    ∃ g, (s.judgeDrain f).chip.flip = some g ∧ g.tallies = s.inFlight f.old :: f.tallies ∧ (s.inFlight f.old = 0 → g.step = 5) ∧
      (s.inFlight f.old < 0 → g.step = 4) := by
  unfold State.judgeDrain
  extract_lets n l u
  have hu : u.chip.flip = some { f with tallies := l } := by simp [u, State.modFlip, hf]
  have htally : u.chip.tally = s.chip.tally := rfl
  clear_value u
  split
  case isTrue h =>
    obtain ⟨hend, hkeep⟩ := u.endDrain_flip f n
    refine ⟨hkeep.trans htally, _, hend.trans (congrArg _ hu), rfl, fun _ => rfl, fun hn => ?_⟩
    exact absurd (h.symm.trans (drainEnds_neg hn _ _)) (by decide)
  case isFalse h =>
    have h0 : n ≠ 0 := fun h0 => h (by simp only [l, h0, drainEnds_zero])
    exact ⟨htally, _, hu, rfl, fun hn => absurd hn h0, fun _ => hs⟩

theorem tallyResult_judges {s : State} {y : Tally} {f : Flip} (ht : s.chip.tally = some y) (hd : y.drain = true)
    (hn : y.at_ + s.rillH + 14 ≤ s.now) (hl : (s.running.all fun c => (s.rt c).latched == y.at_) = true) (hf : s.chip.flip = some f)
    (hs : f.step = 4) :
    completes .tallyResult s fun t =>
      t.chip.tally = none ∧ ∃ g, t.chip.flip = some g ∧ g.tallies = s.inFlight f.old :: f.tallies ∧ (s.inFlight f.old = 0 → g.step = 5) ∧
        (s.inFlight f.old < 0 → g.step = 4) := by
  let u := s.modChip fun h => { h with tally := none }
  let w := u.judgeWatch y.at_
  obtain ⟨hcells, hblocks, hflip, htally⟩ := u.judgeWatch_keeps y.at_
  have hwf : w.chip.flip = some f := hflip.trans hf
  have hfl : w.inFlight f.old = s.inFlight f.old := State.inFlight_congr hcells hblocks f.old
  obtain ⟨hjt, hj⟩ := State.judgeDrain_flip hwf hs
  rw [hfl] at hj
  refine completes_next (w.judgeDrain f) rfl rfl ?_ ?_
  · rw [ht]
    dsimp only
    rw [if_neg (by simp [hl, hn])]
    split
    next g hg =>
      obtain rfl : g = f := Option.some.inj (hg.symm.trans hwf)
      exact if_pos (by simp [hd, hs])
    next hg => exact absurd (hg.symm.trans hwf) nofun
  · rw [State.keeping_tally, State.keeping_flip]
    exact ⟨hjt.trans htally, hj⟩

/-! ## Step 5: the old version is freed (R86) -/

theorem kind_of_bcastOf {s : State} {c op : Nat} {g : RillFlit} (hg : s.bcastOf c op = some g) : g.flit.kind = kBCAST := by
  have h := List.find?_some hg
  simp only [Bool.and_eq_true, beq_iff_eq] at h
  exact h.1

theorem bcastFree_frees {s : State} {c : Nat} {g : RillFlit} (hc : cellOk c = true) (hg : s.bcastOf c 3 = some g) :
    completes (.bcastFree c) s fun t =>
      (t.rt c).verState (bits g.flit.payload.toNat 8 1) = vFREE ∧ s.onlyCell t c ∧
      (t.rt c).rillIn = (s.rt c).rillIn ++
        (s.ctxDown (g.flit.dst.toNat % 16) c).map fun o => ⟨8 + o, s.ncyc, { g.flit with src := BitVec.ofNat 14 c }⟩ := by
  let v := bits g.flit.payload.toNat 8 1
  let os := s.ctxDown (g.flit.dst.toNat % 16) c
  let down := { g.flit with src := BitVec.ofNat 14 c }
  let u := (s.passBcast c g).modRt c fun r => r.setVer v vFREE
  have hu : u = s.modRt c fun r => ((r.takeLocal fun y => y == g).sendTree s.ncyc os down).setVer v vFREE := by
    simp only [u, State.passBcast_eq, State.modRt_modRt]
    rfl
  have hk : (down.kind == kGATHER) = false := by
    rw [show down.kind = kBCAST from kind_of_bcastOf hg]
    rfl
  have hrt : u.rt c = (((s.rt c).takeLocal fun y => y == g).sendTree s.ncyc os down).setVer v vFREE := by rw [hu, State.rt_modRt_same]
  have hver : (u.rt c).verState v = vFREE := by rw [hrt, Router.verState_setVer, if_pos Iff.rfl]
  have hin : (u.rt c).rillIn = (s.rt c).rillIn ++ os.map fun o => ⟨8 + o, s.ncyc, down⟩ := by
    rw [hrt, Router.setVer_rillIn]
    simp only [Router.sendTree, hk]
    rfl
  have honly : s.onlyCell u c := hu ▸ s.onlyCell_modRt c _
  have key (t : State) (ht : t.units = u.units) :
      (t.rt c).verState v = vFREE ∧ s.onlyCell t c ∧ (t.rt c).rillIn = (s.rt c).rillIn ++ os.map fun o => ⟨8 + o, s.ncyc, down⟩ := by
    obtain ⟨hcells, -⟩ := (u.sameUnits_iff_units t).2 ht
    rw [State.rt, State.cell_congr hcells, ← State.rt]
    exact ⟨hver, honly.of_units ht, hin⟩
  refine completes_onUnit rfl hc (key _ ?_)
  rw [hg]
  dsimp only
  split
  · change State.units (if _ then _ else _) = _
    split
    · exact State.units_flipDone _ _
    · rfl
  · rfl

/-- Settles O46, by the steps of a flip. -/
theorem epochFlips : Obligations.EpochFlips := by
  intro s
  refine ⟨fun hz hf hq hr hv => ?_, fun f hf hs hi => ?_, fun c g hc hg => ?_, fun f hf hs he hn hz hv => ?_, fun r t0 now ht hc hn => ?_,
    fun c t0 e0 l0 e1 l1 w hc ht hl hs => ?_, fun y f ht hd hn hl hf hs => ?_, fun c g hc hg => ?_⟩
  · exact epochFlipStart_joins hz hf hq hr hv
  · exact installDone_readies hf hs hi
  · exact releaseFlip_flips hc hg
  · exact tallyTick_first hf hs he hn hz hv
  · exact Router.copyTally_copies ht hc hn
  · exact tallyLatch_latches hc ht hl hs
  · exact tallyResult_judges ht hd hn hl hf hs
  · exact bcastFree_frees hc hg

end Sys2Proof.Machine

namespace Sys2Proof.Machine

/-! ## Bookkeeping of the NI at a head's injection (R97, R175, R180, R181, R469) -/

/-- The register fields of R81 that no bookkeeping of the NI writes: the forced entries counted, and the injection epoch. -/
def injFields : List Field := [NI_INJ_CNT_forced, NI_INJ_CTL_inj_epoch]

/-- t is s but for what cell c holds, and of that the fields of R81 are s's too. -/
structure State.Booked (s t : State) (c : Nat) : Prop extends s.Within t c where
  fields : ∀ f ∈ injFields, (t.cell c).regs.get f = (s.cell c).regs.get f

namespace State.Booked

variable {s t u : State} {c : Nat}

theorem refl (s : State) (c : Nat) : s.Booked s c := ⟨.refl s c, fun _ _ => rfl⟩

theorem trans (h : s.Booked t c) (k : t.Booked u c) : s.Booked u c :=
  ⟨h.toWithin.trans k.toWithin, fun f hf => (k.fields f hf).trans (h.fields f hf)⟩

/-- What the injection stamps on a packet is as it was. -/
theorem stamped (h : s.Booked t c) (pk : Packet) (age : Nat) : t.stamped c pk age = s.stamped c pk age := by
  simp only [State.stamped, State.cget, h.fields NI_INJ_CTL_inj_epoch (by decide)]

end State.Booked

section booked

variable (s : State) (c : Nat)

theorem State.booked_modCell {f : Cell → Cell} (h : (f (s.cell c)).regs = (s.cell c).regs) : s.Booked (s.modCell c f) c :=
  ⟨s.within_modCell c f, fun _ _ => by rw [State.cell_modCell_same, h]⟩

theorem State.booked_modNi (f : Ni → Ni) : s.Booked (s.modNi c f) c := s.booked_modCell c rfl

theorem State.booked_modCellRegs {f : Regs → Regs} (h : ∀ g ∈ injFields, (f (s.cell c).regs).get g = (s.cell c).regs.get g) :
    s.Booked (s.modCellRegs c f) c :=
  ⟨s.within_modCell c _, fun g hg => by rw [State.modCellRegs, State.cell_modCell_same]; exact h g hg⟩

/-- The tag counts have registers of their own (R469, R470). -/
theorem Regs.get_tagCount_tx (r : Regs) (tag : W32) {f : Field} (hf : f ∈ injFields) : (r.tagCount tag NI_TAG_CNT_tx).get f = r.get f := by
  have key (l : List Nat) (p : Regs → Nat → Bool) :
      (l.foldl (fun r i => if p r i then r.bump (NI_TAG_CNT_tx.at i) else r) r).get f = r.get f := by
    induction l generalizing r with
    | nil => rfl
    | cons i l ih =>
      rw [List.foldl_cons, ih]
      split
      · refine Regs.get_bump_ne r _ f (show NI_TAG_CNT_tx.fits by decide) (.inl ?_)
        simp only [injFields, List.mem_cons, List.not_mem_nil, or_false] at hf
        rcases hf with rfl | rfl <;> simp [Field.at, NI_TAG_CNT_tx, NI_INJ_CNT_forced, NI_INJ_CTL_inj_epoch] <;> omega
      · rfl
  exact key _ _

theorem State.booked_tagTx (tag : W32) : s.Booked (s.tagTx c tag) c := s.booked_modCellRegs c fun _ hg => Regs.get_tagCount_tx _ tag hg

theorem Cell.regs_writeStatus (x : Cell) (t : W64) (d : Desc) : (x.writeStatus t d).regs = x.regs := by unfold Cell.writeStatus; rfl

theorem State.booked_finishDesc (d : Desc) (st reason : Nat) : s.Booked (s.finishDesc c d st reason) c := by
  unfold State.finishDesc
  extract_lets d' u
  have hu : s.Booked u c := s.booked_modCell c (by simp only [Cell.regs_writeStatus])
  clear_value u
  split
  · exact hu
  · refine hu.trans (State.booked_modCellRegs _ c fun g hg => ?_)
    simp only [injFields, List.mem_cons, List.not_mem_nil, or_false] at hg
    rcases hg with rfl | rfl <;> exact Regs.get_bump_ne _ _ _ (by decide) (by decide)

theorem State.booked_strobe (n : Nat) : s.Booked (s.strobe c n) c := by
  simp only [State.strobe]
  split
  · exact State.Booked.trans (t := s.emit (.complete c n)) ⟨⟨rfl, rfl, fun _ _ => rfl, rfl, rfl, rfl, rfl⟩, fun _ _ => rfl⟩ (State.booked_modNi _ c _)
  · exact s.booked_modNi c _

theorem State.booked_advanceCi (r fuel : Nat) : s.Booked (s.advanceCi c r fuel) c := by
  induction fuel generalizing s with
  | zero => exact .refl s c
  | succ n ih =>
    rw [State.advanceCi]
    split
    · exact .refl s c
    next d _ =>
      split
      · extract_lets u v w
        have hu : s.Booked u c := by
          simp only [u]
          split
          · exact .refl s c
          · exact s.booked_finishDesc c d _ _
        have hv : s.Booked v c := hu.trans (u.booked_modNi c _)
        have hw : s.Booked w c := by
          simp only [w]
          split
          · exact hv.trans (v.booked_strobe c r)
          · exact hv
        exact hw.trans (ih w)
      · exact .refl s c

theorem State.booked_completeDesc (id st reason : Nat) : s.Booked (s.completeDesc c id st reason) c := by
  unfold State.completeDesc
  split
  · exact .refl s c
  · split
    · exact .refl s c
    · exact (s.booked_finishDesc c _ _ _).trans (State.booked_advanceCi _ c _ _)

theorem State.booked_checkWrite (id : Nat) : s.Booked (s.checkWrite c id) c := by
  unfold State.checkWrite
  split
  · exact .refl s c
  · split
    · exact s.booked_completeDesc c id _ _
    · exact .refl s c

theorem State.booked_checkSent (id : Nat) : s.Booked (s.checkSent c id) c := by
  unfold State.checkSent
  split
  · exact .refl s c
  · split
    · exact s.booked_completeDesc c id _ _
    · exact .refl s c

theorem State.booked_headSent (h : Head) : s.Booked (s.headSent c h) c := by
  unfold State.headSent
  split
  case h_1 t _ =>
    split
    · exact .refl s c
    next tk _ =>
      split
      · exact .refl s c
      · extract_lets read first tk' u
        have hu : s.Booked u c := s.booked_modNi c _
        clear_value u
        split
        · exact hu
        · split
          · exact hu.trans (u.booked_modNi c _)
          · exact hu.trans (u.booked_modNi c _)
          · exact hu
  case h_2 id _ =>
    extract_lets u
    have hu : s.Booked u c := s.booked_modNi c _
    clear_value u
    split
    · exact hu
    · split
      · split
        · exact (hu.trans (u.booked_modNi c _)).trans (State.booked_checkWrite _ c id)
        · exact hu
      · exact hu.trans (u.booked_checkSent c id)
  case h_3 => exact s.booked_modNi c _
  all_goals exact .refl s c

theorem State.head_clearHead (pl : Plane) : ((s.clearHead c pl).ni c).head pl = none := by
  rw [State.clearHead, State.ni_modNi_same, Ni.head]
  by_cases h : pl = .reply <;> simp [h]

/-- The source of a head that is no MNT takes note of its injection, and the plane has no head. -/
theorem State.booked_headGone (pl : Plane) {h : Head} (hm : ∀ p, h.src ≠ .mnt p) :
    s.Booked (s.headGone c pl h) c ∧ ((s.headGone c pl h).ni c).head pl = none := by
  have hg : s.headGone c pl h = ((s.tagTx c ((s.ni c).headTag h)).headSent c h).clearHead c pl := by
    unfold State.headGone
    split
    next p hp => exact absurd hp (hm p)
    next => rfl
  rw [hg]
  exact ⟨((s.booked_tagTx c _).trans (State.booked_headSent _ c h)).trans (State.booked_modNi _ c _), State.head_clearHead _ c pl⟩

end booked

/-! ## A head goes onto a mesh output (R81) -/

/-- An injection onto a mesh output leaves the NI and its registers alone. -/
theorem State.inject_keeps (s : State) {c p e : Nat} {pl : Plane} {pk : Packet} (tag : W32) (he : neighbor c p = some e)
    (ht : pk.type ≠ tTEL) :
    (s.inject c pl p pk tag).ni c = s.ni c ∧
    ∀ f : Field, f.off ∉ noteRegs → ((s.inject c pl p pk tag).cell c).regs.get f = (s.cell c).regs.get f := by
  let a := (s.take c pl 64).modRt c fun r => r.enter pk.epoch.toNat
  let b := (a.watch c pk.type pk.chanTree).spray c pl 4 true pk tag
  let d := (b.take c pl (BitVec.ofNat 7 (2 ^ p))).spray c pl (pointPort c p) false pk tag
  have hb : a.Noted b c := (a.noted_watch c _ _).trans (State.noted_spray _ c ..)
  have hd : s.inject c pl p pk tag = d.modRt e fun r => r.arrive pl ⟨oppPort p, d.ncyc + 2 + d.linkExtra c p, pk.regen⟩ := by
    have h : s.inject c pl p pk tag = d.drive c pl p pk := by
      simp [State.inject, State.driveOut, ht, d, b, a]
    simp only [h, State.drive, he]
  refine ⟨?_, fun f hf => ?_⟩
  · rw [hd, State.ni_modRt, (State.noted_spray _ c pl _ false pk tag).ni, State.ni_take, hb.ni, State.ni_modRt, State.ni_take]
  · rw [hd, State.regs_modRt, (State.noted_spray _ c pl _ false pk tag).regs f hf, State.regs_take, hb.regs f hf, State.regs_modRt,
      State.regs_take]

/-- After changes inside the cell a packet goes out; the plane has no head. -/
theorem State.Within.inject_mesh {s u : State} {c p e : Nat} {pl : Plane} {pk : Packet} (tag : W32) (hw : s.Within u c)
    (hh : (u.ni c).head pl = none) (hpl : dynPlane pl = true) (he : neighbor c p = some e) (ht : pk.type ≠ tTEL) :
    s.sentTo (u.inject c pl p pk tag) c p pl (· = pk.regen) ∧ ((u.inject c pl p pk tag).ni c).head pl = none ∧
    s.onlyLinkEnds (u.inject c pl p pk tag) c p := by
  obtain ⟨hs, ho, -⟩ := u.inject_mesh tag hpl he ht
  obtain ⟨hn, -⟩ := u.inject_keeps tag he ht
  exact ⟨hw.sentTo hs, by rw [hn, hh], hw.onlyLinkEnds ho⟩

theorem State.ni_noteDefl (s : State) (c : Nat) (pl : Plane) : (s.noteDefl c pl).ni c = s.ni c := by
  unfold State.noteDefl
  split
  · rw [State.ni_modRt, State.ni_bump]
  · rw [State.ni_bump]

/-- A deflection has a counter of its own (R98). -/
theorem State.forced_noteDefl (s : State) (c : Nat) (pl : Plane) :
    ((s.noteDefl c pl).cell c).regs.get NI_INJ_CNT_forced = (s.cell c).regs.get NI_INJ_CNT_forced := by
  rw [State.regs_noteDefl]
  cases pl <;> exact Regs.get_bump_ne _ _ _ (by decide) (by decide)

section heads

variable {s : State} {c p e : Nat} {pl : Plane} {h : Head} (hc : cellOk c = true) (hn : (s.ni c).hold = .none) (hpl : dynPlane pl = true)
  (hh : (s.ni c).head pl = some h) (hm : ∀ p, h.src ≠ .mnt p) (hw : (s.ni c).readsWait h.id = false)
  (hb : (s.ni c).badReads.contains h.id = false) (hl : s.isLocal c h.pkt = false) (hi : s.mayInject c pl = true)
  (ha : s.answersFirst c pl = false) (ht : h.pkt.type ≠ tTEL) (he : neighbor c p = some e)
include hc hn hpl hh hm hw hb hl hi ha ht he

theorem niHeadInject_sends (hp : s.injectPort c pl (s.stamped c h.pkt 0) = some p) :
    completes (.niHeadInject c pl) s fun t =>
      s.sentTo t c p pl (fun k => k = Packet.regen (s.stamped c h.pkt 0)) ∧ (t.ni c).head pl = none ∧ s.onlyLinkEnds t c p := by
  have hport : s.headPort c pl h (s.stamped c h.pkt 0) = some p := by
    unfold State.headPort
    split
    next q hq => exact absurd hq (hm q)
    next => exact hp
  have hl' : s.isLocal c (s.stamped c h.pkt 0) = false := hl
  have hb' : h.id ∉ (s.ni c).badReads := by simpa using hb
  obtain ⟨hg, hh'⟩ := s.booked_headGone c pl hm
  refine completes_next ((s.headGone c pl h).inject c pl p (s.stamped c h.pkt 0) ((s.ni c).headTag h)) rfl (by simp [Instr.wf, hc, hpl]) ?_ ?_
  · simp [State.injectHead, hh, hn, hw, hb', hl', ha, hi, hport]
  · exact hg.toWithin.inject_mesh _ hh' hpl he ht

theorem patienceExpire_forces (hx : s.impatient c h.since = true) (hp : s.injectPort c pl (s.stamped c h.pkt 0) = none)
    (hany : s.anyPort c pl = some p) :
    completes (.patienceExpire c pl) s fun t =>
      s.sentTo t c p pl (fun k => k = Packet.regen (s.stamped c h.pkt 1)) ∧ (t.ni c).head pl = none ∧
      (s.cell c).regs.counted (t.cell c).regs NI_INJ_CNT_forced ∧ s.onlyLinkEnds t c p := by
  let u := s.headGone c pl h
  let v := (u.noteDefl c pl).bump c NI_INJ_CNT_forced
  let pk := s.stamped c h.pkt 1
  let tag := (s.ni c).headTag h
  have hl' : s.isLocal c (s.stamped c h.pkt 0) = false := hl
  have hb' : h.id ∉ (s.ni c).badReads := by simpa using hb
  obtain ⟨hg, hh'⟩ := s.booked_headGone c pl hm
  have hv : s.Within v c := (hg.toWithin.trans (u.within_noteDefl c pl)).trans (State.within_modCell _ c _)
  have hhead : (v.ni c).head pl = none := by rw [State.ni_bump, State.ni_noteDefl, hh']
  obtain ⟨hs, hn', ho⟩ := hv.inject_mesh tag hhead hpl he (show pk.type ≠ tTEL from ht)
  obtain ⟨-, hregs⟩ := v.inject_keeps tag he (show pk.type ≠ tTEL from ht)
  refine completes_next (v.inject c pl p pk tag) rfl (by simp [Instr.wf, hc, hpl]) ?_ ⟨hs, hn', ?_, ho⟩
  · rw [if_neg (by simp [ha])]
    simp [State.forceHead, hh, hn, hw, hb', hl', hi, hx, hp, hany, State.forced, hg.stamped, pk, v, u, tag]
  · rw [Regs.counted, State.keeping_cell, hregs _ (by decide), State.regs_bump, Regs.get_bump_same _ _ (by decide), State.forced_noteDefl,
      hg.fields _ (by decide)]

end heads

/-! ## Selection of a head (R195) -/

theorem State.sample_watch (s : State) (c : Nat) (t : BitVec 4) (tree : BitVec 12) : ((s.watch c t tree).rt c).sample = (s.rt c).sample := by
  simp only [State.watch]
  split
  · rw [State.rt_modRt_same]
  · rfl

section setHead

variable (s : State) (c : Nat) (pl : Plane) (pk : Packet) (src : PktSrc) (id : Nat)

/-- A packet made the head of a plane waits from this ncyc on. -/
theorem State.head_setHead : ((s.setHead c pl pk src id).ni c).head pl = some ⟨pk, s.ncyc, src, id⟩ := by
  rw [State.setHead, (State.noted_watch _ c _ _).ni, State.ni_modNi_same, Ni.head]
  by_cases h : pl = .reply <;> simp [h, Ni.note]

theorem State.within_setHead : s.Within (s.setHead c pl pk src id) c := (s.within_modCell c _).trans (State.noted_watch _ c _ _).toWithin

theorem State.sample_setHead : ((s.setHead c pl pk src id).rt c).sample = (s.rt c).sample := by
  rw [State.setHead, State.sample_watch, State.rt_modNi]

theorem State.head_setHeadNew : ((s.setHeadNew c pl pk src).ni c).head pl = some ⟨pk, s.ncyc, src, (s.ni c).nextId⟩ := by
  rw [State.setHeadNew, State.ni_modNi_same]
  exact s.head_setHead ..

theorem State.within_setHeadNew : s.Within (s.setHeadNew c pl pk src) c := (s.within_setHead c ..).trans (State.within_modCell _ c _)

theorem State.sample_setHeadNew : ((s.setHeadNew c pl pk src).rt c).sample = (s.rt c).sample := by
  rw [State.setHeadNew, State.rt_modNi, State.sample_setHead]

end setHead

/-- The once-per-ncyc note of a plane's selection (R195). -/
def selNote (pl : Plane) : Nat := if pl = .reply then dSelRep else dSelReq

/-- The state in which the selection of a plane is noted for this ncyc. -/
def State.selecting (s : State) (c : Nat) (pl : Plane) : State := s.modNi c fun x => x.note (selNote pl) s.ncyc

theorem State.ni_selecting (s : State) (c : Nat) (pl : Plane) : (s.selecting c pl).ni c = (s.ni c).note (selNote pl) s.ncyc :=
  s.ni_modNi_same c _

/-- The selection of a plane, noted. -/
def State.selection (s : State) (c : Nat) (pl : Plane) : State :=
  if pl = .reply then (s.selecting c pl).selectReply c else (s.selecting c pl).selectRequest c

theorem State.selection_request (s : State) (c : Nat) : s.selection c .request = (s.selecting c .request).selectRequest c := rfl

theorem State.selection_reply (s : State) (c : Nat) : s.selection c .reply = (s.selecting c .reply).selectReply c := rfl

/-- A plane without a head, its selection not yet made in this ncyc, of an NI in service, selects. -/
theorem injectionSelect_selects {s t : State} {c : Nat} {pl : Plane} {P : State → Prop} (hc : cellOk c = true) (hpl : dynPlane pl = true)
    (hn : (s.ni c).hold = .none) (hh : (s.ni c).head pl = none) (hd : (s.ni c).didNow (selNote pl) s.ncyc = false)
    (ht : s.selection c pl = t) (hP : P (t.keeping s)) :
    completes (.injectionSelect c pl) s P := by
  refine completes_next t rfl (by simp [Instr.wf, hc, hpl]) ?_ hP
  rw [selNote] at hd
  dsimp only
  rw [if_neg (by simp [hh, hd]), if_neg (by simp [hn]), if_neg (by simp [hn])]
  exact ht

/-! ### The combine engine's output goes first (R252) -/

theorem State.selectCombine_some {s : State} {c key : Nat} {g : RangeRt} {p : Packet} {r : List Packet} (ho : (s.ni c).oldestEmit = some (key, g))
    (hg : g.outp = p :: r) : ∃ (u : State) (id : Nat), s.selectCombine c = some (u.setHead c .request p .combine id) ∧ u.ncyc = s.ncyc := by
  unfold State.selectCombine
  rw [ho]
  dsimp only
  rw [hg]
  refine ⟨_, _, rfl, ?_⟩
  split <;> rfl

theorem injectionSelect_combine {s : State} {c key : Nat} {g : RangeRt} {p : Packet} {r : List Packet} (hc : cellOk c = true)
    (hn : (s.ni c).hold = .none) (hh : (s.ni c).headReq = none) (hd : (s.ni c).didNow dSelReq s.ncyc = false)
    (hf : (s.ni c).fountServer = none) (ho : (s.ni c).oldestEmit = some (key, g)) (hg : g.outp = p :: r) :
    completes (.injectionSelect c .request) s fun t =>
      ∃ h, (t.ni c).headReq = some h ∧ h.pkt = p ∧ h.src = .combine ∧ h.since = s.ncyc := by
  have hni := s.ni_selecting c .request
  obtain ⟨u, id, hu, hncyc⟩ := State.selectCombine_some (s := s.selecting c .request) (by rw [hni]; exact ho) hg
  have hsel : s.selection c .request = u.setHead c .request p .combine id := by
    rw [State.selection_request, State.selectRequest, hu, if_neg]
    rw [hni, show ((s.ni c).note _ _).fountServer = none from hf]
    decide
  refine injectionSelect_selects hc rfl hn hh hd hsel ⟨⟨p, u.ncyc, .combine, id⟩, ?_, rfl, rfl, hncyc⟩
  rw [State.keeping_ni]
  exact u.head_setHead c .request p .combine id

/-! ### A sample waits on the reply plane (R473) -/

theorem injectionSelect_sample {s : State} {c : Nat} {m : SpraySample} (hc : cellOk c = true) (hn : (s.ni c).hold = .none)
    (hh : (s.ni c).headRep = none) (hd : (s.ni c).didNow dSelRep s.ncyc = false) (hs : (s.ni c).serves = []) (hm : (s.rt c).sample = some m)
    (hk : cellOk (s.cget c CELL_SPRAY_CTL_collector) = true) :
    completes (.injectionSelect c .reply) s fun t =>
      (∃ h, (t.ni c).headRep = some h ∧ h.pkt = s.telPacket c m ∧ h.src = .tel) ∧ (t.rt c).sample = none ∧ s.onlyCell t c := by
  let v := s.selecting c .reply
  let w := v.modRt c fun r => { r with sample := none }
  have hvs : (v.ni c).serves = [] := (congrArg Ni.serves (s.ni_selecting c .reply)).trans hs
  have hrt : v.rt c = s.rt c := s.rt_modNi c c _
  have hget (f : Field) : v.cget c f = s.cget c f := congrArg (Regs.get · f) (s.regs_modNi c c _)
  have htel : v.telPacket c m = s.telPacket c m := by
    simp only [State.telPacket, hget, hrt]
    rfl
  have hsel : s.selection c .reply = w.setHeadNew c .reply (s.telPacket c m) .tel := by
    rw [State.selection_reply, show s.selecting c .reply = v from rfl]
    simp [State.selectReply, hvs, pickFlow, leastFlow, hrt, hm, hget, hk, htel, w]
  refine injectionSelect_selects hc rfl hn hh hd hsel ⟨⟨_, w.head_setHeadNew c .reply _ _, rfl, rfl⟩, ?_, ?_⟩
  · rw [State.keeping_rt, State.sample_setHeadNew, State.rt_modRt_same]
  · exact (((s.within_modCell c _).trans (v.within_modCell c _)).trans (w.within_setHeadNew c ..)).only

/-! ### A message channel's packet (R139, R198, R202) -/

/-- t is s but for what the NI of cell c keeps of weirs, finish tags and selections: its descriptors, channels, tokens and request head are s's, as are
its registers. -/
structure State.SameWork (s t : State) (c : Nat) : Prop extends s.Within t c where
  regs : (t.cell c).regs = (s.cell c).regs
  descs : (t.ni c).descs = (s.ni c).descs
  chans : (t.ni c).chans = (s.ni c).chans
  tokens : (t.ni c).tokens = (s.ni c).tokens
  headReq : (t.ni c).headReq = (s.ni c).headReq

namespace State.SameWork

variable {s t u : State} {c : Nat}

theorem refl (s : State) (c : Nat) : s.SameWork s c := ⟨.refl s c, rfl, rfl, rfl, rfl, rfl⟩

theorem trans (h : s.SameWork t c) (k : t.SameWork u c) : s.SameWork u c :=
  ⟨h.toWithin.trans k.toWithin, k.regs.trans h.regs, k.descs.trans h.descs, k.chans.trans h.chans, k.tokens.trans h.tokens,
    k.headReq.trans h.headReq⟩

end State.SameWork

theorem State.sameWork_modNi (s : State) (c : Nat) {f : Ni → Ni} (hd : (f (s.ni c)).descs = (s.ni c).descs)
    (hc : (f (s.ni c)).chans = (s.ni c).chans) (ht : (f (s.ni c)).tokens = (s.ni c).tokens) (hh : (f (s.ni c)).headReq = (s.ni c).headReq) :
    s.SameWork (s.modNi c f) c where
  toWithin := s.within_modCell c _
  regs := s.regs_modNi c c f
  descs := by rw [State.ni_modNi_same, hd]
  chans := by rw [State.ni_modNi_same, hc]
  tokens := by rw [State.ni_modNi_same, ht]
  headReq := by rw [State.ni_modNi_same, hh]

/-! An NI without descriptors has no flow but its channels'. -/

section idle

variable {x : Ni} (h : x.descs = [])
include h

theorem Ni.sending_idle (r : Nat) : x.sending r = none := by simp [Ni.sending, h]

theorem Ni.slipping_idle : x.slipping = none := by simp [Ni.slipping, Ni.sending_idle h]

end idle

section flows

variable {s : State} {c : Nat} (h : (s.ni c).descs = [])
include h

theorem State.ringFlow_idle (r : Nat) (keep : Bool) : (s.ringFlow c r keep).2 = none ∧ s.SameWork (s.ringFlow c r keep).1 c := by
  simp only [State.ringFlow, Ni.sending_idle h]
  exact ⟨trivial, s.sameWork_modNi c rfl rfl rfl rfl⟩

theorem State.slipFlow_idle (keep : Bool) : (s.slipFlow c keep).2 = none ∧ s.SameWork (s.slipFlow c keep).1 c := by
  simp only [State.slipFlow, Ni.slipping_idle h]
  exact ⟨trivial, s.sameWork_modNi c rfl rfl rfl rfl⟩

theorem State.slipDrop_idle : s.slipDrop c = s := by rw [State.slipDrop, Ni.slipping_idle h]

theorem State.msgTokens_idle : s.msgTokens c = s := by rw [State.msgTokens, h]; rfl

end flows

/-- A flow's step joined to the flows found before it. -/
def joinFlow (a : State × List Flow) (r : State × Option Flow) : State × List Flow := (r.1, a.2 ++ r.2.toList)

theorem State.ringFlows_idle {c : Nat} {keep : Bool} (l : List Nat) {a : State × List Flow} (h : (a.1.ni c).descs = []) :
    (l.foldl (fun a r => joinFlow a (a.1.ringFlow c r keep)) a).2 = a.2 ∧
    a.1.SameWork (l.foldl (fun a r => joinFlow a (a.1.ringFlow c r keep)) a).1 c := by
  induction l generalizing a with
  | nil => exact ⟨rfl, .refl _ c⟩
  | cons r l ih =>
    obtain ⟨hnone, hwork⟩ := State.ringFlow_idle h r keep
    obtain ⟨hl, hw⟩ := ih (a := joinFlow a (a.1.ringFlow c r keep)) (hwork.descs.trans h)
    exact ⟨hl.trans (by simp [joinFlow, hnone]), hwork.trans hw⟩

/-- The one flow of an NI without descriptors is its channel's. -/
theorem State.requestFlows_single {s u : State} {c ch : Nat} {k : Chan} {f : Flow} {keep : Bool} (hc : (s.ni c).chans = [(ch, k)])
    (hf : s.chanFlow c ch keep = (u, some f)) (hd : (u.ni c).descs = []) :
    ∃ t, s.requestFlows c keep = (t, [f]) ∧ u.SameWork t c := by
  let a := (List.range 4).foldl (fun a r => joinFlow a (a.1.ringFlow c r keep)) (u, [f])
  obtain ⟨hl, hw⟩ := State.ringFlows_idle (keep := keep) (List.range 4) (a := (u, [f])) hd
  obtain ⟨hnone, hs⟩ := State.slipFlow_idle (s := a.1) (c := c) (hw.descs.trans hd) keep
  have hr : s.requestFlows c keep = joinFlow a (a.1.slipFlow c keep) := by
    rw [State.requestFlows, hc]
    simp only [List.map_cons, List.map_nil, List.foldl_cons, List.foldl_nil, hf]
    rfl
  exact ⟨(a.1.slipFlow c keep).1, by rw [hr, joinFlow, hnone, hl]; rfl, hw.trans hs⟩

theorem pickFlow_single {f : Flow} (h : f.eligible = true) : pickFlow [f] = some f := by
  cases hf : f.fresh <;> simp [pickFlow, leastFlow, h, hf]

theorem Ni.chanNext_congr {x y : Ni} (ht : y.tokens = x.tokens) (hh : y.headReq = x.headReq) (ch : Nat) : y.chanNext ch = x.chanNext ch := by
  simp only [Ni.chanNext, Ni.chanTokens, ht, hh]

theorem Cell.owner_congr {x y : Cell} (h : y.regs = x.regs) : y.owner = x.owner := by rw [Cell.owner, h, ← Cell.owner]

theorem State.police_unowned {s : State} {c : Nat} (h : (s.cell c).owner = 0) : s.police c = (s, false) := by simp [State.police, h]

section channel

variable {s : State} {c ch tok : Nat} {k : Chan} {tk : Token} (hk : aget (s.ni c).chans ch = some k) (hn : (s.ni c).chanNext ch = some (tok, tk))
include hk hn

/-- A privileged channel with a token in its window is eligible (R139, R198, R199). -/
theorem State.chanFlow_eligible (hp : k.e.privileged = true) (hw : (s.ni c).inWindow ch tk.seq = true) :
    ∃ (F : Chan → Chan) (f : Flow), s.chanFlow c ch false = (s.modNi c fun x => x.modChan ch F, some f) ∧ f.id = .chan ch ∧ f.eligible = true := by
  simp only [State.chanFlow, hk, hn]
  exact ⟨_, _, rfl, rfl, by simp [ChanEntry.accrue, hp, hw]⟩

/-- A cell of parterre 0 has no spillway: the packet selected becomes the head (R202). -/
theorem State.selectChan_unpoliced (ho : (s.cell c).owner = 0) (next : W32) :
    ∃ u, s.selectChan c ch next = u.setHead c .request tk.pkt (.token tok) tk.order ∧ s.Within u c := by
  let w := s.modNi c fun x => x.modChan ch fun k =>
    { k with e := { k.e with finish := next, credit := if k.e.privileged then k.e.credit else k.e.credit - 65536 }, hasTag := true, eligible := true }
  have hw : w.police c = (w, false) := State.police_unowned ((Cell.owner_congr (s.regs_modNi c c _)).trans ho)
  refine ⟨w, ?_, s.within_modCell c _⟩
  simp only [State.selectChan, hk, hn]
  rw [hw]
  rfl

end channel

/-- A privileged channel with a token in its window is selected, where nothing else has a packet. -/
theorem State.selectFlow_single {s : State} {c ch tok : Nat} {k : Chan} {tk : Token} (hd : (s.ni c).descs = []) (hc : (s.ni c).chans = [(ch, k)])
    (hn : (s.ni c).chanNext ch = some (tok, tk)) (hp : k.e.privileged = true) (hw : (s.ni c).inWindow ch tk.seq = true)
    (ho : (s.cell c).owner = 0) :
    ∃ u : State, s.selectFlow c = (u.setHead c .request tk.pkt (.token tok) tk.order, true) ∧ s.Within u c := by
  have hk : aget (s.ni c).chans ch = some k := by simp [hc, aget]
  obtain ⟨F, f, hf, hid, hel⟩ := State.chanFlow_eligible hk hn hp hw
  let v := s.modNi c fun x => x.modChan ch F
  have hv : v.ni c = { s.ni c with chans := [(ch, F k)] } := by
    rw [State.ni_modNi_same, Ni.modChan, hk]
    simp [hc, aput]
  obtain ⟨t, hr, ht⟩ := State.requestFlows_single hc hf (show (v.ni c).descs = [] by rw [hv]; exact hd)
  let w := t.modNi c fun x => { x with vReq := f.tag }.note dHead s.ncyc
  have htw : t.SameWork w c := t.sameWork_modNi c rfl rfl rfl rfl
  have hvw : v.SameWork w c := ht.trans htw
  have hwk : aget (w.ni c).chans ch = some (F k) := by rw [hvw.chans, hv]; simp [aget]
  have hwn : (w.ni c).chanNext ch = some (tok, tk) := by
    rw [Ni.chanNext_congr hvw.tokens hvw.headReq, hv]
    exact hn
  have hwo : (w.cell c).owner = 0 := (Cell.owner_congr (hvw.regs.trans (s.regs_modNi c c _))).trans ho
  obtain ⟨u, hu, hwu⟩ := State.selectChan_unpoliced hwk hwn hwo (f.tag + f.cost)
  refine ⟨u, ?_, ((s.within_modCell c _).trans hvw.toWithin).trans hwu⟩
  rw [State.selectFlow, State.slipDrop_idle hd, State.msgTokens_idle hd, hr]
  simp only [pickFlow_single hel, hid]
  rw [← hu]

theorem State.selectCombine_none {s : State} {c : Nat} (h : (s.ni c).oldestEmit = none) : s.selectCombine c = none := by
  rw [State.selectCombine, h]

theorem injectionSelect_channel {s : State} {c ch tok : Nat} {k : Chan} {tk : Token} (hc : cellOk c = true) (hn : (s.ni c).hold = .none)
    (hh : (s.ni c).headReq = none) (hd : (s.ni c).didNow dSelReq s.ncyc = false) (hf : (s.ni c).fountServer = none)
    (ho : (s.ni c).oldestEmit = none) (hds : (s.ni c).descs = []) (hcs : (s.ni c).chans = [(ch, k)])
    (hnext : (s.ni c).chanNext ch = some (tok, tk)) (hp : k.e.privileged = true) (hw : (s.ni c).inWindow ch tk.seq = true)
    (hown : (s.cell c).owner = 0) :
    completes (.injectionSelect c .request) s fun t =>
      ∃ h, (t.ni c).headReq = some h ∧ h.pkt = tk.pkt ∧ h.src = .token tok ∧ h.since = s.ncyc ∧ s.onlyCell t c := by
  have hni := s.ni_selecting c .request
  obtain ⟨u, hu, hvu⟩ := State.selectFlow_single (s := s.selecting c .request) (c := c) (by rw [hni]; exact hds)
    (by rw [hni]; exact hcs) (by rw [hni]; exact hnext) hp (by rw [hni]; exact hw) ((Cell.owner_congr (s.regs_modNi c c _)).trans hown)
  have hsel : s.selection c .request = u.setHead c .request tk.pkt (.token tok) tk.order := by
    rw [State.selection_request, State.selectRequest, State.selectCombine_none (by rw [hni]; exact ho), hu, if_neg]
    rw [hni, show ((s.ni c).note _ _).fountServer = none from hf]
    decide
  have hsu : s.Within u c := (s.within_modCell c _).trans hvu
  refine injectionSelect_selects hc rfl hn hh hd hsel ⟨⟨tk.pkt, u.ncyc, .token tok, tk.order⟩, ?_, rfl, rfl, hsu.ncyc, ?_⟩
  · rw [State.keeping_ni]
    exact u.head_setHead c .request tk.pkt (.token tok) tk.order
  · exact (hsu.trans (u.within_setHead c .request tk.pkt (.token tok) tk.order)).only

/-- Settles O49: the selections, then the head's injection and the end of its patience. -/
theorem niInjection : Obligations.NiInjection := by
  intro s c hc hn
  refine ⟨fun hh hd hf => ⟨fun key g p r ho hg => ?_, fun ch k tok tk ho hds hcs hnext hp hw hown => ?_⟩, fun m hh hd hs hm hk => ?_,
    fun pl h hpl hh hm hw hb hl hi ha ht => ⟨fun p e hp he => ?_, fun p e hx hp hany he => ?_⟩⟩
  · exact injectionSelect_combine hc hn hh hd hf ho hg
  · exact injectionSelect_channel hc hn hh hd hf ho hds hcs hnext hp hw hown
  · exact injectionSelect_sample hc hn hh hd hs hm hk
  · exact niHeadInject_sends hc hn hpl hh hm hw hb hl hi ha ht he hp
  · exact patienceExpire_forces hc hn hpl hh hm hw hb hl hi ha ht he hx hp hany

end Sys2Proof.Machine

namespace Sys2Proof.Machine

/-! ## What a response leaves as it was (R423, R435, R464) -/

/-- t is u but for mailboxes, event rings and the registers of the chip; t's integration parameters are those of the command's first state (R503). -/
structure State.Responded (u t : State) : Prop where
  units : t.units = u.units
  files : t.ftn.files = u.ftn.files
  chip : ∃ regs integ, t.chip = { u.chip with regs := regs, integ := integ }

theorem State.Posted.responded {u v t : State} (h : v.Posted t) (k : u.Responded v) : u.Responded t := by
  obtain ⟨hu, hf, regs, integ, hc⟩ := k
  exact ⟨h.units.trans hu, h.files.trans hf, _, integ, by rw [h.chip_eq, hc]⟩

theorem State.responded_respondMbx (u : State) (k : Cmd) (a : Bool) (st d : Nat) (r : List Byte) : u.Responded (u.respondMbx k a st d r) := by
  simp only [State.respondMbx]
  split <;> exact ⟨rfl, rfl, _, _, rfl⟩

theorem State.responded_finish (u : State) (k : Cmd) (st d : Nat) (r : List Byte) : u.Responded (u.finish k st d r) := by
  have h := u.responded_respondMbx k true st d r
  simp only [State.finish]
  split
  · exact (State.posted_post _ _ _ _ _).responded h
  · exact h

theorem State.Responded.keeping {u t : State} (h : u.Responded t) (old : State) : u.Responded (t.keeping old) := by
  obtain ⟨hu, hf, regs, integ, hc⟩ := h
  exact ⟨hu, hf, regs, _, by rw [State.keeping_chip, hc]⟩

theorem State.Responded.cells {u t : State} (h : u.Responded t) : t.cells = u.cells := congrArg Prod.fst h.units

theorem State.Responded.sameUnits {s u t : State} (h : u.Responded t) (k : u.units = s.units) : s.sameUnits t :=
  (s.sameUnits_iff_units t).2 (h.units.trans k)

@[simp] theorem State.units_modChip (s : State) (f : Chip → Chip) : (s.modChip f).units = s.units := rfl

@[simp] theorem State.units_modFtn (s : State) (f : Ftn → Ftn) : (s.modFtn f).units = s.units := rfl

@[simp] theorem State.units_accepted (s : State) (m : Nat) : (s.accepted m).units = s.units := by simp [State.units]

theorem State.accepts_mailboxOk {s : State} {m op : Nat} (h : s.accepts m op = true) : mailboxOk m = true := decide_eq_true (s.accepts_lt h)

/-- A mailbox command that is accepted and finishes from state u answers; beyond the response its outcome is u. -/
theorem completes_finish {i : Instr} {s v u : State} {m op st d : Nat} {r : List Byte} {P : State → Prop} (h : s.accepts m op = true)
    (he : exec i s = onUnit (mailboxOk m) s v) (hv : v = u.finish (s.cmdOf m) st d r) (hst : st < 256) (hP : ∀ t, u.Responded t → P t) :
    completes i s fun t => t.answers m op st d ∧ P t :=
  ⟨_, he.trans (onUnit_of (State.accepts_mailboxOk h) s v), hv ▸ s.accepted_finish_answers h u st d r hst,
    hP _ (hv ▸ (u.responded_finish _ st d r).keeping s)⟩

@[simp] theorem State.now_accepted (s : State) (m : Nat) : (s.accepted m).now = s.now := by simp [State.now]

@[simp] theorem State.bank_accepted (s : State) (m : Nat) : (s.accepted m).bank = s.bank := by simp [State.bank]

@[simp] theorem State.boundary_accepted (s : State) (m n : Nat) : (s.accepted m).boundary n = s.boundary n := by
  simp only [State.boundary, State.now_accepted, State.bank_accepted]

@[simp] theorem State.spare_accepted (s : State) (m : Nat) : (s.accepted m).spare = s.spare := by simp [State.spare]

/-! ## SCHED_SWITCH and SCHED_STOP (R105) -/

theorem Chip.setSpare_activeBank (h : Chip) (b : Bank) : (h.setSpare b).activeBank = h.activeBank := by
  unfold Chip.setSpare
  split <;> rfl

/-- Writing the spare bank leaves the bank in use; the spare one is what was written. -/
theorem State.banks_setSpare {s t : State} {b : Bank} (h0 : t.chip.activeBank = s.chip.activeBank)
    (h1 : t.chip.banks0 = (s.chip.setSpare b).banks0) (h2 : t.chip.banks1 = (s.chip.setSpare b).banks1) : t.bank = s.bank ∧ t.spare = b := by
  unfold State.bank State.spare
  rw [h0, h1, h2, Chip.setSpare]
  split <;> exact ⟨rfl, rfl⟩

theorem schedSwitch_accepted {s : State} {m : Nat} (ha : s.accepts m 0x43 = true) (he : (s.cmdOf m).extLen = 0) (hi : s.chip.installed = true)
    (hr : s.chip.running = true → s.boundary ((s.cmdOf m).arg 0 8) = true)
    (hn : s.chip.running = false → s.now + 1000000 ≤ (s.cmdOf m).arg 0 8) :
    completes (.schedSwitch m) s fun t =>
      t.answers m 0x43 0 0 ∧ t.chip.switchAt = some ((s.cmdOf m).arg 0 8) ∧ t.spare = { s.spare with t0 := (s.cmdOf m).arg 0 8 } ∧
      t.bank = s.bank ∧ s.sameUnits t := by
  let b := { s.spare with t0 := (s.cmdOf m).arg 0 8 }
  let u := (s.accepted m).modChip fun h => { h.setSpare b with switchAt := some ((s.cmdOf m).arg 0 8) }
  have hok : (if s.chip.running then s.boundary ((s.cmdOf m).arg 0 8) else decide (s.now + 1000000 ≤ (s.cmdOf m).arg 0 8)) = true := by
    split
    next hrun => exact hr hrun
    next hrun => exact decide_eq_true (hn (Bool.eq_false_of_not_eq_true hrun))
  refine completes_finish (u := u) (r := []) ha rfl ?_ (by decide) fun t ht => ?_
  · rw [s.plainCmd_accepted _ ha he]
    simp only [State.accepted_chip, State.boundary_accepted, State.now_accepted, State.spare_accepted, hi, hok, Bool.not_true,
      Bool.false_eq_true, if_false, if_true]
    rfl
  · obtain ⟨hu, -, regs, integ, hc⟩ := ht
    have hchip : t.chip = { s.chip.setSpare b with switchAt := some ((s.cmdOf m).arg 0 8), regs := regs, integ := integ } := by
      rw [hc, State.modChip_chip, State.accepted_chip]
    obtain ⟨hbank, hspare⟩ := State.banks_setSpare (s := s) (t := t) (b := b) (by rw [hchip]; exact s.chip.setSpare_activeBank b)
      (by rw [hchip]) (by rw [hchip])
    exact ⟨by rw [hchip], hspare, hbank, (s.sameUnits_iff_units t).2 (by rw [hu, State.units_modChip, State.units_accepted])⟩

theorem schedStop_accepted {s : State} {m : Nat} (ha : s.accepts m 0x44 = true) (he : (s.cmdOf m).extLen = 0) (hr : s.chip.running = true)
    (hb : s.boundary ((s.cmdOf m).arg 0 8) = true) :
    completes (.schedStop m) s fun t =>
      t.answers m 0x44 0 0 ∧ t.chip.stopAt = some ((s.cmdOf m).arg 0 8) ∧ t.chip.running = true ∧ s.sameUnits t := by
  let u := (s.accepted m).modChip fun h => { h with stopAt := some ((s.cmdOf m).arg 0 8) }
  refine completes_finish (u := u) (r := []) ha rfl ?_ (by decide) fun t ht => ?_
  · rw [s.plainCmd_accepted _ ha he]
    simp only [State.accepted_chip, State.boundary_accepted, hr, hb, Bool.not_true, Bool.false_eq_true, if_false, if_true]
    rfl
  · obtain ⟨hu, -, regs, integ, hc⟩ := ht
    rw [State.modChip_chip, State.accepted_chip] at hc
    exact ⟨by rw [hc], by rw [hc, hr], (s.sameUnits_iff_units t).2 (by rw [hu, State.units_modChip, State.units_accepted])⟩

/-! ## BANK_SWITCH and SEQUENCE_STOP (R105) -/

theorem bankSwitch_switches {s : State} {t0 : Nat} (ha : s.chip.switchAt = some t0) (hn : t0 ≤ s.now) :
    completes .bankSwitch s fun t =>
      t.bank = s.spare ∧ t.spare = s.bank ∧ t.chip.running = true ∧ t.chip.switchAt = none ∧ t.chip.installed = false ∧
      t.cells = s.cells ∧ t.blocks = s.blocks ∧ t.regions = s.regions ∧ t.gws = s.gws ∧ ∀ n, t.link n = (s.link n).enterSched := by
  let f (h : Chip) : Chip := { h with
    activeBank := 1 - h.activeBank, running := true, switchAt := none, installed := false, treeFile := none
    stopAt := if (h.stopAt.map fun e => decide (e ≤ t0)).getD false then none else h.stopAt }
  refine completes_next ({ s with links := s.links.mapAll Link.enterSched }.modChip f) rfl rfl ?_ ?_
  · rw [ha]
    exact if_neg (Nat.not_lt.2 hn)
  · refine ⟨?_, ?_, rfl, rfl, rfl, rfl, rfl, rfl, rfl, fun n => Table.get_mapAll _ _ n⟩
    all_goals
      rcases BitVec.eq_zero_or_eq_one s.chip.activeBank with h | h <;> simp [State.bank, State.spare, f, h]

theorem sequenceStop_stops {s : State} {t0 : Nat} (ha : s.chip.stopAt = some t0) (hn : t0 ≤ s.now) :
    completes .sequenceStop s fun t =>
      t.chip.running = false ∧ t.chip.stopAt = none ∧ t.bank = s.bank ∧ s.sameUnits t := by
  refine completes_next (s.modChip fun h => { h with running := false, stopAt := none }) rfl rfl ?_ ⟨rfl, rfl, rfl, rfl, rfl, rfl, rfl, rfl⟩
  rw [ha]
  exact if_neg (Nat.not_lt.2 hn)

/-- Settles O23: the two commands, then the switch and the stop at their times. -/
theorem scheduleCommands : Obligations.ScheduleCommands :=
  fun _ _ => ⟨schedSwitch_accepted, schedStop_accepted, fun _ => bankSwitch_switches, fun _ => sequenceStop_stops⟩

end Sys2Proof.Machine

namespace Sys2Proof.Machine

/-! ## FILE_OPEN and FILE_DATA (R431) -/

theorem fileOpen_opens {s : State} {m : Nat} (ha : s.accepts m 0x40 = true) (he : (s.cmdOf m).extLen = 0) (hk : (s.cmdOf m).arg 0 1 ≤ 1)
    (hn : ∀ f ∈ s.ftn.files, f.kind ≠ (s.cmdOf m).arg 0 1) :
    completes (.fileOpen m) s fun t =>
      t.answers m 0x40 0 0 ∧ t.ftn.files = ⟨(s.cmdOf m).arg 0 1, (s.cmdOf m).arg 4 4, []⟩ :: s.ftn.files ∧ s.sameUnits t := by
  let u := (s.accepted m).modFtn fun x => { x with files := ⟨(s.cmdOf m).arg 0 1, (s.cmdOf m).arg 4 4, []⟩ :: x.files }
  have hnone : (s.ftn.files.any fun f => f.kind == (s.cmdOf m).arg 0 1) = false := by simpa using hn
  refine completes_finish (u := u) (r := []) ha rfl ?_ (by decide) fun t ht => ⟨?_, ht.sameUnits ?_⟩
  · rw [s.plainCmd_accepted _ ha he, if_neg (Nat.not_lt.2 hk), State.accepted_files, if_neg (Bool.eq_false_iff.1 hnone)]
    rfl
  · rw [ht.files, State.modFtn_ftn, State.accepted_files]
  · rw [State.units_modFtn, State.units_accepted]

theorem fileData_appends {s : State} {m : Nat} {f : FileRt} {rest : List FileRt} (ha : s.accepts m 0x41 = true)
    (he : (s.cmdOf m).extLen ≤ stagingSize) (hf : s.ftn.files = f :: rest) (hl : (f.bytes ++ (s.cmdOf m).ext).length ≤ f.total) :
    completes (.fileData m) s fun t =>
      t.answers m 0x41 0 0 ∧ t.ftn.files = { f with bytes := f.bytes ++ (s.cmdOf m).ext } :: rest ∧ s.sameUnits t := by
  let u := (s.accepted m).modFtn fun x => { x with files := { f with bytes := f.bytes ++ (s.cmdOf m).ext } :: rest }
  refine completes_finish (u := u) (r := leBytes 4 (f.bytes ++ (s.cmdOf m).ext).length) ha rfl ?_ (by decide) fun t ht => ⟨?_, ht.sameUnits ?_⟩
  · rw [s.mailboxCmd_accepted (fun _ => true) (fun _ => none) _ ha rfl he]
    simp only [State.accepted_files, hf]
    rw [if_neg (Nat.not_lt.2 hl)]
    rfl
  · rw [ht.files, State.modFtn_ftn]
  · rw [State.units_modFtn, State.units_accepted]

/-! ## FILE_COMMIT of a slot-table file (R120, R124) -/

theorem State.forEach_modLink (s : State) (l : List Nat) (f : State → Nat → Link → Link) :
    ∃ k, (s.forEach l fun s n => s.modLink n (f s n)) = { s with links := k } := by
  induction l generalizing s with
  | nil => exact ⟨s.links, rfl⟩
  | cons n l ih =>
    obtain ⟨k, hk⟩ := ih (s.modLink n (f s n))
    exact ⟨k, hk⟩

/-- Installing a bank writes the spare one, notes it as installed, and changes link ports alone. -/
theorem State.installBank_eq (s : State) (b : Bank) :
    ∃ k, s.installBank b =
      { (s.modChip fun h => { h.setSpare { b with t0 := h.switchAt.getD 0 } with installed := true }) with links := k } := by
  obtain ⟨k, hk⟩ := State.forEach_modLink (s.modChip fun h => { h.setSpare { b with t0 := h.switchAt.getD 0 } with installed := true })
    (List.range 48) fun s n l => { l with schedNext := some (s.serviceOf b n) }
  unfold State.installBank
  dsimp only
  rw [hk]
  split
  · exact ⟨k, rfl⟩
  · exact ⟨k.mapAll Link.enterSched, rfl⟩

theorem State.installBank_keeps (s : State) (b : Bank) :
    (s.installBank b).chip = { s.chip.setSpare { b with t0 := s.chip.switchAt.getD 0 } with installed := true } ∧
    (s.installBank b).cells = s.cells ∧ (s.installBank b).ftn = s.ftn := by
  obtain ⟨k, hk⟩ := s.installBank_eq b
  rw [hk]
  exact ⟨rfl, rfl, rfl⟩

/-! ## The trees of a file (R123, R217, R245) -/

section trees

variable (s : State) (t : TreeRec) (vs : List Vtx) (q : RedSetup)

theorem State.setRedEntry_ftn (v : Vtx) : (s.setRedEntry t vs q v).ftn = s.ftn := by
  unfold State.setRedEntry
  split <;> rfl

theorem State.putTree_ftn : (s.putTree t vs q).ftn = s.ftn := by
  unfold State.putTree
  extract_lets u v
  have hu : u.ftn = s.ftn := State.forEach_keeps State.ftn (fun _ _ => by rfl) vs s
  have hv : v.ftn = u.ftn := by
    simp only [v]
    split
    · exact State.forEach_keeps State.ftn (fun s x => s.setRedEntry_ftn t vs q x) vs u
    · rfl
  exact hv.trans hu

/-- Installing a tree leaves the Fountaineer's own state alone. -/
theorem State.installTree_ftn : (s.installTree t vs q).1.ftn = s.ftn := by
  unfold State.installTree
  dsimp only
  split_ifs <;> simp only [State.putTree_ftn]

/-- What stands against a tree is answered with a status of one byte. -/
theorem State.installTree_status {e : Nat × Nat} (h : (s.installTree t vs q).2 = some e) : e.1 < 256 := by
  unfold State.installTree at h
  dsimp only at h
  split_ifs at h <;> cases h <;> (dsimp only; decide)

end trees

theorem State.installTrees_ftn (s : State) (b : List Byte) (i n : Nat) : (s.installTrees b i n).1.ftn = s.ftn := by
  induction n generalizing s i with
  | zero => rfl
  | succ n ih =>
    unfold State.installTrees
    extract_lets t vs
    split
    · rfl
    · have h := s.installTree_ftn t vs (s.fileSetup t vs)
      split
      next s' hs => exact (ih s' (i + 1)).trans (by rw [hs] at h; exact h)
      next => rfl

theorem State.installTrees_status {s : State} {b : List Byte} {i n : Nat} {e : Nat × Nat} (h : (s.installTrees b i n).2 = some e) :
    e.1 < 256 := by
  induction n generalizing s i with
  | zero => cases h
  | succ n ih =>
    unfold State.installTrees at h
    extract_lets t vs at h
    split at h
    · cases h
      decide
    · split at h
      next => exact ih h
      next hs =>
        cases h
        exact s.installTree_status t vs _ (congrArg Prod.snd hs)

/-- The state in which FILE_COMMIT has been accepted and the file opened last is closed, the others left open. -/
def State.fileClosed (s : State) (m : Nat) (rest : List FileRt) : State := (s.accepted m).modFtn fun x => { x with files := rest }

@[simp] theorem State.units_fileClosed (s : State) (m : Nat) (rest : List FileRt) : (s.fileClosed m rest).units = s.units := by
  rw [State.fileClosed, State.units_modFtn, State.units_accepted]

@[simp] theorem State.fileClosed_cells (s : State) (m : Nat) (rest : List FileRt) : (s.fileClosed m rest).cells = s.cells := by
  rw [State.fileClosed, State.modFtn_cells, State.accepted_cells]

@[simp] theorem State.fileClosed_chip (s : State) (m : Nat) (rest : List FileRt) : (s.fileClosed m rest).chip = s.chip := by
  rw [State.fileClosed, State.modFtn_chip, State.accepted_chip]

@[simp] theorem State.fileClosed_files (s : State) (m : Nat) (rest : List FileRt) : (s.fileClosed m rest).ftn.files = rest := rfl

section commit

variable {s : State} {m : Nat} {f : FileRt} {rest : List FileRt} (ha : s.accepts m 0x42 = true) (he : (s.cmdOf m).extLen = 0)
  (hf : s.ftn.files = f :: rest)
include ha he hf

/-- FILE_COMMIT of a slot-table file: it is closed, then checked. -/
theorem exec_fileCommit_slot (hk : f.kind = 0) :
    exec (.fileCommit m) s = onUnit (mailboxOk m) s
      (if slotFileCheck f.bytes s.chipId.toNat ((s.accepted m).otherId 0) ≠ 0 then
        (s.fileClosed m rest).finish (s.cmdOf m) sFILE (slotFileCheck f.bytes s.chipId.toNat ((s.accepted m).otherId 0)) []
      else ((s.fileClosed m rest).installBank (bankOf f.bytes)).finish (s.cmdOf m) sOK 0
        (leBytes 4 (num f.bytes 12 4 + num f.bytes 16 4 + num f.bytes 6 1 + num f.bytes 20 4))) := by
  have hid : ((s.accepted m).modFtn fun x => { x with files := rest }).chipId = s.chipId := State.chipId_congr (s.fileClosed_chip m rest)
  refine (show exec (.fileCommit m) s = onUnit (mailboxOk m) s (s.plainCmd m 0x42 _) from rfl).trans ?_
  rw [s.plainCmd_accepted _ ha he]
  simp only [State.accepted_files, hf, hk, if_true, hid]
  rfl

theorem fileCommit_slot_installs (hk : f.kind = 0) (hc : slotFileCheck f.bytes s.chipId.toNat ((s.accepted m).otherId 0) = 0) :
    completes (.fileCommit m) s fun t =>
      t.answers m 0x42 0 0 ∧ t.ftn.files = rest ∧ t.spare = { bankOf f.bytes with t0 := s.chip.switchAt.getD 0 } ∧ t.bank = s.bank ∧
      t.chip.installed = true ∧ t.cells = s.cells := by
  obtain ⟨hbchip, hbcells, hbftn⟩ := (s.fileClosed m rest).installBank_keeps (bankOf f.bytes)
  refine completes_finish ha (exec_fileCommit_slot ha he hf hk) (if_neg (not_not.2 hc)) (by decide) fun t ht => ?_
  have hcells := ht.cells
  obtain ⟨-, hfiles, regs, integ, hchip⟩ := ht
  let b := { bankOf f.bytes with t0 := s.chip.switchAt.getD 0 }
  have hc' : t.chip = { s.chip.setSpare b with installed := true, regs := regs, integ := integ } := by
    rw [hchip, hbchip, s.fileClosed_chip]
  obtain ⟨hbank, hspare⟩ := State.banks_setSpare (s := s) (t := t) (b := b) (by rw [hc']; exact s.chip.setSpare_activeBank b)
    (by rw [hc']) (by rw [hc'])
  exact ⟨by rw [hfiles, hbftn, s.fileClosed_files], hspare, hbank, by rw [hc'],
    by rw [hcells, hbcells, s.fileClosed_cells]⟩

theorem fileCommit_slot_rejects (hk : f.kind = 0) (hc : slotFileCheck f.bytes s.chipId.toNat ((s.accepted m).otherId 0) ≠ 0) :
    completes (.fileCommit m) s fun t =>
      t.answers m 0x42 0x0B (slotFileCheck f.bytes s.chipId.toNat ((s.accepted m).otherId 0)) ∧ t.ftn.files = rest ∧ t.bank = s.bank ∧
      t.spare = s.spare ∧ s.sameUnits t := by
  refine completes_finish ha (exec_fileCommit_slot ha he hf hk) (if_pos hc) (by decide) fun t ht => ?_
  obtain ⟨hu, hfiles, regs, integ, hchip⟩ := ht
  rw [s.fileClosed_chip] at hchip
  exact ⟨hfiles, by rw [State.bank, hchip, State.bank], by rw [State.spare, hchip, State.spare],
    (s.sameUnits_iff_units t).2 (hu.trans (s.units_fileClosed m rest))⟩

/-- What stands against a tree file before its records. -/
def State.treeFileCode (s : State) (m : Nat) (f : FileRt) : Nat := treeFileCheck f.bytes s.chipId.toNat ((s.accepted m).otherId f.kind)

/-- The installation of the trees of the file being committed. -/
def State.treesOf (s : State) (m : Nat) (f : FileRt) (rest : List FileRt) : State × Option (Nat × Nat) :=
  (s.fileClosed m rest).installTrees f.bytes 0 (num f.bytes 10 2)

/-- FILE_COMMIT of a tree file: it is closed, then checked, then its trees are tried. -/
theorem exec_fileCommit_tree (hk : f.kind ≠ 0) :
    exec (.fileCommit m) s = onUnit (mailboxOk m) s
      (if s.treeFileCode m f = 0 ∨ s.treeFileCode m f = 6 then
        (s.treesOf m f rest).2.elim
          (if s.treeFileCode m f = 6 then (s.fileClosed m rest).finish (s.cmdOf m) sFILE 6 []
          else ((s.treesOf m f rest).1.modChip fun h => { h with treeFile := some (BitVec.ofNat 64 (num f.bytes 16 8)) }).finish (s.cmdOf m) sOK 0
            (leBytes 4 (num f.bytes 10 2 + num f.bytes 12 4)))
          fun e => (s.fileClosed m rest).finish (s.cmdOf m) e.1 e.2 []
      else (s.fileClosed m rest).finish (s.cmdOf m) sFILE (s.treeFileCode m f) []) := by
  have hid : ((s.accepted m).modFtn fun x => { x with files := rest }).chipId = s.chipId := State.chipId_congr (s.fileClosed_chip m rest)
  have htrees : ((s.accepted m).modFtn fun x => { x with files := rest }).installTrees f.bytes 0 (num f.bytes 10 2) = s.treesOf m f rest := rfl
  refine (show exec (.fileCommit m) s = onUnit (mailboxOk m) s (s.plainCmd m 0x42 _) from rfl).trans ?_
  rw [s.plainCmd_accepted _ ha he]
  simp only [State.accepted_files, hf, hk, if_false, hid, htrees, State.treeFileCode]
  obtain ⟨u, _ | e⟩ := s.treesOf m f rest <;> rfl

theorem fileCommit_tree_rejects (hk : f.kind ≠ 0) (h0 : s.treeFileCode m f ≠ 0) (h6 : s.treeFileCode m f ≠ 6) :
    completes (.fileCommit m) s fun t => t.answers m 0x42 0x0B (s.treeFileCode m f) ∧ t.ftn.files = rest ∧ s.sameUnits t :=
  completes_finish ha (exec_fileCommit_tree ha he hf hk) (if_neg (not_or.2 ⟨h0, h6⟩)) (by decide) fun _ ht =>
    ⟨ht.files, ht.sameUnits (s.units_fileClosed m rest)⟩

theorem fileCommit_tree_refused (hk : f.kind ≠ 0) (hc : s.treeFileCode m f = 0 ∨ s.treeFileCode m f = 6) {e : Nat × Nat}
    (hr : (s.treesOf m f rest).2 = some e) :
    completes (.fileCommit m) s fun t => t.answers m 0x42 e.1 e.2 ∧ t.ftn.files = rest ∧ s.sameUnits t :=
  completes_finish ha (exec_fileCommit_tree ha he hf hk) (by rw [if_pos hc, hr]; rfl) (State.installTrees_status hr) fun _ ht =>
    ⟨ht.files, ht.sameUnits (s.units_fileClosed m rest)⟩

theorem fileCommit_tree_unlike (hk : f.kind ≠ 0) (hc : s.treeFileCode m f = 6) (hr : (s.treesOf m f rest).2 = none) :
    completes (.fileCommit m) s fun t => t.answers m 0x42 0x0B 6 ∧ t.ftn.files = rest ∧ s.sameUnits t :=
  completes_finish (r := []) ha (exec_fileCommit_tree ha he hf hk) ((if_pos (.inr hc)).trans (by rw [hr, Option.elim_none, if_pos hc]; rfl))
    (by decide) fun _ ht => ⟨ht.files, ht.sameUnits (s.units_fileClosed m rest)⟩

theorem fileCommit_tree_installs (hk : f.kind ≠ 0) (hc : s.treeFileCode m f = 0) (hr : (s.treesOf m f rest).2 = none) :
    completes (.fileCommit m) s fun t =>
      t.answers m 0x42 0 0 ∧ t.ftn.files = rest ∧ t.cells = (s.treesOf m f rest).1.cells ∧ t.chip.trees = (s.treesOf m f rest).1.chip.trees ∧
      t.chip.treeFile = some (BitVec.ofNat 64 (num f.bytes 16 8)) := by
  have h6 : s.treeFileCode m f ≠ 6 := by rw [hc]; decide
  refine completes_finish (u := (s.treesOf m f rest).1.modChip fun h => { h with treeFile := some (BitVec.ofNat 64 (num f.bytes 16 8)) }) ha
    (exec_fileCommit_tree ha he hf hk) ((if_pos (.inl hc)).trans (by rw [hr, Option.elim_none, if_neg h6]; rfl)) (by decide) fun t ht => ?_
  have hcells := ht.cells
  obtain ⟨-, hfiles, regs, integ, hchip⟩ := ht
  rw [State.modChip_chip] at hchip
  refine ⟨?_, hcells, by rw [hchip], by rw [hchip]⟩
  rw [hfiles, State.modChip_ftn, State.treesOf, State.installTrees_ftn, s.fileClosed_files]

end commit

/-- Settles O22: the file opened, its bytes, then the commit of a slot-table file and of a tree file. -/
theorem fileCommands : Obligations.FileCommands := by
  intro s m
  refine ⟨fileOpen_opens, fun f rest => fileData_appends, fun f rest => fileCommit_slot_installs, fun f rest => fileCommit_slot_rejects,
    fun f rest ha he hf hk => ⟨?_, ?_, ?_, ?_⟩⟩
  · exact fileCommit_tree_rejects ha he hf hk
  · exact fun hc e => fileCommit_tree_refused ha he hf hk hc
  · exact fileCommit_tree_unlike ha he hf hk
  · exact fileCommit_tree_installs ha he hf hk

end Sys2Proof.Machine

namespace Sys2Proof.Machine

/-! ## Where the sequence stands (R104, R108) -/

theorem State.pos_congr {s t : State} (hc : t.chip = s.chip) (ht : t.time = s.time) : t.pos = s.pos := by
  simp only [State.pos, State.bank, State.now, hc, ht]

theorem State.bank_congr {s t : State} (hc : t.chip = s.chip) : t.bank = s.bank := by rw [State.bank, hc, State.bank]

theorem State.activeRows_congr {s t : State} {c : Nat} (hc : t.chip = s.chip) (ht : t.time = s.time) (ha : (t.rt c).armed = (s.rt c).armed) :
    t.activeRows c = s.activeRows c := by
  have hr (st : Nat) : (t.rt c).runs st = (s.rt c).runs st := by rw [Router.runs, ha, Router.runs]
  simp only [State.activeRows, State.pos_congr hc ht, State.bank_congr hc, hr]

/-! ## The scheduled plane at a router (R102, R110) -/

@[simp] theorem State.abortHold_time (s : State) (b : Nat) : (s.abortHold b).time = s.time := by
  unfold State.abortHold
  split <;> rfl

theorem State.power_abortHold (s : State) (b d : Nat) : ((s.abortHold b).block d).power = (s.block d).power := by
  unfold State.abortHold
  split <;> by_cases hd : b = d <;> simp [State.modBlockRegs, State.block_modBlock, hd]

/-- A sampled packet leaves the packets on their way into the scheduled plane. -/
@[simp] theorem State.sched_spray (s : State) (c : Nat) (pl : Plane) (port : Nat) (input : Bool) (p : Packet) (tag : W32) :
    ((s.spray c pl port input p tag).rt c).sched = (s.rt c).sched := by
  simp only [State.spray]
  split_ifs <;> simp only [State.rt_modRt_same, State.rt_bump]

/-- A packet whose words are correct, on an input that stands open, goes on. -/
theorem State.schedDecode_clean {s : State} {c : Nat} {x : InFlight} (h : aget (s.rt c).sluices x.port = none) :
    s.schedDecode c x [] = (s, true) := by
  unfold State.schedDecode
  split
  · rfl
  · have hshut : s.closedTo c x.port x.pkt = false := by rw [State.closedTo, h]
    have hs : s.corrected c .sched x.port [] = s := rfl
    simp only [hs, hshut]
    rfl

/-- The state in which the switch stage of the scheduled plane has taken up the packets due, a Doze hold of the block ended. -/
def State.schedTaken (s : State) (c : Nat) : State :=
  ((s.modNi c fun x => x.note dSched s.ncyc).modRt c fun r =>
    { r with sched := r.sched.filter fun x => !decide (x.due + 1 ≤ s.ncyc) }).abortHold (blockOf c)

section schedTaken

variable (s : State) (c : Nat)

@[simp] theorem State.schedTaken_chip : (s.schedTaken c).chip = s.chip := by simp [State.schedTaken]
@[simp] theorem State.schedTaken_time : (s.schedTaken c).time = s.time := by simp [State.schedTaken]
@[simp] theorem State.schedTaken_ncyc : (s.schedTaken c).ncyc = s.ncyc := by simp [State.schedTaken]

theorem State.cell_schedTaken (d : Nat) : (s.schedTaken c).cell d = ((s.modNi c fun x => x.note dSched s.ncyc).modRt c fun r =>
    { r with sched := r.sched.filter fun x => !decide (x.due + 1 ≤ s.ncyc) }).cell d :=
  State.cell_congr (State.abortHold_cells _ _) d

@[simp] theorem State.rt_schedTaken : (s.schedTaken c).rt c =
    { s.rt c with sched := (s.rt c).sched.filter fun x => !decide (x.due + 1 ≤ s.ncyc) } := by
  rw [State.rt, State.cell_schedTaken, ← State.rt, State.rt_modRt_same, State.rt_modNi]

@[simp] theorem State.ni_schedTaken : (s.schedTaken c).ni c = (s.ni c).note dSched s.ncyc := by
  rw [State.ni, State.cell_schedTaken, ← State.ni, State.ni_modRt, State.ni_modNi_same]

@[simp] theorem State.regs_schedTaken (d : Nat) : ((s.schedTaken c).cell d).regs = (s.cell d).regs := by
  rw [State.cell_schedTaken, State.regs_modRt, State.regs_modNi]

theorem State.cell_schedTaken_ne {d : Nat} (h : d ≠ c) : (s.schedTaken c).cell d = s.cell d := by
  rw [State.cell_schedTaken]
  exact ((s.within_modCell c _).trans (State.within_modCell _ c _)).only.1 d h

theorem State.power_schedTaken (b : Nat) : ((s.schedTaken c).block b).power = (s.block b).power := State.power_abortHold _ _ b

end schedTaken

theorem State.sched_schedTaken {s : State} {c : Nat} {x : InFlight} (hx : (s.rt c).sched = [x]) (hdue : x.due + 1 ≤ s.ncyc) :
    ((s.schedTaken c).rt c).sched = [] := by
  rw [State.rt_schedTaken, hx]
  simp [Nat.lt_of_succ_le hdue]

/-- The switch stage of the scheduled plane, where one packet with correct words is due at an open input. -/
theorem exec_schedRouterArrival_single {s : State} {c : Nat} {es : List (List Ecc)} {x : InFlight}
    (hd : (s.ni c).didNow dSched s.ncyc = false) (hp : (s.block (blockOf c)).power = .run)
    (hx : (s.rt c).sched = [x]) (hdue : x.due + 1 ≤ s.ncyc) (he : es.getD x.port [] = []) (hs : aget (s.rt c).sluices x.port = none) :
    exec (.schedRouterArrival c es false) s = onUnit (Instr.schedRouterArrival c es false).wf s
      (((s.schedTaken c).schedArrive c (s.activeRows c) x).modCellRegs c fun r => r.add CELL_SCHED_CNT_empty_slot
        (((s.activeRows c).filter fun r => !(x.port == r.inPort)).map fun r => maskSize r.mask).sum) := by
  have hdec : (s.schedTaken c).schedDecode c x [] = (s.schedTaken c, true) := State.schedDecode_clean (by rw [State.rt_schedTaken, hs])
  have hrows : (s.schedTaken c).activeRows c = s.activeRows c :=
    State.activeRows_congr (s.schedTaken_chip c) (s.schedTaken_time c) (by rw [State.rt_schedTaken])
  have hu : ((s.modNi c fun x => x.note dSched s.ncyc).modRt c fun r =>
    { r with sched := r.sched.filter fun x => !decide (x.due + 1 ≤ s.ncyc) }).abortHold (blockOf c) = s.schedTaken c := rfl
  refine congrArg (onUnit _ s) ?_
  rw [if_neg (by simp [hd, hp])]
  simp only [hx, hdue, decide_true, List.filter_cons_of_pos, List.filter_nil, List.isEmpty_cons, Bool.false_eq_true, if_false, hu,
    List.foldl_cons, List.foldl_nil, he, hdec, if_true, List.nil_append, hrows, Bool.false_and, State.when_, State.forEach, List.any_cons,
    List.any_nil, Bool.or_false]

/-- A packet that no active row names on its input is lost and counted (R110). -/
theorem State.schedArrive_loses {s : State} {c : Nat} {rows : List SchedRow} {x : InFlight} (hm : x.pkt.type ≠ tMNT)
    (hn : (rows.filter fun r => r.inPort == x.port) = []) :
    s.schedArrive c rows x = (s.spray c .sched (pointPort c x.port) true x.pkt (transitTag x.pkt)).bump c
      (if rows.isEmpty then CELL_SCHED_CNT_outside_slot else CELL_SCHED_CNT_wrong_input) := by
  simp only [State.schedArrive, hm, if_false, hn]

/-- A packet on the input of one active row with one output goes there (R110). -/
theorem State.schedArrive_goes {s : State} {c o : Nat} {r : SchedRow} {x : InFlight} (hm : x.pkt.type ≠ tMNT) (hr : r.inPort = x.port)
    (ho : (List.range 5).filter (fun o => r.mask.testBit o) = [o]) :
    s.schedArrive c [r] x = (s.spray c .sched (pointPort c x.port) true x.pkt (transitTag x.pkt)).schedOut c o x.pkt := by
  have hn : ([r].filter fun r => r.inPort == x.port) = [r] := by simp [hr]
  simp only [State.schedArrive, hm, if_false, hn, State.forEach, List.foldl_cons, List.foldl_nil, ho]

theorem State.regs_modCellRegs (s : State) (c : Nat) (f : Regs → Regs) : ((s.modCellRegs c f).cell c).regs = f (s.cell c).regs := by
  rw [State.modCellRegs, State.cell_modCell_same]

/-- The counts of packets lost at a router have bits of their own in a register where no side note counts (R110). -/
theorem lostField_own (b : Bool) :
    let f := if b then CELL_SCHED_CNT_outside_slot else CELL_SCHED_CNT_wrong_input
    f.fits ∧ f.off ∉ noteRegs ∧ ∀ (r : Regs) (n : Nat), (r.add CELL_SCHED_CNT_empty_slot n).get f = r.get f := by
  cases b <;> exact ⟨by decide, by decide, fun r n => Regs.get_add_ne r _ _ n (by decide) (by decide)⟩

/-- May a packet go out to a neighbour: that depends on the port's sluice and the neighbour's block (R110). -/
theorem State.schedOpen_congr {s t : State} {c o e : Nat} (he : neighbor c o = some e) (hs : (t.rt c).sluices = (s.rt c).sluices)
    (hp : ∀ b, (t.block b).power = (s.block b).power) (pk : Packet) : t.schedOpen c o pk = s.schedOpen c o pk := by
  simp only [State.schedOpen, he, hs, hp]

section arrival

variable {s : State} {c : Nat} {es : List (List Ecc)} {x : InFlight} (hc : cellOk c = true) (hes : es.length = 4)
  (hd : (s.ni c).didNow dSched s.ncyc = false) (hp : (s.block (blockOf c)).power = .run) (hx : (s.rt c).sched = [x]) (hdue : x.due + 1 ≤ s.ncyc)
  (he : es.getD x.port [] = []) (hs : aget (s.rt c).sluices x.port = none) (hm : x.pkt.type ≠ tMNT)
include hc hes hd hp hx hdue he hs hm

theorem schedRouterArrival_loses (hn : ((s.activeRows c).filter fun r => r.inPort == x.port) = []) :
    completes (.schedRouterArrival c es false) s fun t =>
      (t.rt c).sched = [] ∧
      (s.cell c).regs.counted (t.cell c).regs
        (if (s.activeRows c).isEmpty then CELL_SCHED_CNT_outside_slot else CELL_SCHED_CNT_wrong_input) ∧
      ∀ d, d ≠ c → t.cell d = s.cell d := by
  let u := s.schedTaken c
  let v := u.spray c .sched (pointPort c x.port) true x.pkt (transitTag x.pkt)
  have hv : u.Noted v c := u.noted_spray ..
  obtain ⟨hfit, hoff, hadd⟩ := lostField_own (s.activeRows c).isEmpty
  refine completes_next _ (exec_schedRouterArrival_single hd hp hx hdue he hs) (by simp [Instr.wf, hc, hes])
    (by rw [State.schedArrive_loses hm hn]) ⟨?_, ?_, fun d hd => ?_⟩
  · rw [State.keeping_rt, State.rt_modCellRegs, State.rt_bump, State.sched_spray, State.sched_schedTaken hx hdue]
  · rw [Regs.counted, State.keeping_cell, State.regs_modCellRegs, hadd, State.regs_bump, Regs.get_bump_same _ _ hfit, hv.regs _ hoff,
      State.regs_schedTaken]
  · exact (((hv.toWithin.trans (State.within_modCell _ c _)).trans (State.within_modCell _ c _)).only.1 d hd).trans (s.cell_schedTaken_ne c hd)

theorem schedRouterArrival_sends {r : SchedRow} {o e : Nat} (hr : s.activeRows c = [r]) (hin : r.inPort = x.port)
    (ho : (List.range 5).filter (fun o => r.mask.testBit o) = [o]) (hn : neighbor c o = some e) (hopen : s.schedOpen c o x.pkt = true) :
    completes (.schedRouterArrival c es false) s fun t =>
      (t.rt c).sched = [] ∧ (t.rt e).sched = (s.rt e).sched ++ [⟨oppPort o, s.ncyc + 2 + s.linkExtra c o, Packet.regen x.pkt⟩] ∧
      ∀ d, d ≠ c → d ≠ e → t.cell d = s.cell d := by
  let u := s.schedTaken c
  let v := u.spray c .sched (pointPort c x.port) true x.pkt (transitTag x.pkt)
  let w := v.spray c .sched (pointPort c o) false x.pkt (transitTag x.pkt)
  let y : InFlight := ⟨oppPort o, w.ncyc + 2 + w.linkExtra c o, x.pkt.regen⟩
  have hec := neighbor_ne hn
  have h4 : o ≠ 4 := by
    rintro rfl
    cases hn
  have hv : u.Noted v c := u.noted_spray ..
  have hw : u.Noted w c := hv.trans (v.noted_spray ..)
  have hvopen : v.schedOpen c o x.pkt = true := by
    rw [← hopen]
    refine State.schedOpen_congr hn ?_ (fun b => ?_) _
    · rw [hv.sluices, State.rt_schedTaken]
    · rw [hv.block, s.power_schedTaken]
  have hout : v.schedOut c o x.pkt = w.modRt e fun r => { r with sched := r.sched ++ [y] } := by
    rw [State.schedOut, if_neg h4, if_pos hvopen]
    simp only [State.drive, hn]
    rfl
  have hy : y = ⟨oppPort o, s.ncyc + 2 + s.linkExtra c o, Packet.regen x.pkt⟩ := by
    simp only [y, hw.ncyc, State.linkExtra_congr hw.chip, u, State.schedTaken_ncyc, State.linkExtra_congr (s.schedTaken_chip c)]
  have hcell (d : Nat) (hd : d ≠ c) : w.cell d = s.cell d := (hw.only.1 d hd).trans (s.cell_schedTaken_ne c hd)
  rw [← hy]
  refine completes_next _ (exec_schedRouterArrival_single hd hp hx hdue he hs) (by simp [Instr.wf, hc, hes])
    (by rw [hr, State.schedArrive_goes hm hin ho, hout]) ⟨?_, ?_, fun d hd hde => ?_⟩
  · rw [State.keeping_rt, State.rt_modCellRegs, State.rt, (w.onlyCell_modRt e _).1 c hec.symm, ← State.rt, State.sched_spray, State.sched_spray,
      State.sched_schedTaken hx hdue]
  · rw [State.keeping_rt, State.rt_modCellRegs, State.rt_modRt_same, State.rt, hcell e hec, ← State.rt]
  · exact ((State.within_modCell _ c _).only.1 d hd).trans (((w.onlyCell_modRt e _).1 d hde).trans (hcell d hd))

theorem schedRouterArrival_ejects {r : SchedRow} (hr : s.activeRows c = [r]) (hin : r.inPort = x.port)
    (ho : (List.range 5).filter (fun o => r.mask.testBit o) = [4]) (h0 : x.pkt.type ≠ 0) (h15 : x.pkt.type ≠ 15) :
    completes (.schedRouterArrival c es false) s fun t =>
      (t.ni c).ejected = (s.ni c).ejected ++ [(.sched, x.pkt)] ∧ (t.rt c).sched = [] ∧ ∀ d, d ≠ c → t.cell d = s.cell d := by
  let u := s.schedTaken c
  let v := u.spray c .sched (pointPort c x.port) true x.pkt (transitTag x.pkt)
  let w := v.spray c .sched 4 false x.pkt (v.rxTag c x.pkt)
  have hw : u.Noted w c := (u.noted_spray ..).trans (v.noted_spray ..)
  have hout : v.schedOut c 4 x.pkt = w.modNi c fun y => { y with ejected := y.ejected ++ [(.sched, x.pkt)] } :=
    w.handOver_of_type c .sched h0 h15
  refine completes_next _ (exec_schedRouterArrival_single hd hp hx hdue he hs) (by simp [Instr.wf, hc, hes])
    (by rw [hr, State.schedArrive_goes hm hin ho, hout]) ⟨?_, ?_, fun d hd => ?_⟩
  · rw [State.keeping_ni, State.ni_modCellRegs, State.ni_modNi_same, hw.ni, State.ni_schedTaken]
    rfl
  · rw [State.keeping_rt, State.rt_modCellRegs, State.rt_modNi, State.sched_spray, State.sched_spray, State.sched_schedTaken hx hdue]
  · exact (((hw.toWithin.trans (State.within_modCell _ c _)).trans (State.within_modCell _ c _)).only.1 d hd).trans (s.cell_schedTaken_ne c hd)

end arrival

end Sys2Proof.Machine

namespace Sys2Proof.Machine

/-! ## Waking and arming the periods to come (R117, R118) -/

theorem State.exiting_wakeBlock {s : State} {b k : Nat} (h : (s.block k).exiting = true ∨ (b = k ∧ (s.block b).power = .doze)) :
    ((s.wakeBlock b).block k).exiting = true := by
  by_cases hd : (s.block b).power = .doze
  · rw [s.wakeBlock_doze b hd, State.block_modBlock]
    split
    · rfl
    next hb => rw [State.block_wakeRegion, h.resolve_right fun e => hb e.1]
  · have hk := h.resolve_right fun e => hd e.2
    simp only [State.wakeBlock, hd, if_false]
    split
    · by_cases hb : b = k <;> simp [State.modBlockRegs, State.block_modBlock, hb, hk]
    · rw [State.block_wakeRegion, hk]

/-- Every dozing block of a list starts its exit. -/
theorem State.exiting_forEach_wakeBlock {s : State} {k : Nat} {l : List Nat} (hl : ∀ b ∈ l, (s.block b).power = .doze)
    (h : (s.block k).exiting = true ∨ k ∈ l) : ((s.forEach l fun s b => s.wakeBlock b).block k).exiting = true := by
  induction l generalizing s with
  | nil => exact h.resolve_right List.not_mem_nil
  | cons b l ih =>
    refine ih (s := s.wakeBlock b) (fun d hd => (s.power_wakeBlock b d).trans (hl d (List.mem_cons_of_mem _ hd))) ?_
    rcases h with h | h
    · exact .inl (State.exiting_wakeBlock (.inl h))
    · rcases List.mem_cons.1 h with rfl | h
      · exact .inl (State.exiting_wakeBlock (.inr ⟨rfl, hl k List.mem_cons_self⟩))
      · exact .inr h

theorem periodWake_wakes {s : State} {r : Nat} (hr : regionOk r = true) :
    ∀ e ∈ s.ahead (s.chget CHP_SCHED_CTL_wake_lead), completes (.periodWake r) s fun t =>
      (∀ k ∈ regionBlocks r, (s.bankFor e.1).wakes? e.2.1 k = true → (s.block k).power = .doze → (t.block k).exiting = true) ∧
      ((∃ k ∈ regionBlocks r, (s.bankFor e.1).wakes? e.2.1 k = true ∧ (s.block k).power = .sleep) → (t.region r).waking = true) ∧
      t.cells = s.cells := by
  intro e he
  let mine := (regionBlocks r).filter fun k => (s.ahead (s.chget CHP_SCHED_CTL_wake_lead)).any fun e => (s.bankFor e.1).wakes? e.2.1 k
  let v := s.forEach (mine.filter fun k => (s.block k).power == .doze) fun s k => s.wakeBlock k
  let w := if mine.any fun k => (v.block k).power == .sleep then v.modRegion r fun x => { x with waking := true } else v
  have hmine {k : Nat} (hk : k ∈ regionBlocks r) (hw : (s.bankFor e.1).wakes? e.2.1 k = true) : k ∈ mine :=
    List.mem_filter.2 ⟨hk, List.any_eq_true.2 ⟨e, he, hw⟩⟩
  have hpower (k : Nat) : (v.block k).power = (s.block k).power :=
    State.forEach_keeps (fun t => (t.block k).power) (fun t b => t.power_wakeBlock b k) _ s
  have hcells : v.cells = s.cells := State.forEach_keeps State.cells State.wakeBlock_cells _ s
  obtain ⟨hwblocks, hwcells⟩ : w.blocks = v.blocks ∧ w.cells = v.cells := by
    simp only [w]
    split <;> exact ⟨rfl, rfl⟩
  refine completes_next w rfl hr rfl ⟨fun k hk hw hd => ?_, fun ⟨k, hk, hw, hp⟩ => ?_, hwcells.trans hcells⟩
  · rw [State.keeping_block, State.block_congr hwblocks]
    refine State.exiting_forEach_wakeBlock (fun b hb => eq_of_beq (List.mem_filter.1 hb).2) (.inr (List.mem_filter.2 ⟨hmine hk hw, ?_⟩))
    rw [hd]
    rfl
  · have hany : (mine.any fun k => (v.block k).power == .sleep) = true := by
      refine List.any_eq_true.2 ⟨k, hmine hk hw, ?_⟩
      rw [hpower, hp]
      rfl
    rw [State.keeping_region, show w = _ from if_pos hany, State.region_modRegion_same]

/-- The report of one router in the barrier of context 0 (R118). -/
def Router.armReports (v : W64) (x : Router) : Router := x.modCtx 0 fun k => { k.add 0 v with localDone := true }

theorem Router.localDone_armReports (v : W64) (x : Router) : ((x.armReports v).ctxRt 0).localDone = true := by
  simp [Router.armReports, Router.ctxRt, Router.modCtx]

theorem State.localDone_forEach_armReports {s : State} {c : Nat} {l : List Nat} (v : W64)
    (h : ((s.rt c).ctxRt 0).localDone = true ∨ c ∈ l) :
    (((s.forEach l fun s d => s.modRt d (Router.armReports v)).rt c).ctxRt 0).localDone = true := by
  induction l generalizing s with
  | nil => exact h.resolve_right List.not_mem_nil
  | cons d l ih =>
    refine ih (s := s.modRt d (Router.armReports v)) ?_
    by_cases hd : c = d
    · subst hd
      exact .inl (by rw [State.rt_modRt_same, Router.localDone_armReports])
    · rw [State.rt, (s.onlyCell_modRt d _).1 c hd, ← State.rt]
      exact h.imp_right fun h => (List.mem_cons.1 h).resolve_left hd

@[simp] theorem State.units_noteArrival (s : State) (c x : Nat) : (s.noteArrival c x).units = s.units := by
  unfold State.noteArrival
  split <;> rfl

@[simp] theorem State.arming_noteArrival (s : State) (c x : Nat) : (s.noteArrival c x).chip.arming = s.chip.arming := by
  unfold State.noteArrival
  split <;> rfl

/-- The routers of a list have reported for the period that starts in st, which is being armed; a report at the root starts the timer (R281). -/
def State.armReported (s : State) (l : List Nat) (st : Nat) (v : W64) : State :=
  let u := (s.forEach l fun s d => s.modRt d (Router.armReports v)).modChip fun h => { h with arming := some st }
  if l.contains u.cornerRoot then u.noteArrival u.cornerRoot 0 else u

section armReported

variable (s : State) (l : List Nat) (st : Nat) (v : W64)

theorem State.units_armReported : (s.armReported l st v).units = (s.forEach l fun s d => s.modRt d (Router.armReports v)).units := by
  simp only [State.armReported]
  split
  · rw [State.units_noteArrival, State.units_modChip]
  · rw [State.units_modChip]

theorem State.arming_armReported : (s.armReported l st v).chip.arming = some st := by
  simp only [State.armReported]
  split
  · rw [State.arming_noteArrival]
    rfl
  · rfl

theorem State.armReported_keeps :
    (s.armReported l st v).blocks = s.blocks ∧ (s.armReported l st v).regions = s.regions ∧ (s.armReported l st v).links = s.links ∧
    (s.armReported l st v).gws = s.gws := by
  obtain ⟨-, hblocks, hregions, hlinks, hgws⟩ := (State.sameUnits_iff_units _ _).2 (s.units_armReported l st v)
  exact ⟨hblocks.trans (State.forEach_keeps State.blocks (fun _ _ => by rfl) l s),
    hregions.trans (State.forEach_keeps State.regions (fun _ _ => by rfl) l s),
    hlinks.trans (State.forEach_keeps State.links (fun _ _ => by rfl) l s),
    hgws.trans (State.forEach_keeps State.gws (fun _ _ => by rfl) l s)⟩

theorem State.localDone_armReported {c : Nat} (hc : c ∈ l) : (((s.armReported l st v).rt c).ctxRt 0).localDone = true := by
  obtain ⟨hcells, -⟩ := (State.sameUnits_iff_units _ _).2 (s.units_armReported l st v)
  rw [State.rt, State.cell_congr hcells, ← State.rt]
  exact State.localDone_forEach_armReports v (.inr hc)

end armReported

theorem periodArmReport_reports {s : State} {r st : Nat} (hr : regionOk r = true) (ht : s.armTarget = some st) (hf : s.chip.flip = none)
    (hv : s.ctxValid 0 = true) (hz : s.zRuns = true)
    (hn : ∀ c ∈ regionCells r, s.stopped c = false → ((s.rt c).ctxRt 0).localDone = false) :
    completes (.periodArmReport r) s fun t =>
      t.chip.arming = some st ∧ (∀ c ∈ regionCells r, s.stopped c = false → ((t.rt c).ctxRt 0).localDone = true) ∧ t.blocks = s.blocks ∧
      t.regions = s.regions ∧ t.links = s.links ∧ t.gws = s.gws := by
  obtain ⟨mine, hmine⟩ : ∃ l, l = (regionCells r).filter fun c => !s.stopped c := ⟨_, rfl⟩
  have hmem (c : Nat) : c ∈ mine ↔ c ∈ regionCells r ∧ s.stopped c = false := by
    rw [hmine, List.mem_filter, Bool.not_eq_true']
  have hnone : (mine.any fun c => ((s.rt c).ctxRt 0).localDone) = false := by
    refine List.any_eq_false.2 fun c hc => ?_
    obtain ⟨hc, hs⟩ := (hmem c).1 hc
    rw [hn c hc hs]
    decide
  refine completes_next (s.armReported mine st (s.armReport st r)) rfl hr ?_
    ⟨s.arming_armReported mine st _, fun c hc hs => ?_, s.armReported_keeps mine st _⟩
  · simp only [ht, hf, hv, hz, ← hmine, hnone]
    rfl
  · exact s.localDone_armReported mine st _ ((hmem c).2 ⟨hc, hs⟩)

/-! ## Crossing a chip boundary (R119) -/

/-- The link port in which what an ncyc delivers or drops has left the ingress. -/
def Link.ingressDone (now late : Nat) (l : Link) : Link :=
  { l with ingSched := l.ingSched.filter fun x => decide (now < x.at_), regs := l.regs.add LNK_SCHED_late_drop late }

theorem State.modLink_modLink (s : State) (n : Nat) (f g : Link → Link) : (s.modLink n f).modLink n g = s.modLink n fun l => g (f l) := by
  simp only [State.modLink, Table.mod_mod]

theorem State.onlyLink_modLink (s : State) (n : Nat) (f : Link → Link) : s.onlyLink (s.modLink n f) n :=
  ⟨fun _ hd => by rw [State.link_modLink, if_neg (Ne.symm hd)], rfl, rfl, rfl, rfl⟩

theorem exec_schedIngressDeliver (s : State) (n : Nat) :
    exec (.schedIngressDeliver n) s = onUnit (linkOk n) s
      ((s.modLink n (Link.ingressDone s.now ((s.link n).ingSched.filter fun x => decide (x.at_ < s.now)).length)).forEach
        ((s.link n).ingSched.filter fun x => x.at_ == s.now) fun s x =>
          s.modRt (linkCell n x.half).1 fun r => r.arrive .sched ⟨(linkCell n x.half).2, s.ncyc - 1, x.pkt⟩) := by
  have h (k : Nat) : (s.modLink n fun l => { l with ingSched := l.ingSched.filter fun x => decide (s.now < x.at_) }).modLinkRegs n
      (fun r => r.add LNK_SCHED_late_drop k) = s.modLink n (Link.ingressDone s.now k) := s.modLink_modLink n _ _
  rw [← h]
  rfl

section ingress

variable {s : State} {n : Nat} {x : Ingress} (hn : linkOk n = true) (hx : (s.link n).ingSched = [x])
include hn hx

theorem schedIngressDeliver_delivers (ha : x.at_ = s.now) :
    completes (.schedIngressDeliver n) s fun t =>
      (t.link n).ingSched = [] ∧ (t.rt (linkCell n x.half).1).sched =
        (s.rt (linkCell n x.half).1).sched ++ [⟨(linkCell n x.half).2, s.ncyc - 1, x.pkt⟩] := by
  let c := (linkCell n x.half).1
  let y : InFlight := ⟨(linkCell n x.half).2, s.ncyc - 1, x.pkt⟩
  let u := s.modLink n (Link.ingressDone s.now 0)
  refine completes_next (u.modRt c fun r => r.arrive .sched y) (exec_schedIngressDeliver s n) hn ?_ ⟨?_, ?_⟩
  · simp [hx, ha, State.forEach, u, c, y]
  · have hl : (u.link n).ingSched = [] := by
      rw [State.link_modLink_same, Link.ingressDone, hx]
      simp [ha]
    exact hl
  · exact congrArg Router.sched (u.rt_modRt_same c fun r => r.arrive .sched y)

theorem schedIngressDeliver_drops (ha : x.at_ < s.now) :
    completes (.schedIngressDeliver n) s fun t =>
      (t.link n).ingSched = [] ∧ (s.link n).regs.counted (t.link n).regs LNK_SCHED_late_drop ∧ s.onlyLink t n := by
  refine completes_next (s.modLink n (Link.ingressDone s.now 1)) (exec_schedIngressDeliver s n) hn ?_ ⟨?_, ?_, s.onlyLink_modLink n _⟩
  · simp [hx, ha, ha.ne, State.forEach]
  · rw [State.keeping_link, State.link_modLink_same, Link.ingressDone, hx]
    simp [ha.le]
  · rw [State.keeping_link, State.link_modLink_same]
    exact Regs.get_add_same _ _ _ (by decide)

end ingress

end Sys2Proof.Machine

namespace Sys2Proof.Machine

/-! ## The injection of a descriptor's packet leaves the routers as they were (R175, R180, R181) -/

theorem Cell.rt_writeStatus (x : Cell) (t : W64) (d : Desc) : (x.writeStatus t d).rt = x.rt := by unfold Cell.writeStatus; rfl

section routers

variable (s : State) (c e : Nat)

theorem State.rt_modCell_of {f : Cell → Cell} (h : ∀ x, (f x).rt = x.rt) : (s.modCell c f).rt e = s.rt e := by
  rw [State.rt, State.cell_modCell]
  split
  · exact h _
  · rfl

theorem State.rt_finishDesc (d : Desc) (st reason : Nat) : (s.finishDesc c d st reason).rt e = s.rt e := by
  unfold State.finishDesc
  extract_lets d' u
  have hu : u.rt e = s.rt e := s.rt_modCell_of c e fun x => by simp only [Cell.rt_writeStatus]
  clear_value u
  split
  · exact hu
  · rw [State.rt_bump, hu]

theorem State.rt_strobe (n : Nat) : (s.strobe c n).rt e = s.rt e := by
  simp only [State.strobe]
  split
  · rw [State.rt_modNi]
    rfl
  · rw [State.rt_modNi]

theorem State.rt_advanceCi (r fuel : Nat) : (s.advanceCi c r fuel).rt e = s.rt e := by
  induction fuel generalizing s with
  | zero => rfl
  | succ n ih =>
    rw [State.advanceCi]
    split
    · rfl
    · split
      · rw [ih]
        split <;> split <;> simp only [State.rt_strobe, State.rt_modNi, State.rt_finishDesc]
      · rfl

theorem State.rt_completeDesc (id st reason : Nat) : (s.completeDesc c id st reason).rt e = s.rt e := by
  unfold State.completeDesc
  split
  · rfl
  · split
    · rfl
    · rw [State.rt_advanceCi, State.rt_finishDesc]

theorem State.rt_checkWrite (id : Nat) : (s.checkWrite c id).rt e = s.rt e := by
  unfold State.checkWrite
  split
  · rfl
  · split
    · exact s.rt_completeDesc c e ..
    · rfl

theorem State.rt_checkSent (id : Nat) : (s.checkSent c id).rt e = s.rt e := by
  unfold State.checkSent
  split
  · rfl
  · split
    · exact s.rt_completeDesc c e ..
    · rfl

theorem State.rt_headSent (h : Head) : (s.headSent c h).rt e = s.rt e := by
  unfold State.headSent
  split
  case h_1 t _ =>
    split
    · rfl
    next tk _ =>
      split
      · rfl
      · dsimp only
        split
        · rw [State.rt_modNi]
        · split <;> simp only [State.rt_modNi]
  case h_2 id _ =>
    dsimp only
    split
    · rw [State.rt_modNi]
    · split
      · split
        · rw [State.rt_checkWrite, State.armTracker, State.rt_modNi, State.rt_modNi]
        · rw [State.rt_modNi]
      · rw [State.rt_checkSent, State.rt_modNi]
  case h_3 => rw [State.rt_modNi]
  all_goals rfl

end routers

/-! ## The slot of an NI's stream (R113, R114) -/

theorem State.routeLinks_congr {s t : State} (hc : t.chip = s.chip) (p fuel c port q : Nat) :
    t.routeLinks p fuel c port q = s.routeLinks p fuel c port q := by
  induction fuel generalizing c port q with
  | zero => rfl
  | succ n ih => simp only [State.routeLinks, State.bank_congr hc, State.linkTime, State.linkExtra_congr hc, ih]

/-- Whether a route stands depends on the sequence and on the service of the link ports (R31). -/
theorem State.routeOut_congr {s t : State} (hc : t.chip = s.chip) (ht : t.time = s.time) (hl : t.links = s.links) (c port : Nat) :
    t.routeOut c port = s.routeOut c port := by
  simp only [State.routeOut, State.pos_congr hc ht, State.routeLinks_congr hc, State.link_congr hl]

theorem State.slotOpen_congr {s t : State} {c : Nat} (hc : t.chip = s.chip) (ht : t.time = s.time) (hn : t.ncyc = s.ncyc) (hl : t.links = s.links)
    (hs : (t.rt c).sched = (s.rt c).sched) (hd : (t.ni c).didNow dSched s.ncyc = (s.ni c).didNow dSched s.ncyc) (p : Nat) :
    t.slotOpen c p = s.slotOpen c p := by
  simp only [State.slotOpen, State.inputFree, Router.coming, hn, hs, hd, State.routeOut_congr hc ht hl]

theorem State.slotDesc_congr {s t : State} {c st : Nat} (hs : (t.ni c).sending (4 + st) = (s.ni c).sending (4 + st))
    (hl : t.cget c NI_SCHED_CTL_lead = s.cget c NI_SCHED_CTL_lead) (hn : t.ncyc = s.ncyc) (ho : t.slotOpen c 4 = s.slotOpen c 4) :
    t.slotDesc c st = s.slotDesc c st := by
  simp only [State.slotDesc, hs, hl, hn, ho]

section note

variable (s : State) (c k : Nat)

/-- The state in which the NI has noted thing k for this ncyc. -/
def State.noted (s : State) (c k : Nat) : State := s.modNi c fun x => x.note k s.ncyc

theorem State.within_noted : s.Within (s.noted c k) c := s.within_modCell c _

@[simp] theorem State.ni_noted : (s.noted c k).ni c = (s.ni c).note k s.ncyc := s.ni_modNi_same c _

@[simp] theorem State.rt_noted (d : Nat) : (s.noted c k).rt d = s.rt d := s.rt_modNi c d _

@[simp] theorem State.regs_noted (d : Nat) : ((s.noted c k).cell d).regs = (s.cell d).regs := s.regs_modNi c d _

/-- Another note than the switch stage's leaves what a slot's descriptor depends on. -/
theorem State.slotDesc_noted (hk : k ≠ dSched) (st : Nat) : (s.noted c k).slotDesc c st = s.slotDesc c st := by
  refine State.slotDesc_congr ?_ ?_ rfl (State.slotOpen_congr (s := s) (t := s.noted c k) rfl rfl rfl rfl ?_ ?_ 4)
  · rw [s.ni_noted]
    rfl
  · exact congrArg (Regs.get · NI_SCHED_CTL_lead) (s.regs_noted c k c)
  · rw [s.rt_noted]
  · rw [s.ni_noted, Ni.didNow, Ni.note, aget_aput_ne _ _ hk, ← Ni.didNow]

/-- A note of the NI is in no packet. -/
theorem State.descPacket_noted (d : Desc) (i : Nat) : (s.noted c k).descPacket c d i = s.descPacket c d i := by
  have hc : (s.noted c k).cell c = { s.cell c with ni := (s.ni c).note k s.ncyc } := s.cell_modCell_same c _
  unfold State.descPacket State.ownPacket
  rw [hc]
  rfl

end note

theorem didKey_ne (st : Nat) : 300 + st ≠ dSched := by
  unfold dSched
  omega

/-! ### The packet of a slot -/

/-- The packet that a stream's slot takes of a descriptor: class 0, epoch 0, age 0 (R102). -/
def State.slotPacket (s : State) (c : Nat) (d : Desc) : Packet :=
  { ({ s.descPacket c d d.injected with cls := 0 } : Packet).seal with epoch := 0, age := 0 }

theorem State.slotPacket_type (s : State) (c : Nat) (d : Desc) : (s.slotPacket c d).type = (s.descPacket c d d.injected).type := rfl

theorem State.slotPacket_payload (s : State) (c : Nat) (d : Desc) : (s.slotPacket c d).payload = (s.descPacket c d d.injected).payload := rfl

/-- An injection in a slot after which the period has slots left. -/
theorem State.slotInject_enters (s : State) {c st p start left : Nat} {d : Desc} (hl : left ≠ 0) :
    ((s.slotInject c st p start left d).rt c).sched = (s.rt c).sched ++ [⟨4, s.ncyc - 1, s.slotPacket c d⟩] ∧
    s.Within (s.slotInject c st p start left d) c := by
  let pk := ({ s.descPacket c d d.injected with cls := 0 } : Packet).seal
  let h : Head := ⟨pk, s.ncyc, .desc d.id, 0⟩
  let u := (s.tagTx c d.tag).headSent c h
  have hu : s.Within u c := ((s.booked_tagTx c d.tag).trans (State.booked_headSent _ c h)).toWithin
  have hs : s.slotInject c st p start left d = u.schedEnter c 4 pk := by simp [State.slotInject, hl, u, h, pk]
  rw [hs]
  refine ⟨?_, hu.trans (u.within_modCell c _)⟩
  rw [State.schedEnter, State.rt_modRt_same, hu.ncyc, State.rt_headSent, State.tagTx, State.rt_modCellRegs]
  rfl

/-! ### The slip of an NI's stream -/

theorem State.onlyCell.trans {s t u : State} {c : Nat} (h : s.onlyCell t c) (k : t.onlyCell u c) : s.onlyCell u c := by
  obtain ⟨hc, hb, hr, hl, hg⟩ := h
  obtain ⟨kc, kb, kr, kl, kg⟩ := k
  exact ⟨fun d hd => (kc d hd).trans (hc d hd), kb.trans hb, kr.trans hr, kl.trans hl, kg.trans hg⟩

/-- A slip is counted, with its stream, in registers of the NI alone (R114, R129). -/
theorem State.noteSlip_counts (s : State) (c st pkts : Nat) (tag : W32) :
    (∀ d, (s.noteSlip c st pkts tag).rt d = s.rt d ∧ (s.noteSlip c st pkts tag).ni d = s.ni d) ∧
    (s.cell c).regs.counted ((s.noteSlip c st pkts tag).cell c).regs NI_SCHED_STAT_slip_events ∧
    (s.noteSlip c st pkts tag).cget c NI_SCHED_STAT_last_stream = st % 2 ^ NI_SCHED_STAT_last_stream.len ∧
    s.onlyCell (s.noteSlip c st pkts tag) c := by
  let u := s.modCellRegs c fun r =>
    ((r.bump NI_SCHED_STAT_slip_events).set NI_SCHED_STAT_last_stream st).set NI_SCHED_STAT_last_tag tag.toNat
  have hp : u.Posted (s.noteSlip c st pkts tag) := by
    simp only [State.noteSlip]
    split
    · exact u.posted_post ..
    · exact State.Posted.rfl u
  have hcell (d : Nat) : (s.noteSlip c st pkts tag).cell d = u.cell d := State.cell_congr hp.cells d
  refine ⟨fun d => ⟨?_, ?_⟩, ?_, ?_, (s.within_modCell c _).only.of_units hp.units⟩
  · rw [State.rt, hcell, ← State.rt, State.rt_modCellRegs]
  · rw [State.ni, hcell, ← State.ni, State.ni_modCellRegs]
  · rw [Regs.counted, hcell, State.regs_modCellRegs, Regs.get_set_ne _ _ _ _ (by decide) (by decide),
      Regs.get_set_ne _ _ _ _ (by decide) (by decide), Regs.get_bump_same _ _ (by decide)]
  · rw [State.cget, hcell, State.regs_modCellRegs, Regs.get_set_ne _ _ _ _ (by decide) (by decide), Regs.get_set_same _ _ _ (by decide)]

theorem State.slipNi_slips (s : State) (c st p start slots : Nat) :
    ((s.slipNi c st p start slots).rt c).sched = (s.rt c).sched ∧
    (aget ((s.slipNi c st p start slots).ni c).slips st).map (·.1) = some start ∧
    (s.cell c).regs.counted ((s.slipNi c st p start slots).cell c).regs NI_SCHED_STAT_slip_events ∧
    (s.slipNi c st p start slots).cget c NI_SCHED_STAT_last_stream = st % 2 ^ NI_SCHED_STAT_last_stream.len ∧
    s.onlyCell (s.slipNi c st p start slots) c := by
  unfold State.slipNi
  extract_lets x record d left tag old u
  obtain ⟨hsame, hcnt, hlast, honly⟩ := u.noteSlip_counts c st (max slots left) tag
  obtain ⟨hrt, hni⟩ := hsame c
  refine ⟨?_, ?_, ?_, hlast, ?_⟩
  · rw [hrt, State.rt_modNi]
  · rw [hni, State.ni_modNi_same]
    simp
  · rwa [Regs.counted, State.regs_modNi] at hcnt
  · exact (s.within_modCell c _).only.trans honly

/-! ### The slot -/

theorem slip_other {o : Option SlipRt} {start : Nat} (h : o.map (·.1) ≠ some start) : (o.any fun e => e.start == start) = false := by
  cases o with
  | none => rfl
  | some e =>
    have he : e.start ≠ start := fun he => h (congrArg some he)
    simpa using he

section niSlot

variable {s : State} {c st p q start : Nat} (hpos : s.pos = some (p, q, start))
  (hany : (s.activeRows c).any (fun r => r.inPort == 4 && r.stream == st) = true) (hd : (s.ni c).didNow (300 + st) s.ncyc = false)
  (hs : (aget (s.ni c).slips st).map (·.1) ≠ some start) (hh : (s.ni c).hold = .none)
include hpos hany hd hs hh

theorem State.niSlot_injects {d : Desc} (hdesc : s.slotDesc c st = some d) :
    s.niSlot c st = (s.noted c (300 + st)).slotInject c st p start
      (slotsFrom ((s.bank.rowsOf c p).filter fun r => r.inPort == 4 && r.stream == st) (q + 1)) d := by
  have hdesc' := (s.slotDesc_noted c (300 + st) (didKey_ne st) st).trans hdesc
  rw [State.noted] at hdesc'
  simp only [State.niSlot, hpos, hany]
  rw [if_neg (by simp [hd, slip_other hs, hh])]
  simp only [hdesc']
  rfl

theorem State.niSlot_slips (hdesc : s.slotDesc c st = none) :
    s.niSlot c st = (s.noted c (300 + st)).slipNi c st p start
      (slotsFrom ((s.bank.rowsOf c p).filter fun r => r.inPort == 4 && r.stream == st) q) := by
  have hdesc' := (s.slotDesc_noted c (300 + st) (didKey_ne st) st).trans hdesc
  rw [State.noted] at hdesc'
  simp only [State.niSlot, hpos, hany]
  rw [if_neg (by simp [hd, slip_other hs, hh])]
  simp only [hdesc']
  rfl

variable (hc : cellOk c = true) (hstop : s.stopped c = false) (hst : st < 64)
include hc hstop hst

theorem schedSlotSource_injects {d : Desc} (hdesc : s.slotDesc c st = some d)
    (hl : slotsFrom ((s.bank.rowsOf c p).filter fun r => r.inPort == 4 && r.stream == st) (q + 1) ≠ 0) :
    completes (.schedSlotSource c false st) s fun t =>
      (∃ pk, (t.rt c).sched = (s.rt c).sched ++ [⟨4, s.ncyc - 1, pk⟩] ∧ pk.type = (s.descPacket c d d.injected).type ∧ pk.cls = 0 ∧
        pk.epoch = 0 ∧ pk.age = 0 ∧ pk.payload = (s.descPacket c d d.injected).payload) ∧ s.onlyCell t c := by
  let u := s.noted c (300 + st)
  obtain ⟨henter, hw⟩ := u.slotInject_enters (c := c) (st := st) (p := p) (start := start) (d := d) hl
  refine completes_next _ rfl (by simp [Instr.wf, hc, hst]) ((if_neg (by simp [hstop])).trans (State.niSlot_injects hpos hany hd hs hh hdesc))
    ⟨⟨u.slotPacket c d, ?_, ?_, rfl, rfl, rfl, ?_⟩, ((s.within_noted c _).trans hw).only⟩
  · rw [State.keeping_rt, henter, s.rt_noted]
    rfl
  · exact (u.slotPacket_type c d).trans (congrArg Packet.type (s.descPacket_noted c (300 + st) d d.injected))
  · exact (u.slotPacket_payload c d).trans (congrArg Packet.payload (s.descPacket_noted c (300 + st) d d.injected))

theorem schedSlotSource_slips (hdesc : s.slotDesc c st = none) :
    completes (.schedSlotSource c false st) s fun t =>
      (t.rt c).sched = (s.rt c).sched ∧ (aget (t.ni c).slips st).map (·.1) = some start ∧
      (s.cell c).regs.counted (t.cell c).regs NI_SCHED_STAT_slip_events ∧ t.cget c NI_SCHED_STAT_last_stream = st ∧ s.onlyCell t c := by
  let u := s.noted c (300 + st)
  obtain ⟨hsched, hslips, hcnt, hlast, honly⟩ := u.slipNi_slips c st p start
    (slotsFrom ((s.bank.rowsOf c p).filter fun r => r.inPort == 4 && r.stream == st) q)
  refine completes_next _ rfl (by simp [Instr.wf, hc, hst])
    ((if_neg (by simp [hstop])).trans (State.niSlot_slips hpos hany hd hs hh hdesc))
    ⟨hsched.trans (congrArg Router.sched (s.rt_noted c _ c)), hslips, ?_, hlast.trans (Nat.mod_eq_of_lt hst),
      (s.within_noted c _).only.trans honly⟩
  rwa [Regs.counted, s.regs_noted] at hcnt

end niSlot

/-! ## The slot of a gateway's stream (R113, R114, R185) -/

theorem State.forEach_none {α : Type} {f : State → α → State} {l : List α} (h : ∀ s, ∀ b ∈ l, f s b = s) (s : State) :
    s.forEach l f = s := by
  induction l with
  | nil => rfl
  | cons b l ih =>
    have hb : f s b = s := h s b List.mem_cons_self
    exact (congrArg (State.forEach · l f) hb).trans (ih fun s b hm => h s b (List.mem_cons_of_mem _ hm))

/-- A loop whose step changes nothing but for one of its values is the step of that value. -/
theorem State.forEach_only {α : Type} {f : State → α → State} {a : α} {l : List α} (hl : l.Nodup) (ha : a ∈ l)
    (h : ∀ s, ∀ b ∈ l, b ≠ a → f s b = s) (s : State) : s.forEach l f = f s a := by
  induction l generalizing s with
  | nil => cases ha
  | cons b l ih =>
    obtain ⟨hb, hl⟩ := List.nodup_cons.1 hl
    rcases List.mem_cons.1 ha with rfl | ha
    · exact State.forEach_none (fun s b hm => h s b (List.mem_cons_of_mem _ hm) fun he => hb (he ▸ hm)) (f s a)
    · have hs : f s b = s := h s b List.mem_cons_self fun he => hb (he ▸ ha)
      exact (congrArg (State.forEach · l f) hs).trans (ih hl ha (fun s b hm => h s b (List.mem_cons_of_mem _ hm)) s)

theorem State.onlyGw_modGw (s : State) (g : Nat) (f : Gateway → Gateway) : s.onlyGw (s.modGw g f) g :=
  ⟨fun _ hd => by rw [State.gw_modGw, if_neg (Ne.symm hd)], rfl, rfl, rfl, rfl⟩

theorem State.onlyGw.trans {s t u : State} {g : Nat} (h : s.onlyGw t g) (k : t.onlyGw u g) : s.onlyGw u g := by
  obtain ⟨hg, hc, hb, hr, hl⟩ := h
  obtain ⟨kg, kc, kb, kr, kl⟩ := k
  exact ⟨fun d hd => (kg d hd).trans (hg d hd), kc.trans hc, kb.trans hb, kr.trans hr, kl.trans hl⟩

theorem State.stream_modStream (s : State) (g st : Nat) (f : StreamRt → StreamRt) :
    ((s.modStream g st f).gw g).stream st = f ((s.gw g).stream st) := by
  rw [State.modStream, State.gw_modGw_same, Gateway.stream, aget_aput_same, Option.getD_some]

theorem State.slipGw_slips (s : State) (g st p start slots : Nat) :
    (((s.slipGw g st p start slots).gw g).stream st).slip.map (·.1) = some start ∧
    (((s.slipGw g st p start slots).gw g).stream st).sent = ((s.gw g).stream st).sent ∧ s.onlyGw (s.slipGw g st p start slots) g := by
  rw [State.slipGw, State.stream_modStream]
  exact ⟨rfl, rfl, s.onlyGw_modGw g _⟩

/-- The state in which a gateway has noted the slot of a stream for this ncyc, and the slots left idle in another period have fallen away. -/
def State.gwNoted (s : State) (g st : Nat) : State :=
  (s.modGw g fun y => { y with did := aput y.did (1000 + st) (s.ncyc + 1) }).modStream g st fun x => { x with idle := none }

theorem State.stream_gwNoted (s : State) (g st : Nat) : ((s.gwNoted g st).gw g).stream st = { (s.gw g).stream st with idle := none } := by
  rw [State.gwNoted, State.stream_modStream, State.gw_modGw_same]
  rfl

theorem State.onlyGw_gwNoted (s : State) (g st : Nat) : s.onlyGw (s.gwNoted g st) g := (s.onlyGw_modGw g _).trans (State.onlyGw_modGw _ g _)

theorem State.slotGranule_gwNoted (s : State) (g st : Nat) : (s.gwNoted g st).slotGranule g st = s.slotGranule g st := by
  simp only [State.slotGranule, State.stream_gwNoted]
  rfl

section gwSlot

variable {s : State} {c st p q start g port : Nat} (hpos : s.pos = some (p, q, start))
  (hany : (s.activeRows c).any (fun r => r.inPort == port && r.stream == st) = true) (hd : aget (s.gw g).did (1000 + st) ≠ some (s.ncyc + 1))
  (hh : (s.gw g).hold = false) (hs : ((s.gw g).stream st).slip.map (·.1) ≠ some start) (hi : ((s.gw g).stream st).idles start = false)
  (hg : s.slotGranule g st = false)
include hpos hany hd hh hs hi hg

theorem State.gwSlot_slips :
    s.gwSlot c st port g = (s.gwNoted g st).slipGw g st p start
      (slotsFrom ((s.bank.rowsOf c p).filter fun r => r.inPort == port && r.stream == st) q) := by
  have hg' := (s.slotGranule_gwNoted g st).trans hg
  rw [State.gwNoted] at hg'
  simp only [State.gwSlot, hpos, hany]
  rw [if_neg (by simp [hd, hh, slip_other hs]), if_neg (by simp [hi])]
  simp only [hg', Bool.false_and, Bool.false_eq_true, if_false]
  rfl

theorem schedSlotSource_gwSlips {k : Nat} (hc : cellOk c = true) (hstop : s.stopped c = false) (hst : streamOk st = true)
    (he : edgeOf c port = some (.gateway g k)) (hp : port < 4)
    (ho : ∀ o, o < 4 → o ≠ port → ∀ g' k', edgeOf c o ≠ some (.gateway g' k')) :
    completes (.schedSlotSource c true st) s fun t =>
      ((t.gw g).stream st).slip.map (·.1) = some start ∧ ((t.gw g).stream st).sent = ((s.gw g).stream st).sent ∧ s.onlyGw t g := by
  obtain ⟨slots, hslots⟩ := (⟨_, State.gwSlot_slips hpos hany hd hh hs hi hg⟩ :
    ∃ slots, s.gwSlot c st port g = (s.gwNoted g st).slipGw g st p start slots)
  obtain ⟨hslip, hsent, honly⟩ := (s.gwNoted g st).slipGw_slips g st p start slots
  refine completes_next ((s.gwNoted g st).slipGw g st p start slots) rfl (by simp [Instr.wf, hc, hst]) ?_
    ⟨hslip, hsent.trans (congrArg StreamRt.sent (s.stream_gwNoted g st) :), (s.onlyGw_gwNoted g st).trans honly⟩
  rw [if_neg (by simp [hstop]), if_pos rfl, State.forEach_only List.nodup_range (List.mem_range.2 hp), he]
  · exact hslots
  · intro s o hm hne
    split
    next g' k' h => exact absurd h (ho o (List.mem_range.1 hm) hne g' k')
    next => rfl

end gwSlot

/-- Settles O56: packets at a router, the sources, the periods to come, the ingress. -/
theorem scheduledPlane : Obligations.ScheduledPlane := by
  intro s
  refine ⟨fun c es x hc hes hd hp hx hdue _ he hs hm h0 h15 =>
      ⟨fun hr => ?_, fun r hr => ⟨fun hin => ?_, fun o e hin ho hn _ hopen => ?_, fun hin ho => ?_⟩⟩,
    fun c st p q start hc hstop hpos => ⟨fun hst hany hd hs hh => ⟨fun d hdesc hl => ?_, fun hdesc => ?_⟩,
      fun g k port hst he hp ho hany hd hh hs hi hg => ?_⟩,
    fun r hr => ⟨periodWake_wakes hr, fun st => periodArmReport_reports hr⟩,
    fun n x hn hx => ⟨schedIngressDeliver_delivers hn hx, schedIngressDeliver_drops hn hx⟩⟩
  · have h := schedRouterArrival_loses hc hes hd hp hx hdue he hs hm (by rw [hr]; rfl)
    rwa [hr] at h
  · have h := schedRouterArrival_loses hc hes hd hp hx hdue he hs hm (by rw [hr]; simpa using hin)
    rwa [hr] at h
  · exact schedRouterArrival_sends hc hes hd hp hx hdue he hs hm hr hin ho hn hopen
  · exact schedRouterArrival_ejects hc hes hd hp hx hdue he hs hm hr hin ho h0 h15
  · exact schedSlotSource_injects hpos hany hd hs hh hc hstop hst hdesc hl
  · exact schedSlotSource_slips hpos hany hd hs hh hc hstop hst hdesc
  · exact schedSlotSource_gwSlips hpos hany hd hh hs hi hg hc hstop hst he hp ho

end Sys2Proof.Machine

/-! PROOFS. The channels and queues family: every step keeps the memories canonical (log 6). One lemma per operation of the model says that it
leaves the canonical form as it was, or, where it writes a memory, that it keeps it; the commands follow, then the step. -/

namespace Sys2Proof.Machine

/-! ## Canonical memories in tables (log 6) -/

theorem all_of_aget {α : Type} {p : α → Bool} {l : Assoc α} {k : Nat} {v : α} (h : aget l k = some v) (hl : l.all (fun e => p e.2) = true) :
    p v = true := by
  induction l with
  | nil => cases h
  | cons e r ih =>
    obtain ⟨a, b⟩ := e
    obtain ⟨hb, hr⟩ := (Bool.and_eq_true ..).mp (List.all_cons ▸ hl)
    by_cases ha : a = k
    · simp only [aget, ha, if_true, Option.some.injEq] at h
      exact h ▸ hb
    · exact ih (by simpa only [aget, if_neg ha] using h) hr

theorem all_aput {α : Type} {p : α → Bool} {l : Assoc α} {k : Nat} {v : α} (hv : p v = true) (hl : l.all (fun e => p e.2) = true) :
    (aput l k v).all (fun e => p e.2) = true := by
  induction l with
  | nil => simpa [aput] using hv
  | cons e r ih =>
    obtain ⟨a, b⟩ := e
    obtain ⟨hb, hr⟩ := (Bool.and_eq_true ..).mp (List.all_cons ▸ hl)
    simp only [aput]
    split_ifs <;> simp only [List.all_cons, Bool.and_eq_true, hv, hb, hr, ih hr, and_self]

/-- What stood in a list before a value was put there passes a test that the list passes now, where the value it replaced passes as the new one
does. -/
theorem all_of_all_aput {α : Type} {p : α → Bool} {l : Assoc α} {k : Nat} {v : α} (hv : ∀ w, aget l k = some w → p w = p v)
    (hl : (aput l k v).all (fun e => p e.2) = true) : l.all (fun e => p e.2) = true := by
  induction l with
  | nil => rfl
  | cons e r ih =>
    obtain ⟨a, b⟩ := e
    simp only [aput] at hl
    split_ifs at hl with h1 h2
    · exact ((Bool.and_eq_true ..).mp (List.all_cons ▸ hl)).2
    · obtain ⟨hv', hr⟩ := (Bool.and_eq_true ..).mp (List.all_cons ▸ hl)
      simp only [List.all_cons, Bool.and_eq_true, hr, and_true]
      rw [hv b (by simp [aget, h2]), hv']
    · obtain ⟨hb, hr⟩ := (Bool.and_eq_true ..).mp (List.all_cons ▸ hl)
      simp only [List.all_cons, Bool.and_eq_true, hb, true_and]
      exact ih (fun w hw => hv w (by simpa only [aget, if_neg h2] using hw)) hr

/-- Every value of a table passes a test: the one of what is not listed, and each that is listed. -/
def Table.all {α : Type} (t : Table α) (p : α → Bool) : Bool := p t.dflt && t.ents.all fun e => p e.2

section tables

variable {α : Type} {t : Table α} {p : α → Bool} {k : Nat} {f : α → α}

theorem Table.all_get (ht : t.all p = true) : p (t.get k) = true := by
  obtain ⟨hd, hl⟩ := (Bool.and_eq_true ..).mp ht
  simp only [Table.get]
  cases h : aget t.ents k with
  | none => exact hd
  | some v => exact all_of_aget h hl

theorem Table.all_mod_of (h : p (t.get k) = true → p (f (t.get k)) = true) (ht : t.all p = true) : (t.mod k f).all p = true := by
  obtain ⟨hd, hl⟩ := (Bool.and_eq_true ..).mp ht
  exact (Bool.and_eq_true ..).mpr ⟨hd, all_aput (h (t.all_get ht)) hl⟩

theorem Table.all_mod (h : ∀ x, p (f x) = p x) : (t.mod k f).all p = t.all p := by
  refine Bool.eq_iff_iff.mpr ⟨fun ht => ?_, t.all_mod_of fun hp => (h _).trans hp⟩
  obtain ⟨hd, hl⟩ := (Bool.and_eq_true ..).mp ht
  refine (Bool.and_eq_true ..).mpr ⟨hd, all_of_all_aput (fun w hw => ?_) hl⟩
  simp only [Table.get, hw, Option.getD_some, h]

theorem Table.all_mapAll (h : ∀ x, p (f x) = p x) : (t.mapAll f).all p = t.all p := by
  simp only [Table.all, Table.mapAll, h, List.all_map, Function.comp_def]

end tables

/-! ## The canonical form of a state's memories: the rules of the state's operations -/

section

variable (s : State)

theorem State.memWf_eq : s.memWf =
    (s.cells.all (fun x => Memory.wf x.cm) && s.gws.all (fun x => Memory.wf x.stack) && Memory.wf s.ftn.image &&
      s.ftn.staging.all fun e => Memory.wf e.2) := rfl

@[simp] theorem State.modCell_memWf {c : Nat} {f : Cell → Cell} (h : ∀ x, (f x).cm = x.cm) : (s.modCell c f).memWf = s.memWf := by
  simp only [State.memWf_eq, State.modCell_cells, State.modCell_gws, State.modCell_ftn]
  rw [Table.all_mod (p := fun x : Cell => Memory.wf x.cm) fun x => congrArg Memory.wf (h x)]

@[simp] theorem State.modGw_memWf {g : Nat} {f : Gateway → Gateway} (h : ∀ x, (f x).stack = x.stack) : (s.modGw g f).memWf = s.memWf := by
  simp only [State.memWf_eq, State.modGw_cells, State.modGw_gws, State.modGw_ftn]
  rw [Table.all_mod (p := fun x : Gateway => Memory.wf x.stack) fun x => congrArg Memory.wf (h x)]

@[simp] theorem State.modFtn_memWf {f : Ftn → Ftn} (h : ∀ x, (f x).image = x.image) (h' : ∀ x, (f x).staging = x.staging) :
    (s.modFtn f).memWf = s.memWf := by
  simp only [State.memWf_eq, State.modFtn_cells, State.modFtn_gws, State.modFtn_ftn, h, h']

/-- A change of one cell keeps the canonical form if it keeps that of a memory. -/
theorem State.modCell_memWf_of {c : Nat} {f : Cell → Cell} (hf : ∀ x, Memory.wf x.cm = true → Memory.wf (f x).cm = true) (h : s.memWf = true) :
    (s.modCell c f).memWf = true := by
  simp only [State.memWf_eq, Bool.and_eq_true, State.modCell_cells, State.modCell_gws, State.modCell_ftn] at h ⊢
  obtain ⟨⟨⟨hc, hg⟩, hi⟩, hs⟩ := h
  exact ⟨⟨⟨Table.all_mod_of (hf _) hc, hg⟩, hi⟩, hs⟩

/-- A change of one gateway keeps the canonical form if it keeps that of a stack. -/
theorem State.modGw_memWf_of {g : Nat} {f : Gateway → Gateway} (hf : ∀ x, Memory.wf x.stack = true → Memory.wf (f x).stack = true)
    (h : s.memWf = true) : (s.modGw g f).memWf = true := by
  simp only [State.memWf_eq, Bool.and_eq_true, State.modGw_cells, State.modGw_gws, State.modGw_ftn] at h ⊢
  obtain ⟨⟨⟨hc, hg⟩, hi⟩, hs⟩ := h
  exact ⟨⟨⟨hc, Table.all_mod_of (hf _) hg⟩, hi⟩, hs⟩

@[simp] theorem State.memWf_ite (p : Prop) [Decidable p] (a b : State) : (if p then a else b).memWf = if p then a.memWf else b.memWf :=
  apply_ite ..

theorem State.memWf_of_ite {p : Prop} [Decidable p] {a b : State} {w : Bool} (ha : a.memWf = w) (hb : b.memWf = w) :
    (if p then a else b).memWf = w := by
  split
  · exact ha
  · exact hb

@[simp] theorem State.modNi_memWf (c : Nat) (f : Ni → Ni) : (s.modNi c f).memWf = s.memWf := s.modCell_memWf fun _ => rfl
@[simp] theorem State.modRt_memWf (c : Nat) (f : Router → Router) : (s.modRt c f).memWf = s.memWf := s.modCell_memWf fun _ => rfl
@[simp] theorem State.modCellRegs_memWf (c : Nat) (f : Regs → Regs) : (s.modCellRegs c f).memWf = s.memWf := s.modCell_memWf fun _ => rfl
@[simp] theorem State.bump_memWf (c : Nat) (f : Field) : (s.bump c f).memWf = s.memWf := s.modCellRegs_memWf ..
@[simp] theorem State.modGwRegs_memWf (g : Nat) (f : Regs → Regs) : (s.modGwRegs g f).memWf = s.memWf := s.modGw_memWf fun _ => rfl

@[simp] theorem State.forEach_memWf {α : Type} {l : List α} {f : State → α → State} (h : ∀ s a, (f s a).memWf = s.memWf) :
    (s.forEach l f).memWf = s.memWf := by
  unfold State.forEach
  induction l generalizing s with
  | nil => rfl
  | cons a r ih => exact (ih _).trans (h s a)

@[simp] theorem State.foldl_memWf {α : Type} {l : List α} {f : State → α → State} (h : ∀ s a, (f s a).memWf = s.memWf) :
    (l.foldl f s).memWf = s.memWf := s.forEach_memWf h

theorem State.foldl_fst_memWf {α β : Type} {l : List α} {f : State × β → α → State × β} (h : ∀ a x, (f a x).1.memWf = a.1.memWf)
    (a : State × β) : (l.foldl f a).1.memWf = a.1.memWf := by
  induction l generalizing a with
  | nil => rfl
  | cons x r ih => exact (ih _).trans (h a x)

theorem State.foldl_fst_memWf_of {α β : Type} {l : List α} {f : State × β → α → State × β}
    (h : ∀ a x, a.1.memWf = true → (f a x).1.memWf = true) (a : State × β) (ha : a.1.memWf = true) : (l.foldl f a).1.memWf = true := by
  induction l generalizing a with
  | nil => exact ha
  | cons x r ih => exact ih _ (h a x ha)

/-- What every change in a row keeps, the row keeps. -/
theorem State.forEach_memWf_of {α : Type} {l : List α} {f : State → α → State} (h : ∀ s a, s.memWf = true → (f s a).memWf = true)
    (hs : s.memWf = true) : (s.forEach l f).memWf = true := by
  unfold State.forEach
  induction l generalizing s with
  | nil => exact hs
  | cons a r ih => exact ih _ (h s a hs)

@[simp] theorem State.modBlock_memWf (b : Nat) (f : Block → Block) : (s.modBlock b f).memWf = s.memWf := (rfl)
@[simp] theorem State.modRegion_memWf (r : Nat) (f : Region → Region) : (s.modRegion r f).memWf = s.memWf := (rfl)
@[simp] theorem State.modLink_memWf (n : Nat) (f : Link → Link) : (s.modLink n f).memWf = s.memWf := (rfl)
@[simp] theorem State.modChip_memWf (f : Chip → Chip) : (s.modChip f).memWf = s.memWf := (rfl)
@[simp] theorem State.modBlockRegs_memWf (b : Nat) (f : Regs → Regs) : (s.modBlockRegs b f).memWf = s.memWf := (rfl)
@[simp] theorem State.modRegionRegs_memWf (r : Nat) (f : Regs → Regs) : (s.modRegionRegs r f).memWf = s.memWf := (rfl)
@[simp] theorem State.modLinkRegs_memWf (n : Nat) (f : Regs → Regs) : (s.modLinkRegs n f).memWf = s.memWf := (rfl)
@[simp] theorem State.modChipRegs_memWf (f : Regs → Regs) : (s.modChipRegs f).memWf = s.memWf := (rfl)
@[simp] theorem State.emit_memWf (o : Out) : (s.emit o).memWf = s.memWf := (rfl)
@[simp] theorem State.keeping_memWf (old : State) : (s.keeping old).memWf = s.memWf := (rfl)
@[simp] theorem State.draw_memWf : s.draw.2.memWf = s.memWf := (rfl)

@[simp] theorem State.when_memWf {b : Bool} {f : State → State} (h : ∀ s, (f s).memWf = s.memWf) : (s.when_ b f).memWf = s.memWf := by
  cases b
  · rfl
  · exact h s

theorem onUnit_memWf {ok : Bool} {old s t : State} (h : onUnit ok old s = .next t) : t.memWf = s.memWf := by
  unfold onUnit at h
  split at h
  · cases h; rfl
  · cases h

end

theorem State.mapLinks_memWf (s : State) (f : Link → Link) : ({ s with links := s.links.mapAll f } : State).memWf = s.memWf := rfl

/-- Are the memories of the state that an outcome goes on to canonical? -/
def resMemWf (r : Res) : Bool :=
  match r with
  | .next t => t.memWf
  | _ => true

/-- What a change of the state keeps, the command that makes it on a unit keeps. -/
theorem onUnit_resMemWf {ok : Bool} {old s : State} (h : s.memWf = true) : resMemWf (onUnit ok old s) = true := by
  unfold onUnit
  split
  · exact h
  · rfl

/-! ## What each operation of the model does to the canonical form -/

/-! ### Routers -/

@[simp] theorem Gateway.move_stack (x : Gateway) (now : Nat) : (x.move now).stack = x.stack := (rfl)

@[simp] theorem State.bounce_memWf (s : State) (c : Nat) (pl : Plane) (p : Nat) (pk : Packet) : (s.bounce c pl p pk).memWf = s.memWf := by
  simp [State.bounce]

@[simp] theorem State.gwTake_memWf (s : State) (c : Nat) (pl : Plane) (p g k : Nat) (pk : Packet) : (s.gwTake c pl p g k pk).memWf = s.memWf := by
  simp [State.gwTake]

@[simp] theorem State.drive_memWf (s : State) (c : Nat) (pl : Plane) (p : Nat) (pkt : Packet) : (s.drive c pl p pkt).memWf = s.memWf := by
  unfold State.drive
  repeat' split
  all_goals simp

@[simp] theorem State.take_memWf (s : State) (c : Nat) (pl : Plane) (m : BitVec 7) : (s.take c pl m).memWf = s.memWf := by simp [State.take]

/-! ### Resets of cells and NIs -/

@[simp] theorem State.releaseStalls_memWf (s : State) (c : Nat) : (s.releaseStalls c).memWf = s.memWf := by simp [State.releaseStalls]

@[simp] theorem State.refillSpill_memWf (s : State) : s.refillSpill.memWf = s.memWf := by
  unfold State.refillSpill
  split
  · rfl
  · dsimp only
    rw [State.forEach_memWf _ fun s c => State.modCell_memWf _ fun x => by dsimp only]
    simp only [State.memWf_eq]
    rw [Table.all_mapAll fun x => by dsimp only]

@[simp] theorem State.resetNi_memWf (s : State) (c : Nat) (h : NiHold) : (s.resetNi c h).memWf = s.memWf := by simp [State.resetNi]

@[simp] theorem State.resetCellRegs_memWf (s : State) (c : Nat) : (s.resetCellRegs c).memWf = s.memWf := by simp [State.resetCellRegs]

@[simp] theorem State.resetCell_memWf (s : State) (c : Nat) (h : NiHold) : (s.resetCell c h).memWf = s.memWf := by simp [State.resetCell]

/-- Words of a completion keep a memory canonical (R181). -/
theorem Cell.writeStatus_wf (x : Cell) (time : W64) (d : Desc) (h : Memory.wf x.cm = true) : Memory.wf (x.writeStatus time d).cm = true :=
  mwriteWord_wf _ _ _ (mwriteWord_wf _ _ _ h)

theorem Cell.foldl_wf {α : Type} {f : Cell → α → Cell} (hf : ∀ x a, Memory.wf x.cm = true → Memory.wf (f x a).cm = true) {l : List α}
    {x : Cell} (hx : Memory.wf x.cm = true) : Memory.wf (l.foldl f x).cm = true := by
  induction l generalizing x with
  | nil => exact hx
  | cons a r ih => exact ih (hf x a hx)

@[simp] theorem State.strobe_memWf (s : State) (c num : Nat) : (s.strobe c num).memWf = s.memWf := by
  simp [State.strobe]

@[simp] theorem State.nextStrobe_memWf (s : State) (c : Nat) : (s.nextStrobe c).memWf = s.memWf := by
  unfold State.nextStrobe
  split <;> simp

@[simp] theorem State.leaveReset_memWf (s : State) (c : Nat) (hs : s.memWf = true) : (s.leaveReset c).memWf = true := by
  unfold State.leaveReset
  split
  · exact hs
  · dsimp only
    rw [State.forEach_memWf _ fun s d => State.strobe_memWf ..]
    refine s.modCell_memWf_of (fun x hx => ?_) hs
    dsimp only
    exact Cell.foldl_wf (fun y d hy => y.writeStatus_wf _ _ hy) hx

/-! ### Fences and sluices -/

@[simp] theorem State.blockRecord_memWf (s : State) (b : Nat) (r : FaultRec) : (s.blockRecord b r).memWf = s.memWf := (rfl)

@[simp] theorem State.regionRecord_memWf (s : State) (g : Nat) (r : FaultRec) : (s.regionRecord g r).memWf = s.memWf := (rfl)

@[simp] theorem State.shutLink_memWf (s : State) (c p : Nat) (cell : Bool) (cls : Nat) : (s.shutLink c p cell cls).memWf = s.memWf := by
  unfold State.shutLink
  split <;> simp

@[simp] theorem State.fenceLoss_memWf (s : State) (c : Nat) : (s.fenceLoss c).memWf = s.memWf := by
  unfold State.fenceLoss
  dsimp only
  split <;> simp

@[simp] theorem State.fenceOnly_memWf (s : State) (c cls : Nat) : (s.fenceOnly c cls).memWf = s.memWf := by simp [State.fenceOnly]

@[simp] theorem State.fenceBlockOnly_memWf (s : State) (b cls : Nat) : (s.fenceBlockOnly b cls).memWf = s.memWf := by simp [State.fenceBlockOnly]

@[simp] theorem State.fenceBlock_memWf (s : State) (b cls level port plane detail : Nat) :
    (s.fenceBlock b cls level port plane detail).memWf = s.memWf := by
  simp [State.fenceBlock]

@[simp] theorem State.fenceByCells_memWf (s : State) (b cls port plane detail : Nat) : (s.fenceByCells b cls port plane detail).memWf = s.memWf := by
  simp [State.fenceByCells]

@[simp] theorem State.fenceCell_memWf (s : State) (c cls port plane detail : Nat) : (s.fenceCell c cls port plane detail).memWf = s.memWf := by
  simp [State.fenceCell]

@[simp] theorem State.fenceByPorts_memWf (s : State) (c cls port plane detail : Nat) : (s.fenceByPorts c cls port plane detail).memWf = s.memWf := by
  simp [State.fenceByPorts]

@[simp] theorem State.closeSluice_memWf (s : State) (c p cls plane detail : Nat) : (s.closeSluice c p cls plane detail).memWf = s.memWf := by
  unfold State.closeSluice
  repeat' split
  all_goals simp

@[simp] theorem State.byController_memWf (s : State) (b : Nat) (r : FaultRec) {act : State → State} (h : ∀ s, (act s).memWf = s.memWf) :
    (s.byController b r act).memWf = s.memWf := by
  simp [State.byController, h]

@[simp] theorem State.linkError_memWf (s : State) (c p plane kind : Nat) : (s.linkError c p plane kind).memWf = s.memWf := by simp [State.linkError]

@[simp] theorem State.closeRill_memWf (s : State) (c p : Nat) : (s.closeRill c p).memWf = s.memWf := by
  unfold State.closeRill
  split <;> simp

@[simp] theorem State.rillError_memWf (s : State) (c p kind : Nat) : (s.rillError c p kind).memWf = s.memWf := by simp [State.rillError]

@[simp] theorem State.storeError_memWf (s : State) (c store : Nat) (sets : Bool) : (s.storeError c store sets).memWf = s.memWf := by
  simp [State.storeError]

@[simp] theorem State.tableError_memWf (s : State) (c table : Nat) : (s.tableError c table).memWf = s.memWf := by simp [State.tableError]

/-! ### Events -/

@[simp] theorem State.postHost_memWf (s : State) (e : Event) : (s.postHost e).memWf = s.memWf := by simp [State.postHost]

@[simp] theorem State.postMgmt_memWf (s : State) (e : Event) : (s.postMgmt e).memWf = s.memWf := by simp [State.postMgmt]

@[simp] theorem State.post_memWf (s : State) (type unit : Nat) (body0 body1 : W64) : (s.post type unit body0 body1).memWf = s.memWf := by
  simp [State.post]

@[simp] theorem State.zRecord_memWf (s : State) (r : FaultRec) : (s.zRecord r).memWf = s.memWf := by simp [State.zRecord]

/-! ### Answers, queues and tokens of an NI -/

@[simp] theorem State.tagTx_memWf (s : State) (c : Nat) (tag : W32) : (s.tagTx c tag).memWf = s.memWf := by simp [State.tagTx]

@[simp] theorem State.tagRx_memWf (s : State) (c : Nat) (tag : W32) : (s.tagRx c tag).memWf = s.memWf := by simp [State.tagRx]

@[simp] theorem State.answer_memWf (s : State) (c : Nat) (a : Packet) : (s.answer c a).memWf = s.memWf := by simp [State.answer]

@[simp] theorem State.nack_memWf (s : State) (c : Nat) (p : Packet) (reason detail : Nat) : (s.nack c p reason detail).memWf = s.memWf := by
  simp [State.nack]

@[simp] theorem State.releaseMeta_memWf (s : State) (c q : Nat) : (s.releaseMeta c q).memWf = s.memWf := by simp [State.releaseMeta]

@[simp] theorem State.dispatch_memWf (s : State) (c : Nat) (handler : BitVec 12) (q : Nat) : (s.dispatch c handler q).memWf = s.memWf := by
  simp [State.dispatch]

@[simp] theorem State.visible_memWf (s : State) (c q : Nat) (e : QEntry) : (s.visible c q e).memWf = s.memWf := by simp [State.visible]

@[simp] theorem State.takeEntry_memWf (s : State) (c : Nat) : (s.takeEntry c).memWf = s.memWf := by simp [State.takeEntry]

@[simp] theorem State.pushEntry_memWf (s : State) (c q : Nat) (e : QEntry) : (s.pushEntry c q e).memWf = s.memWf := by simp [State.pushEntry]

@[simp] theorem State.wakeRegion_memWf (s : State) (r : Nat) : (s.wakeRegion r).memWf = s.memWf := by simp [State.wakeRegion]

@[simp] theorem State.wakeBlock_memWf (s : State) (b : Nat) : (s.wakeBlock b).memWf = s.memWf := by simp [State.wakeBlock]

@[simp] theorem State.zCell_memWf (s : State) (c : Nat) {f : State → State} (h : ∀ s, (f s).memWf = s.memWf) :
    (s.zCell c f).memWf = s.memWf := by
  unfold State.zCell
  split <;> simp [h]

@[simp] theorem State.respond_memWf (s : State) (c core : Nat) (v : W64) : (s.respond c core v).memWf = s.memWf := (rfl)

@[simp] theorem State.holdAt_memWf (s : State) (b : Nat) (x : Crossing) : (s.holdAt b x).memWf = s.memWf := (rfl)

theorem State.access_memWf (s : State) (c core : Nat) (i : Instr) {f : State → State} (hf : ∀ s, s.memWf = true → (f s).memWf = true)
    (hs : s.memWf = true) : (s.access c core i f).memWf = true := by
  simp [State.access, hs, hf]

theorem State.writeAccess_memWf (s : State) (c core : Nat) (i : Instr) {f : State → State} (hf : ∀ s, s.memWf = true → (f s).memWf = true)
    (hs : s.memWf = true) : (s.writeAccess c core i f).memWf = true :=
  s.access_memWf c core i (fun s hs => by simp [hs, hf]) hs

@[simp] theorem State.resolve_memWf (s : State) (c lid : Nat) : (s.resolve c lid).1.memWf = s.memWf := by
  unfold State.resolve
  split <;> simp

@[simp] theorem State.peerIs_memWf (s : State) (c chip lid : Nat) : (s.peerIs c chip lid).1.memWf = s.memWf := by
  unfold State.peerIs
  dsimp only
  repeat' split
  all_goals simp

@[simp] theorem State.record_memWf (s : State) (c ch : Nat) (e : QEntry) : (s.record c ch e).memWf = s.memWf := by
  unfold State.record
  split <;> simp

@[simp] theorem State.nackRun_memWf (s : State) (c ch : Nat) (t : Token) (reason detail : Nat) :
    (s.nackRun c ch t reason detail).memWf = s.memWf := by
  unfold State.nackRun
  split <;> simp

/-! ### Descriptors of an NI -/

@[simp] theorem State.finishDesc_memWf (s : State) (c : Nat) (d : Desc) (status reason : Nat) (hs : s.memWf = true) :
    (s.finishDesc c d status reason).memWf = true := by
  have hw : ∀ d, (s.modCell c fun x => { x.writeStatus s.time d with ni := x.ni.modDesc d.id fun _ => d }).memWf = true :=
    fun d => s.modCell_memWf_of (fun x hx => by dsimp only; exact x.writeStatus_wf _ _ hx) hs
  simp only [State.finishDesc, State.memWf_ite, State.bump_memWf, hw, ite_self]

@[simp] theorem State.advanceCi_memWf (s : State) (c r fuel : Nat) (hs : s.memWf = true) : (s.advanceCi c r fuel).memWf = true := by
  induction fuel generalizing s with
  | zero => exact hs
  | succ n ih =>
    unfold State.advanceCi
    split
    · exact hs
    · dsimp only
      split
      · apply ih
        simp [hs]
      · exact hs

@[simp] theorem State.completeDesc_memWf (s : State) (c id status reason : Nat) (hs : s.memWf = true) :
    (s.completeDesc c id status reason).memWf = true := by
  unfold State.completeDesc
  split <;> simp [hs]

@[simp] theorem State.armTracker_memWf (s : State) (c id : Nat) : (s.armTracker c id).memWf = s.memWf := by simp [State.armTracker]

@[simp] theorem State.rearmTracker_memWf (s : State) (c id : Nat) : (s.rearmTracker c id).memWf = s.memWf := by
  unfold State.rearmTracker
  split <;> simp

@[simp] theorem State.checkWrite_memWf (s : State) (c id : Nat) (h : s.memWf = true) : (s.checkWrite c id).memWf = true := by
  unfold State.checkWrite
  split <;> simp [h]

@[simp] theorem State.checkRead_memWf (s : State) (c id : Nat) (h : s.memWf = true) : (s.checkRead c id).memWf = true := by
  unfold State.checkRead
  split <;> simp [h]

@[simp] theorem State.checkMsg_memWf (s : State) (c id : Nat) (h : s.memWf = true) : (s.checkMsg c id).memWf = true := by
  unfold State.checkMsg
  split <;> simp [h]

@[simp] theorem State.freeToken_memWf (s : State) (c t : Nat) (withdrawn : Bool) : (s.freeToken c t withdrawn).memWf = s.memWf := by
  simp [State.freeToken]

@[simp] theorem State.quarantine_memWf (s : State) (c lo hi : Nat) : (s.quarantine c lo hi).memWf = s.memWf := by simp [State.quarantine]

@[simp] theorem State.closeToken_memWf (s : State) (c t : Nat) (how : CloseHow) (reason detail : Nat) (h : s.memWf = true) :
    (s.closeToken c t how reason detail).memWf = true := by
  unfold State.closeToken
  repeat' split
  all_goals simp [h]

/-! ### Ejection -/

@[simp] theorem State.stale_memWf (s : State) (c : Nat) (pl : Plane) (p : Packet) : (s.stale c pl p).memWf = s.memWf := by simp [State.stale]

theorem State.ejectChecks_memWf (s : State) (c : Nat) (pl : Plane) (p : Packet) {f : State → State} (hf : ∀ s, (f s).memWf = s.memWf) :
    (s.ejectChecks c pl p f).memWf = s.memWf := by
  simp [State.ejectChecks, hf]

theorem State.ejectChecks_memWf_of (s : State) (c : Nat) (pl : Plane) (p : Packet) {f : State → State}
    (hf : ∀ s, s.memWf = true → (f s).memWf = true) (hs : s.memWf = true) : (s.ejectChecks c pl p f).memWf = true := by
  simp [State.ejectChecks, hf, hs]

theorem State.ejectOne_memWf (s : State) (c : Nat) (pl : Plane) (p : Packet) {f : State → State} (hf : ∀ s, (f s).memWf = s.memWf) :
    (s.ejectOne c pl p f).memWf = s.memWf := by
  simp only [State.ejectOne, State.memWf_ite, State.bump_memWf, s.ejectChecks_memWf c pl p hf, ite_self]

/-- What the type's own step 5 keeps, the ejection of a packet keeps (R48, R70). -/
theorem State.ejectType_memWf (s : State) (c : Nat) (t : BitVec 4) {f : Plane → Packet → State → State}
    (hf : ∀ pl p s, s.memWf = true → (f pl p s).memWf = true) (hs : s.memWf = true) : (s.ejectType c t f).memWf = true := by
  unfold State.ejectType
  split
  · exact hs
  · next pl p _ =>
    simp [State.ejectOne, State.ejectChecks_memWf_of _ c pl p (hf pl p), hs]

@[simp] theorem State.handOver_memWf (s : State) (c : Nat) (pl : Plane) (p : Packet) : (s.handOver c pl p).memWf = s.memWf := by
  simp [State.handOver, State.ejectOne_memWf]

/-! ### The router in one ncyc -/

@[simp] theorem State.spray_memWf (s : State) (c : Nat) (pl : Plane) (port : Nat) (input : Bool) (p : Packet) (tag : W32) :
    (s.spray c pl port input p tag).memWf = s.memWf := by
  simp [State.spray]

@[simp] theorem State.driveOut_memWf (s : State) (c : Nat) (pl : Plane) (p : Nat) (pk : Packet) (tag : W32) :
    (s.driveOut c pl p pk tag).memWf = s.memWf := by
  simp [State.driveOut]

@[simp] theorem State.rillSendAs_memWf (s : State) (c rank : Nat) (f : Flit) : (s.rillSendAs c rank f).memWf = s.memWf := by simp [State.rillSendAs]

@[simp] theorem State.rillSend_memWf (s : State) (c : Nat) (f : Flit) : (s.rillSend c f).memWf = s.memWf := by simp [State.rillSend]

@[simp] theorem State.wake_memWf (s : State) (c p : Nat) : (s.wake c p).memWf = s.memWf := by
  unfold State.wake
  dsimp only
  repeat' split
  all_goals simp

@[simp] theorem State.dropDecoded_memWf (s : State) (c : Nat) (p : Packet) : (s.dropDecoded c p).memWf = s.memWf := by simp [State.dropDecoded]

@[simp] theorem State.abortHold_memWf (s : State) (b : Nat) : (s.abortHold b).memWf = s.memWf := by simp [State.abortHold]

@[simp] theorem State.keep_memWf (s : State) (c : Nat) (pl : Plane) (d : Decoded) : (s.keep c pl d).memWf = s.memWf := by simp [State.keep]

@[simp] theorem State.cutBranches_memWf (s : State) (c : Nat) (m : BitVec 5) : (s.cutBranches c m).1.memWf = s.memWf :=
  State.foldl_fst_memWf (fun a p => by split <;> simp) _

@[simp] theorem State.decodeMcast_memWf (s : State) (c p : Nat) (pl : Plane) (pk : Packet) (tab : Bool) :
    (s.decodeMcast c p pl pk tab).memWf = s.memWf := by
  simp [State.decodeMcast]

@[simp] theorem State.decodeUnicast_memWf (s : State) (c p : Nat) (pl : Plane) (pk : Packet) (tab : Bool) :
    (s.decodeUnicast c p pl pk tab).memWf = s.memWf := by
  simp [State.decodeUnicast]

@[simp] theorem State.decodeGood_memWf (s : State) (c p : Nat) (pl : Plane) (pk : Packet) (tab : Bool) :
    (s.decodeGood c p pl pk tab).memWf = s.memWf := by
  simp [State.decodeGood]

@[simp] theorem State.portFault_memWf (s : State) (c p : Nat) : (s.portFault c p).memWf = s.memWf := by simp [State.portFault]

@[simp] theorem State.corrected_memWf (s : State) (c : Nat) (pl : Plane) (p : Nat) (es : List Ecc) : (s.corrected c pl p es).memWf = s.memWf := by
  simp [State.corrected]

@[simp] theorem State.decodeInput_memWf (s : State) (c : Nat) (pl : Plane) (p : Nat) (es : List Ecc) (tab : Bool) :
    (s.decodeInput c pl p es tab).memWf = s.memWf := by
  unfold State.decodeInput
  split <;> simp

theorem execRouterDecode_memWf (c : Nat) (pl : Plane) (p : Nat) (es : List Ecc) (tab : Bool) (s : State) (hs : s.memWf = true) :
    resMemWf (execRouterDecode c pl p es tab s) = true :=
  onUnit_resMemWf (by simp [hs])

@[simp] theorem State.give_memWf (s : State) (c : Nat) (pl : Plane) (p : Nat) (pk : Packet) : (s.give c pl p pk).memWf = s.memWf := by
  simp [State.give]

@[simp] theorem State.watch_memWf (s : State) (c : Nat) (t : BitVec 4) (tree : BitVec 12) : (s.watch c t tree).memWf = s.memWf := by
  simp [State.watch]

@[simp] theorem Pass.lose_memWf (a : Pass) (c : Nat) (d : Decoded) : (a.lose c d).st.memWf = a.st.memWf := by
  unfold Pass.lose
  split <;> simp

theorem Pass.one_memWf (c : Nat) (pl : Plane) (a : Pass) (d : Decoded) : (Pass.one c pl a d).st.memWf = a.st.memWf := by
  unfold Pass.one
  dsimp only
  repeat' split
  all_goals simp

theorem Pass.foldl_memWf (c : Nat) (pl : Plane) (l : List Decoded) (a : Pass) : (l.foldl (Pass.one c pl) a).st.memWf = a.st.memWf := by
  induction l generalizing a with
  | nil => rfl
  | cons d r ih => exact (ih _).trans (Pass.one_memWf c pl a d)

@[simp] theorem State.age_memWf (s : State) (c : Nat) (pk : Packet) : (s.age c pk).1.memWf = s.memWf := by
  unfold State.age
  split <;> simp

@[simp] theorem State.noteDefl_memWf (s : State) (c : Nat) (pl : Plane) : (s.noteDefl c pl).memWf = s.memWf := by simp [State.noteDefl]

@[simp] theorem State.deflect_memWf (c : Nat) (pl : Plane) (s : State) (d : Decoded) : (s.deflect c pl d).memWf = s.memWf := by
  unfold State.deflect
  split <;> simp

@[simp] theorem State.branches_memWf (c : Nat) (pl : Plane) (s : State) (v : Vert) : (State.branches c pl s v).memWf = s.memWf := by
  unfold State.branches
  dsimp only
  split
  · rw [State.modCellRegs_memWf]
    exact State.foldl_fst_memWf (fun a p => by split <;> simp) _
  · rw [State.modNi_memWf, State.bump_memWf, State.modRt_memWf]
    exact State.foldl_fst_memWf (fun a p => by split <;> simp) _

@[simp] theorem State.switchAssign_memWf (s : State) (c : Nat) (pl : Plane) : (s.switchAssign c pl).memWf = s.memWf := by
  simp [State.switchAssign, Pass.foldl_memWf]

theorem execSwitchAssign_memWf (c : Nat) (pl : Plane) (s : State) (hs : s.memWf = true) : resMemWf (execSwitchAssign c pl s) = true :=
  onUnit_resMemWf (by simp [hs])

@[simp] theorem State.inject_memWf (s : State) (c : Nat) (pl : Plane) (p : Nat) (pk : Packet) (tag : W32) :
    (s.inject c pl p pk tag).memWf = s.memWf := by
  simp [State.inject]

@[simp] theorem State.popAnswer_memWf (s : State) (c : Nat) : (s.popAnswer c).memWf = s.memWf := by simp [State.popAnswer]

@[simp] theorem State.answerTag_memWf (s : State) (c : Nat) (p : Packet) : (s.answerTag c p).memWf = s.memWf := by simp [State.answerTag]

@[simp] theorem State.injectAnswer_memWf (s : State) (c : Nat) : (s.injectAnswer c).memWf = s.memWf := by
  unfold State.injectAnswer
  dsimp only
  repeat' split
  all_goals simp

theorem execAnswerQueueInject_memWf (c : Nat) (s : State) (hs : s.memWf = true) : resMemWf (execAnswerQueueInject c s) = true :=
  onUnit_resMemWf (by simp [hs])

/-! ### Cascades and landings -/

@[simp] theorem State.lostOn_memWf (s : State) (c : Nat) (pl : Plane) : (s.lostOn c pl).memWf = s.memWf := by simp [State.lostOn]

@[simp] theorem State.mcLand_memWf (s : State) (c : Nat) (pl : Plane) (p : Packet) (hs : s.memWf = true) : (s.mcLand c pl p).memWf = true := by
  unfold State.mcLand
  dsimp only
  split
  · simp [hs]
  · split
    · simp [hs]
    · split
      · simp [hs]
      · rw [State.memWf_ite, State.bump_memWf, ite_self]
        refine State.modCell_memWf_of _ (fun x hx => ?_) (by simp [hs])
        dsimp only
        exact mwriteList_wf _ _ _ hx

@[simp] theorem State.mcVisible_memWf (s : State) (c i : Nat) : (s.mcVisible c i).memWf = s.memWf := by simp [State.mcVisible]

theorem execMcastEject_memWf (c : Nat) (s : State) (hs : s.memWf = true) : resMemWf (execMcastEject c s) = true :=
  onUnit_resMemWf (s.ejectType_memWf _ _ (fun _ p s h => by simp [h]) hs)

theorem State.mcAccess_memWf (s : State) (c core i : Nat) (a : LandAccess) (hs : s.memWf = true) : (s.mcAccess c core i a).memWf = true := by
  cases a with
  | rearm => exact s.writeAccess_memWf _ _ _ (fun s h => by simp [h]) hs
  | read => exact s.access_memWf _ _ _ (fun s h => by simp [h]) hs

theorem execCqMcRearm_memWf (c core i : Nat) (a : LandAccess) (s : State) (hs : s.memWf = true) : resMemWf (execCqMcRearm c core i a s) = true :=
  onUnit_resMemWf (s.mcAccess_memWf c core i a hs)

@[simp] theorem State.fountClear_memWf (s : State) (c id : Nat) (m : BitVec 5) (injected : Bool) :
    (s.fountClear c id m injected).memWf = s.memWf := by
  simp [State.fountClear]

@[simp] theorem State.storeRead_memWf (s : State) (c store : Nat) (e : Ecc) : (s.storeRead c store e).memWf = s.memWf := by simp [State.storeRead]

@[simp] theorem State.fountLand_memWf (s : State) (c : Nat) (p : Packet) (hs : s.memWf = true) : (s.fountLand c p).memWf = true := by
  simp [State.fountLand, hs]

theorem execFountainDelivery_memWf (c : Nat) (e : Ecc) (s : State) (hs : s.memWf = true) : resMemWf (execFountainDelivery c e s) = true := by
  refine onUnit_resMemWf ?_
  repeat' split
  all_goals simp [hs]

theorem execFountainInject_memWf (c : Nat) (e : Ecc) (s : State) (hs : s.memWf = true) : resMemWf (execFountainInject c e s) = true := by
  refine onUnit_resMemWf ?_
  dsimp only
  repeat' split
  all_goals simp [hs]

theorem execFountainPatienceExpire_memWf (c : Nat) (s : State) (hs : s.memWf = true) : resMemWf (execFountainPatienceExpire c s) = true := by
  refine onUnit_resMemWf ?_
  dsimp only
  repeat' split
  all_goals simp [hs]

/-! ### Channels and messages -/

@[simp] theorem State.uncache_memWf (s : State) (c ch : Nat) : (s.uncache c ch).memWf = s.memWf := by simp [State.uncache]

theorem ChanEntry.writeBack_wf (e : ChanEntry) (m : Mem) (a : Nat) (h : Memory.wf m = true) : Memory.wf (e.writeBack m a) = true :=
  mwriteWord_wf _ _ _ (mwriteWord_wf _ _ _ (mwriteWord_wf _ _ _ h))

theorem setEntryState_wf (m : Mem) (a : Nat) (st : BitVec 2) (h : Memory.wf m = true) : Memory.wf (setEntryState m a st) = true :=
  mwriteWord_wf _ _ _ h

@[simp] theorem State.flushChan_memWf (s : State) (c ch : Nat) (hs : s.memWf = true) : (s.flushChan c ch).memWf = true := by
  unfold State.flushChan
  split
  · exact hs
  · split
    · exact hs
    · exact s.modCell_memWf_of (fun x hx => by dsimp only; exact ChanEntry.writeBack_wf _ _ _ hx) hs

theorem State.chanRoom_memWf {s t : State} {c : Nat} (hs : s.memWf = true) (ht : s.chanRoom c = some t) : t.memWf = true := by
  unfold State.chanRoom at ht
  dsimp only at ht
  split at ht
  · exact Option.some.inj ht ▸ hs
  · split at ht
    · cases ht
    · rw [← Option.some.inj ht]
      simp [hs]

@[simp] theorem State.putChan_memWf (s : State) (c ch : Nat) (k : Chan) : (s.putChan c ch k).memWf = s.memWf := by
  simp [State.putChan]

@[simp] theorem State.touchChan_memWf (s : State) (c ch : Nat) : (s.touchChan c ch).memWf = s.memWf := by simp [State.touchChan]

@[simp] theorem State.cutMsgDescs_memWf (s : State) (c ch : Nat) (hs : s.memWf = true) : (s.cutMsgDescs c ch).memWf = true :=
  s.forEach_memWf_of (fun s d h => by simp [h]) hs

@[simp] theorem State.closeChan_memWf (s : State) (c ch : Nat) (hs : s.memWf = true) : (s.closeChan c ch).memWf = true := by
  unfold State.closeChan
  split
  · simp [hs]
  · exact s.modCell_memWf_of (fun x hx => by dsimp only; exact setEntryState_wf _ _ _ hx) hs

@[simp] theorem State.faultChan_memWf (s : State) (c ch : Nat) (hs : s.memWf = true) : (s.faultChan c ch).memWf = true :=
  State.forEach_memWf_of _ (fun s e h => by simp [h]) (by simp [hs])

@[simp] theorem State.ringPlace_memWf (s : State) (c q ch L : Nat) (hs : s.memWf = true) : (s.ringPlace c q ch L).1.memWf = true := by
  unfold State.ringPlace
  dsimp only
  split
  · exact hs
  · refine s.modCell_memWf_of (fun x hx => ?_) hs
    dsimp only
    refine mwriteWord_wf _ _ _ ?_
    split
    · exact hx
    · exact mwriteWord_wf _ _ _ hx

@[simp] theorem State.ringWrite_memWf (s : State) (c q off : Nat) (bs : List Byte) (hs : s.memWf = true) : (s.ringWrite c q off bs).memWf = true :=
  s.modCell_memWf_of (fun x hx => by dsimp only; exact mwriteList_wf _ _ _ hx) hs

@[simp] theorem State.takeSlot_memWf (s : State) (c : Nat) : (s.takeSlot c).memWf = s.memWf := by simp [State.takeSlot]

@[simp] theorem State.freeSlotRob_memWf (s : State) (c : Nat) : (s.freeSlotRob c).memWf = s.memWf := by simp [State.freeSlotRob]

@[simp] theorem State.modRx_memWf (s : State) (c ch : Nat) (f : RxState → RxState) : (s.modRx c ch f).memWf = s.memWf := by simp [State.modRx]

@[simp] theorem State.ackMsg_memWf (s : State) (c : Nat) (k : Chan) (p : Packet) : (s.ackMsg c k p).memWf = s.memWf := by simp [State.ackMsg]

@[simp] theorem State.pushReserved_memWf (s : State) (c q : Nat) (e : QEntry) : (s.pushReserved c q e).memWf = s.memWf := by simp [State.pushReserved]

@[simp] theorem State.failMsg_memWf (s : State) (c ch : Nat) : (s.failMsg c ch).memWf = s.memWf := by
  unfold State.failMsg
  repeat' split
  all_goals simp

@[simp] theorem State.advanceE_memWf (s : State) (c ch : Nat) : (s.advanceE c ch).memWf = s.memWf := by simp [State.advanceE]

@[simp] theorem State.writeBody_memWf (s : State) (c ch k : Nat) (p : Packet) (hs : s.memWf = true) : (s.writeBody c ch k p).memWf = true := by
  unfold State.writeBody
  repeat' split
  all_goals simp [hs]

@[simp] theorem State.procMsg_memWf (s : State) (c ch : Nat) (k : Chan) (p : Packet) : (s.procMsg c ch k p).memWf = s.memWf := by simp [State.procMsg]

@[simp] theorem State.procHead_memWf (s : State) (c ch : Nat) (k : Chan) (p : Packet) (hs : s.memWf = true) : (s.procHead c ch k p).memWf = true := by
  unfold State.procHead
  dsimp only
  repeat' split
  all_goals simp [hs]

@[simp] theorem State.procBody_memWf (s : State) (c ch : Nat) (k : Chan) (p : Packet) (hs : s.memWf = true) : (s.procBody c ch k p).memWf = true := by
  unfold State.procBody
  repeat' split
  all_goals simp [hs]

@[simp] theorem State.process_memWf (s : State) (c ch : Nat) (p : Packet) (hs : s.memWf = true) : (s.process c ch p).memWf = true := by
  unfold State.process
  split <;> simp [hs]

@[simp] theorem State.drain_memWf (s : State) (c ch fuel : Nat) (hs : s.memWf = true) : (s.drain c ch fuel).memWf = true := by
  induction fuel generalizing s with
  | zero => exact hs
  | succ n ih =>
    unfold State.drain
    dsimp only
    repeat' split
    all_goals simp [ih, hs]

@[simp] theorem State.armGap_memWf (s : State) (c ch : Nat) : (s.armGap c ch).memWf = s.memWf := by simp [State.armGap]

@[simp] theorem State.settleRx_memWf (s : State) (c ch : Nat) (hs : s.memWf = true) : (s.settleRx c ch).memWf = true := by simp [State.settleRx, hs]

@[simp] theorem State.arriveMsg_memWf (s : State) (c ch : Nat) (p : Packet) (hs : s.memWf = true) : (s.arriveMsg c ch p).memWf = true := by
  unfold State.arriveMsg
  split
  · exact hs
  extract_lets e source t sq d full early r
  have ht : t.memWf = true := by simp [t, hs]
  clear_value source t sq d early
  split
  · simp [hs]
  split
  · simp [hs]
  split
  · simp [hs]
  split
  · simp [ht]
  split
  · simp [ht]
  split
  · simp [full, ht]
  split
  · simp [ht]
  split
  · split <;> simp [r, ht]
  · split <;> simp [full, ht]

@[simp] theorem State.ejectMsg_memWf (s : State) (c : Nat) (p : Packet) (hs : s.memWf = true) : (s.ejectMsg c p).memWf = true := by
  simp [State.ejectMsg, hs]

theorem execMsgEject_memWf (c : Nat) (s : State) (hs : s.memWf = true) : resMemWf (execMsgEject c s) = true :=
  onUnit_resMemWf (s.ejectType_memWf _ _ (fun _ p s h => by simp [h]) hs)

theorem execMsgHeadEject_memWf (c : Nat) (s : State) (hs : s.memWf = true) : resMemWf (execMsgHeadEject c s) = true :=
  onUnit_resMemWf (s.ejectType_memWf _ _ (fun _ p s h => by simp [h]) hs)

theorem execMsgBodyEject_memWf (c : Nat) (s : State) (hs : s.memWf = true) : resMemWf (execMsgBodyEject c s) = true :=
  onUnit_resMemWf (s.ejectType_memWf _ _ (fun _ p s h => by simp [h]) hs)

@[simp] theorem State.releaseHeld_memWf (s : State) (c ch fuel : Nat) (hs : s.memWf = true) : (s.releaseHeld c ch fuel).memWf = true := by
  induction fuel generalizing s with
  | zero => exact hs
  | succ n ih =>
    unfold State.releaseHeld
    dsimp only
    repeat' split
    all_goals simp [ih, hs]

theorem execHeldPacketAnswer_memWf (c ch : Nat) (s : State) (hs : s.memWf = true) : resMemWf (execHeldPacketAnswer c ch s) = true :=
  onUnit_resMemWf (by simp [hs])

theorem execGapTimeout_memWf (c ch : Nat) (s : State) (hs : s.memWf = true) : resMemWf (execGapTimeout c ch s) = true := by
  refine onUnit_resMemWf ?_
  repeat' split
  all_goals simp [hs]

@[simp] theorem State.syncResult_memWf (s : State) (c core : Nat) (res : BitVec 4) : (s.syncResult c core res).memWf = s.memWf := by
  simp [State.syncResult]

@[simp] theorem State.syncRun_memWf (s : State) (c core fuel : Nat) (hs : s.memWf = true) : (s.syncRun c core fuel).memWf = true := by
  induction fuel generalizing s with
  | zero => exact hs
  | succ n ih =>
    unfold State.syncRun
    dsimp only
    split
    · exact hs
    · split <;> simp [hs]
    · rename_i h _
      cases h
      refine State.memWf_of_ite (by simp [hs]) (State.memWf_of_ite (ih _ (by simp [hs])) (State.memWf_of_ite (ih _ (by simp [hs]))
        (ih _ (by simp [hs]))))

@[simp] theorem State.syncDone_memWf (s : State) (c core : Nat) (res : BitVec 4) (hs : s.memWf = true) : (s.syncDone c core res).memWf = true :=
  State.syncRun_memWf _ _ _ _ ((s.syncResult_memWf c core res).trans hs)

@[simp] theorem State.syncWrite_memWf (s : State) (c core ch : Nat) (op : BitVec 2) (hs : s.memWf = true) : (s.syncWrite c core ch op).memWf = true :=
  State.memWf_of_ite ((State.modNi_memWf ..).trans hs) (State.syncRun_memWf _ _ _ _ ((State.modNi_memWf ..).trans hs))

theorem State.load_memWf {s t : State} {c core ch : Nat} (hs : s.memWf = true) (h : s.load c core ch = some t) : t.memWf = true := by
  unfold State.load at h
  dsimp only at h
  split at h
  · rw [← Option.some.inj h]
    simp [hs]
  · split at h
    · rw [← Option.some.inj h]
      simp [hs]
    · split at h
      · rw [← Option.some.inj h]
        simp [hs]
      · split at h
        · next u hr =>
          rw [← Option.some.inj h]
          have hu : u.memWf = true := by
            split at hr
            · rw [← Option.some.inj hr, State.peerIs_memWf, hs]
            · exact State.chanRoom_memWf (by simp [hs]) hr
          simp [hu]
        · cases h

theorem execChannelFetchDone_memWf (c ch : Nat) (err : Bool) (s : State) (hs : s.memWf = true) :
    resMemWf (execChannelFetchDone c ch err s) = true := by
  refine onUnit_resMemWf ?_
  split
  · exact hs
  · next f _ =>
    have he : (if err then (s.faultChan c ch).storeError c 4 true else s).memWf = true := by simp [hs]
    generalize (if err then (s.faultChan c ch).storeError c 4 true else s) = t at he
    dsimp only
    split
    · refine State.memWf_of_ite (by simp [he]) ?_
      split
      · next h => exact State.load_memWf ((State.modNi_memWf ..).trans he) h
      · exact he
    · split
      · exact he
      · next h =>
        have hr := State.chanRoom_memWf he h
        simp [hr]

theorem execChannelCacheEccError_memWf (c ch : Nat) (reorder : Bool) (s : State) (hs : s.memWf = true) :
    resMemWf (execChannelCacheEccError c ch reorder s) = true :=
  onUnit_resMemWf (by simp [hs])

theorem execChannelCloseComplete_memWf (c ch : Nat) (s : State) (hs : s.memWf = true) : resMemWf (execChannelCloseComplete c ch s) = true := by
  refine onUnit_resMemWf ?_
  dsimp only
  split
  · exact hs
  · refine State.memWf_of_ite hs ?_
    rw [State.uncache_memWf]
    exact State.modCell_memWf_of _ (fun x hx => by dsimp only; exact setEntryState_wf _ _ _ hx) (s.flushChan_memWf c ch hs)

@[simp] theorem State.ackMult_memWf (s : State) (c ch : Nat) (echo : Bool) : (s.ackMult c ch echo).memWf = s.memWf := by
  unfold State.ackMult
  split <;> simp

@[simp] theorem State.countEcho_memWf (s : State) (c : Nat) (p : Packet) : (s.countEcho c p).memWf = s.memWf := by simp [State.countEcho]

theorem execAckEject_memWf (c : Nat) (s : State) (hs : s.memWf = true) : resMemWf (execAckEject c s) = true :=
  onUnit_resMemWf (s.ejectType_memWf _ _ (fun _ p s h => by
    dsimp only
    split <;> simp [h]) hs)

@[simp] theorem State.bulkNack_memWf (s : State) (c : Nat) (p : Packet) (h : s.memWf = true) : (s.bulkNack c p).memWf = true := by
  unfold State.bulkNack
  dsimp only
  repeat' split
  all_goals simp [h]

theorem execNackEject_memWf (c : Nat) (s : State) (hs : s.memWf = true) : resMemWf (execNackEject c s) = true :=
  onUnit_resMemWf (s.ejectType_memWf _ _ (fun _ p s h => by
    dsimp only
    repeat' split
    all_goals simp [h]) hs)

theorem execRetransmitTimeout_memWf (c t : Nat) (e : Ecc) (s : State) (hs : s.memWf = true) : resMemWf (execRetransmitTimeout c t e s) = true := by
  refine onUnit_resMemWf ?_
  repeat' split
  all_goals simp [hs]

theorem execAbandonTimeout_memWf (c t : Nat) (s : State) (hs : s.memWf = true) : resMemWf (execAbandonTimeout c t s) = true :=
  onUnit_resMemWf (by split <;> simp [hs])

theorem execTokenStateEccError_memWf (c t : Nat) (s : State) (hs : s.memWf = true) : resMemWf (execTokenStateEccError c t s) = true :=
  onUnit_resMemWf (by split <;> simp [hs])

theorem execStaleTailTimeout_memWf (c q : Nat) (s : State) (hs : s.memWf = true) : resMemWf (execStaleTailTimeout c q s) = true := by
  refine onUnit_resMemWf ?_
  dsimp only
  split <;> simp [hs]

theorem execDispatchFifoIssue_memWf (c : Nat) (s : State) (hs : s.memWf = true) : resMemWf (execDispatchFifoIssue c s) = true :=
  onUnit_resMemWf (by split <;> simp [hs])

/-! ### The core-visible window -/

@[simp] theorem State.headError_memWf (s : State) (c q : Nat) (e : Ecc) : (s.headError c q e).memWf = s.memWf := by
  unfold State.headError
  repeat' split
  all_goals simp

@[simp] theorem State.queueRead_memWf (s : State) (c core q : Nat) (loc : QueueLoc) (e : Ecc) : (s.queueRead c core q loc e).memWf = s.memWf := by
  unfold State.queueRead
  split <;> simp

theorem execCqMetaRead_memWf (c core q : Nat) (loc : QueueLoc) (e : Ecc) (s : State) (hs : s.memWf = true) :
    resMemWf (execCqMetaRead c core q loc e s) = true :=
  onUnit_resMemWf (s.access_memWf _ _ _ (fun s h => by simp [h]) hs)

theorem execCqMetaWaitLimit_memWf (c core : Nat) (s : State) (hs : s.memWf = true) : resMemWf (execCqMetaWaitLimit c core s) = true :=
  onUnit_resMemWf (by split <;> simp [hs])

@[simp] theorem State.pop_memWf (s : State) (c q : Nat) : (s.pop c q).memWf = s.memWf := by
  unfold State.pop
  split <;> simp

theorem execCqPop_memWf (c core q : Nat) (s : State) (hs : s.memWf = true) : resMemWf (execCqPop c core q s) = true :=
  onUnit_resMemWf (s.writeAccess_memWf _ _ _ (fun s h => by simp [h]) hs)

@[simp] theorem State.ringRelease_memWf (s : State) (c q : Nat) : (s.ringRelease c q).memWf = s.memWf := by
  unfold State.ringRelease
  dsimp only
  repeat' split
  all_goals simp

theorem execCqRingRel_memWf (c core q : Nat) (s : State) (hs : s.memWf = true) : resMemWf (execCqRingRel c core q s) = true :=
  onUnit_resMemWf (s.writeAccess_memWf _ _ _ (fun s h => by simp [h]) hs)

@[simp] theorem State.allocMsg_memWf (s : State) (c ch t : Nat) (pk : Packet) (desc : Option Nat) : (s.allocMsg c ch t pk desc).memWf = s.memWf := by
  unfold State.allocMsg
  split <;> simp

@[simp] theorem State.sendDone_memWf (s : State) (c core : Nat) (res : W64) : (s.sendDone c core res).memWf = s.memWf := by simp [State.sendDone]

@[simp] theorem State.sendStall_memWf (s : State) (c core ch : Nat) (v : W64) : (s.sendStall c core ch v).memWf = s.memWf := by simp [State.sendStall]

@[simp] theorem State.sendGo_memWf (s : State) (c core : Nat) (v : W64) : (s.sendGo c core v).memWf = s.memWf := by
  have hp : ∀ (b : Bool) x y, (if b then (s, PeerIs.remote) else s.peerIs c x y).1.memWf = s.memWf := fun b x y => by cases b <;> simp
  unfold State.sendGo
  dsimp only
  refine State.memWf_of_ite (by simp) ?_
  split
  · simp
  · refine State.memWf_of_ite (by simp) ?_
    refine State.memWf_of_ite ((State.sendDone_memWf ..).trans (hp ..)) (State.memWf_of_ite ((State.sendDone_memWf ..).trans (hp ..)) ?_)
    refine State.memWf_of_ite ((State.sendStall_memWf ..).trans (hp ..)) ?_
    rw [State.sendDone_memWf, State.modNi_memWf, State.touchChan_memWf, State.foldl_fst_memWf]
    · exact hp ..
    · intro a p
      split
      · exact State.allocMsg_memWf ..
      · rfl

theorem execCqSendGo_memWf (c core slot : Nat) (words : List W64) (v : W64) (s : State) (hs : s.memWf = true) :
    resMemWf (execCqSendGo c core slot words v s) = true :=
  onUnit_resMemWf (s.access_memWf _ _ _ (fun s h => by simp [h]) hs)

theorem execCqSendGoResume_memWf (c core : Nat) (s : State) (hs : s.memWf = true) : resMemWf (execCqSendGoResume c core s) = true :=
  onUnit_resMemWf (by split <;> simp [hs])

theorem State.syncAccess_memWf (s : State) (c core slot ch : Nat) (op : BitVec 2) (i : Instr) (hs : s.memWf = true) :
    (s.syncAccess c core slot ch op i).memWf = true :=
  s.writeAccess_memWf _ _ _ (fun s h => State.memWf_of_ite h (s.syncWrite_memWf _ _ _ _ h)) hs

theorem execCqSyncLoad_memWf (c core slot ch : Nat) (s : State) (hs : s.memWf = true) : resMemWf (execCqSyncLoad c core slot ch s) = true :=
  onUnit_resMemWf (s.syncAccess_memWf c core slot ch _ _ hs)

theorem execCqSyncClose_memWf (c core slot ch : Nat) (s : State) (hs : s.memWf = true) : resMemWf (execCqSyncClose c core slot ch s) = true :=
  onUnit_resMemWf (s.syncAccess_memWf c core slot ch _ _ hs)

theorem execCqSyncFlush_memWf (c core slot ch : Nat) (s : State) (hs : s.memWf = true) : resMemWf (execCqSyncFlush c core slot ch s) = true :=
  onUnit_resMemWf (s.syncAccess_memWf c core slot ch _ _ hs)

theorem execCqSyncBadOp_memWf (c core slot ch : Nat) (s : State) (hs : s.memWf = true) : resMemWf (execCqSyncBadOp c core slot ch s) = true :=
  onUnit_resMemWf (s.syncAccess_memWf c core slot ch _ _ hs)

theorem execCqSyncResRead_memWf (c core slot : Nat) (send : Bool) (s : State) (hs : s.memWf = true) :
    resMemWf (execCqSyncResRead c core slot send s) = true :=
  onUnit_resMemWf (s.access_memWf _ _ _ (fun s h => by simp [h]) hs)

@[simp] theorem State.writePi_memWf (s : State) (c r : Nat) (v : W64) : (s.writePi c r v).memWf = s.memWf := by simp [State.writePi]

theorem State.ringAccess_memWf (s : State) (c core r : Nat) (a : RingAccess) (hs : s.memWf = true) : (s.ringAccess c core r a).memWf = true := by
  cases a with
  | writePi v => exact s.writeAccess_memWf _ _ _ (fun s h => by simp [h]) hs
  | readCi => exact s.access_memWf _ _ _ (fun s h => by simp [h]) hs

theorem execCqDringPiWrite_memWf (c core r : Nat) (a : RingAccess) (s : State) (hs : s.memWf = true) :
    resMemWf (execCqDringPiWrite c core r a s) = true :=
  onUnit_resMemWf (s.ringAccess_memWf c core r a hs)

/-! ### Reductions -/

@[simp] theorem State.redEmitted_memWf (s : State) (c j i : Nat) : (s.redEmitted c j i).memWf = s.memWf := by simp [State.redEmitted]

@[simp] theorem State.redEmit_memWf (s : State) (c j i : Nat) : (s.redEmit c j i).memWf = s.memWf := by
  unfold State.redEmit
  dsimp only
  rw [State.memWf_ite, State.redEmitted_memWf, ite_self, State.modNi_memWf, State.modCellRegs_memWf]
  refine (State.foldl_fst_memWf (fun a t => ?_) _).trans rfl
  split <;> simp

@[simp] theorem State.redComplete_memWf (s : State) (c j i : Nat) : (s.redComplete c j i).memWf = s.memWf := by simp [State.redComplete]

@[simp] theorem State.dupStart_memWf (s : State) (c j i : Nat) : (s.dupStart c j i).memWf = s.memWf := by simp [State.dupStart]

@[simp] theorem State.redCombine_memWf (s : State) (c : Nat) (pl : Plane) (p : Packet) (bad : List Nat) :
    (s.redCombine c pl p bad).memWf = s.memWf := by
  unfold State.redCombine
  dsimp only
  split <;> simp

theorem execRedEject_memWf (c : Nat) (bad : List Nat) (s : State) (hs : s.memWf = true) : resMemWf (execRedEject c bad s) = true :=
  onUnit_resMemWf (State.memWf_of_ite hs (s.ejectType_memWf _ _ (fun _ p s h => (s.redCombine_memWf c _ p bad).trans h) hs))

@[simp] theorem State.redLose_memWf (s : State) (c j i : Nat) : (s.redLose c j i).memWf = s.memWf := by simp [State.redLose]

theorem execRangeTimeout_memWf (c j i : Nat) (s : State) (hs : s.memWf = true) : resMemWf (execRangeTimeout c j i s) = true :=
  onUnit_resMemWf (by simp [hs])

theorem execHoldTimeout_memWf (c j i : Nat) (s : State) (hs : s.memWf = true) : resMemWf (execHoldTimeout c j i s) = true :=
  onUnit_resMemWf (by simp [hs])

theorem execShutTimeout_memWf (c j i : Nat) (s : State) (hs : s.memWf = true) : resMemWf (execShutTimeout c j i s) = true :=
  onUnit_resMemWf (by simp [hs])

@[simp] theorem State.redResult_memWf (s : State) (c : Nat) (p : Packet) (hs : s.memWf = true) : (s.redResult c p).memWf = true := by
  unfold State.redResult
  dsimp only
  split
  · simp [hs]
  · split
    · simp [hs]
    · split
      · simp [hs]
      · exact State.modCell_memWf_of _ (fun x hx => by dsimp only; exact mwriteList_wf _ _ _ hx) (by simp [hs])

@[simp] theorem State.redVisible_memWf (s : State) (c i : Nat) : (s.redVisible c i).memWf = s.memWf := by simp [State.redVisible]

theorem execRedResultEject_memWf (c : Nat) (s : State) (hs : s.memWf = true) : resMemWf (execRedResultEject c s) = true :=
  onUnit_resMemWf (s.ejectType_memWf _ _ (fun _ p s h => by simp [h]) hs)

theorem State.redAccess_memWf (s : State) (c core i : Nat) (a : LandAccess) (hs : s.memWf = true) : (s.redAccess c core i a).memWf = true := by
  cases a with
  | rearm => exact s.writeAccess_memWf _ _ _ (fun s h => by simp [h]) hs
  | read => exact s.access_memWf _ _ _ (fun s h => by simp [h]) hs

theorem execCqRedRearm_memWf (c core i : Nat) (a : LandAccess) (s : State) (hs : s.memWf = true) : resMemWf (execCqRedRearm c core i a s) = true :=
  onUnit_resMemWf (s.redAccess_memWf c core i a hs)

theorem execCombTestTick_memWf (b : Nat) (s : State) (hs : s.memWf = true) : resMemWf (execCombTestTick b s) = true := onUnit_resMemWf (by simp [hs])

@[simp] theorem State.combFence_memWf (s : State) (c : Nat) : (s.combFence c).memWf = s.memWf := by simp [State.combFence]

theorem execCombTestDigest_memWf (c : Nat) (agree refW refE : Bool) (s : State) (hs : s.memWf = true) :
    resMemWf (execCombTestDigest c agree refW refE s) = true :=
  onUnit_resMemWf (by simp [hs])

theorem execCombDupDigest_memWf (c : Nat) (agree : Bool) (s : State) (hs : s.memWf = true) : resMemWf (execCombDupDigest c agree s) = true :=
  onUnit_resMemWf (by split <;> simp [hs])

theorem execCombDupTimeout_memWf (c : Nat) (s : State) (hs : s.memWf = true) : resMemWf (execCombDupTimeout c s) = true :=
  onUnit_resMemWf (by split <;> simp [hs])

/-! ### Bulk windows -/

@[simp] theorem State.checkPeer_memWf (s : State) (c : Nat) (d : Desc) : (s.checkPeer c d).1.memWf = s.memWf := by
  unfold State.checkPeer
  dsimp only
  repeat' split
  all_goals simp

@[simp] theorem State.checkDesc_memWf (s : State) (c : Nat) (d : Desc) (ws : List W64) : (s.checkDesc c d ws).1.memWf = s.memWf := by
  unfold State.checkDesc
  dsimp only
  repeat' split
  all_goals simp

@[simp] theorem State.enlist_memWf (s : State) (c : Nat) (d : Desc) : (s.enlist c d).memWf = s.memWf := by simp [State.enlist]

@[simp] theorem State.startDesc_memWf (s : State) (c r : Nat) (h : s.memWf = true) : (s.startDesc c r).memWf = true := by
  unfold State.startDesc
  dsimp only
  repeat' split
  all_goals simp [h]

theorem execDescriptorStart_memWf (c r : Nat) (s : State) (hs : s.memWf = true) : resMemWf (execDescriptorStart c r s) = true :=
  onUnit_resMemWf (by simp [hs])

@[simp] theorem State.wrLand_memWf (s : State) (c : Nat) (pl : Plane) (p : Packet) (hs : s.memWf = true) : (s.wrLand c pl p).memWf = true := by
  unfold State.wrLand
  dsimp only
  split
  · split <;> simp [hs]
  · exact State.modCell_memWf_of _ (fun x hx => by dsimp only; exact mwriteList_wf _ _ _ hx) (by simp [hs])

theorem execWrEject_memWf (c : Nat) (s : State) (hs : s.memWf = true) : resMemWf (execWrEject c s) = true :=
  onUnit_resMemWf (s.ejectType_memWf _ _ (fun _ p s h => by simp [h]) hs)

theorem execTrancheFlush_memWf (c i : Nat) (s : State) (hs : s.memWf = true) : resMemWf (execTrancheFlush c i s) = true :=
  onUnit_resMemWf (by split <;> simp [hs])

theorem execTrancheComplSend_memWf (c : Nat) (s : State) (hs : s.memWf = true) : resMemWf (execTrancheComplSend c s) = true :=
  onUnit_resMemWf (by split <;> simp [hs])

@[simp] theorem State.rdTake_memWf (s : State) (c : Nat) (p : Packet) : (s.rdTake c p).memWf = s.memWf := by
  unfold State.rdTake
  dsimp only
  split <;> simp

theorem execRdReqEject_memWf (c : Nat) (s : State) (hs : s.memWf = true) : resMemWf (execRdReqEject c s) = true :=
  onUnit_resMemWf (s.ejectType_memWf _ _ (fun _ p s h => by simp [h]) hs)

@[simp] theorem State.rdLand_memWf (s : State) (c : Nat) (p : Packet) (hs : s.memWf = true) : (s.rdLand c p).memWf = true := by
  unfold State.rdLand
  dsimp only
  split
  · simp [hs]
  · split
    · simp [hs]
    · split
      · exact hs
      · refine State.memWf_of_ite (by simp [hs]) (State.memWf_of_ite (by simp [hs]) ?_)
        exact State.modCell_memWf_of _ (fun x hx => by dsimp only; exact mwriteList_wf _ _ _ hx) (by simp [hs])

theorem execRdDataEject_memWf (c : Nat) (s : State) (hs : s.memWf = true) : resMemWf (execRdDataEject c s) = true :=
  onUnit_resMemWf (s.ejectType_memWf _ _ (fun _ p s h => by simp [h]) hs)

@[simp] theorem State.readCounts_memWf (s : State) (c order : Nat) (h : s.memWf = true) : (s.readCounts c order).memWf = true := by
  unfold State.readCounts
  repeat' split
  all_goals simp [h]

@[simp] theorem State.ringMult_memWf (s : State) (c r : Nat) (echo : Bool) : (s.ringMult c r echo).memWf = s.memWf := by simp [State.ringMult]

theorem execComplEject_memWf (c : Nat) (s : State) (hs : s.memWf = true) : resMemWf (execComplEject c s) = true :=
  onUnit_resMemWf (s.ejectType_memWf _ _ (fun _ p s h => by
    dsimp only
    split <;> simp [h]) hs)

theorem execTrackerTimeout_memWf (c i : Nat) (s : State) (hs : s.memWf = true) : resMemWf (execTrackerTimeout c i s) = true := by
  refine onUnit_resMemWf ?_
  repeat' split
  all_goals simp [hs]

theorem execQuarantineExpire_memWf (c : Nat) (s : State) (hs : s.memWf = true) : resMemWf (execQuarantineExpire c s) = true :=
  onUnit_resMemWf (by simp [hs])

@[simp] theorem State.cmDone_memWf (s : State) (c : Nat) (use : CmUse) (write err : Bool) (h : s.memWf = true) :
    (s.cmDone c use write err).memWf = true := by
  unfold State.cmDone
  dsimp only
  split <;> simp [h]

theorem execClusterMemoryResponse_memWf (c tag : Nat) (err : Bool) (s : State) (hs : s.memWf = true) :
    resMemWf (execClusterMemoryResponse c tag err s) = true :=
  onUnit_resMemWf (by split <;> simp [hs])

/-! ### Gateways and stacks -/

@[simp] theorem State.stackAsk_memWf (s : State) (g addr : Nat) (use : StackUse) (write : Bool) : (s.stackAsk g addr use write).memWf = s.memWf := by
  simp [State.stackAsk]

@[simp] theorem State.gwAnswer_memWf (s : State) (g k : Nat) (p : Packet) : (s.gwAnswer g k p).memWf = s.memWf := by simp [State.gwAnswer]

@[simp] theorem State.gwRefuse_memWf (s : State) (g k : Nat) (pl : Plane) (p : Packet) (reason detail : Nat) :
    (s.gwRefuse g k pl p reason detail).memWf = s.memWf := by
  simp [State.gwRefuse]

theorem State.gwRequest_memWf (s : State) (g k : Nat) (t : BitVec 4) {f : State → GwArrival → State}
    (hf : ∀ s a, s.memWf = true → (f s a).memWf = true) (hs : s.memWf = true) : (s.gwRequest g k t f).memWf = true := by
  unfold State.gwRequest
  split
  · exact hs
  · simp [hf, hs]

theorem execGatewayWr_memWf (g k : Nat) (s : State) (hs : s.memWf = true) : resMemWf (execGatewayWr g k s) = true := by
  refine onUnit_resMemWf (s.gwRequest_memWf _ _ _ (fun s a h => ?_) hs)
  dsimp only
  split
  · simp [h]
  · rw [State.stackAsk_memWf]
    exact s.modGw_memWf_of (fun x hx => by dsimp only; exact mwriteList_wf _ _ _ hx) h

theorem execGatewayRdReq_memWf (g k : Nat) (s : State) (hs : s.memWf = true) : resMemWf (execGatewayRdReq g k s) = true :=
  onUnit_resMemWf (s.gwRequest_memWf _ _ _ (fun s a h => by
    dsimp only
    split <;> simp [h]) hs)

@[simp] theorem State.modStream_memWf (s : State) (g st : Nat) (f : StreamRt → StreamRt) : (s.modStream g st f).memWf = s.memWf := by
  simp [State.modStream]

@[simp] theorem State.streamFinish_memWf (s : State) (g st status reason : Nat) (hs : s.memWf = true) :
    (s.streamFinish g st status reason).memWf = true := by
  unfold State.streamFinish
  dsimp only
  rw [State.modStream_memWf]
  refine s.modGw_memWf_of (fun x hx => ?_) hs
  dsimp only
  exact mwriteList_wf _ _ _ (mwriteWord_wf _ _ _ (mwriteWord_wf _ _ _ hx))

@[simp] theorem State.streamAsk_memWf (s : State) (g st fuel : Nat) : (s.streamAsk g st fuel).memWf = s.memWf := by
  induction fuel generalizing s with
  | zero => rfl
  | succ n ih =>
    unfold State.streamAsk
    dsimp only
    repeat' split
    all_goals simp [ih]

@[simp] theorem State.streamStart_memWf (s : State) (g st fuel : Nat) (hs : s.memWf = true) : (s.streamStart g st fuel).memWf = true := by
  induction fuel generalizing s with
  | zero => exact hs
  | succ n ih =>
    unfold State.streamStart
    dsimp only
    split
    · exact hs
    · split
      · exact ih _ (State.streamFinish_memWf _ _ _ _ _ (by simp [hs]))
      · simp [hs]

theorem execGatewayPiPoll_memWf (g st : Nat) (s : State) (hs : s.memWf = true) : resMemWf (execGatewayPiPoll g st s) = true :=
  onUnit_resMemWf (by simp [hs])

@[simp] theorem State.streamSent_memWf (s : State) (g st : Nat) (hs : s.memWf = true) : (s.streamSent g st).memWf = true := by
  unfold State.streamSent
  dsimp only
  exact State.memWf_of_ite (State.streamStart_memWf _ _ _ _ (State.streamFinish_memWf _ _ _ _ _ (by simp [hs]))) (by simp [hs])

@[simp] theorem State.present_memWf (s : State) (g k : Nat) (pl : Plane) (p : Packet) : (s.present g k pl p).memWf = s.memWf := by
  simp [State.present]

@[simp] theorem State.presentReply_memWf (s : State) (g k : Nat) : (s.presentReply g k).memWf = s.memWf := by
  unfold State.presentReply
  repeat' split
  all_goals simp

@[simp] theorem State.streamDiscard_memWf (s : State) (g st : Nat) (hs : s.memWf = true) : (s.streamDiscard g st).memWf = true := by
  unfold State.streamDiscard
  dsimp only
  split
  · exact hs
  · exact State.memWf_of_ite (State.streamStart_memWf _ _ _ _ (State.streamFinish_memWf _ _ _ _ _ (by simp [hs]))) hs

@[simp] theorem State.presentStream_memWf (s : State) (g st : Nat) (hs : s.memWf = true) : (s.presentStream g st).memWf = true := by
  unfold State.presentStream
  split
  · exact s.streamDiscard_memWf g st hs
  · split
    · exact hs
    · refine State.memWf_of_ite hs ?_
      split
      · exact hs
      · exact State.memWf_of_ite (State.streamStart_memWf _ _ _ _ (State.streamFinish_memWf _ _ _ _ _ (by simp [hs])))
          (State.streamSent_memWf _ _ _ (by simp [hs]))

@[simp] theorem State.gwTranches_memWf (s : State) (g : Nat) : (s.gwTranches g).memWf = s.memWf := by simp [State.gwTranches]

@[simp] theorem State.gwPresent_memWf (s : State) (g : Nat) (hs : s.memWf = true) : (s.gwPresent g).memWf = true :=
  State.forEach_memWf_of _ (fun s st h => s.presentStream_memWf g st h) (by simp [hs])

theorem execStackReadResponse_memWf (g tag : Nat) (err : Bool) (s : State) (hs : s.memWf = true) :
    resMemWf (execStackReadResponse g tag err s) = true := by
  refine onUnit_resMemWf ?_
  dsimp only
  repeat' split
  all_goals simp [hs]

theorem execStackWriteResponse_memWf (g tag : Nat) (err : Bool) (s : State) (hs : s.memWf = true) :
    resMemWf (execStackWriteResponse g tag err s) = true := by
  refine onUnit_resMemWf ?_
  dsimp only
  repeat' split
  all_goals simp [hs]

/-! ### Injection -/

@[simp] theorem State.takeMsgToken_memWf (s : State) (c : Nat) (d : Desc) : (s.takeMsgToken c d).memWf = s.memWf := by
  unfold State.takeMsgToken
  dsimp only
  repeat' split
  all_goals simp

@[simp] theorem State.msgTokens_memWf (s : State) (c : Nat) : (s.msgTokens c).memWf = s.memWf := by simp [State.msgTokens]

@[simp] theorem State.chanFlow_memWf (s : State) (c ch : Nat) (keep : Bool) : (s.chanFlow c ch keep).1.memWf = s.memWf := by
  unfold State.chanFlow
  dsimp only
  split <;> simp

@[simp] theorem State.ringFlow_memWf (s : State) (c r : Nat) (keep : Bool) : (s.ringFlow c r keep).1.memWf = s.memWf := by
  unfold State.ringFlow
  dsimp only
  split <;> simp

@[simp] theorem State.slipFlow_memWf (s : State) (c : Nat) (keep : Bool) : (s.slipFlow c keep).1.memWf = s.memWf := by
  unfold State.slipFlow
  dsimp only
  split <;> simp

@[simp] theorem State.requestFlows_memWf (s : State) (c : Nat) (keep : Bool) : (s.requestFlows c keep).1.memWf = s.memWf := by
  unfold State.requestFlows
  dsimp only
  rw [State.slipFlow_memWf, State.foldl_fst_memWf fun a r => by simp, State.foldl_fst_memWf fun a r => by simp]

@[simp] theorem State.police_memWf (s : State) (c : Nat) : (s.police c).1.memWf = s.memWf := by
  unfold State.police
  dsimp only
  repeat' split
  all_goals simp

@[simp] theorem State.checkSent_memWf (s : State) (c id : Nat) (h : s.memWf = true) : (s.checkSent c id).memWf = true := by
  unfold State.checkSent
  split <;> simp [h]

@[simp] theorem State.policeDesc_memWf (s : State) (c id : Nat) (h : s.memWf = true) : (s.policeDesc c id).memWf = true := by
  unfold State.policeDesc
  dsimp only
  split <;> simp [h]

@[simp] theorem State.setHead_memWf (s : State) (c : Nat) (pl : Plane) (pk : Packet) (src : PktSrc) (id : Nat) :
    (s.setHead c pl pk src id).memWf = s.memWf := by
  simp [State.setHead]

@[simp] theorem State.setHeadNew_memWf (s : State) (c : Nat) (pl : Plane) (pk : Packet) (src : PktSrc) :
    (s.setHeadNew c pl pk src).memWf = s.memWf := by
  simp [State.setHeadNew]

theorem State.selectCombine_memWf {s t : State} {c : Nat} (h : s.selectCombine c = some t) : t.memWf = s.memWf := by
  unfold State.selectCombine at h
  split at h
  · cases h
  · split at h
    · cases h
    · rw [← Option.some.inj h]
      dsimp only
      split <;> simp

@[simp] theorem State.selectChan_memWf (s : State) (c ch : Nat) (next : W32) (h : s.memWf = true) : (s.selectChan c ch next).memWf = true := by
  unfold State.selectChan
  split <;> simp [h]

@[simp] theorem State.takeDesc_memWf (s : State) (c : Nat) (d : Desc) (dropped : Bool) (h : s.memWf = true) :
    (s.takeDesc c d dropped).memWf = true := by
  unfold State.takeDesc
  repeat' split
  all_goals simp [h]

@[simp] theorem State.selectDesc_memWf (s : State) (c : Nat) (d : Desc) (h : s.memWf = true) : (s.selectDesc c d).memWf = true := by
  simp [State.selectDesc, h]

@[simp] theorem State.slipped_memWf (s : State) (c n : Nat) : (s.slipped c n).memWf = s.memWf := by simp [State.slipped]

@[simp] theorem State.slipDrop_memWf (s : State) (c : Nat) (h : s.memWf = true) : (s.slipDrop c).memWf = true := by
  unfold State.slipDrop
  split <;> simp [h]

@[simp] theorem State.selectSlip_memWf (s : State) (c : Nat) (d : Desc) (h : s.memWf = true) : (s.selectSlip c d).memWf = true := by
  unfold State.selectSlip
  dsimp only
  split <;> simp [h]

@[simp] theorem State.selectFlow_memWf (s : State) (c : Nat) (hs : s.memWf = true) : (s.selectFlow c).1.memWf = true := by
  unfold State.selectFlow
  dsimp only
  repeat' split
  all_goals simp [hs]

@[simp] theorem State.selectRequest_memWf (s : State) (c : Nat) (hs : s.memWf = true) : (s.selectRequest c).memWf = true := by
  unfold State.selectRequest
  split
  · exact hs
  · split
    · next h => exact (State.selectCombine_memWf h).trans hs
    · have hf := State.selectFlow_memWf s c hs
      generalize s.selectFlow c = r at hf
      obtain ⟨t, b⟩ := r
      cases b
      · dsimp only at hf ⊢
        split <;> simp [hf]
      · exact hf

@[simp] theorem State.selectReply_memWf (s : State) (c : Nat) : (s.selectReply c).memWf = s.memWf := by
  unfold State.selectReply
  dsimp only
  repeat' split
  all_goals simp

@[simp] theorem State.selectMnt_memWf (s : State) (c : Nat) (pl : Plane) : (s.selectMnt c pl).memWf = s.memWf := by
  unfold State.selectMnt
  split <;> simp

theorem execInjectionSelect_memWf (c : Nat) (pl : Plane) (s : State) (hs : s.memWf = true) : resMemWf (execInjectionSelect c pl s) = true :=
  onUnit_resMemWf (by simp [hs])

@[simp] theorem State.headSent_memWf (s : State) (c : Nat) (h : Head) (hs : s.memWf = true) : (s.headSent c h).memWf = true := by
  unfold State.headSent
  dsimp only
  repeat' split
  all_goals simp [hs]

@[simp] theorem State.clearHead_memWf (s : State) (c : Nat) (pl : Plane) : (s.clearHead c pl).memWf = s.memWf := by simp [State.clearHead]

@[simp] theorem State.headGone_memWf (s : State) (c : Nat) (pl : Plane) (h : Head) (hs : s.memWf = true) : (s.headGone c pl h).memWf = true := by
  unfold State.headGone
  split <;> simp [hs]

@[simp] theorem State.badServe_memWf (s : State) (c : Nat) (h : Head) : (s.badServe c h).memWf = s.memWf := by
  unfold State.badServe
  repeat' split
  all_goals simp

@[simp] theorem State.injectHead_memWf (s : State) (c : Nat) (pl : Plane) (hs : s.memWf = true) : (s.injectHead c pl).memWf = true := by
  unfold State.injectHead
  dsimp only
  repeat' split
  all_goals simp [hs]

theorem execNiHeadInject_memWf (c : Nat) (pl : Plane) (s : State) (hs : s.memWf = true) : resMemWf (execNiHeadInject c pl s) = true :=
  onUnit_resMemWf (by simp [hs])

@[simp] theorem State.forced_memWf (s : State) (c : Nat) (pl : Plane) (p : Nat) (pk : Packet) (tag : W32) :
    (s.forced c pl p pk tag).memWf = s.memWf := by
  simp [State.forced]

@[simp] theorem State.forceAnswer_memWf (s : State) (c : Nat) : (s.forceAnswer c).memWf = s.memWf := by
  unfold State.forceAnswer
  repeat' split
  all_goals simp

@[simp] theorem State.forceHead_memWf (s : State) (c : Nat) (pl : Plane) (hs : s.memWf = true) : (s.forceHead c pl).memWf = true := by
  unfold State.forceHead
  repeat' split
  all_goals simp [hs]

theorem execPatienceExpire_memWf (c : Nat) (pl : Plane) (s : State) (hs : s.memWf = true) : resMemWf (execPatienceExpire c pl s) = true :=
  onUnit_resMemWf (by simp [hs])

/-! ### Observation -/

@[simp] theorem State.telLand_memWf (s : State) (c : Nat) (p : Packet) (hs : s.memWf = true) : (s.telLand c p).memWf = true := by
  unfold State.telLand
  dsimp only
  split
  · simp [hs]
  · exact State.modCell_memWf_of _ (fun x hx => by dsimp only; exact mwriteList_wf _ _ _ hx) (by simp [hs])

theorem execTelEject_memWf (c : Nat) (s : State) (hs : s.memWf = true) : resMemWf (execTelEject c s) = true :=
  onUnit_resMemWf (s.ejectType_memWf _ _ (fun _ p s h => by simp [h]) hs)

theorem execPcSampleTick_memWf (c : Nat) (s : State) (hs : s.memWf = true) : resMemWf (execPcSampleTick c s) = true := by
  refine onUnit_resMemWf ?_
  dsimp only
  repeat' split
  all_goals simp [hs]

@[simp] theorem State.pcsWrite_memWf (s : State) (c : Nat) (m : PcSample) (pc : W64) (valid : Bool) (hs : s.memWf = true) :
    (s.pcsWrite c m pc valid).memWf = true := by
  unfold State.pcsWrite
  dsimp only
  refine State.modCell_memWf_of _ (fun x hx => ?_) (by simp [hs])
  split
  · dsimp only
    exact mwriteList_wf _ _ _ hx
  · exact hx

theorem execPcSampleAnswer_memWf (c : Nat) (pc : W64) (s : State) (hs : s.memWf = true) : resMemWf (execPcSampleAnswer c pc s) = true :=
  onUnit_resMemWf (by split <;> simp [hs])

theorem execPcSampleTimeout_memWf (c : Nat) (s : State) (hs : s.memWf = true) : resMemWf (execPcSampleTimeout c s) = true :=
  onUnit_resMemWf (by split <;> simp [hs])

@[simp] theorem State.latWrite_memWf (s : State) (c : Nat) (v : W32) : (s.latWrite c v).memWf = s.memWf := by simp [State.latWrite]

theorem execNiLatCtlModeWrite_memWf (c : Nat) (v : W32) (s : State) (hs : s.memWf = true) : resMemWf (execNiLatCtlModeWrite c v s) = true :=
  onUnit_resMemWf (by simp [hs])

@[simp] theorem State.latSample_memWf (s : State) (c q : Nat) : (s.latSample c q).memWf = s.memWf := by simp [State.latSample]

theorem execLatencySampleTick_memWf (c : Nat) (s : State) (hs : s.memWf = true) : resMemWf (execLatencySampleTick c s) = true :=
  onUnit_resMemWf (by simp [hs])

theorem execNiMapCtlInvalOne_memWf (c lid : Nat) (s : State) (hs : s.memWf = true) : resMemWf (execNiMapCtlInvalOne c lid s) = true :=
  onUnit_resMemWf (by simp [hs])

theorem execNiMapCtlInvalAll_memWf (c : Nat) (s : State) (hs : s.memWf = true) : resMemWf (execNiMapCtlInvalAll c s) = true :=
  onUnit_resMemWf (by simp [hs])

theorem execMapCacheFill_memWf (c lid : Nat) (s : State) (hs : s.memWf = true) : resMemWf (execMapCacheFill c lid s) = true :=
  onUnit_resMemWf (by simp [hs])

/-! ### Mailboxes -/

@[simp] theorem State.modMbx_memWf (s : State) (m : Nat) (f : Mailbox → Mailbox) : (s.modMbx m f).memWf = s.memWf := (rfl)

@[simp] theorem State.setStep_memWf (s : State) (n : Nat) : (s.setStep n).memWf = s.memWf := by simp [State.setStep]

@[simp] theorem State.modSlot_memWf (s : State) (i : Nat) (f : Slot → Slot) : (s.modSlot i f).memWf = s.memWf := (rfl)

@[simp] theorem State.authFail_memWf (s : State) (k : Cmd) : (s.authFail k).memWf = s.memWf := by simp [State.authFail]

@[simp] theorem State.respondMbx_memWf (s : State) (k : Cmd) (auth : Bool) (status detail : Nat) (result : List Byte) :
    (s.respondMbx k auth status detail result).memWf = s.memWf := by
  simp [State.respondMbx]

@[simp] theorem State.finish_memWf (s : State) (k : Cmd) (status detail : Nat) (result : List Byte) :
    (s.finish k status detail result).memWf = s.memWf := by
  simp [State.finish]

@[simp] theorem State.ok_memWf (s : State) (k : Cmd) : (s.ok k).memWf = s.memWf := by simp [State.ok]

@[simp] theorem State.badArg_memWf (s : State) (k : Cmd) (byte : Nat) : (s.badArg k byte).memWf = s.memWf := by simp [State.badArg]

@[simp] theorem State.holdMbx_memWf (s : State) (k : Cmd) : (s.holdMbx k).memWf = s.memWf := (rfl)

@[simp] theorem State.finishHeld_memWf (s : State) (m status detail : Nat) (result : List Byte) :
    (s.finishHeld m status detail result).memWf = s.memWf := by
  simp [State.finishHeld]

theorem State.generalChecks_memWf (s : State) (k : Cmd) (extLen : Option Nat) {body : State → State}
    (hb : ∀ s, s.memWf = true → (body s).memWf = true) (hs : s.memWf = true) : (s.generalChecks k extLen body).memWf = true := by
  unfold State.generalChecks
  split
  · simp [hs]
  · split
    · simp [hs]
    · split <;> simp [hb, hs]

theorem State.takeCmd_memWf (s : State) (k : Cmd) (extLen : Option Nat) {body : State → State}
    (hb : ∀ s, s.memWf = true → (body s).memWf = true) (hs : s.memWf = true) : (s.takeCmd k extLen body).memWf = true := by
  simp [State.takeCmd, State.generalChecks_memWf _ k extLen hb, hs]

/-- What a command's own rules keep, its taking by Zhevber keeps (R428). -/
theorem State.mailboxCmd_memWf (s : State) (m op : Nat) (row : Cmd → Bool) (extLen : Cmd → Option Nat) {body : Cmd → State → State}
    (hb : ∀ k s, s.memWf = true → (body k s).memWf = true) (hs : s.memWf = true) : (s.mailboxCmd m op row extLen body).memWf = true := by
  simp [State.mailboxCmd, State.takeCmd_memWf _ _ _ (hb _), hs]

theorem State.plainCmd_memWf (s : State) (m op : Nat) {body : Cmd → State → State}
    (hb : ∀ k s, s.memWf = true → (body k s).memWf = true) (hs : s.memWf = true) : (s.plainCmd m op body).memWf = true :=
  s.mailboxCmd_memWf m op _ _ hb hs

@[simp] theorem State.answerUnknown_memWf (s : State) (hs : s.memWf = true) : s.answerUnknown.memWf = true := by
  unfold State.answerUnknown
  split
  · exact hs
  · simp [State.takeCmd_memWf, hs]

@[simp] theorem State.requestFlip_memWf (s : State) (r : FlipReq) : (s.requestFlip r).memWf = s.memWf := by simp [State.requestFlip]

theorem Table.all_set {α : Type} {t : Table α} {p : α → Bool} (k : Nat) {v : α} (hv : p v = true) (ht : t.all p = true) :
    (t.set k v).all p = true := by
  obtain ⟨hd, hl⟩ := (Bool.and_eq_true ..).mp ht
  exact (Bool.and_eq_true ..).mpr ⟨hd, all_aput hv hl⟩

theorem State.setCells_memWf {s : State} {t : Table Cell} (ht : t.all (fun x => Memory.wf x.cm) = true) (hs : s.memWf = true) :
    ({ s with cells := t } : State).memWf = true := by
  simp only [State.memWf_eq, Bool.and_eq_true] at hs ⊢
  obtain ⟨⟨⟨-, hg⟩, hi⟩, hs⟩ := hs
  exact ⟨⟨⟨ht, hg⟩, hi⟩, hs⟩

theorem State.memWf_cells {s : State} (hs : s.memWf = true) : s.cells.all (fun x => Memory.wf x.cm) = true := by
  simp only [State.memWf_eq, Bool.and_eq_true] at hs
  obtain ⟨⟨⟨hc, -⟩, -⟩, -⟩ := hs
  exact hc

theorem State.mapCells_memWf {s : State} {f : Cell → Cell} (h : ∀ x, (f x).cm = x.cm) :
    ({ s with cells := s.cells.mapAll f } : State).memWf = s.memWf := by
  simp only [State.memWf_eq]
  rw [Table.all_mapAll (p := fun x : Cell => Memory.wf x.cm) fun x => congrArg Memory.wf (h x)]

/-- A change of every cell whose clock runs keeps the canonical form if it keeps each memory. -/
theorem State.allRunning_memWf (s : State) {f : Cell → Cell} (h : ∀ x, (f x).cm = x.cm) (hs : s.memWf = true) :
    (s.allRunning f).memWf = true :=
  State.forEach_memWf_of _ (fun _ c ht => State.setCells_memWf (Table.all_set c (Table.all_get (State.memWf_cells hs)) (State.memWf_cells ht)) ht)
    ((State.mapCells_memWf h).trans hs)

@[simp] theorem State.installMap_memWf (s : State) (phys : List (Option Nat)) : (s.installMap phys).memWf = s.memWf :=
  State.mapCells_memWf fun _ => rfl

@[simp] theorem State.writeMap_memWf (s : State) (lid : Nat) (phys : Option Nat) : (s.writeMap lid phys).memWf = s.memWf :=
  State.mapCells_memWf fun _ => rfl

@[simp] theorem State.vacate_memWf (s : State) (c : Nat) : (s.vacate c).memWf = s.memWf :=
  s.forEach_memWf fun s l => s.writeMap_memWf l none

/-! ### The rill -/

@[simp] theorem State.writeTree_memWf (s : State) (x : Nat) (t : RillTree) : (s.writeTree x t).memWf = s.memWf := by
  unfold State.writeTree
  dsimp only
  refine State.memWf_of_ite ((State.mapCells_memWf ?_).trans (s.modChip_memWf _)) (s.modChip_memWf _)
  exact fun _ => rfl

@[simp] theorem State.writeTree0_memWf (s : State) : s.writeTree0.memWf = s.memWf := by
  simp [State.writeTree0]

@[simp] theorem State.writeTree1_memWf (s : State) : s.writeTree1.memWf = s.memWf := by
  simp [State.writeTree1]

@[simp] theorem State.retree1_memWf (s : State) : s.retree1.memWf = s.memWf := by
  simp [State.retree1]

@[simp] theorem State.rewriteRill_memWf (s : State) : s.rewriteRill.memWf = s.memWf := by
  simp [State.rewriteRill]

@[simp] theorem State.sendSeq_memWf (s : State) (n : Nat) (route body : Flit) : (s.sendSeq n route body).memWf = s.memWf := (rfl)

@[simp] theorem State.linkTake_memWf (s : State) (n : Nat) (f : Flit) : (s.linkTake n f).memWf = s.memWf := by
  unfold State.linkTake
  repeat' split
  all_goals simp

@[simp] theorem State.rillDrop_memWf (s : State) (c inp vc : Nat) (x : RillFlit) : (s.rillDrop c inp vc x).memWf = s.memWf := by simp [State.rillDrop]

@[simp] theorem State.cnackFor_memWf (s : State) (c : Nat) (route : Option Flit) (m : Flit) (reason : Nat) :
    (s.cnackFor c route m reason).memWf = s.memWf := by
  unfold State.cnackFor
  split <;> simp

@[simp] theorem State.rillGo_memWf (s : State) (c inp : Nat) (f : Flit) (dest : RillTo) : (s.rillGo c inp f dest).memWf = s.memWf := by
  unfold State.rillGo
  repeat' split
  all_goals simp

@[simp] theorem State.rillFault_memWf (s : State) (c p : Nat) : (s.rillFault c p).memWf = s.memWf := by simp [State.rillFault]

@[simp] theorem State.rillMove_memWf (s : State) (c inp vc : Nat) (x : RillFlit) (corr tab : Bool) :
    (s.rillMove c inp vc x corr tab).memWf = s.memWf := by
  simp [State.rillMove]

@[simp] theorem State.rillDecode_memWf (s : State) (c inp vc : Nat) (ea eb : Ecc) (tab : Bool) :
    (s.rillDecode c inp vc ea eb tab).memWf = s.memWf := by
  unfold State.rillDecode
  repeat' split
  all_goals simp

theorem execRillFlitDecode_memWf (c p vc : Nat) (ea eb : Ecc) (tab : Bool) (s : State) (hs : s.memWf = true) :
    resMemWf (execRillFlitDecode c p vc ea eb tab s) = true :=
  onUnit_resMemWf (by simp [hs])

@[simp] theorem State.treeSend_memWf (s : State) (c o : Nat) (f : Flit) : (s.treeSend c o f).memWf = s.memWf := by simp [State.treeSend]

@[simp] theorem State.treeDown_memWf (s : State) (c x : Nat) (f : Flit) : (s.treeDown c x f).memWf = s.memWf := by simp [State.treeDown]

/-! ### Contexts and trees of the rill -/

@[simp] theorem State.noteArrival_memWf (s : State) (c x : Nat) : (s.noteArrival c x).memWf = s.memWf := by simp [State.noteArrival]

@[simp] theorem State.rootRelease_memWf (s : State) (c x : Nat) (failed : Bool) : (s.rootRelease c x failed).memWf = s.memWf := by
  simp [State.rootRelease]

@[simp] theorem State.ctxTry_memWf (s : State) (c x : Nat) : (s.ctxTry c x).memWf = s.memWf := by simp [State.ctxTry]

@[simp] theorem State.takeGather_memWf (s : State) (c x : Nat) (g : RillFlit) : (s.takeGather c x g).memWf = s.memWf := by simp [State.takeGather]

theorem execGather_memWf (c x : Nat) (s : State) (hs : s.memWf = true) : resMemWf (execGather c x s) = true := by
  refine onUnit_resMemWf ?_
  repeat' split
  all_goals simp [hs]

@[simp] theorem State.releaseBars_memWf (s : State) (c x : Nat) (gen : BitVec 10) (failed : Bool) (v : W64) :
    (s.releaseBars c x gen failed v).memWf = s.memWf := by
  unfold State.releaseBars
  split <;> simp

@[simp] theorem State.passRelease_memWf (s : State) (c x : Nat) (g : RillFlit) : (s.passRelease c x g).memWf = s.memWf := by simp [State.passRelease]

theorem execRelease_memWf (c x : Nat) (s : State) (hs : s.memWf = true) : resMemWf (execRelease c x s) = true :=
  onUnit_resMemWf (by split <;> simp [hs])

theorem execContextTimeout_memWf (x : Nat) (s : State) (hs : s.memWf = true) : resMemWf (execContextTimeout x s) = true :=
  onUnit_resMemWf (by split <;> simp [hs])

@[simp] theorem State.passBcast_memWf (s : State) (c : Nat) (g : RillFlit) : (s.passBcast c g).memWf = s.memWf := by simp [State.passBcast]

@[simp] theorem State.broadcast_memWf (s : State) (x op arg : Nat) : (s.broadcast x op arg).memWf = s.memWf := by simp [State.broadcast]

theorem execBcastTally_memWf (c : Nat) (s : State) (hs : s.memWf = true) : resMemWf (execBcastTally c s) = true :=
  onUnit_resMemWf (by split <;> simp [hs])

theorem execBcastFreeze_memWf (c : Nat) (s : State) (hs : s.memWf = true) : resMemWf (execBcastFreeze c s) = true :=
  onUnit_resMemWf (by split <;> simp [hs])

@[simp] theorem State.barArrive_memWf (s : State) (c core x : Nat) (v : W64) : (s.barArrive c core x v).memWf = s.memWf := by simp [State.barArrive]

theorem execCqBarArrive_memWf (c core x : Nat) (v : W64) (s : State) (hs : s.memWf = true) : resMemWf (execCqBarArrive c core x v s) = true :=
  onUnit_resMemWf (s.writeAccess_memWf _ _ _ (fun s h => by simp [h]) hs)

theorem execCqBarWaitRead_memWf (c core x : Nat) (result : Bool) (s : State) (hs : s.memWf = true) :
    resMemWf (execCqBarWaitRead c core x result s) = true :=
  onUnit_resMemWf (s.access_memWf _ _ _ (fun s h => by
    repeat' split
    all_goals simp [h]) hs)

/-! ### Flips -/

@[simp] theorem State.modFlip_memWf (s : State) (f : Flip → Flip) : (s.modFlip f).memWf = s.memWf := (rfl)

theorem execEpochFlipStart_memWf (s : State) (hs : s.memWf = true) : resMemWf (execEpochFlipStart s) = true := onUnit_resMemWf (by simp [hs])

@[simp] theorem State.raiseGolden_memWf (s : State) (path : Nat) : (s.raiseGolden path).memWf = s.memWf := by
  unfold State.raiseGolden
  dsimp only
  refine State.memWf_of_ite rfl (State.mapCells_memWf ?_)
  exact fun _ => rfl

theorem execInstallDone_memWf (s : State) (hs : s.memWf = true) : resMemWf (execInstallDone s) = true := by
  refine onUnit_resMemWf ?_
  split
  · exact hs
  · next f _ =>
    dsimp only
    refine State.memWf_of_ite hs ?_
    have hw (t : State) (ht : t.memWf = true) (l : List Nat) : (t.forEach l fun s b => s.wakeBlock b).memWf = true :=
      (t.forEach_memWf fun s b => s.wakeBlock_memWf b).trans ht
    rw [State.noteArrival_memWf, State.modFlip_memWf]
    refine State.allRunning_memWf _ (fun x => by dsimp only) (hw _ (State.memWf_of_ite (State.allRunning_memWf _ (fun x => by dsimp only) ?_) hs) _)
    exact (s.raiseGolden_memWf _).trans hs

theorem execReleaseFlip_memWf (c : Nat) (s : State) (hs : s.memWf = true) : resMemWf (execReleaseFlip c s) = true :=
  onUnit_resMemWf (by split <;> simp [hs])

@[simp] theorem State.followEpochs_memWf (s : State) (n : Nat) : (s.followEpochs n).memWf = s.memWf := by
  unfold State.followEpochs
  dsimp only
  rw [State.forEach_memWf _ fun s g => State.modGw_memWf _ fun x => by dsimp only, State.forEach_memWf _ fun s k => State.modLink_memWf ..]
  simp only [State.memWf_eq, Table.all, List.all_map]
  congr 5
  exact funext fun e => by dsimp only [Function.comp]; split <;> rfl

@[simp] theorem State.flipTick_memWf (s : State) : s.flipTick.memWf = s.memWf := by
  unfold State.flipTick
  split
  · rfl
  · simp

theorem execTallyTick_memWf (s : State) (hs : s.memWf = true) : resMemWf (execTallyTick s) = true := onUnit_resMemWf (by simp [hs])

@[simp] theorem Cell.latchTally_cm (x : Cell) (t : Nat) (l : List W32) : (x.latchTally t l).cm = x.cm := (rfl)

theorem execTallyLatch_memWf (c : Nat) (s : State) (hs : s.memWf = true) : resMemWf (execTallyLatch c s) = true :=
  onUnit_resMemWf (by split <;> simp [hs])

@[simp] theorem State.endDrain_memWf (s : State) (f : Flip) (left : Int) : (s.endDrain f left).memWf = s.memWf := by simp [State.endDrain]

@[simp] theorem State.judgeDrain_memWf (s : State) (f : Flip) : (s.judgeDrain f).memWf = s.memWf := by simp [State.judgeDrain]

@[simp] theorem State.judgeWatch_memWf (s : State) (t : Nat) : (s.judgeWatch t).memWf = s.memWf := by
  unfold State.judgeWatch
  split <;> simp

theorem execTallyResult_memWf (s : State) (hs : s.memWf = true) : resMemWf (execTallyResult s) = true := by
  refine onUnit_resMemWf ?_
  dsimp only
  repeat' split
  all_goals simp [hs]

@[simp] theorem State.flipDone_memWf (s : State) (f : Flip) : (s.flipDone f).memWf = s.memWf := by
  unfold State.flipDone
  dsimp only
  rw [State.forEach_memWf]
  · simp
  · intro s r
    split
    · split
      · simp
      · split <;> simp
    · rfl

theorem execBcastFree_memWf (c : Nat) (s : State) (hs : s.memWf = true) : resMemWf (execBcastFree c s) = true := by
  refine onUnit_resMemWf ?_
  dsimp only
  repeat' split
  all_goals simp [hs]

/-! ### Core control messages -/

@[simp] theorem State.rillRefuse_memWf (s : State) (c core reason : Nat) : (s.rillRefuse c core reason).memWf = s.memWf := by simp [State.rillRefuse]

theorem State.rillWrite_memWf (s : State) (c core : Nat) (a : RillWrite) (i : Instr) (hs : s.memWf = true) :
    (s.rillWrite c core a i).memWf = true := by
  cases a with
  | dst v => exact s.writeAccess_memWf _ _ _ (fun s h => by simp [h]) hs
  | go v => exact s.access_memWf _ _ _ (fun s h => by simp [h]) hs

theorem execCqRillGo_memWf (c core slot : Nat) (a : RillWrite) (s : State) (hs : s.memWf = true) : resMemWf (execCqRillGo c core slot a s) = true :=
  onUnit_resMemWf (State.memWf_of_ite (s.rillWrite_memWf c core a _ hs) (s.access_memWf c core _ (fun s h => by simp [h]) hs))

@[simp] theorem State.sendCmsg_memWf (s : State) (c core : Nat) (dst v : W64) : (s.sendCmsg c core dst v).memWf = s.memWf := by
  unfold State.sendCmsg
  dsimp only
  split <;> simp

theorem execVc3Grant_memWf (b : Nat) (s : State) (hs : s.memWf = true) : resMemWf (execVc3Grant b s) = true := by
  refine onUnit_resMemWf ?_
  dsimp only
  repeat' split
  all_goals simp [hs]

@[simp] theorem State.inboxRead_memWf (s : State) (c : Nat) (e : Ecc) : (s.inboxRead c e).memWf = s.memWf := by simp [State.inboxRead]

@[simp] theorem State.rillRead_memWf (s : State) (c core slot : Nat) (loc : RillLoc) (e : Ecc) : (s.rillRead c core slot loc e).memWf = s.memWf := by
  unfold State.rillRead
  split <;> simp

theorem execCqRillResRead_memWf (c core slot : Nat) (loc : RillLoc) (e : Ecc) (s : State) (hs : s.memWf = true) :
    resMemWf (execCqRillResRead c core slot loc e s) = true :=
  onUnit_resMemWf (s.access_memWf _ _ _ (fun s h => by simp [h]) hs)

theorem execCqRillPop_memWf (c core : Nat) (s : State) (hs : s.memWf = true) : resMemWf (execCqRillPop c core s) = true :=
  onUnit_resMemWf (s.writeAccess_memWf _ _ _ (fun s h => by simp [h]) hs)

@[simp] theorem State.takeBody_memWf (s : State) (c : Nat) (x : RillFlit) : (s.takeBody c x).memWf = s.memWf := by simp [State.takeBody]

theorem execCmsg_memWf (c : Nat) (s : State) (hs : s.memWf = true) : resMemWf (execCmsg c s) = true := onUnit_resMemWf (by split <;> simp [hs])

theorem execCnack_memWf (c : Nat) (s : State) (hs : s.memWf = true) : resMemWf (execCnack c s) = true := by
  refine onUnit_resMemWf ?_
  dsimp only
  repeat' split
  all_goals simp [hs]

/-! ### The cistern -/

@[simp] theorem State.writePage_memWf (s : State) (j n kind copy part gen : Nat) (payload : List Byte) (hs : s.memWf = true) :
    (s.writePage j n kind copy part gen payload).memWf = true :=
  s.modGw_memWf_of (fun x hx => by dsimp only; exact mwriteList_wf _ _ _ hx) hs

@[simp] theorem State.modCist_memWf (s : State) (j : Nat) (f : CistCopy → CistCopy) : (s.modCist j f).memWf = s.memWf := by
  unfold State.modCist
  split <;> simp

@[simp] theorem State.cistEvent_memWf (s : State) (j type page kind part : Nat) : (s.cistEvent j type page kind part).memWf = s.memWf := by
  simp [State.cistEvent]

@[simp] theorem State.abandon_memWf (s : State) (j : Nat) : (s.abandon j).memWf = s.memWf := by simp [State.abandon]

@[simp] theorem State.retire_memWf (s : State) (j n : Nat) : (s.retire j n).memWf = s.memWf := by simp [State.retire]

@[simp] theorem State.takePage_memWf (s : State) (j z n : Nat) : (s.takePage j z n).memWf = s.memWf := by simp [State.takePage]

/-- Read off the recursor: an equation for one step would evaluate the search of a zone's 4096 pages. -/
@[simp] theorem State.goodPage_memWf (s : State) (j z fuel : Nat) : (s.goodPage j z fuel).1.memWf = s.memWf := by
  delta State.goodPage
  induction fuel generalizing s with
  | zero => rfl
  | succ n ih =>
    dsimp only [State.goodPage._f] at ih ⊢
    split
    · rfl
    · split
      · exact (ih _).trans (by simp)
      · simp

@[simp] theorem State.takePages_memWf (s : State) (j n : Nat) (zones got : List Nat) : (s.takePages j n zones got).1.memWf = s.memWf := by
  delta State.takePages
  induction n generalizing s zones got with
  | zero => rfl
  | succ n ih =>
    dsimp only [State.takePages._f] at ih ⊢
    split
    · rfl
    · split <;> exact (ih ..).trans (by simp)

@[simp] theorem State.commitDir_memWf (s : State) (j : Nat) (hs : s.memWf = true) : (s.commitDir j).memWf = true :=
  State.forEach_memWf_of _ (fun s _ h => s.writePage_memWf _ _ _ _ _ _ _ h) (by simp [hs])

@[simp] theorem State.writeRec_memWf (s : State) (j kind part : Nat) (payload : List Byte) (hs : s.memWf = true) :
    (s.writeRec j kind part payload).memWf = true := by
  unfold State.writeRec
  dsimp only
  refine State.memWf_of_ite hs (State.memWf_of_ite (by simp [hs]) (State.commitDir_memWf _ _ ?_))
  rw [State.modCist_memWf]
  exact State.forEach_memWf_of _ (fun s i h => s.writePage_memWf _ _ _ _ _ _ _ h) (by simp [hs])

@[simp] theorem State.writeBad_memWf (s : State) (j : Nat) (hs : s.memWf = true) : (s.writeBad j).memWf = true :=
  s.forEach_memWf_of (fun s _ h => s.writeRec_memWf _ _ _ _ h) hs

@[simp] theorem State.writeOne_memWf (s : State) (j kind part : Nat) (payload : List Byte) (hs : s.memWf = true) :
    (s.writeOne j kind part payload).memWf = true := by
  unfold State.writeOne
  dsimp only
  exact State.memWf_of_ite (by simp [hs]) (by simp [hs])

@[simp] theorem State.cistWrite_memWf (s : State) (kind part : Nat) (payload : List Byte) (hs : s.memWf = true) :
    (s.cistWrite kind part payload).memWf = true :=
  State.memWf_of_ite (by simp [hs]) hs

@[simp] theorem State.readCopy_memWf (s : State) (j : Nat) : (s.readCopy j).memWf = s.memWf := by
  unfold State.readCopy
  repeat' split
  all_goals simp

@[simp] theorem State.retirePoor_memWf (s : State) (j kind part : Nat) : (s.retirePoor j kind part).memWf = s.memWf := by
  unfold State.retirePoor
  split
  · rfl
  · exact s.forEach_memWf fun s n => by simp

@[simp] theorem State.repair_memWf (s : State) (kind part : Nat) (hs : s.memWf = true) : (s.repair kind part).1.memWf = true := by
  unfold State.repair
  split
  · exact hs
  · exact s.forEach_memWf_of (fun s _ h => (State.cistEvent_memWf ..).trans (State.writeOne_memWf _ _ _ _ _ 
      ((State.retirePoor_memWf ..).trans h))) hs

@[simp] theorem State.retentionPass_memWf (s : State) (hs : s.memWf = true) : s.retentionPass.memWf = true :=
  s.forEach_memWf_of (fun s j h => s.forEach_memWf_of (fun s e h => by split <;> simp [h]) h) hs

@[simp] theorem State.writeDefect_memWf (s : State) (map : List Byte) (hs : s.memWf = true) : (s.writeDefect map).memWf = true :=
  State.cistWrite_memWf _ _ _ _ (State.cistWrite_memWf _ _ _ _ (State.cistWrite_memWf _ _ _ _ hs))

theorem execCisternDayTick_memWf (s : State) (hs : s.memWf = true) : resMemWf (execCisternDayTick s) = true := by
  refine onUnit_resMemWf (State.memWf_of_ite hs ?_)
  apply State.cistWrite_memWf
  apply State.retentionPass_memWf
  rwa [State.modFtn_memWf _ (fun _ => by dsimp only) fun _ => by dsimp only]

theorem execSidebandResponse_memWf (j page : Nat) (err : Bool) (s : State) (hs : s.memWf = true) :
    resMemWf (execSidebandResponse j page err s) = true :=
  onUnit_resMemWf (by simp [hs])

/-! ### Balances -/

@[simp] theorem State.checkBalance_memWf (s : State) (cells : List Nat) : (s.checkBalance cells).1.memWf = s.memWf := by simp [State.checkBalance]

/-! ### Fault records -/

@[simp] theorem State.chooseCorner_memWf (s : State) : s.chooseCorner.memWf = s.memWf := by
  unfold State.chooseCorner
  split <;> simp

@[simp] theorem State.moveCorner_memWf (s : State) : s.moveCorner.memWf = s.memWf := by
  simp [State.moveCorner]

@[simp] theorem State.afterFence_memWf (s : State) (cells : List Nat) (hs : s.memWf = true) : (s.afterFence cells).memWf = true :=
  (State.moveCorner_memWf _).trans (State.writeDefect_memWf _ _ (by simp [hs]))

@[simp] theorem State.startHard_memWf (s : State) (r : Nat) (q : FlipReq) (cls port plane detail : Nat) :
    (s.startHard r q cls port plane detail).memWf = s.memWf := by
  simp [State.startHard]

@[simp] theorem State.takeOut_memWf (s : State) (r : Nat) (f : FaultRec) : (s.takeOut r f).memWf = s.memWf := by simp [State.takeOut]

@[simp] theorem State.zReact_memWf (s : State) (f : FaultRec) (hs : s.memWf = true) : (s.zReact f).memWf = true := by
  have hz : (s.zRecord f).memWf = true := (s.zRecord_memWf f).trans hs
  have ha : ∀ l, ((s.zRecord f).afterFence l).memWf = true := fun l => State.afterFence_memWf _ _ hz
  simp only [State.zReact, State.memWf_ite, State.rewriteRill_memWf, State.requestFlip_memWf, State.takeOut_memWf, hz, ha, ite_self]

theorem execRecordSendingNcyc_memWf (region : Bool) (u : Nat) (s : State) (hs : s.memWf = true) :
    resMemWf (execRecordSendingNcyc region u s) = true := by
  refine onUnit_resMemWf ?_
  dsimp only
  repeat' split
  all_goals simp [hs]

theorem execFault_memWf (c : Nat) (s : State) (hs : s.memWf = true) : resMemWf (execFault c s) = true := onUnit_resMemWf (by split <;> simp [hs])

theorem execFaultWindowRoll_memWf (b : Nat) (s : State) (hs : s.memWf = true) : resMemWf (execFaultWindowRoll b s) = true :=
  onUnit_resMemWf (by simp [hs])

@[simp] theorem State.resetBlock_memWf (s : State) (b : Nat) (h : NiHold) : (s.resetBlock b h).memWf = s.memWf := by simp [State.resetBlock]

@[simp] theorem State.resetSoft_memWf (s : State) (r : Nat) : (s.resetSoft r).memWf = s.memWf := by simp [State.resetSoft]

@[simp] theorem State.resetRecord_memWf (s : State) (scope u action : Nat) : (s.resetRecord scope u action).memWf = s.memWf := by
  unfold State.resetRecord
  split <;> simp

@[simp] theorem State.startReset_memWf (s : State) (scope u : Nat) : (s.startReset scope u).memWf = s.memWf := by
  unfold State.startReset
  split
  · exact (State.resetRecord_memWf ..).trans (s.resetNi_memWf u .ni)
  · exact (State.resetRecord_memWf ..).trans (s.resetCell_memWf u .cell)
  · exact (State.resetRecord_memWf ..).trans (s.resetBlock_memWf u .cell)
  · exact (State.resetRecord_memWf ..).trans (s.resetSoft_memWf u)
  · exact s.startHard_memWf ..

theorem execResetFlit_memWf (c : Nat) (s : State) (hs : s.memWf = true) : resMemWf (execResetFlit c s) = true := by
  refine onUnit_resMemWf ?_
  repeat' split
  all_goals simp [hs]

@[simp] theorem State.pollRegion_memWf (s : State) (u : Nat) (answered : Bool) : (s.pollRegion u answered).memWf = s.memWf := by
  simp [State.pollRegion]

@[simp] theorem State.pollBlock_memWf (s : State) (u : Nat) (answered : Bool) : (s.pollBlock u answered).memWf = s.memWf := by simp [State.pollBlock]

theorem execWatchdogPoll_memWf (region : Bool) (u : Nat) (answered : Bool) (s : State) (hs : s.memWf = true) :
    resMemWf (execWatchdogPoll region u answered s) = true :=
  onUnit_resMemWf (by simp [hs])

theorem execSluiceFlit_memWf (c : Nat) (s : State) (hs : s.memWf = true) : resMemWf (execSluiceFlit c s) = true := by
  refine onUnit_resMemWf ?_
  dsimp only
  repeat' split
  all_goals simp [hs]

/-! ### Trees -/

@[simp] theorem State.setCascade_memWf (s : State) (c t x : Nat) : (s.setCascade c t x).memWf = s.memWf := by simp [State.setCascade]

@[simp] theorem State.setRedEntry_memWf (s : State) (t : TreeRec) (vs : List Vtx) (q : RedSetup) (v : Vtx) :
    (s.setRedEntry t vs q v).memWf = s.memWf := by
  unfold State.setRedEntry
  split <;> simp

@[simp] theorem State.putTree_memWf (s : State) (t : TreeRec) (vs : List Vtx) (q : RedSetup) : (s.putTree t vs q).memWf = s.memWf := by
  simp [State.putTree]

@[simp] theorem State.installTree_memWf (s : State) (t : TreeRec) (vs : List Vtx) (q : RedSetup) : (s.installTree t vs q).1.memWf = s.memWf := by
  unfold State.installTree
  dsimp only
  repeat' split
  all_goals simp

theorem execTreeSetup_memWf (m : Nat) (s : State) (hs : s.memWf = true) : resMemWf (execTreeSetup m s) = true := by
  refine onUnit_resMemWf (s.mailboxCmd_memWf _ _ _ _ (fun k s h => ?_) hs)
  dsimp only
  refine State.memWf_of_ite (by simp [h]) (State.memWf_of_ite (by simp [h]) (State.memWf_of_ite (by simp [h]) (State.memWf_of_ite (by simp [h])
    (State.memWf_of_ite (by simp [h]) ?_))))
  have hi := s.installTree_memWf (TreeRec.of k.ext) (vtxList k.ext 32 (TreeRec.of k.ext).count) (k.redSetup (32 + 8 * (TreeRec.of k.ext).count))
  split
  · simp [h]
  · next e =>
    rw [e] at hi
    exact State.memWf_of_ite (by simp [h]) ((State.finish_memWf ..).trans (hi.trans h))

@[simp] theorem State.discardHeld_memWf (s : State) (c t : Nat) : (s.discardHeld c t).memWf = s.memWf := by simp [State.discardHeld]

@[simp] theorem State.beginRetire_memWf (s : State) : s.beginRetire.memWf = s.memWf := by
  unfold State.beginRetire
  split
  · rfl
  · refine (State.mapCells_memWf ?_).trans ?_
    · exact fun _ => rfl
    · split
      · split <;> simp
      · rfl

theorem execTreeRetire_memWf (m : Nat) (s : State) (hs : s.memWf = true) : resMemWf (execTreeRetire m s) = true :=
  onUnit_resMemWf (s.plainCmd_memWf _ _ (fun k s h => by simp [h]) hs)

@[simp] theorem State.dropRedEntry_memWf (s : State) (c t : Nat) : (s.dropRedEntry c t).memWf = s.memWf := by simp [State.dropRedEntry]

@[simp] theorem State.clearTree_memWf (s : State) (x : Tree) : (s.clearTree x).memWf = s.memWf := by simp [State.clearTree]

theorem execTreeRetireClear_memWf (s : State) (hs : s.memWf = true) : resMemWf (execTreeRetireClear s) = true := by
  refine onUnit_resMemWf ?_
  split
  · exact hs
  · next r rest _ =>
    dsimp only
    generalize (s.chip.trees.find? fun x => x.id == r.tree).getD ⟨r.tree, false, 0, []⟩ = x
    have hd : (if r.discard then s.forEach (x.verts.map (·.1)) fun s c => s.discardHeld c x.id else s).memWf = true := by simp [hs]
    generalize (if r.discard then s.forEach (x.verts.map (·.1)) fun s c => s.discardHeld c x.id else s) = t at hd
    refine State.memWf_of_ite hd ((State.finishHeld_memWf ..).trans (State.memWf_of_ite ((State.mapCells_memWf ?_).trans ?_) ?_))
    · exact fun _ => rfl
    · simp [hd]
    · simp [hd]

theorem execMcLandSet_memWf (m : Nat) (s : State) (hs : s.memWf = true) : resMemWf (execMcLandSet m s) = true :=
  onUnit_resMemWf (s.plainCmd_memWf _ _ (fun k s h => by simp [h]) hs)

theorem execRedLandSet_memWf (m : Nat) (s : State) (hs : s.memWf = true) : resMemWf (execRedLandSet m s) = true :=
  onUnit_resMemWf (s.plainCmd_memWf _ _ (fun k s h => by simp [h]) hs)

theorem State.redHold_memWf (s : State) (k : Cmd) {f : State → Nat → Nat → Nat → State} (hf : ∀ s c j i, (f s c j i).memWf = s.memWf) :
    (s.redHold k f).memWf = s.memWf := by
  unfold State.redHold
  dsimp only
  refine State.memWf_of_ite (s.badArg_memWf ..) ?_
  split
  · exact s.badArg_memWf ..
  · rw [State.finish_memWf, State.zCell_memWf]
    exact fun s => hf ..

theorem execRedHoldRelease_memWf (m : Nat) (s : State) (hs : s.memWf = true) : resMemWf (execRedHoldRelease m s) = true :=
  onUnit_resMemWf (s.mailboxCmd_memWf _ _ _ _ (fun k s h => State.memWf_of_ite ((s.badArg_memWf ..).trans h)
    ((s.redHold_memWf k fun s c j i => s.redEmit_memWf c j i).trans h)) hs)

theorem execRedHoldDiscard_memWf (m : Nat) (s : State) (hs : s.memWf = true) : resMemWf (execRedHoldDiscard m s) = true :=
  onUnit_resMemWf (s.mailboxCmd_memWf _ _ _ _ (fun k s h => (s.redHold_memWf k fun s c j i => s.redLose_memWf c j i).trans h) hs)

/-! ### Schedules -/

@[simp] theorem State.schedOut_memWf (s : State) (c o : Nat) (pk : Packet) : (s.schedOut c o pk).memWf = s.memWf := by
  unfold State.schedOut
  repeat' split
  all_goals simp

@[simp] theorem State.schedArrive_memWf (s : State) (c : Nat) (rows : List SchedRow) (x : InFlight) : (s.schedArrive c rows x).memWf = s.memWf := by
  unfold State.schedArrive
  repeat' split
  all_goals simp

@[simp] theorem State.schedDecode_memWf (s : State) (c : Nat) (x : InFlight) (es : List Ecc) : (s.schedDecode c x es).1.memWf = s.memWf := by
  unfold State.schedDecode
  repeat' split
  all_goals simp

theorem execSchedRouterArrival_memWf (c : Nat) (es : List (List Ecc)) (tab : Bool) (s : State) (hs : s.memWf = true) :
    resMemWf (execSchedRouterArrival c es tab s) = true := by
  refine onUnit_resMemWf (State.memWf_of_ite hs ?_)
  dsimp only
  rw [State.modCellRegs_memWf, State.forEach_memWf _ fun s x => s.schedArrive_memWf .., State.when_memWf _ fun s => s.tableError_memWf c 2,
    State.foldl_fst_memWf]
  · simp [hs]
  · exact fun a x => a.1.schedDecode_memWf ..

@[simp] theorem State.noteSlip_memWf (s : State) (c st pkts : Nat) (tag : W32) : (s.noteSlip c st pkts tag).memWf = s.memWf := by
  simp [State.noteSlip]

@[simp] theorem State.slipNi_memWf (s : State) (c st p start slots : Nat) : (s.slipNi c st p start slots).memWf = s.memWf := by simp [State.slipNi]

@[simp] theorem State.slipGw_memWf (s : State) (g st p start slots : Nat) : (s.slipGw g st p start slots).memWf = s.memWf := by simp [State.slipGw]

@[simp] theorem State.schedEnter_memWf (s : State) (c p : Nat) (pk : Packet) : (s.schedEnter c p pk).memWf = s.memWf := by simp [State.schedEnter]

@[simp] theorem State.slotInject_memWf (s : State) (c st p start left : Nat) (d : Desc) (hs : s.memWf = true) :
    (s.slotInject c st p start left d).memWf = true := by
  simp [State.slotInject, hs]

@[simp] theorem State.niSlot_memWf (s : State) (c st : Nat) (hs : s.memWf = true) : (s.niSlot c st).memWf = true := by
  unfold State.niSlot
  dsimp only
  repeat' split
  all_goals simp [hs]

@[simp] theorem State.gwSlot_memWf (s : State) (c st p g : Nat) (hs : s.memWf = true) : (s.gwSlot c st p g).memWf = true := by
  unfold State.gwSlot
  dsimp only
  repeat' split
  all_goals simp [hs]

theorem execSchedSlotSource_memWf (c : Nat) (gw : Bool) (st : Nat) (s : State) (hs : s.memWf = true) :
    resMemWf (execSchedSlotSource c gw st s) = true := by
  refine onUnit_resMemWf (State.memWf_of_ite hs (State.memWf_of_ite (s.forEach_memWf_of (fun s p h => ?_) hs) (by simp [hs])))
  split
  · exact s.gwSlot_memWf _ _ _ _ h
  · exact h

theorem execPeriodWake_memWf (r : Nat) (s : State) (hs : s.memWf = true) : resMemWf (execPeriodWake r s) = true := onUnit_resMemWf (by simp [hs])

theorem execPeriodArmReport_memWf (r : Nat) (s : State) (hs : s.memWf = true) : resMemWf (execPeriodArmReport r s) = true :=
  onUnit_resMemWf (by split <;> simp [hs])

theorem execReleaseArm_memWf (c : Nat) (s : State) (hs : s.memWf = true) : resMemWf (execReleaseArm c s) = true := by
  refine onUnit_resMemWf ?_
  dsimp only
  repeat' split
  all_goals simp [hs]

@[simp] theorem State.periodStart_memWf (s : State) : s.periodStart.memWf = s.memWf := by
  unfold State.periodStart
  split <;> simp

theorem execSchedIngressDeliver_memWf (n : Nat) (s : State) (hs : s.memWf = true) : resMemWf (execSchedIngressDeliver n s) = true :=
  onUnit_resMemWf (by simp [hs])

theorem execSchedSwitch_memWf (m : Nat) (s : State) (hs : s.memWf = true) : resMemWf (execSchedSwitch m s) = true :=
  onUnit_resMemWf (s.plainCmd_memWf _ _ (fun k s h => by simp [h]) hs)

theorem execSchedStop_memWf (m : Nat) (s : State) (hs : s.memWf = true) : resMemWf (execSchedStop m s) = true :=
  onUnit_resMemWf (s.plainCmd_memWf _ _ (fun k s h => by simp [h]) hs)

theorem execBankSwitch_memWf (s : State) (hs : s.memWf = true) : resMemWf (execBankSwitch s) = true := by
  refine onUnit_resMemWf ?_
  split
  · exact State.memWf_of_ite hs ((State.modChip_memWf ..).trans ((s.mapLinks_memWf _).trans hs))
  · exact hs

theorem execSequenceStop_memWf (s : State) (hs : s.memWf = true) : resMemWf (execSequenceStop s) = true := onUnit_resMemWf (by split <;> simp [hs])

/-! ### Files -/

@[simp] theorem State.installBank_memWf (s : State) (b : Bank) : (s.installBank b).memWf = s.memWf := by
  unfold State.installBank
  refine State.memWf_of_ite ?_ ((State.mapLinks_memWf ..).trans ?_) <;> simp

@[simp] theorem State.installTrees_memWf (s : State) (b : List Byte) (i n : Nat) : (s.installTrees b i n).1.memWf = s.memWf := by
  induction n generalizing s i with
  | zero => rfl
  | succ n ih =>
    unfold State.installTrees
    dsimp only
    split
    · rfl
    · have h := s.installTree_memWf (TreeRec.of (b.drop (num b 24 4 + 32 * i)))
        (vtxList b (num b 28 4 + 8 * (TreeRec.of (b.drop (num b 24 4 + 32 * i))).first) (TreeRec.of (b.drop (num b 24 4 + 32 * i))).count)
        (s.fileSetup (TreeRec.of (b.drop (num b 24 4 + 32 * i)))
          (vtxList b (num b 28 4 + 8 * (TreeRec.of (b.drop (num b 24 4 + 32 * i))).first) (TreeRec.of (b.drop (num b 24 4 + 32 * i))).count))
      split
      · next e =>
        rw [e] at h
        exact (ih ..).trans h
      · rfl

theorem execFileOpen_memWf (m : Nat) (s : State) (hs : s.memWf = true) : resMemWf (execFileOpen m s) = true :=
  onUnit_resMemWf (s.plainCmd_memWf _ _ (fun k s h => by simp [h]) hs)

theorem execFileData_memWf (m : Nat) (s : State) (hs : s.memWf = true) : resMemWf (execFileData m s) = true :=
  onUnit_resMemWf (s.mailboxCmd_memWf _ _ _ _ (fun k s h => by split <;> simp [h]) hs)

theorem execFileCommit_memWf (m : Nat) (s : State) (hs : s.memWf = true) : resMemWf (execFileCommit m s) = true := by
  refine onUnit_resMemWf (s.plainCmd_memWf _ _ (fun k s h => ?_) hs)
  split
  · simp [h]
  · next f rest _ =>
    have ht : (s.modFtn fun x => { x with files := rest }).memWf = true := (s.modFtn_memWf (fun _ => by dsimp only) fun _ => by dsimp only).trans h
    dsimp only
    refine State.memWf_of_ite (State.memWf_of_ite ((State.finish_memWf ..).trans ht) ?_) (State.memWf_of_ite ?_ ((State.finish_memWf ..).trans ht))
    · rw [State.finish_memWf, State.installBank_memWf, ht]
    · have hi := (s.modFtn fun x => { x with files := rest }).installTrees_memWf f.bytes 0 (num f.bytes 10 2)
      split
      · exact (State.finish_memWf ..).trans ht
      · next e =>
        rw [e] at hi
        exact State.memWf_of_ite ((State.finish_memWf ..).trans ht) ((State.finish_memWf ..).trans ((State.modChip_memWf ..).trans (hi.trans ht)))

/-! ### Self-test -/

@[simp] theorem State.offerMnt_memWf (s : State) (c : Nat) (pl : Plane) (p : Nat) (t q : BitVec 12) : (s.offerMnt c pl p t q).memWf = s.memWf := by
  unfold State.offerMnt
  split <;> simp

theorem execRinseOffer_memWf (c : Nat) (pl : Plane) (s : State) (hs : s.memWf = true) : resMemWf (execRinseOffer c pl s) = true := by
  refine onUnit_resMemWf ?_
  dsimp only
  repeat' split
  all_goals simp [hs]

theorem execRinseTimeout_memWf (c : Nat) (pl : Plane) (s : State) (hs : s.memWf = true) : resMemWf (execRinseTimeout c pl s) = true := by
  refine onUnit_resMemWf ?_
  dsimp only
  split <;> simp [hs]

@[simp] theorem State.liftLink_memWf (s : State) (c p : Nat) : (s.liftLink c p).memWf = s.memWf := by
  unfold State.liftLink
  split <;> simp

@[simp] theorem State.openLink_memWf (s : State) (c p : Nat) : (s.openLink c p).memWf = s.memWf := by
  unfold State.openLink
  split <;> simp

@[simp] theorem State.testLink_memWf (s : State) (c p : Nat) : (s.testLink c p).memWf = s.memWf := by
  unfold State.testLink
  split <;> simp

@[simp] theorem State.settleReopens_memWf (s : State) : s.settleReopens.memWf = s.memWf := by simp [State.settleReopens]

theorem execSluiceReopen_memWf (m : Nat) (s : State) (hs : s.memWf = true) : resMemWf (execSluiceReopen m s) = true :=
  onUnit_resMemWf (s.plainCmd_memWf _ _ (fun k s h => by
    dsimp only
    repeat' split
    all_goals simp [h]) hs)

@[simp] theorem State.mntPass_memWf (s : State) (c p : Nat) (pl : Plane) : (s.mntPass c p pl).memWf = s.memWf := by simp [State.mntPass]

@[simp] theorem State.mntFail_memWf (s : State) (c p : Nat) (pl : Plane) (t q : BitVec 12) : (s.mntFail c p pl t q).memWf = s.memWf := by
  unfold State.mntFail
  split <;> simp

@[simp] theorem State.mntCheck_memWf (s : State) (c : Nat) (pl : Plane) (p : Packet) : (s.mntCheck c pl p).memWf = s.memWf := by
  unfold State.mntCheck
  split <;> simp

theorem execMntEject_memWf (c : Nat) (s : State) (hs : s.memWf = true) : resMemWf (execMntEject c s) = true :=
  onUnit_resMemWf (s.ejectType_memWf _ _ (fun _ p s h => by simp [h]) hs)

@[simp] theorem State.beginTest_memWf (s : State) (bs : List Nat) (ncyc : Nat) : (s.beginTest bs ncyc).memWf = s.memWf := by simp [State.beginTest]

theorem execBlockTest_memWf (m : Nat) (s : State) (hs : s.memWf = true) : resMemWf (execBlockTest m s) = true :=
  onUnit_resMemWf (s.mailboxCmd_memWf _ _ _ _ (fun k s h => by simp [h]) hs)

@[simp] theorem State.judgeLink_memWf (s : State) (c p : Nat) : (s.judgeLink c p).memWf = s.memWf := by
  unfold State.judgeLink
  split <;> simp

@[simp] theorem State.releaseRegion_memWf (s : State) (r : Nat) (hs : s.memWf = true) : (s.releaseRegion r).memWf = true := by
  unfold State.releaseRegion
  dsimp only
  refine (State.forEach_memWf _ fun s g => ?_).trans (State.forEach_memWf_of _ (fun s c h => s.leaveReset_memWf c h) (by simp [hs]))
  exact State.memWf_of_ite (s.modGw_memWf fun _ => rfl) rfl

@[simp] theorem State.currentVersions_memWf (s : State) (cells : List Nat) : (s.currentVersions cells).memWf = s.memWf := by
  simp [State.currentVersions]

@[simp] theorem State.openRill_memWf (s : State) (c p : Nat) : (s.openRill c p).memWf = s.memWf := by
  unfold State.openRill
  split <;> simp

@[simp] theorem State.readmit_memWf (s : State) (r : Nat) (hs : s.memWf = true) : (s.readmit r).memWf = true := by
  unfold State.readmit
  dsimp only
  refine State.memWf_of_ite ((State.requestFlip_memWf ..).trans ((State.checkBalance_memWf ..).trans ((State.resetRecord_memWf ..).trans
    (State.releaseRegion_memWf _ _ ?_)))) ?_ <;> simp [hs]

theorem execBlockTestEnd_memWf (bad : List (Nat × Nat)) (s : State) (hs : s.memWf = true) : resMemWf (execBlockTestEnd bad s) = true := by
  refine onUnit_resMemWf ?_
  dsimp only
  refine State.memWf_of_ite hs ?_
  have hr (l : List Nat) (t : State) (ht : t.memWf = true) : (t.forEach l fun s r => s.readmit r).memWf = true :=
    t.forEach_memWf_of (fun s r h => s.readmit_memWf r h) ht
  split
  · exact hr _ _ (by simp [hs])
  · rw [State.finishHeld_memWf, State.setStep_memWf, State.modChip_memWf]
    exact hr _ _ (by simp [hs])

/-! ### Link coding -/

@[simp] theorem State.linkEmit_memWf (s : State) (n : Nat) (f : Frame) : (s.linkEmit n f).memWf = s.memWf := by simp [State.linkEmit]

/-! ### Links -/

@[simp] theorem State.linkEnter_memWf (s : State) (n st : Nat) : (s.linkEnter n st).memWf = s.memWf := by simp [State.linkEnter]

@[simp] theorem State.linkDisable_memWf (s : State) (n : Nat) : (s.linkDisable n).memWf = s.memWf := by simp [State.linkDisable]

@[simp] theorem State.answerQuiesce_memWf (s : State) (n : Nat) : (s.answerQuiesce n).memWf = s.memWf := by simp [State.answerQuiesce]

@[simp] theorem State.linkDown_memWf (s : State) (n cause : Nat) : (s.linkDown n cause).memWf = s.memWf := by simp [State.linkDown]

@[simp] theorem State.settleCtl_memWf (s : State) (n : Nat) : (s.settleCtl n).memWf = s.memWf := by
  unfold State.settleCtl
  dsimp only
  split <;> simp

theorem execLinkDetectPoll_memWf (n : Nat) (s : State) (hs : s.memWf = true) : resMemWf (execLinkDetectPoll n s) = true :=
  onUnit_resMemWf (by simp [hs])

theorem execDownDetectReturn_memWf (n : Nat) (s : State) (hs : s.memWf = true) : resMemWf (execDownDetectReturn n s) = true :=
  onUnit_resMemWf (by simp [hs])

@[simp] theorem State.startTaps_memWf (s : State) (n : Nat) : (s.startTaps n).memWf = s.memWf := by simp [State.startTaps]

theorem execLinkTerminationSeen_memWf (n h : Nat) (clk : Bool) (lanes : Nat) (s : State) (hs : s.memWf = true) :
    resMemWf (execLinkTerminationSeen n h clk lanes s) = true :=
  onUnit_resMemWf (by simp [hs])

theorem execTrainingMessage_memWf (n : Nat) (msg : BitVec 56) (s : State) (hs : s.memWf = true) : resMemWf (execTrainingMessage n msg s) = true :=
  onUnit_resMemWf (by simp [hs])

@[simp] theorem State.linkLock_memWf (s : State) (n : Nat) : (s.linkLock n).memWf = s.memWf := by simp [State.linkLock]

theorem execLinkTrainDone_memWf (n : Nat) (s : State) (hs : s.memWf = true) : resMemWf (execLinkTrainDone n s) = true :=
  onUnit_resMemWf (by simp [hs])

theorem execLinkTrainTimeout_memWf (n : Nat) (s : State) (hs : s.memWf = true) : resMemWf (execLinkTrainTimeout n s) = true :=
  onUnit_resMemWf (by simp [hs])

theorem execLinkLockDone_memWf (n : Nat) (rx : List LaneRx) (s : State) (hs : s.memWf = true) : resMemWf (execLinkLockDone n rx s) = true :=
  onUnit_resMemWf (by simp [hs])

theorem execLinkLockTimeout_memWf (n h l : Nat) (s : State) (hs : s.memWf = true) : resMemWf (execLinkLockTimeout n h l s) = true :=
  onUnit_resMemWf (by simp [hs])

theorem execCapSend_memWf (n : Nat) (s : State) (hs : s.memWf = true) : resMemWf (execCapSend n s) = true := onUnit_resMemWf (by simp [hs])

@[simp] theorem State.refusePeer_memWf (s : State) (n : Nat) : (s.refusePeer n).memWf = s.memWf := by simp [State.refusePeer]

@[simp] theorem State.writeCalib_memWf (s : State) (n : Nat) (hs : s.memWf = true) : (s.writeCalib n).memWf = true := by simp [State.writeCalib, hs]

@[simp] theorem State.linkActivate_memWf (s : State) (n w h : Nat) (resumed : Bool) (hs : s.memWf = true) :
    (s.linkActivate n w h resumed).memWf = true := by
  simp [State.linkActivate, hs]

@[simp] theorem State.capxTry_memWf (s : State) (n : Nat) (hs : s.memWf = true) : (s.capxTry n).memWf = true := by
  unfold State.capxTry
  dsimp only
  repeat' split
  all_goals simp [hs]

theorem execCapFrame_memWf (n : Nat) (cap : Cap) (s : State) (hs : s.memWf = true) : resMemWf (execCapFrame n cap s) = true :=
  onUnit_resMemWf (by simp [hs])

theorem execLnkCtlAdmit_memWf (n : Nat) (s : State) (hs : s.memWf = true) : resMemWf (execLnkCtlAdmit n s) = true := by
  refine onUnit_resMemWf ?_
  dsimp only
  repeat' split
  all_goals simp [hs]

@[simp] theorem State.linkRetrain_memWf (s : State) (n : Nat) : (s.linkRetrain n).memWf = s.memWf := by simp [State.linkRetrain]

theorem execLinkSetRetrain_memWf (n : Nat) (s : State) (hs : s.memWf = true) : resMemWf (execLinkSetRetrain n s) = true :=
  onUnit_resMemWf (by simp [hs])

theorem execPeerEntersTrain_memWf (n : Nat) (s : State) (hs : s.memWf = true) : resMemWf (execPeerEntersTrain n s) = true :=
  onUnit_resMemWf (by simp [hs])

@[simp] theorem State.laneLost_memWf (s : State) (n : Nat) : (s.laneLost n).memWf = s.memWf := by simp [State.laneLost]

theorem execLaneFail_memWf (n h l : Nat) (lost : Bool) (hdrs : Nat) (s : State) (hs : s.memWf = true) :
    resMemWf (execLaneFail n h l lost hdrs s) = true :=
  onUnit_resMemWf (by simp [hs])

theorem execClockLaneFail_memWf (n h : Nat) (s : State) (hs : s.memWf = true) : resMemWf (execClockLaneFail n h s) = true :=
  onUnit_resMemWf (by simp [hs])

theorem execClockLoss_memWf (n : Nat) (s : State) (hs : s.memWf = true) : resMemWf (execClockLoss n s) = true := onUnit_resMemWf (by simp [hs])

theorem execPrbsCheckerLock_memWf (n h l : Nat) (rx : BitVec 95) (s : State) (hs : s.memWf = true) :
    resMemWf (execPrbsCheckerLock n h l rx s) = true :=
  onUnit_resMemWf (by simp [hs])

theorem execPrbsCheckerUnlock_memWf (n h l errs : Nat) (s : State) (hs : s.memWf = true) : resMemWf (execPrbsCheckerUnlock n h l errs s) = true :=
  onUnit_resMemWf (by simp [hs])

@[simp] theorem State.prbsStart_memWf (s : State) (n len : Nat) : (s.prbsStart n len).memWf = s.memWf := by
  have h : ∀ (l : List Nat) (a : List (BitVec 31) × State), (l.foldl (fun (a : List (BitVec 31) × State) _ =>
      (a.1 ++ [BitVec.ofNat 31 (1 + a.2.draw.1.toNat % (2 ^ len - 1))], a.2.draw.2)) a).2.memWf = a.2.memWf := fun l => by
    induction l with
    | nil => exact fun _ => rfl
    | cons _ r ih => exact fun a => (ih _).trans a.2.draw_memWf
  exact (State.modLink_memWf ..).trans (h ..)

@[simp] theorem State.prbsSend_memWf (s : State) (n : Nat) : (s.prbsSend n).memWf = s.memWf := by
  simp [State.prbsSend]

theorem execLinkSet_memWf (m : Nat) (s : State) (hs : s.memWf = true) : resMemWf (execLinkSet m s) = true :=
  onUnit_resMemWf (s.plainCmd_memWf _ _ (fun k s h => by simp [h]) hs)

theorem execLinkQuiesce_memWf (m : Nat) (s : State) (hs : s.memWf = true) : resMemWf (execLinkQuiesce m s) = true :=
  onUnit_resMemWf (s.plainCmd_memWf _ _ (fun k s h => by simp [h]) hs)

/-! ### Frames -/

@[simp] theorem State.xlateError_memWf (s : State) (n : Nat) : (s.xlateError n).memWf = s.memWf := by simp [State.xlateError]

@[simp] theorem State.linkAnswer_memWf (s : State) (n half : Nat) (p : Packet) : (s.linkAnswer n half p).memWf = s.memWf := by simp [State.linkAnswer]

@[simp] theorem State.ingressForm_memWf (s : State) (n half : Nat) (dyn : Bool) (p : Packet) : (s.ingressForm n half dyn p).1.memWf = s.memWf := by
  unfold State.ingressForm
  dsimp only
  repeat' split
  all_goals simp

@[simp] theorem State.linkPolice_memWf (s : State) (n half : Nat) (p : Packet) : (s.linkPolice n half p).1.memWf = s.memWf := by
  unfold State.linkPolice
  dsimp only
  repeat' split
  all_goals simp

@[simp] theorem State.linkReceive_memWf (s : State) (n half : Nat) (pl : Plane) (p : Packet) : (s.linkReceive n half pl p).memWf = s.memWf := by
  unfold State.linkReceive
  have h := s.ingressForm_memWf n half true p
  split
  · next e => rwa [e] at h
  · next e =>
    rw [e] at h
    dsimp only
    refine (?_ : _ = _).trans h
    split <;> simp

@[simp] theorem State.linkPresentOne_memWf (s : State) (n half : Nat) (pl : Plane) : (s.linkPresentOne n half pl).memWf = s.memWf := by
  unfold State.linkPresentOne
  split <;> simp

@[simp] theorem State.linkPresent1_memWf (s : State) (n : Nat) : (s.linkPresent1 n).memWf = s.memWf := by simp [State.linkPresent1]

@[simp] theorem State.linkSched_memWf (s : State) (n half : Nat) (field : BitVec 10) (p : Packet) : (s.linkSched n half field p).memWf = s.memWf := by
  unfold State.linkSched
  have h := s.ingressForm_memWf n half false p
  split
  · next e => rwa [e] at h
  · next e =>
    rw [e] at h
    dsimp only
    refine (?_ : _ = _).trans h
    simp

@[simp] theorem State.linkNak_memWf (s : State) (n : Nat) (rill : Bool) : (s.linkNak n rill).memWf = s.memWf := by simp [State.linkNak]

@[simp] theorem State.linkReplay_memWf (s : State) (n : Nat) (rill : Bool) : (s.linkReplay n rill).memWf = s.memWf := by
  unfold State.linkReplay
  dsimp only
  split <;> simp

@[simp] theorem State.linkAck_memWf (s : State) (n : Nat) (f : Frame) : (s.linkAck n f).memWf = s.memWf := by simp [State.linkAck]

theorem State.linkAccept_memWf (s : State) (n : Nat) (rill : Bool) (f : Frame) (ok : Bool) {g : State → State} (hg : ∀ s, (g s).memWf = s.memWf) :
    (s.linkAccept n rill f ok g).memWf = s.memWf := by
  simp [State.linkAccept, hg]

@[simp] theorem State.badFrame_memWf (s : State) (n : Nat) (rill : Bool) : (s.badFrame n rill).memWf = s.memWf := by simp [State.badFrame]

theorem State.onFrame_memWf (s : State) (n : Nat) {g : State → State} (hg : ∀ s, (g s).memWf = s.memWf) : (s.onFrame n g).memWf = s.memWf := by
  simp [State.onFrame, hg]

@[simp] theorem State.dynFrame_memWf (s : State) (n : Nat) (pl : Plane) (f : Frame) : (s.dynFrame n pl f).memWf = s.memWf := by
  refine s.onFrame_memWf n fun s => ?_
  split
  · refine (State.linkAccept_memWf _ _ _ _ _ fun s => s.linkReceive_memWf ..).trans ?_
    simp
  · simp

theorem execFrameReq_memWf (n : Nat) (f : Frame) (s : State) (hs : s.memWf = true) : resMemWf (execFrameReq n f s) = true :=
  onUnit_resMemWf (by simp [hs])

theorem execFrameRep_memWf (n : Nat) (f : Frame) (s : State) (hs : s.memWf = true) : resMemWf (execFrameRep n f s) = true :=
  onUnit_resMemWf (by simp [hs])

theorem execFrameSched_memWf (n : Nat) (f : Frame) (s : State) (hs : s.memWf = true) : resMemWf (execFrameSched n f s) = true := by
  refine onUnit_resMemWf ((s.onFrame_memWf n fun s => ?_).trans hs)
  split
  · refine (State.linkAccept_memWf _ _ _ _ _ fun s => s.linkSched_memWf ..).trans ?_
    simp
  · simp

theorem execFrameRill_memWf (n : Nat) (f : Frame) (s : State) (hs : s.memWf = true) : resMemWf (execFrameRill n f s) = true := by
  refine onUnit_resMemWf ((s.onFrame_memWf n fun s => ?_).trans hs)
  split
  · refine (State.linkAccept_memWf _ _ _ _ _ fun s => ?_).trans (State.linkAck_memWf ..)
    dsimp only
    split <;> simp
  · simp

@[simp] theorem State.linkResume_memWf (s : State) (n : Nat) (rill : Bool) : (s.linkResume n rill).memWf = s.memWf := by simp [State.linkResume]

theorem execFrameIdle_memWf (n : Nat) (f : Frame) (s : State) (hs : s.memWf = true) : resMemWf (execFrameIdle n f s) = true :=
  onUnit_resMemWf ((s.onFrame_memWf _ fun s => by split <;> simp).trans hs)

theorem execFrameNak_memWf (n : Nat) (f : Frame) (s : State) (hs : s.memWf = true) : resMemWf (execFrameNak n f s) = true :=
  onUnit_resMemWf ((s.onFrame_memWf _ fun s => by simp).trans hs)

theorem execFrameCrcFail_memWf (n : Nat) (rill : Bool) (s : State) (hs : s.memWf = true) : resMemWf (execFrameCrcFail n rill s) = true :=
  onUnit_resMemWf ((s.onFrame_memWf _ fun s => by simp).trans hs)

theorem execAckTimeout_memWf (n : Nat) (rill : Bool) (s : State) (hs : s.memWf = true) : resMemWf (execAckTimeout n rill s) = true :=
  onUnit_resMemWf ((s.onFrame_memWf _ fun s => by split <;> simp).trans hs)

@[simp] theorem State.linkOut_memWf (s : State) (n : Nat) (ack idle : Bool) (f : Frame) : (s.linkOut n ack idle f).memWf = s.memWf := by
  simp [State.linkOut]

@[simp] theorem State.timeDeparts_memWf (s : State) (n : Nat) (flits : List Flit) : (s.timeDeparts n flits).memWf = s.memWf := by
  unfold State.timeDeparts
  split <;> simp

@[simp] theorem State.linkNew_memWf (s : State) (n : Nat) (rill ack : Bool) (f : Frame) : (s.linkNew n rill ack f).memWf = s.memWf := by
  simp [State.linkNew]

@[simp] theorem State.sendRill_memWf (s : State) (n : Nat) : (s.sendRill n).memWf = s.memWf := by
  unfold State.sendRill
  dsimp only
  repeat' split
  all_goals simp

@[simp] theorem State.sendBulk_memWf (s : State) (n : Nat) : (s.sendBulk n).memWf = s.memWf := by
  unfold State.sendBulk
  dsimp only
  repeat' split
  all_goals simp

theorem execFrameBoundary_memWf (n : Nat) (s : State) (hs : s.memWf = true) : resMemWf (execFrameBoundary n s) = true :=
  onUnit_resMemWf (by simp [hs])

theorem execRillCreditFrame_memWf (n : Nat) (s : State) (hs : s.memWf = true) : resMemWf (execRillCreditFrame n s) = true :=
  onUnit_resMemWf ((s.onFrame_memWf _ fun s => by
    dsimp only
    split <;> simp).trans hs)

@[simp] theorem State.linkDeep_memWf (s : State) (n : Nat) : (s.linkDeep n).memWf = s.memWf := by simp [State.linkDeep]

@[simp] theorem State.linkWake_memWf (s : State) (n : Nat) : (s.linkWake n).memWf = s.memWf := by simp [State.linkWake]

theorem execLinkSetDeepReq_memWf (n : Nat) (s : State) (hs : s.memWf = true) : resMemWf (execLinkSetDeepReq n s) = true :=
  onUnit_resMemWf (by simp [hs])

theorem execLinkSetDeepRelease_memWf (n : Nat) (s : State) (hs : s.memWf = true) : resMemWf (execLinkSetDeepRelease n s) = true :=
  onUnit_resMemWf (by simp [hs])

theorem execDeepDrained_memWf (n : Nat) (s : State) (hs : s.memWf = true) : resMemWf (execDeepDrained n s) = true := onUnit_resMemWf (by simp [hs])

theorem execDeepRetry_memWf (n : Nat) (s : State) (hs : s.memWf = true) : resMemWf (execDeepRetry n s) = true := by
  refine onUnit_resMemWf ?_
  dsimp only
  split <;> simp [hs]

theorem execFrameDeepRequest_memWf (n : Nat) (s : State) (hs : s.memWf = true) : resMemWf (execFrameDeepRequest n s) = true :=
  onUnit_resMemWf (by simp [hs])

theorem execFrameDeepAccept_memWf (n : Nat) (s : State) (hs : s.memWf = true) : resMemWf (execFrameDeepAccept n s) = true :=
  onUnit_resMemWf (by simp [hs])

theorem execFrameDeepRefuse_memWf (n : Nat) (s : State) (hs : s.memWf = true) : resMemWf (execFrameDeepRefuse n s) = true :=
  onUnit_resMemWf (by simp [hs])

theorem execWakeTone_memWf (n : Nat) (s : State) (hs : s.memWf = true) : resMemWf (execWakeTone n s) = true := onUnit_resMemWf (by simp [hs])

@[simp] theorem State.rillWakes_memWf (s : State) (n : Nat) : (s.rillWakes n).memWf = s.memWf := by simp [State.rillWakes]

theorem execDeepExitTimeout_memWf (n : Nat) (s : State) (hs : s.memWf = true) : resMemWf (execDeepExitTimeout n s) = true :=
  onUnit_resMemWf (by split <;> simp [hs])

@[simp] theorem State.quiesceGo_memWf (s : State) (n : Nat) : (s.quiesceGo n).memWf = s.memWf := by simp [State.quiesceGo]

theorem execQuiesceStart_memWf (n : Nat) (s : State) (hs : s.memWf = true) : resMemWf (execQuiesceStart n s) = true := onUnit_resMemWf (by simp [hs])

theorem execQuiesceDrained_memWf (n : Nat) (s : State) (hs : s.memWf = true) : resMemWf (execQuiesceDrained n s) = true :=
  onUnit_resMemWf (by simp [hs])

theorem execFrameQuiesceRequest_memWf (n : Nat) (s : State) (hs : s.memWf = true) : resMemWf (execFrameQuiesceRequest n s) = true :=
  onUnit_resMemWf ((s.onFrame_memWf _ fun s => by
    dsimp only
    split <;> simp).trans hs)

theorem execFrameQuiesceDone_memWf (n : Nat) (s : State) (hs : s.memWf = true) : resMemWf (execFrameQuiesceDone n s) = true :=
  onUnit_resMemWf (by simp [hs])

@[simp] theorem State.seqReject_memWf (s : State) (n : Nat) (ctr : W64) : (s.seqReject n ctr).memWf = s.memWf := by simp [State.seqReject]

@[simp] theorem State.seqTake_memWf (s : State) (n : Nat) : (s.seqTake n).memWf = s.memWf := by simp [State.seqTake]

theorem State.seqCheck_memWf (s : State) (n : Nat) {g : State → Flit → Flit → State} (hg : ∀ s a b, (g s a b).memWf = s.memWf) :
    (s.seqCheck n g).memWf = s.memWf := by
  unfold State.seqCheck
  dsimp only
  split
  · rfl
  · simp [hg]

@[simp] theorem State.edgeRill_memWf (s : State) (n : Nat) (f : Flit) : (s.edgeRill n f).memWf = s.memWf := by simp [State.edgeRill]

@[simp] theorem State.seqDeliver_memWf (s : State) (n : Nat) (route body : Flit) : (s.seqDeliver n route body).memWf = s.memWf := by
  unfold State.seqDeliver
  dsimp only
  repeat' split
  all_goals simp

theorem execRillSequenceIngress_memWf (n : Nat) (s : State) (hs : s.memWf = true) : resMemWf (execRillSequenceIngress n s) = true := by
  refine onUnit_resMemWf ?_
  split
  · exact hs
  · exact State.memWf_of_ite hs ((s.seqCheck_memWf n fun s r b => s.seqDeliver_memWf n r b).trans hs)

/-! ### Time -/

@[simp] theorem State.timeEvent_memWf (s : State) : s.timeEvent.memWf = s.memWf := by simp [State.timeEvent]

@[simp] theorem State.timeLock_memWf (s : State) : s.timeLock.memWf = s.memWf := by simp [State.timeLock]

@[simp] theorem State.timeUnlock_memWf (s : State) : s.timeUnlock.memWf = s.memWf := by
  unfold State.timeUnlock
  dsimp only
  refine State.memWf_of_ite rfl ?_
  rw [State.timeEvent_memWf, State.zRecord_memWf, State.mapLinks_memWf, State.modChipRegs_memWf, State.modChip_memWf]

theorem State.onTime_memWf (s : State) (n : Nat) (aux : BitVec 3) {g : State → Flit → State} (hg : ∀ s b, (g s b).memWf = s.memWf) :
    (s.onTime n aux g).memWf = s.memWf :=
  State.memWf_of_ite (s.seqCheck_memWf n fun s _ b => hg s b) rfl

@[simp] theorem State.sendTime_memWf (s : State) (n aux : Nat) (v : W64) : (s.sendTime n aux v).memWf = s.memWf := by simp [State.sendTime]

theorem execTimeSync_memWf (n : Nat) (s : State) (hs : s.memWf = true) : resMemWf (execTimeSync n s) = true :=
  onUnit_resMemWf ((s.onTime_memWf _ _ fun s b => by simp).trans hs)

@[simp] theorem State.modExch_memWf (s : State) (n : Nat) (f : TimeExch → TimeExch) : (s.modExch n f).memWf = s.memWf := by simp [State.modExch]

theorem execTimeResp_memWf (n : Nat) (s : State) (hs : s.memWf = true) : resMemWf (execTimeResp n s) = true :=
  onUnit_resMemWf ((s.onTime_memWf _ _ fun s b => by simp).trans hs)

theorem execTimeRespU_memWf (n : Nat) (s : State) (hs : s.memWf = true) : resMemWf (execTimeRespU n s) = true :=
  onUnit_resMemWf ((s.onTime_memWf _ _ fun s b => by simp).trans hs)

@[simp] theorem State.exchReject_memWf (s : State) (n : Nat) : (s.exchReject n).memWf = s.memWf := by simp [State.exchReject]

@[simp] theorem State.timeToRegions_memWf (s : State) (aux : Nat) (v : W64) : (s.timeToRegions aux v).memWf = s.memWf := by simp [State.timeToRegions]

@[simp] theorem State.offsetNew_memWf (s : State) (n : Nat) (off : Int) : (s.offsetNew n off).memWf = s.memWf := by simp [State.offsetNew]

@[simp] theorem State.exchAccept_memWf (s : State) (n : Nat) (theta : Int) : (s.exchAccept n theta).memWf = s.memWf := by simp [State.exchAccept]

theorem execTimeFollow_memWf (n : Nat) (s : State) (hs : s.memWf = true) : resMemWf (execTimeFollow n s) = true :=
  onUnit_resMemWf ((s.onTime_memWf _ _ fun s b => by
    repeat' split
    all_goals simp).trans hs)

theorem execTimeFollowTimeout_memWf (n : Nat) (s : State) (hs : s.memWf = true) : resMemWf (execTimeFollowTimeout n s) = true :=
  onUnit_resMemWf (by split <;> simp [hs])

theorem execTimeExchangeTick_memWf (s : State) (hs : s.memWf = true) : resMemWf (execTimeExchangeTick s) = true :=
  onUnit_resMemWf (by split <;> simp [hs])

theorem execHoldoverExpire_memWf (s : State) (hs : s.memWf = true) : resMemWf (execHoldoverExpire s) = true := onUnit_resMemWf (by simp [hs])

theorem State.regionTime_memWf (s : State) (r : Nat) (aux : BitVec 3) {g : State → W64 → State} (hg : ∀ s v, (g s v).memWf = s.memWf) :
    (s.regionTime r aux g).memWf = s.memWf := by
  unfold State.regionTime
  split
  · rfl
  · simp [hg]

theorem execTimeStep_memWf (r : Nat) (s : State) (hs : s.memWf = true) : resMemWf (execTimeStep r s) = true :=
  onUnit_resMemWf ((s.regionTime_memWf _ _ fun s v => by simp).trans hs)

@[simp] theorem State.applyStep_memWf (s : State) : s.applyStep.memWf = s.memWf := by
  unfold State.applyStep
  split
  · rfl
  · refine State.memWf_of_ite rfl ((State.modChipRegs_memWf ..).trans ((State.modChip_memWf ..).trans ?_))
    rfl

theorem State.setTime_memWf (s : State) (t : W64) : ({ s with time := t } : State).memWf = s.memWf := rfl

theorem execTimeSlew_memWf (r : Nat) (s : State) (hs : s.memWf = true) : resMemWf (execTimeSlew r s) = true := by
  refine onUnit_resMemWf ((s.regionTime_memWf _ _ fun s v => ?_).trans hs)
  dsimp only
  have ht (t : State) (a : W64) (h : t.memWf = s.memWf) : ({ t with time := a } : State).memWf = s.memWf := (t.setTime_memWf a).trans h
  refine State.memWf_of_ite ?_ (State.memWf_of_ite (ht _ _ ?_) (State.memWf_of_ite (ht _ _ ?_) ?_)) <;> exact s.modChipRegs_memWf _

@[simp] theorem State.deriveSlot3_memWf (s : State) : s.deriveSlot3.memWf = s.memWf := by
  unfold State.deriveSlot3
  split <;> simp

theorem execSetIdentity_memWf (m : Nat) (s : State) (hs : s.memWf = true) : resMemWf (execSetIdentity m s) = true :=
  onUnit_resMemWf (s.plainCmd_memWf _ _ (fun k s h => by simp [h]) hs)

@[simp] theorem State.useContext1_memWf (s : State) : s.useContext1.memWf = s.memWf := by simp [State.useContext1]

@[simp] theorem State.settleTime_memWf (s : State) : s.settleTime.memWf = s.memWf := by
  simp [State.settleTime]

theorem execSetTime_memWf (m : Nat) (s : State) (hs : s.memWf = true) : resMemWf (execSetTime m s) = true :=
  onUnit_resMemWf (s.plainCmd_memWf _ _ (fun k s h => by simp [h]) hs)

/-! ### Power -/

@[simp] theorem State.idleTick_memWf (s : State) : s.idleTick.memWf = s.memWf := by simp [State.idleTick]

theorem execDozeIdleReached_memWf (b : Nat) (s : State) (hs : s.memWf = true) : resMemWf (execDozeIdleReached b s) = true :=
  onUnit_resMemWf (by simp [hs])

theorem execDozeGate_memWf (b : Nat) (s : State) (hs : s.memWf = true) : resMemWf (execDozeGate b s) = true :=
  onUnit_resMemWf (by split <;> simp [hs])

theorem execWakeDoze_memWf (b : Nat) (s : State) (hs : s.memWf = true) : resMemWf (execWakeDoze b s) = true :=
  onUnit_resMemWf (by split <;> simp [hs])

theorem execBlkPwrCtlHoldRun_memWf (b : Nat) (s : State) (hs : s.memWf = true) : resMemWf (execBlkPwrCtlHoldRun b s) = true :=
  onUnit_resMemWf (by simp [hs])

theorem State.powerGate_memWf (s : State) (b : Nat) (x : Crossing) {f off : State → State} (hf : ∀ s, s.memWf = true → (f s).memWf = true)
    (ho : ∀ s, s.memWf = true → (off s).memWf = true) (hs : s.memWf = true) : (s.powerGate b x f off).memWf = true := by
  unfold State.powerGate
  split
  · exact hf s hs
  · exact ho _ ((s.modChipRegs_memWf _).trans hs)
  · simp [hs]

@[simp] theorem State.answerWait_memWf (s : State) (key status detail : Nat) : (s.answerWait key status detail).memWf = s.memWf := by
  unfold State.answerWait
  split <;> simp

@[simp] theorem State.waitForFlip_memWf (s : State) (key : Nat) : (s.waitForFlip key).memWf = s.memWf := by
  unfold State.waitForFlip
  split <;> simp

theorem execPowerRegionSleep_memWf (m : Nat) (s : State) (hs : s.memWf = true) : resMemWf (execPowerRegionSleep m s) = true :=
  onUnit_resMemWf (s.mailboxCmd_memWf _ _ _ _ (fun k s h => by simp [h]) hs)

@[simp] theorem State.sleepTick_memWf (s : State) : s.sleepTick.memWf = s.memWf :=
  s.forEach_memWf fun s r => by split <;> simp

theorem execSleepClockStop_memWf (r : Nat) (s : State) (hs : s.memWf = true) : resMemWf (execSleepClockStop r s) = true :=
  onUnit_resMemWf (by simp [hs])

theorem execWakeSleep_memWf (r : Nat) (s : State) (hs : s.memWf = true) : resMemWf (execWakeSleep r s) = true :=
  onUnit_resMemWf (by split <;> simp [hs])

theorem execPowerRegionWake_memWf (m : Nat) (s : State) (hs : s.memWf = true) : resMemWf (execPowerRegionWake m s) = true :=
  onUnit_resMemWf (s.mailboxCmd_memWf _ _ _ _ (fun k s h => by simp [h]) hs)

@[simp] theorem State.wakesDone_memWf (s : State) : s.wakesDone.memWf = s.memWf := by simp [State.wakesDone]

@[simp] theorem State.releaseBringUp_memWf (s : State) (r : Nat) (hs : s.memWf = true) : (s.releaseBringUp r).memWf = true := by
  unfold State.releaseBringUp
  dsimp only
  have h : ∀ t : State, t.memWf = true → (t.forEach (s.facing r) fun s e => if s.inTest e.1 e.2 then s.openLink e.1 e.2 else s).memWf = true :=
    fun t ht => (t.forEach_memWf fun s e => by simp).trans ht
  exact State.memWf_of_ite (State.releaseRegion_memWf _ _ (h s hs)) ((State.modChip_memWf ..).trans ((State.modRegion_memWf ..).trans (h s hs)))

@[simp] theorem State.releaseSleep_memWf (s : State) (r : Nat) : (s.releaseSleep r).memWf = s.memWf := by simp [State.releaseSleep]

theorem execPowerBlockOff_memWf (m : Nat) (s : State) (hs : s.memWf = true) : resMemWf (execPowerBlockOff m s) = true :=
  onUnit_resMemWf (s.mailboxCmd_memWf _ _ _ _ (fun k s h => by simp [h]) hs)

theorem execOffPowerRemove_memWf (b : Nat) (s : State) (hs : s.memWf = true) : resMemWf (execOffPowerRemove b s) = true :=
  onUnit_resMemWf (by simp [hs])

theorem execPowerBlockOn_memWf (m : Nat) (s : State) (hs : s.memWf = true) : resMemWf (execPowerBlockOn m s) = true :=
  onUnit_resMemWf (s.mailboxCmd_memWf _ _ _ _ (fun k s h => by simp [h]) hs)

theorem execBlockPowerOnDone_memWf (b : Nat) (s : State) (hs : s.memWf = true) : resMemWf (execBlockPowerOnDone b s) = true := by
  refine onUnit_resMemWf (State.memWf_of_ite hs ?_)
  dsimp only
  rw [State.waitForFlip_memWf, State.rewriteRill_memWf, State.currentVersions_memWf]
  exact State.forEach_memWf_of _ (fun s c h => s.leaveReset_memWf c h) ((s.modBlock_memWf ..).trans hs)

/-! ### Register accesses and the chip reset -/

@[simp] theorem Cell.store_cm (x : Cell) (now : W32) (ncyc o : Nat) (row : RegRow) (v mask : W64) : (x.store now ncyc o row v mask).cm = x.cm := by
  unfold Cell.store
  dsimp only
  repeat' split
  all_goals simp

@[simp] theorem State.refillNi_memWf (s : State) (c : Nat) : (s.refillNi c).memWf = s.memWf := by simp [State.refillNi]

@[simp] theorem State.endDisabled_memWf (s : State) (c q : Nat) : (s.endDisabled c q).memWf = s.memWf := by simp [State.endDisabled]

@[simp] theorem State.ownTree_memWf (s : State) (c x : Nat) : (s.ownTree c x).memWf = s.memWf := by simp [State.ownTree]

@[simp] theorem State.storeCell_memWf (s : State) (c o : Nat) (row : RegRow) (v mask : W64) : (s.storeCell c o row v mask).memWf = s.memWf := by
  simp [State.storeCell]

@[simp] theorem State.linkStrobes_memWf (s : State) (n : Nat) (v : W64) (hs : s.memWf = true) : (s.linkStrobes n v).memWf = true := by
  unfold State.linkStrobes
  dsimp only
  rw [State.when_memWf _ fun s => s.quiesceGo_memWf n]
  unfold State.when_
  exact State.memWf_of_ite (State.memWf_of_ite (by simp [hs]) (by simp [hs])) hs

@[simp] theorem State.store_memWf (s : State) (sc : Scope) (u o : Nat) (row : RegRow) (v mask : W64) (hs : s.memWf = true) :
    (s.store sc u o row v mask).memWf = true := by
  cases sc with
  | cell => exact (s.storeCell_memWf u o row v mask).trans hs
  | block => simp [State.store, hs]
  | region => exact (s.modRegionRegs_memWf ..).trans hs
  | link =>
    simp only [State.store]
    exact State.memWf_of_ite hs (State.memWf_of_ite (State.linkStrobes_memWf _ _ _ (by simp [hs])) (by simp [hs]))
  | gateway => exact (s.modGwRegs_memWf ..).trans hs
  | chip => simp [State.store, hs]

theorem State.onPower_memWf (s : State) (sc : Scope) (u off : Nat) (x : Crossing) {f off_ : State → State}
    (hf : ∀ s, s.memWf = true → (f s).memWf = true) (ho : ∀ s, s.memWf = true → (off_ s).memWf = true) (hs : s.memWf = true) :
    (s.onPower sc u off x f off_).memWf = true := by
  unfold State.onPower
  split
  · exact hf s hs
  · exact State.memWf_of_ite (hf s hs) (s.powerGate_memWf _ x hf ho hs)

@[simp] theorem State.setReg_memWf (s : State) (sc : Scope) (u o : Nat) (row : RegRow) (v mask : W64) (hs : s.memWf = true) :
    (s.setReg sc u o row v mask).memWf = true :=
  s.onPower_memWf sc u o _ (fun s h => by simp [h]) (fun _ h => h) hs

@[simp] theorem State.modPort_memWf (s : State) (a : Agent) (f : PortLatch → PortLatch) : (s.modPort a f).memWf = s.memWf := by
  cases a <;> rfl

@[simp] theorem State.modRegs_memWf (s : State) (sc : Scope) (u : Nat) (f : Regs → Regs) : (s.modRegs sc u f).memWf = s.memWf := by
  unfold State.modRegs
  split <;> simp

@[simp] theorem State.clearRc_memWf (s : State) (a : Agent) (sc : Scope) (u o mask : Nat) : (s.clearRc a sc u o mask).memWf = s.memWf := by
  simp [State.clearRc]

@[simp] theorem State.readReg_memWf (s : State) (a : Agent) (sc : Scope) (u o : Nat) (row : RegRow) (upper : Bool) (addr : Nat) :
    (s.readReg a sc u o row upper addr).memWf = s.memWf := by
  unfold State.readReg
  dsimp only
  split
  · split
    · split <;> simp
    · simp
  · simp

@[simp] theorem State.readAccess_memWf (s : State) (a : Agent) (addr : Nat) (hs : s.memWf = true) : (s.readAccess a addr).memWf = true := by
  unfold State.readAccess
  dsimp only
  split
  · refine s.onPower_memWf _ _ _ _ (fun s h => ?_) (fun s h => by simp [h]) hs
    split <;> simp [h]
  · simp [hs]

theorem execRcFieldRead_memWf (a : Agent) (addr : Nat) (s : State) (hs : s.memWf = true) : resMemWf (execRcFieldRead a addr s) = true :=
  onUnit_resMemWf (by simp [hs])

theorem execLowWordRead_memWf (a : Agent) (addr : Nat) (s : State) (hs : s.memWf = true) : resMemWf (execLowWordRead a addr s) = true :=
  onUnit_resMemWf (by simp [hs])

@[simp] theorem State.cmdWrite_memWf (s : State) (m k : Nat) (v : W32) : (s.cmdWrite m k v).memWf = s.memWf := by simp [State.cmdWrite]

@[simp] theorem State.ring_memWf (s : State) (m : Nat) : (s.ring m).memWf = s.memWf := by simp [State.ring]

@[simp] theorem State.ackDone_memWf (s : State) (m : Nat) : (s.ackDone m).memWf = s.memWf := by simp [State.ackDone]

theorem execMbxCmdWrite_memWf (m k : Nat) (v : W32) (s : State) (hs : s.memWf = true) : resMemWf (execMbxCmdWrite m k v s) = true :=
  onUnit_resMemWf (by simp [hs])

theorem execMbxDbRing_memWf (m : Nat) (s : State) (hs : s.memWf = true) : resMemWf (execMbxDbRing m s) = true := onUnit_resMemWf (by simp [hs])

theorem execMbxDbAck_memWf (m : Nat) (s : State) (hs : s.memWf = true) : resMemWf (execMbxDbAck m s) = true := onUnit_resMemWf (by simp [hs])

theorem execMbxEvtCiWrite_memWf (v : W32) (s : State) (hs : s.memWf = true) : resMemWf (execMbxEvtCiWrite v s) = true :=
  onUnit_resMemWf (by simp [hs])

theorem execMbxMevtCiWrite_memWf (v : W32) (s : State) (hs : s.memWf = true) : resMemWf (execMbxMevtCiWrite v s) = true :=
  onUnit_resMemWf (by simp [hs])

/-- What a staging buffer holds is canonical. -/
theorem State.memWf_staging {s : State} (hs : s.memWf = true) (m : Nat) : Memory.wf ((aget s.ftn.staging m).getD []) = true := by
  simp only [State.memWf_eq, Bool.and_eq_true] at hs
  obtain ⟨-, hst⟩ := hs
  cases h : aget s.ftn.staging m with
  | none => rfl
  | some v => exact all_of_aget (p := Memory.wf) h hst

/-- Bytes written into a staging buffer keep the memories canonical. -/
theorem State.stage_memWf (s : State) (m off : Nat) (bs : List Byte) (hs : s.memWf = true) :
    (s.modFtn fun f => { f with staging := aput f.staging m (mwriteList ((aget f.staging m).getD []) off bs) }).memWf = true := by
  have hm := mwriteList_wf _ off bs (State.memWf_staging hs m)
  simp only [State.memWf_eq, Bool.and_eq_true, State.modFtn_cells, State.modFtn_gws, State.modFtn_ftn] at hs ⊢
  obtain ⟨⟨⟨hc, hg⟩, hi⟩, hst⟩ := hs
  exact ⟨⟨⟨hc, hg⟩, hi⟩, all_aput (p := Memory.wf) hm hst⟩

/-- Bytes written into the image area keep the memories canonical. -/
theorem State.writeImage_memWf (s : State) (off : Nat) (bs : List Byte) (hs : s.memWf = true) :
    (s.modFtn fun f => { f with image := mwriteList f.image off bs }).memWf = true := by
  simp only [State.memWf_eq, Bool.and_eq_true, State.modFtn_cells, State.modFtn_gws, State.modFtn_ftn] at hs ⊢
  obtain ⟨⟨⟨hc, hg⟩, hi⟩, hst⟩ := hs
  exact ⟨⟨⟨hc, hg⟩, mwriteList_wf _ _ _ hi⟩, hst⟩

@[simp] theorem State.bootWrite_memWf (s : State) (p : Place) (v : W32) (hs : s.memWf = true) : (s.bootWrite p v).memWf = true := by
  unfold State.bootWrite
  split
  · exact State.memWf_of_ite (s.writeImage_memWf _ _ hs) hs
  · exact State.memWf_of_ite (s.stage_memWf _ _ _ hs) ((s.modMbx_memWf ..).trans hs)
  · exact hs

theorem execBootWindowWrite_memWf (a : Agent) (off : Nat) (v : W32) (s : State) (hs : s.memWf = true) :
    resMemWf (execBootWindowWrite a off v s) = true :=
  onUnit_resMemWf (by simp [hs])

@[simp] theorem State.bootFail_memWf (s : State) (cause : Nat) : (s.bootFail cause).memWf = s.memWf := by simp [State.bootFail]

@[simp] theorem State.bootStart_memWf (s : State) : s.bootStart.memWf = s.memWf := by simp [State.bootStart]

theorem execMbxBootCtlStart_memWf (s : State) (hs : s.memWf = true) : resMemWf (execMbxBootCtlStart s) = true := onUnit_resMemWf (by simp [hs])

@[simp] theorem State.bootRun_memWf (s : State) (beats : List W64) : (s.bootRun beats).memWf = s.memWf := by simp [State.bootRun]

theorem execKeyPortResponse_memWf (data : W64) (last : Bool) (s : State) (hs : s.memWf = true) : resMemWf (execKeyPortResponse data last s) = true :=
  onUnit_resMemWf (by simp [hs])

theorem execKeyVerdictTimeout_memWf (s : State) (hs : s.memWf = true) : resMemWf (execKeyVerdictTimeout s) = true := onUnit_resMemWf (by simp [hs])

theorem execFountaineerWatchdogExpire_memWf (s : State) (hs : s.memWf = true) : resMemWf (execFountaineerWatchdogExpire s) = true :=
  onUnit_resMemWf (by simp [hs])

theorem execFountaineerMemoryUncorrectable_memWf (s : State) (hs : s.memWf = true) : resMemWf (execFountaineerMemoryUncorrectable s) = true :=
  onUnit_resMemWf (by simp [hs])

/-- A chip reset keeps cluster memories and stacks, and empties the image area and the staging buffers. -/
@[simp] theorem State.chipReset_memWf (s : State) (hs : s.memWf = true) : s.chipReset.memWf = true := by
  simp only [State.memWf_eq, Table.all, State.chipReset, List.all_map, Function.comp_def, Bool.and_eq_true] at hs ⊢
  obtain ⟨⟨⟨hc, hg⟩, -⟩, -⟩ := hs
  exact ⟨⟨⟨hc, hg⟩, rfl⟩, rfl⟩

theorem State.setPor_memWf (s : State) (b : Bool) : ({ s with por := b } : State).memWf = s.memWf := rfl

theorem execPorAssert_memWf (s : State) (hs : s.memWf = true) : resMemWf (execPorAssert s) = true :=
  onUnit_resMemWf ((State.setPor_memWf ..).trans (s.chipReset_memWf hs))

theorem execPorRelease_memWf (s : State) (hs : s.memWf = true) : resMemWf (execPorRelease s) = true :=
  onUnit_resMemWf (State.memWf_of_ite hs ((State.setStep_memWf ..).trans ((State.setPor_memWf ..).trans (s.chipReset_memWf hs))))

theorem execChipResetAfterResponse_memWf (s : State) (hs : s.memWf = true) : resMemWf (execChipResetAfterResponse s) = true :=
  onUnit_resMemWf (by split <;> simp [hs])

theorem execHostPortReset_memWf (s : State) (hs : s.memWf = true) : resMemWf (execHostPortReset s) = true := onUnit_resMemWf (by simp [hs])

theorem execMgmtPortReset_memWf (s : State) (hs : s.memWf = true) : resMemWf (execMgmtPortReset s) = true := onUnit_resMemWf (by simp [hs])

@[simp] theorem State.refuseWrite_memWf (s : State) (a : Agent) (addr : Nat) : (s.refuseWrite a addr).memWf = s.memWf := by simp [State.refuseWrite]

@[simp] theorem State.doorbell_memWf (s : State) (a : Agent) (v : W32) : (s.doorbell a v).memWf = s.memWf := by simp [State.doorbell]

@[simp] theorem State.zWrite_memWf (s : State) (addr : Nat) (v : W32) (hs : s.memWf = true) : (s.zWrite addr v).memWf = true := by
  unfold State.zWrite
  dsimp only
  split
  · split
    · exact hs
    · refine State.memWf_of_ite (by simp [hs]) (State.memWf_of_ite (by simp [hs]) ?_)
      split
      · split <;> simp [hs]
      · simp [hs]
  · exact hs

@[simp] theorem State.portWrite_memWf (s : State) (a : Agent) (addr : Nat) (v : W32) (hs : s.memWf = true) : (s.portWrite a addr v).memWf = true := by
  unfold State.portWrite
  dsimp only
  split
  · exact hs
  · split <;> simp [hs]
  · exact s.bootWrite_memWf _ v hs
  · exact s.bootWrite_memWf _ v hs
  · simp [hs]
  · simp [hs]

@[simp] theorem State.writeWord_memWf (s : State) (a : Agent) (addr : Nat) (v : W32) (hs : s.memWf = true) : (s.writeWord a addr v).memWf = true := by
  simp [State.writeWord, hs]

theorem execRegisterWrite_memWf (a : Agent) (addr : Nat) (v : W32) (s : State) (hs : s.memWf = true) :
    resMemWf (execRegisterWrite a addr v s) = true :=
  onUnit_resMemWf (by simp [hs])

theorem execLowWordWrite_memWf (a : Agent) (addr : Nat) (v : W32) (s : State) (hs : s.memWf = true) : resMemWf (execLowWordWrite a addr v s) = true :=
  onUnit_resMemWf (by simp [hs])

theorem execUpperWordWrite_memWf (a : Agent) (addr : Nat) (v : W32) (s : State) (hs : s.memWf = true) :
    resMemWf (execUpperWordWrite a addr v s) = true :=
  onUnit_resMemWf (by simp [hs])

/-! ### Snapshots -/

@[simp] theorem State.latchUnit_memWf (s : State) (u : SnapUnit) (t : Nat) (ecc : Bool) : (s.latchUnit u t ecc).memWf = s.memWf := by
  unfold State.latchUnit
  split <;> simp

theorem execFreezeLatch_memWf (u : SnapUnit) (ecc : Bool) (s : State) (hs : s.memWf = true) : resMemWf (execFreezeLatch u ecc s) = true :=
  onUnit_resMemWf (by split <;> simp [hs])

@[simp] theorem State.snapStart_memWf (s : State) (k : Cmd) : (s.snapStart k).memWf = s.memWf := by simp [State.snapStart]

theorem execSnapshot_memWf (m : Nat) (s : State) (hs : s.memWf = true) : resMemWf (execSnapshot m s) = true :=
  onUnit_resMemWf (s.plainCmd_memWf _ _ (fun k s h => by simp [h]) hs)

@[simp] theorem State.snapRecords_memWf (s : State) (p : Snap) : (s.snapRecords p).memWf = s.memWf := by simp [State.snapRecords]

@[simp] theorem State.snapNext_memWf (s : State) : s.snapNext.memWf = s.memWf := by
  unfold State.snapNext
  split <;> simp

theorem execSnapshotCollect_memWf (m : Nat) (s : State) (hs : s.memWf = true) : resMemWf (execSnapshotCollect m s) = true := by
  refine onUnit_resMemWf ?_
  split
  · exact hs
  · next p _ =>
    dsimp only
    refine State.memWf_of_ite hs ?_
    rw [State.snapNext_memWf, State.finishHeld_memWf, State.modChip_memWf]
    exact State.stage_memWf _ _ _ _ ((s.snapRecords_memWf p).trans hs)

theorem execBalanceCheck_memWf (m : Nat) (s : State) (hs : s.memWf = true) : resMemWf (execBalanceCheck m s) = true :=
  onUnit_resMemWf (s.plainCmd_memWf _ _ (fun k s h => by simp [h]) hs)

/-! ### Commanded fences and resets -/

@[simp] theorem State.commandFence_memWf (s : State) (c : Nat) (hs : s.memWf = true) : (s.commandFence c).memWf = true := by
  simp [State.commandFence, hs]

@[simp] theorem State.liftFence_memWf (s : State) (c : Nat) (hs : s.memWf = true) : (s.liftFence c).memWf = true := by
  unfold State.liftFence
  dsimp only
  have h (t : State) (ht : t.memWf = true) (l : List Nat) : (t.forEach l fun s p =>
      match neighbor c p, aget (s.rt c).sluices p with
      | some d, some x => if x.cell && !s.fencedCell d then s.liftLink c p else s
      | _, _ => s).memWf = true := (t.forEach_memWf fun s p => by split <;> simp).trans ht
  have hl := h (s.modCellRegs c fun r => r.set CELL_FAULT_fenced 0) ((s.modCellRegs_memWf ..).trans hs) (List.range 4)
  exact State.memWf_of_ite hs (State.memWf_of_ite ((State.modNi_memWf ..).trans hl) (State.leaveReset_memWf _ _ hl))

@[simp] theorem State.afterLift_memWf (s : State) (hs : s.memWf = true) : s.afterLift.memWf = true := by simp [State.afterLift, hs]

theorem State.fenceCmd_memWf (s : State) (m op : Nat) {body : Cmd → State → State} (hb : ∀ k s, s.memWf = true → (body k s).memWf = true)
    (hs : s.memWf = true) : (s.fenceCmd m op body).memWf = true :=
  s.mailboxCmd_memWf m _ _ _ hb hs

theorem execFenceCell_memWf (m : Nat) (s : State) (hs : s.memWf = true) : resMemWf (execFenceCell m s) = true :=
  onUnit_resMemWf (s.fenceCmd_memWf _ _ (fun k s h => by simp [h]) hs)

theorem execUnfenceCell_memWf (m : Nat) (s : State) (hs : s.memWf = true) : resMemWf (execUnfenceCell m s) = true :=
  onUnit_resMemWf (s.fenceCmd_memWf _ _ (fun k s h => by simp [h]) hs)

theorem execFenceBlock_memWf (m : Nat) (s : State) (hs : s.memWf = true) : resMemWf (execFenceBlock m s) = true :=
  onUnit_resMemWf (s.fenceCmd_memWf _ _ (fun k s h => by simp [h]) hs)

theorem execUnfenceBlock_memWf (m : Nat) (s : State) (hs : s.memWf = true) : resMemWf (execUnfenceBlock m s) = true := by
  refine onUnit_resMemWf (s.fenceCmd_memWf _ _ (fun k s h => ?_) hs)
  refine State.memWf_of_ite (by simp [h]) (State.memWf_of_ite (by simp [h]) ?_)
  refine (State.ok_memWf ..).trans (State.afterLift_memWf _ ?_)
  exact State.forEach_memWf_of _ (fun s c h => s.liftFence_memWf c h) ((s.modBlock_memWf ..).trans h)

theorem execRemap_memWf (m : Nat) (s : State) (hs : s.memWf = true) : resMemWf (execRemap m s) = true :=
  onUnit_resMemWf (s.plainCmd_memWf _ _ (fun k s h => by simp [h]) hs)

theorem execRouteExcept_memWf (m : Nat) (s : State) (hs : s.memWf = true) : resMemWf (execRouteExcept m s) = true :=
  onUnit_resMemWf (s.mailboxCmd_memWf _ _ _ _ (fun k s h => by simp [h]) hs)

theorem State.resetCmd_memWf (s : State) (m scope : Nat) (unitOk : Nat → Bool) (hs : s.memWf = true) : (s.resetCmd m scope unitOk).memWf = true :=
  s.mailboxCmd_memWf m _ _ _ (fun k s h => by simp [h]) hs

theorem execResetNi_memWf (m : Nat) (s : State) (hs : s.memWf = true) : resMemWf (execResetNi m s) = true :=
  onUnit_resMemWf (s.resetCmd_memWf m _ _ hs)

theorem execResetCell_memWf (m : Nat) (s : State) (hs : s.memWf = true) : resMemWf (execResetCell m s) = true :=
  onUnit_resMemWf (s.resetCmd_memWf m _ _ hs)

theorem execResetBlock_memWf (m : Nat) (s : State) (hs : s.memWf = true) : resMemWf (execResetBlock m s) = true :=
  onUnit_resMemWf (s.resetCmd_memWf m _ _ hs)

theorem execResetSoftRegion_memWf (m : Nat) (s : State) (hs : s.memWf = true) : resMemWf (execResetSoftRegion m s) = true :=
  onUnit_resMemWf (s.resetCmd_memWf m _ _ hs)

theorem execResetHardRegion_memWf (m : Nat) (s : State) (hs : s.memWf = true) : resMemWf (execResetHardRegion m s) = true :=
  onUnit_resMemWf (s.resetCmd_memWf m _ _ hs)

theorem execResetChip_memWf (m : Nat) (s : State) (hs : s.memWf = true) : resMemWf (execResetChip m s) = true :=
  onUnit_resMemWf (s.mailboxCmd_memWf _ _ _ _ (fun k s h => by simp [h]) hs)

@[simp] theorem State.settleRill_memWf (s : State) (c p : Nat) : (s.settleRill c p).memWf = s.memWf := by
  unfold State.settleRill
  split <;> simp

@[simp] theorem Cell.hardReset_cm (x : Cell) (ncyc : Nat) : (x.hardReset ncyc).cm = x.cm := by simp [Cell.hardReset]

@[simp] theorem State.isolateRegion_memWf (s : State) (r : Nat) : (s.isolateRegion r).memWf = s.memWf := by simp [State.isolateRegion]

theorem execHardResetIsolate_memWf (r : Nat) (s : State) (hs : s.memWf = true) : resMemWf (execHardResetIsolate r s) = true :=
  onUnit_resMemWf (by simp [hs])

@[simp] theorem State.endNi_memWf (s : State) (c : Nat) (hs : s.memWf = true) : (s.endNi c).memWf = true := by simp [State.endNi, hs]

@[simp] theorem State.endBlock_memWf (s : State) (b : Nat) (hs : s.memWf = true) : (s.endBlock b).memWf = true :=
  (State.modBlock_memWf ..).trans (s.forEach_memWf_of (fun s c h => s.endNi_memWf c h) hs)

@[simp] theorem State.beginReadmit_memWf (s : State) (r : Nat) : (s.beginReadmit r).memWf = s.memWf := by simp [State.beginReadmit]

theorem execResetEnded_memWf (scope u : Nat) (s : State) (hs : s.memWf = true) : resMemWf (execResetEnded scope u s) = true := by
  have hb (l : List Nat) : (s.forEach l fun s b => s.endBlock b).memWf = true := s.forEach_memWf_of (fun s b h => s.endBlock_memWf b h) hs
  refine onUnit_resMemWf ?_
  split
  · simp [hs]
  · simp [hs]
  · simp [hs]
  · dsimp only
    exact State.memWf_of_ite hs (by simp [hb])
  · simp [hs]

/-! ### Set-up -/

theorem execGetInfo_memWf (m : Nat) (s : State) (hs : s.memWf = true) : resMemWf (execGetInfo m s) = true :=
  onUnit_resMemWf (s.plainCmd_memWf _ _ (fun k s h => by simp [h]) hs)

@[simp] theorem State.readCistern_memWf (s : State) : s.readCistern.memWf = s.memWf := by simp [State.readCistern]

@[simp] theorem State.repairAll_memWf (s : State) (hs : s.memWf = true) : s.repairAll.1.memWf = true := by
  unfold State.repairAll
  refine State.foldl_fst_memWf_of (fun a e h => ?_) _ hs
  dsimp only
  exact a.1.repair_memWf _ _ h

@[simp] theorem State.openCistern_memWf (s : State) (day retention : Nat) (hs : s.memWf = true) : (s.openCistern day retention).1.memWf = true := by
  unfold State.openCistern
  dsimp only
  apply State.retentionPass_memWf
  apply State.cistWrite_memWf
  rw [State.modFtn_memWf _ (fun _ => by dsimp only) fun _ => by dsimp only]
  apply State.repairAll_memWf
  rw [State.readCistern_memWf, State.modFtn_memWf _ (fun _ => by dsimp only) fun _ => by dsimp only]
  exact hs

theorem execCisternOpen_memWf (m : Nat) (s : State) (hs : s.memWf = true) : resMemWf (execCisternOpen m s) = true :=
  onUnit_resMemWf (s.plainCmd_memWf _ _ (fun k s h => by simp [h]) hs)

@[simp] theorem State.unsaid_memWf (s old : State) : (s.unsaid old).memWf = s.memWf := by simp [State.unsaid]

@[simp] theorem State.loadDefects_memWf (s : State) (map : List Byte) : (s.loadDefects map).memWf = s.memWf := by simp [State.loadDefects]

theorem execDefectLoad_memWf (m : Nat) (s : State) (hs : s.memWf = true) : resMemWf (execDefectLoad m s) = true :=
  onUnit_resMemWf (s.mailboxCmd_memWf _ _ _ _ (fun k s h => by simp [h]) hs)

theorem execMapInstall_memWf (m : Nat) (s : State) (hs : s.memWf = true) : resMemWf (execMapInstall m s) = true :=
  onUnit_resMemWf (s.mailboxCmd_memWf _ _ _ _ (fun k s h => by simp [h]) hs)

@[simp] theorem State.epochZero_memWf (s : State) : s.epochZero.memWf = s.memWf := by
  unfold State.epochZero
  dsimp only
  refine (State.mapCells_memWf ?_).trans ((State.modChip_memWf ..).trans (State.memWf_of_ite (State.rewriteRill_memWf _) rfl))
  exact fun _ => rfl

theorem execRouteInit_memWf (m : Nat) (s : State) (hs : s.memWf = true) : resMemWf (execRouteInit m s) = true :=
  onUnit_resMemWf (s.plainCmd_memWf _ _ (fun k s h => by simp [h]) hs)

@[simp] theorem State.setClass_memWf (s : State) (p cls : Nat) : (s.setClass p cls).memWf = s.memWf := by simp [State.setClass]

@[simp] theorem State.setOwner_memWf (s : State) (cells : List Nat) (p : Nat) : (s.setOwner cells p).memWf = s.memWf := by simp [State.setOwner]

theorem execParterreSetCreate_memWf (m : Nat) (s : State) (hs : s.memWf = true) : resMemWf (execParterreSetCreate m s) = true :=
  onUnit_resMemWf (s.mailboxCmd_memWf _ _ _ _ (fun k s h => by
    dsimp only
    repeat' split
    all_goals simp [h]) hs)

theorem execParterreSetDestroy_memWf (m : Nat) (s : State) (hs : s.memWf = true) : resMemWf (execParterreSetDestroy m s) = true :=
  onUnit_resMemWf (s.mailboxCmd_memWf _ _ _ _ (fun k s h => by simp [h]) hs)

theorem execClassSet_memWf (m : Nat) (s : State) (hs : s.memWf = true) : resMemWf (execClassSet m s) = true :=
  onUnit_resMemWf (s.plainCmd_memWf _ _ (fun k s h => by simp [h]) hs)

@[simp] theorem State.putWindow_memWf (s : State) (u i flags : Nat) (w : Win) (tag : Nat) : (s.putWindow u i flags w tag).memWf = s.memWf := by
  unfold State.putWindow
  split <;> simp

theorem execWindowSet_memWf (m : Nat) (s : State) (hs : s.memWf = true) : resMemWf (execWindowSet m s) = true :=
  onUnit_resMemWf (s.plainCmd_memWf _ _ (fun k s h => by simp [h]) hs)

theorem execQueueSet_memWf (m : Nat) (s : State) (hs : s.memWf = true) : resMemWf (execQueueSet m s) = true :=
  onUnit_resMemWf (s.plainCmd_memWf _ _ (fun k s h => by simp [h]) hs)

@[simp] theorem State.regWrite_memWf (s : State) (sc : Scope) (u off : Nat) (row : RegRow) (v mask : W64) (hs : s.memWf = true) :
    (s.regWrite sc u off row v mask).memWf = true := by
  simp [State.regWrite, hs]

@[simp] theorem State.regSetRun_memWf (s : State) (k : Cmd) (crit : Bool) (hs : s.memWf = true) : (s.regSetRun k crit).memWf = true := by
  unfold State.regSetRun
  refine State.memWf_of_ite (by simp [hs]) ?_
  split
  · simp [hs]
  · split
    · refine State.memWf_of_ite (by simp [hs]) (State.memWf_of_ite (by simp [hs]) ?_)
      split
      · simp [hs]
      · exact (State.finish_memWf ..).trans (s.forEach_memWf_of (fun s u h => s.regWrite_memWf _ _ _ _ _ _ h) hs)
    · simp [hs]

theorem execRegSet_memWf (m : Nat) (s : State) (hs : s.memWf = true) : resMemWf (execRegSet m s) = true :=
  onUnit_resMemWf (s.plainCmd_memWf _ _ (fun k s h => by simp [h]) hs)

theorem execRegSetCrit_memWf (m : Nat) (s : State) (hs : s.memWf = true) : resMemWf (execRegSetCrit m s) = true :=
  onUnit_resMemWf (s.plainCmd_memWf _ _ (fun k s h => by simp [h]) hs)

/-! ### Crossings -/

theorem State.nextOf_memWf (s : State) {r : Res} (hs : s.memWf = true) (hr : resMemWf r = true) : (s.nextOf r).memWf = true := by
  cases r
  case next => exact hr
  all_goals exact hs

/-- An access that a crossing held keeps the memories canonical: it is one of the core-visible window or of a port. -/
theorem State.redoAccess_memWf (s : State) (i : Instr) (hs : s.memWf = true) : (s.redoAccess i).memWf = true := by
  refine s.nextOf_memWf hs ?_
  split
  · exact execCqMetaRead_memWf _ _ _ _ _ s hs
  · exact execCqPop_memWf _ _ _ s hs
  · exact execCqRingRel_memWf _ _ _ s hs
  · exact execCqSendGo_memWf _ _ _ _ _ s hs
  · exact execCqSyncLoad_memWf _ _ _ _ s hs
  · exact execCqSyncClose_memWf _ _ _ _ s hs
  · exact execCqSyncFlush_memWf _ _ _ _ s hs
  · exact execCqSyncBadOp_memWf _ _ _ _ s hs
  · exact execCqSyncResRead_memWf _ _ _ _ s hs
  · exact execCqDringPiWrite_memWf _ _ _ _ s hs
  · exact execCqMcRearm_memWf _ _ _ _ s hs
  · exact execCqRedRearm_memWf _ _ _ _ s hs
  · exact execCqRillGo_memWf _ _ _ _ s hs
  · exact execCqRillResRead_memWf _ _ _ _ _ s hs
  · exact execCqRillPop_memWf _ _ s hs
  · exact execCqBarArrive_memWf _ _ _ _ s hs
  · exact execCqBarWaitRead_memWf _ _ _ _ s hs
  · exact execRcFieldRead_memWf _ _ s hs
  · exact hs

@[simp] theorem State.redo_memWf (s : State) (x : Crossing) (hs : s.memWf = true) : (s.redo x).memWf = true := by
  unfold State.redo
  split
  · split
    · exact s.redoAccess_memWf _ hs
    · exact State.memWf_of_ite (State.redoAccess_memWf _ _ ((s.modNi_memWf ..).trans hs)) hs
  · split <;> simp [hs]

@[simp] theorem State.crossingsDone_memWf (s : State) (b : Nat) (hs : s.memWf = true) : (s.crossingsDone b).memWf = true :=
  State.memWf_of_ite hs (s.forEach_memWf_of (fun s _ h => State.redo_memWf _ _ ((s.modBlock_memWf ..).trans h)) hs)

theorem execDozeExitDone_memWf (b : Nat) (s : State) (hs : s.memWf = true) : resMemWf (execDozeExitDone b s) = true :=
  onUnit_resMemWf (State.memWf_of_ite (State.crossingsDone_memWf _ _ ((State.modBlockRegs_memWf ..).trans ((State.modBlock_memWf ..).trans hs))) hs)

theorem execRegionWakeDone_memWf (r : Nat) (s : State) (hs : s.memWf = true) : resMemWf (execRegionWakeDone r s) = true := by
  have hc (t : State) (l : List Nat) (ht : t.memWf = true) : (t.forEach l State.crossingsDone).memWf = true :=
    t.forEach_memWf_of (fun s b h => s.crossingsDone_memWf b h) ht
  refine onUnit_resMemWf (State.memWf_of_ite hs (State.memWf_of_ite (hc _ _ ?_) (State.memWf_of_ite ?_ (State.memWf_of_ite hs ?_)))) <;> simp [hs]

/-! ### The ncyc -/

@[simp] theorem State.cellTick_memWf (s : State) (c : Nat) : (s.cellTick c).memWf = s.memWf := by simp [State.cellTick]

@[simp] theorem State.gwTick_memWf (s : State) (g : Nat) : (s.gwTick g).memWf = s.memWf := by simp [State.gwTick]

@[simp] theorem State.linkTick_memWf (s : State) (n : Nat) : (s.linkTick n).memWf = s.memWf := by simp [State.linkTick]

@[simp] theorem State.copyTallies_memWf (s : State) : s.copyTallies.memWf = s.memWf := by
  simp only [State.memWf_eq, State.copyTallies, Table.all, List.all_map, Function.comp_def]

theorem State.mapGws_memWf {s : State} {f : Gateway → Gateway} (h : ∀ x, (f x).stack = x.stack) :
    ({ s with gws := s.gws.mapAll f } : State).memWf = s.memWf := by
  simp only [State.memWf_eq]
  rw [Table.all_mapAll (p := fun x : Gateway => Memory.wf x.stack) fun x => congrArg Memory.wf (h x)]

@[simp] theorem State.settleRegs_memWf (s : State) : s.settleRegs.memWf = s.memWf := by
  have h : s.settleRegs.memWf = (({ s with cells := s.cells.mapAll fun x => { x with regs := x.regs.settled } } : State)).memWf :=
    State.mapGws_memWf (s := { s with cells := s.cells.mapAll fun x => { x with regs := x.regs.settled } }) fun _ => rfl
  exact h.trans (State.mapCells_memWf fun _ => rfl)

@[simp] theorem State.checkSteps_memWf (s : State) : s.checkSteps.memWf = s.memWf := by simp [State.checkSteps]

@[simp] theorem State.advance_memWf (s : State) : s.advance.memWf = s.memWf := (State.applyStep_memWf _).trans rfl

@[simp] theorem State.endNcyc_memWf (s : State) (hs : s.memWf = true) : s.endNcyc.memWf = true := by
  unfold State.endNcyc
  dsimp only
  exact State.forEach_memWf_of _ (fun s b h => s.crossingsDone_memWf b h) (by simp [hs])

@[simp] theorem State.beginNcyc_memWf (s : State) (hs : s.memWf = true) : s.beginNcyc.memWf = true := by
  unfold State.beginNcyc
  dsimp only
  rw [State.forEach_memWf _ fun s n => s.linkPresent1_memWf n]
  exact State.forEach_memWf_of _ (fun s g h => s.gwPresent_memWf g h) (by simp [hs])

theorem State.tick_memWf (s : State) (hs : s.memWf = true) : s.tick.memWf = true := by
  simp [State.tick, hs]

/-! ## The step -/

/-- Every command keeps the memories canonical. -/
theorem exec_memWf (i : Instr) (s : State) (hs : s.memWf = true) : resMemWf (exec i s) = true :=
  match i with
  | .getInfo m => execGetInfo_memWf m s hs
  | .setIdentity m => execSetIdentity_memWf m s hs
  | .setTime m => execSetTime_memWf m s hs
  | .cisternOpen m => execCisternOpen_memWf m s hs
  | .defectLoad m => execDefectLoad_memWf m s hs
  | .mapInstall m => execMapInstall_memWf m s hs
  | .blockTest m => execBlockTest_memWf m s hs
  | .blockTestEnd bad => execBlockTestEnd_memWf bad s hs
  | .routeInit m => execRouteInit_memWf m s hs
  | .parterreSetCreate m => execParterreSetCreate_memWf m s hs
  | .parterreSetDestroy m => execParterreSetDestroy_memWf m s hs
  | .classSet m => execClassSet_memWf m s hs
  | .windowSet m => execWindowSet_memWf m s hs
  | .queueSet m => execQueueSet_memWf m s hs
  | .regSet m => execRegSet_memWf m s hs
  | .regSetCrit m => execRegSetCrit_memWf m s hs
  | .treeSetup m => execTreeSetup_memWf m s hs
  | .treeRetire m => execTreeRetire_memWf m s hs
  | .treeRetireClear => execTreeRetireClear_memWf s hs
  | .mcLandSet m => execMcLandSet_memWf m s hs
  | .redLandSet m => execRedLandSet_memWf m s hs
  | .redHoldRelease m => execRedHoldRelease_memWf m s hs
  | .redHoldDiscard m => execRedHoldDiscard_memWf m s hs
  | .fileOpen m => execFileOpen_memWf m s hs
  | .fileData m => execFileData_memWf m s hs
  | .fileCommit m => execFileCommit_memWf m s hs
  | .schedSwitch m => execSchedSwitch_memWf m s hs
  | .schedStop m => execSchedStop_memWf m s hs
  | .bankSwitch => execBankSwitch_memWf s hs
  | .sequenceStop => execSequenceStop_memWf s hs
  | .routeExcept m => execRouteExcept_memWf m s hs
  | .sluiceReopen m => execSluiceReopen_memWf m s hs
  | .fenceCell m => execFenceCell_memWf m s hs
  | .unfenceCell m => execUnfenceCell_memWf m s hs
  | .fenceBlock m => execFenceBlock_memWf m s hs
  | .unfenceBlock m => execUnfenceBlock_memWf m s hs
  | .remap m => execRemap_memWf m s hs
  | .resetNi m => execResetNi_memWf m s hs
  | .resetCell m => execResetCell_memWf m s hs
  | .resetBlock m => execResetBlock_memWf m s hs
  | .resetSoftRegion m => execResetSoftRegion_memWf m s hs
  | .resetHardRegion m => execResetHardRegion_memWf m s hs
  | .hardResetIsolate r => execHardResetIsolate_memWf r s hs
  | .resetChip m => execResetChip_memWf m s hs
  | .balanceCheck m => execBalanceCheck_memWf m s hs
  | .powerRegionSleep m => execPowerRegionSleep_memWf m s hs
  | .sleepClockStop r => execSleepClockStop_memWf r s hs
  | .powerRegionWake m => execPowerRegionWake_memWf m s hs
  | .regionWakeDone r => execRegionWakeDone_memWf r s hs
  | .powerBlockOff m => execPowerBlockOff_memWf m s hs
  | .offPowerRemove b => execOffPowerRemove_memWf b s hs
  | .powerBlockOn m => execPowerBlockOn_memWf m s hs
  | .blockPowerOnDone b => execBlockPowerOnDone_memWf b s hs
  | .linkSet m => execLinkSet_memWf m s hs
  | .linkSetRetrain n => execLinkSetRetrain_memWf n s hs
  | .linkSetDeepReq n => execLinkSetDeepReq_memWf n s hs
  | .linkSetDeepRelease n => execLinkSetDeepRelease_memWf n s hs
  | .linkQuiesce m => execLinkQuiesce_memWf m s hs
  | .quiesceStart n => execQuiesceStart_memWf n s hs
  | .quiesceDrained n => execQuiesceDrained_memWf n s hs
  | .snapshot m => execSnapshot_memWf m s hs
  | .snapshotCollect m => execSnapshotCollect_memWf m s hs
  | .mbxCmdWrite m k v => execMbxCmdWrite_memWf m k v s hs
  | .mbxDbRing m => execMbxDbRing_memWf m s hs
  | .mbxDbAck m => execMbxDbAck_memWf m s hs
  | .mbxEvtCiWrite v => execMbxEvtCiWrite_memWf v s hs
  | .mbxMevtCiWrite v => execMbxMevtCiWrite_memWf v s hs
  | .bootWindowWrite a off v => execBootWindowWrite_memWf a off v s hs
  | .mbxBootCtlStart => execMbxBootCtlStart_memWf s hs
  | .keyPortResponse data last => execKeyPortResponse_memWf data last s hs
  | .keyVerdictTimeout => execKeyVerdictTimeout_memWf s hs
  | .fountaineerWatchdogExpire => execFountaineerWatchdogExpire_memWf s hs
  | .porAssert => execPorAssert_memWf s hs
  | .porRelease => execPorRelease_memWf s hs
  | .hostPortReset => execHostPortReset_memWf s hs
  | .mgmtPortReset => execMgmtPortReset_memWf s hs
  | .registerWrite a addr v => execRegisterWrite_memWf a addr v s hs
  | .rcFieldRead a addr => execRcFieldRead_memWf a addr s hs
  | .lowWordRead a addr => execLowWordRead_memWf a addr s hs
  | .lowWordWrite a addr v => execLowWordWrite_memWf a addr v s hs
  | .upperWordWrite a addr v => execUpperWordWrite_memWf a addr v s hs
  | .niMapCtlInvalOne c lid => execNiMapCtlInvalOne_memWf c lid s hs
  | .niMapCtlInvalAll c => execNiMapCtlInvalAll_memWf c s hs
  | .mapCacheFill c lid => execMapCacheFill_memWf c lid s hs
  | .niLatCtlModeWrite c v => execNiLatCtlModeWrite_memWf c v s hs
  | .latencySampleTick c => execLatencySampleTick_memWf c s hs
  | .blkPwrCtlHoldRun b => execBlkPwrCtlHoldRun_memWf b s hs
  | .cqMetaRead c core q loc e => execCqMetaRead_memWf c core q loc e s hs
  | .cqMetaWaitLimit c core => execCqMetaWaitLimit_memWf c core s hs
  | .cqPop c core q => execCqPop_memWf c core q s hs
  | .cqRingRel c core q => execCqRingRel_memWf c core q s hs
  | .cqSendGo c core slot words v => execCqSendGo_memWf c core slot words v s hs
  | .cqSendGoResume c core => execCqSendGoResume_memWf c core s hs
  | .cqSyncLoad c core slot ch => execCqSyncLoad_memWf c core slot ch s hs
  | .cqSyncClose c core slot ch => execCqSyncClose_memWf c core slot ch s hs
  | .cqSyncFlush c core slot ch => execCqSyncFlush_memWf c core slot ch s hs
  | .cqSyncBadOp c core slot ch => execCqSyncBadOp_memWf c core slot ch s hs
  | .cqSyncResRead c core slot send => execCqSyncResRead_memWf c core slot send s hs
  | .channelCloseComplete c ch => execChannelCloseComplete_memWf c ch s hs
  | .channelFetchDone c ch err => execChannelFetchDone_memWf c ch err s hs
  | .channelCacheEccError c ch reorder => execChannelCacheEccError_memWf c ch reorder s hs
  | .cqDringPiWrite c core r a => execCqDringPiWrite_memWf c core r a s hs
  | .cqMcRearm c core ix a => execCqMcRearm_memWf c core ix a s hs
  | .cqRedRearm c core ix a => execCqRedRearm_memWf c core ix a s hs
  | .cqRillGo c core slot a => execCqRillGo_memWf c core slot a s hs
  | .cqRillResRead c core slot loc e => execCqRillResRead_memWf c core slot loc e s hs
  | .cqRillPop c core => execCqRillPop_memWf c core s hs
  | .cqBarArrive c core x v => execCqBarArrive_memWf c core x v s hs
  | .cqBarWaitRead c core x result => execCqBarWaitRead_memWf c core x result s hs
  | .vc3Grant b => execVc3Grant_memWf b s hs
  | .routerDecode c pl p es tab => execRouterDecode_memWf c pl p es tab s hs
  | .switchAssign c pl => execSwitchAssign_memWf c pl s hs
  | .niHeadInject c pl => execNiHeadInject_memWf c pl s hs
  | .patienceExpire c pl => execPatienceExpire_memWf c pl s hs
  | .answerQueueInject c => execAnswerQueueInject_memWf c s hs
  | .heldPacketAnswer c ch => execHeldPacketAnswer_memWf c ch s hs
  | .injectionSelect c pl => execInjectionSelect_memWf c pl s hs
  | .fountainDelivery c e => execFountainDelivery_memWf c e s hs
  | .fountainInject c e => execFountainInject_memWf c e s hs
  | .fountainPatienceExpire c => execFountainPatienceExpire_memWf c s hs
  | .msgEject c => execMsgEject_memWf c s hs
  | .msgHeadEject c => execMsgHeadEject_memWf c s hs
  | .msgBodyEject c => execMsgBodyEject_memWf c s hs
  | .gapTimeout c ch => execGapTimeout_memWf c ch s hs
  | .staleTailTimeout c q => execStaleTailTimeout_memWf c q s hs
  | .dispatchFifoIssue c => execDispatchFifoIssue_memWf c s hs
  | .ackEject c => execAckEject_memWf c s hs
  | .nackEject c => execNackEject_memWf c s hs
  | .retransmitTimeout c t e => execRetransmitTimeout_memWf c t e s hs
  | .abandonTimeout c t => execAbandonTimeout_memWf c t s hs
  | .tokenStateEccError c t => execTokenStateEccError_memWf c t s hs
  | .descriptorStart c r => execDescriptorStart_memWf c r s hs
  | .wrEject c => execWrEject_memWf c s hs
  | .trancheFlush c ix => execTrancheFlush_memWf c ix s hs
  | .trancheComplSend c => execTrancheComplSend_memWf c s hs
  | .rdReqEject c => execRdReqEject_memWf c s hs
  | .rdDataEject c => execRdDataEject_memWf c s hs
  | .complEject c => execComplEject_memWf c s hs
  | .trackerTimeout c ix => execTrackerTimeout_memWf c ix s hs
  | .quarantineExpire c => execQuarantineExpire_memWf c s hs
  | .gatewayWr g k => execGatewayWr_memWf g k s hs
  | .gatewayRdReq g k => execGatewayRdReq_memWf g k s hs
  | .stackReadResponse g tag err => execStackReadResponse_memWf g tag err s hs
  | .stackWriteResponse g tag err => execStackWriteResponse_memWf g tag err s hs
  | .gatewayPiPoll g st => execGatewayPiPoll_memWf g st s hs
  | .sidebandResponse j page err => execSidebandResponse_memWf j page err s hs
  | .clusterMemoryResponse c tag err => execClusterMemoryResponse_memWf c tag err s hs
  | .mcastEject c => execMcastEject_memWf c s hs
  | .redEject c bad => execRedEject_memWf c bad s hs
  | .rangeTimeout c j ix => execRangeTimeout_memWf c j ix s hs
  | .holdTimeout c j ix => execHoldTimeout_memWf c j ix s hs
  | .shutTimeout c j ix => execShutTimeout_memWf c j ix s hs
  | .redResultEject c => execRedResultEject_memWf c s hs
  | .combTestTick b => execCombTestTick_memWf b s hs
  | .combTestDigest c agree refW refE => execCombTestDigest_memWf c agree refW refE s hs
  | .combDupDigest c agree => execCombDupDigest_memWf c agree s hs
  | .combDupTimeout c => execCombDupTimeout_memWf c s hs
  | .telEject c => execTelEject_memWf c s hs
  | .mntEject c => execMntEject_memWf c s hs
  | .rinseOffer c pl => execRinseOffer_memWf c pl s hs
  | .rinseTimeout c pl => execRinseTimeout_memWf c pl s hs
  | .schedRouterArrival c es tab => execSchedRouterArrival_memWf c es tab s hs
  | .schedSlotSource c gw st => execSchedSlotSource_memWf c gw st s hs
  | .periodWake r => execPeriodWake_memWf r s hs
  | .periodArmReport r => execPeriodArmReport_memWf r s hs
  | .schedIngressDeliver n => execSchedIngressDeliver_memWf n s hs
  | .rillFlitDecode c p vc ea eb tab => execRillFlitDecode_memWf c p vc ea eb tab s hs
  | .gather c x => execGather_memWf c x s hs
  | .release c x => execRelease_memWf c x s hs
  | .releaseFlip c => execReleaseFlip_memWf c s hs
  | .releaseArm c => execReleaseArm_memWf c s hs
  | .contextTimeout x => execContextTimeout_memWf x s hs
  | .bcastTally c => execBcastTally_memWf c s hs
  | .bcastFreeze c => execBcastFreeze_memWf c s hs
  | .bcastFree c => execBcastFree_memWf c s hs
  | .tallyTick => execTallyTick_memWf s hs
  | .tallyLatch c => execTallyLatch_memWf c s hs
  | .tallyResult => execTallyResult_memWf s hs
  | .freezeLatch u ecc => execFreezeLatch_memWf u ecc s hs
  | .epochFlipStart => execEpochFlipStart_memWf s hs
  | .installDone => execInstallDone_memWf s hs
  | .wakeDoze b => execWakeDoze_memWf b s hs
  | .wakeSleep r => execWakeSleep_memWf r s hs
  | .dozeExitDone b => execDozeExitDone_memWf b s hs
  | .dozeIdleReached b => execDozeIdleReached_memWf b s hs
  | .dozeGate b => execDozeGate_memWf b s hs
  | .fault c => execFault_memWf c s hs
  | .resetFlit c => execResetFlit_memWf c s hs
  | .sluiceFlit c => execSluiceFlit_memWf c s hs
  | .cmsg c => execCmsg_memWf c s hs
  | .cnack c => execCnack_memWf c s hs
  | .rillSequenceIngress n => execRillSequenceIngress_memWf n s hs
  | .timeSync n => execTimeSync_memWf n s hs
  | .timeResp n => execTimeResp_memWf n s hs
  | .timeRespU n => execTimeRespU_memWf n s hs
  | .timeFollow n => execTimeFollow_memWf n s hs
  | .timeStep r => execTimeStep_memWf r s hs
  | .timeSlew r => execTimeSlew_memWf r s hs
  | .timeExchangeTick => execTimeExchangeTick_memWf s hs
  | .holdoverExpire => execHoldoverExpire_memWf s hs
  | .faultWindowRoll b => execFaultWindowRoll_memWf b s hs
  | .watchdogPoll region u answered => execWatchdogPoll_memWf region u answered s hs
  | .cisternDayTick => execCisternDayTick_memWf s hs
  | .pcSampleTick c => execPcSampleTick_memWf c s hs
  | .pcSampleAnswer c pc => execPcSampleAnswer_memWf c pc s hs
  | .pcSampleTimeout c => execPcSampleTimeout_memWf c s hs
  | .linkDetectPoll n => execLinkDetectPoll_memWf n s hs
  | .linkTerminationSeen n h clk lanes => execLinkTerminationSeen_memWf n h clk lanes s hs
  | .trainingMessage n msg => execTrainingMessage_memWf n msg s hs
  | .linkTrainDone n => execLinkTrainDone_memWf n s hs
  | .linkTrainTimeout n => execLinkTrainTimeout_memWf n s hs
  | .linkLockDone n rx => execLinkLockDone_memWf n rx s hs
  | .linkLockTimeout n h l => execLinkLockTimeout_memWf n h l s hs
  | .capSend n => execCapSend_memWf n s hs
  | .capFrame n cap => execCapFrame_memWf n cap s hs
  | .lnkCtlAdmit n => execLnkCtlAdmit_memWf n s hs
  | .frameReq n f => execFrameReq_memWf n f s hs
  | .frameRep n f => execFrameRep_memWf n f s hs
  | .frameSched n f => execFrameSched_memWf n f s hs
  | .frameRill n f => execFrameRill_memWf n f s hs
  | .frameIdle n f => execFrameIdle_memWf n f s hs
  | .frameNak n f => execFrameNak_memWf n f s hs
  | .frameCrcFail n rill => execFrameCrcFail_memWf n rill s hs
  | .frameQuiesceRequest n => execFrameQuiesceRequest_memWf n s hs
  | .frameQuiesceDone n => execFrameQuiesceDone_memWf n s hs
  | .frameDeepRequest n => execFrameDeepRequest_memWf n s hs
  | .frameDeepAccept n => execFrameDeepAccept_memWf n s hs
  | .frameDeepRefuse n => execFrameDeepRefuse_memWf n s hs
  | .deepDrained n => execDeepDrained_memWf n s hs
  | .deepRetry n => execDeepRetry_memWf n s hs
  | .wakeTone n => execWakeTone_memWf n s hs
  | .deepExitTimeout n => execDeepExitTimeout_memWf n s hs
  | .ackTimeout n rill => execAckTimeout_memWf n rill s hs
  | .rillCreditFrame n => execRillCreditFrame_memWf n s hs
  | .laneFail n h l lost hdrs => execLaneFail_memWf n h l lost hdrs s hs
  | .clockLoss n => execClockLoss_memWf n s hs
  | .downDetectReturn n => execDownDetectReturn_memWf n s hs
  | .frameBoundary n => execFrameBoundary_memWf n s hs
  | .prbsCheckerLock n h l rx => execPrbsCheckerLock_memWf n h l rx s hs
  | .prbsCheckerUnlock n h l errs => execPrbsCheckerUnlock_memWf n h l errs s hs
  | .peerEntersTrain n => execPeerEntersTrain_memWf n s hs
  | .clockLaneFail n h => execClockLaneFail_memWf n h s hs
  | .timeFollowTimeout n => execTimeFollowTimeout_memWf n s hs
  | .recordSendingNcyc region u => execRecordSendingNcyc_memWf region u s hs
  | .resetEnded scope u => execResetEnded_memWf scope u s hs
  | .chipResetAfterResponse => execChipResetAfterResponse_memWf s hs
  | .fountaineerMemoryUncorrectable => execFountaineerMemoryUncorrectable_memWf s hs

theorem State.setPending_memWf (s : State) (l : List Instr) : ({ s with pending := l } : State).memWf = s.memWf := rfl

/-- Settles O60, over the command at the front of the queue or, with none, the ncyc that passes. -/
theorem stepKeepsMemoriesCanonical : Obligations.StepKeepsMemoriesCanonical := by
  intro s t hs ht
  unfold step at ht
  split at ht
  · cases ht
    exact (State.keeping_memWf ..).trans (s.tick_memWf hs)
  · next c rest _ =>
    have h := exec_memWf c { s with pending := rest } ((s.setPending_memWf rest).trans hs)
    rw [ht] at h
    exact h

end Sys2Proof.Machine

/-! PROOFS. The channels and queues family: a core's accesses to its queues, rings and descriptors (R153, R156, R157, R171, R172). -/

namespace Sys2Proof.Machine

/-! ## Accesses of a core to its window (R156, R314, R403, R408, R497) -/

section coreAccess

variable {s : State} {c core : Nat}

/-- Every access of a core is served by way of its cell's crossing. -/
theorem exec_of_coreOf {i : Instr} (h : coreOf i = some (c, core)) (s : State) : ∃ f, exec i s = onUnit i.wf s (s.access c core i f) := by
  unfold coreOf at h
  split at h
  case h_10 a => cases h; cases a <;> exact ⟨_, rfl⟩
  case h_11 a => cases h; cases a <;> exact ⟨_, rfl⟩
  case h_12 a => cases h; cases a <;> exact ⟨_, rfl⟩
  case h_13 c core slot a =>
    cases h
    by_cases hs : slot = core
    · cases a <;> exact ⟨_, by simp only [exec, execCqRillGo, if_pos hs]; rfl⟩
    · exact ⟨_, by simp only [exec, execCqRillGo, if_neg hs]; rfl⟩
  all_goals cases h
  all_goals exact ⟨_, rfl⟩

theorem State.access_waits {i : Instr} {f : State → State} (h : ((s.ni c).core core).stall ≠ none) : s.access c core i f = s := by
  have hw : (s.ni c).coreWaits core = true := Option.isSome_iff_ne_none.mpr h
  simp [State.access, hw]

theorem State.access_hold {i : Instr} {f : State → State} (h : ((s.ni c).core core).stall = none) (hh : (s.ni c).hold ≠ .none) :
    s.access c core i f = s.respond c core 0 := by
  simp [State.access, Ni.coreWaits, h, hh]

theorem State.access_stopped {i : Instr} {f : State → State} (h : ((s.ni c).core core).stall = none) (hh : (s.ni c).hold = .none)
    (hp : (s.block (blockOf c)).power ≠ .run) : s.access c core i f =
      ((s.wakeBlock (blockOf c)).modNi c fun x => x.stallCore core .wakeUp s.ncyc).holdAt (blockOf c) (.command i) := by
  simp [State.access, Ni.coreWaits, h, hh, hp]

theorem State.access_free {i : Instr} {f : State → State} (h : s.coreFree c core) : s.access c core i f = f s := by
  obtain ⟨hh, hp, hs⟩ := h
  simp [State.access, Ni.coreWaits, hh, hp, hs]

theorem State.writeAccess_free {i : Instr} {f : State → State} (h : s.coreFree c core) : s.writeAccess c core i f = (f s).respond c core 0 :=
  State.access_free h

/-- An access of a core to a window location of an NI in service, in a block that runs, is served at once. -/
theorem completes_access {i : Instr} {f : State → State} {P : State → Prop} (he : exec i s = onUnit i.wf s (s.access c core i f))
    (hw : i.wf = true) (h : s.coreFree c core) (hP : P ((f s).keeping s)) : completes i s P :=
  completes_onUnit (he.trans (by rw [State.access_free h])) hw hP

/-- A write access of a core in such a place does what it writes, and is answered with 0. -/
theorem completes_write {i : Instr} {f : State → State} {t : State} {P : State → Prop}
    (he : exec i s = onUnit i.wf s (s.writeAccess c core i f)) (hw : i.wf = true) (h : s.coreFree c core) (ht : f s = t)
    (hP : P ((t.respond c core 0).keeping s)) : completes i s P :=
  completes_onUnit (he.trans (by rw [State.writeAccess_free h])) hw (ht ▸ hP)

@[simp] theorem State.cell_respond (s : State) (c core : Nat) (v : W64) (d : Nat) : (s.respond c core v).cell d = s.cell d := rfl

@[simp] theorem State.ni_respond (s : State) (c core : Nat) (v : W64) (d : Nat) : (s.respond c core v).ni d = s.ni d := rfl

@[simp] theorem Ni.core_modCore (x : Ni) (k : Nat) (f : CoreRt → CoreRt) : (x.modCore k f).core k = f (x.core k) := by
  simp [Ni.core, Ni.modCore]

@[simp] theorem Ni.core_stallCore (x : Ni) (k : Nat) (st : StallKind) (now : Nat) :
    (x.stallCore k st now).core k = { x.core k with stall := some (st, now) } := x.core_modCore ..

theorem aget_map_unstall (l : Assoc CoreRt) (core k : Nat) :
    aget (l.map fun e => if e.1 = core then (e.1, { e.2 with stall := none }) else e) k =
      (aget l k).map fun e => if k = core then { e with stall := none } else e := by
  induction l with
  | nil => rfl
  | cons e l ih =>
    obtain ⟨a, b⟩ := e
    by_cases ha : a = k
    · by_cases hk : a = core <;> simp [aget, ← ha, hk]
    · by_cases hk : a = core
      · subst hk
        simp [aget, ha, ih]
      · simp [aget, hk, ha, ih]

theorem Ni.core_unstall (x : Ni) (core : Nat) : (x.unstall core).core core = { x.core core with stall := none } := by
  unfold Ni.core Ni.unstall
  rw [aget_map_unstall]
  cases aget x.cores core with
  | none => rfl
  | some e => simp

theorem State.wakeBlock_out (s : State) (b : Nat) : (s.wakeBlock b).out = s.out := by
  have hr (r : Nat) : (s.wakeRegion r).out = s.out := by unfold State.wakeRegion; split <;> rfl
  unfold State.wakeBlock
  dsimp only
  split
  · exact hr _
  · split <;> exact hr _

theorem State.wakeBlock_crossing (s : State) (b : Nat) : ((s.wakeBlock b).block b).crossing = (s.block b).crossing := by
  unfold State.wakeBlock
  dsimp only
  split
  · simp
  · split <;> simp [State.modBlockRegs]

/-- An access that waits for the block at its crossing. -/
theorem State.access_stopped_crosses {i : Instr} {f : State → State} (h : ((s.ni c).core core).stall = none) (hh : (s.ni c).hold = .none)
    (hp : (s.block (blockOf c)).power ≠ .run) :
    let t := s.access c core i f
    t.out = s.out ∧ ((t.ni c).core core).stall = some (.wakeUp, s.ncyc) ∧
    (t.block (blockOf c)).crossing = (s.block (blockOf c)).crossing ++ [.command i] ∧ ∀ d, d ≠ c → t.cell d = s.cell d := by
  intro t
  have hw : s.Within ((s.modNi c fun x => x.stallCore core .wakeUp s.ncyc)) c := s.within_modCell c _
  have ht : t = _ := State.access_stopped h hh hp
  have hcell (d : Nat) : t.cell d = ((s.wakeBlock (blockOf c)).modNi c fun x => x.stallCore core .wakeUp s.ncyc).cell d := by rw [ht]; rfl
  refine ⟨?_, ?_, ?_, fun d hd => ?_⟩
  · rw [ht]
    exact s.wakeBlock_out _
  · rw [State.ni, hcell, ← State.ni, State.ni_modNi_same, Ni.core_stallCore]
  · rw [ht, State.holdAt, State.block_modBlock_same]
    exact congrArg (· ++ [Crossing.command i]) (s.wakeBlock_crossing _)
  · rw [hcell, State.modNi, State.cell_modCell, if_neg (Ne.symm hd)]
    exact State.cell_congr (s.wakeBlock_cells _) d

end coreAccess

/-! ## Queue reads, pops and releases (R153, R157) -/

section queues

variable {s : State} {c core q : Nat}

theorem State.headError_single {e : QEntry} {r : List QEntry} (h : ((s.ni c).queue q).ents = e :: r) :
    s.headError c q .single = s.bump c NI_MSG_STAT_q_corr := by
  simp [State.headError, h]

theorem State.headError_none (s : State) (c q : Nat) : s.headError c q .none = s := by
  unfold State.headError
  split <;> rfl

theorem State.headError_nil (h : ((s.ni c).queue q).ents = []) (e : Ecc) : s.headError c q e = s := by
  simp [State.headError, h]

/-- The queue read of the head with a corrected error counts it and leaves the NI (R154, R299). -/
theorem State.queueRead_single {e : QEntry} {r : List QEntry} {loc : QueueLoc} (h : ((s.ni c).queue q).ents = e :: r) (hl : loc ≠ .status) :
    ∃ v, s.queueRead c core q loc .single = (s.bump c NI_MSG_STAT_q_corr).respond c core v := by
  cases loc
  case status => exact absurd rfl hl
  all_goals exact ⟨_, by simp only [State.queueRead, State.headError_single h, h]; rfl⟩

/-- The read of CQ_META returns the head's metadata, or zero from a queue that is disabled (R157). -/
theorem State.queueRead_meta (h : ((s.ni c).queue q).ents ≠ [] ∨ s.cget c (NI_Q_CFG_q_max.at q) = 0) :
    s.queueRead c core q .metaWord .none = s.respond c core (((s.ni c).queue q).headMeta q) := by
  rcases h with h | h <;> simp [State.queueRead, State.headError_none, h]

theorem State.queueRead_stalls (h : ((s.ni c).queue q).ents = []) (hx : s.cget c (NI_Q_CFG_q_max.at q) ≠ 0) {e : Ecc} :
    s.queueRead c core q .metaWord e = s.modNi c fun x => x.stallCore core (.meta_ q) s.ncyc := by
  simp [State.queueRead, h, hx]

@[simp] theorem Ni.queue_modQueue (x : Ni) (q : Nat) (f : Queue → Queue) : (x.modQueue q f).queue q = f (x.queue q) := by
  simp [Ni.queue, Ni.modQueue]

theorem Ni.queue_modQueue_ne (x : Ni) {q j : Nat} (f : Queue → Queue) (h : j ≠ q) : (x.modQueue q f).queue j = x.queue j := by
  simp [Ni.queue, Ni.modQueue, aget_aput_ne _ _ (Ne.symm h)]

@[simp] theorem Ni.ring_modRing (x : Ni) (r : Nat) (f : RingRt → RingRt) : (x.modRing r f).ring r = f (x.ring r) := by
  simp [Ni.ring, Ni.modRing]

theorem Ni.ring_modRing_ne (x : Ni) {r j : Nat} (f : RingRt → RingRt) (h : j ≠ r) : (x.modRing r f).ring j = x.ring j := by
  simp [Ni.ring, Ni.modRing, aget_aput_ne _ _ (Ne.symm h)]

theorem Regs.get_delayHw (r : Regs) {q : Nat} (wait : Nat) {f : Field} (h : f.off < 0x4800) : (r.delayHw q wait).get f = r.get f := by
  unfold Regs.delayHw
  split
  · refine Regs.get_set_ne _ _ _ _ (show NI_QLAT_H_delay_hw.fits by decide) (.inl ?_)
    simp only [Field.at, NI_QLAT_H_delay_hw]
    omega
  · rfl

/-- A pop of a queue with a head retires it and counts the return (R157, R159, R330). -/
theorem State.pop_cons {e : QEntry} {r : List QEntry} (h : ((s.ni c).queue q).ents = e :: r) :
    (((s.pop c q).ni c).queue q).ents = r ∧ (((s.pop c q).ni c).queue q).stale = false ∧
    (∀ j, j ≠ q → ((s.pop c q).ni c).queue j = (s.ni c).queue j) ∧
    (s.pop c q).cget c NI_BAL_QUE2_return_total = (s.cget c NI_BAL_QUE2_return_total + 1) % 2 ^ NI_BAL_QUE2_return_total.len ∧
    (s.pop c q).out = s.out ∧ s.onlyCell (s.pop c q) c := by
  simp only [State.pop, h]
  refine ⟨?_, ?_, fun j hj => ?_, ?_, rfl, ((s.within_modCell c _).trans (State.within_modCell _ c _)).only⟩
  · simp
  · simp
  · simp [Ni.queue_modQueue_ne _ _ hj]
  · simp [State.cget, State.modCellRegs, State.modNi, Regs.get_delayHw _ _ (show NI_BAL_QUE2_return_total.off < 0x4800 by decide), Regs.addWrap,
      Regs.get_set_same _ _ _ (show NI_BAL_QUE2_return_total.fits by decide)]

/-- A release of a ring whose oldest placement has a valid header frees it (R153). -/
theorem State.ringRelease_good {z : Nat} (hu : ((s.ni c).queue q).u ≠ 0) (hf : ((s.ni c).queue q).ringFault = false)
    (hz : ringHdr (mreadLE (s.cell c).cm ((s.cell c).regs.ringBase q + ((s.ni c).queue q).c) 8) ((s.cell c).regs.ringSize q) ((s.ni c).queue q).c
        ((s.ni c).queue q).u = some (0, z)) :
    s.ringRelease c q = s.modNi c fun x => x.modQueue q fun k =>
      { k with c := (((s.ni c).queue q).c + z) % (s.cell c).regs.ringSize q, u := ((s.ni c).queue q).u - z } := by
  simp [State.ringRelease, hu, hf, hz]

end queues

/-! ## Producer indices (R171, R172) -/

section rings

variable {s : State} {c core r : Nat}

/-- The read of the next descriptor leaves the indices of every ring, and whatever it does not read (R172). -/
theorem Ni.readDesc_ring (x : Ni) (r j : Nat) :
    ((x.readDesc r).ring j).pi = (x.ring j).pi ∧ ((x.readDesc r).ring j).ci = (x.ring j).ci ∧ (j ≠ r → (x.readDesc r).ring j = x.ring j) := by
  simp only [Ni.readDesc]
  split
  · by_cases hj : j = r
    · subst hj
      have h : ((x.modRing j fun k => { k with fetching := true }).request false (.descriptor j)).ring j = { x.ring j with fetching := true } :=
        x.ring_modRing j fun k => { k with fetching := true }
      rw [h]
      exact ⟨rfl, rfl, fun hn => absurd rfl hn⟩
    · have h : ((x.modRing r fun k => { k with fetching := true }).request false (.descriptor r)).ring j = x.ring j :=
        x.ring_modRing_ne (fun k => { k with fetching := true }) hj
      rw [h]
      exact ⟨rfl, rfl, fun _ => rfl⟩
  · exact ⟨rfl, rfl, fun _ => rfl⟩

/-- A producer index that the ring can hold is taken (R172). -/
theorem State.writePi_taken {v : W64} (he : s.cellFlag c (NI_DRING_enable.at r) = true)
    (hv : ((v.setWidth 16 : BitVec 16) - ((s.ni c).ring r).ci).toNat ≤ 2 ^ s.cget c (NI_DRING_size_log2.at r)) :
    let t := s.writePi c r v
    t.out = s.out ∧ ((t.ni c).ring r).pi = v.setWidth 16 ∧ ((t.ni c).ring r).ci = ((s.ni c).ring r).ci ∧
    (∀ j, j ≠ r → (t.ni c).ring j = (s.ni c).ring j) ∧ s.onlyCell t c := by
  intro t
  have ht : t = s.modNi c fun x => (x.modRing r fun k => { k with pi := v.setWidth 16, posts := k.posts ++ [(v.setWidth 16, s.ncyc)] }).readDesc r := by
    simp only [t, State.writePi, he, Bool.not_true, Bool.false_or, decide_eq_true_eq, if_neg (Nat.not_lt.mpr hv)]
  rw [ht]
  refine ⟨rfl, ?_, ?_, fun j hj => ?_, (s.within_modCell c _).only⟩
  · rw [State.ni_modNi_same, (Ni.readDesc_ring _ r r).1, Ni.ring_modRing]
  · rw [State.ni_modNi_same, (Ni.readDesc_ring _ r r).2.1, Ni.ring_modRing]
  · rw [State.ni_modNi_same, (Ni.readDesc_ring _ r j).2.2 hj, Ni.ring_modRing_ne _ _ hj]

/-- A producer index of a ring that is off is refused and counted (R172, R193). -/
theorem State.writePi_off {v : W64} (he : s.cellFlag c (NI_DRING_enable.at r) = false) : s.writePi c r v = s.bump c NI_BULK_STAT_pi_refused := by
  simp [State.writePi, he]

end rings

theorem State.counted_bump (s : State) (c : Nat) (f : Field) (hf : f.fits) : (s.cell c).regs.counted ((s.bump c f).cell c).regs f := by
  rw [Regs.counted, State.regs_bump, Regs.get_bump_same _ _ hf]

theorem coreQueueAccess_unserved {s : State} {c core : Nat} {i : Instr} (hi : coreOf i = some (c, core)) (hw : i.wf = true) :
    (((s.ni c).core core).stall ≠ none → completes i s fun t => t.out = s.out ∧ s.sameUnits t) ∧
    (((s.ni c).core core).stall = none → (s.ni c).hold ≠ .none → completes i s fun t => s.answered t c core 0 ∧ s.sameUnits t) ∧
    (((s.ni c).core core).stall = none → (s.ni c).hold = .none → (s.block (blockOf c)).power ≠ .run → completes i s fun t =>
      t.out = s.out ∧ ((t.ni c).core core).stall = some (.wakeUp, s.ncyc) ∧
      (t.block (blockOf c)).crossing = (s.block (blockOf c)).crossing ++ [.command i] ∧ (∀ d, d ≠ c → t.cell d = s.cell d)) := by
  obtain ⟨f, he⟩ := exec_of_coreOf hi s
  refine ⟨fun h => ?_, fun h hh => ?_, fun h hh hp => ?_⟩
  · rw [State.access_waits h] at he
    exact completes_onUnit he hw ⟨rfl, rfl, rfl, rfl, rfl, rfl⟩
  · rw [State.access_hold h hh] at he
    exact completes_onUnit he hw ⟨rfl, rfl, rfl, rfl, rfl, rfl⟩
  · exact completes_onUnit he hw (State.access_stopped_crosses h hh hp)

/-- Settles O40, one access after the other. -/
theorem coreQueueAccess : Obligations.CoreQueueAccess := by
  intro s c core q hc hk hq
  have hm (loc : QueueLoc) (e : Ecc) (hl : loc.wf = true) : (Instr.cqMetaRead c core q loc e).wf = true := by simp [Instr.wf, hc, hk, hq, hl]
  refine ⟨fun i => coreQueueAccess_unserved, fun hf he => ⟨?_, fun loc hl hn => ?_⟩, fun hf he hx e => ?_, fun hf => ⟨fun n hn => ?_, ?_, ?_⟩,
    fun t0 hst hl ht => ?_, fun e r hf he => ?_, fun z hf hu hrf hz => ?_, fun r v hr hf => ⟨fun he hv => ?_, fun he => ?_, ?_⟩⟩
  · refine completes_access rfl (hm _ _ rfl) hf ?_
    rw [State.queueRead_meta (.inl he)]
    exact ⟨rfl, fun d => rfl⟩
  · obtain ⟨e, r, hr⟩ := List.exists_cons_of_ne_nil he
    obtain ⟨v, hv⟩ := State.queueRead_single (core := core) hr hn
    refine completes_access rfl (hm loc _ hl) hf ?_
    rw [hv]
    exact ⟨s.counted_bump c _ (by decide), s.ni_bump c c _, (s.within_modCell c _).only⟩
  · refine completes_access rfl (hm _ _ rfl) hf ?_
    rw [State.queueRead_stalls he hx]
    refine ⟨rfl, ?_, ?_, (s.within_modCell c _).only⟩
    · rw [State.keeping_ni, State.ni_modNi_same, Ni.core_stallCore]
    · rw [State.keeping_ni, State.ni_modNi_same]
      rfl
  · refine completes_access rfl (hm _ _ (decide_eq_true hn)) hf ?_
    rw [State.queueRead, State.headError_none]
    exact ⟨rfl, fun d => rfl⟩
  · refine completes_access rfl (hm _ _ rfl) hf ?_
    rw [State.queueRead, State.headError_none]
    exact ⟨rfl, fun d => rfl⟩
  · exact completes_access rfl (hm _ _ rfl) hf ⟨rfl, fun d => rfl⟩
  · refine completes_onUnit (t := (s.modNi c fun x => x.unstall core).respond c core 0) ?_ (by simp [Instr.wf, hc, hk]) ?_
    · simp [exec, execCqMetaWaitLimit, hst, hl, Nat.not_lt.mpr ht]
    · refine ⟨rfl, ?_, ?_, (s.within_modCell c _).only⟩
      · rw [State.keeping_ni, State.ni_respond, State.ni_modNi_same, Ni.core_unstall]
      · rw [State.keeping_ni, State.ni_respond, State.ni_modNi_same, Ni.unstall]
  · obtain ⟨hents, hstale, hother, htotal, hout, honly⟩ := State.pop_cons he
    refine completes_write rfl (by simp [Instr.wf, hc, hk, hq]) hf rfl ⟨?_, hents, hstale, hother, htotal, honly⟩
    exact congrArg (· ++ [Out.coreRsp c core 0]) hout
  · refine completes_write rfl (by simp [Instr.wf, hc, hk, hq]) hf (State.ringRelease_good hu hrf hz) ⟨rfl, ?_, ?_, ?_, (s.within_modCell c _).only⟩
    · rw [State.keeping_ni, State.ni_respond, State.ni_modNi_same, Ni.queue_modQueue]
    · rw [State.keeping_ni, State.ni_respond, State.ni_modNi_same, Ni.queue_modQueue]
    · rw [State.keeping_cell, State.cell_respond, State.modNi, State.cell_modCell_same]
  · obtain ⟨hout, hpi, hci, hother, honly⟩ := State.writePi_taken he hv
    refine completes_write rfl (by simp [Instr.wf, hc, hk, hr]) hf rfl ⟨?_, hpi, hci, hother, honly⟩
    exact congrArg (· ++ [Out.coreRsp c core 0]) hout
  · exact completes_write rfl (by simp [Instr.wf, hc, hk, hr]) hf (State.writePi_off he)
      ⟨rfl, s.ni_bump c c _, s.counted_bump c _ (by decide), (s.within_modCell c _).only⟩
  · exact completes_access rfl (by simp [Instr.wf, hc, hk, hr]) hf ⟨rfl, fun d => rfl⟩

end Sys2Proof.Machine

/-! PROOFS. The channels and queues family: what the bookkeeping of queues, descriptors and tokens leaves as it was, said once for the proofs below. -/

namespace Sys2Proof.Machine

/-! ## A change of one cached channel (R136) -/

theorem Ni.aget_modChan (x : Ni) (ch : Nat) (f : Chan → Chan) (j : Nat) :
    aget (x.modChan ch f).chans j = if ch = j then (aget x.chans j).map f else aget x.chans j := by
  unfold Ni.modChan
  split
  next k h =>
    rw [aget_aput]
    by_cases hj : ch = j
    · simp [← hj, h]
    · simp [hj]
  next h =>
    by_cases hj : ch = j
    · simp [← hj, h]
    · simp [hj]

theorem Ni.aget_modChan_same {x : Ni} {ch : Nat} {k : Chan} (h : aget x.chans ch = some k) (f : Chan → Chan) :
    aget (x.modChan ch f).chans ch = some (f k) := by
  rw [Ni.aget_modChan, if_pos rfl, h, Option.map_some]

/-- A change of a channel changes the channels alone. -/
theorem Ni.modChan_eq (x : Ni) (ch : Nat) (f : Chan → Chan) : x.modChan ch f = { x with chans := (x.modChan ch f).chans } := by
  unfold Ni.modChan
  split <;> rfl

@[simp] theorem Ni.modChan_tokens (x : Ni) (ch : Nat) (f : Chan → Chan) : (x.modChan ch f).tokens = x.tokens := by rw [Ni.modChan_eq]
@[simp] theorem Ni.modChan_cores (x : Ni) (ch : Nat) (f : Chan → Chan) : (x.modChan ch f).cores = x.cores := by rw [Ni.modChan_eq]
@[simp] theorem Ni.modChan_queues (x : Ni) (ch : Nat) (f : Chan → Chan) : (x.modChan ch f).queues = x.queues := by rw [Ni.modChan_eq]
@[simp] theorem Ni.modChan_fetches (x : Ni) (ch : Nat) (f : Chan → Chan) : (x.modChan ch f).fetches = x.fetches := by rw [Ni.modChan_eq]
@[simp] theorem Ni.modChan_loaded (x : Ni) (ch : Nat) (f : Chan → Chan) : (x.modChan ch f).loaded = x.loaded := by rw [Ni.modChan_eq]
@[simp] theorem Ni.modChan_faulted (x : Ni) (ch : Nat) (f : Chan → Chan) : (x.modChan ch f).faulted = x.faulted := by rw [Ni.modChan_eq]

/-! ## A core's locations and the rest of its NI -/

@[simp] theorem Ni.modCore_chans (x : Ni) (k : Nat) (f : CoreRt → CoreRt) : (x.modCore k f).chans = x.chans := rfl
@[simp] theorem Ni.modCore_fetches (x : Ni) (k : Nat) (f : CoreRt → CoreRt) : (x.modCore k f).fetches = x.fetches := rfl
@[simp] theorem Ni.modCore_loaded (x : Ni) (k : Nat) (f : CoreRt → CoreRt) : (x.modCore k f).loaded = x.loaded := rfl
@[simp] theorem Ni.modCore_faulted (x : Ni) (k : Nat) (f : CoreRt → CoreRt) : (x.modCore k f).faulted = x.faulted := rfl
@[simp] theorem Ni.modCore_tokens (x : Ni) (k : Nat) (f : CoreRt → CoreRt) : (x.modCore k f).tokens = x.tokens := rfl
@[simp] theorem Ni.modCore_queues (x : Ni) (k : Nat) (f : CoreRt → CoreRt) : (x.modCore k f).queues = x.queues := rfl
@[simp] theorem Ni.unstall_chans (x : Ni) (k : Nat) : (x.unstall k).chans = x.chans := rfl
@[simp] theorem Ni.unstall_fetches (x : Ni) (k : Nat) : (x.unstall k).fetches = x.fetches := rfl
@[simp] theorem Ni.unstall_loaded (x : Ni) (k : Nat) : (x.unstall k).loaded = x.loaded := rfl
@[simp] theorem Ni.unstall_faulted (x : Ni) (k : Nat) : (x.unstall k).faulted = x.faulted := rfl
@[simp] theorem Ni.unstall_tokens (x : Ni) (k : Nat) : (x.unstall k).tokens = x.tokens := rfl
@[simp] theorem Ni.unstall_queues (x : Ni) (k : Nat) : (x.unstall k).queues = x.queues := rfl

@[simp] theorem State.ni_emit (s : State) (o : Out) (d : Nat) : (s.emit o).ni d = s.ni d := rfl

@[simp] theorem State.cm_modNi (s : State) (c : Nat) (f : Ni → Ni) (d : Nat) : ((s.modNi c f).cell d).cm = (s.cell d).cm := by
  by_cases h : c = d <;> simp [State.modNi, State.cell_modCell, h]

theorem State.within_modNi (s : State) (c : Nat) (f : Ni → Ni) : s.Within (s.modNi c f) c := s.within_modCell c _

theorem State.within_respond (s : State) (c core : Nat) (v : W64) : s.Within (s.respond c core v) c :=
  ⟨rfl, rfl, fun _ _ => rfl, rfl, rfl, rfl, rfl⟩

/-! ## Queue entries and descriptors: what their bookkeeping leaves (R154 to R159, R180, R181) -/

/-- y is x but for its queues, descriptors, tokens and strobes: the channels, their fetches and the cores' locations are x's, stalled accesses
aside. -/
structure Ni.Steady (x y : Ni) : Prop where
  chans : y.chans = x.chans
  fetches : y.fetches = x.fetches
  loaded : y.loaded = x.loaded
  faulted : y.faulted = x.faulted
  cores : ∀ k, ∃ st, y.core k = { x.core k with stall := st }

/-- t is s but for what cell c holds, and of that the channels, their fetches and the cores' locations are s's, stalled accesses aside. -/
structure State.Steady (s t : State) (c : Nat) : Prop extends s.Within t c where
  ni : (s.ni c).Steady (t.ni c)

/-- t is s but for the queues of cell c, its counts and what they signal: the tokens and the answers are s's too. -/
structure State.Recorded (s t : State) (c : Nat) : Prop extends s.Steady t c where
  tokens : (t.ni c).tokens = (s.ni c).tokens
  rt : t.rt c = s.rt c
  cm : (t.cell c).cm = (s.cell c).cm

theorem Ni.Steady.of_cores {x y : Ni} (hc : y.chans = x.chans) (hf : y.fetches = x.fetches) (hl : y.loaded = x.loaded) (hx : y.faulted = x.faulted)
    (hk : y.cores = x.cores) : x.Steady y :=
  ⟨hc, hf, hl, hx, fun k => ⟨(x.core k).stall, by rw [Ni.core, hk, ← Ni.core]⟩⟩

theorem Ni.Steady.refl (x : Ni) : x.Steady x := .of_cores rfl rfl rfl rfl rfl

theorem Ni.Steady.trans {x y z : Ni} (h : x.Steady y) (k : y.Steady z) : x.Steady z where
  chans := k.chans.trans h.chans
  fetches := k.fetches.trans h.fetches
  loaded := k.loaded.trans h.loaded
  faulted := k.faulted.trans h.faulted
  cores j := by
    obtain ⟨a, ha⟩ := h.cores j
    obtain ⟨b, hb⟩ := k.cores j
    exact ⟨b, by rw [hb, ha]⟩

theorem Ni.steady_unstall (x : Ni) (core : Nat) : x.Steady (x.unstall core) where
  chans := rfl
  fetches := rfl
  loaded := rfl
  faulted := rfl
  cores k := by
    unfold Ni.core Ni.unstall
    rw [aget_map_unstall]
    cases aget x.cores k with
    | none => exact ⟨none, rfl⟩
    | some e =>
      by_cases h : k = core
      · exact ⟨none, by simp [h]⟩
      · exact ⟨e.stall, by simp [h]⟩

namespace State.Steady

variable {s t u : State} {c : Nat}

theorem refl (s : State) (c : Nat) : s.Steady s c := ⟨.refl s c, .refl _⟩

theorem trans (h : s.Steady t c) (k : t.Steady u c) : s.Steady u c := ⟨h.toWithin.trans k.toWithin, h.ni.trans k.ni⟩

end State.Steady

namespace State.Recorded

variable {s t u : State} {c : Nat}

theorem refl (s : State) (c : Nat) : s.Recorded s c := ⟨.refl s c, rfl, rfl, rfl⟩

theorem trans (h : s.Recorded t c) (k : t.Recorded u c) : s.Recorded u c :=
  ⟨h.toSteady.trans k.toSteady, k.tokens.trans h.tokens, k.rt.trans h.rt, k.cm.trans h.cm⟩

end State.Recorded

section steady

variable (s : State) (c : Nat)

theorem State.steady_modCell {f : Cell → Cell} (h : (s.ni c).Steady (f (s.cell c)).ni) : s.Steady (s.modCell c f) c :=
  ⟨s.within_modCell c f, by rwa [State.ni, State.ni, State.cell_modCell_same]⟩

theorem State.steady_modNi {f : Ni → Ni} (h : (s.ni c).Steady (f (s.ni c))) : s.Steady (s.modNi c f) c := s.steady_modCell c h

theorem State.recorded_modNi {f : Ni → Ni} (h : (s.ni c).Steady (f (s.ni c))) (ht : (f (s.ni c)).tokens = (s.ni c).tokens) :
    s.Recorded (s.modNi c f) c :=
  ⟨s.steady_modNi c h, by rw [State.ni_modNi_same, ht], s.rt_modNi c c f, by rw [State.modNi, State.cell_modCell_same]⟩

theorem State.recorded_modQueue (q : Nat) (f : Queue → Queue) : s.Recorded (s.modNi c fun x => x.modQueue q f) c :=
  s.recorded_modNi c (.of_cores rfl rfl rfl rfl rfl) rfl

theorem State.recorded_modCellRegs (f : Regs → Regs) : s.Recorded (s.modCellRegs c f) c :=
  ⟨⟨s.within_modCell c _, by rw [State.ni_modCellRegs]; exact .refl _⟩, by rw [State.ni_modCellRegs], s.rt_modCellRegs c c f,
    by rw [State.modCellRegs, State.cell_modCell_same]⟩

theorem State.recorded_bump (f : Field) : s.Recorded (s.bump c f) c := s.recorded_modCellRegs c _

theorem State.recorded_emit (o : Out) : s.Recorded (s.emit o) c :=
  ⟨⟨⟨rfl, rfl, fun _ _ => rfl, rfl, rfl, rfl, rfl⟩, .refl _⟩, rfl, rfl, rfl⟩

theorem State.Recorded.forEach {α : Type} {f : State → α → State} (h : ∀ (s : State) a, s.Recorded (f s a) c) (l : List α) (s : State) :
    s.Recorded (s.forEach l f) c := by
  induction l generalizing s with
  | nil => exact .refl s c
  | cons a l ih => exact (h s a).trans (ih (f s a))

theorem State.Steady.forEach {α : Type} {f : State → α → State} (h : ∀ (s : State) a, s.Steady (f s a) c) (l : List α) (s : State) :
    s.Steady (s.forEach l f) c := by
  induction l generalizing s with
  | nil => exact .refl s c
  | cons a l ih => exact (h s a).trans (ih (f s a))

/-! ### Entries of queues -/

theorem State.recorded_releaseMeta (q : Nat) : s.Recorded (s.releaseMeta c q) c := by
  unfold State.releaseMeta
  exact State.Recorded.forEach c (fun s e => (s.recorded_emit c _).trans (State.recorded_modNi _ c (Ni.steady_unstall _ e.1) rfl)) _ s

theorem State.recorded_dispatch (h : BitVec 12) (q : Nat) : s.Recorded (s.dispatch c h q) c := by
  simp only [State.dispatch]
  split
  · exact (s.recorded_emit c _).trans (State.recorded_modNi _ c (.of_cores rfl rfl rfl rfl rfl) rfl)
  · split
    · exact s.recorded_modNi c (.of_cores rfl rfl rfl rfl rfl) rfl
    · exact s.recorded_bump c _

theorem State.recorded_visible (q : Nat) (e : QEntry) : s.Recorded (s.visible c q e) c := by
  unfold State.visible
  extract_lets st t u v
  have ht : s.Recorded t c := s.recorded_modQueue c q _
  have hu : t.Recorded u c := t.recorded_modCellRegs c _
  have hv := (ht.trans hu).trans (u.recorded_releaseMeta c q)
  clear_value t u
  split
  · exact hv.trans (State.recorded_dispatch _ c _ q)
  · exact hv

theorem State.recorded_pushEntry (q : Nat) (e : QEntry) : s.Recorded (s.pushEntry c q e) c :=
  (s.recorded_modCellRegs c _).trans (State.recorded_visible _ c q e)

theorem State.recorded_pushReserved (q : Nat) (e : QEntry) : s.Recorded (s.pushReserved c q e) c :=
  (s.recorded_modQueue c q _).trans (State.recorded_visible _ c q e)

theorem State.recorded_record (ch : Nat) (e : QEntry) : s.Recorded (s.record c ch e) c := by
  unfold State.record
  split
  · exact .refl s c
  · dsimp only
    split
    · exact s.recorded_pushEntry c _ _
    · exact s.recorded_bump c _

theorem State.recorded_tagRx (tag : W32) : s.Recorded (s.tagRx c tag) c := s.recorded_modCellRegs c _

theorem State.queues_releaseMeta (q : Nat) : ((s.releaseMeta c q).ni c).queues = (s.ni c).queues :=
  State.forEach_keeps (fun s => (s.ni c).queues) (fun s e => by rw [State.ni_modNi_same]; rfl) _ s

theorem State.queues_dispatch (h : BitVec 12) (q : Nat) : ((s.dispatch c h q).ni c).queues = (s.ni c).queues := by
  simp only [State.dispatch]
  split
  · rw [State.ni_modNi_same]
    rfl
  · split
    · rw [State.ni_modNi_same]
    · rw [State.ni_bump]

/-- An entry that becomes visible stands at the tail of its queue (R147, R157). -/
theorem State.ents_visible (q : Nat) (e : QEntry) :
    (((s.visible c q e).ni c).queue q).ents = ((s.ni c).queue q).ents ++ [{ e with born := s.ncyc }] := by
  unfold State.visible
  extract_lets st t u v
  have ht : ((t.ni c).queue q).ents = ((s.ni c).queue q).ents ++ [{ e with born := s.ncyc }] := by
    simp only [t, State.ni_modNi_same, Ni.queue_modQueue]
  have hu : u.ni c = t.ni c := t.ni_modCellRegs c c _
  have hv : (v.ni c).queues = (u.ni c).queues := u.queues_releaseMeta c q
  clear_value t u v
  split
  · rw [Ni.queue, State.queues_dispatch, hv, ← Ni.queue, hu, ht]
  · rw [Ni.queue, hv, ← Ni.queue, hu, ht]

theorem State.ents_pushEntry (q : Nat) (e : QEntry) :
    (((s.pushEntry c q e).ni c).queue q).ents = ((s.ni c).queue q).ents ++ [{ e with born := s.ncyc }] := by
  rw [State.pushEntry, State.ents_visible, State.takeEntry, State.ni_modCellRegs]
  rfl

theorem State.ents_pushReserved (q : Nat) (e : QEntry) :
    (((s.pushReserved c q e).ni c).queue q).ents = ((s.ni c).queue q).ents ++ [{ e with born := s.ncyc }] := by
  rw [State.pushReserved, State.ents_visible, State.ni_modNi_same, Ni.queue_modQueue]
  rfl

/-- An entry that raises no strobe changes one register at most, the queue's high-water mark (R158, R207). -/
theorem State.regs_visible (q : Nat) {e : QEntry} (h : ¬(e.kind = 2 ∨ (e.kind = 3 ∧ e.handler ≠ 0))) :
    ∃ n, ((s.visible c q e).cell c).regs = (s.cell c).regs.depthHw q n := by
  unfold State.visible
  extract_lets st t u v
  have hv : (v.cell c).regs = (u.cell c).regs :=
    State.forEach_keeps (fun s => (s.cell c).regs) (fun s e => by rw [State.regs_modNi]; rfl) _ u
  refine ⟨((t.ni c).queue q).ents.length, ?_⟩
  rw [if_neg h, hv]
  simp only [u, State.modCellRegs, State.cell_modCell_same]
  rw [State.regs_modNi]

theorem Regs.get_depthHw (r : Regs) {q : Nat} (n : Nat) {f : Field} (h : f.off < 0x4800) : (r.depthHw q n).get f = r.get f := by
  unfold Regs.depthHw
  split
  · refine Regs.get_set_ne _ _ _ _ (show NI_QLAT_H_depth_hw.fits by decide) (.inl ?_)
    simp only [Field.at, NI_QLAT_H_depth_hw]
    omega
  · rfl

/-! ### Completions of descriptors -/

theorem State.steady_strobe (n : Nat) : s.Steady (s.strobe c n) c := by
  simp only [State.strobe]
  split
  · exact (s.recorded_emit c _).toSteady.trans (State.steady_modNi _ c (.of_cores rfl rfl rfl rfl rfl))
  · exact s.steady_modNi c (.of_cores rfl rfl rfl rfl rfl)

theorem State.steady_modDesc (id : Nat) (f : Desc → Desc) : s.Steady (s.modNi c fun x => x.modDesc id f) c :=
  s.steady_modNi c (.of_cores rfl rfl rfl rfl rfl)

theorem State.steady_finishDesc (d : Desc) (st reason : Nat) : s.Steady (s.finishDesc c d st reason) c := by
  unfold State.finishDesc
  extract_lets d' u
  have hu : s.Steady u c := s.steady_modCell c (.of_cores rfl rfl rfl rfl rfl)
  clear_value u
  split
  · exact hu
  · exact hu.trans (u.recorded_bump c _).toSteady

theorem State.steady_advanceCi (r fuel : Nat) : s.Steady (s.advanceCi c r fuel) c := by
  induction fuel generalizing s with
  | zero => exact .refl s c
  | succ n ih =>
    rw [State.advanceCi]
    split
    · exact .refl s c
    next d _ =>
      split
      · extract_lets u v w
        have hu : s.Steady u c := by
          simp only [u]
          split
          · exact .refl s c
          · exact s.steady_finishDesc c d _ _
        have hv : s.Steady v c := hu.trans (u.steady_modNi c (.of_cores rfl rfl rfl rfl rfl))
        have hw : s.Steady w c := by
          simp only [w]
          split
          · exact hv.trans (v.steady_strobe c r)
          · exact hv
        exact hw.trans (ih w)
      · exact .refl s c

theorem State.steady_completeDesc (id st reason : Nat) : s.Steady (s.completeDesc c id st reason) c := by
  unfold State.completeDesc
  split
  · exact .refl s c
  · split
    · exact .refl s c
    · exact (s.steady_finishDesc c _ _ _).trans (State.steady_advanceCi _ c _ _)

theorem State.steady_checkMsg (id : Nat) : s.Steady (s.checkMsg c id) c := by
  unfold State.checkMsg
  split
  · exact .refl s c
  · split
    · exact s.steady_completeDesc c id _ _
    · exact .refl s c

theorem State.steady_checkRead (id : Nat) : s.Steady (s.checkRead c id) c := by
  unfold State.checkRead
  split
  · exact .refl s c
  · extract_lets busy
    clear_value busy
    split
    · exact s.steady_completeDesc c id _ _
    · exact .refl s c

theorem State.steady_cutMsgDescs (ch : Nat) : s.Steady (s.cutMsgDescs c ch) c := by
  unfold State.cutMsgDescs
  refine State.Steady.forEach c (fun s d => ?_) _ s
  exact (s.steady_modDesc c d.id fun d => { d with n := d.taken, unsent := true }).trans (State.steady_checkMsg _ c d.id)

theorem State.steady_freeToken (t : Nat) (w : Bool) : s.Steady (s.freeToken c t w) c :=
  (s.steady_modNi c (.of_cores rfl rfl rfl rfl rfl)).trans (State.recorded_modCellRegs _ c _).toSteady

theorem State.steady_quarantine (lo hi : Nat) : s.Steady (s.quarantine c lo hi) c := by
  unfold State.quarantine
  exact s.steady_modNi c (.of_cores rfl rfl rfl rfl rfl)

/-- A token that closes by abandonment or by an error leaves its channel as it was (R141, R143). -/
theorem State.steady_closeToken (t : Nat) {how : CloseHow} (h : how = .abandon ∨ how = .ecc) : s.Steady (s.closeToken c t how 0 0) c := by
  unfold State.closeToken
  split
  · exact .refl s c
  next tk _ =>
    split
    · exact .refl s c
    extract_lets u
    have hu : s.Steady u c := (s.steady_freeToken c t _).trans (State.steady_modNi _ c (by
      rcases h with rfl | rfl <;> exact .refl _))
    clear_value u
    split
    next ch pc desc _ =>
      extract_lets peer v
      have hv : s.Steady v c := by
        rcases h with rfl | rfl <;> exact hu.trans (u.recorded_record c _ _).toSteady
      clear_value v
      split
      · exact hv
      · exact (hv.trans (v.steady_modDesc c _ _)).trans (State.steady_checkMsg _ c _)
    next id lo n _ _ _ _ =>
      extract_lets v w
      have hv : s.Steady v c := by
        rcases h with rfl | rfl
        · exact hu.trans (u.steady_quarantine c _ _)
        · exact hu
      clear_value v
      exact (hv.trans (v.steady_modDesc c _ _)).trans (State.steady_checkRead _ c _)

end steady

end Sys2Proof.Machine

/-! PROOFS. The channels and queues family: sends of a core and its sync operations (R134, R137, R138). -/

namespace Sys2Proof.Machine

/-! ## Sends of one packet (R137, R138) -/

/-- The generation the next packet of a token takes (R140). -/
def Ni.genOf (x : Ni) (t : Nat) : BitVec 4 := ((aget x.tokens t).map (·.gen)).getD 0

theorem tuplePackets_single {n : Nat} (hn : n ≤ 5) (h : BitVec 12) (ws : List W64) : ∃ p, tuplePackets n h ws = [p] := by
  unfold tuplePackets
  dsimp only
  split
  · exact ⟨_, rfl⟩
  · rw [if_neg (by omega)]
    exact ⟨_, rfl⟩

theorem State.sendReady_modCore {s : State} {c : Nat} {v : W64} {k : Chan} {tk : Nat} (h : s.sendReady c v k tk) (core : Nat)
    (f : CoreRt → CoreRt) : (s.modNi c fun x => x.modCore core f).sendReady c v k tk := by
  unfold State.sendReady at h ⊢
  rw [State.ni_modNi_same]
  exact h

section send

variable {s : State} {c core tk : Nat} {v : W64} {k : Chan}

/-- The packet of a send takes a token, and the channel's next number is one more (R138, R140). -/
theorem State.allocMsg_takes (pk : Packet) {ch : Nat} (h : aget (s.ni c).chans ch = some k) :
    let t := s.allocMsg c ch tk pk none
    t.out = s.out ∧ (t.ni c).cores = (s.ni c).cores ∧
    aget (t.ni c).chans ch = some { k with e := { k.e with txSeq := k.e.txSeq + 1 } } ∧
    ∃ p n, aget (t.ni c).tokens tk =
      some ⟨.queued, (s.ni c).genOf tk, .msg ch k.e.peerChan none, k.e.txSeq, p, 0, 0, 0, false, n⟩ := by
  simp only [State.allocMsg, h, State.ni_modCellRegs, State.ni_modNi_same]
  exact ⟨rfl, Ni.modChan_cores .., Ni.aget_modChan_same h _, _, _, aget_aput_same ..⟩

theorem State.within_allocMsg (ch : Nat) (pk : Packet) (d : Option Nat) : s.Within (s.allocMsg c ch tk pk d) c := by
  unfold State.allocMsg
  split
  · exact .refl s c
  · exact (s.within_modCell c _).trans (State.within_modCell _ c _)

/-- What a send of one packet that is possible does. -/
theorem State.sendGo_one (h : s.sendReady c v k tk) :
    ∃ p, s.sendGo c core v =
      (((s.allocMsg c (bits v.toNat 0 12) tk p none).touchChan c (bits v.toNat 0 12)).modNi c fun x => x.modCore core fun e =>
        { e with
          sentToks := [(tk, (s.ni c).genOf tk)], sentCh := bits v.toNat 0 12, policed := false }).sendDone c core
        (sendResult 0 k.e.txSeq.toNat ((s.ni c).genOf tk).toNat tk) := by
  obtain ⟨hn, hz, hk, hopen, hres, hfree, htk, hlock⟩ := h
  obtain ⟨p, hp⟩ := tuplePackets_single hn (BitVec.ofNat 12 (bits v.toNat 16 12)) ((s.ni c).core core).sendW
  have hlegal : ¬(bits v.toNat 12 3 = 7 ∨ BitVec.ofNat 12 (bits v.toNat 16 12) = 0 ∧ bits v.toNat 12 3 = 0) := by
    rintro (h7 | ⟨h0, hn0⟩)
    · omega
    · have := congrArg BitVec.toNat h0
      rw [BitVec.toNat_ofNat, Nat.mod_eq_of_lt (bits_lt _ _ 12)] at this
      exact hz.elim (absurd hn0) (absurd this)
  refine ⟨p, ?_⟩
  simp only [State.sendGo]
  rw [if_neg hlegal, hk]
  simp only [hopen, hres, ne_eq, not_true, if_false, if_true, hp, hlock, List.length_singleton, Bool.or_false, decide_eq_true_eq,
    if_neg (Nat.not_lt.mpr hfree), List.foldl_cons, List.foldl_nil, htk, reduceCtorEq, List.nil_append, List.headD_cons, List.map_cons,
    List.map_nil]
  rfl

theorem State.sendGo_sent (h : s.sendReady c v k tk) :
    (s.sendGo c core v).out = s.out ++ [.coreRsp c core 0] ∧ (s.sendGo c core v).sentOne c core v k tk ∧ s.onlyCell (s.sendGo c core v) c := by
  obtain ⟨p, hgo⟩ := s.sendGo_one (core := core) h
  obtain ⟨-, -, hk, -⟩ := h
  obtain ⟨hout, -, hchan, q, n, htok⟩ := s.allocMsg_takes (tk := tk) p hk
  have hw := s.within_allocMsg (c := c) (tk := tk) (bits v.toNat 0 12) p none
  rw [hgo]
  generalize s.allocMsg c (bits v.toNat 0 12) tk p none = u at hchan htok hout hw
  refine ⟨congrArg (· ++ [Out.coreRsp c core 0]) hout, ⟨?_, ?_, ?_⟩, ?_⟩
  · refine ⟨_, (?_ : _ = some ⟨.queued, (s.ni c).genOf tk, .msg (bits v.toNat 0 12) k.e.peerChan none, k.e.txSeq, q, 0, 0, 0, false, n⟩),
      rfl, rfl, rfl, ?_⟩
    · rw [State.sendDone, State.ni_respond, State.ni_modNi_same, State.ni_modNi_same, State.touchChan, State.ni_modNi_same]
      simpa only [Ni.unstall_tokens, Ni.modCore_tokens, Ni.modChan_tokens] using htok
    · rw [State.sendDone, State.ni_respond, State.ni_modNi_same, Ni.core_unstall, Ni.core_modCore]
  · rw [State.sendDone, State.ni_respond, State.ni_modNi_same, State.ni_modNi_same, State.touchChan, State.ni_modNi_same]
    simp only [Ni.unstall_chans, Ni.modCore_chans]
    exact ⟨_, Ni.aget_modChan_same hchan _, rfl⟩
  · rw [State.sendDone, State.ni_respond, State.ni_modNi_same, Ni.core_unstall]
  · exact (((hw.trans (u.within_modCell c _)).trans (State.within_modCell _ c _)).trans (State.within_modCell _ c _)).only

end send
/-! ## Sync operations of a core (R134) -/

section sync

variable {s : State} {c core ch : Nat}

/-- The state in which a core's sync operation has been taken from its queue to be performed: the core's read of the result waits for it. -/
def State.syncing (s : State) (c core ch : Nat) (op : BitVec 2) : State :=
  (s.modNi c fun x => x.modCore core fun e => { e with syncBusy := true, syncCh := ch, syncQ := e.syncQ ++ [(op, ch)] }).modNi c fun x =>
    x.modCore core fun e => { e with syncQ := [] }

theorem State.ni_syncing (op : BitVec 2) : (s.syncing c core ch op).ni c =
    ((s.ni c).modCore core fun e => { e with syncBusy := true, syncCh := ch, syncQ := e.syncQ ++ [(op, ch)] }).modCore core fun e =>
      { e with syncQ := [] } := by
  rw [State.syncing, State.ni_modNi_same, State.ni_modNi_same]

theorem State.core_syncing (op : BitVec 2) :
    ((s.syncing c core ch op).ni c).core core = { (s.ni c).core core with syncBusy := true, syncCh := ch, syncQ := [] } := by
  rw [State.ni_syncing, Ni.core_modCore, Ni.core_modCore]

theorem State.chans_syncing (op : BitVec 2) : ((s.syncing c core ch op).ni c).chans = (s.ni c).chans := by
  rw [State.ni_syncing]
  rfl

theorem State.faulted_syncing (op : BitVec 2) : ((s.syncing c core ch op).ni c).faulted = (s.ni c).faulted := by
  rw [State.ni_syncing]
  rfl

theorem State.within_syncing (op : BitVec 2) : s.Within (s.syncing c core ch op) c := (s.within_modCell c _).trans (State.within_modCell _ c _)

theorem State.cell_syncing (op : BitVec 2) :
    ((s.syncing c core ch op).cell c).regs = (s.cell c).regs ∧ ((s.syncing c core ch op).cell c).cm = (s.cell c).cm := by
  simp [State.syncing, State.modNi]

/-- t is u but for a core's sync locations: its operations are done, the last with a result, and its stalled read may have returned. -/
structure State.SyncEnded (u t : State) (c core : Nat) (res : BitVec 4) : Prop extends u.Within t c where
  chans : (t.ni c).chans = (u.ni c).chans
  loaded : (t.ni c).loaded = (u.ni c).loaded
  faulted : (t.ni c).faulted = (u.ni c).faulted
  regs : (t.cell c).regs = (u.cell c).regs
  cm : (t.cell c).cm = (u.cell c).cm
  res : ((t.ni c).core core).syncRes = res
  busy : ((t.ni c).core core).syncBusy = false

/-- With nothing left to perform the core is no longer busy, and a read that waits returns (R134). -/
theorem State.syncRun_nil (h : ((s.ni c).core core).syncQ = []) (n : Nat) :
    let t := s.modNi c fun x => x.modCore core fun e => { e with syncBusy := false }
    s.syncRun c core (n + 1) = t ∨ ∃ v, s.syncRun c core (n + 1) = (t.modNi c fun x => x.unstall core).respond c core v := by
  unfold State.syncRun
  simp only [h]
  split
  · exact .inr ⟨_, rfl⟩
  · exact .inl rfl

theorem State.syncRun_ends (h : ((s.ni c).core core).syncQ = []) (res : BitVec 4) (n : Nat) :
    s.SyncEnded ((s.syncResult c core res).syncRun c core (n + 1)) c core res := by
  have hq : (((s.syncResult c core res).ni c).core core).syncQ = [] := by
    rw [State.syncResult, State.ni_modNi_same, Ni.core_modCore]
    exact h
  have hw : s.Within ((s.syncResult c core res).modNi c fun x => x.modCore core fun e => { e with syncBusy := false }) c :=
    (s.within_modCell c _).trans (State.within_modCell _ c _)
  rcases State.syncRun_nil hq n with ht | ⟨v, ht⟩ <;> rw [ht]
  · constructor
    · exact hw
    all_goals simp [State.syncResult, State.regs_modNi]
  · constructor
    · exact (hw.trans (State.within_modNi _ c _)).trans (State.within_respond _ c core v)
    all_goals simp [State.syncResult, State.regs_modNi, Ni.core_unstall]

theorem State.syncRun_idle (h : ((s.ni c).core core).syncQ = []) (hs : ((s.ni c).core core).stall = none) (n : Nat) :
    s.syncRun c core (n + 1) = s.modNi c fun x => x.modCore core fun e => { e with syncBusy := false } := by
  unfold State.syncRun
  simp only [h, hs]

theorem State.syncRun_cons {op : BitVec 2} {r : List (BitVec 2 × Nat)} (h : ((s.ni c).core core).syncQ = (op, ch) :: r) (n : Nat) :
    s.syncRun c core (n + 1) =
      let t := s.modNi c fun x => x.modCore core fun e => { e with syncQ := r }
      if op = opLOAD then t.modNi c fun x => { x with fetches := x.fetches ++ [⟨ch, some core, []⟩] }
      else if op = opCLOSE then ((t.closeChan c ch).syncResult c core 0).syncRun c core n
      else if op = opFLUSH then ((t.flushChan c ch).syncResult c core 0).syncRun c core n
      else (t.syncResult c core 7).syncRun c core n := by
  conv_lhs => unfold State.syncRun
  simp only [h]

theorem State.syncWrite_waits {op : BitVec 2} (h : ((s.ni c).fetches.any fun f => f.load == some core) = true) :
    s.syncWrite c core ch op =
      s.modNi c fun x => x.modCore core fun e => { e with syncBusy := true, syncCh := ch, syncQ := e.syncQ ++ [(op, ch)] } := by
  simp only [State.syncWrite, h, if_true]

/-- An operation that changes neither the core's locations nor what leaves the block ends with its result, and no read returns. -/
theorem State.syncOp_ends {v : State} (op : BitVec 2) (res : BitVec 4) (hs : ((s.ni c).core core).stall = none)
    (hv : (v.ni c).cores = ((s.syncing c core ch op).ni c).cores) (ho : v.out = s.out) :
    v.SyncEnded ((v.syncResult c core res).syncRun c core 1) c core res ∧ ((v.syncResult c core res).syncRun c core 1).out = s.out := by
  have hcore : (v.ni c).core core = { (s.ni c).core core with syncBusy := true, syncCh := ch, syncQ := [] } := by
    rw [Ni.core, hv, ← Ni.core, State.core_syncing]
  refine ⟨State.syncRun_ends (by rw [hcore]) res 0, ?_⟩
  rw [State.syncRun_idle (n := 0)]
  · exact ho
  all_goals rw [State.syncResult, State.ni_modNi_same, Ni.core_modCore, hcore]
  exact hs

section runs

variable (hw : ((s.ni c).fetches.any fun f => f.load == some core) = false) (hq : ((s.ni c).core core).syncQ = [])
include hw hq

/-- An operation with no other before it is performed at once. -/
theorem State.syncWrite_runs (op : BitVec 2) :
    s.syncWrite c core ch op =
      let t := s.syncing c core ch op
      if op = opLOAD then t.modNi c fun x => { x with fetches := x.fetches ++ [⟨ch, some core, []⟩] }
      else if op = opCLOSE then ((t.closeChan c ch).syncResult c core 0).syncRun c core 1
      else if op = opFLUSH then ((t.flushChan c ch).syncResult c core 0).syncRun c core 1
      else (t.syncResult c core 7).syncRun c core 1 := by
  have hcore : ((s.modNi c fun x => x.modCore core fun e =>
      { e with syncBusy := true, syncCh := ch, syncQ := e.syncQ ++ [(op, ch)] }).ni c).core core =
      { (s.ni c).core core with syncBusy := true, syncCh := ch, syncQ := [(op, ch)] } := by
    rw [State.ni_modNi_same, Ni.core_modCore, hq]
    rfl
  simp only [State.syncWrite, hw, Bool.false_eq_true, if_false, hcore]
  exact State.syncRun_cons (congrArg CoreRt.syncQ hcore) 1

theorem State.syncLoad_fetches :
    (s.syncWrite c core ch opLOAD).out = s.out ∧ (((s.syncWrite c core ch opLOAD).ni c).fetches = (s.ni c).fetches ++ [⟨ch, some core, []⟩]) ∧
    (((s.syncWrite c core ch opLOAD).ni c).core core).syncBusy = true ∧ (((s.syncWrite c core ch opLOAD).ni c).core core).syncCh = ch ∧
    ((s.syncWrite c core ch opLOAD).ni c).chans = (s.ni c).chans ∧ s.onlyCell (s.syncWrite c core ch opLOAD) c := by
  have ht : s.syncWrite c core ch opLOAD =
      (s.syncing c core ch opLOAD).modNi c fun x => { x with fetches := x.fetches ++ [⟨ch, some core, []⟩] } := State.syncWrite_runs hw hq opLOAD
  have hcore := s.core_syncing (c := c) (core := core) (ch := ch) opLOAD
  rw [ht, State.ni_modNi_same]
  refine ⟨rfl, ?_, congrArg CoreRt.syncBusy hcore, congrArg CoreRt.syncCh hcore, ?_,
    ((s.within_syncing opLOAD).trans (State.within_modNi _ c _)).only⟩
  · rw [State.ni_syncing]
    rfl
  · rw [State.ni_syncing]
    rfl

/-- A CLOSE of a cached channel makes it QUIESCING (R134). -/
theorem State.syncClose_cached {k : Chan} (hk : aget (s.ni c).chans ch = some k) :
    let t := s.syncWrite c core ch opCLOSE
    (∃ y, aget (t.ni c).chans ch = some y ∧ y.e = { k.e with state := chQUIESCING }) ∧ ((t.ni c).core core).syncRes = 0 ∧
    ((t.ni c).core core).syncBusy = false ∧ s.onlyCell t c := by
  have hcore := s.core_syncing (c := c) (core := core) (ch := ch) opCLOSE
  have huk : aget ((s.syncing c core ch opCLOSE).ni c).chans ch = some k := by rw [State.chans_syncing, hk]
  have ht : s.syncWrite c core ch opCLOSE = (((s.syncing c core ch opCLOSE).closeChan c ch).syncResult c core 0).syncRun c core 1 :=
    State.syncWrite_runs hw hq opCLOSE
  have hin := s.within_syncing (c := c) (core := core) (ch := ch) opCLOSE
  rw [ht]
  generalize s.syncing c core ch opCLOSE = u at hcore huk hin
  let v := u.modNi c fun x => x.modChan ch fun k => { k with e := { k.e with state := chQUIESCING } }
  have hv : u.closeChan c ch = v.cutMsgDescs c ch := by simp only [State.closeChan, huk, v]
  have hcut := v.steady_cutMsgDescs c ch
  obtain ⟨st, hst⟩ := hcut.ni.cores core
  have hvcore : (v.ni c).core core = (u.ni c).core core := by simp only [v, State.ni_modNi_same, Ni.core, Ni.modChan_cores]
  rw [hv]
  have hend := State.syncRun_ends (s := v.cutMsgDescs c ch) (c := c) (core := core) (by rw [hst, hvcore, hcore]) 0 0
  refine ⟨?_, hend.res, hend.busy, (((hin.trans (u.within_modNi c _)).trans hcut.toWithin).trans hend.toWithin).only⟩
  rw [hend.chans, hcut.ni.chans, State.ni_modNi_same]
  exact ⟨_, Ni.aget_modChan_same huk _, rfl⟩

/-- A CLOSE of a channel that is not cached writes CLOSED into its entry (R134, log 104). -/
theorem State.syncClose_uncached (hs : ((s.ni c).core core).stall = none) (hk : aget (s.ni c).chans ch = none)
    (hf : (s.ni c).faulted.contains ch = false) :
    let t := s.syncWrite c core ch opCLOSE
    t.out = s.out ∧ (t.cell c).cm = setEntryState (s.cell c).cm (chanAddr (s.cell c).regs ch) chCLOSED ∧ ch ∉ (t.ni c).loaded ∧
    ((t.ni c).core core).syncRes = 0 ∧ s.onlyCell t c := by
  obtain ⟨hregs, hcm⟩ := s.cell_syncing (c := c) (core := core) (ch := ch) opCLOSE
  have huk : aget ((s.syncing c core ch opCLOSE).ni c).chans ch = none := by rw [State.chans_syncing, hk]
  have huf : ((s.syncing c core ch opCLOSE).ni c).faulted.contains ch = false := by rw [State.faulted_syncing, hf]
  have ht : s.syncWrite c core ch opCLOSE = (((s.syncing c core ch opCLOSE).closeChan c ch).syncResult c core 0).syncRun c core 1 :=
    State.syncWrite_runs hw hq opCLOSE
  let v := (s.syncing c core ch opCLOSE).modCell c fun x => { x with
      cm := setEntryState x.cm (chanAddr x.regs ch) chCLOSED
      ni := { x.ni with loaded := removeFrom x.ni.loaded ch, faulted := removeFrom x.ni.faulted ch } }
  have hv : (s.syncing c core ch opCLOSE).closeChan c ch = v := by
    simp only [State.closeChan, huk, huf, Bool.false_eq_true, if_false, v]
  have hvc : v.cell c = _ := State.cell_modCell_same _ c _
  have hcores : (v.ni c).cores = ((s.syncing c core ch opCLOSE).ni c).cores := congrArg (fun x => x.ni.cores) hvc
  obtain ⟨hend, hout⟩ := State.syncOp_ends (v := v) opCLOSE 0 hs hcores rfl
  have hin := ((s.within_syncing (c := c) (core := core) (ch := ch) opCLOSE).trans (State.within_modCell _ c _)).trans hend.toWithin
  rw [ht, hv]
  refine ⟨hout, ?_, ?_, hend.res, hin.only⟩
  · rw [hend.cm, hvc, hregs, hcm]
  · rw [hend.loaded, State.ni, hvc]
    simp [removeFrom]

/-- A FLUSH writes the NI-owned fields of a cached channel back (R134, R136). -/
theorem State.syncFlush_cached {k : Chan} (hs : ((s.ni c).core core).stall = none) (hk : aget (s.ni c).chans ch = some k)
    (hf : (s.ni c).faulted.contains ch = false) :
    let t := s.syncWrite c core ch opFLUSH
    t.out = s.out ∧ (t.cell c).cm = (k.e.accrue s.now32).writeBack (s.cell c).cm (chanAddr (s.cell c).regs ch) ∧
    ((t.ni c).core core).syncRes = 0 ∧ (t.ni c).chans = (s.ni c).chans ∧ s.onlyCell t c := by
  obtain ⟨hregs, hcm⟩ := s.cell_syncing (c := c) (core := core) (ch := ch) opFLUSH
  have huk : aget ((s.syncing c core ch opFLUSH).ni c).chans ch = some k := by rw [State.chans_syncing, hk]
  have huf : ((s.syncing c core ch opFLUSH).ni c).faulted.contains ch = false := by rw [State.faulted_syncing, hf]
  have ht : s.syncWrite c core ch opFLUSH = (((s.syncing c core ch opFLUSH).flushChan c ch).syncResult c core 0).syncRun c core 1 :=
    State.syncWrite_runs hw hq opFLUSH
  let v := (s.syncing c core ch opFLUSH).modCell c fun x => { x with
      cm := (k.e.accrue (s.syncing c core ch opFLUSH).now32).writeBack x.cm (chanAddr x.regs ch) }
  have hv : (s.syncing c core ch opFLUSH).flushChan c ch = v := by
    simp only [State.flushChan, huk, huf, Bool.false_eq_true, if_false, v]
  have hvc : v.cell c = _ := State.cell_modCell_same _ c _
  have hcores : (v.ni c).cores = ((s.syncing c core ch opFLUSH).ni c).cores := congrArg (fun x => x.ni.cores) hvc
  have hchans : (v.ni c).chans = ((s.syncing c core ch opFLUSH).ni c).chans := congrArg (fun x => x.ni.chans) hvc
  obtain ⟨hend, hout⟩ := State.syncOp_ends (v := v) opFLUSH 0 hs hcores rfl
  have hin := ((s.within_syncing (c := c) (core := core) (ch := ch) opFLUSH).trans (State.within_modCell _ c _)).trans hend.toWithin
  rw [ht, hv]
  refine ⟨hout, ?_, hend.res, ?_, hin.only⟩
  · rw [hend.cm, hvc, hregs, hcm, show (s.syncing c core ch opFLUSH).now32 = s.now32 from rfl]
  · rw [hend.chans, hchans, State.chans_syncing]

/-- The reserved op results in 7 (R134). -/
theorem State.syncBad_ends (hs : ((s.ni c).core core).stall = none) :
    let t := s.syncWrite c core ch opBAD
    t.out = s.out ∧ ((t.ni c).core core).syncRes = 7 ∧ (t.ni c).chans = (s.ni c).chans ∧ (t.cell c).cm = (s.cell c).cm ∧ s.onlyCell t c := by
  obtain ⟨-, hcm⟩ := s.cell_syncing (c := c) (core := core) (ch := ch) opBAD
  have ht : s.syncWrite c core ch opBAD = ((s.syncing c core ch opBAD).syncResult c core 7).syncRun c core 1 := State.syncWrite_runs hw hq opBAD
  obtain ⟨hend, hout⟩ := State.syncOp_ends (ch := ch) (v := s.syncing c core ch opBAD) opBAD 7 hs rfl rfl
  rw [ht]
  refine ⟨hout, hend.res, ?_, hend.cm.trans hcm, ((s.within_syncing opBAD).trans hend.toWithin).only⟩
  rw [hend.chans, State.chans_syncing]

end runs

end sync

/-! ## The accesses -/

section accesses

variable {s : State} {c core : Nat}

/-- A sync write of a core to its own slot performs the operation and is answered with 0. -/
theorem completes_syncWrite {i : Instr} {ch : Nat} {op : BitVec 2} {P : State → Prop} (hf : s.coreFree c core) (hw : i.wf = true)
    (he : exec i s = onUnit i.wf s (s.syncAccess c core core ch op i))
    (hP : P (((s.syncWrite c core ch op).respond c core 0).keeping s)) : completes i s P :=
  completes_write he hw hf (if_neg (not_not_intro rfl)) hP

variable (hc : cellOk c = true) (hk : coreOk core = true)
include hc hk

theorem cqSendGo_sends {ws : List W64} {v : W64} {k : Chan} {tk : Nat} (hf : s.coreFree c core) (h : s.sendReady c v k tk) :
    completes (.cqSendGo c core core ws v) s fun t => s.answered t c core 0 ∧ t.sentOne c core v k tk ∧ s.onlyCell t c := by
  refine completes_access rfl (by simp [Instr.wf, hc, hk]) hf ?_
  rw [if_neg (not_not_intro rfl)]
  obtain ⟨hout, hsent, honly⟩ := State.sendGo_sent (core := core) (State.sendReady_modCore h core fun e => { e with sendW := sixWords ws })
  exact ⟨hout, hsent, (s.within_modCell c _).only.trans honly⟩

/-- An access to the slot of another core has no effect and is answered with 0 (log 106). -/
theorem otherSlot_ignored {slot ch : Nat} (hf : s.coreFree c core) (hch : channelOk ch = true) (hs : coreOk slot = true) (hne : slot ≠ core)
    {i : Instr} (hi : i ∈ [Instr.cqSyncLoad c core slot ch, .cqSyncClose c core slot ch, .cqSyncFlush c core slot ch, .cqSyncBadOp c core slot ch,
      .cqSyncResRead c core slot false, .cqSyncResRead c core slot true]) :
    completes i s fun t => s.answered t c core 0 ∧ ∀ d, t.cell d = s.cell d := by
  have hread (send : Bool) : completes (.cqSyncResRead c core slot send) s fun t => s.answered t c core 0 ∧ ∀ d, t.cell d = s.cell d := by
    refine completes_access rfl (by simp [Instr.wf, hc, hk, hs]) hf ?_
    dsimp only
    rw [if_pos hne]
    exact ⟨rfl, fun _ => rfl⟩
  simp only [List.mem_cons, List.not_mem_nil, or_false] at hi
  rcases hi with rfl | rfl | rfl | rfl | rfl | rfl
  case inr.inr.inr.inr.inl => exact hread false
  case inr.inr.inr.inr.inr => exact hread true
  all_goals exact completes_write rfl (by simp [Instr.wf, hc, hk, hs, hch]) hf (if_pos hne) ⟨rfl, fun _ => rfl⟩

end accesses

/-- Settles O41, one access after the other. -/
theorem coreSendsAndSync : Obligations.CoreSendsAndSync := by
  intro s c core hc ho
  have hw {slot ch : Nat} (hs : coreOk slot = true) (hch : channelOk ch = true) (i : Instr) (hi : i ∈ [Instr.cqSyncLoad c core slot ch,
      .cqSyncClose c core slot ch, .cqSyncFlush c core slot ch, .cqSyncBadOp c core slot ch]) : i.wf = true := by
    simp only [List.mem_cons, List.not_mem_nil, or_false] at hi
    rcases hi with rfl | rfl | rfl | rfl <;> simp [Instr.wf, hc, ho, hs, hch]
  have hr (send : Bool) : (Instr.cqSyncResRead c core core send).wf = true := by simp [Instr.wf, hc, ho]
  have hrsp {u : State} (h : u.out = s.out) : s.answered ((u.respond c core 0).keeping s) c core 0 := congrArg (· ++ [Out.coreRsp c core 0]) h
  refine ⟨fun ws v k tk hf h => cqSendGo_sends hc ho hf h, fun x t0 v k tk hst h => ?_, fun slot ws v hf hs hne => ?_, fun ch f hch hf hm hl => ?_,
    fun ch slot hch hf hs hne i hi => otherSlot_ignored hc ho hf hch hs hne hi, fun hf => ?_,
    fun ch hch hf hno hq => ⟨?_, fun hn hft => ?_, fun k hk => ?_, fun k hk hft => ?_, ?_, fun hb => ?_, fun hb => ?_⟩⟩
  · refine completes_onUnit (t := s.sendGo c core v) ?_ (by simp [Instr.wf, hc, ho]) (State.sendGo_sent h)
    simp [exec, execCqSendGoResume, hst]
  · refine completes_access rfl (by simp [Instr.wf, hc, ho, hs]) hf ?_
    rw [if_pos hne]
    exact ⟨rfl, fun _ => rfl⟩
  · refine completes_syncWrite hf (hw ho hch _ (by simp)) rfl ?_
    rw [State.syncWrite_waits (List.any_eq_true.2 ⟨f, hm, by simp [hl]⟩)]
    refine ⟨rfl, ?_, ?_, ?_, ?_, (s.within_modCell c _).only⟩
    · rw [State.keeping_ni, State.ni_respond, State.ni_modNi_same, Ni.core_modCore]
    · rw [State.keeping_ni, State.ni_respond, State.ni_modNi_same, Ni.core_modCore]
    · rw [State.keeping_ni, State.ni_respond, State.ni_modNi_same, Ni.modCore_chans]
    · rw [State.keeping_cell, State.cell_respond, State.cm_modNi]
  · refine completes_access rfl (hr true) hf ?_
    dsimp only
    rw [if_neg (not_not_intro rfl), if_pos rfl]
    exact ⟨rfl, fun _ => rfl⟩
  · obtain ⟨hout, hrest⟩ := State.syncLoad_fetches (ch := ch) hno hq
    exact completes_syncWrite hf (hw ho hch _ (by simp)) rfl ⟨hrsp hout, hrest⟩
  · obtain ⟨hout, hrest⟩ := State.syncClose_uncached (ch := ch) hno hq hf.2.2 hn hft
    exact completes_syncWrite hf (hw ho hch _ (by simp)) rfl ⟨hrsp hout, hrest⟩
  · have hrest := State.syncClose_cached hno hq hk
    exact completes_syncWrite hf (hw ho hch _ (by simp)) rfl ⟨List.mem_append_right _ (List.mem_singleton_self _), hrest⟩
  · obtain ⟨hout, hrest⟩ := State.syncFlush_cached hno hq hf.2.2 hk hft
    exact completes_syncWrite hf (hw ho hch _ (by simp)) rfl ⟨hrsp hout, hrest⟩
  · obtain ⟨hout, hrest⟩ := State.syncBad_ends (ch := ch) hno hq hf.2.2
    exact completes_syncWrite hf (hw ho hch _ (by simp)) rfl ⟨hrsp hout, hrest⟩
  · refine completes_access rfl (hr false) hf ?_
    dsimp only
    rw [if_neg (not_not_intro rfl), if_neg Bool.false_ne_true, hb, if_neg Bool.false_ne_true]
    exact ⟨rfl, fun _ => rfl⟩
  · refine completes_access rfl (hr false) hf ?_
    dsimp only
    rw [if_neg (not_not_intro rfl), if_neg Bool.false_ne_true, hb, if_pos rfl]
    refine ⟨rfl, ?_, (s.within_modCell c _).only⟩
    rw [State.keeping_ni, State.ni_modNi_same, Ni.core_stallCore]

end Sys2Proof.Machine

/-! PROOFS. The channels and queues family: fetches, the end of a CLOSE and faults of channels (R134 to R136, R139, R144). -/

namespace Sys2Proof.Machine

/-! ## Store errors below the limit (R296, R299) -/

theorem Regs.get_strike_zero (r : Regs) {f : Field} (hf : f.fits) (hl : f.len = 1) : (r.strike f 0).get f = 1 := by
  have h : (r.strike f 0).get f = (r.set f (setBits (r.get f) 0 1 1)).get f := rfl
  rw [h, Regs.get_set_same _ _ _ hf, hl]
  have hb := bits_setBits (r.get f) 0 1 1
  rwa [bits, Nat.pow_zero, Nat.div_one] at hb

/-- A store error below the limit of its block sets ni_fault and leaves the NI as it was (R299). -/
theorem State.storeError_below {s : State} {c : Nat} (store : Nat)
    (h : (s.block (blockOf c)).count (storeKey c) + 1 < (s.block (blockOf c)).regs.get BLK_FAULT_CTL_ni_uncorr_limit) :
    (s.storeError c store true).ni c = s.ni c ∧ (s.storeError c store true).cget c CELL_FAULT_ni_fault = 1 := by
  let u := s.modCellRegs c fun r => r.strike CELL_FAULT_ni_fault 0
  let v := u.modBlock (blockOf c) fun x => { x with counts := aput x.counts (storeKey c) (x.count (storeKey c) + 1) }
  have hv : v.block (blockOf c) = { s.block (blockOf c) with
      counts := aput (s.block (blockOf c)).counts (storeKey c) ((s.block (blockOf c)).count (storeKey c) + 1) } := State.block_modBlock_same u _ _
  have hcount : (v.block (blockOf c)).count (storeKey c) = (s.block (blockOf c)).count (storeKey c) + 1 := by rw [hv, Block.count, aget_aput_same]; rfl
  have hlimit : (v.block (blockOf c)).regs = (s.block (blockOf c)).regs := by rw [hv]
  have ht : s.storeError c store true = v ∨ ∃ r, s.storeError c store true = v.blockRecord (blockOf c) r := by
    have hdef : s.storeError c store true =
        (if (v.block (blockOf c)).regs.get BLK_FAULT_CTL_ni_uncorr_limit ≤ (v.block (blockOf c)).count (storeKey c) then
          v.byController (blockOf c) (mkRec 5 1 c 4 0 0 store) fun s => s.fenceCell c 5 4 0 store
        else if (v.block (blockOf c)).count (storeKey c) = half ((v.block (blockOf c)).regs.get BLK_FAULT_CTL_ni_uncorr_limit) then
          v.blockRecord (blockOf c) (mkRec 5 1 c 4 0 0 store)
        else v) := rfl
    rw [hdef, if_neg (by rw [hcount, hlimit]; exact Nat.not_le.mpr h)]
    split
    · exact .inr ⟨_, rfl⟩
    · exact .inl rfl
  have hni : u.ni c = s.ni c := s.ni_modCellRegs c c _
  have hget : u.cget c CELL_FAULT_ni_fault = 1 := by
    simp only [u, State.cget, State.modCellRegs, State.cell_modCell_same]
    exact Regs.get_strike_zero _ (by decide) rfl
  rcases ht with ht | ⟨r, ht⟩ <;> rw [ht]
  · exact ⟨hni, hget⟩
  · exact ⟨hni, hget⟩

/-! ## Faults of channels (R139, R144) -/

section fault

variable {s : State} {c ch : Nat}

theorem mem_addTo (l : List Nat) (k : Nat) : k ∈ addTo l k := by
  unfold addTo
  split
  next h => simpa using h
  next h => exact List.mem_append_right _ (List.mem_singleton_self k)

/-- A channel set FAULTED is held so, its state with it; the other channels and the cores' sync operations are as they were. -/
theorem State.faultChan_faults (s : State) (c ch : Nat) :
    (s.modNi c fun x => { x.modChan ch fun k => { k with e := { k.e with state := chFAULTED } } with faulted := addTo x.faulted ch }).Steady
      (s.faultChan c ch) c := by
  unfold State.faultChan
  extract_lets u v
  refine (u.steady_cutMsgDescs c ch).trans (State.Steady.forEach c (fun s e => ?_) _ v)
  exact s.steady_closeToken c e.1 (.inl rfl)

theorem State.faulted_faultChan (s : State) (c ch : Nat) : ch ∈ ((s.faultChan c ch).ni c).faulted := by
  rw [(s.faultChan_faults c ch).ni.faulted, State.ni_modNi_same]
  exact mem_addTo _ _

theorem State.state_faultChan {k : Chan} (h : aget (s.ni c).chans ch = some k) :
    ∃ y, aget ((s.faultChan c ch).ni c).chans ch = some y ∧ y.e.state = chFAULTED := by
  rw [(s.faultChan_faults c ch).ni.chans, State.ni_modNi_same]
  exact ⟨_, Ni.aget_modChan_same h _, rfl⟩

theorem State.syncQ_faultChan (s : State) (c ch core : Nat) : (((s.faultChan c ch).ni c).core core).syncQ = ((s.ni c).core core).syncQ := by
  obtain ⟨st, hst⟩ := (s.faultChan_faults c ch).ni.cores core
  rw [hst, State.ni_modNi_same]
  simp only [Ni.core, Ni.modChan_cores]

theorem State.block_faultChan (s : State) (c ch b : Nat) : (s.faultChan c ch).block b = s.block b :=
  ((s.within_modNi c _).trans (s.faultChan_faults c ch).toWithin).block b

end fault

/-! ## The receive side with nothing held out of order (R146, R150) -/

section quiet

variable {s : State} {c ch : Nat} {k : Chan}

theorem State.drain_quiet (h : aget (s.ni c).chans ch = some k) (ha : k.rx.arrival = []) (hh : k.rx.held = []) (n : Nat) : s.drain c ch n = s := by
  cases n with
  | zero => rfl
  | succ n => simp [State.drain, h, ha, hh]

/-- With nothing held and nothing written ahead only the gap timer is looked at (R150). -/
theorem State.settleRx_quiet (h : aget (s.ni c).chans ch = some k) (ha : k.rx.arrival = []) (hh : k.rx.held = []) :
    s.settleRx c ch = s.armGap c ch := by
  rw [State.settleRx, State.drain_quiet h ha hh]

/-- The gap timer aside, a channel is as it was. -/
theorem State.armGap_chan (h : aget (s.ni c).chans ch = some k) :
    ∃ g, aget ((s.armGap c ch).ni c).chans ch = some { k with rx := { k.rx with gap := g } } := by
  rw [State.armGap, State.ni_modNi_same, Ni.aget_modChan_same h]
  exact ⟨_, rfl⟩

theorem State.within_armGap : s.Within (s.armGap c ch) c := s.within_modCell c _

end quiet

/-! ## The fetches -/

theorem find?_eq_some_of_imp {α : Type} {p q : α → Bool} {a : α} (h : ∀ b, q b = true → p b = true) (hq : q a = true) {l : List α}
    (hp : l.find? p = some a) : l.find? q = some a := by
  obtain ⟨-, as, bs, rfl, has⟩ := List.find?_eq_some_iff_append.1 hp
  refine List.find?_eq_some_iff_append.2 ⟨hq, as, bs, rfl, fun b hb => ?_⟩
  have := has b hb
  cases hqb : q b with
  | false => rfl
  | true => simp [h b hqb] at this

section fetch

variable {s : State} {c ch : Nat} {f : Fetch} (hc : cellOk c = true) (hch : channelOk ch = true) (hf : (s.ni c).fetchOf ch = some f)

/-- The state in which a fetch is over. -/
def State.fetched (s : State) (c : Nat) (f : Fetch) : State := s.modNi c fun x => { x with fetches := dropFirst (fun g => g == f) x.fetches }

theorem State.cell_fetched (s : State) (c : Nat) (f : Fetch) :
    (s.fetched c f).cell c = { s.cell c with ni := { s.ni c with fetches := dropFirst (fun g => g == f) (s.ni c).fetches } } :=
  State.cell_modCell_same s c _

section load

variable {e : ChanEntry} (he : ChanEntry.load (s.cell c).cm (chanAddr (s.cell c).regs ch) = e) (ho : e.state = chOPEN)
  (hchip : s.chipOk e.peerChip.toNat = true) (hcell : logicalOk e.peerCell.toNat = true) (hne : e.peerChip.toNat ≠ s.chipId.toNat)
  (hcheck : s.loadCheck c ch e .remote = 0) (hk : aget (s.ni c).chans ch = none) (hroom : (s.ni c).chans.length < 64)
  (hld : (s.ni c).loaded.contains ch = false)
include he ho hchip hcell hne hcheck hk hroom hld

/-- A LOAD of an OPEN entry toward another chip opens the channel (R133, R135, R136). -/
theorem State.load_opens (core : Nat) : (s.fetched c f).load c core ch =
    some ((((s.fetched c f).putChan c ch (Chan.fresh (e.opened .remote s.now32))).modNi c fun x =>
      { x with loaded := addTo x.loaded ch, peers := aput x.peers ch e.peer }).syncDone c core 0) := by
  have hd := s.cell_fetched c f
  have hload : ChanEntry.load ((s.fetched c f).cell c).cm (chanAddr ((s.fetched c f).cell c).regs ch) = e := by rw [hd, he]
  have hpeer : (s.fetched c f).peerIs c e.peerChip.toNat e.peerCell.toNat = (s.fetched c f, .remote) := by
    have h1 : (s.fetched c f).chipOk e.peerChip.toNat = true := hchip
    have h2 : e.peerChip.toNat ≠ (s.fetched c f).chipId.toNat := hne
    rw [State.peerIs, h1, hcell, if_neg (by decide), if_pos h2]
  have hcode : (s.fetched c f).loadCheck c ch e .remote = 0 := by
    rw [← hcheck]
    simp only [State.loadCheck, hd]
    rfl
  have hdk : aget ((s.fetched c f).ni c).chans ch = none := by rw [State.ni, hd]; exact hk
  have hdl : ((s.fetched c f).ni c).loaded.contains ch = false := by rw [State.ni, hd]; exact hld
  have hdr : (s.fetched c f).chanRoom c = some (s.fetched c f) := by
    have hlen : ((s.fetched c f).ni c).chans.length < chanCacheSize := by rw [State.ni, hd]; exact hroom
    simp only [State.chanRoom, hlen, if_true]
  have hclosed : e.state ≠ chCLOSED := by rw [ho]; decide
  simp only [State.load, hload, hpeer, hcode, hdk, hdl, hdr, hclosed, ne_eq, not_true, if_false, Option.isSome_none, Bool.false_eq_true]
  rfl

include hc hch hf

theorem channelFetchDone_opens {core : Nat} (hl : f.load = some core) (hq : ((s.ni c).core core).syncQ = []) :
    completes (.channelFetchDone c ch false) s fun t =>
      (∃ y, aget (t.ni c).chans ch = some y ∧ y.e = e.opened .remote s.now32) ∧ ch ∈ (t.ni c).loaded ∧ ((t.ni c).core core).syncRes = 0 ∧
      (t.cell c).cm = (s.cell c).cm ∧ s.onlyCell t c := by
  let u := ((s.fetched c f).putChan c ch (Chan.fresh (e.opened .remote s.now32))).modNi c fun x =>
    { x with loaded := addTo x.loaded ch, peers := aput x.peers ch e.peer }
  have hni : u.ni c = { s.ni c with
      fetches := dropFirst (fun g => g == f) (s.ni c).fetches
      chans := aput (s.ni c).chans ch { Chan.fresh (e.opened .remote s.now32) with used := (s.ni c).nextId }
      nextId := (s.ni c).nextId + 1, loaded := addTo (s.ni c).loaded ch, peers := aput (s.ni c).peers ch e.peer } := by
    simp only [u, State.putChan, State.fetched, State.ni_modNi_same]
  have hcm : (u.cell c).cm = (s.cell c).cm := by simp only [u, State.putChan, State.fetched, State.cm_modNi]
  have hin : s.Within u c := ((s.within_modCell c _).trans (State.within_modCell _ c _)).trans (State.within_modCell _ c _)
  have huq : ((u.ni c).core core).syncQ = [] := by rw [hni]; exact hq
  have hload : (s.fetched c f).load c core ch = some (u.syncDone c core 0) := State.load_opens he ho hchip hcell hne hcheck hk hroom hld core
  clear_value u
  have hend : u.SyncEnded (u.syncDone c core 0) c core 0 := State.syncRun_ends huq 0 _
  refine completes_onUnit (t := u.syncDone c core 0) ?_ (by simp [Instr.wf, hc, hch]) ⟨?_, ?_, hend.res, hend.cm.trans hcm, (hin.trans hend.toWithin).only⟩
  · simp only [exec, execChannelFetchDone, hf, hl, Bool.false_eq_true, if_false]
    rw [← State.fetched, hload]
  · rw [State.keeping_ni, hend.chans, hni]
    exact ⟨_, aget_aput_same _ _ _, rfl⟩
  · rw [State.keeping_ni, hend.loaded, hni]
    exact mem_addTo _ _

end load

include hc hch hf

/-- An error in the entry read makes the channel FAULTED, and the LOAD's result is 6 (R135, R144). -/
theorem channelFetchDone_faults {core : Nat} (hl : f.load = some core) (hq : ((s.ni c).core core).syncQ = [])
    (hlim : (s.block (blockOf c)).count (storeKey c) + 1 < (s.block (blockOf c)).regs.get BLK_FAULT_CTL_ni_uncorr_limit) :
    completes (.channelFetchDone c ch true) s fun t =>
      ((t.ni c).core core).syncRes = 6 ∧ ch ∈ (t.ni c).faulted ∧ t.cget c CELL_FAULT_ni_fault = 1 := by
  obtain ⟨hni, hfault⟩ := State.storeError_below (s := s.faultChan c ch) 4 (by rwa [State.block_faultChan])
  let u := ((s.faultChan c ch).storeError c 4 true).fetched c f
  have hu : u.cell c = _ := State.cell_fetched _ c f
  have huq : ((u.ni c).core core).syncQ = [] := by
    rw [State.ni, hu]
    exact (congrArg (fun x => (Ni.core x core).syncQ) hni).trans ((s.syncQ_faultChan c ch core).trans hq)
  have hend : u.SyncEnded (u.syncDone c core 6) c core 6 := State.syncRun_ends huq 6 _
  refine completes_onUnit (t := u.syncDone c core 6) ?_ (by simp [Instr.wf, hc, hch]) ⟨hend.res, ?_, ?_⟩
  · simp only [exec, execChannelFetchDone, hf, hl, if_true]
    rfl
  · rw [State.keeping_ni, hend.faulted, State.ni, hu]
    exact (congrArg Ni.faulted hni).symm ▸ s.faulted_faultChan c ch
  · rw [State.keeping_cget, State.cget, hend.regs, hu]
    exact hfault

/-- A fetch for an arrival or a send with nothing held caches the entry (R136). -/
theorem channelFetchDone_caches (hl : f.load = none) (hh : f.hold = []) (hk : aget (s.ni c).chans ch = none)
    (hroom : (s.ni c).chans.length < 64) :
    completes (.channelFetchDone c ch false) s fun t =>
      (∃ y, aget (t.ni c).chans ch = some y ∧ y.e = s.fetchedEntry c ch) ∧ (t.cell c).cm = (s.cell c).cm ∧ s.onlyCell t c := by
  let u := s.putChan c ch (Chan.fresh (s.fetchedEntry c ch))
  let v := u.modNi c fun x => { x with fetches := dropFirst (fun f => f.ch == ch && f.load.isNone) x.fetches }
  have hfind : (s.ni c).fetches.find? (fun f => f.ch == ch && f.load.isNone) = some f := by
    have hfetch : (s.ni c).fetches.find? (fun f : Fetch => f.ch == ch && (f.load.isSome || (aget (s.ni c).chans ch).isNone)) = some f := hf
    have hsel := List.find?_some hfetch
    refine find?_eq_some_of_imp (fun b hb => ?_) ?_ hfetch
    · rw [(Bool.and_eq_true_iff.1 hb).1, hk, Option.isNone_none, Bool.or_true, Bool.and_true]
    · rw [(Bool.and_eq_true_iff.1 hsel).1, hl, Option.isNone_none, Bool.and_true]
  have hrel : u.releaseHeld c ch (robSize + 1) = v := by
    have hu : (u.ni c).fetches.find? (fun f => f.ch == ch && f.load.isNone) = some f := by
      simp only [u, State.putChan, State.ni_modNi_same, hfind]
    simp only [State.releaseHeld, hu, hh, v]
  have hchan : aget (v.ni c).chans ch = some { Chan.fresh (s.fetchedEntry c ch) with used := (s.ni c).nextId } := by
    simp only [v, u, State.putChan, State.ni_modNi_same, aget_aput_same]
  have hroomS : s.chanRoom c = some s := by
    have : (s.ni c).chans.length < chanCacheSize := hroom
    simp only [State.chanRoom, this, if_true]
  have hset : v.settleRx c ch = v.armGap c ch := State.settleRx_quiet hchan rfl rfl
  obtain ⟨g, hg⟩ := State.armGap_chan hchan
  have hcm : ((v.armGap c ch).cell c).cm = (s.cell c).cm := by simp only [State.armGap, v, u, State.putChan, State.cm_modNi]
  have hin : s.Within v c := (s.within_modCell c _).trans (State.within_modCell _ c _)
  refine completes_onUnit (t := v.armGap c ch) ?_ (by simp [Instr.wf, hc, hch]) ⟨⟨_, hg, rfl⟩, hcm, (hin.trans State.within_armGap).only⟩
  simp only [exec, execChannelFetchDone, hf, hl, hroomS, Bool.false_eq_true, if_false]
  rw [hrel, hset]

end fetch

/-! ## The end of a CLOSE, and an error of a cached channel (R134, R144) -/

theorem aget_adel_same {α : Type} (l : Assoc α) (k : Nat) : aget (adel l k) k = none := by
  induction l with
  | nil => rfl
  | cons e l ih =>
    obtain ⟨j, v⟩ := e
    by_cases h : j = k
    · simpa [adel, h] using ih
    · simpa [adel, h, aget] using ih

section ends

variable {s : State} {c ch : Nat} {k : Chan} (hc : cellOk c = true) (hch : channelOk ch = true) (hk : aget (s.ni c).chans ch = some k)
include hc hch hk

theorem channelCloseComplete_closes (hq : k.e.state = chQUIESCING) (htok : (s.ni c).chanTokens ch = []) (hh : k.rx.held = [])
    (hp : k.rx.placed = none) (hfh : (s.ni c).fetchHeld ch = 0) :
    completes (.channelCloseComplete c ch) s fun t =>
      aget (t.ni c).chans ch = none ∧ s.onlyCell t c ∧ ch ∉ (t.ni c).loaded ∧ ch ∉ (t.ni c).faulted ∧
      (t.cell c).cm = (if (s.ni c).faulted.contains ch then setEntryState (s.cell c).cm (chanAddr (s.cell c).regs ch) chFAULTED
        else setEntryState ((k.e.accrue s.now32).writeBack (s.cell c).cm (chanAddr (s.cell c).regs ch)) (chanAddr (s.cell c).regs ch) chCLOSED) := by
  let u := (s.flushChan c ch).modCell c fun y => { y with
    cm := setEntryState y.cm (chanAddr y.regs ch) (if (s.ni c).faulted.contains ch then chFAULTED else chCLOSED)
    ni := { y.ni with loaded := removeFrom y.ni.loaded ch, faulted := removeFrom y.ni.faulted ch } }
  have hflush : (s.flushChan c ch).cell c = { s.cell c with
      cm := if (s.ni c).faulted.contains ch then (s.cell c).cm
        else (k.e.accrue s.now32).writeBack (s.cell c).cm (chanAddr (s.cell c).regs ch) } ∧ s.Within (s.flushChan c ch) c := by
    simp only [State.flushChan, hk]
    split
    · exact ⟨rfl, .refl s c⟩
    · exact ⟨State.cell_modCell_same s c _, s.within_modCell c _⟩
  obtain ⟨hfl, hin⟩ := hflush
  have hu : (u.uncache c ch).cell c = _ := (State.cell_modCell_same u c _).trans
    (congrArg (fun x : Cell => { x with ni := { x.ni with chans := adel x.ni.chans ch } }) (State.cell_modCell_same _ c _))
  refine completes_onUnit (t := u.uncache c ch) ?_ (by simp [Instr.wf, hc, hch])
    ⟨?_, ((hin.trans (State.within_modCell _ c _)).trans (State.within_modCell _ c _)).only, ?_, ?_, ?_⟩
  · simp [exec, execChannelCloseComplete, hk, hq, htok, hh, hp, hfh, u]
  · rw [State.keeping_ni, State.ni, hu]
    exact aget_adel_same _ _
  · rw [State.keeping_ni, State.ni, hu]
    simp [removeFrom]
  · rw [State.keeping_ni, State.ni, hu]
    simp [removeFrom]
  · rw [State.keeping_cell, hu]
    simp only [hfl]
    cases (s.ni c).faulted.contains ch <;> simp only [Bool.false_eq_true, if_false, if_true]

theorem channelCacheEccError_faults (reorder : Bool)
    (hlim : (s.block (blockOf c)).count (storeKey c) + 1 < (s.block (blockOf c)).regs.get BLK_FAULT_CTL_ni_uncorr_limit) :
    completes (.channelCacheEccError c ch reorder) s fun t =>
      (∃ y, aget (t.ni c).chans ch = some y ∧ y.e.state = chFAULTED) ∧ ch ∈ (t.ni c).faulted ∧ t.cget c CELL_FAULT_ni_fault = 1 := by
  obtain ⟨hni, hfault⟩ := State.storeError_below (s := s.faultChan c ch) (if reorder then 1 else 4) (by rwa [State.block_faultChan])
  refine completes_onUnit (t := (s.faultChan c ch).storeError c (if reorder then 1 else 4) true) ?_ (by simp [Instr.wf, hc, hch]) ?_
  · simp [exec, execChannelCacheEccError, hk]
  · rw [State.keeping_ni, hni]
    exact ⟨State.state_faultChan hk, s.faulted_faultChan c ch, hfault⟩

end ends

/-- Settles O42: the ends of fetches, of a CLOSE, and the faults of channels. -/
theorem channelFetchAndClose : Obligations.ChannelFetchAndClose := by
  intro s c ch hc hch a e
  exact ⟨fun f core hf hl ho hchip hcell hne hcheck hk hq hroom hld =>
      channelFetchDone_opens hc hch hf rfl ho hchip hcell hne hcheck hk hroom hld hl hq,
    fun f core hf hl hq hlim => channelFetchDone_faults hc hch hf hl hq hlim,
    fun f hf hl hh hk hroom => channelFetchDone_caches hc hch hf hl hh hk hroom,
    fun k hk hq htok hh hp hfh => channelCloseComplete_closes hc hch hk hq htok hh hp hfh,
    fun k reorder hk hlim => channelCacheEccError_faults hc hch hk reorder hlim⟩

end Sys2Proof.Machine

/-! PROOFS. The channels and queues family: tokens close once (R140 to R143). -/

namespace Sys2Proof.Machine

/-! ## A packet that passes the checks of R48 reaches its handler -/

/-- The state in which the NI has taken the next packet of a type that the router handed over. -/
def State.ejectTaken (s : State) (c : Nat) (t : BitVec 4) : State :=
  s.modNi c fun x => { x with ejected := dropFirst (fun e => e.2.type == t) x.ejected }

theorem State.ejectType_receives {s : State} {c : Nat} {pl : Plane} {p : Packet} (h : s.receives c pl p) {t : BitVec 4} (ht : p.type = t)
    (f : Plane → Packet → State → State) : s.ejectType c t f = f pl p (s.ejectTaken c t) := by
  obtain ⟨hfind, hhold, hchip, hcell, hcrc, hlegal, hown, hfree⟩ := h
  rw [ht] at hfind
  have hni : (s.ejectTaken c t).ni c = { s.ni c with ejected := dropFirst (fun e => e.2.type == t) (s.ni c).ejected } := State.ni_modNi_same s c _
  have hfree' : (s.ejectTaken c t).answerFree c = true := by
    rw [State.answerFree, State.ejectTaken, State.rt_modNi]
    exact hfree
  have hchip' : p.dstChip = (s.ejectTaken c t).chipId := hchip
  have hown' : ¬(p.srcChip = (s.ejectTaken c t).chipId ∧ p.srcCell.toNat = c) := hown
  have hhold' : ((s.ejectTaken c t).cell c).ni.hold = .none := (congrArg Ni.hold hni).trans hhold
  simp only [State.ejectType, hfind]
  rw [← State.ejectTaken, State.ejectOne, hfree', if_neg (by simp), State.ejectChecks]
  generalize s.ejectTaken c t = u at hchip' hown' hhold'
  simp only [hhold', ← hchip', hcell, ← hcrc, hlegal, beq_self_eq_true, Bool.and_self, Bool.not_true, Bool.and_false, Bool.false_eq_true, if_false,
    ne_eq, not_true, decide_false, Bool.false_and]
  refine if_neg fun hbad => ?_
  simp only [Bool.and_eq_true, beq_iff_eq, decide_eq_true_eq] at hbad
  obtain ⟨⟨⟨⟨-, hsrc⟩, hsrcCell⟩, -⟩, -⟩ := hbad
  exact hown' ⟨hsrc.trans hchip', hsrcCell⟩

theorem State.recorded_ejectTaken (s : State) (c : Nat) (t : BitVec 4) : s.Recorded (s.ejectTaken c t) c :=
  s.recorded_modNi c (.of_cores rfl rfl rfl rfl rfl) rfl

/-! ## A token closes once (R140, R141) -/

theorem aget_map_at {α : Type} (l : Assoc α) (t : Nat) (f : α → α) :
    aget (l.map fun e => if e.1 = t then (t, f e.2) else e) t = (aget l t).map f := by
  induction l with
  | nil => rfl
  | cons e l ih =>
    obtain ⟨a, b⟩ := e
    by_cases h : a = t
    · simp [aget, h]
    · simp [aget, h, ih]

section close

variable {s : State} {c tok : Nat} {tk : Token}

/-- The token is free, or withdrawn, its generation one more; the channels stay (R140, R141). -/
theorem State.freeToken_closes (h : aget (s.ni c).tokens tok = some tk) (w : Bool) :
    (s.freeToken c tok w).closed c tok tk (if w then .withdrawn else .free) := by
  refine ⟨{ tk with st := if w then .withdrawn else .free, gen := tk.gen + 1, again := false }, ?_, rfl, rfl, rfl⟩
  rw [State.freeToken, State.ni_modCellRegs, State.ni_modNi_same]
  exact (aget_map_at (s.ni c).tokens tok
    fun t => { t with st := if w then .withdrawn else .free, gen := t.gen + 1, again := false }).trans (by rw [h]; rfl)

theorem State.closed.of_tokens {t u : State} {st : TokState} (h : t.closed c tok tk st) (hu : (u.ni c).tokens = (t.ni c).tokens) :
    u.closed c tok tk st := by
  obtain ⟨k, hk, hst, hgen, huse⟩ := h
  exact ⟨k, by rw [hu, hk], hst, hgen, huse⟩

/-- The state in which a message token has closed and the spillway's note is made. -/
def State.tokenFreed (s : State) (c tok : Nat) (tk : Token) (how : CloseHow) : State :=
  (s.freeToken c tok (how == .ecc)).modNi c fun x => if how = .policed then x.notePoliced tok tk.gen else x

variable {ch : Nat} {pc : BitVec 12} (ht : aget (s.ni c).tokens tok = some tk) (ho : tk.isOpen = true) (hu : tk.use = .msg ch pc none)

theorem State.tokenFreed_closes (ht : aget (s.ni c).tokens tok = some tk) (how : CloseHow) :
    (s.tokenFreed c tok tk how).closed c tok tk (if how == .ecc then .withdrawn else .free) := by
  refine (s.freeToken_closes ht _).of_tokens ?_
  rw [State.tokenFreed, State.ni_modNi_same]
  split <;> rfl

theorem State.chans_tokenFreed (how : CloseHow) : ((s.tokenFreed c tok tk how).ni c).chans = (s.ni c).chans := by
  rw [State.tokenFreed, State.ni_modNi_same, State.freeToken, State.ni_modCellRegs, State.ni_modNi_same]
  split <;> rfl

theorem State.within_tokenFreed (how : CloseHow) : s.Within (s.tokenFreed c tok tk how) c :=
  ((s.within_modCell c _).trans (State.within_modCell _ c _)).trans (State.within_modCell _ c _)

theorem State.regs_tokenFreed (how : CloseHow) : ((s.tokenFreed c tok tk how).cell c).regs = (s.cell c).regs.addWrap NI_BAL_TOK_closed 1 := by
  rw [State.tokenFreed, State.regs_modNi, State.freeToken, State.modCellRegs, State.cell_modCell_same, State.regs_modNi]

include ht ho hu

/-- How a message token of no descriptor closes: its channel learns how (R141, R143, R160). -/
theorem State.closeToken_msg (how : CloseHow) (reason detail : Nat) :
    ∃ peer, s.closeToken c tok how reason detail =
      match how with
      | .nack => ((s.tokenFreed c tok tk .nack).record c ch (Machine.recordOf 5 tk peer reason detail false)).nackRun c ch tk (reason % 16) detail
      | .policed => ((s.tokenFreed c tok tk .policed).record c ch (Machine.recordOf 5 tk peer reason detail false)).nackRun c ch tk (reason % 16) detail
      | .abandon => (s.tokenFreed c tok tk .abandon).record c ch (Machine.recordOf 6 tk peer 0 0 false)
      | .ecc => (s.tokenFreed c tok tk .ecc).record c ch (Machine.recordOf 6 tk peer 0 0 true)
      | how => (s.tokenFreed c tok tk how).modNi c fun x => x.modChan ch fun k =>
          { k with e := { k.e with nackRun := 0 }, rx := { k.rx with storm := false } } := by
  unfold State.closeToken
  simp only [ht, ho, hu, Bool.not_true, Bool.false_eq_true, if_false]
  refine ⟨((aget ((s.tokenFreed c tok tk how).ni c).chans ch).map (·.e.peer)).getD 0, ?_⟩
  cases how <;> rfl

end close

/-! ## Records leave the counts of tokens (R143, R155) -/

/-- The registers that a record of a status queue writes in part 0 of a cell: entries taken, records lost. -/
def recordRegs : List Nat := [NI_BAL_QUE2_take_total.off, NI_MSG_STAT_rec_lost.off]

theorem State.cget_record (s : State) (c ch : Nat) {e : QEntry} (hk : ¬(e.kind = 2 ∨ (e.kind = 3 ∧ e.handler ≠ 0))) {f : Field}
    (h0 : f.off < 0x4800) (hf : f.off ∉ recordRegs) : (s.record c ch e).cget c f = s.cget c f := by
  simp only [recordRegs, List.mem_cons, List.not_mem_nil, or_false, not_or] at hf
  obtain ⟨htake, hlost⟩ := hf
  unfold State.record
  split
  · rfl
  · dsimp only
    split
    · obtain ⟨n, hn⟩ := (s.takeEntry c).regs_visible c _ (e := { e with channel := BitVec.ofNat 12 ch }) hk
      rw [State.pushEntry, State.cget, hn, Regs.get_depthHw _ _ h0, State.takeEntry, State.modCellRegs, State.cell_modCell_same, Regs.addWrap]
      exact Regs.get_set_ne _ _ _ _ (by decide) (.inl (Ne.symm htake))
    · rw [State.cget, State.regs_bump]
      exact Regs.get_bump_ne _ _ _ (by decide) (.inl (Ne.symm hlost))

/-! ## What closes a token (R141, R142) -/

section tokens

variable {s : State} {c tok : Nat} {tk : Token} {ch : Nat} {pc : BitVec 12} {k : Chan} (hc : cellOk c = true)

/-- An ACK acts on the multiplier of its channel alone (R205). -/
theorem State.ackMult_keeps (s : State) (c ch : Nat) (echo : Bool) :
    s.Within (s.ackMult c ch echo) c ∧ ((s.ackMult c ch echo).ni c).tokens = (s.ni c).tokens ∧
    ∀ k, aget (s.ni c).chans ch = some k → ∃ y, aget ((s.ackMult c ch echo).ni c).chans ch = some y ∧ y.e.txSeq = k.e.txSeq := by
  unfold State.ackMult
  extract_lets r
  split
  · exact ⟨.refl s c, rfl, fun k hk => ⟨k, hk, rfl⟩⟩
  next k hk =>
    split
    · exact ⟨.refl s c, rfl, fun k hk => ⟨k, hk, rfl⟩⟩
    extract_lets a u
    have hw : s.Within u c := s.within_modCell c _
    have ht : (u.ni c).tokens = (s.ni c).tokens := by rw [State.ni_modNi_same, Ni.modChan_tokens]
    have hch (j : Chan) (hj : aget (s.ni c).chans ch = some j) : ∃ y, aget (u.ni c).chans ch = some y ∧ y.e.txSeq = j.e.txSeq := by
      rw [State.ni_modNi_same]
      exact ⟨_, Ni.aget_modChan_same hj _, rfl⟩
    clear_value u
    split
    · exact ⟨hw.trans (u.within_modCell c _), by rw [State.ni_bump, ht], by rwa [State.ni_bump]⟩
    · exact ⟨hw, ht, hch⟩

theorem State.recorded_countEcho (s : State) (c : Nat) (p : Packet) : s.Recorded (s.countEcho c p) c := by
  unfold State.countEcho
  split
  · exact s.recorded_bump c _
  · exact .refl s c

include hc

theorem ackEject_closes (hch : aget (s.ni c).chans ch = some k) {p : Packet} (hr : s.receives c .reply p) (hp : p.type = tACK)
    (ha : (s.ni c).ackToken p.chanTree.toNat (p.seq.toNat % 256) = some (tok, tk)) (hg : tk.gen.toNat = p.seq.toNat / 256)
    (htok : aget (s.ni c).tokens tok = some tk) (ho : tk.isOpen = true) (hu : tk.use = .msg ch pc none) :
    completes (.ackEject c) s fun t =>
      t.closed c tok tk .free ∧ (∃ y, aget (t.ni c).chans ch = some y ∧ y.e.nackRun = 0 ∧ y.e.txSeq = k.e.txSeq) ∧ s.onlyCell t c := by
  have hchan : p.chanTree.toNat = ch := by
    have := List.find?_some ha
    simp only [hu, Bool.and_eq_true, beq_iff_eq] at this
    exact this.2.symm
  let u := (s.ejectTaken c tACK).countEcho c p
  have hsu : s.Recorded u c := (s.recorded_ejectTaken c tACK).trans (State.recorded_countEcho _ c p)
  have hau : (u.ni c).ackToken p.chanTree.toNat (p.seq.toNat % 256) = some (tok, tk) := by
    rw [Ni.ackToken, hsu.tokens]
    exact ha
  let v := u.tagRx c (u.rxTag c p)
  have hsv : s.Recorded v c := hsu.trans (u.recorded_tagRx c _)
  have hev : exec (.ackEject c) s = onUnit (Instr.ackEject c).wf s ((v.ackMult c p.chanTree.toNat (p.echo == 1)).closeToken c tok .ack 0 0) := by
    simp only [exec, execAckEject, State.ejectType_receives hr hp]
    rw [← show u = (s.ejectTaken c tACK).countEcho c p from rfl, hau]
    simp only [hg, ne_eq, not_true, if_false]
    rfl
  clear_value v u
  rw [hchan] at hev
  obtain ⟨hw, ht, hy⟩ := v.ackMult_keeps c ch (p.echo == 1)
  obtain ⟨y, hy, hseq⟩ := hy k (by rw [hsv.ni.chans, hch])
  generalize v.ackMult c ch (p.echo == 1) = w at hev hw ht hy
  have htw : aget (w.ni c).tokens tok = some tk := by rw [ht, hsv.tokens, htok]
  obtain ⟨peer, hclose⟩ := State.closeToken_msg htw ho hu .ack 0 0
  refine completes_next _ hev hc hclose ⟨?_, ?_, ?_⟩
  · refine (State.tokenFreed_closes htw .ack).of_tokens ?_
    rw [State.keeping_ni, State.ni_modNi_same, Ni.modChan_tokens]
  · rw [State.keeping_ni, State.ni_modNi_same]
    exact ⟨_, Ni.aget_modChan_same (by rw [State.chans_tokenFreed, hy]) _, rfl, hseq⟩
  · exact (((hsv.toWithin.trans hw).trans (w.within_tokenFreed .ack)).trans (State.within_modCell _ c _)).only

theorem nackEject_closes (hch : aget (s.ni c).chans ch = some k) {p : Packet} (hr : s.receives c .reply p) (hp : p.type = tNACK) (hcls : p.cls = 2)
    (ha : (s.ni c).nackToken p.chanTree.toNat (p.seq.toNat % 256) = some (tok, tk)) (hg : tk.gen.toNat = p.seq.toNat / 256)
    (hstorm : k.e.stormLimit = 0) (htok : aget (s.ni c).tokens tok = some tk) (ho : tk.isOpen = true) (hu : tk.use = .msg ch pc none) :
    completes (.nackEject c) s fun t =>
      t.closed c tok tk .free ∧ (∃ y, aget (t.ni c).chans ch = some y ∧ y.e.nackRun.toNat = min (k.e.nackRun.toNat + 1) 255) ∧ s.onlyCell t c := by
  let w := s.ejectTaken c tNACK
  let u := if reservedReason (p.pl 0 1 % 16) then w.bump c NI_TOK_STAT_bad_reason else w
  have hsu : s.Recorded u c := by
    simp only [u]
    split
    · exact (s.recorded_ejectTaken c tNACK).trans (State.recorded_bump _ c _)
    · exact s.recorded_ejectTaken c tNACK
  have hau : (u.ni c).nackToken p.chanTree.toNat (p.seq.toNat % 256) = some (tok, tk) := by
    rw [Ni.nackToken, hsu.tokens]
    exact ha
  let v := u.tagRx c (u.rxTag c p)
  have hsv : s.Recorded v c := hsu.trans (u.recorded_tagRx c _)
  have hev : exec (.nackEject c) s = onUnit (Instr.nackEject c).wf s (v.closeToken c tok .nack (p.pl 0 1 % 16) (p.pl 4 4)) := by
    simp only [exec, execNackEject, State.ejectType_receives hr hp, hcls, if_true]
    rw [← show u = if reservedReason (p.pl 0 1 % 16) then w.bump c NI_TOK_STAT_bad_reason else w from rfl, hau]
    simp only [hg, ne_eq, not_true, if_false]
    rfl
  clear_value v u
  have htv : aget (v.ni c).tokens tok = some tk := by rw [hsv.tokens, htok]
  obtain ⟨peer, hclose⟩ := State.closeToken_msg htv ho hu .nack (p.pl 0 1 % 16) (p.pl 4 4)
  let x := v.tokenFreed c tok tk .nack
  have hrec := x.recorded_record c ch (Machine.recordOf 5 tk peer (p.pl 0 1 % 16) (p.pl 4 4) false)
  have hchx : aget (x.ni c).chans ch = some k := by rw [State.chans_tokenFreed, hsv.ni.chans, hch]
  have hclosed : x.closed c tok tk .free := State.tokenFreed_closes htv .nack
  have hin : s.Within x c := hsv.toWithin.trans (v.within_tokenFreed .nack)
  dsimp only at hclose
  rw [show v.tokenFreed c tok tk .nack = x from rfl] at hclose
  clear_value x
  generalize x.record c ch (Machine.recordOf 5 tk peer (p.pl 0 1 % 16) (p.pl 4 4) false) = y at hclose hrec
  have hchy : aget (y.ni c).chans ch = some k := by rw [hrec.ni.chans, hchx]
  have hrun : y.nackRun c ch tk (p.pl 0 1 % 16 % 16) (p.pl 4 4) = y.modNi c fun x => x.modChan ch fun k' =>
      { k' with e := { k'.e with nackRun := BitVec.ofNat 8 (min (k.e.nackRun.toNat + 1) 255) } } := by
    simp only [State.nackRun, hchy, hstorm, bne_self_eq_false, Bool.false_and, Bool.false_eq_true, if_false]
  refine completes_next _ hev hc (hclose.trans hrun) ⟨?_, ?_, ((hin.trans hrec.toWithin).trans (State.within_modCell _ c _)).only⟩
  · refine (hclosed.of_tokens hrec.tokens).of_tokens ?_
    rw [State.keeping_ni, State.ni_modNi_same, Ni.modChan_tokens]
  · rw [State.keeping_ni, State.ni_modNi_same]
    refine ⟨_, Ni.aget_modChan_same hchy _, ?_⟩
    rw [BitVec.toNat_ofNat]
    exact Nat.mod_eq_of_lt (Nat.lt_of_le_of_lt (Nat.min_le_right _ _) (by decide))

variable (htok : aget (s.ni c).tokens tok = some tk) (hok : tokenOk tok = true) (hu : tk.use = .msg ch pc none)
include htok hok hu

theorem retransmitTimeout_resends (hst : tk.st = .inflight) (hretx : tk.retx ≠ 0) (hx : expired s.now tk.start tk.retx = true) :
    completes (.retransmitTimeout c tok .none) s fun t =>
      aget (t.ni c).tokens tok = some { tk with st := .resent, again := true } ∧ (∀ j, j ≠ tok → aget (t.ni c).tokens j = aget (s.ni c).tokens j) ∧
      t.out = s.out ∧ s.onlyCell t c := by
  refine completes_onUnit (t := s.modNi c fun x => { x with tokens := aput x.tokens tok { tk with st := .resent, again := true } }) ?_
    (by simp [Instr.wf, hc, hok]) ⟨?_, fun j hj => ?_, rfl, (s.within_modCell c _).only⟩
  · simp [exec, execRetransmitTimeout, htok, hu, hst, hretx, hx, readWith, State.storeRead]
  · rw [State.keeping_ni, State.ni_modNi_same]
    exact aget_aput_same ..
  · rw [State.keeping_ni, State.ni_modNi_same]
    exact aget_aput_ne _ _ (Ne.symm hj)

theorem abandonTimeout_closes (ho : tk.isOpen = true) (hst : tk.st = .inflight ∨ tk.st = .resent) (hx : expired s.now tk.start tk.abandon = true) :
    completes (.abandonTimeout c tok) s fun t =>
      t.closed c tok tk .free ∧ (s.cell c).regs.counted (t.cell c).regs NI_TOK_STAT_abandoned ∧ s.onlyCell t c := by
  obtain ⟨peer, hclose⟩ := State.closeToken_msg htok ho hu .abandon 0 0
  dsimp only at hclose
  let u := s.tokenFreed c tok tk .abandon
  rw [show s.tokenFreed c tok tk .abandon = u from rfl] at hclose
  have hrec := u.recorded_record c ch (Machine.recordOf 6 tk peer 0 0 false)
  have hget : (u.record c ch (Machine.recordOf 6 tk peer 0 0 false)).cget c NI_TOK_STAT_abandoned = s.cget c NI_TOK_STAT_abandoned := by
    have hkind : (Machine.recordOf 6 tk peer 0 0 false).kind = 6 := rfl
    rw [State.cget_record _ _ _ (by rw [hkind]; simp) (by decide) (by decide), State.cget, State.regs_tokenFreed, Regs.addWrap]
    exact Regs.get_set_ne _ _ _ _ (by decide) (by decide)
  have hclosed : u.closed c tok tk .free := State.tokenFreed_closes htok .abandon
  have hin : s.Within u c := s.within_tokenFreed .abandon
  clear_value u
  generalize u.record c ch (Machine.recordOf 6 tk peer 0 0 false) = v at hclose hrec hget
  refine completes_onUnit (t := v.bump c NI_TOK_STAT_abandoned) ?_ (by simp [Instr.wf, hc, hok]) ⟨?_, ?_, ?_⟩
  · have hopen : (tk.st == .inflight || tk.st == .resent) = true := by rcases hst with h | h <;> simp [h]
    simp only [exec, execAbandonTimeout, htok, hopen, hx, Bool.not_true, Bool.or_self, Bool.false_eq_true, if_false]
    exact congrArg (fun w : State => onUnit _ s (w.bump c NI_TOK_STAT_abandoned)) hclose
  · refine (hclosed.of_tokens hrec.tokens).of_tokens ?_
    rw [State.keeping_ni, State.ni_bump]
  · have hcnt := v.counted_bump c NI_TOK_STAT_abandoned (by decide)
    rw [Regs.counted] at hcnt ⊢
    rw [State.keeping_cell, hcnt]
    exact congrArg (fun n => min (n + 1) _) hget
  · exact ((hin.trans hrec.toWithin).trans (State.within_modCell _ c _)).only

theorem tokenStateEccError_withdraws (ho : tk.isOpen = true)
    (hlim : (s.block (blockOf c)).count (storeKey c) + 1 < (s.block (blockOf c)).regs.get BLK_FAULT_CTL_ni_uncorr_limit) :
    completes (.tokenStateEccError c tok) s fun t => t.closed c tok tk .withdrawn ∧ t.cget c CELL_FAULT_ni_fault = 1 := by
  obtain ⟨peer, hclose⟩ := State.closeToken_msg htok ho hu .ecc 0 0
  have hblock : (s.closeToken c tok .ecc 0 0).block (blockOf c) = s.block (blockOf c) := (s.steady_closeToken c tok (.inr rfl)).toWithin.block _
  have hclosed : (s.closeToken c tok .ecc 0 0).closed c tok tk .withdrawn := by
    rw [hclose]
    exact (State.tokenFreed_closes htok .ecc).of_tokens (State.recorded_record _ c ch _).tokens
  obtain ⟨hni, hfault⟩ := State.storeError_below (s := s.closeToken c tok .ecc 0 0) 3 (by rwa [hblock])
  refine completes_onUnit (t := (s.closeToken c tok .ecc 0 0).storeError c 3 true) ?_ (by simp [Instr.wf, hc, hok])
    ⟨hclosed.of_tokens (congrArg Ni.tokens hni), hfault⟩
  simp [exec, execTokenStateEccError, htok, ho]

end tokens

/-- Settles O51, by what closes a token. -/
theorem tokensClose : Obligations.TokensClose := by
  intro s c tok tk ch pc k hc hok htok ho hu hch
  exact ⟨fun p hr hp ha hg => ackEject_closes hc hch hr hp ha hg htok ho hu,
    fun p hr hp hcls ha hg hstorm => nackEject_closes hc hch hr hp hcls ha hg hstorm htok ho hu,
    fun hst hretx hx => retransmitTimeout_resends hc htok hok hu hst hretx hx,
    fun hst hx => abandonTimeout_closes hc htok hok hu ho hst hx,
    fun hlim => tokenStateEccError_withdraws hc htok hok hu ho hlim⟩

end Sys2Proof.Machine

/-! PROOFS. The channels and queues family: what the receive side of a message channel leaves as it was (R145 to R150). -/

namespace Sys2Proof.Machine

/-! ## What a step of the receive side leaves (R145 to R150) -/

/-- Channel ch of cell c is in t as in s but for its message in progress, its timer and its use: its entry and what it holds out of order stay. -/
def State.sameHeld (s t : State) (c ch : Nat) : Prop :=
  ∀ k, aget (s.ni c).chans ch = some k →
    ∃ y, aget (t.ni c).chans ch = some y ∧ y.e = k.e ∧ y.rx.held = k.rx.held ∧ y.rx.arrival = k.rx.arrival

/-- t is s but for what cell c holds, and of that channel ch has the entry and the held packets that it has in s. -/
structure State.Rx (s t : State) (c ch : Nat) : Prop extends s.Within t c where
  held : s.sameHeld t c ch

namespace State.Rx

variable {s t u : State} {c ch : Nat}

theorem of_chans (hw : s.Within t c) (h : (t.ni c).chans = (s.ni c).chans) : s.Rx t c ch :=
  ⟨hw, fun k hk => ⟨k, by rw [h, hk], rfl, rfl, rfl⟩⟩

theorem of_recorded (h : s.Recorded t c) : s.Rx t c ch := .of_chans h.toWithin h.ni.chans

theorem refl (s : State) (c ch : Nat) : s.Rx s c ch := .of_chans (.refl s c) rfl

theorem trans (h : s.Rx t c ch) (k : t.Rx u c ch) : s.Rx u c ch := by
  refine ⟨h.toWithin.trans k.toWithin, fun x hx => ?_⟩
  obtain ⟨y, hy, he, hh, ha⟩ := h.held x hx
  obtain ⟨z, hz, he', hh', ha'⟩ := k.held y hy
  exact ⟨z, hz, he'.trans he, hh'.trans hh, ha'.trans ha⟩

end State.Rx

section rx

variable (s : State) (c ch : Nat)

theorem State.rx_modRx {f : RxState → RxState} (hh : ∀ r, (f r).held = r.held) (ha : ∀ r, (f r).arrival = r.arrival) : s.Rx (s.modRx c ch f) c ch := by
  refine ⟨s.within_modCell c _, fun k hk => ?_⟩
  rw [State.modRx, State.ni_modNi_same]
  exact ⟨_, Ni.aget_modChan_same hk _, rfl, hh _, ha _⟩

/-- An answer changes no unit but the cell, and of it no NI. -/
theorem State.answer_keeps (a : Packet) : s.Within (s.answer c a) c ∧ (s.answer c a).ni c = s.ni c := by
  unfold State.answer
  split
  · exact ⟨s.within_modCell c _, s.ni_modRt c c _⟩
  · exact ⟨s.within_modCell c _, s.ni_bump c c _⟩

theorem State.rx_answer (a : Packet) : s.Rx (s.answer c a) c ch := by
  obtain ⟨hw, hni⟩ := s.answer_keeps c a
  exact .of_chans hw (congrArg Ni.chans hni)

theorem State.rx_nack (p : Packet) (reason detail : Nat) : s.Rx (s.nack c p reason detail) c ch := by
  unfold State.nack
  split
  · exact s.rx_answer c ch _
  · exact .refl s c ch

theorem State.rx_ackMsg (k : Chan) (p : Packet) : s.Rx (s.ackMsg c k p) c ch :=
  (s.rx_answer c ch _).trans (.of_recorded (State.recorded_tagRx _ c _))

theorem State.rx_failMsg : s.Rx (s.failMsg c ch) c ch := by
  unfold State.failMsg
  split
  · exact .refl s c ch
  · split
    · exact .refl s c ch
    · refine State.Rx.trans ?_ (.of_recorded (State.recorded_pushReserved _ c _ _))
      exact s.rx_modRx c ch (fun _ => rfl) (fun _ => rfl)

theorem State.rx_ringPlace (q L : Nat) : s.Rx (s.ringPlace c q ch L).1 c ch := by
  unfold State.ringPlace
  extract_lets S n x
  split
  · exact .refl s c ch
  · refine .of_chans (s.within_modCell c _) ?_
    rw [State.ni, State.cell_modCell_same]
    rfl

theorem State.rx_ringWrite (q off : Nat) (bs : List Byte) : s.Rx (s.ringWrite c q off bs) c ch := by
  refine .of_chans (s.within_modCell c _) ?_
  rw [State.ni, State.ringWrite, State.cell_modCell_same]
  rfl

theorem State.rx_writeBody (n : Nat) (p : Packet) : s.Rx (s.writeBody c ch n p) c ch := by
  unfold State.writeBody
  split
  · exact .refl s c ch
  split
  · exact .refl s c ch
  next x _ _ m _ =>
    extract_lets bs u m' v
    have hu : s.Rx u c ch := by
      simp only [u]
      split
      · exact s.rx_ringWrite c ch _ _ _
      · exact .refl s c ch
    clear_value u
    split
    · refine State.Rx.trans (hu.trans ?_) (.of_recorded (State.recorded_pushReserved _ c _ _))
      exact u.rx_modRx c ch (fun _ => rfl) (fun _ => rfl)
    · exact hu.trans (u.rx_modRx c ch (fun _ => rfl) (fun _ => rfl))

theorem State.rx_procMsg (k : Chan) (p : Packet) : s.Rx (s.procMsg c ch k p) c ch := by
  unfold State.procMsg
  extract_lets n h q
  split
  · exact (State.Rx.of_recorded (s.recorded_pushEntry c _ _)).trans (State.rx_ackMsg _ c ch k p)
  · exact s.rx_nack c ch p _ _

theorem State.rx_procHead (k : Chan) (p : Packet) : s.Rx (s.procHead c ch k p) c ch := by
  unfold State.procHead
  extract_lets L h q data n refuse placed r
  have hrefuse (reason detail : Nat) : s.Rx (refuse s reason detail) c ch := by
    refine State.Rx.trans ?_ (State.rx_nack _ c ch p _ _)
    exact s.rx_modRx c ch (fun _ => rfl) (fun _ => rfl)
  have hplaced (u : State) (off : Option Nat) : u.Rx (placed u off) c ch := by
    have hq : u.Rx ((u.takeEntry c).modNi c fun x => x.modQueue q fun z => { z with reserved := z.reserved + 1 }) c ch :=
      .of_recorded ((u.recorded_modCellRegs c _).trans (State.recorded_modQueue _ c _ _))
    refine State.Rx.trans (hq.trans ?_) (State.rx_ackMsg _ c ch k p)
    exact State.rx_modRx _ c ch (fun _ => rfl) (fun _ => rfl)
  have hr : s.Rx r.1 c ch := s.rx_ringPlace c ch q L
  clear_value refuse placed r
  split
  · exact s.rx_nack c ch p _ _
  split
  · exact hrefuse _ _
  split
  · exact (State.Rx.of_recorded (s.recorded_pushEntry c _ _)).trans (State.rx_ackMsg _ c ch k p)
  split
  · exact hplaced s _
  split
  · exact hrefuse _ _
  · exact (hr.trans (r.1.rx_ringWrite c ch _ _ _)).trans (hplaced _ _)

theorem State.rx_procBody (k : Chan) (p : Packet) : s.Rx (s.procBody c ch k p) c ch := by
  unfold State.procBody
  split
  · split
    · exact (s.rx_writeBody c ch _ p).trans (State.rx_ackMsg _ c ch k p)
    · exact (s.rx_failMsg c ch).trans (State.rx_nack _ c ch p _ _)
  · split
    · refine State.Rx.trans ?_ (State.rx_nack _ c ch p _ _)
      exact s.rx_modRx c ch (fun _ => rfl) (fun _ => rfl)
    · split
      · refine State.Rx.trans ?_ (State.rx_nack _ c ch p _ _)
        exact s.rx_modRx c ch (fun _ => rfl) (fun _ => rfl)
      · exact s.rx_nack c ch p _ _

end rx

/-! ## The number expected advances (R147) -/

section advance

variable {s : State} {c ch : Nat} {k : Chan}

theorem State.advanceE_chan (h : aget (s.ni c).chans ch = some k) :
    ∃ r g, aget ((s.advanceE c ch).ni c).chans ch = some { k with
      e := { k.e with rxExpect := k.e.rxExpect + 1 }
      rx := { k.rx with placed := k.rx.placed.map fun m => { m with next := m.next + 1 }, refused := r, gap := g } } := by
  rw [State.advanceE, State.ni_modNi_same, Ni.aget_modChan_same h]
  exact ⟨_, _, rfl⟩

/-- What a packet at d = 0 does, before the number advances, keeps the channel's entry and what it holds (R147). -/
theorem State.process_rx (h : aget (s.ni c).chans ch = some k) (p : Packet) : ∃ v, s.process c ch p = v.advanceE c ch ∧ s.Rx v c ch := by
  unfold State.process
  rw [h]
  refine ⟨_, rfl, ?_⟩
  split
  · exact s.rx_procBody c ch k p
  split
  · exact (s.rx_failMsg c ch).trans (State.rx_nack _ c ch p _ _)
  · extract_lets u
    have hu : s.Rx u c ch := s.rx_modRx c ch (fun _ => rfl) (fun _ => rfl)
    split
    · exact hu.trans (u.rx_procMsg c ch k p)
    · exact hu.trans (u.rx_procHead c ch k p)

/-- After a packet at d = 0 the channel expects the next number and holds what it held (R147). -/
theorem State.process_advances (h : aget (s.ni c).chans ch = some k) (p : Packet) :
    s.Within (s.process c ch p) c ∧ ∃ y, aget ((s.process c ch p).ni c).chans ch = some y ∧
      y.e = { k.e with rxExpect := k.e.rxExpect + 1 } ∧ y.rx.held = k.rx.held ∧ y.rx.arrival = k.rx.arrival := by
  obtain ⟨v, hp, hv⟩ := State.process_rx h p
  obtain ⟨y, hy, he, hh, ha⟩ := hv.held k h
  obtain ⟨r, g, hadv⟩ := State.advanceE_chan hy
  rw [hp]
  exact ⟨hv.toWithin.trans (State.within_modCell _ c _), _, hadv, by rw [he], hh, ha⟩

end advance

end Sys2Proof.Machine

/-! PROOFS. The channels and queues family: messages in their order (R141 to R150, R155, R158, R159). -/

namespace Sys2Proof.Machine

/-! ## Room in a queue (R154) -/

theorem Cell.canTake_congr {x y : Cell} (hr : x.regs = y.regs) (hq : x.ni.queues = y.ni.queues) (q : Nat) : x.canTake q = y.canTake q := by
  have hqueue (j : Nat) : x.ni.queue j = y.ni.queue j := by rw [Ni.queue, hq, ← Ni.queue]
  have hpool : x.ni.poolTaken = y.ni.poolTaken := by rw [Ni.poolTaken, hq, ← Ni.poolTaken]
  have hshared : x.sharedFree = y.sharedFree := by simp only [Cell.sharedFree, hpool, hr, hqueue]
  unfold Cell.canTake
  rw [hr, hpool, hshared, hqueue]

/-! ## A packet in its turn (R145 to R147) -/

/-- t is s but for what cell c holds, and of that the registers, the queues and the router are as they were. -/
structure State.Calm (s t : State) (c : Nat) : Prop extends s.Within t c where
  regs : (t.cell c).regs = (s.cell c).regs
  queues : (t.ni c).queues = (s.ni c).queues
  rt : t.rt c = s.rt c

namespace State.Calm

variable {s t u : State} {c : Nat}

theorem trans (h : s.Calm t c) (k : t.Calm u c) : s.Calm u c :=
  ⟨h.toWithin.trans k.toWithin, k.regs.trans h.regs, k.queues.trans h.queues, k.rt.trans h.rt⟩

theorem of_modNi (s : State) (c : Nat) {f : Ni → Ni} (h : (f (s.ni c)).queues = (s.ni c).queues) : s.Calm (s.modNi c f) c :=
  ⟨s.within_modCell c _, by rw [State.regs_modNi], by rw [State.ni_modNi_same, h], s.rt_modNi c c f⟩

theorem queue (h : s.Calm t c) (q : Nat) : (t.ni c).queue q = (s.ni c).queue q := by rw [Ni.queue, h.queues, ← Ni.queue]

theorem canTake (h : s.Calm t c) (q : Nat) : (t.cell c).canTake q = (s.cell c).canTake q := Cell.canTake_congr h.regs h.queues q

theorem answerFree (h : s.Calm t c) : t.answerFree c = s.answerFree c := by rw [State.answerFree, h.rt, ← State.answerFree]

end State.Calm

section turn

variable {s : State} {c ch : Nat} {k : Chan}

theorem State.calm_modRx (s : State) (c ch : Nat) (f : RxState → RxState) : s.Calm (s.modRx c ch f) c := .of_modNi s c (Ni.modChan_queues ..)

theorem State.calm_touchChan (s : State) (c ch : Nat) : s.Calm (s.touchChan c ch) c := .of_modNi s c (Ni.modChan_queues ..)

theorem State.calm_ejectTaken (s : State) (c : Nat) (t : BitVec 4) : s.Calm (s.ejectTaken c t) c := .of_modNi s c rfl

theorem State.calm_advanceE (s : State) (c ch : Nat) : s.Calm (s.advanceE c ch) c := .of_modNi s c (Ni.modChan_queues ..)

theorem State.calm_armGap (s : State) (c ch : Nat) : s.Calm (s.armGap c ch) c := by
  unfold State.armGap
  exact .of_modNi s c (Ni.modChan_queues _ _ _)

theorem State.modRx_chan (h : aget (s.ni c).chans ch = some k) (f : RxState → RxState) :
    aget ((s.modRx c ch f).ni c).chans ch = some { k with rx := f k.rx } := by
  rw [State.modRx, State.ni_modNi_same]
  exact Ni.aget_modChan_same h _

theorem State.touchChan_chan (h : aget (s.ni c).chans ch = some k) :
    ∃ n, aget ((s.touchChan c ch).ni c).chans ch = some { k with used := n } := by
  rw [State.touchChan, State.ni_modNi_same]
  exact ⟨_, Ni.aget_modChan_same h _⟩

/-- An ACK enters an answer queue that has room (R54, R70). -/
theorem State.ackMsg_answers (h : s.answerFree c = true) (p : Packet) :
    s.Within (s.ackMsg c k p) c ∧ (s.ackMsg c k p).ni c = s.ni c ∧ ((s.ackMsg c k p).rt c).answers = (s.rt c).answers ++ [ackFor p k.e.peerChan] := by
  have ha : s.answer c (ackFor p k.e.peerChan) = s.modRt c fun r =>
      { r with answers := r.answers ++ [ackFor p k.e.peerChan], ansSince := if r.answers.isEmpty then s.ncyc else r.ansSince } := by
    rw [State.answer, h, if_pos rfl]
  refine ⟨?_, ?_, ?_⟩
  · rw [State.ackMsg, ha]
    exact (s.within_modCell c _).trans (State.within_modCell _ c _)
  · rw [State.ackMsg, ha, State.tagRx, State.ni_modCellRegs, State.ni_modRt]
  · rw [State.ackMsg, ha, State.tagRx, State.rt_modCellRegs, State.rt_modRt_same]

/-- After the number advances with nothing held, only the gap timer is looked at (R147, R150). -/
theorem State.advance_settles (h : aget (s.ni c).chans ch = some k) (ha : k.rx.arrival = []) (hh : k.rx.held = []) :
    s.Calm ((s.advanceE c ch).settleRx c ch) c ∧ ∃ r g, aget (((s.advanceE c ch).settleRx c ch).ni c).chans ch = some { k with
      e := { k.e with rxExpect := k.e.rxExpect + 1 }
      rx := { k.rx with placed := k.rx.placed.map fun m => { m with next := m.next + 1 }, refused := r, gap := g } } := by
  obtain ⟨r, g, hadv⟩ := State.advanceE_chan h
  rw [State.settleRx_quiet hadv ha hh]
  obtain ⟨g', harm⟩ := State.armGap_chan hadv
  exact ⟨(s.calm_advanceE c ch).trans (State.calm_armGap _ c ch), r, g', harm⟩

/-- A packet in its turn is processed at once (R145, R146). -/
theorem State.ejectMsg_inOrder {p : Packet} (h : s.inOrder c k p) : ∃ n,
    aget ((s.touchChan c p.chanTree.toNat).ni c).chans p.chanTree.toNat = some { k with used := n } ∧
    s.ejectMsg c p = ((s.touchChan c p.chanTree.toNat).process c p.chanTree.toNat p).settleRx c p.chanTree.toNat := by
  obtain ⟨hk, hopen, hchip, hcell, hpar, hseq, -, -⟩ := h
  obtain ⟨n, hn⟩ := State.touchChan_chan hk
  refine ⟨n, hn, ?_⟩
  have hd : ((p.seq.setWidth 8 : BitVec 8) - k.e.rxExpect).toNat = 0 := by rw [hseq, BitVec.sub_self]; rfl
  rw [State.ejectMsg, hk, Option.isSome_some, if_pos rfl, State.arriveMsg, hk]
  dsimp only
  rw [if_neg (not_not_intro hopen), if_neg (by simp [hchip, hcell]), if_neg (not_not_intro hpar), if_pos hd]

end turn

theorem inOrder_ejectTaken {s : State} {c : Nat} {k : Chan} {p : Packet} (h : s.inOrder c k p) (t : BitVec 4) : (s.ejectTaken c t).inOrder c k p := by
  unfold State.inOrder at h ⊢
  rw [State.ejectTaken, State.ni_modNi_same]
  exact h

/-- What one of the three message types in its turn does: the channel is touched, the packet processed, the number advances. -/
theorem State.eject_processes {s : State} {c : Nat} {k : Chan} {p : Packet} (hr : s.receives c .request p) (ho : s.inOrder c k p) {t : BitVec 4}
    (ht : p.type = t) : ∃ (u : State) (n : Nat), s.Calm u c ∧ aget (u.ni c).chans p.chanTree.toNat = some { k with used := n } ∧
      s.ejectType c t (fun _ p s => s.ejectMsg c p) = (u.process c p.chanTree.toNat p).settleRx c p.chanTree.toNat := by
  obtain ⟨n, hn, he⟩ := State.ejectMsg_inOrder (inOrder_ejectTaken ho t)
  exact ⟨_, n, (s.calm_ejectTaken c t).trans (State.calm_touchChan _ c _), hn, (State.ejectType_receives hr ht _).trans he⟩

section process

variable {s : State} {c ch : Nat} {k : Chan} {p : Packet}

theorem State.process_msg (h : aget (s.ni c).chans ch = some k) (hp : k.rx.placed = none) (ht : p.type = tMSG) :
    s.process c ch p = ((s.modRx c ch fun r => { r with refused := none, skipped := false }).procMsg c ch k p).advanceE c ch := by
  simp only [State.process, h, ht, hp, Option.isSome_none, Bool.false_eq_true, if_false, if_true]
  rfl

theorem State.process_head (h : aget (s.ni c).chans ch = some k) (hp : k.rx.placed = none) (ht : p.type = tMSG_HEAD) :
    s.process c ch p = ((s.modRx c ch fun r => { r with refused := none, skipped := false }).procHead c ch k p).advanceE c ch := by
  simp only [State.process, h, ht, hp, Option.isSome_none, Bool.false_eq_true, if_false]
  rfl

theorem State.process_body (h : aget (s.ni c).chans ch = some k) (ht : p.type = tMSG_BODY) :
    s.process c ch p = (s.procBody c ch k p).advanceE c ch := by
  simp only [State.process, h, ht, if_true]

end process
/-! ## Message packets in their turn (R147) -/

section message

variable {s : State} {c : Nat} {k : Chan} {p : Packet} (hc : cellOk c = true) (hr : s.receives c .request p) (ho : s.inOrder c k p)

/-- A TUPLE's length leaves a handler that is not zero (R52). -/
theorem handler_ne_zero (hl : pktLegal p .request = true) (ht : p.type = tMSG) (h8 : p.length.toNat % 8 ≠ 0) :
    BitVec.ofNat 12 (p.pl (8 * (p.length.toNat / 8)) 2) ≠ 0 := by
  have hlen : lengthLegal p = true := (Bool.and_eq_true_iff.1 hl).2
  have htype : p.type.toNat = 1 := by rw [ht]; rfl
  simp only [lengthLegal, htype, Bool.or_eq_true, Bool.and_eq_true, beq_iff_eq, decide_eq_true_eq, bne_iff_ne] at hlen
  rcases hlen with ⟨⟨h0, -⟩, -⟩ | ⟨⟨⟨h2, -⟩, htop⟩, hne⟩
  · exact absurd h0 h8
  · have hpos : 8 * (p.length.toNat / 8) = p.length.toNat - 2 := by omega
    have hlt : p.pl (p.length.toNat - 2) 2 < 2 ^ 16 := bits_lt _ _ _
    rw [hpos]
    intro hz
    have hmod : p.pl (p.length.toNat - 2) 2 % 2 ^ 12 = 0 := (BitVec.toNat_ofNat _ _).symm.trans (congrArg BitVec.toNat hz)
    rw [bits] at htop
    omega

/-- What has been pushed and acknowledged stands when the number has advanced. -/
theorem State.pushed_settles {u v : State} {ch q : Nat} {i j : Chan} {e : QEntry} (hi : i.e = k.e) (hu : s.Calm u c) (hj : aget (u.ni c).chans ch = some j)
    (he : j.e = k.e) (hp : j.rx.placed = none) (ha : j.rx.arrival = []) (hh : j.rx.held = []) (hfree : s.answerFree c = true)
    (hv : u.Recorded v c) (hents : ((v.ni c).queue q).ents = ((u.ni c).queue q).ents ++ [e]) {P : QEntry → Prop} (hP : P e) :
    let t := ((v.ackMsg c i p).advanceE c ch).settleRx c ch
    s.queued t c q P ∧ (t.rt c).answers = (s.rt c).answers ++ [ackFor p k.e.peerChan] ∧
    t.expectsNext c ch k 1 ∧ s.onlyCell t c := by
  have hvfree : v.answerFree c = true := by rw [State.answerFree, hv.rt, hu.rt]; exact hfree
  obtain ⟨hw, hni, hans⟩ := State.ackMsg_answers (k := i) hvfree p
  obtain ⟨hcalm, r, g, hset⟩ := State.advance_settles (s := v.ackMsg c i p) (c := c) (ch := ch) (k := j) (by rw [hni, hv.ni.chans, hj]) ha hh
  refine ⟨⟨e, ?_, hP⟩, ?_, ⟨_, hset, ?_, hh, ?_⟩, (((hu.toWithin.trans hv.toWithin).trans hw).trans hcalm.toWithin).only⟩
  · rw [hcalm.queue, hni, hents, hu.queue]
  · rw [hcalm.rt, hans, hv.rt, hu.rt, hi]
  · rw [he]
    rfl
  · rw [hp]
    rfl

/-- A command that pushes an entry, acknowledges its packet and lets the number advance. -/
theorem completes_pushed {x : Instr} {u v w : State} {ch q : Nat} {i j : Chan} {e : QEntry} {P : QEntry → Prop}
    (hx : exec x s = onUnit x.wf s w) (hwf : x.wf = true) (hw : w = ((v.ackMsg c i p).advanceE c ch).settleRx c ch) (hi : i.e = k.e)
    (hu : s.Calm u c) (hj : aget (u.ni c).chans ch = some j) (he : j.e = k.e) (hp : j.rx.placed = none) (ha : j.rx.arrival = [])
    (hh : j.rx.held = []) (hfree : s.answerFree c = true) (hv : u.Recorded v c)
    (hents : ((v.ni c).queue q).ents = ((u.ni c).queue q).ents ++ [e]) (hP : P e) :
    completes x s fun t =>
      s.queued t c q P ∧ (t.rt c).answers = (s.rt c).answers ++ [ackFor p k.e.peerChan] ∧ t.expectsNext c ch k 1 ∧ s.onlyCell t c := by
  have hset := State.pushed_settles (p := p) hi hu hj he hp ha hh hfree hv hents hP
  rw [← hw] at hset
  exact completes_onUnit hx hwf hset

/-- The entry of a MSG that its queue can take (R52, R147). -/
theorem State.procMsg_pushes {ch : Nat} (hl : pktLegal p .request = true) (ht : p.type = tMSG) (hq : (s.cell c).canTake k.e.rxQueue.toNat = true) :
    ∃ e, s.procMsg c ch k p = (s.pushEntry c k.e.rxQueue.toNat e).ackMsg c k p ∧ e.channel = BitVec.ofNat 12 ch ∧ e.seq = p.seq.setWidth 8 ∧
      e.words = wordsOf (p.plBytes.take (8 * (p.length.toNat / 8))) ∧ e.kind = (if p.length.toNat % 8 = 0 then 1 else 2) := by
  refine ⟨k.tupleEntry ch s.now (p.seq.setWidth 8)
    (if p.length.toNat % 8 = 0 then 0 else BitVec.ofNat 12 (p.pl (8 * (p.length.toNat / 8)) 2)) (p.plBytes.take (8 * (p.length.toNat / 8))) 0,
    ?_, rfl, rfl, rfl, ?_⟩
  · simp only [State.procMsg, hq, if_true]
  · by_cases h8 : p.length.toNat % 8 = 0
    · simp [Chan.tupleEntry, h8]
    · simp only [Chan.tupleEntry, if_neg h8, if_neg (handler_ne_zero hl ht h8)]

/-- The entry of a message whose head holds it all (R53, R147). -/
theorem State.procHead_pushes {ch : Nat} (hq : (s.cell c).canTake k.e.rxQueue.toNat = true) (hL : p.pl 0 3 ≤ 40) (hlast : p.last = 1) :
    ∃ e, s.procHead c ch k p = (s.pushEntry c k.e.rxQueue.toNat e).ackMsg c k p ∧ e.channel = BitVec.ofNat 12 ch ∧ e.seq = p.seq.setWidth 8 ∧
      e.words = wordsOf ((p.plBytes.drop 8).take (p.pl 0 3)) := by
  refine ⟨k.tupleEntry ch s.now (p.seq.setWidth 8) (BitVec.ofNat 12 (p.pl 4 2)) ((p.plBytes.drop 8).take (p.pl 0 3)) (p.pl 0 3), ?_, rfl, rfl, rfl⟩
  have hend : (p.last == 1) = true := by rw [hlast]; rfl
  simp only [State.procHead, hend, hq, hL, decide_true, bne_self_eq_false, Bool.not_true, Bool.false_eq_true, if_false, if_true]

/-- A message of 41 to 48 bytes is placed in a queue entry (R147). -/
theorem State.procHead_places {ch : Nat} (hq : (s.cell c).canTake k.e.rxQueue.toNat = true) (hlo : 40 < p.pl 0 3) (hhi : p.pl 0 3 ≤ 48)
    (hlast : p.last = 0) :
    ∃ m : Placed, s.procHead c ch k p =
      ((((s.takeEntry c).modNi c fun x => x.modQueue k.e.rxQueue.toNat fun z => { z with reserved := z.reserved + 1 }).modRx c ch
        fun r => { r with placed := some m }).ackMsg c k p) ∧
      m.total = p.pl 0 3 ∧ m.packets = 2 ∧ m.wrote = 1 ∧ m.queue = k.e.rxQueue.toNat := by
  have hL : ¬p.pl 0 3 ≤ 40 := Nat.not_le.mpr hlo
  have hend : (p.last == 1) = false := by rw [hlast]; rfl
  refine ⟨⟨p.seq.setWidth 8, p.pl 0 3, 1 + (p.pl 0 3 - 40 + 47) / 48, 0, 1, 40, k.e.rxQueue.toNat, BitVec.ofNat 12 (p.pl 4 2), none,
    p.plBytes.drop 8⟩, ?_, rfl, ?_, rfl, rfl⟩
  · simp only [State.procHead, hend, hq, hL, hhi, decide_false, bne_self_eq_false, Bool.not_true, Bool.false_eq_true, if_false, if_true]
  · show 1 + (p.pl 0 3 - 40 + 47) / 48 = 2
    omega

/-- The last body of a message kept in its entry makes it visible (R147). -/
theorem State.procBody_pushes {ch : Nat} {m : Placed} (hk : aget (s.ni c).chans ch = some k) (hp : k.rx.placed = some m)
    (hfit : m.fits m.next p = true) (hn : m.packets ≤ m.wrote + 1) (hring : m.ringOff = none) :
    ∃ e, s.procBody c ch k p = ((s.modRx c ch fun r => { r with placed := none }).pushReserved c m.queue e).ackMsg c k p ∧
      e.channel = BitVec.ofNat 12 ch ∧ e.seq = m.head ∧ e.words = wordsOf (m.data ++ p.plBytes.take p.length.toNat) := by
  refine ⟨k.tupleEntry ch s.now m.head m.handler (m.data ++ p.plBytes.take p.length.toNat) m.total, ?_, rfl, rfl, rfl⟩
  simp only [State.procBody, State.writeBody, hk, hp, hfit, hring, hn, if_true]
  rfl

include hc hr ho

theorem msgEject_arrives (ht : p.type = tMSG) (hp : k.rx.placed = none) (hq : (s.cell c).canTake k.e.rxQueue.toNat = true) :
    completes (.msgEject c) s fun t =>
      s.queued t c k.e.rxQueue.toNat (fun e => e.channel = p.chanTree ∧ e.seq = p.seq.setWidth 8 ∧
        e.words = wordsOf (p.plBytes.take (8 * (p.length.toNat / 8))) ∧ e.kind = (if p.length.toNat % 8 = 0 then 1 else 2)) ∧
      (t.rt c).answers = (s.rt c).answers ++ [ackFor p k.e.peerChan] ∧ t.expectsNext c p.chanTree.toNat k 1 ∧ s.onlyCell t c := by
  obtain ⟨u, n, hu, hk, hev⟩ := State.eject_processes hr ho ht
  obtain ⟨-, -, -, -, -, hlegal, -, hfree⟩ := hr
  obtain ⟨-, -, -, -, -, -, hheld, harr⟩ := ho
  have hv := hu.trans (u.calm_modRx c p.chanTree.toNat fun r => { r with refused := none, skipped := false })
  have hj := State.modRx_chan hk fun r => { r with refused := none, skipped := false }
  rw [State.process_msg hk hp ht] at hev
  generalize u.modRx c p.chanTree.toNat (fun r => { r with refused := none, skipped := false }) = v at hev hv hj
  obtain ⟨e, hproc, hchan, hseq, hwords, hkind⟩ := State.procMsg_pushes (s := v) (c := c) (k := { k with used := n }) (ch := p.chanTree.toNat)
    hlegal ht (by rw [hv.canTake]; exact hq)
  rw [hproc] at hev
  rw [BitVec.ofNat_toNat, BitVec.setWidth_eq] at hchan
  exact completes_pushed rfl hc hev rfl hv hj rfl hp harr hheld hfree (v.recorded_pushEntry c _ e) (v.ents_pushEntry c _ e)
    ⟨hchan, hseq, hwords, hkind⟩

theorem msgHeadEject_arrives (ht : p.type = tMSG_HEAD) (hp : k.rx.placed = none) (hq : (s.cell c).canTake k.e.rxQueue.toNat = true)
    (hL : p.pl 0 3 ≤ 40) (hlast : p.last = 1) :
    completes (.msgHeadEject c) s fun t =>
      s.queued t c k.e.rxQueue.toNat (fun e => e.channel = p.chanTree ∧ e.seq = p.seq.setWidth 8 ∧
        e.words = wordsOf ((p.plBytes.drop 8).take (p.pl 0 3))) ∧
      (t.rt c).answers = (s.rt c).answers ++ [ackFor p k.e.peerChan] ∧ t.expectsNext c p.chanTree.toNat k 1 ∧ s.onlyCell t c := by
  obtain ⟨u, n, hu, hk, hev⟩ := State.eject_processes hr ho ht
  obtain ⟨-, -, -, -, -, -, -, hfree⟩ := hr
  obtain ⟨-, -, -, -, -, -, hheld, harr⟩ := ho
  have hv := hu.trans (u.calm_modRx c p.chanTree.toNat fun r => { r with refused := none, skipped := false })
  have hj := State.modRx_chan hk fun r => { r with refused := none, skipped := false }
  rw [State.process_head hk hp ht] at hev
  generalize u.modRx c p.chanTree.toNat (fun r => { r with refused := none, skipped := false }) = v at hev hv hj
  obtain ⟨e, hproc, hchan, hseq, hwords⟩ := State.procHead_pushes (s := v) (c := c) (k := { k with used := n }) (ch := p.chanTree.toNat)
    (by rw [hv.canTake]; exact hq) hL hlast
  rw [hproc] at hev
  rw [BitVec.ofNat_toNat, BitVec.setWidth_eq] at hchan
  exact completes_pushed rfl hc hev rfl hv hj rfl hp harr hheld hfree (v.recorded_pushEntry c _ e) (v.ents_pushEntry c _ e) ⟨hchan, hseq, hwords⟩

theorem msgBodyEject_arrives {m : Placed} (ht : p.type = tMSG_BODY) (hp : k.rx.placed = some m) (hfit : m.fits m.next p = true)
    (hn : m.packets ≤ m.wrote + 1) (hring : m.ringOff = none) :
    completes (.msgBodyEject c) s fun t =>
      s.queued t c m.queue (fun e => e.channel = p.chanTree ∧ e.seq = m.head ∧ e.words = wordsOf (m.data ++ p.plBytes.take p.length.toNat)) ∧
      (t.rt c).answers = (s.rt c).answers ++ [ackFor p k.e.peerChan] ∧ t.expectsNext c p.chanTree.toNat k 1 ∧ s.onlyCell t c := by
  obtain ⟨u, n, hu, hk, hev⟩ := State.eject_processes hr ho ht
  obtain ⟨-, -, -, -, -, -, -, hfree⟩ := hr
  obtain ⟨-, -, -, -, -, -, hheld, harr⟩ := ho
  have hv := hu.trans (u.calm_modRx c p.chanTree.toNat fun r => { r with placed := none })
  have hj := State.modRx_chan hk fun r => { r with placed := none }
  obtain ⟨e, hproc, hchan, hseq, hwords⟩ := State.procBody_pushes hk hp hfit hn hring
  rw [State.process_body hk ht, hproc] at hev
  generalize u.modRx c p.chanTree.toNat (fun r => { r with placed := none }) = v at hev hv hj
  rw [BitVec.ofNat_toNat, BitVec.setWidth_eq] at hchan
  exact completes_pushed rfl hc hev rfl hv hj rfl rfl harr hheld hfree (v.recorded_pushReserved c _ e) (v.ents_pushReserved c _ e)
    ⟨hchan, hseq, hwords⟩

theorem msgHeadEject_places (ht : p.type = tMSG_HEAD) (hp : k.rx.placed = none) (hq : (s.cell c).canTake k.e.rxQueue.toNat = true)
    (hlo : 40 < p.pl 0 3) (hhi : p.pl 0 3 ≤ 48) (hlast : p.last = 0) :
    completes (.msgHeadEject c) s fun t =>
      (∃ y m, aget (t.ni c).chans p.chanTree.toNat = some y ∧ y.rx.placed = some m ∧ m.total = p.pl 0 3 ∧ m.packets = 2 ∧ m.wrote = 1 ∧
        m.queue = k.e.rxQueue.toNat ∧ y.e.rxExpect = k.e.rxExpect + 1) ∧
      ((t.ni c).queue k.e.rxQueue.toNat).reserved = ((s.ni c).queue k.e.rxQueue.toNat).reserved + 1 ∧
      ((t.ni c).queue k.e.rxQueue.toNat).ents = ((s.ni c).queue k.e.rxQueue.toNat).ents ∧
      (t.rt c).answers = (s.rt c).answers ++ [ackFor p k.e.peerChan] ∧ s.onlyCell t c := by
  obtain ⟨u, n, hu, hk, hev⟩ := State.eject_processes hr ho ht
  obtain ⟨-, -, -, -, -, -, -, hfree⟩ := hr
  obtain ⟨-, -, -, -, -, -, hheld, harr⟩ := ho
  have hv := hu.trans (u.calm_modRx c p.chanTree.toNat fun r => { r with refused := none, skipped := false })
  have hj := State.modRx_chan hk fun r => { r with refused := none, skipped := false }
  rw [State.process_head hk hp ht] at hev
  generalize u.modRx c p.chanTree.toNat (fun r => { r with refused := none, skipped := false }) = v at hev hv hj
  obtain ⟨m, hproc, htotal, hpackets, hwrote, hqueue⟩ := State.procHead_places (s := v) (c := c) (k := { k with used := n })
    (ch := p.chanTree.toNat) (by rw [hv.canTake]; exact hq) hlo hhi hlast
  rw [hproc] at hev
  dsimp only at hev
  have hrec : v.Recorded ((v.takeEntry c).modNi c fun x => x.modQueue k.e.rxQueue.toNat fun z => { z with reserved := z.reserved + 1 }) c :=
    (v.recorded_modCellRegs c _).trans (State.recorded_modQueue _ c _ _)
  have hres : (((v.takeEntry c).modNi c fun x => x.modQueue k.e.rxQueue.toNat fun z => { z with reserved := z.reserved + 1 }).ni c).queue
      k.e.rxQueue.toNat = { (v.ni c).queue k.e.rxQueue.toNat with reserved := ((v.ni c).queue k.e.rxQueue.toNat).reserved + 1 } := by
    rw [State.ni_modNi_same, Ni.queue_modQueue, State.takeEntry, State.ni_modCellRegs]
  generalize (v.takeEntry c).modNi c (fun x => x.modQueue k.e.rxQueue.toNat fun z => { z with reserved := z.reserved + 1 }) = a at hev hrec hres
  have hb := a.calm_modRx c p.chanTree.toNat fun r => { r with placed := some m }
  have hbk := State.modRx_chan (hrec.ni.chans ▸ hj : aget (a.ni c).chans p.chanTree.toNat = some _) fun r => { r with placed := some m }
  generalize a.modRx c p.chanTree.toNat (fun r => { r with placed := some m }) = b at hev hb hbk
  have hbfree : b.answerFree c = true := by rw [hb.answerFree, State.answerFree, hrec.rt, hv.rt]; exact hfree
  obtain ⟨hw, hni, hans⟩ := State.ackMsg_answers (k := { k with used := n }) hbfree p
  obtain ⟨hcalm, r, g, hset⟩ := State.advance_settles (s := b.ackMsg c { k with used := n } p) (c := c) (ch := p.chanTree.toNat)
    ((congrArg (fun x : Ni => aget x.chans p.chanTree.toNat) hni).trans hbk) harr hheld
  generalize ((b.ackMsg c { k with used := n } p).advanceE c p.chanTree.toNat).settleRx c p.chanTree.toNat = t at hev hcalm hset
  have hqt : (t.ni c).queue k.e.rxQueue.toNat = { (s.ni c).queue k.e.rxQueue.toNat with
      reserved := ((s.ni c).queue k.e.rxQueue.toNat).reserved + 1 } := by
    rw [hcalm.queue, hni, hb.queue, hres, hv.queue]
  refine completes_next t rfl hc hev ⟨⟨_, _, hset, rfl, htotal, hpackets, hwrote, hqueue, rfl⟩, congrArg Queue.reserved hqt,
    (congrArg Queue.ents hqt).trans rfl, ?_, ((((hv.toWithin.trans hrec.toWithin).trans hb.toWithin).trans hw).trans hcalm.toWithin).only⟩
  rw [State.keeping_rt, hcalm.rt, hans, hb.rt, hrec.rt, hv.rt]

end message

/-! ## Held packets, the gap timer (R146, R150) -/

section held

variable {s : State} {c ch : Nat} {k : Chan}

/-- A held packet that is due is processed while the answer queue has room (R70, R146). -/
theorem State.drain_held {p : Packet} (hk : aget (s.ni c).chans ch = some k) (ha : k.rx.arrival = [])
    (hf : k.rx.held.find? (fun p => p.seq.setWidth 8 == k.e.rxExpect) = some p) (hfree : s.answerFree c = true) (n : Nat) :
    s.drain c ch (n + 1) = ((((s.modRx c ch fun r => { r with held := dropFirst (fun b => b == p) r.held }).freeSlotRob c).process c ch p).drain c ch n) := by
  rw [State.drain, hk]
  simp only [ha, hf, hfree, List.find?_nil, if_true]

/-- A skip of n numbers with no message in progress (R150). -/
theorem State.skips (hk : aget (s.ni c).chans ch = some k) (hp : k.rx.placed = none) (l : List Nat) :
    s.Calm (s.forEach l fun s _ => s.advanceE c ch) c ∧ ∃ r g, aget ((s.forEach l fun s _ => s.advanceE c ch).ni c).chans ch = some { k with
      e := { k.e with rxExpect := k.e.rxExpect + BitVec.ofNat 8 l.length }
      rx := { k.rx with refused := r, gap := g } } := by
  induction l generalizing s k with
  | nil =>
    refine ⟨⟨.refl s c, rfl, rfl, rfl⟩, k.rx.refused, k.rx.gap, hk.trans ?_⟩
    simp
  | cons a l ih =>
    obtain ⟨r, g, hadv⟩ := State.advanceE_chan hk
    rw [hp] at hadv
    obtain ⟨hcalm, r', g', hl⟩ := ih hadv rfl
    refine ⟨(s.calm_advanceE c ch).trans hcalm, r', g', hl.trans ?_⟩
    simp only [Option.map_none, List.length_cons, BitVec.ofNat_add, BitVec.add_assoc, hp]
    rw [BitVec.add_comm 1]
    rfl

/-- A placed message that fails leaves a RING_FAILED entry, and the channel has none (R148). -/
theorem State.failMsg_fails {m : Placed} (hk : aget (s.ni c).chans ch = some k) (hp : k.rx.placed = some m) :
    ∃ e : QEntry, s.failMsg c ch = (s.modRx c ch fun r => { r with placed := none }).pushReserved c m.queue e ∧ e.kind = 4 ∧ e.seq = m.head := by
  refine ⟨k.ringEntry ch s.now m 4 m.written, ?_, rfl, rfl⟩
  simp only [State.failMsg, hk, hp]

variable (hc : cellOk c = true) (hch : channelOk ch = true) (hk : aget (s.ni c).chans ch = some k)
include hc hch hk

theorem heldPacketAnswer_processes {p : Packet} (hhold : (s.ni c).hold = .none) (hfetch : (s.ni c).fetches = []) (hheld : k.rx.held = [p])
    (ha : k.rx.arrival = []) (hseq : p.seq.setWidth 8 = k.e.rxExpect) (hfree : s.answerFree c = true) :
    completes (.heldPacketAnswer c ch) s fun t =>
      (∃ y, aget (t.ni c).chans ch = some y ∧ y.rx.held = [] ∧ y.e.rxExpect = k.e.rxExpect + 1) ∧ s.onlyCell t c := by
  have hrel : s.releaseHeld c ch (robSize + 1) = s := by simp only [State.releaseHeld, hfetch, List.find?_nil]
  have hfind : k.rx.held.find? (fun p => p.seq.setWidth 8 == k.e.rxExpect) = some p := by simp [hheld, hseq]
  have hdrain := State.drain_held hk ha hfind hfree 255
  let v := (s.modRx c ch fun r => { r with held := dropFirst (fun b => b == p) r.held }).freeSlotRob c
  have hv : aget (v.ni c).chans ch = some { k with rx := { k.rx with held := [] } } := by
    simp only [v, State.freeSlotRob, State.ni_modCellRegs, State.modRx_chan hk]
    simp [hheld, dropFirst]
  have hin : s.Within v c := (s.within_modCell c _).trans (State.within_modCell _ c _)
  rw [show (s.modRx c ch fun r => { r with held := dropFirst (fun b => b == p) r.held }).freeSlotRob c = v from rfl] at hdrain
  clear_value v
  obtain ⟨hw, y, hy, he, hh, har⟩ := State.process_advances hv p
  rw [State.drain_quiet hy (har.trans ha) hh] at hdrain
  obtain ⟨g, hg⟩ := State.armGap_chan hy
  generalize v.process c ch p = u at hdrain hw hy hg
  refine completes_onUnit (t := u.armGap c ch) ?_ (by simp [Instr.wf, hc, hch]) ⟨⟨_, hg, hh, congrArg ChanEntry.rxExpect he⟩, ?_⟩
  · simp only [exec, execHeldPacketAnswer, hhold, hk, ne_eq, not_true, Option.isNone_some, Bool.false_eq_true, or_self, if_false]
    rw [hrel, State.settleRx, hdrain]
  · exact ((hin.trans hw).trans State.within_armGap).only

theorem gapTimeout_skips {m : Placed} {t0 us : Nat} (hgap : k.rx.gap = some (t0, us)) (hx : expired s.now t0 us = true) (hheld : k.rx.held = [])
    (ha : k.rx.arrival = []) (hp : k.rx.placed = some m) :
    completes (.gapTimeout c ch) s fun t =>
      t.expectsNext c ch k (m.packets - m.next) ∧ s.queued t c m.queue (fun e => e.kind = 4 ∧ e.seq = m.head) ∧
      t.cget c NI_MSG_STAT_skipped = min (s.cget c NI_MSG_STAT_skipped + (m.packets - m.next)) (2 ^ NI_MSG_STAT_skipped.len - 1) ∧
      s.onlyCell t c := by
  obtain ⟨e, hfail, hkind, hseq⟩ := State.failMsg_fails hk hp
  have hu := s.calm_modRx c ch fun r => { r with placed := none }
  have huk := State.modRx_chan hk fun r => { r with placed := none }
  generalize s.modRx c ch (fun r => { r with placed := none }) = u at hfail hu huk
  have hv := u.recorded_pushReserved c m.queue e
  have hents := u.ents_pushReserved c m.queue e
  have hregs : (u.pushReserved c m.queue e).cget c NI_MSG_STAT_skipped = s.cget c NI_MSG_STAT_skipped := by
    obtain ⟨n, hn⟩ := (u.modNi c fun x => x.modQueue m.queue fun k => { k with reserved := k.reserved - 1 }).regs_visible c m.queue (e := e)
      (by rw [hkind]; simp)
    rw [State.pushReserved, State.cget, hn, Regs.get_depthHw _ _ (by decide), State.regs_modNi, hu.regs, State.cget]
  generalize u.pushReserved c m.queue e = v at hfail hv hents hregs
  have hvk := (congrArg (aget · ch) hv.ni.chans).trans huk
  obtain ⟨hw, r, g, hwk⟩ := State.skips hvk rfl (List.range (m.packets - m.next))
  generalize hwdef : (v.forEach (List.range (m.packets - m.next)) fun s _ => s.advanceE c ch) = w at hw hwk
  let a := w.modCellRegs c fun r => r.add NI_MSG_STAT_skipped (m.packets - m.next)
  have hak : aget (a.ni c).chans ch = _ := (congrArg (fun x : Ni => aget x.chans ch) (w.ni_modCellRegs c c _)).trans hwk
  have hb := a.calm_modRx c ch fun r => { r with skipped := true, gap := none }
  have hbk := State.modRx_chan hak fun r => { r with skipped := true, gap := none }
  have hset := State.settleRx_quiet hbk ha hheld
  have hbcell : ((a.modRx c ch fun r => { r with skipped := true, gap := none }).cell c).regs =
      (w.cell c).regs.add NI_MSG_STAT_skipped (m.packets - m.next) := by
    rw [hb.regs, State.regs_modCellRegs]
  have hin : s.Within (a.modRx c ch fun r => { r with skipped := true, gap := none }) c :=
    (((hu.toWithin.trans hv.toWithin).trans hw.toWithin).trans (w.within_modCell c _)).trans hb.toWithin
  have hbq (q : Nat) : ((a.modRx c ch fun r => { r with skipped := true, gap := none }).ni c).queue q = (v.ni c).queue q := by
    rw [hb.queue, State.ni_modCellRegs, hw.queue]
  have hev : exec (.gapTimeout c ch) s = onUnit (Instr.gapTimeout c ch).wf s
      ((a.modRx c ch fun r => { r with skipped := true, gap := none }).settleRx c ch) := by
    simp only [exec, execGapTimeout, hk, hgap, hx, hheld, ha, hp, Bool.not_true, Bool.false_eq_true, if_false, List.map_nil, List.append_nil]
    rw [hfail, hwdef]
  generalize a.modRx c ch (fun r => { r with skipped := true, gap := none }) = b at hbk hset hbcell hin hbq hev
  rw [hset] at hev
  have hd := b.calm_armGap c ch
  obtain ⟨g', hdk⟩ := State.armGap_chan hbk
  generalize b.armGap c ch = d at hev hd hdk
  refine completes_onUnit hev (by simp [Instr.wf, hc, hch]) ⟨⟨_, hdk, ?_, hheld, rfl⟩,
    ⟨{ e with born := u.ncyc }, ?_, hkind, hseq⟩, ?_, (hin.trans hd.toWithin).only⟩
  · rw [List.length_range]
  · rw [State.keeping_ni, hd.queue, hbq, hents, hu.queue]
  · rw [State.keeping_cget, State.cget, hd.regs, hbcell, Regs.get_add_same _ _ _ (by decide), hw.regs]
    exact congrArg (fun n => min (n + (m.packets - m.next)) _) hregs

end held

/-! ## Queue timers and strobes (R158, R159) -/

section signals

variable {s : State} {c : Nat} (hc : cellOk c = true)
include hc

theorem staleTailTimeout_notifies {q t0 us : Nat} (hq : queueOk q = true) (hs : ((s.ni c).queue q).since = some (t0, us))
    (he : ((s.ni c).queue q).ents ≠ []) (hx : expired s.now t0 us = true) :
    completes (.staleTailTimeout c q) s fun t =>
      (t.ni c).queue q = { (s.ni c).queue q with stale := true, since := none } ∧ t.out = s.out ++ [.queueNotify c q] ∧ s.onlyCell t c := by
  refine completes_onUnit (t := (s.modNi c fun x => x.modQueue q fun k => { k with stale := true, since := none }).emit (.queueNotify c q)) ?_
    (by simp [Instr.wf, hc, hq]) ⟨?_, rfl, (s.within_modCell c _).only⟩
  · simp [exec, execStaleTailTimeout, hs, he, hx]
  · rw [State.keeping_ni, State.ni_emit, State.ni_modNi_same, Ni.queue_modQueue]

theorem dispatchFifoIssue_strobes {h : BitVec 12} {q : BitVec 6} {r : List (BitVec 12 × BitVec 6)} (hd : (s.ni c).dispatch = (h, q) :: r)
    (hn : (s.ni c).didNow dDispatch s.ncyc = false) :
    completes (.dispatchFifoIssue c) s fun t => (t.ni c).dispatch = r ∧ t.out = s.out ++ [.dispatch c h q] ∧ s.onlyCell t c := by
  refine completes_onUnit (t := (s.modNi c fun x => { x with dispatch := r }.note dDispatch s.ncyc).emit (.dispatch c h q)) ?_ hc
    ⟨?_, rfl, (s.within_modCell c _).only⟩
  · simp [exec, execDispatchFifoIssue, hd, hn]
  · rw [State.keeping_ni, State.ni_emit, State.ni_modNi_same]
    rfl

end signals

/-- Settles O50: packets in their turn, held packets, the gap timer, the signals of a queue. -/
theorem messagesArrive : Obligations.MessagesArrive := by
  intro s c hc
  exact ⟨fun p k hr ho => ⟨fun ht hp hq => msgEject_arrives hc hr ho ht hp hq, fun ht hp hq hL hlast => msgHeadEject_arrives hc hr ho ht hp hq hL hlast,
      fun ht hp hq hlo hhi hlast => msgHeadEject_places hc hr ho ht hp hq hlo hhi hlast,
      fun m ht hp hfit hn hring => msgBodyEject_arrives hc hr ho ht hp hfit hn hring⟩,
    fun ch k p hch hk hhold hfetch hheld ha hseq hfree => heldPacketAnswer_processes hc hch hk hhold hfetch hheld ha hseq hfree,
    fun ch k m t0 us hch hk hgap hx hheld ha hp => gapTimeout_skips hc hch hk hgap hx hheld ha hp,
    fun q t0 us hq hs he hx => staleTailTimeout_notifies hc hq hs he hx,
    fun h q r hd hn => dispatchFifoIssue_strobes hc hd hn⟩

end Sys2Proof.Machine

/-! PROOFS. The channels and queues family: WINDOW_SET, QUEUE_SET and the register commands (R164, R169, R431). -/

namespace Sys2Proof.Machine

/-! ## Several fields of a register file are set in turn -/

/-- Two fields that share no bit. -/
def Field.apart (f g : Field) : Prop := f.off ≠ g.off ∨ f.lo + f.len ≤ g.lo ∨ g.lo + g.len ≤ f.lo

/-- Set fields in turn. -/
def Regs.setAll (r : Regs) (l : List (Field × Nat)) : Regs := l.foldl (fun r e => r.set e.1 e.2) r

theorem Regs.get_setAll_apart {l : List (Field × Nat)} {g : Field} (hl : ∀ e ∈ l, e.1.fits ∧ e.1.apart g) (r : Regs) :
    (r.setAll l).get g = r.get g := by
  induction l generalizing r with
  | nil => rfl
  | cons e l ih =>
    obtain ⟨hf, ha⟩ := hl e List.mem_cons_self
    exact (ih (fun x hx => hl x (List.mem_cons_of_mem _ hx)) (r.set e.1 e.2)).trans (r.get_set_ne e.1 g e.2 hf ha)

/-- Of fields that share no bit each holds its own value. -/
theorem Regs.get_setAll {l : List (Field × Nat)} (hl : l.Pairwise fun a b => b.1.apart a.1) (hf : ∀ e ∈ l, e.1.fits) {f : Field} {v : Nat}
    (hm : (f, v) ∈ l) (hv : v < 2 ^ f.len) (r : Regs) : (r.setAll l).get f = v := by
  induction l generalizing r with
  | nil => cases hm
  | cons e l ih =>
    obtain ⟨he, hl⟩ := List.pairwise_cons.1 hl
    rcases List.mem_cons.1 hm with rfl | hm
    · have hrest := Regs.get_setAll_apart (l := l) (g := f) (fun x hx => ⟨hf x (List.mem_cons_of_mem _ hx), he x hx⟩) (r.set f v)
      exact hrest.trans ((r.get_set_same f v (hf _ List.mem_cons_self)).trans (Nat.mod_eq_of_lt hv))
    · exact ih hl (fun x hx => hf x (List.mem_cons_of_mem _ hx)) hm (r.set e.1 e.2)

/-! ## The units that a mailbox command writes -/

/-- In a block that runs a mailbox command writes at once (R404, log 62). -/
theorem State.zCell_run {s : State} {c : Nat} (h : (s.block (blockOf c)).power = .run) (f : State → State) : s.zCell c f = f s := by
  rw [State.zCell, h]

@[simp] theorem State.accepted_block (s : State) (m b : Nat) : (s.accepted m).block b = s.block b := State.block_congr (s.accepted_blocks m) b

@[simp] theorem State.accepted_cell (s : State) (m c : Nat) : (s.accepted m).cell c = s.cell c := State.cell_congr (s.accepted_cells m) c

@[simp] theorem State.accepted_gw (s : State) (m g : Nat) : (s.accepted m).gw g = s.gw g := State.gw_congr (s.accepted_gws m) g

@[simp] theorem State.accepted_ni (s : State) (m c : Nat) : (s.accepted m).ni c = s.ni c := by rw [State.ni, State.accepted_cell, ← State.ni]

@[simp] theorem State.accepted_gatewayCell? (s : State) (m c : Nat) : (s.accepted m).gatewayCell? c = s.gatewayCell? c := by
  rw [State.gatewayCell?, State.accepted_chip, ← State.gatewayCell?]

theorem State.Responded.cell {u t : State} (h : u.Responded t) (c : Nat) : t.cell c = u.cell c := State.cell_congr h.cells c

theorem State.Responded.gw {u t : State} (h : u.Responded t) (g : Nat) : t.gw g = u.gw g :=
  State.gw_congr ((u.sameUnits_iff_units t).2 h.units).2.2.2.2 g

/-- What a command changes in one cell after its acceptance is all its response leaves changed. -/
theorem State.Responded.onlyCell {s u t : State} {m c : Nat} (h : u.Responded t) (k : (s.accepted m).Within u c) : s.onlyCell t c :=
  ((State.Within.refl s c).only.of_units (s.units_accepted m)).trans (k.only.of_units h.units)

theorem State.onlyGw.of_units {s t u : State} {g : Nat} (h : s.onlyGw t g) (k : u.units = t.units) : s.onlyGw u g := by
  obtain ⟨kc, kb, kr, kl, kg⟩ := (t.sameUnits_iff_units u).2 k
  exact h.trans ⟨fun d _ => State.gw_congr kg d, kc, kb, kr, kl⟩

/-- What a command changes in one gateway after its acceptance is all its response leaves changed. -/
theorem State.Responded.onlyGw {s u t : State} {m g : Nat} (h : u.Responded t) (k : (s.accepted m).onlyGw u g) : s.onlyGw t g :=
  (State.onlyGw.of_units (t := s) ⟨fun _ _ => rfl, rfl, rfl, rfl, rfl⟩ (s.units_accepted m)).trans (k.of_units h.units)

/-! ## WINDOW_SET (R169, R503) -/

theorem State.regs_modGwRegs (s : State) (g : Nat) (f : Regs → Regs) : ((s.modGwRegs g f).gw g).regs = f (s.gw g).regs :=
  congrArg Gateway.regs (s.gw_modGw_same g _)

/-- The fields of an entry of an NI's window table. -/
def niWinFields (i fl : Nat) (w : Win) (tag : Nat) : List (Field × Nat) :=
  [(NI_WIN_A_valid.at i, fl % 2), (NI_WIN_A_rd.at i, bits fl 1 1), (NI_WIN_A_wr.at i, bits fl 2 1), (NI_WIN_A_parterre.at i, w.parterre),
    (NI_WIN_A_base.at i, w.base), (NI_WIN_A_count_m1.at i, w.count - 1), (NI_WIN_B_addr.at i, w.addr / 16), (NI_WIN_TAG_tag.at i, tag)]

/-- The fields of an entry of a gateway's window table. -/
def gwWinFields (i fl : Nat) (w : Win) : List (Field × Nat) :=
  [(CHP_MGW_WIN_A_valid.at i, fl % 2), (CHP_MGW_WIN_A_rd.at i, bits fl 1 1), (CHP_MGW_WIN_A_wr.at i, bits fl 2 1),
    (CHP_MGW_WIN_A_cell.at i, w.cell), (CHP_MGW_WIN_A_parterre.at i, w.parterre), (CHP_MGW_WIN_A_base.at i, w.base),
    (CHP_MGW_WIN_A_count_m1.at i, w.count - 1), (CHP_MGW_WIN_B_addr.at i, w.addr / 16)]

theorem niWinFields_apart {i : Nat} (hi : i ≤ 15) (fl : Nat) (w : Win) (tag : Nat) :
    (niWinFields i fl w tag).Pairwise fun a b => b.1.apart a.1 := by
  simp [niWinFields, Field.apart, Field.at, NI_WIN_A_valid, NI_WIN_A_rd, NI_WIN_A_wr, NI_WIN_A_parterre, NI_WIN_A_base, NI_WIN_A_count_m1,
    NI_WIN_B_addr, NI_WIN_TAG_tag]
  omega

theorem niWinFields_fit (i fl : Nat) (w : Win) (tag : Nat) : ∀ e ∈ niWinFields i fl w tag, e.1.fits := by
  simp [niWinFields, Field.fits, Field.at, NI_WIN_A_valid, NI_WIN_A_rd, NI_WIN_A_wr, NI_WIN_A_parterre, NI_WIN_A_base, NI_WIN_A_count_m1,
    NI_WIN_B_addr, NI_WIN_TAG_tag]

theorem gwWinFields_apart (i fl : Nat) (w : Win) : (gwWinFields i fl w).Pairwise fun a b => b.1.apart a.1 := by
  simp [gwWinFields, Field.apart, Field.at, CHP_MGW_WIN_A_valid, CHP_MGW_WIN_A_rd, CHP_MGW_WIN_A_wr, CHP_MGW_WIN_A_cell,
    CHP_MGW_WIN_A_parterre, CHP_MGW_WIN_A_base, CHP_MGW_WIN_A_count_m1, CHP_MGW_WIN_B_addr]

theorem gwWinFields_fit (i fl : Nat) (w : Win) : ∀ e ∈ gwWinFields i fl w, e.1.fits := by
  simp [gwWinFields, Field.fits, Field.at, CHP_MGW_WIN_A_valid, CHP_MGW_WIN_A_rd, CHP_MGW_WIN_A_wr, CHP_MGW_WIN_A_cell,
    CHP_MGW_WIN_A_parterre, CHP_MGW_WIN_A_base, CHP_MGW_WIN_A_count_m1, CHP_MGW_WIN_B_addr]

theorem State.putWindow_cell {s : State} {u : Nat} (hu : gwUnit u = none) (hr : (s.block (blockOf u)).power = .run) (i fl : Nat) (w : Win)
    (tag : Nat) : s.putWindow u i fl w tag = s.modCellRegs u fun r => r.setAll (niWinFields i fl w tag) := by
  rw [State.putWindow, hu]
  exact State.zCell_run hr _

theorem State.putWindow_gw {u g : Nat} (hu : gwUnit u = some g) (s : State) (i fl : Nat) (w : Win) (tag : Nat) :
    s.putWindow u i fl w tag = s.modGwRegs g fun r => r.setAll (gwWinFields i fl w) := by
  rw [State.putWindow, hu]
  rfl

/-- No cell has a gateway's unit number (R20). -/
theorem gwUnit_cell {c : Nat} (h : cellOk c = true) : gwUnit c = none := by
  obtain ⟨hx, hy⟩ := Bool.and_eq_true_iff.1 h
  have hy : c / 128 ≤ 95 := of_decide_eq_true hy
  exact if_neg (by omega)

theorem gwUnit_gw {g : Nat} (h : g < 20) : gwUnit (0x3F80 + g) = some g := by
  rw [gwUnit, if_pos (by omega), Nat.add_sub_cancel_left]

/-- A window that is not valid, or meets every row of R169, breaks none. -/
theorem windowRow_eq_zero {fl n : Nat} (h : fl % 2 = 1 → n = 0) : ¬(if fl % 2 = 0 then 0 else n) ≠ 0 := by
  split
  · exact fun hn => hn rfl
  · exact fun hn => hn (h (by omega))

/-- The window that a WINDOW_SET gives. -/
abbrev Cmd.window (k : Cmd) (cell : Nat) : Win := ⟨cell, k.arg 4 1, k.arg 5 3, k.arg 8 3 + 1, k.arg 16 8⟩

theorem windowSet_cell {s : State} {m : Nat} {k : Cmd} (hcmd : s.cmdOf m = k) (ha : s.accepts m 0x22 = true) (he : k.extLen = 0)
    (hc : cellOk (k.arg 0 2) = true) (hr : (s.block (blockOf (k.arg 0 2))).power = .run) (hi : k.arg 2 1 ≤ 15)
    (hf : k.arg 3 1 < 8) (hw : k.arg 16 8 < 2 ^ 48)
    (h0 : k.arg 3 1 % 2 = 1 → (k.window 0).row none (s.gatewayCell? (k.arg 0 2)).isSome
      ((s.cell (k.arg 0 2)).regs.niWindows (k.arg 2 1)) = 0) :
    completes (.windowSet m) s fun t => t.answers m 0x22 0 0 ∧
      t.cget (k.arg 0 2) (NI_WIN_A_valid.at (k.arg 2 1)) = k.arg 3 1 % 2 ∧
      t.cget (k.arg 0 2) (NI_WIN_A_parterre.at (k.arg 2 1)) = k.arg 4 1 ∧
      t.cget (k.arg 0 2) (NI_WIN_A_base.at (k.arg 2 1)) = k.arg 5 3 ∧ s.onlyCell t (k.arg 0 2) := by
  subst hcmd
  have hcell : bits ((s.cmdOf m).arg 3 1) 3 3 = 0 := by rw [bits, Nat.div_eq_of_lt (show _ < 2 ^ 3 from hf), Nat.zero_mod]
  have hp := (s.cmdOf m).num_lt (16 + 4) 1
  have hb := (s.cmdOf m).num_lt (16 + 5) 3
  let l := niWinFields ((s.cmdOf m).arg 2 1) ((s.cmdOf m).arg 3 1) ((s.cmdOf m).window 0) ((s.cmdOf m).arg 24 4)
  let u := (s.accepted m).modCellRegs ((s.cmdOf m).arg 0 2) fun r => r.setAll l
  refine completes_finish (u := u) (r := []) ha rfl ?_ (by decide) fun t ht => ?_
  · rw [s.plainCmd_accepted _ ha he]
    simp only [gwUnit_cell hc, hc, hcell, State.accepted_cell, State.accepted_gatewayCell?, Option.isSome_none, Bool.not_true, Bool.false_eq_true,
      bne_self_eq_false, Bool.and_false, Bool.or_false, decide_eq_true_eq, if_false]
    rw [if_neg (Nat.not_lt.2 hi), if_neg (show ¬63 < (s.cmdOf m).arg 3 1 by omega), if_neg (Nat.not_le.2 hw), if_neg (windowRow_eq_zero h0),
      State.putWindow_cell (gwUnit_cell hc) (by rwa [State.accepted_block])]
    rfl
  · have hget {f : Field} {v : Nat} (hm : (f, v) ∈ l) (hv : v < 2 ^ f.len) : t.cget ((s.cmdOf m).arg 0 2) f = v := by
      rw [State.cget, ht.cell, State.regs_modCellRegs]
      exact Regs.get_setAll (niWinFields_apart hi _ _ _) (niWinFields_fit _ _ _ _) hm hv _
    exact ⟨hget (by simp [l, niWinFields]) (Nat.mod_lt _ (by decide)), hget (by simp [l, niWinFields]) hp,
      hget (by simp [l, niWinFields]) hb, ht.onlyCell (State.within_modCell _ _ _)⟩

theorem windowSet_gw {s : State} {m g : Nat} {k : Cmd} (hcmd : s.cmdOf m = k) (ha : s.accepts m 0x22 = true) (he : k.extLen = 0)
    (hu : k.arg 0 2 = 0x3F80 + g) (hg : g < 20) (hp : s.chip.integ.mgwPresent.getLsbD g = true) (hi : k.arg 2 1 ≤ 63)
    (hf : k.arg 3 1 < 64) (hw : k.arg 16 8 < 2 ^ 40)
    (h0 : k.arg 3 1 % 2 = 1 → (k.window (bits (k.arg 3 1) 3 3)).row (some g)
      (s.gatewayCell? (k.arg 0 2)).isSome ((s.gw g).regs.gwWindows (k.arg 2 1)) = 0) :
    completes (.windowSet m) s fun t => t.answers m 0x22 0 0 ∧
      (t.gw g).regs.get (CHP_MGW_WIN_A_valid.at (k.arg 2 1)) = k.arg 3 1 % 2 ∧
      (t.gw g).regs.get (CHP_MGW_WIN_A_cell.at (k.arg 2 1)) = bits (k.arg 3 1) 3 3 ∧
      (t.gw g).regs.get (CHP_MGW_WIN_A_parterre.at (k.arg 2 1)) = k.arg 4 1 ∧
      (t.gw g).regs.get (CHP_MGW_WIN_A_base.at (k.arg 2 1)) = k.arg 5 3 ∧ s.onlyGw t g := by
  subst hcmd
  have hunit : gwUnit ((s.cmdOf m).arg 0 2) = some g := hu ▸ gwUnit_gw hg
  have hpl := (s.cmdOf m).num_lt (16 + 4) 1
  have hb := (s.cmdOf m).num_lt (16 + 5) 3
  let l := gwWinFields ((s.cmdOf m).arg 2 1) ((s.cmdOf m).arg 3 1) ((s.cmdOf m).window (bits ((s.cmdOf m).arg 3 1) 3 3))
  let u := (s.accepted m).modGwRegs g fun r => r.setAll l
  refine completes_finish (u := u) (r := []) ha rfl ?_ (by decide) fun t ht => ?_
  · rw [s.plainCmd_accepted _ ha he]
    simp only [hunit, hp, State.accepted_chip, State.accepted_gw, State.accepted_gatewayCell?, Option.isSome_some, Option.isNone_some,
      Bool.not_true, Bool.false_eq_true, Bool.false_and, Bool.or_false, decide_eq_true_eq, if_false, if_true]
    rw [if_neg (Nat.not_lt.2 hi), if_neg (Nat.not_lt.2 (Nat.le_of_lt_succ hf)), if_neg (Nat.not_le.2 hw), if_neg (windowRow_eq_zero h0),
      State.putWindow_gw hunit]
    rfl
  · have hget {f : Field} {v : Nat} (hm : (f, v) ∈ l) (hv : v < 2 ^ f.len) : (t.gw g).regs.get f = v := by
      rw [ht.gw, State.regs_modGwRegs]
      exact Regs.get_setAll (gwWinFields_apart _ _ _) (gwWinFields_fit _ _ _) hm hv _
    exact ⟨hget (by simp [l, gwWinFields]) (Nat.mod_lt _ (by decide)), hget (by simp [l, gwWinFields]) (bits_lt _ _ _),
      hget (by simp [l, gwWinFields]) hpl, hget (by simp [l, gwWinFields]) hb, ht.onlyGw (State.onlyGw_modGw _ _ _)⟩

/-! ## QUEUE_SET (R154, R157, R164) -/

theorem State.Calm.refl (s : State) (c : Nat) : s.Calm s c := ⟨.refl s c, rfl, rfl, rfl⟩

theorem State.Calm.forEach {α : Type} {c : Nat} {f : State → α → State} (h : ∀ (s : State) a, s.Calm (f s a) c) (l : List α) (s : State) :
    s.Calm (s.forEach l f) c := by
  induction l generalizing s with
  | nil => exact .refl s c
  | cons a l ih => exact (h s a).trans (ih (f s a))

theorem State.calm_unstall (s : State) (c core : Nat) : s.Calm (s.modNi c fun x => x.unstall core) c := .of_modNi s c (Ni.unstall_queues _ core)

theorem State.calm_respond (s : State) (c core : Nat) (v : W64) : s.Calm (s.respond c core v) c := ⟨s.within_respond c core v, rfl, rfl, rfl⟩

/-- Reads that stall on a disabled queue end; nothing else of the cell changes (R157). -/
theorem State.calm_endDisabled (s : State) (c q : Nat) : s.Calm (s.endDisabled c q) c := by
  unfold State.endDisabled
  split
  · exact .refl s c
  · exact State.Calm.forEach (fun t (e : Nat × CoreRt) => (t.calm_unstall c e.1).trans (State.calm_respond _ c e.1 0)) _ s

/-- The fields that QUEUE_SET writes: the queue's pool shares and times, then its ring. -/
def Cmd.queueFields (k : Cmd) (q : Nat) : List (Field × Nat) :=
  [(NI_Q_CFG_q_min.at q, k.arg 4 2), (NI_Q_CFG_q_max.at q, k.arg 6 2), (NI_Q_CFG_wait_limit.at q, k.arg 8 2),
    (NI_Q_CFG_stale_time.at q, k.arg 10 2), (NI_Q_RING_base.at q, k.arg 16 8 / 4096), (NI_Q_RING_size_4k.at q, k.arg 24 2)]

theorem Cmd.queueFields_apart (k : Cmd) (q : Nat) : (k.queueFields q).Pairwise fun a b => b.1.apart a.1 := by
  simp [Cmd.queueFields, Field.apart, Field.at, NI_Q_CFG_q_min, NI_Q_CFG_q_max, NI_Q_CFG_wait_limit, NI_Q_CFG_stale_time, NI_Q_RING_base,
    NI_Q_RING_size_4k]

theorem Cmd.queueFields_fit (k : Cmd) (q : Nat) : ∀ e ∈ k.queueFields q, e.1.fits := by
  simp [Cmd.queueFields, Field.fits, Field.at, NI_Q_CFG_q_min, NI_Q_CFG_q_max, NI_Q_CFG_wait_limit, NI_Q_CFG_stale_time, NI_Q_RING_base,
    NI_Q_RING_size_4k]

/-- Queue q of cell c after QUEUE_SET: its configuration is written, the reads that stalled on it ended if it is now disabled, its ring is
empty. -/
def State.queueConfigured (s : State) (k : Cmd) (c q : Nat) : State :=
  ((s.modCellRegs c fun r => r.setAll (k.queueFields q)).endDisabled c q).modNi c fun n => n.modQueue q Queue.newRing

theorem State.within_queueConfigured (s : State) (k : Cmd) (c q : Nat) : s.Within (s.queueConfigured k c q) c :=
  ((s.within_modCell c _).trans (State.calm_endDisabled _ c q).toWithin).trans (State.within_modNi _ c _)

theorem State.queue_queueConfigured (s : State) (k : Cmd) (c q : Nat) :
    ((s.queueConfigured k c q).ni c).queue q = ((s.ni c).queue q).newRing := by
  rw [State.queueConfigured, State.ni_modNi_same, Ni.queue_modQueue, (State.calm_endDisabled _ c q).queue, State.ni_modCellRegs]

theorem State.regs_queueConfigured (s : State) (k : Cmd) (c q : Nat) :
    ((s.queueConfigured k c q).cell c).regs = (s.cell c).regs.setAll (k.queueFields q) := by
  rw [State.queueConfigured, State.regs_modNi, State.regs_endDisabled, State.regs_modCellRegs]

theorem queueSet_configures {s : State} {m : Nat} {k : Cmd} (hcmd : s.cmdOf m = k) (ha : s.accepts m 0x23 = true) (he : k.extLen = 0)
    (hc : cellOk (k.arg 0 2) = true) (hr : (s.block (blockOf (k.arg 0 2))).power = .run) (hq : k.arg 2 1 ≤ 63)
    (hsum : k.arg 4 2 + (((List.range 64).filter fun j => j != k.arg 2 1).map fun j =>
      s.cget (k.arg 0 2) (NI_Q_CFG_q_min.at j)).sum ≤ 1024)
    (hmin : k.arg 4 2 ≤ k.arg 6 2) (hmax : k.arg 6 2 ≤ 1024) (hst : k.arg 10 2 < 2 ^ 12)
    (hbase : k.arg 16 8 % 4096 = 0) (hbl : k.arg 16 8 < 2 ^ 48) (hsz : k.arg 24 2 ≤ 4096)
    (ht : ((s.ni (k.arg 0 2)).queue (k.arg 2 1)).taken = 0)
    (hu : ((s.ni (k.arg 0 2)).queue (k.arg 2 1)).u = 0 ∨
      ((s.ni (k.arg 0 2)).queue (k.arg 2 1)).ringFault = true) :
    completes (.queueSet m) s fun t => t.answers m 0x23 0 0 ∧
      (t.ni (k.arg 0 2)).queue (k.arg 2 1) = ((s.ni (k.arg 0 2)).queue (k.arg 2 1)).newRing ∧
      (∀ f v, (f, v) ∈ k.queueFields (k.arg 2 1) → v < 2 ^ f.len → t.cget (k.arg 0 2) f = v) ∧
      s.onlyCell t (k.arg 0 2) := by
  subst hcmd
  have hset : ((s.ni ((s.cmdOf m).arg 0 2)).queue ((s.cmdOf m).arg 2 1)).ringSettable = true := by
    simpa [Queue.ringSettable] using hu
  let u := (s.accepted m).queueConfigured (s.cmdOf m) ((s.cmdOf m).arg 0 2) ((s.cmdOf m).arg 2 1)
  refine completes_finish (u := u) (r := []) ha rfl ?_ (by decide) fun t hrsp =>
    ⟨?_, fun f v hm hv => ?_, hrsp.onlyCell (State.within_queueConfigured _ _ _ _)⟩
  · rw [s.plainCmd_accepted _ ha he]
    simp only [hc, hset, ht, State.accepted_cell, State.accepted_ni, Bool.not_true, Bool.false_eq_true, if_false, if_true, bne_self_eq_false,
      Bool.and_false, Bool.or_false]
    rw [if_neg (Nat.not_lt.2 hq), if_neg (by simp only [Bool.or_eq_true, decide_eq_true_eq]; exact not_or.2 ⟨by omega, Nat.not_lt.2 hsum⟩),
      if_neg (by simp only [Bool.or_eq_true, decide_eq_true_eq]; omega), if_neg (Nat.not_le.2 hst),
      if_neg (by simp only [Bool.or_eq_true, decide_eq_true_eq]; omega), if_neg (Nat.not_lt.2 hsz),
      State.zCell_run (by rwa [State.accepted_block])]
    rfl
  · rw [State.ni, hrsp.cell, ← State.ni, State.queue_queueConfigured, State.accepted_ni]
  · rw [State.cget, hrsp.cell, State.regs_queueConfigured]
    exact Regs.get_setAll ((s.cmdOf m).queueFields_apart _) ((s.cmdOf m).queueFields_fit _) hm hv _

/-! ## REG_SET and REG_SET_CRIT (R431) -/

/-- The registers that a REG_SET names are written when no rule forbids it. -/
theorem State.regSetRun_writes {s : State} {k : Cmd} {crit : Bool} {sc : Scope} {off o : Nat} {us : List Nat} {row : RegRow}
    (hk : k.arg 4 1 ≤ 8) (hun : s.regSetUnits k = some (sc, off, us)) (hne : us ≠ []) (hrow : regAt sc off = some (o, row, false))
    (hrw : row.rw ≠ 0) (hown : cmdOwned sc off = false ∨ crit = true) (hid : ¬(sc = .chip ∧ off = CHP_CHIP_ID_chip_id.off))
    (hni : sc = .cell → ∀ u ∈ us, s.mayWriteNi u off (BitVec.ofNat 64 (k.arg 8 8)) (BitVec.ofNat 64 (k.arg 16 8)) = none) :
    s.regSetRun k crit =
      (us.foldl (fun a u => a.regWrite sc u off row (BitVec.ofNat 64 (k.arg 8 8)) (BitVec.ofNat 64 (k.arg 16 8))) s).finish k sOK 0
        (leBytes 2 us.length) := by
  have hmay : ¬(row.rw = 0 || (cmdOwned sc off && !crit) || (sc == .chip && off == CHP_CHIP_ID_chip_id.off)) = true := by
    simp only [Bool.or_eq_true, decide_eq_true_eq, Bool.and_eq_true, Bool.not_eq_true', beq_iff_eq, not_or]
    exact ⟨⟨hrw, by rcases hown with h | h <;> simp [h]⟩, hid⟩
  have hfree : (if sc = .cell then us.findSome? fun c => s.mayWriteNi c off (BitVec.ofNat 64 (k.arg 8 8)) (BitVec.ofNat 64 (k.arg 16 8))
      else none) = none := by
    split
    next hsc => exact List.findSome?_eq_none_iff.2 (hni hsc)
    next => rfl
  rw [State.regSetRun, if_neg (Nat.not_lt.2 hk), hun]
  simp only [hrow]
  rw [if_neg hmay, if_neg (by simpa using hne), hfree]
  rfl

theorem regSet_writes {s : State} {m : Nat} {crit : Bool} {sc : Scope} {off o : Nat} {us : List Nat} {row : RegRow}
    {k : Cmd} (hcmd : s.cmdOf m = k) (ha : s.accepts m (if crit then 0x25 else 0x24) = true) (he : k.extLen = 0) (hk : k.arg 4 1 ≤ 8)
    (hun : (s.accepted m).regSetUnits k = some (sc, off, us)) (hne : us ≠ []) (hrow : regAt sc off = some (o, row, false))
    (hrw : row.rw ≠ 0) (hown : cmdOwned sc off = false ∨ crit = true) (hid : ¬(sc = .chip ∧ off = CHP_CHIP_ID_chip_id.off))
    (hni : sc = .cell → ∀ u ∈ us, (s.accepted m).mayWriteNi u off (BitVec.ofNat 64 (k.arg 8 8))
      (BitVec.ofNat 64 (k.arg 16 8)) = none) :
    completes (if crit then .regSetCrit m else .regSet m) s fun t => t.answers m (if crit then 0x25 else 0x24) 0 0 ∧
      (us.foldl (fun a u => a.regWrite sc u off row (BitVec.ofNat 64 (k.arg 8 8)) (BitVec.ofNat 64 (k.arg 16 8)))
        (s.accepted m)).sameUnits t := by
  subst hcmd
  have hrun := State.regSetRun_writes hk hun hne hrow hrw hown hid hni
  cases crit with
  | false => exact completes_finish ha rfl ((s.plainCmd_accepted _ ha he).trans hrun) (by decide) fun t ht => ht.sameUnits rfl
  | true => exact completes_finish ha rfl ((s.plainCmd_accepted _ ha he).trans hrun) (by decide) fun t ht => ht.sameUnits rfl

/-- Settles O19: the two windows, then QUEUE_SET and the register commands. -/
theorem windowQueueAndRegisterCommands : Obligations.WindowQueueAndRegisterCommands := by
  intro s m
  refine ⟨windowSet_cell rfl, fun _ => windowSet_gw rfl, fun ha he hc hr hq hsum hmin hmax hst hbase hbl hsz ht hu => ?_,
    fun _ _ _ _ _ _ => regSet_writes rfl⟩
  obtain ⟨t, hx, hans, hqueue, hreg, hone⟩ := queueSet_configures rfl ha he hc hr hq hsum hmin hmax hst hbase hbl hsz ht hu
  exact ⟨t, hx, by rw [hqueue]; rfl, by rw [hqueue]; rfl, hans,
    hreg _ _ (by simp [Cmd.queueFields]) (Nat.lt_of_le_of_lt (hmin.trans hmax) (show 1024 < 2 ^ 11 by decide)),
    hreg _ _ (by simp [Cmd.queueFields]) (Nat.lt_of_le_of_lt hmax (show 1024 < 2 ^ 11 by decide)), hreg _ _ (by simp [Cmd.queueFields]) hst, hone⟩

end Sys2Proof.Machine

/-! PROOFS. The bulk windows family: what an NI does with the packets of a window, its tranches, its reads and its landings, and the responses of the
cluster port (R170, R177 to R179, R229, R497, R498). -/

namespace Sys2Proof.Machine

/-! ## The packet taken, and what its acceptance counts (R48, R469, R470) -/

section taken

variable (s : State) (c : Nat) (t : BitVec 4)

@[simp] theorem State.ni_ejectTaken :
    (s.ejectTaken c t).ni c = { s.ni c with ejected := dropFirst (fun e => e.2.type == t) (s.ni c).ejected } := s.ni_modNi_same c _

@[simp] theorem State.regs_ejectTaken : ((s.ejectTaken c t).cell c).regs = (s.cell c).regs := s.regs_modNi c c _

@[simp] theorem State.cm_ejectTaken : ((s.ejectTaken c t).cell c).cm = (s.cell c).cm := s.cm_modNi c _ c

@[simp] theorem State.rt_ejectTaken : (s.ejectTaken c t).rt c = s.rt c := s.rt_modNi c c _

theorem State.within_ejectTaken : s.Within (s.ejectTaken c t) c := s.within_modNi c _

@[simp] theorem State.ni_tagRx (tag : W32) : (s.tagRx c tag).ni c = s.ni c := s.ni_modCellRegs c c _

@[simp] theorem State.cm_tagRx (tag : W32) : ((s.tagRx c tag).cell c).cm = (s.cell c).cm := (s.recorded_tagRx c tag).cm

theorem State.within_tagRx (tag : W32) : s.Within (s.tagRx c tag) c := s.within_modCell c _

end taken

/-- A command takes the next packet of its type, which passes the checks of R48: its handler's state is the command's. -/
theorem completes_ejected {i : Instr} {s : State} {c : Nat} {t : BitVec 4} {pl : Plane} {p : Packet} {f : Plane → Packet → State → State}
    {P : State → Prop} (he : exec i s = onUnit i.wf s (s.ejectType c t f)) (hw : i.wf = true) (hr : s.receives c pl p) (hp : p.type = t)
    (hP : P ((f pl p (s.ejectTaken c t)).keeping s)) : completes i s P :=
  completes_next _ he hw (State.ejectType_receives hr hp f) hP

/-- The state in which cell c has written a packet's data at a byte of its memory, and its NI has taken note (R497). -/
def State.landed (s : State) (c addr : Nat) (bs : List Byte) (f : Cell → Ni) : State :=
  s.modCell c fun x => { x with cm := mwriteList x.cm addr bs, ni := f x }

section landed

variable (s : State) (c addr : Nat) (bs : List Byte) (f : Cell → Ni)

@[simp] theorem State.ni_landed : (s.landed c addr bs f).ni c = f (s.cell c) := congrArg Cell.ni (s.cell_modCell_same c _)

@[simp] theorem State.cm_landed : ((s.landed c addr bs f).cell c).cm = mwriteList (s.cell c).cm addr bs := congrArg Cell.cm (s.cell_modCell_same c _)

theorem State.within_landed : s.Within (s.landed c addr bs f) c := s.within_modCell c _

end landed

/-! ## Refusals of packets that may be answered (R48, R49, R70) -/

/-- An answer for which the queue has room waits in it. -/
theorem State.answers_answer {s : State} {c : Nat} (h : s.answerFree c = true) (a : Packet) :
    ((s.answer c a).rt c).answers = (s.rt c).answers ++ [a] ∧ ((s.answer c a).cell c).cm = (s.cell c).cm ∧
    ((s.answer c a).cell c).regs = (s.cell c).regs := by
  have hs : (s.answer c a).cell c = { s.cell c with rt := { s.rt c with
      answers := (s.rt c).answers ++ [a], ansSince := if (s.rt c).answers.isEmpty then s.ncyc else (s.rt c).ansSince } } := by
    rw [State.answer, if_pos h]
    exact s.cell_modCell_same c _
  rw [State.rt, hs]
  exact ⟨rfl, rfl, rfl⟩

/-- A counted refusal of a WR (R170). -/
theorem State.nack_counted {s : State} {c : Nat} (h : s.answerFree c = true) (f : Field) (hf : f.fits) {p : Packet} (hp : p.answerable = true)
    (reason detail : Nat) :
    let t := (s.bump c f).nack c p reason detail
    (t.cell c).cm = (s.cell c).cm ∧ (t.rt c).answers = (s.rt c).answers ++ [nackFor p reason detail] ∧ (s.cell c).regs.counted (t.cell c).regs f ∧
    s.Within t c := by
  intro t
  have ht : t = (s.bump c f).answer c (nackFor p reason detail) := if_pos hp
  have hfree : (s.bump c f).answerFree c = true := by rw [State.answerFree, State.rt_bump]; exact h
  obtain ⟨hans, hcm, hregs⟩ := State.answers_answer hfree (nackFor p reason detail)
  rw [ht, hans, hcm, hregs, State.rt_bump]
  exact ⟨(s.recorded_bump c f).cm, rfl, s.counted_bump c f hf, (s.recorded_bump c f).toWithin.trans (State.answer_keeps _ c _).1⟩

/-! ## Writes at the destination (R170, R177) -/

/-- A WR that finds no tranche opens one of its own. -/
theorem joinTranche_nil (id size now cell : Nat) (p : Packet) (tag : W32) :
    joinTranche [] id size now cell p tag =
      ([⟨id, p.srcChip, p.srcCell, p.cls, p.granule / 64, p.parterre, cell, 1, p.cmark, tag, now, false, 1, false⟩], id) := rfl

section writes

variable {s : State} {c : Nat} {p : Packet}

theorem State.wrLand_writes {w : Nat} (hw : (s.cell c).regs.window p.parterre.toNat p.granule 1 true = some w) (ht : (s.ni c).tranches = [])
    (pl : Plane) :
    let t := s.wrLand c pl p
    (t.cell c).cm = mwriteList (s.cell c).cm ((s.cell c).regs.windowAddr w p.granule) (p.plBytes.take p.length.toNat) ∧
    (∃ x, (t.ni c).tranches = [x] ∧ x.srcChip = p.srcChip ∧ x.srcCell = p.srcCell ∧ x.block = p.granule / 64 ∧ x.count = 1 ∧ x.pend = 1) ∧
    s.Within t c := by
  have hland : s.wrLand c pl p = (s.tagRx c (s.rxTag c p)).landed c ((s.cell c).regs.windowAddr w p.granule) (p.plBytes.take p.length.toNat)
      fun x =>
        let j := joinTranche x.ni.tranches x.ni.nextId trancheSize s.ncyc 0 p (BitVec.ofNat 32 (x.regs.get (NI_WIN_TAG_tag.at w)))
        ({ x.ni with tranches := j.1, nextId := x.ni.nextId + 1 } : Ni).request true (.tranche j.2) := by
    simp only [State.wrLand, hw]
    rfl
  have hni : ((s.tagRx c (s.rxTag c p)).cell c).ni.tranches = [] := (congrArg Ni.tranches (s.ni_tagRx c _)).trans ht
  simp only [hland, State.ni_landed, State.cm_landed, State.cm_tagRx, Ni.request, hni, joinTranche_nil]
  exact ⟨trivial, ⟨_, rfl, rfl, rfl, rfl, rfl, rfl⟩, (s.within_tagRx c _).trans (State.within_landed _ c _ _ _)⟩

variable (hc : cellOk c = true)
include hc

theorem wrEject_writes {w : Nat} (hr : s.receives c .request p) (hp : p.type = tWR) (ht : (s.ni c).tranches = [])
    (hw : (s.cell c).regs.window p.parterre.toNat p.granule 1 true = some w) :
    completes (.wrEject c) s fun t =>
      (t.cell c).cm = mwriteList (s.cell c).cm ((s.cell c).regs.windowAddr w p.granule) (p.plBytes.take p.length.toNat) ∧
      (∃ x, (t.ni c).tranches = [x] ∧ x.srcChip = p.srcChip ∧ x.srcCell = p.srcCell ∧ x.block = p.granule / 64 ∧ x.count = 1 ∧ x.pend = 1) ∧
      s.onlyCell t c := by
  obtain ⟨hcm, htr, hin⟩ := State.wrLand_writes (s := s.ejectTaken c tWR) (by rwa [State.regs_ejectTaken]) (by rwa [State.ni_ejectTaken]) .request
  rw [State.cm_ejectTaken, State.regs_ejectTaken] at hcm
  exact completes_ejected rfl hc hr hp ⟨hcm, htr, ((s.within_ejectTaken c tWR).trans hin).only⟩

theorem wrEject_refuses (hr : s.receives c .request p) (hp : p.type = tWR)
    (hw : (s.cell c).regs.window p.parterre.toNat p.granule 1 true = none) :
    completes (.wrEject c) s fun t =>
      (t.cell c).cm = (s.cell c).cm ∧ (t.rt c).answers = (s.rt c).answers ++ [nackFor p 5 p.granule] ∧
      (s.cell c).regs.counted (t.cell c).regs NI_BULK_STAT_window_fault ∧ s.onlyCell t c := by
  obtain ⟨-, -, -, -, -, -, -, hfree⟩ := id hr
  have hfree' : (s.ejectTaken c tWR).answerFree c = true := by rwa [State.answerFree, State.rt_ejectTaken, ← State.answerFree]
  have hans : p.answerable = true := by simp [Packet.answerable, hp, tWR]
  obtain ⟨hcm, hrt, hcnt, hin⟩ := State.nack_counted hfree' NI_BULK_STAT_window_fault (by decide) hans rWINDOW p.granule
  have hland : (s.ejectTaken c tWR).wrLand c .request p =
      ((s.ejectTaken c tWR).bump c NI_BULK_STAT_window_fault).nack c p rWINDOW p.granule := by
    simp [State.wrLand, hw]
  rw [← hland] at hcm hrt hcnt hin
  rw [State.cm_ejectTaken] at hcm
  rw [State.rt_ejectTaken] at hrt
  rw [State.regs_ejectTaken] at hcnt
  exact completes_ejected rfl hc hr hp ⟨hcm, hrt, hcnt, ((s.within_ejectTaken c tWR).trans hin).only⟩

end writes

/-! ## Tranches (R70, R177) -/

section tranches

variable {s : State} {c : Nat} (hc : cellOk c = true) {x : Tranche}
include hc

theorem trancheFlush_due {i : Nat} (hx : (s.ni c).tranches[i]? = some x) (hj : x.joined + s.cget c NI_BULK_CTL_flush_ncyc ≤ s.ncyc) :
    completes (.trancheFlush c i) s fun t =>
      (t.ni c).tranches = (s.ni c).tranches.map (fun k => if k.id = x.id then { k with due := true } else k) ∧ s.onlyCell t c := by
  refine completes_next (s.modNi c fun y => { y with tranches := mapIf (fun k => k.id == x.id) (fun k => { k with due := true }) y.tranches })
    rfl hc ?_ ⟨?_, ?_⟩
  · rw [hx]
    exact if_neg (Nat.not_lt.mpr hj)
  · rw [State.keeping_ni, State.ni_modNi_same]
    simp only [mapIf, beq_iff_eq]
  · exact (s.within_modCell c _).only

theorem trancheComplSend_sends (hx : (s.ni c).tranches.find? (fun x => x.due && x.pend == 0 && !x.bad) = some x) (hh : (s.ni c).hold = .none)
    (hd : (s.ni c).didNow dCompl s.ncyc = false) (hf : s.answerFree c = true) :
    completes (.trancheComplSend c) s fun t =>
      (t.rt c).answers = (s.rt c).answers ++ [x.compl s.chipId (BitVec.ofNat 14 c)] ∧ (∀ k ∈ (t.ni c).tranches, k.id ≠ x.id) ∧ s.onlyCell t c := by
  let u := s.modNi c fun y => { y with tranches := y.tranches.filter fun k => k.id != x.id }.note dCompl s.ncyc
  have hfree : u.answerFree c = true := by rwa [State.answerFree, State.rt_modNi, ← State.answerFree]
  obtain ⟨hans, -, -⟩ := State.answers_answer hfree (x.compl s.chipId (BitVec.ofNat 14 c))
  obtain ⟨hin, hni⟩ := u.answer_keeps c (x.compl s.chipId (BitVec.ofNat 14 c))
  refine completes_next (u.answer c (x.compl s.chipId (BitVec.ofNat 14 c))) rfl hc ?_ ⟨?_, ?_, ((s.within_modNi c _).trans hin).only⟩
  · rw [hx]
    exact if_neg (by simp [hh, hd, hf])
  · rw [State.keeping_rt, hans, State.rt_modNi]
  · rw [State.keeping_ni, hni, State.ni_modNi_same]
    intro k hk
    simpa using (List.mem_filter.1 hk).2

end tranches

/-! ## Reads (R170, R178, R179, R197) -/

section reads

variable {s : State} {c : Nat} {p : Packet}

theorem State.rdTake_serves {w : Nat} (hw : (s.cell c).regs.window p.parterre.toNat p.granule 1 false = some w)
    (hf : rdFails p.granule (rdFields p).1 (rdFields p).2.1
      ((s.cell c).regs.get (NI_WIN_A_base.at w) + (s.cell c).regs.get (NI_WIN_A_count_m1.at w) + 1 - p.granule) = none)
    (hl : (s.ni c).serves.length < 32) :
    let t := s.rdTake c p
    (∃ v, (t.ni c).serves = (s.ni c).serves ++ [v] ∧ v.req = p ∧ v.granule = p.granule ∧ v.land_ = (rdFields p).1 ∧ v.count = (rdFields p).2.1 ∧
      v.taken = 0) ∧ (t.cell c).cm = (s.cell c).cm ∧ s.Within t c := by
  simp only [State.rdTake, hw, hf, serveSize, if_neg (Nat.not_le.mpr hl), State.ni_modNi_same, State.cm_modNi, State.ni_tagRx, State.cm_tagRx]
  exact ⟨⟨_, rfl, rfl, rfl, rfl, rfl, rfl⟩, trivial, (s.within_tagRx c _).trans (State.within_modNi _ c _)⟩

theorem State.rdLand_writes {w tok : Nat} {tk : Token} {id land_ count got ll gr : Nat}
    (hw : (s.cell c).regs.window p.parterre.toNat p.granule 1 true = some w)
    (ht : (s.ni c).readToken (p.srcChip, p.srcCell) p.granule = some (tok, tk)) (hu : tk.use = .read id land_ count got ll gr)
    (hq : (s.ni c).quarantined p.granule = false) (hl : p.length.toNat = if p.granule + 1 = land_ + count then ll else 48) :
    let t := s.rdLand c p
    (t.cell c).cm = mwriteList (s.cell c).cm ((s.cell c).regs.windowAddr w p.granule) (p.plBytes.take p.length.toNat) ∧
    (t.ni c).tokens = (s.ni c).tokens ∧ s.Within t c := by
  have hland : s.rdLand c p = (s.tagRx c (s.rxTag c p)).landed c ((s.cell c).regs.windowAddr w p.granule) (p.plBytes.take p.length.toNat)
      fun x => x.ni.request true (.readData tk.order) := by
    simp only [State.rdLand, hw, ht, hu, hq, hl, ne_eq, not_true, if_false, Bool.false_eq_true]
    rfl
  simp only [hland, State.ni_landed, State.cm_landed, State.cm_tagRx, Ni.request]
  exact ⟨trivial, congrArg Ni.tokens (s.ni_tagRx c _), (s.within_tagRx c _).trans (State.within_landed _ c _ _ _)⟩

variable (hc : cellOk c = true)
include hc

theorem rdReqEject_serves {w : Nat} (hr : s.receives c .request p) (hp : p.type = tRD_REQ)
    (hw : (s.cell c).regs.window p.parterre.toNat p.granule 1 false = some w)
    (hf : rdFails p.granule (rdFields p).1 (rdFields p).2.1
      ((s.cell c).regs.get (NI_WIN_A_base.at w) + (s.cell c).regs.get (NI_WIN_A_count_m1.at w) + 1 - p.granule) = none)
    (hl : (s.ni c).serves.length < 32) :
    completes (.rdReqEject c) s fun t =>
      (∃ v, (t.ni c).serves = (s.ni c).serves ++ [v] ∧ v.req = p ∧ v.granule = p.granule ∧ v.land_ = (rdFields p).1 ∧ v.count = (rdFields p).2.1 ∧
        v.taken = 0) ∧ (t.cell c).cm = (s.cell c).cm ∧ s.onlyCell t c := by
  obtain ⟨hs, hcm, hin⟩ := State.rdTake_serves (s := s.ejectTaken c tRD_REQ) (by rwa [State.regs_ejectTaken]) (by rwa [State.regs_ejectTaken])
    (by rwa [State.ni_ejectTaken])
  rw [State.ni_ejectTaken] at hs
  rw [State.cm_ejectTaken] at hcm
  exact completes_ejected rfl hc hr hp ⟨hs, hcm, ((s.within_ejectTaken c tRD_REQ).trans hin).only⟩

theorem rdDataEject_writes {w tok : Nat} {tk : Token} {id land_ count got ll gr : Nat} (hr : s.receives c .reply p) (hp : p.type = tRD_DATA)
    (hw : (s.cell c).regs.window p.parterre.toNat p.granule 1 true = some w)
    (ht : (s.ni c).readToken (p.srcChip, p.srcCell) p.granule = some (tok, tk)) (hu : tk.use = .read id land_ count got ll gr)
    (hq : (s.ni c).quarantined p.granule = false) (hl : p.length.toNat = if p.granule + 1 = land_ + count then ll else 48) :
    completes (.rdDataEject c) s fun t =>
      (t.cell c).cm = mwriteList (s.cell c).cm ((s.cell c).regs.windowAddr w p.granule) (p.plBytes.take p.length.toNat) ∧
      (t.ni c).tokens = (s.ni c).tokens ∧ s.onlyCell t c := by
  have ht' : ((s.ejectTaken c tRD_DATA).ni c).readToken (p.srcChip, p.srcCell) p.granule = some (tok, tk) := by
    rw [State.ni_ejectTaken]
    exact ht
  have hq' : ((s.ejectTaken c tRD_DATA).ni c).quarantined p.granule = false := by
    rw [State.ni_ejectTaken]
    exact hq
  obtain ⟨hcm, htok, hin⟩ := State.rdLand_writes (s := s.ejectTaken c tRD_DATA) (by rwa [State.regs_ejectTaken]) ht' hu hq' hl
  rw [State.cm_ejectTaken, State.regs_ejectTaken] at hcm
  rw [State.ni_ejectTaken] at htok
  exact completes_ejected rfl hc hr hp ⟨hcm, htok, ((s.within_ejectTaken c tRD_DATA).trans hin).only⟩

theorem quarantineExpire_drops (s : State) : completes (.quarantineExpire c) s fun t =>
    (t.ni c).quarantine = (s.ni c).quarantine.filter (fun q => decide (s.now < q.2.2)) ∧ (t.ni c).tokens = (s.ni c).tokens ∧ s.onlyCell t c := by
  refine completes_onUnit rfl hc ?_
  rw [State.keeping_ni, State.ni_modNi_same]
  exact ⟨by simp only [← decide_not, Nat.not_le], rfl, (s.within_modCell c _).only⟩

end reads

/-! ## Landings (R229) -/

/-- A landing that is not done after a packet of its burst (R229). -/
def McLandRt.took (m : McLandRt) (p : Packet) : McLandRt :=
  ⟨m.received + 1, if p.last = 1 then p.seq.toNat + 1 else m.expected, false, m.pend + 1⟩

section landings

variable {s : State} {c : Nat} {p : Packet} {i w : Nat}

theorem State.mcLand_writes (hm : (s.cell c).regs.mcLanding p = some i) (hd : ((s.ni c).mcRt i).done = false)
    (hpt : p.parterre.toNat = (s.cell c).regs.get (NI_MC_LAND_parterre.at i))
    (hw : (s.cell c).regs.window p.parterre.toNat ((s.cell c).regs.get (NI_MC_LAND_base.at i) + p.seq.toNat) 1 true = some w) (pl : Plane) :
    let t := s.mcLand c pl p
    (t.cell c).cm = mwriteList (s.cell c).cm ((s.cell c).regs.windowAddr w ((s.cell c).regs.get (NI_MC_LAND_base.at i) + p.seq.toNat))
      (p.plBytes.take p.length.toNat) ∧ ((t.ni c).mcRt i).received = ((s.ni c).mcRt i).received + 1 ∧
    (p.last = 1 → ((t.ni c).mcRt i).expected = p.seq.toNat + 1) ∧ s.Within t c := by
  let L := (s.tagRx c (s.rxTag c p)).landed c ((s.cell c).regs.windowAddr w ((s.cell c).regs.get (NI_MC_LAND_base.at i) + p.seq.toNat))
    (p.plBytes.take p.length.toNat) fun x =>
      ({ x.ni with mcLands := aput x.ni.mcLands i (((s.ni c).mcRt i).took p) } : Ni).request true (.mcLand i)
  have hL : (L.cell c).cm = mwriteList (s.cell c).cm ((s.cell c).regs.windowAddr w ((s.cell c).regs.get (NI_MC_LAND_base.at i) + p.seq.toNat))
      (p.plBytes.take p.length.toNat) ∧ ((L.ni c).mcRt i).received = ((s.ni c).mcRt i).received + 1 ∧
      (p.last = 1 → ((L.ni c).mcRt i).expected = p.seq.toNat + 1) ∧ s.Within L c := by
    simp only [L, State.ni_landed, State.cm_landed, State.cm_tagRx, Ni.request, Ni.mcRt, aget_aput_same, Option.getD_some]
    exact ⟨trivial, rfl, fun h => if_pos h, (s.within_tagRx c _).trans (State.within_landed _ c _ _ _)⟩
  have hland : s.mcLand c pl p = L ∨ s.mcLand c pl p = L.bump c NI_MC_STAT_mc_excess := by
    simp only [State.mcLand, hm, hd, if_pos hpt, hw, Bool.false_eq_true, if_false]
    exact (ite_eq_or_eq _ _ _).symm
  clear_value L
  rcases hland with h | h
  · rw [h]
    exact hL
  · simp only [h, State.ni_bump, (L.recorded_bump c _).cm]
    obtain ⟨hcm, hrec, hexp, hin⟩ := hL
    exact ⟨hcm, hrec, hexp, hin.trans (L.recorded_bump c _).toWithin⟩

theorem mcastEject_writes (hc : cellOk c = true) (hr : s.receives c .request p) (hp : p.type = tMCAST)
    (hm : (s.cell c).regs.mcLanding p = some i) (hd : ((s.ni c).mcRt i).done = false)
    (hpt : p.parterre.toNat = (s.cell c).regs.get (NI_MC_LAND_parterre.at i))
    (hw : (s.cell c).regs.window p.parterre.toNat ((s.cell c).regs.get (NI_MC_LAND_base.at i) + p.seq.toNat) 1 true = some w) :
    completes (.mcastEject c) s fun t =>
      (t.cell c).cm = mwriteList (s.cell c).cm ((s.cell c).regs.windowAddr w ((s.cell c).regs.get (NI_MC_LAND_base.at i) + p.seq.toNat))
        (p.plBytes.take p.length.toNat) ∧ ((t.ni c).mcRt i).received = ((s.ni c).mcRt i).received + 1 ∧
      (p.last = 1 → ((t.ni c).mcRt i).expected = p.seq.toNat + 1) ∧ s.onlyCell t c := by
  have hrt : ((s.ejectTaken c tMCAST).ni c).mcRt i = (s.ni c).mcRt i := by
    rw [State.ni_ejectTaken]
    rfl
  obtain ⟨hcm, hrec, hexp, hin⟩ := State.mcLand_writes (s := s.ejectTaken c tMCAST) (by rwa [State.regs_ejectTaken]) (by rwa [hrt])
    (by rwa [State.regs_ejectTaken]) (by rwa [State.regs_ejectTaken]) .request
  rw [State.cm_ejectTaken, State.regs_ejectTaken] at hcm
  rw [hrt] at hrec
  exact completes_ejected rfl hc hr hp ⟨hcm, hrec, hexp, ((s.within_ejectTaken c tMCAST).trans hin).only⟩

end landings

/-! ## Responses of the cluster port (R497, R498) -/

section responses

variable {s : State} {c : Nat} (hc : cellOk c = true) {tag : Nat} {q : CmReq} (hq : (s.ni c).cmReqs.find? (fun q => q.tag == tag) = some q)
include hc hq

theorem clusterMemoryResponse_reads {r : Nat} (hu : q.use = .descriptor r) :
    completes (.clusterMemoryResponse c tag false) s fun t =>
      ((t.ni c).ring r).fetching = false ∧ (t.ni c).cmReqs = dropFirst (fun q => q.tag == tag) (s.ni c).cmReqs ∧
      ((t.ni c).ring r).fetched = some ((List.range 8).map fun i =>
        mreadWord (s.cell c).cm (descAddr (s.cell c).regs r ((s.ni c).ring r).next + 8 * i)) ∧ s.onlyCell t c := by
  let u := s.modNi c fun x => { x with cmReqs := dropFirst (fun q => q.tag == tag) x.cmReqs }
  have hcell : u.cell c = { s.cell c with ni := { s.ni c with cmReqs := dropFirst (fun q => q.tag == tag) (s.ni c).cmReqs } } :=
    s.cell_modCell_same c _
  refine completes_next (u.cmDone c (.descriptor r) q.write false) rfl hc (by rw [hq, ← hu]) ?_
  simp only [State.cmDone, Bool.and_false, Bool.false_eq_true, if_false, State.keeping_cell, State.ni, State.cell_modCell_same, hcell,
    Ni.ring_modRing]
  exact ⟨trivial, rfl, rfl, ((s.within_modCell c _).trans (u.within_modCell c _)).only⟩

theorem clusterMemoryResponse_lands {id : Nat} (hu : q.use = .tranche id) :
    completes (.clusterMemoryResponse c tag false) s fun t =>
      (t.ni c).tranches = landTranche (s.ni c).tranches id false ∧ (t.ni c).cmReqs = dropFirst (fun q => q.tag == tag) (s.ni c).cmReqs ∧
      s.onlyCell t c := by
  let u := s.modNi c fun x => { x with cmReqs := dropFirst (fun q => q.tag == tag) x.cmReqs }
  refine completes_next (u.cmDone c (.tranche id) q.write false) rfl hc (by rw [hq, ← hu]) ?_
  simp only [State.cmDone, Bool.and_false, Bool.false_eq_true, if_false, State.keeping_ni, State.ni_modNi_same, u]
  exact ⟨trivial, trivial, ((s.within_modCell c _).trans (u.within_modCell c _)).only⟩

end responses

end Sys2Proof.Machine

/-! PROOFS. The bulk windows family: descriptors start and complete, COMPLs are counted and trackers time out (R172 to R175, R180 to R182, R205). -/

namespace Sys2Proof.Machine

/-! ## What counts alone leave (R205, R470, R473) -/

/-- t is s but for what cell c counts: its NI, its memory and the count of failed descriptors are s's. -/
structure State.Tallied (s t : State) (c : Nat) : Prop extends s.Within t c where
  ni : t.ni c = s.ni c
  cm : (t.cell c).cm = (s.cell c).cm
  failed : t.cget c NI_BULK_STAT_desc_failed = s.cget c NI_BULK_STAT_desc_failed

namespace State.Tallied

variable {s t u : State} {c : Nat}

theorem refl (s : State) (c : Nat) : s.Tallied s c := ⟨.refl s c, rfl, rfl, rfl⟩

theorem trans (h : s.Tallied t c) (k : t.Tallied u c) : s.Tallied u c :=
  ⟨h.toWithin.trans k.toWithin, k.ni.trans h.ni, k.cm.trans h.cm, k.failed.trans h.failed⟩

end State.Tallied

section tallied

variable (s : State) (c : Nat)

theorem State.tallied_modCellRegs {f : Regs → Regs} (h : (f (s.cell c).regs).get NI_BULK_STAT_desc_failed = (s.cell c).regs.get NI_BULK_STAT_desc_failed) :
    s.Tallied (s.modCellRegs c f) c :=
  ⟨s.within_modCell c _, s.ni_modCellRegs c c f, (s.recorded_modCellRegs c f).cm, by rw [State.cget, State.regs_modCellRegs, h]; rfl⟩

theorem State.tallied_bump {f : Field} (hf : f.fits) (h : f.apart NI_BULK_STAT_desc_failed) : s.Tallied (s.bump c f) c :=
  s.tallied_modCellRegs c (Regs.get_bump_ne _ _ _ hf h)

/-- A field of a rank of registers from a byte on lies beside every register before it. -/
theorem Field.at_apart {f g : Field} (h : g.off < f.off) (i : Nat) : (f.at i).apart g :=
  .inl (Nat.ne_of_gt (Nat.lt_of_lt_of_le h (Nat.le_add_right _ _)))

theorem State.tallied_tagRx (tag : W32) : s.Tallied (s.tagRx c tag) c := by
  refine s.tallied_modCellRegs c ?_
  have key (l : List Nat) (b : Regs → Nat → Bool) (r : Regs) :
      (l.foldl (fun r i => if b r i then r.bump (NI_TAG_CNT_rx.at i) else r) r).get NI_BULK_STAT_desc_failed =
        r.get NI_BULK_STAT_desc_failed := by
    induction l generalizing r with
    | nil => rfl
    | cons i l ih =>
      rw [List.foldl_cons, ih]
      split
      · exact Regs.get_bump_ne r _ _ (show NI_TAG_CNT_rx.fits by decide) (Field.at_apart (by decide) i)
      · rfl
  exact key _ _ _

theorem State.tallied_countEcho (p : Packet) : s.Tallied (s.countEcho c p) c := by
  unfold State.countEcho
  split
  · exact s.tallied_bump c (by decide) (.inl (by decide))
  · exact .refl s c

/-- The multiplier and the cut count of a ring lie beside the count of failed descriptors (R205, R210). -/
theorem Regs.failed_setMult (g : Regs) (r m k : Nat) :
    ((g.set (NI_RING_WEIR_cc_mult.at r) m).set (NI_RING_WEIR_cut_skip.at r) k).get NI_BULK_STAT_desc_failed = g.get NI_BULK_STAT_desc_failed :=
  (Regs.get_set_ne _ (NI_RING_WEIR_cut_skip.at r) _ k (show NI_RING_WEIR_cut_skip.fits by decide) (Field.at_apart (by decide) r)).trans
    (Regs.get_set_ne _ (NI_RING_WEIR_cc_mult.at r) _ m (show NI_RING_WEIR_cc_mult.fits by decide) (Field.at_apart (by decide) r))

theorem State.tallied_ringMult (r : Nat) (echo : Bool) : s.Tallied (s.ringMult c r echo) c := by
  unfold State.ringMult
  extract_lets g a u
  have hu : s.Tallied u c := s.tallied_modCellRegs c (Regs.failed_setMult _ r _ _)
  clear_value u
  split
  · exact .refl s c
  · split
    · exact hu.trans (u.tallied_bump c (by decide) (.inl (by decide)))
    · exact hu

end tallied

/-! ## The only descriptor of an NI completes (R180, R181) -/

section completes

variable {s : State} {c : Nat} {d : Desc}

/-- A strobe is a signal and a note of the NI: its descriptors and rings and the registers stay (R181). -/
theorem State.strobe_keeps (s : State) (c n : Nat) :
    ((s.strobe c n).ni c).descs = (s.ni c).descs ∧ ((s.strobe c n).ni c).rings = (s.ni c).rings ∧
    ((s.strobe c n).cell c).regs = (s.cell c).regs := by
  simp only [State.strobe]
  split
  · rw [State.ni_modNi_same, State.regs_modNi]
    exact ⟨rfl, rfl, rfl⟩
  · rw [State.ni_modNi_same, State.regs_modNi]
    exact ⟨rfl, rfl, rfl⟩

/-- A change of the only descriptor by its number. -/
theorem Ni.descs_modDesc_single {x : Ni} (h : x.descs = [d]) (f : Desc → Desc) : (x.modDesc d.id f).descs = [f d] := by
  simp [Ni.modDesc, mapIf, h]

theorem Ni.desc_single {x : Ni} (h : x.descs = [d]) : x.desc d.id = some d := by simp [Ni.desc, h]

/-- The descriptor is done, the ring has yet to pass it; one that fails is counted (R180). -/
theorem State.finishDesc_single (h : (s.ni c).descs = [d]) (st reason : Nat) :
    let t := s.finishDesc c d st reason
    (∃ d', (t.ni c).descs = [d'] ∧ d'.ring = d.ring ∧ d'.done = true) ∧ (t.ni c).rings = (s.ni c).rings ∧
    (t.cell c).regs = if st = stDONE then (s.cell c).regs else (s.cell c).regs.bump NI_BULK_STAT_desc_failed := by
  unfold State.finishDesc
  extract_lets d' u t
  have ht : t = if st = stDONE then u else u.bump c NI_BULK_STAT_desc_failed := rfl
  have hu : u.cell c = { ((s.cell c).writeStatus s.time d') with ni := (s.ni c).modDesc d.id fun _ => d' } := s.cell_modCell_same c _
  have hni : u.ni c = (s.ni c).modDesc d.id fun _ => d' := congrArg Cell.ni hu
  have hregs : (u.cell c).regs = (s.cell c).regs := by
    simp only [hu, Cell.regs_writeStatus]
  have hd : ∃ e, (u.ni c).descs = [e] ∧ e.ring = d.ring ∧ e.done = true := ⟨d', by rw [hni, Ni.descs_modDesc_single h], rfl, rfl⟩
  have hrings : (u.ni c).rings = (s.ni c).rings := by
    rw [hni]
    rfl
  clear_value u t
  by_cases hst : st = stDONE
  · rw [ht, if_pos hst, if_pos hst]
    exact ⟨hd, hrings, hregs⟩
  · rw [ht, if_neg hst, if_neg hst, State.ni_bump, State.regs_bump, hregs]
    exact ⟨hd, hrings, rfl⟩

/-- CI passes the only descriptor once it is done (R181). -/
theorem State.advanceCi_single (h : (s.ni c).descs = [d]) (hd : d.done = true) (n : Nat) :
    let t := s.advanceCi c d.ring (n + 1)
    (t.ni c).descs = [] ∧ ((t.ni c).ring d.ring).ci = ((s.ni c).ring d.ring).ci + 1 ∧ (t.cell c).regs = (s.cell c).regs := by
  let u := s.modNi c fun x =>
    ({ x with descs := x.descs.filter fun k => k.id != d.id }).modRing d.ring fun k => { k with ci := k.ci + 1 }
  let v := if d.notify && (u.cell c).regs.flag (NI_DRING_notify_en.at d.ring) then u.strobe c d.ring else u
  have hu : (u.ni c).descs = [] ∧ (u.ni c).rings = aput (s.ni c).rings d.ring { (s.ni c).ring d.ring with ci := ((s.ni c).ring d.ring).ci + 1 } ∧
      (u.cell c).regs = (s.cell c).regs := by
    rw [State.ni_modNi_same, State.regs_modNi]
    exact ⟨by simp [Ni.modRing, h], rfl, rfl⟩
  have hv : (v.ni c).descs = (u.ni c).descs ∧ (v.ni c).rings = (u.ni c).rings ∧ (v.cell c).regs = (u.cell c).regs := by
    simp only [v]
    split
    · exact u.strobe_keeps c d.ring
    · exact ⟨rfl, rfl, rfl⟩
  obtain ⟨hud, hur, hug⟩ := hu
  obtain ⟨hvd, hvr, hvg⟩ := hv
  have hstop : v.advanceCi c d.ring n = v := by
    cases n with
    | zero => rfl
    | succ n => simp only [State.advanceCi, hvd, hud, List.find?_nil]
  have hstep : s.advanceCi c d.ring (n + 1) = v.advanceCi c d.ring n := by
    simp only [State.advanceCi, h, List.find?_cons, beq_self_eq_true, hd, Bool.true_or, if_true]
    rfl
  simp only [hstep, hstop, hvd, hud, hvg, hug, Ni.ring, hvr, hur, aget_aput_same, Option.getD_some]
  exact ⟨trivial, trivial, trivial⟩

/-- The only descriptor of an NI completes: CI passes it, and a failure is counted (R180, R181). -/
theorem State.completeDesc_single (h : (s.ni c).descs = [d]) (hd : d.done = false) (st reason : Nat) :
    let t := s.completeDesc c d.id st reason
    (t.ni c).descs = [] ∧ ((t.ni c).ring d.ring).ci = ((s.ni c).ring d.ring).ci + 1 ∧
    (t.cell c).regs = (if st = stDONE then (s.cell c).regs else (s.cell c).regs.bump NI_BULK_STAT_desc_failed) ∧ s.Within t c := by
  obtain ⟨⟨d', hds, hring, hdone⟩, hrings, hregs⟩ := State.finishDesc_single h st reason
  obtain ⟨hgone, hci, hkeep⟩ := State.advanceCi_single hds hdone 1
  have ht : s.completeDesc c d.id st reason = (s.finishDesc c d st reason).advanceCi c d'.ring 2 := by
    simp only [State.completeDesc, Ni.desc_single h, hd, h, hring, Bool.false_eq_true, if_false]
    rfl
  rw [Ni.ring, Ni.ring, hrings, ← Ni.ring, ← Ni.ring, hring] at hci
  refine ⟨by rw [ht, hgone], ?_, by rw [ht, hkeep, hregs], (s.steady_completeDesc c d.id st reason).toWithin⟩
  rw [ht, hring]
  exact hci

end completes

/-! ## Descriptors start (R172, R174, R175) -/

/-- The read of the next descriptor changes no started one, and of a ring only whether it is being read (R172). -/
theorem Ni.readDesc_keeps (x : Ni) (r j : Nat) :
    (x.readDesc r).descs = x.descs ∧ ∃ b, (x.readDesc r).ring j = { x.ring j with fetching := b } := by
  simp only [Ni.readDesc]
  split
  · refine ⟨rfl, ?_⟩
    by_cases hj : j = r
    · subst hj
      exact ⟨true, x.ring_modRing j fun k => { k with fetching := true }⟩
    · exact ⟨(x.ring j).fetching, x.ring_modRing_ne (fun k => { k with fetching := true }) hj⟩
  · exact ⟨rfl, (x.ring j).fetching, rfl⟩

/-- A descriptor started is the last of the NI's, and its ring goes on to the next (R172). -/
theorem State.enlist_starts (s : State) (c : Nat) {d : Desc} {r : Nat} (hr : d.ring = r) :
    let t := s.enlist c d
    (t.ni c).descs = (s.ni c).descs ++ [d] ∧ ((t.ni c).ring r).next = ((s.ni c).ring r).next + 1 ∧
    ((t.ni c).ring r).ci = ((s.ni c).ring r).ci ∧ (t.cell c).cm = (s.cell c).cm ∧ (t.cell c).regs = (s.cell c).regs ∧ s.Within t c := by
  subst hr
  let x : Ni := ({ s.ni c with descs := (s.ni c).descs ++ [d], nextId := (s.ni c).nextId + 1 } : Ni).modRing d.ring fun k =>
    { k with next := k.next + 1, fetched := none, bad := false,
             posts := k.posts.filter fun e => decide ((d.idx + 1 - k.ci).toNat < (e.1 - k.ci).toNat) }
  obtain ⟨hds, b, hb⟩ := x.readDesc_keeps d.ring d.ring
  have ht : (s.enlist c d).ni c = x.readDesc d.ring := s.ni_modNi_same c _
  rw [Ni.ring_modRing] at hb
  dsimp only
  rw [ht, hds, hb]
  exact ⟨rfl, rfl, rfl, s.cm_modNi c _ c, s.regs_modNi c c _, s.within_modNi c _⟩

/-- An NI without a started descriptor has a tracker free and nothing in the way (R175). -/
theorem Ni.mayStart_idle {x : Ni} (h : x.descs = []) (d : Desc) (fence : Bool) : x.mayStart d fence = true := by
  simp [Ni.mayStart, h, trackers]

section starts

variable {s : State} {c r : Nat} {ws : List W64} (hc : cellOk c = true) (hr : r < 4) (hh : (s.ni c).hold = .none) (hd : (s.ni c).descs = [])
  (hb : ((s.ni c).ring r).bad = false) (hf : ((s.ni c).ring r).fetched = some ws) {d : Desc}
  (hdef : d = Desc.ofWords (s.ni c).nextId r (((s.ni c).ring r).postedAt ((s.ni c).ring r).next) ((s.ni c).ring r).next ws)
include hh hd hb hf hdef

theorem State.startDesc_bad {st re : Nat} (hk : s.checkDesc c d ws = (s, .bad st re)) :
    s.startDesc c r = (s.enlist c d).completeDesc c d.id st re := by
  subst hdef
  simp only [State.startDesc, hh, hd, hb, hf, hk, List.any_nil, ne_eq, not_true, Bool.false_eq_true, if_false, Bool.or_false, decide_false]

include hr in
theorem State.startDesc_good {chip : BitVec 13} {wire : BitVec 14} (hk : s.checkDesc c d ws = (s, .good chip wire)) (hl : d.length ≠ 0) :
    s.startDesc c r = s.enlist c { d with peerChip := chip, peerWire := wire } := by
  subst hdef
  simp only [State.startDesc, hh, hd, hb, hf, hk, List.any_nil, ne_eq, not_true, Bool.false_eq_true, if_false, Bool.or_false, decide_false,
    if_pos hr, Ni.mayStart_idle hd, Bool.not_true, if_neg hl, Nat.lt_irrefl, Bool.false_and]
  rfl

include hc hr

theorem descriptorStart_starts {chip : BitVec 13} {wire : BitVec 14} (hk : s.checkDesc c d ws = (s, .good chip wire)) (hl : d.length ≠ 0) :
    completes (.descriptorStart c r) s fun t =>
      (t.ni c).descs = [{ d with peerChip := chip, peerWire := wire }] ∧ ((t.ni c).ring r).next = ((s.ni c).ring r).next + 1 ∧
      ((t.ni c).ring r).ci = ((s.ni c).ring r).ci ∧ (t.cell c).cm = (s.cell c).cm ∧ s.onlyCell t c := by
  have hring : ({ d with peerChip := chip, peerWire := wire } : Desc).ring = r := by rw [hdef]; rfl
  obtain ⟨hds, hnext, hci, hcm, -, hin⟩ := s.enlist_starts c hring
  rw [hd, List.nil_append] at hds
  exact completes_next _ rfl (by simp [Instr.wf, hc, ringOk, show r < 68 by omega]) (State.startDesc_good hr hh hd hb hf hdef hk hl)
    ⟨hds, hnext, hci, hcm, hin.only⟩

theorem descriptorStart_fails {st re : Nat} (hk : s.checkDesc c d ws = (s, .bad st re)) (hst : st ≠ 0) :
    completes (.descriptorStart c r) s fun t =>
      (t.ni c).descs = [] ∧ ((t.ni c).ring r).ci = ((s.ni c).ring r).ci + 1 ∧
      (s.cell c).regs.counted (t.cell c).regs NI_BULK_STAT_desc_failed ∧ s.onlyCell t c := by
  have hring : d.ring = r := by rw [hdef]; rfl
  have hdone : d.done = false := by rw [hdef]; rfl
  obtain ⟨hds, -, hci, -, hregs, hin⟩ := s.enlist_starts c hring
  rw [hd, List.nil_append] at hds
  obtain ⟨hgone, hpast, hcount, hin'⟩ := State.completeDesc_single hds hdone st re
  rw [hring, hci] at hpast
  rw [if_neg (show st ≠ stDONE from hst), hregs] at hcount
  refine completes_next _ rfl (by simp [Instr.wf, hc, ringOk, show r < 68 by omega]) (State.startDesc_bad hh hd hb hf hdef hk)
    ⟨hgone, hpast, ?_, (hin.trans hin').only⟩
  rw [State.keeping_cell, hcount]
  exact Regs.get_bump_same _ _ (by decide)

end starts

/-! ## Trackers and completions (R180 to R182, R205) -/

section trackers

variable {s : State} {c : Nat} {d : Desc} (hc : cellOk c = true) (hd : (s.ni c).descs = [d])
include hc hd

theorem trackerTimeout_fails {t0 us : Nat} (hdone : d.done = false) (ht : d.tracker = some (t0, us)) (hx : expired s.now t0 us = true) :
    completes (.trackerTimeout c 0) s fun t =>
      (t.ni c).descs = [] ∧ ((t.ni c).ring d.ring).ci = ((s.ni c).ring d.ring).ci + 1 ∧
      (s.cell c).regs.counted (t.cell c).regs NI_BULK_STAT_desc_failed ∧ s.onlyCell t c := by
  obtain ⟨hgone, hpast, hcount, hin⟩ := State.completeDesc_single hd hdone stINCOMPLETE 0
  refine completes_next (s.completeDesc c d.id stINCOMPLETE 0) rfl hc ?_ ⟨hgone, hpast, ?_, hin.only⟩
  · simp only [hd, List.getElem?_cons_zero, ht, hdone, hx, Bool.not_true, Bool.or_self, Bool.false_eq_true, if_false]
  · rw [State.keeping_cell, hcount, if_neg (by decide)]
    exact Regs.get_bump_same _ _ (by decide)

omit hc in
/-- A COMPL restarts the timer of the only descriptor or leaves it (R180). -/
theorem State.rearmTracker_single :
    let t := s.rearmTracker c d.id
    (∃ tr, (t.ni c).descs = [{ d with tracker := tr }]) ∧ (t.ni c).rings = (s.ni c).rings ∧ (t.cell c).cm = (s.cell c).cm ∧
    (t.cell c).regs = (s.cell c).regs ∧ s.Within t c := by
  simp only [State.rearmTracker, Ni.desc_single hd]
  split
  · simp only [State.armTracker, State.ni_modNi_same, State.cm_modNi, State.regs_modNi, Ni.descs_modDesc_single hd]
    exact ⟨⟨_, rfl⟩, rfl, trivial, trivial, s.within_modNi c _⟩
  · exact ⟨⟨d.tracker, hd⟩, rfl, rfl, rfl, .refl s c⟩

end trackers

section completions

variable {s : State} {c : Nat} {d : Desc} {p : Packet}

/-- A WRITE of which n packets more are confirmed, its timer set anew (R180, R182). -/
def Desc.confirm (d : Desc) (n : Nat) (tr : Option (Nat × Nat)) : Desc := { d with confirmed := d.confirmed + n, tracker := tr }

/-- The state in which a COMPL has counted the packets it confirms, on the only descriptor of the NI (R182). -/
def State.complCounted (s : State) (c : Nat) (d : Desc) (p : Packet) : State :=
  (((((s.countEcho c p).tagRx c d.tag).modNi c fun x => x.modDesc d.id fun d => { d with confirmed := d.confirmed + p.pl 0 2 }).ringMult c d.ring
    (p.echo == 1)).rearmTracker c d.id)

theorem State.complCounted_counts (hd : (s.ni c).descs = [d]) :
    let t := s.complCounted c d p
    (∃ tr, (t.ni c).descs = [d.confirm (p.pl 0 2) tr]) ∧ (t.ni c).rings = (s.ni c).rings ∧
    (t.cell c).cm = (s.cell c).cm ∧ t.cget c NI_BULK_STAT_desc_failed = s.cget c NI_BULK_STAT_desc_failed ∧ s.Within t c := by
  let u := (s.countEcho c p).tagRx c d.tag
  have hu : s.Tallied u c := (s.tallied_countEcho c p).trans (State.tallied_tagRx _ c _)
  let v := u.modNi c fun x => x.modDesc d.id fun d => { d with confirmed := d.confirmed + p.pl 0 2 }
  have hvd : (v.ni c).descs = [{ d with confirmed := d.confirmed + p.pl 0 2 }] := by
    rw [State.ni_modNi_same, Ni.descs_modDesc_single (by rw [hu.ni, hd])]
  have hvr : (v.ni c).rings = (s.ni c).rings := by
    rw [State.ni_modNi_same, hu.ni]
    rfl
  have hvc : (v.cell c).cm = (s.cell c).cm := (u.cm_modNi c _ c).trans hu.cm
  have hvf : v.cget c NI_BULK_STAT_desc_failed = s.cget c NI_BULK_STAT_desc_failed := by
    rw [State.cget, State.regs_modNi, ← State.cget, hu.failed]
  have hw := v.tallied_ringMult c d.ring (p.echo == 1)
  obtain ⟨htr, hr, hcm, hregs, hin⟩ := State.rearmTracker_single (s := v.ringMult c d.ring (p.echo == 1)) (by rw [hw.ni, hvd])
  refine ⟨htr, hr.trans (by rw [hw.ni, hvr]), hcm.trans (hw.cm.trans hvc), ?_,
    ((hu.toWithin.trans (u.within_modNi c _)).trans hw.toWithin).trans hin⟩
  exact (congrArg (Regs.get · NI_BULK_STAT_desc_failed) hregs).trans (hw.failed.trans hvf)

/-- A COMPL that a WRITE's tracker matches is counted on it, then the WRITE is looked at (R182). -/
theorem exec_complEject (hr : s.receives c .reply p) (hp : p.type = tCOMPL)
    (ht : (s.ni c).tracker (p.srcChip, p.srcCell) p.granule (p.granule + 63) p.cls.toNat = some d) :
    exec (.complEject c) s = onUnit (Instr.complEject c).wf s (((s.ejectTaken c tCOMPL).complCounted c d p).checkWrite c d.id) := by
  have ht' : (((s.ejectTaken c tCOMPL).countEcho c p).ni c).tracker (p.srcChip, p.srcCell) p.granule (p.granule + 63) p.cls.toNat = some d := by
    rw [(State.tallied_countEcho _ c p).ni, State.ni_ejectTaken]
    exact ht
  simp only [exec, execComplEject, State.ejectType_receives hr hp, ht']
  rfl

/-- A WRITE waits while packets of it are neither confirmed nor refused (R180). -/
theorem State.checkWrite_waits (hd : (s.ni c).descs = [d]) (h : d.confirmed + d.nacked < d.injected) : s.checkWrite c d.id = s := by
  simp only [State.checkWrite, Ni.desc_single hd]
  exact if_neg (by simp [Nat.not_le.mpr h])

/-- A WRITE completes DONE where every packet of it is confirmed and none has failed (R180). -/
theorem State.checkWrite_done (hd : (s.ni c).descs = [d]) (hop : d.op = 1) (hdone : d.done = false) (hin : d.n ≤ d.injected)
    (hall : d.injected ≤ d.confirmed + d.nacked) (hn : d.n ≤ d.confirmed) (hf : d.fail = none) :
    s.checkWrite c d.id = s.completeDesc c d.id stDONE 0 := by
  simp only [State.checkWrite, Ni.desc_single hd]
  rw [if_pos (by simp [hop, hdone, Desc.allIn, hin, hall]), Desc.outcome, hf, if_pos hn]

section ejected

variable (hc : cellOk c = true) (hr : s.receives c .reply p) (hp : p.type = tCOMPL) (hd : (s.ni c).descs = [d])
  (ht : (s.ni c).tracker (p.srcChip, p.srcCell) p.granule (p.granule + 63) p.cls.toNat = some d)
include hc hr hp hd ht

theorem complEject_counts (hlt : d.confirmed + p.pl 0 2 + d.nacked < d.injected) :
    completes (.complEject c) s fun t =>
      (∃ y, (t.ni c).descs = [y] ∧ y.confirmed = d.confirmed + p.pl 0 2 ∧ y.done = false) ∧ (t.cell c).cm = (s.cell c).cm ∧ s.onlyCell t c := by
  have hdone : d.done = false := by
    have := List.find?_some ht
    simp only [Bool.and_eq_true, Bool.not_eq_true'] at this
    obtain ⟨⟨⟨⟨⟨⟨⟨-, hdone⟩, -⟩, -⟩, -⟩, -⟩, -⟩, -⟩ := this
    exact hdone
  obtain ⟨⟨tr, htr⟩, -, hcm, -, hin⟩ := State.complCounted_counts (s := s.ejectTaken c tCOMPL) (p := p) (by rwa [State.ni_ejectTaken])
  rw [State.cm_ejectTaken] at hcm
  exact completes_next _ (exec_complEject hr hp ht) hc (State.checkWrite_waits (d := d.confirm _ tr) htr hlt)
    ⟨⟨_, htr, rfl, hdone⟩, hcm, ((s.within_ejectTaken c tCOMPL).trans hin).only⟩

theorem complEject_completes (hop : d.op = 1) (hdone : d.done = false) (hn : d.n ≤ d.injected)
    (hall : d.injected ≤ d.confirmed + p.pl 0 2 + d.nacked) (hconf : d.n ≤ d.confirmed + p.pl 0 2) (hf : d.fail = none) :
    completes (.complEject c) s fun t =>
      (t.ni c).descs = [] ∧ ((t.ni c).ring d.ring).ci = ((s.ni c).ring d.ring).ci + 1 ∧
      t.cget c NI_BULK_STAT_desc_failed = s.cget c NI_BULK_STAT_desc_failed ∧ s.onlyCell t c := by
  obtain ⟨⟨tr, htr⟩, hrings, -, hfailed, hin⟩ := State.complCounted_counts (s := s.ejectTaken c tCOMPL) (p := p) (by rwa [State.ni_ejectTaken])
  obtain ⟨hgone, hci, hregs, hin'⟩ := State.completeDesc_single (d := d.confirm _ tr) htr hdone stDONE 0
  rw [if_pos rfl] at hregs
  refine completes_next _ (exec_complEject hr hp ht) hc (State.checkWrite_done (d := d.confirm _ tr) htr hop hdone hn hall hconf hf) ⟨hgone, ?_, ?_,
    (((s.within_ejectTaken c tCOMPL).trans hin).trans hin').only⟩
  · refine hci.trans ?_
    rw [Ni.ring, hrings, State.ni_ejectTaken]
    rfl
  · refine ((congrArg (Regs.get · NI_BULK_STAT_desc_failed) hregs).trans hfailed).trans ?_
    rw [State.cget, State.regs_ejectTaken, ← State.cget]

end ejected

end completions

/-- Settles O52: descriptors start, writes and reads at the destination, tranches, completions, timeouts, memory responses, landings. -/
theorem bulkTransfers : Obligations.BulkTransfers := by
  intro s c hc
  exact ⟨fun r ws hr hh hd hb hf =>
      ⟨fun chip wire hk hl => descriptorStart_starts hc hr hh hd hb hf rfl hk hl, fun st re hk hst => descriptorStart_fails hc hr hh hd hb hf rfl hk hst⟩,
    fun p w hr hp ht hw => wrEject_writes hc hr hp ht hw, fun p hr hp hw => wrEject_refuses hc hr hp hw,
    fun i x hx hj => trancheFlush_due hc hx hj, fun x hx hh hd hf => trancheComplSend_sends hc hx hh hd hf,
    fun p w hr hp hw hf hl => rdReqEject_serves hc hr hp hw hf hl,
    fun p w tok tk id land_ count got ll gr hr hp hw ht hu hq hl => rdDataEject_writes hc hr hp hw ht hu hq hl,
    fun p d hr hp hd hop ht => ⟨complEject_counts hc hr hp hd ht,
      fun hdone hn hall hconf hf => complEject_completes hc hr hp hd ht hop hdone hn hall hconf hf⟩,
    fun d t0 us hd hdone ht hx => trackerTimeout_fails hc hd hdone ht hx, quarantineExpire_drops hc s,
    fun tag q hq => ⟨fun r hu => clusterMemoryResponse_reads hc hq hu, fun id hu => clusterMemoryResponse_lands hc hq hu⟩,
    fun p i w hr hp hm hd hpt hw => mcastEject_writes hc hr hp hm hd hpt hw⟩

end Sys2Proof.Machine

/-! PROOFS. The bulk windows family: what a memory gateway does with requests, responses and streams (R168, R170, R177, R184, R186, R187, R502), the
side-band and the days of the cistern (R439, R442). -/

namespace Sys2Proof.Machine

/-! ## Changes inside one gateway -/

/-- A counter of a register file goes up by one. -/
theorem Regs.counted_bump (r : Regs) (f : Field) (hf : f.fits) : r.counted (r.bump f) f := r.get_bump_same f hf

theorem State.onlyGw_modGwRegs (s : State) (g : Nat) (f : Regs → Regs) : s.onlyGw (s.modGwRegs g f) g := s.onlyGw_modGw g _

theorem State.gw_modGwRegs_same (s : State) (g : Nat) (f : Regs → Regs) :
    (s.modGwRegs g f).gw g = { s.gw g with regs := f (s.gw g).regs } := s.gw_modGw_same g _

theorem State.gw_modStream (s : State) (g st : Nat) (f : StreamRt → StreamRt) :
    (s.modStream g st f).gw g = { s.gw g with streams := aput (s.gw g).streams st (f ((s.gw g).stream st)) } := s.gw_modGw_same g _

/-- A request to the stack is one request more of its gateway (R502). -/
theorem State.gw_stackAsk (s : State) (g addr : Nat) (use : StackUse) (write : Bool) :
    (s.stackAsk g addr use write).gw g =
      { s.gw g with reqs := (s.gw g).reqs ++ [⟨freshTag ((s.gw g).reqs.map (·.tag)), addr, use⟩] } := s.gw_modGw_same g _

theorem State.onlyGw_stackAsk (s : State) (g addr : Nat) (use : StackUse) (write : Bool) : s.onlyGw (s.stackAsk g addr use write) g :=
  s.onlyGw_modGw g _

theorem State.gw_gwAnswer (s : State) (g k : Nat) (p : Packet) :
    (s.gwAnswer g k p).gw g = { s.gw g with answers := (s.gw g).answers ++ [(k, p)] } := s.gw_modGw_same g _

theorem State.onlyGw_gwAnswer (s : State) (g k : Nat) (p : Packet) : s.onlyGw (s.gwAnswer g k p) g := s.onlyGw_modGw g _

/-- A refusal is one answer more, but for a packet of the scheduled plane (R111). -/
theorem State.gw_gwRefuse (s : State) (g k : Nat) (pl : Plane) (p : Packet) (reason detail : Nat) :
    (s.gwRefuse g k pl p reason detail).gw g =
      { s.gw g with answers := (s.gw g).answers ++ if pl = .sched then [] else [(k, nackFor p reason detail)] } := by
  unfold State.gwRefuse
  split
  · rw [List.append_nil]
  · exact s.gw_gwAnswer g k _

theorem State.gwRefuse_keeps (s : State) (g k : Nat) (pl : Plane) (p : Packet) (reason detail : Nat) :
    s.onlyGw (s.gwRefuse g k pl p reason detail) g ∧ (s.gwRefuse g k pl p reason detail).out = s.out := by
  unfold State.gwRefuse
  split
  · exact ⟨⟨fun _ _ => rfl, rfl, rfl, rfl, rfl⟩, rfl⟩
  · exact ⟨s.onlyGw_gwAnswer g k _, rfl⟩

/-! ## A request that passes the checks of R48 at a gateway reaches its handler -/

/-- The state in which a gateway has taken the first request of a type at a cell position. -/
def State.gwTaken (s : State) (g k : Nat) (t : BitVec 4) : State :=
  s.modGw g fun x => { x with inq := dropFirst (fun a => a.k == k && a.pkt.type == t) x.inq }

theorem State.gw_gwTaken (s : State) (g k : Nat) (t : BitVec 4) :
    (s.gwTaken g k t).gw g = { s.gw g with inq := dropFirst (fun a => a.k == k && a.pkt.type == t) (s.gw g).inq } := s.gw_modGw_same g _

theorem State.onlyGw_gwTaken (s : State) (g k : Nat) (t : BitVec 4) : s.onlyGw (s.gwTaken g k t) g := s.onlyGw_modGw g _

/-- Request a is the first of a type at a cell position of a gateway, and passes the gateway's checks of R48. -/
structure State.gwReceives (s : State) (g k : Nat) (t : BitVec 4) (a : GwArrival) : Prop where
  first : (s.gw g).inq.find? (fun a => a.k == k && a.pkt.type == t) = some a
  crc : a.pkt.crc = a.pkt.crcOf
  legal : pktLegal a.pkt a.plane = true

theorem State.gwRequest_receives {s : State} {g k : Nat} {t : BitVec 4} {a : GwArrival} (h : s.gwReceives g k t a)
    (f : State → GwArrival → State) : s.gwRequest g k t f = f (s.gwTaken g k t) a := by
  simp only [State.gwRequest, h.first, ← h.crc, h.legal, ne_eq, not_true, if_false, Bool.not_true, Bool.false_eq_true]
  rfl

/-! ## Writes at a gateway (R170, R177) -/

/-- The state in which a gateway has put the data of a WR at a byte of its stack, and the WR has joined its tranche. -/
def State.gwWritten (s : State) (g k addr : Nat) (p : Packet) : State :=
  s.modGw g fun x => { x with
    stack := mwriteList x.stack addr (p.plBytes.take p.length.toNat)
    tranches := (joinTranche (s.gw g).tranches (s.gw g).nextId gwTrancheSize s.ncyc k p 0).1
    nextId := x.nextId + 1 }

/-- The requests of the granules of an RD_REQ, one for each, change the gateway's requests alone. -/
theorem State.forEach_stackAsk (s : State) (g id addr : Nat) (l : List Nat) :
    let t := s.forEach l fun s i => s.stackAsk g (addr + 48 * i) (.read id i) false
    s.onlyGw t g ∧ ∃ q, t.gw g = { s.gw g with reqs := q } ∧ q.length = (s.gw g).reqs.length + l.length := by
  induction l generalizing s with
  | nil => exact ⟨⟨fun _ _ => rfl, rfl, rfl, rfl, rfl⟩, _, rfl, rfl⟩
  | cons i l ih =>
    obtain ⟨honly, q, hq, hlen⟩ := ih (s.stackAsk g (addr + 48 * i) (.read id i) false)
    rw [State.gw_stackAsk] at hq hlen
    refine ⟨(s.onlyGw_stackAsk g _ _ _).trans honly, q, hq, ?_⟩
    rw [hlen, List.length_append, List.length_cons, List.length_cons, List.length_nil]
    omega

/-- The state in which a gateway serves an RD_REQ from a byte of its stack. -/
def State.gwServing (s : State) (g k addr : Nat) (p : Packet) : State :=
  s.modGw g fun x => { x with
    serves := x.serves ++ [⟨(s.gw g).nextId, k, p, p.granule, (rdFields p).1, (rdFields p).2.1, (rdFields p).2.2, addr, 0, []⟩]
    nextId := x.nextId + 1 }

theorem State.gw_gwServing (s : State) (g k addr : Nat) (p : Packet) : (s.gwServing g k addr p).gw g = { s.gw g with
    serves := (s.gw g).serves ++ [⟨(s.gw g).nextId, k, p, p.granule, (rdFields p).1, (rdFields p).2.1, (rdFields p).2.2, addr, 0, []⟩]
    nextId := (s.gw g).nextId + 1 } := s.gw_modGw_same g _

section requests

variable {s : State} {g k : Nat} (hg : gatewayOk g = true) (hk : k < 8) {a : GwArrival}
include hg hk

theorem gatewayWr_writes {w : Nat} (ha : s.gwReceives g k tWR a)
    (hw : (s.gw g).regs.gwWindow k a.pkt.parterre.toNat a.pkt.granule 1 true = some w) (ht : (s.gw g).tranches = []) :
    completes (.gatewayWr g k) s fun t =>
      (t.gw g).stack = mwriteList (s.gw g).stack ((s.gw g).regs.gwAddr w a.pkt.granule) (a.pkt.plBytes.take a.pkt.length.toNat) ∧
      (∃ x, (t.gw g).tranches = [x] ∧ x.srcChip = a.pkt.srcChip ∧ x.srcCell = a.pkt.srcCell ∧ x.block = a.pkt.granule / 64 ∧ x.cell = k ∧
        x.count = 1 ∧ x.pend = 1) ∧
      (∃ tag, t.out = s.out ++ [.stackWrite g tag ((s.gw g).regs.gwAddr w a.pkt.granule)]) ∧ s.onlyGw t g := by
  have hu := s.gw_gwTaken g k tWR
  refine completes_next (((s.gwTaken g k tWR).gwWritten g k ((s.gw g).regs.gwAddr w a.pkt.granule) a.pkt).stackAsk g
    ((s.gw g).regs.gwAddr w a.pkt.granule) (.tranche (s.gw g).nextId) true) rfl (by simp [Instr.wf, hg, hk]) ?_
    ⟨?_, ?_, ⟨_, rfl⟩, ((s.onlyGw_gwTaken g k tWR).trans (State.onlyGw_modGw _ g _)).trans (State.onlyGw_stackAsk _ g _ _ _)⟩
  · rw [State.gwRequest_receives ha]
    simp only [State.gwWritten, hu, hw, ht]
    rfl
  · rw [State.keeping_gw, State.gw_stackAsk, State.gwWritten, State.gw_modGw_same, hu]
  · rw [State.keeping_gw, State.gw_stackAsk, State.gwWritten, State.gw_modGw_same, hu, ht, joinTranche_nil]
    exact ⟨_, rfl, rfl, rfl, rfl, rfl, rfl, rfl⟩

theorem gatewayWr_refuses (ha : s.gwReceives g k tWR a) (hw : (s.gw g).regs.gwWindow k a.pkt.parterre.toNat a.pkt.granule 1 true = none) :
    completes (.gatewayWr g k) s fun t =>
      (t.gw g).stack = (s.gw g).stack ∧ (s.gw g).regs.counted (t.gw g).regs CHP_MGW_STAT_window_fault ∧ t.out = s.out ∧ s.onlyGw t g ∧
      (t.gw g).answers = (s.gw g).answers ++ (if a.plane = .sched then [] else [(k, nackFor a.pkt 5 a.pkt.granule)]) := by
  have hu := s.gw_gwTaken g k tWR
  let v := (s.gwTaken g k tWR).modGwRegs g fun r => r.bump CHP_MGW_STAT_window_fault
  obtain ⟨honly, hout⟩ := v.gwRefuse_keeps g k a.plane a.pkt rWINDOW a.pkt.granule
  have hgw : (v.gwRefuse g k a.plane a.pkt rWINDOW a.pkt.granule).gw g = _ := v.gw_gwRefuse g k a.plane a.pkt rWINDOW a.pkt.granule
  rw [State.gw_modGwRegs_same, hu] at hgw
  refine completes_next (v.gwRefuse g k a.plane a.pkt rWINDOW a.pkt.granule) rfl (by simp [Instr.wf, hg, hk]) ?_
    ⟨?_, ?_, hout, ((s.onlyGw_gwTaken g k tWR).trans (State.onlyGw_modGwRegs _ g _)).trans honly, ?_⟩
  · rw [State.gwRequest_receives ha]
    simp only [hu, hw]
    rfl
  · rw [State.keeping_gw, hgw]
  · rw [State.keeping_gw, hgw]
    exact Regs.counted_bump _ _ (by decide)
  · rw [State.keeping_gw, hgw]
    rfl

theorem gatewayRdReq_serves {w : Nat} (ha : s.gwReceives g k tRD_REQ a)
    (hw : (s.gw g).regs.gwWindow k a.pkt.parterre.toNat a.pkt.granule 1 false = some w)
    (hf : rdFails a.pkt.granule (rdFields a.pkt).1 (rdFields a.pkt).2.1 ((s.gw g).regs.get (CHP_MGW_WIN_A_base.at w) +
      (s.gw g).regs.get (CHP_MGW_WIN_A_count_m1.at w) + 1 - a.pkt.granule) = none) :
    completes (.gatewayRdReq g k) s fun t =>
      (∃ v, (t.gw g).serves = (s.gw g).serves ++ [v] ∧ v.k = k ∧ v.req = a.pkt ∧ v.count = (rdFields a.pkt).2.1 ∧ v.sent = 0 ∧
        v.addr = (s.gw g).regs.gwAddr w a.pkt.granule) ∧
      (t.gw g).reqs.length = (s.gw g).reqs.length + (rdFields a.pkt).2.1 ∧ (t.gw g).stack = (s.gw g).stack ∧ s.onlyGw t g := by
  have hu := s.gw_gwTaken g k tRD_REQ
  obtain ⟨honly, q, hq, hlen⟩ := ((s.gwTaken g k tRD_REQ).gwServing g k ((s.gw g).regs.gwAddr w a.pkt.granule) a.pkt).forEach_stackAsk g
    (s.gw g).nextId ((s.gw g).regs.gwAddr w a.pkt.granule) (List.range (rdFields a.pkt).2.1)
  rw [State.gw_gwServing, hu] at hq hlen
  rw [List.length_range] at hlen
  refine completes_next _ rfl (by simp [Instr.wf, hg, hk]) ?_
    ⟨⟨_, congrArg Gateway.serves hq, rfl, rfl, rfl, rfl, rfl⟩, ?_, by rw [State.keeping_gw, hq], ((s.onlyGw_gwTaken g k tRD_REQ).trans (State.onlyGw_modGw _ g _)).trans honly⟩
  · rw [State.gwRequest_receives ha]
    simp only [State.gwServing, hu, hw, hf]
    rfl
  · rw [State.keeping_gw, hq]
    exact hlen

end requests

/-! ## Responses of the stack (R184, R502, R521) -/

theorem State.onlyGw.of_posted {s t u : State} {g : Nat} (h : s.onlyGw t g) (k : t.Posted u) : s.onlyGw u g :=
  h.trans ⟨fun d _ => State.gw_congr k.gws d, k.cells, k.blocks, k.regions, k.links⟩

section responses

variable {s : State} {g tag addr : Nat} (hg : gatewayOk g = true)
include hg

theorem stackReadResponse_readies {id i : Nat} {v : GwServe} (hr : (s.gw g).reqs = [⟨tag, addr, .read id i⟩]) (hs : (s.gw g).serves = [v])
    (hid : v.id = id) :
    completes (.stackReadResponse g tag false) s fun t =>
      (t.gw g).reqs = [] ∧ (t.gw g).stack = (s.gw g).stack ∧ (t.gw g).answers = (s.gw g).answers ∧
      (t.gw g).serves = [{ v with ready := aput v.ready i (BitVec.ofNat 384 (mreadLE (s.gw g).stack addr 48), false) }] ∧ s.onlyGw t g := by
  refine completes_onUnit rfl hg ?_
  simp only [hr, List.find?_cons, beq_self_eq_true, Bool.and_true, Bool.false_eq_true, if_false, State.keeping_gw, State.gw_modGw_same]
  exact ⟨by simp [dropFirst], trivial, trivial, by simp [mapIf, hs, hid], (s.onlyGw_modGw g _).trans (State.onlyGw_modGw _ g _)⟩

theorem stackReadResponse_refuses {id i : Nat} {v : GwServe} (hr : (s.gw g).reqs = [⟨tag, addr, .read id i⟩]) (hs : (s.gw g).serves = [v])
    (hid : v.id = id) :
    completes (.stackReadResponse g tag true) s fun t =>
      (t.gw g).serves = [] ∧ (s.gw g).regs.counted (t.gw g).regs CHP_MGW_STAT_stack_err ∧
      (t.gw g).answers = (s.gw g).answers ++ [(v.k, nackFor v.req 5 (0x80000000 + (v.granule + i) % 2 ^ 24))] ∧ s.onlyGw t g := by
  refine completes_onUnit rfl hg ?_
  simp only [hr, hs, hid, List.find?_cons, beq_self_eq_true, Bool.and_true, if_true, State.keeping_gw, State.gw_modGw_same,
    State.gw_modGwRegs_same, State.gw_gwAnswer]
  exact ⟨by simp [hid], Regs.counted_bump _ _ (by decide), rfl, (((s.onlyGw_modGw g _).trans (State.onlyGw_modGwRegs _ g _)).trans
    (State.onlyGw_modGw _ g _)).trans (State.onlyGw_gwAnswer _ g _ _)⟩

theorem stackWriteResponse_counts {x : Tranche} (hr : (s.gw g).reqs = [⟨tag, addr, .tranche x.id⟩]) (ht : (s.gw g).tranches = [x])
    (hp : x.pend = 1) (hb : x.bad = false) :
    completes (.stackWriteResponse g tag false) s fun t =>
      (t.gw g).tranches = [{ x with pend := 0 }] ∧ (t.gw g).answers = (s.gw g).answers ∧ (t.gw g).reqs = [] ∧ s.onlyGw t g := by
  refine completes_onUnit rfl hg ?_
  simp only [hr, List.find?_cons, beq_self_eq_true, Bool.and_true, Bool.false_eq_true, if_false, State.keeping_gw, State.gw_modGw_same]
  exact ⟨by simp [landTranche, mapIf, ht, hp, hb], trivial, by simp [dropFirst], (s.onlyGw_modGw g _).trans (State.onlyGw_modGw _ g _)⟩

theorem stackWriteResponse_withholds {x : Tranche} (hr : (s.gw g).reqs = [⟨tag, addr, .tranche x.id⟩]) (ht : (s.gw g).tranches = [x])
    (hp : x.pend = 1) :
    completes (.stackWriteResponse g tag true) s fun t =>
      (t.gw g).tranches = [] ∧ (t.gw g).answers = (s.gw g).answers ∧ (s.gw g).regs.counted (t.gw g).regs CHP_MGW_STAT_stack_err ∧
      s.onlyGw t g := by
  refine completes_onUnit rfl hg ?_
  simp only [hr, List.find?_cons, beq_self_eq_true, Bool.and_true, if_true, State.keeping_gw, State.gw_modGw_same]
  have hz := State.posted_zRecord
  simp only [State.gw_congr (hz _ _).gws, State.gw_modGwRegs_same, State.gw_modGw_same]
  exact ⟨by simp [landTranche, mapIf, ht, hp], trivial, Regs.counted_bump _ _ (by decide),
    (((s.onlyGw_modGw g _).trans (State.onlyGw_modGwRegs _ g _)).of_posted (hz _ _)).trans (State.onlyGw_modGw _ g _)⟩

end responses

/-! ## Tranches of a gateway (R177) -/

theorem State.gwTranches_sends {s : State} {g : Nat} {x : Tranche} (ht : (s.gw g).tranches = [x]) (hp : x.pend = 0) (hb : x.bad = false)
    (hd : x.due = true) :
    ((s.gwTranches g).gw g).tranches = [] ∧
    ((s.gwTranches g).gw g).answers = (s.gw g).answers ++ [(x.cell, x.compl s.chipId (BitVec.ofNat 14 (gatewayCell g x.cell).1))] := by
  simp only [State.gwTranches, State.gw_modGw_same]
  exact ⟨by simp [ht, hp, hb, hd], by simp [ht, hp, hb, hd]⟩

/-! ## Presentation of replies (R26, R55, R179, R521) -/

/-- A packet presented arrives at the edge input of its cell in this ncyc, with the gateway's epoch. -/
theorem State.arr_present (s : State) (g k : Nat) {pl : Plane} (hpl : dynPlane pl = true) {p : Packet} (hm : p.type ≠ tMCAST) :
    (((s.present g k pl p).rt (gatewayCell g k).1).plane pl).arr = ((s.rt (gatewayCell g k).1).plane pl).arr ++
      [⟨(gatewayCell g k).2, s.ncyc, Packet.regen { p with epoch := (s.gw g).epoch }⟩] := by
  have hm' : (Packet.regen { p with epoch := (s.gw g).epoch }).type ≠ tMCAST := hm
  simp only [State.present, if_neg hm', State.rt_modRt_same]
  rw [Router.arrive_arr _ hpl]
  unfold Router.enter
  split <;> rfl

/-- The packet of a granule that has been read (R55, R179). -/
theorem GwServe.next_ready {v : GwServe} {e : BitVec 384 × Bool} (h : aget v.ready v.sent = some e) :
    ∃ p, v.next = some p ∧ p.type = tRD_DATA ∧ p.dstChip = v.req.srcChip ∧ p.dstCell = v.req.srcCell ∧
      p.length = BitVec.ofNat 6 (if v.sent + 1 = v.count then v.lastLen else 48) := by
  rw [GwServe.next, h]
  refine ⟨_, rfl, rfl, rfl, rfl, ?_⟩
  simp only [Packet.seal, Packet.coded, beq_iff_eq]

theorem State.presentReply_readData {s : State} {g k : Nat} {v : GwServe} {data : BitVec 384} (ha : (s.gw g).answers = [])
    (hs : (s.gw g).serves = [v]) (hk : v.k = k) (hr : aget v.ready v.sent = some (data, false)) (hm : s.mayPresent g k .reply = true) :
    ∃ pk, ((((s.presentReply g k).rt (gatewayCell g k).1).plane .reply).arr =
        ((s.rt (gatewayCell g k).1).plane .reply).arr ++ [⟨(gatewayCell g k).2, s.ncyc, pk⟩]) ∧
      pk.type = tRD_DATA ∧ pk.dstChip = v.req.srcChip ∧ pk.dstCell = v.req.srcCell ∧ pk.epoch = (s.gw g).epoch ∧
      pk.length = BitVec.ofNat 6 (if v.sent + 1 = v.count then v.lastLen else 48) := by
  obtain ⟨p, hp, hty, hchip, hcell, hlen⟩ := GwServe.next_ready hr
  have hne : p.type ≠ tMCAST := by rw [hty]; decide
  simp only [State.presentReply, hm, ha, hs, hk, hp, List.find?_nil, List.find?_cons, beq_self_eq_true, Bool.not_true, Bool.false_eq_true,
    if_false]
  refine ⟨_, State.arr_present _ g k rfl hne, hty, hchip, hcell, ?_, hlen⟩
  simp only [Packet.regen, State.gw_modGw_same]

/-! ## Stream rings of a gateway (R186, R187) -/

/-- The producer index that stands in a stream ring's stack granule (R187). -/
def State.streamPi (s : State) (g st : Nat) : BitVec 16 := BitVec.ofNat 16 (mreadLE (s.gw g).stack ((s.gw g).regs.streamBase st) 2)

/-- The words of the descriptor that CI of a stream ring names (R187). -/
def State.streamWords (s : State) (g st : Nat) : List W64 :=
  (List.range 8).map fun i => mreadWord (s.gw g).stack ((s.gw g).regs.streamDesc st ((s.gw g).stream st).ci + 8 * i)

/-- The state in which a gateway has taken the producer index of a stream ring. -/
def State.piTaken (s : State) (g st : Nat) : State := s.modStream g st fun x => { x with pi := s.streamPi g st }

theorem State.gw_piTaken (s : State) (g st : Nat) : (s.piTaken g st).gw g =
    { s.gw g with streams := aput (s.gw g).streams st { (s.gw g).stream st with pi := s.streamPi g st } } := s.gw_modStream g st _

theorem State.stream_piTaken (s : State) (g st : Nat) :
    ((s.piTaken g st).gw g).stream st = { (s.gw g).stream st with pi := s.streamPi g st } := s.stream_modStream g st _

/-- Reading ahead asks the stack, and counts what it has asked for: the gateway's stack and the rest of the stream stay (R113). -/
theorem State.streamAsk_keeps (s : State) (g st fuel : Nat) :
    s.onlyGw (s.streamAsk g st fuel) g ∧ ((s.streamAsk g st fuel).gw g).stack = (s.gw g).stack ∧
    ∃ n, ((s.streamAsk g st fuel).gw g).stream st = { (s.gw g).stream st with asked := n } := by
  induction fuel generalizing s with
  | zero => exact ⟨⟨fun _ _ => rfl, rfl, rfl, rfl, rfl⟩, rfl, _, rfl⟩
  | succ n ih =>
    have hsame : s.onlyGw s g ∧ (s.gw g).stack = (s.gw g).stack ∧ ∃ n, (s.gw g).stream st = { (s.gw g).stream st with asked := n } :=
      ⟨⟨fun _ _ => rfl, rfl, rfl, rfl, rfl⟩, rfl, _, rfl⟩
    rw [State.streamAsk]
    dsimp only
    split
    · exact hsame
    · split
      · split
        · exact hsame
        next a _ =>
          obtain ⟨honly, hstack, m, hm⟩ := ih ((s.stackAsk g (a + 48 * ((s.gw g).stream st).asked) (.stream st ((s.gw g).stream st).asked)
            false).modStream g st fun x => { x with asked := x.asked + 1 })
          refine ⟨((s.onlyGw_stackAsk g _ _ _).trans (State.onlyGw_modGw _ g _)).trans honly, ?_, m, ?_⟩
          · rw [hstack, State.gw_modStream, State.gw_stackAsk]
          · rw [hm, State.stream_modStream, State.gw_stackAsk]
            rfl
      · exact hsame

/-- A ring whose descriptor runs, or that has none posted, starts none. -/
theorem State.streamStart_none {s : State} {g st : Nat} (h : ((s.gw g).stream st).cur.isSome = true ∨ ((s.gw g).stream st).pi = ((s.gw g).stream st).ci)
    (n : Nat) : s.streamStart g st n = s := by
  cases n with
  | zero => rfl
  | succ n =>
    rw [State.streamStart]
    exact if_pos (by simpa using h)

/-- The descriptor that CI names starts where the checks find nothing (R174, R186). -/
theorem State.streamStart_one {s : State} {g st : Nat} (hc : ((s.gw g).stream st).cur = none)
    (hp : ((s.gw g).stream st).pi ≠ ((s.gw g).stream st).ci) (hs : s.streamCheck g st (s.streamWords g st) = none) (n : Nat) :
    s.streamStart g st (n + 1) =
      (s.modStream g st fun x => { x with cur := some (s.streamWords g st), sent := 0, asked := 0, fetched := [] }).streamAsk g st
        (readAhead + 1) := by
  rw [State.streamStart, if_neg (by simp [hc, hp])]
  rw [State.streamWords] at hs ⊢
  simp only [hs]

section rings

variable {s : State} {g st : Nat} (he : (s.gw g).regs.flag (CHP_MGW_STREAM_enable.at st) = true) (hh : (s.gw g).hold = false)
  (hr : (s.streamPi g st - ((s.gw g).stream st).ci).toNat ≤ 2 ^ (s.gw g).regs.get (CHP_MGW_STREAM_size_log2.at st))
include he hh hr

/-- A producer index that does not overfill its ring is taken, then the ring starts what it can. -/
theorem exec_gatewayPiPoll :
    exec (.gatewayPiPoll g st) s = onUnit (Instr.gatewayPiPoll g st).wf s ((s.piTaken g st).streamStart g st ringFuel) := by
  simp only [exec, execGatewayPiPoll, he, hh, Bool.not_true, Bool.or_self, Bool.false_eq_true, if_false]
  rw [State.streamPi] at hr
  rw [if_pos hr]
  rfl

variable (hg : gatewayOk g = true) (hst : streamOk st = true)
include hg hst

theorem gatewayPiPoll_waits (h : ((s.gw g).stream st).cur.isSome = true ∨ s.streamPi g st = ((s.gw g).stream st).ci) :
    completes (.gatewayPiPoll g st) s fun t =>
      (t.gw g).stream st = { (s.gw g).stream st with pi := s.streamPi g st } ∧ (t.gw g).stack = (s.gw g).stack ∧ t.out = s.out ∧
      s.onlyGw t g := by
  refine completes_next (s.piTaken g st) (exec_gatewayPiPoll he hh hr) (by simp [Instr.wf, hg, hst])
    (State.streamStart_none (by rwa [State.stream_piTaken]) ringFuel) ⟨s.stream_piTaken g st, ?_, rfl, s.onlyGw_modGw g _⟩
  rw [State.keeping_gw, State.gw_piTaken]

theorem gatewayPiPoll_starts (hc : ((s.gw g).stream st).cur = none) (hp : s.streamPi g st ≠ ((s.gw g).stream st).ci)
    (hs : s.streamCheck g st (s.streamWords g st) = none) :
    completes (.gatewayPiPoll g st) s fun t =>
      ((t.gw g).stream st).cur = some (s.streamWords g st) ∧ ((t.gw g).stream st).pi = s.streamPi g st ∧
      ((t.gw g).stream st).ci = ((s.gw g).stream st).ci ∧ ((t.gw g).stream st).sent = 0 ∧ (t.gw g).stack = (s.gw g).stack ∧ s.onlyGw t g := by
  have hgw := s.gw_piTaken g st
  have hx := s.stream_piTaken g st
  have hw : (s.piTaken g st).streamWords g st = s.streamWords g st := by
    rw [State.streamWords, hx, hgw, State.streamWords]
  have hs' : (s.piTaken g st).streamCheck g st ((s.piTaken g st).streamWords g st) = none := by
    rw [hw]
    refine Eq.trans ?_ hs
    simp only [State.streamCheck, State.streamSource, hgw]
    rfl
  obtain ⟨honly, hstack, n, hn⟩ := ((s.piTaken g st).modStream g st fun x =>
    { x with cur := some (s.streamWords g st), sent := 0, asked := 0, fetched := [] }).streamAsk_keeps g st (readAhead + 1)
  rw [State.stream_modStream, hx] at hn
  refine completes_next _ (exec_gatewayPiPoll he hh hr) (by simp [Instr.wf, hg, hst])
    ((State.streamStart_one (by rw [hx]; exact hc) (by rw [hx]; exact hp) hs' 65536).trans (by rw [hw]))
    ?_
  rw [State.keeping_gw, hn, hstack, State.gw_modStream, hgw]
  exact ⟨rfl, rfl, rfl, rfl, rfl, ((s.onlyGw_modGw g _).trans (State.onlyGw_modGw _ g _)).trans honly⟩

end rings

/-! ## The cistern's day (R439) -/

/-- The day of the cistern and the time from which it counts. -/
def Ftn.calendar (f : Ftn) : Nat × Nat := (f.day, f.dayFrom)

section calendar

variable (s : State)

theorem State.calendar_postHost (e : Event) : (s.postHost e).ftn.calendar = s.ftn.calendar := by
  simp only [State.postHost]
  split
  · rfl
  · split
    · rfl
    · split <;> rfl

theorem State.calendar_postMgmt (e : Event) : (s.postMgmt e).ftn.calendar = s.ftn.calendar := by
  simp only [State.postMgmt]
  split
  · rfl
  · split
    · rfl
    · split <;> rfl

@[simp] theorem State.calendar_post (ty u : Nat) (a b : W64) : (s.post ty u a b).ftn.calendar = s.ftn.calendar := by
  simp only [State.post]
  split
  · rfl
  · rw [State.calendar_postMgmt, State.calendar_postHost]
    rfl

@[simp] theorem State.calendar_modCist (j : Nat) (f : CistCopy → CistCopy) : (s.modCist j f).ftn.calendar = s.ftn.calendar := by
  by_cases h : j = 0 <;> simp [State.modCist, State.modFtn, Ftn.calendar, h]

@[simp] theorem State.calendar_cistEvent (j ty page kind part : Nat) : (s.cistEvent j ty page kind part).ftn.calendar = s.ftn.calendar :=
  s.calendar_post ..

@[simp] theorem State.calendar_abandon (j : Nat) : (s.abandon j).ftn.calendar = s.ftn.calendar := by
  unfold State.abandon
  split
  · rfl
  · rw [State.calendar_cistEvent, State.calendar_modCist]

@[simp] theorem State.calendar_retire (j n : Nat) : (s.retire j n).ftn.calendar = s.ftn.calendar := by
  simp only [State.retire]
  split_ifs
  · rfl
  · exact s.calendar_abandon j
  · rw [State.calendar_cistEvent, State.calendar_modCist]

/-- Read off the recursor: an equation for one step would evaluate the search of a zone's 4096 pages. -/
@[simp] theorem State.calendar_goodPage (j z fuel : Nat) : (s.goodPage j z fuel).1.ftn.calendar = s.ftn.calendar := by
  delta State.goodPage
  induction fuel generalizing s with
  | zero => rfl
  | succ n ih =>
    dsimp only [State.goodPage._f] at ih ⊢
    split
    · rfl
    · split
      · exact (ih _).trans (by rw [State.calendar_retire, State.takePage, State.calendar_modCist])
      · exact s.calendar_modCist j _

@[simp] theorem State.calendar_takePages (j n : Nat) (zones got : List Nat) : (s.takePages j n zones got).1.ftn.calendar = s.ftn.calendar := by
  delta State.takePages
  induction n generalizing s zones got with
  | zero => rfl
  | succ n ih =>
    dsimp only [State.takePages._f] at ih ⊢
    split
    · rfl
    · split <;> exact (ih ..).trans (State.calendar_goodPage _ ..)

theorem State.calendar_writePage (j n kind copy part gen : Nat) (payload : List Byte) :
    (s.writePage j n kind copy part gen payload).ftn.calendar = s.ftn.calendar := rfl

@[simp] theorem State.calendar_commitDir (j : Nat) : (s.commitDir j).ftn.calendar = s.ftn.calendar := by
  unfold State.commitDir
  exact (State.forEach_keeps (fun s => s.ftn.calendar) (fun s i => s.calendar_writePage ..) _ _).trans (s.calendar_modCist j _)

@[simp] theorem State.calendar_writeRec (j kind part : Nat) (payload : List Byte) :
    (s.writeRec j kind part payload).ftn.calendar = s.ftn.calendar := by
  unfold State.writeRec
  split
  · rfl
  · dsimp only
    split
    · exact (State.calendar_abandon _ j).trans (s.calendar_takePages ..)
    · refine ((State.calendar_commitDir _ j).trans (State.calendar_modCist _ j _)).trans ?_
      exact (State.forEach_keeps (fun s => s.ftn.calendar) (fun s i => s.calendar_writePage ..) _ _).trans (s.calendar_takePages ..)

@[simp] theorem State.calendar_writeOne (j kind part : Nat) (payload : List Byte) :
    (s.writeOne j kind part payload).ftn.calendar = s.ftn.calendar := by
  unfold State.writeOne
  dsimp only
  split
  · exact s.calendar_writeRec ..
  · exact (State.forEach_keeps (fun s => s.ftn.calendar) (fun s _ => s.calendar_writeRec ..) _ _).trans (s.calendar_writeRec ..)

theorem State.calendar_cistWrite (kind part : Nat) (payload : List Byte) : (s.cistWrite kind part payload).ftn.calendar = s.ftn.calendar := by
  unfold State.cistWrite
  split
  · rw [State.calendar_writeOne, State.calendar_writeOne]
  · rfl

theorem State.calendar_retentionPass : s.retentionPass.ftn.calendar = s.ftn.calendar := by
  refine State.forEach_keeps (fun s => s.ftn.calendar) (fun s j => ?_) _ s
  refine State.forEach_keeps (fun s => s.ftn.calendar) (fun s e => ?_) _ s
  split
  · rw [State.calendar_cistEvent, State.calendar_writeOne]
  · rfl

end calendar

/-- Once 86,400 s have passed in an open cistern a day is counted (R439, R441). -/
theorem cisternDayTick_counts {s : State} (hz : s.zRuns = true) (ho : s.cistOpen = true) (hd : s.ftn.dayFrom + 86400 * 1800000000 ≤ s.now) :
    completes .cisternDayTick s fun t => t.ftn.day = s.ftn.day + 1 ∧ t.ftn.dayFrom = s.ftn.dayFrom + 86400 * 1800000000 := by
  let u := s.modFtn fun f => { f with day := f.day + 1, dayFrom := f.dayFrom + 86400 * 1800000000 }
  refine completes_next (u.retentionPass.cistWrite 4 (u.retentionPass.ftn.day % 64) u.retentionPass.ageing) rfl rfl ?_ ?_
  · rw [if_neg (by simp [hz, ho, Nat.not_lt.mpr hd])]
  · have hcal := (State.calendar_cistWrite u.retentionPass 4 (u.retentionPass.ftn.day % 64) u.retentionPass.ageing).trans u.calendar_retentionPass
    exact ⟨congrArg Prod.fst hcal, congrArg Prod.snd hcal⟩

/-! ## The side-band of the cistern (R442) -/

theorem sidebandResponse_good (s : State) {j page : Nat} (hj : j = 0 ∨ j = 10) :
    completes (.sidebandResponse j page false) s fun t => t.ftn = s.ftn ∧ s.sameUnits t :=
  completes_next s rfl (by rcases hj with rfl | rfl <;> rfl) (by simp) ⟨rfl, rfl, rfl, rfl, rfl, rfl⟩

/-- A page of copy j has an uncorrectable read. -/
def CistCopy.noteBad (k : CistCopy) (page : Nat) : CistCopy :=
  if k.badReads.contains page then k else { k with badReads := k.badReads ++ [page] }

theorem CistCopy.mem_noteBad (k : CistCopy) (page : Nat) : page ∈ (k.noteBad page).badReads := by
  unfold CistCopy.noteBad
  split
  next h => exact List.contains_iff_mem.1 h
  next => simp

theorem sidebandResponse_bad (s : State) {j page : Nat} (hj : j = 0 ∨ j = 10) (hp : page < 65536) :
    completes (.sidebandResponse j page true) s fun t =>
      page ∈ (t.cist j).badReads ∧ (∀ i, i = 0 ∨ i = 10 → i ≠ j → t.cist i = s.cist i) ∧ s.sameUnits t := by
  refine completes_next (s.modCist (if j = 0 then 0 else 1) fun k => k.noteBad page) rfl (by rcases hj with rfl | rfl <;> rfl)
    (by simp only [hp, decide_true, Bool.and_true, if_true]; rfl) ⟨?_, fun i hi hne => ?_, rfl, rfl, rfl, rfl, rfl⟩
  · rcases hj with rfl | rfl <;> exact CistCopy.mem_noteBad _ page
  · rcases hj with rfl | rfl
    · rw [hi.resolve_left hne]
      rfl
    · rw [hi.resolve_right hne]
      rfl

/-- Settles O53: a gateway's requests, the stack's responses, what the gateway presents, its stream rings, the side-band and the day. -/
theorem gatewayRequests : Obligations.GatewayRequests := by
  intro s g k hg hk
  refine ⟨fun a ha hcrc hl => ⟨fun w hw ht => gatewayWr_writes hg hk ⟨ha, hcrc, hl⟩ hw ht, gatewayWr_refuses hg hk ⟨ha, hcrc, hl⟩⟩,
    fun a w ha hcrc hl hw hf => gatewayRdReq_serves hg hk ⟨ha, hcrc, hl⟩ hw hf, fun tag addr id i v hr _ hs hid hvk _ _ => ⟨?_, ?_⟩,
    fun v data ha hs hvk _ hd hm => State.presentReply_readData ha hs hvk hd hm,
    fun tag addr x hr ht hp hb => ⟨stackWriteResponse_counts hg hr ht hp hb, stackWriteResponse_withholds hg hr ht hp⟩,
    fun x ht hp hb hd => State.gwTranches_sends ht hp hb hd,
    fun st hst he hh hpi => ⟨gatewayPiPoll_waits he hh hpi hg hst, gatewayPiPoll_starts he hh hpi hg hst⟩,
    fun j page hj hp => ⟨sidebandResponse_good s hj, sidebandResponse_bad s hj hp⟩, cisternDayTick_counts⟩
  · exact stackReadResponse_readies hg hr hs hid
  · rw [← hvk]
    exact stackReadResponse_refuses hg hr hs hid

end Sys2Proof.Machine

/-! PROOFS. The weirs and spillways family: who owns cells and which class a parterre has (R204, R213, R404, R515). -/

namespace Sys2Proof.Machine

/-! ## A command that completes OK keeps the chip's registers (R423, R435) -/

/-- The registers of the chip but for the counts of dropped events are the same. -/
def State.sameChipRegs (u t : State) : Prop := ∀ f : Field, f.off ≠ MBX_EVT_STAT_dropped.off → t.chget f = u.chget f

/-- A mailbox command that is accepted and completes OK from state u answers; beyond the response its outcome is u. -/
theorem completes_ok {i : Instr} {s v u : State} {m op : Nat} {P : State → Prop} (h : s.accepts m op = true)
    (he : exec i s = onUnit (mailboxOk m) s v) (hv : v = u.ok (s.cmdOf m)) (hP : ∀ t, u.Responded t → u.sameChipRegs t → P t) :
    completes i s fun t => t.answers m op 0 0 ∧ P t :=
  ⟨_, he.trans (onUnit_of (State.accepts_mailboxOk h) s v), hv ▸ s.accepted_finish_answers h u sOK 0 [] (by decide),
    hP _ (hv ▸ (u.responded_finish _ sOK 0 []).keeping s) (hv ▸ (u.finish_done (s.cmdOf m) 0 []).regs)⟩

theorem State.Responded.parterres {u t : State} (h : u.Responded t) : t.chip.parterres = u.chip.parterres := by
  obtain ⟨regs, integ, hc⟩ := h.chip
  rw [hc]

theorem State.sameChipRegs.stepDone {u t : State} (h : u.sameChipRegs t) (n : Nat) : t.stepDone n = u.stepDone n := by
  rw [State.stepDone, h CHP_BRINGUP_done (by decide), ← State.stepDone]

/-! ## The class of a parterre (R204, R213) -/

/-- The class of a parterre is read from the chip's registers at its entry of CHP_SPILL_MAP. -/
theorem State.classNow_congr {s t : State} {p : Nat} (h : t.chget (CHP_SPILL_MAP_class_k.at (p / 8)) = s.chget (CHP_SPILL_MAP_class_k.at (p / 8))) :
    t.classNow p = s.classNow p := by
  unfold State.classNow
  split
  · rfl
  · rw [← State.chget, h, State.chget]

theorem State.classNow_setClass (s : State) {p cls : Nat} (hp : p ≠ 0) (hc : cls ≤ 15) : (s.setClass p cls).classNow p = cls := by
  let f := CHP_SPILL_MAP_class_k.at (p / 8)
  have hlt : setBits (s.chip.regs.get f) (4 * (p % 8)) 4 cls < 2 ^ 32 := setBits_lt (s.chip.regs.get_lt f) (by omega)
  have hget : (s.setClass p cls).chip.regs.get f = setBits (s.chip.regs.get f) (4 * (p % 8)) 4 cls :=
    (Regs.get_set_same _ f _ (show 0 + 32 ≤ 64 by decide)).trans (Nat.mod_eq_of_lt hlt)
  have hbits := bits_setBits (s.chip.regs.get f) (4 * (p % 8)) 4 cls
  rw [bits, Nat.pow_mul] at hbits
  rw [State.classNow, if_neg hp, hget]
  exact hbits.trans (Nat.mod_eq_of_lt (by omega))

/-! ## The owner of cells (R404, R515) -/

/-- What the writes of the owner of some cells do: the cells whose blocks are not in Off have the owner, no other cell changes, of the chip only the
count of accesses to Off may, and while the cells' blocks run no block and no region does. -/
structure State.Owned (s t : State) (cells : List Nat) (p : Nat) : Prop where
  power : ∀ b, (t.block b).power = (s.block b).power
  parterres : t.chip.parterres = s.chip.parterres
  regs : ∀ f : Field, f.off ≠ CHP_PWR_STAT_off_access.off → t.chget f = s.chget f
  owner : ∀ c ∈ cells, (s.block (blockOf c)).power ≠ .off → t.cget c NI_OWNER_parterre = p
  others : ∀ d, d ∉ cells → t.cell d = s.cell d
  running : (∀ c ∈ cells, (s.block (blockOf c)).power = .run) → t.blocks = s.blocks ∧ t.regions = s.regions

theorem State.Owned.nil (s : State) (p : Nat) : s.Owned s [] p :=
  ⟨fun _ => rfl, rfl, fun _ _ => rfl, fun _ h => (List.not_mem_nil h).elim, fun _ _ => rfl, fun _ => ⟨rfl, rfl⟩⟩

theorem State.Owned.cons {s t u : State} {c p : Nat} {l : List Nat} (h : s.Owned t [c] p) (k : t.Owned u l p) : s.Owned u (c :: l) p where
  power b := (k.power b).trans (h.power b)
  parterres := k.parterres.trans h.parterres
  regs f hf := (k.regs f hf).trans (h.regs f hf)
  owner d hd hp := by
    by_cases hl : d ∈ l
    · exact k.owner d hl (by rwa [h.power])
    · have hc : d = c := (List.mem_cons.1 hd).resolve_right hl
      rw [State.cget, k.others d hl, ← State.cget]
      exact h.owner d (by simp [hc]) hp
  others d hd := (k.others d fun hl => hd (List.mem_cons_of_mem c hl)).trans (h.others d fun hc => hd (by simp_all))
  running hr := by
    obtain ⟨hb, hg⟩ := h.running fun d hd => hr d (by simp_all)
    obtain ⟨kb, kg⟩ := k.running fun d hd => (h.power _).trans (hr d (List.mem_cons_of_mem c hd))
    exact ⟨kb.trans hb, kg.trans hg⟩

/-- The owner of one cell is written, its spillway bucket refilled. -/
def State.ownCell (s : State) (c p : Nat) : State := (s.modCellRegs c fun r => r.set NI_OWNER_parterre p).refillNi c

theorem State.cget_ownCell (s : State) (c : Nat) {p : Nat} (hp : p < 256) : (s.ownCell c p).cget c NI_OWNER_parterre = p := by
  rw [State.ownCell, State.refillNi, State.cget_modCell_same, State.regs_modCellRegs, Regs.get_set_ne _ _ _ _ (by decide) (.inl (by decide)),
    Regs.get_set_same _ _ _ (by decide)]
  exact Nat.mod_eq_of_lt hp

theorem State.within_ownCell (s : State) (c p : Nat) : s.Within (s.ownCell c p) c := (s.within_modCell c _).trans (State.within_modCell _ c _)

theorem State.owned_zCell (s : State) (c : Nat) {p : Nat} (hp : p < 256) : s.Owned (s.zCell c fun s => s.ownCell c p) [c] p := by
  obtain ⟨-, hchip, hcell, hblocks, hregions, -⟩ := s.within_ownCell c p
  have hown {t : State} (ht : t.cells = (s.ownCell c p).cells) :
      ∀ d ∈ [c], (s.block (blockOf d)).power ≠ .off → t.cget d NI_OWNER_parterre = p := fun d hd _ => by
    rw [List.mem_singleton.1 hd, State.cget, State.cell_congr ht, ← State.cget, s.cget_ownCell c hp]
  have hoth {t : State} (ht : t.cells = (s.ownCell c p).cells) : ∀ d, d ∉ [c] → t.cell d = s.cell d := fun d hd =>
    (State.cell_congr ht d).trans (hcell d (by simpa using hd))
  have hwoken (hr : (s.block (blockOf c)).power ≠ .run) : s.Owned ((s.ownCell c p).wakeBlock (blockOf c)) [c] p :=
    have hwchip := ((s.ownCell c p).wakeBlock_chip (blockOf c)).trans hchip
    { power := fun b => (State.power_wakeBlock _ _ b).trans (by rw [State.block_congr hblocks])
      parterres := congrArg Chip.parterres hwchip
      regs := fun f _ => congrArg (Regs.get · f) (congrArg Chip.regs hwchip)
      owner := hown (State.wakeBlock_cells _ _)
      others := hoth (State.wakeBlock_cells _ _)
      running := fun h => absurd (h c (List.mem_singleton_self c)) hr }
  unfold State.zCell
  split
  next =>
    exact ⟨fun b => by rw [State.block_congr hblocks], congrArg Chip.parterres hchip,
      fun f _ => congrArg (Regs.get · f) (congrArg Chip.regs hchip), hown rfl, hoth rfl, fun _ => ⟨hblocks, hregions⟩⟩
  next hoff =>
    exact ⟨fun _ => rfl, rfl, fun f hf => Regs.get_bump_ne _ _ _ (by decide) (.inl (Ne.symm hf)),
      fun d hd hn => absurd (by rwa [List.mem_singleton.1 hd]) hn, fun _ _ => rfl, fun _ => ⟨rfl, rfl⟩⟩
  next hr _ => exact hwoken hr

theorem State.owned_setOwner (s : State) (cells : List Nat) {p : Nat} (hp : p < 256) : s.Owned (s.setOwner cells p) cells p := by
  unfold State.setOwner
  induction cells generalizing s with
  | nil => exact .nil s p
  | cons c l ih => exact (s.owned_zCell c hp).cons (ih _)

/-! ## PARTERRE_SET (R404, R431, R515) -/

section setup

variable {s : State} {m : Nat}

@[simp] theorem State.accepted_cget (s : State) (m c : Nat) (f : Field) : (s.accepted m).cget c f = s.cget c f := by
  rw [State.cget, State.accepted_cell, State.cget]

@[simp] theorem State.accepted_parterre (s : State) (m p : Nat) : (s.accepted m).parterre p = s.parterre p := by
  rw [State.parterre, State.accepted_chip, State.parterre]

theorem spillMap_off_ge (p : Nat) : 0x280 ≤ (CHP_SPILL_MAP_class_k.at p).off := Nat.le_add_right _ _

theorem spillMap_off_lt {p : Nat} (hp : p < 256) : (CHP_SPILL_MAP_class_k.at (p / 8)).off < 0x300 := by
  simp only [Field.at, CHP_SPILL_MAP_class_k]
  omega

/-- The response of a command leaves the classes of the parterres. -/
theorem State.sameChipRegs.classNow {u t : State} (h : u.sameChipRegs t) {p : Nat} (hp : p < 256) : t.classNow p = u.classNow p :=
  State.classNow_congr (h _ fun ho => absurd (ho ▸ spillMap_off_lt hp) (by decide))

/-- Writes of owners leave the classes of the parterres. -/
theorem State.Owned.classNow {t u : State} {cells : List Nat} {q : Nat} (h : t.Owned u cells q) (p : Nat) : u.classNow p = t.classNow p :=
  State.classNow_congr (h.regs _ fun ho => absurd (ho ▸ spillMap_off_ge (p / 8)) (by decide))

theorem State.parterres_setClass (s : State) (p cls : Nat) : (s.setClass p cls).chip.parterres = s.chip.parterres := rfl

theorem State.units_setClass (s : State) (p cls : Nat) : (s.setClass p cls).units = s.units := s.units_modChip _

/-- What the writes of owners do to the units, of a state that has the same units as that before. -/
theorem State.Owned.of_units {s t u v : State} {cells : List Nat} {p : Nat} (h : t.Owned u cells p) (ht : t.units = s.units)
    (hv : v.units = u.units) :
    (∀ c ∈ cells, (s.block (blockOf c)).power ≠ .off → v.cget c NI_OWNER_parterre = p) ∧ (∀ d, d ∉ cells → v.cell d = s.cell d) ∧
    ((∀ c ∈ cells, (s.block (blockOf c)).power = .run) → v.blocks = s.blocks ∧ v.regions = s.regions) := by
  obtain ⟨tc, tb, tr, -⟩ := (s.sameUnits_iff_units t).2 ht
  obtain ⟨vc, vb, vr, -⟩ := (u.sameUnits_iff_units v).2 hv
  refine ⟨fun c hc hp => ?_, fun d hd => ?_, fun hr => ?_⟩
  · rw [State.cget, State.cell_congr vc, ← State.cget]
    exact h.owner c hc (by rwa [State.block_congr tb])
  · rw [State.cell_congr vc, h.others d hd, State.cell_congr tc]
  · obtain ⟨ub, ur⟩ := h.running fun c hc => by rw [State.block_congr tb, hr c hc]
    exact ⟨vb.trans (ub.trans tb), vr.trans (ur.trans tr)⟩

/-- A parterre is listed, and the set-up step of bring-up is done (R450). -/
def State.enrolled (s : State) (x : Parterre) : State := (s.modChip fun h => { h with parterres := h.parterres ++ [x] }).setStep 13

theorem State.enrolled_keeps (s : State) (x : Parterre) :
    (s.enrolled x).units = s.units ∧ (s.enrolled x).chip.parterres = s.chip.parterres ++ [x] ∧ (s.enrolled x).stepDone 13 = true ∧
    ∀ p, (s.enrolled x).classNow p = s.classNow p := by
  let u := s.modChip fun h => { h with parterres := h.parterres ++ [x] }
  obtain ⟨hdone, -, hrest, hchip, hregs⟩ := u.setStep_spec 13 (by decide) (by decide)
  have hunits : ({ u.setStep 13 with chip := u.chip } : State).units = u.units := by rw [hrest]
  have hpart : ({ (u.setStep 13).chip with regs := u.chip.regs } : Chip).parterres = u.chip.parterres := by rw [hchip]
  exact ⟨hunits, hpart, hdone, fun p => (State.classNow_congr (hregs _ fun ho => absurd (ho ▸ spillMap_off_ge (p / 8)) (by decide))).trans
    rfl⟩

/-- A parterre is no longer listed, its class is 0 (log 151). -/
def State.struckOff (s : State) (p : Nat) : State := (s.setClass p 0).modChip fun h => { h with parterres := h.parterres.filter fun x => x.id != p }

theorem State.units_struckOff (s : State) (p : Nat) : (s.struckOff p).units = s.units := rfl

theorem State.parterres_struckOff (s : State) (p : Nat) : (s.struckOff p).chip.parterres = s.chip.parterres.filter fun x => x.id != p := rfl

theorem State.classNow_struckOff (s : State) {p : Nat} (hp : p ≠ 0) : (s.struckOff p).classNow p = 0 :=
  (State.classNow_congr rfl).trans (s.classNow_setClass hp (Nat.zero_le 15))

theorem parterreSet_creates {k : Cmd} (hcmd : s.cmdOf m = k) (ha : s.accepts m 0x20 = true) (he : k.extLen = 1152) (hop : k.arg 1 1 = 0)
    (hp : k.arg 0 1 ≠ 0) (hcls : k.arg 2 1 ≤ 15) (hnew : s.parterre (k.arg 0 1) = none)
    (hown : ∀ c ∈ k.cells, s.cget c NI_OWNER_parterre = 0 ∨ s.cget c NI_OWNER_parterre = k.arg 0 1) :
    completes (.parterreSetCreate m) s fun t => t.answers m 0x20 0 0 ∧ t.chip.parterres = s.chip.parterres ++ [⟨k.arg 0 1, k.cells⟩] ∧
      (∀ c ∈ k.cells, (s.block (blockOf c)).power ≠ .off → t.cget c NI_OWNER_parterre = k.arg 0 1) ∧ t.classNow (k.arg 0 1) = k.arg 2 1 ∧
      t.stepDone 13 = true ∧ (∀ d, d ∉ k.cells → t.cell d = s.cell d) ∧
      ((∀ c ∈ k.cells, (s.block (blockOf c)).power = .run) → t.blocks = s.blocks ∧ t.regions = s.regions) := by
  have hlt : k.arg 0 1 < 256 := k.num_lt 16 1
  let v := (s.accepted m).setClass (k.arg 0 1) (k.arg 2 1)
  let w := v.setOwner k.cells (k.arg 0 1)
  have hw : v.Owned w k.cells (k.arg 0 1) := v.owned_setOwner _ hlt
  obtain ⟨hunits, hpart, hdone, hclass⟩ := w.enrolled_keeps ⟨k.arg 0 1, k.cells⟩
  refine completes_ok (u := w.enrolled ⟨k.arg 0 1, k.cells⟩) ha rfl ?_ fun t ht hregs => ?_
  · have hfind : k.cells.find? (fun c => s.cget c NI_OWNER_parterre != 0 && s.cget c NI_OWNER_parterre != k.arg 0 1) = none :=
      List.find?_eq_none.2 fun c hc hne => by rcases hown c hc with h | h <;> simp [h] at hne
    rw [s.mailboxCmd_accepted _ _ _ ha (by simp [hcmd, hop]) (by rw [hcmd, hop]; exact he)]
    simp only [hcmd, hp, hop, hnew, hfind, State.accepted_parterre, State.accepted_cget, Option.isSome_none, if_neg (Nat.not_lt.2 hcls), if_false,
      Nat.not_lt_zero, Bool.false_eq_true]
    rfl
  · obtain ⟨hset, hoth, hrun⟩ := hw.of_units ((State.units_setClass _ _ _).trans (s.units_accepted m)) (ht.units.trans hunits)
    refine ⟨?_, hset, ?_, (hregs.stepDone 13).trans hdone, hoth, hrun⟩
    · rw [ht.parterres, hpart, hw.parterres, State.parterres_setClass, State.accepted_chip]
    · rw [hregs.classNow hlt, hclass, hw.classNow, State.classNow_setClass _ hp hcls]

theorem parterreSet_destroys {k : Cmd} (hcmd : s.cmdOf m = k) (ha : s.accepts m 0x20 = true) (he : k.extLen = 0) (hop : k.arg 1 1 = 1)
    (hp : k.arg 0 1 ≠ 0) (hcls : k.arg 2 1 ≤ 15) (hold : (s.parterre (k.arg 0 1)).isSome = true) :
    completes (.parterreSetDestroy m) s fun t => t.answers m 0x20 0 0 ∧
      t.chip.parterres = s.chip.parterres.filter (fun x => x.id != k.arg 0 1) ∧ t.classNow (k.arg 0 1) = 0 ∧
      (∀ c ∈ allCells, s.cget c NI_OWNER_parterre = k.arg 0 1 → (s.block (blockOf c)).power ≠ .off → t.cget c NI_OWNER_parterre = 0) ∧
      (∀ d, s.cget d NI_OWNER_parterre ≠ k.arg 0 1 → t.cell d = s.cell d) ∧
      ((∀ c ∈ allCells, s.cget c NI_OWNER_parterre = k.arg 0 1 → (s.block (blockOf c)).power = .run) →
        t.blocks = s.blocks ∧ t.regions = s.regions) := by
  have hlt : k.arg 0 1 < 256 := k.num_lt 16 1
  let cells := allCells.filter fun c => s.cget c NI_OWNER_parterre == k.arg 0 1
  have hmem (c : Nat) : c ∈ cells ↔ c ∈ allCells ∧ s.cget c NI_OWNER_parterre = k.arg 0 1 := by simp [cells]
  let w := (s.accepted m).setOwner cells 0
  have hw : (s.accepted m).Owned w cells 0 := State.owned_setOwner _ cells (by decide)
  refine completes_ok (u := w.struckOff (k.arg 0 1)) ha rfl ?_ fun t ht hregs => ?_
  · rw [s.mailboxCmd_accepted (fun k => k.arg 1 1 == 1) (fun _ => some 0) _ ha (by simp [hcmd, hop]) (by rw [hcmd]; exact he)]
    simp only [hcmd, State.accepted_parterre, State.accepted_cget, hp, Option.isNone_eq_false_iff.2 hold, decide_false, Bool.or_false,
      if_neg (Nat.not_lt.2 hcls), if_false, Bool.false_eq_true]
    rfl
  · obtain ⟨hset, hoth, hrun⟩ := hw.of_units (s.units_accepted m) (ht.units.trans (State.units_struckOff _ _))
    refine ⟨?_, ?_, fun c hc hco => hset c ((hmem c).2 ⟨hc, hco⟩), fun d hd => hoth d fun hdc => hd ((hmem d).1 hdc).2,
      fun hr => hrun fun c hc => hr c ((hmem c).1 hc).1 ((hmem c).1 hc).2⟩
    · rw [ht.parterres, State.parterres_struckOff, hw.parterres, State.accepted_chip]
    · rw [hregs.classNow hlt, State.classNow_struckOff _ hp]

/-! ## CLASS_SET (R213, R431) -/

/-- The fields that CLASS_SET writes. -/
def Cmd.classFields (k : Cmd) : List (Field × Nat) :=
  [(CHP_SPILL_CLASS_ni_rate.at (k.arg 0 1), k.arg 2 2), (CHP_SPILL_CLASS_ni_burst.at (k.arg 0 1), k.arg 4 2),
    (CHP_SPILL_CLASS_gw_rate.at (k.arg 0 1), k.arg 8 3), (CHP_SPILL_CLASS_gw_burst.at (k.arg 0 1), k.arg 12 2)]

theorem Cmd.classFields_apart (k : Cmd) : k.classFields.Pairwise fun a b => b.1.apart a.1 := by
  simp [Cmd.classFields, Field.apart, Field.at, CHP_SPILL_CLASS_ni_rate, CHP_SPILL_CLASS_ni_burst, CHP_SPILL_CLASS_gw_rate,
    CHP_SPILL_CLASS_gw_burst]

theorem Cmd.classFields_fit (k : Cmd) : ∀ e ∈ k.classFields, e.1.fits := by
  simp [Cmd.classFields, Field.fits, Field.at, CHP_SPILL_CLASS_ni_rate, CHP_SPILL_CLASS_ni_burst, CHP_SPILL_CLASS_gw_rate,
    CHP_SPILL_CLASS_gw_burst]

/-- No field that CLASS_SET writes counts dropped events. -/
theorem Cmd.classFields_off {k : Cmd} (hi : k.arg 0 1 ≤ 15) : ∀ e ∈ k.classFields, e.1.off ≠ MBX_EVT_STAT_dropped.off := by
  simp only [Cmd.classFields, List.forall_mem_cons, Field.at, CHP_SPILL_CLASS_ni_rate, CHP_SPILL_CLASS_ni_burst, CHP_SPILL_CLASS_gw_rate,
    CHP_SPILL_CLASS_gw_burst, MBX_EVT_STAT_dropped]
  exact ⟨by omega, by omega, by omega, by omega, by simp⟩

theorem classSet_sets {k : Cmd} (hcmd : s.cmdOf m = k) (ha : s.accepts m 0x21 = true) (he : k.extLen = 0) (hi : k.arg 0 1 ≤ 15)
    (hrate : k.arg 8 3 ≤ 2 ^ 20) (hburst : k.arg 12 2 < 2 ^ 11) :
    completes (.classSet m) s fun t => t.answers m 0x21 0 0 ∧
      (∀ f v, (f, v) ∈ k.classFields → v < 2 ^ f.len → t.chget f = v) ∧ s.sameUnits t := by
  refine completes_ok (u := (s.accepted m).modChipRegs fun r => r.setAll k.classFields) ha rfl ?_ fun t ht hregs =>
    ⟨fun f v hm hv => ?_, ht.sameUnits ((State.units_modChip _ _).trans (s.units_accepted m))⟩
  · rw [s.plainCmd_accepted _ ha (by rw [hcmd]; exact he), hcmd]
    simp only [if_neg (Nat.not_lt.2 hi), if_neg (Nat.not_lt.2 hrate), if_neg (Nat.not_le.2 hburst)]
    rfl
  · rw [hregs f (Cmd.classFields_off hi _ hm)]
    exact Regs.get_setAll k.classFields_apart k.classFields_fit hm hv _

end setup

/-- Settles O18: a parterre created, one destroyed, a class set. -/
theorem parterreAndClassCommands : Obligations.ParterreAndClassCommands := by
  intro s m
  refine ⟨parterreSet_creates rfl, parterreSet_destroys rfl, fun ha he hi hrate hburst => ?_⟩
  obtain ⟨t, hx, hans, hreg, hunits⟩ := classSet_sets rfl ha he hi hrate hburst
  have hni : (s.cmdOf m).arg 2 2 < 2 ^ 16 := (s.cmdOf m).num_lt 18 2
  exact ⟨t, hx, hans, (hreg _ _ (by simp [Cmd.classFields]) hni).trans (Nat.mod_eq_of_lt hni).symm,
    hreg _ _ (by simp [Cmd.classFields]) (Nat.lt_of_le_of_lt hrate (show 2 ^ 20 < 2 ^ 21 by decide)),
    hreg _ _ (by simp [Cmd.classFields]) hburst, hunits⟩

end Sys2Proof.Machine

/-! PROOFS. The weirs and spillways family: observation (R207, R312, R475 to R478): telemetry, PC samples, latency samples, the map cache. -/

namespace Sys2Proof.Machine

theorem State.Within.keeping {s t : State} {c : Nat} (h : s.Within t c) (old : State) : s.onlyCell (t.keeping old) c := h.only

/-- A command that changes the NI of one cell completes with that change. -/
theorem completes_modNi {i : Instr} {s u : State} {c : Nat} {f : Ni → Ni} {P : State → Prop} (he : exec i s = onUnit i.wf s u) (hw : i.wf = true)
    (hu : u = s.modNi c f) (hP : ∀ t, t.ni c = f (s.ni c) → s.onlyCell t c → P t) : completes i s P :=
  completes_next (s.modNi c f) he hw hu (hP _ (s.ni_modNi_same c f) (s.within_modNi c f).only)

/-! ## Telemetry (R475) -/

section telemetry

variable {s : State} {c : Nat} {p : Packet}

theorem State.telLand_records (s : State) (c : Nat) (p : Packet) (h : (s.cell c).regs.flag NI_TEL_RING_enable = true) :
    ((s.telLand c p).cell c).cm = mwriteList (s.cell c).cm (ring32 ((s.cell c).regs.get NI_TEL_RING_base) ((s.cell c).regs.get NI_TEL_RING_size_log2)
      (s.ni c).telWritten.toNat) (p.plBytes.take 32) ∧
    ((s.telLand c p).ni c).telWritten = (s.ni c).telWritten + 1 ∧ s.Within (s.telLand c p) c := by
  have hni : ((s.tagRx c 0).cell c).ni = s.ni c := s.ni_tagRx c 0
  simp only [State.telLand, h, Bool.not_true, Bool.false_eq_true, if_false, State.ni, State.cell_modCell_same, State.cm_tagRx, hni]
  exact ⟨trivial, trivial, (s.within_tagRx c 0).trans (State.within_modCell _ c _)⟩

/-- Without a ring the TEL is counted and gone. -/
theorem State.telLand_unclaimed (h : (s.cell c).regs.flag NI_TEL_RING_enable = false) (p : Packet) :
    s.telLand c p = s.bump c NI_TEL_STAT_tel_unclaimed := if_pos (by rw [h]; rfl)

variable (hc : cellOk c = true) (hr : s.receives c .reply p) (hp : p.type = tTEL)
include hc hr hp

theorem telEject_records (h : (s.cell c).regs.flag NI_TEL_RING_enable = true) :
    completes (.telEject c) s fun t =>
      (t.cell c).cm = mwriteList (s.cell c).cm (ring32 ((s.cell c).regs.get NI_TEL_RING_base) ((s.cell c).regs.get NI_TEL_RING_size_log2)
        (s.ni c).telWritten.toNat) (p.plBytes.take 32) ∧ (t.ni c).telWritten = (s.ni c).telWritten + 1 ∧ s.onlyCell t c := by
  obtain ⟨hcm, hn, hin⟩ := (s.ejectTaken c tTEL).telLand_records c p (by rwa [State.regs_ejectTaken])
  rw [State.cm_ejectTaken, State.regs_ejectTaken, State.ni_ejectTaken] at hcm
  rw [State.ni_ejectTaken] at hn
  exact completes_ejected rfl hc hr hp ⟨hcm, hn, ((s.within_ejectTaken c tTEL).trans hin).only⟩

theorem telEject_unclaimed (h : (s.cell c).regs.flag NI_TEL_RING_enable = false) :
    completes (.telEject c) s fun t =>
      (t.cell c).cm = (s.cell c).cm ∧ (s.cell c).regs.counted (t.cell c).regs NI_TEL_STAT_tel_unclaimed ∧ s.onlyCell t c := by
  have hland := State.telLand_unclaimed (s := s.ejectTaken c tTEL) (by rwa [State.regs_ejectTaken]) p
  have hcnt := (s.ejectTaken c tTEL).counted_bump c NI_TEL_STAT_tel_unclaimed (by decide)
  have hcm := ((s.ejectTaken c tTEL).recorded_bump c NI_TEL_STAT_tel_unclaimed).cm
  rw [State.regs_ejectTaken] at hcnt
  rw [State.cm_ejectTaken] at hcm
  refine completes_ejected rfl hc hr hp ?_
  rw [hland]
  exact ⟨hcm, hcnt, ((s.within_ejectTaken c tTEL).trans (State.within_modCell _ c _)).only⟩

end telemetry

/-! ## PC samples (R476, R478) -/

section samples

variable {s : State} {c : Nat} (hc : cellOk c = true)

theorem State.pcsWrite_records (s : State) (c : Nat) (m : PcSample) (pc : W64) (valid : Bool)
    (h : (s.cell c).regs.flag NI_PCS_RING_enable = true) :
    ((s.pcsWrite c m pc valid).cell c).cm = mwriteList (s.cell c).cm (ring32 ((s.cell c).regs.get NI_PCS_RING_base)
      ((s.cell c).regs.get NI_PCS_RING_size_log2) (s.ni c).pcsWritten.toNat) (m.bytes pc valid) ∧
    ((s.pcsWrite c m pc valid).ni c).pcs = none ∧ ((s.pcsWrite c m pc valid).ni c).pcsWritten = (s.ni c).pcsWritten + 1 ∧
    (valid = false → (s.cell c).regs.counted ((s.pcsWrite c m pc valid).cell c).regs NI_PCS_STAT_no_answer) ∧
    s.Within (s.pcsWrite c m pc valid) c := by
  let u := if valid then s else s.bump c NI_PCS_STAT_no_answer
  have hu : s.Recorded u c := by
    simp only [u]
    split
    · exact .refl s c
    · exact s.recorded_bump c _
  have hni : (u.cell c).ni = s.ni c := by
    simp only [u]
    split
    · rfl
    · exact s.ni_bump c c _
  have hcnt : valid = false → (s.cell c).regs.counted (u.cell c).regs NI_PCS_STAT_no_answer := by
    rintro rfl
    exact s.counted_bump c _ (by decide)
  have hw : s.pcsWrite c m pc valid = u.modCell c fun x => { x with
      cm := mwriteList x.cm (ring32 ((s.cell c).regs.get NI_PCS_RING_base) ((s.cell c).regs.get NI_PCS_RING_size_log2) x.ni.pcsWritten.toNat)
        (m.bytes pc valid)
      ni := { x.ni with pcs := none, pcsWritten := x.ni.pcsWritten + 1 } } := by
    simp only [State.pcsWrite, h, if_true, u]
  simp only [hw, State.ni, State.cell_modCell_same, hu.cm, hni]
  exact ⟨trivial, trivial, trivial, hcnt, hu.toWithin.trans (State.within_modCell _ c _)⟩

/-- The sample of a core that an NI asks for in this ncyc: the core's stall state with its tag (R477). -/
def State.pcSampleOf (s : State) (c k : Nat) : PcSample :=
  let st := s.stallOf c k
  let tagged := decide (2 ≤ st.1) && decide (st.1 ≤ 4) || st.1 == 7
  ⟨k, s.ncyc, s.time, st.1, st.2.1, if tagged then ((aget (s.ni c).chans st.2.1).map (·.e.tag)).getD 0 else 0, st.2.2⟩

/-- An NI that has asked for a sample in an ncyc. -/
def Ni.sampling (x : Ni) (now : Nat) (m : PcSample) : Ni :=
  { (x.note dPcs now).modCore m.core (fun e => { e with policed := false }) with pcs := some m, pcsCore := (m.core + 1) % 32 }

include hc

theorem pcSampleTick_asks {k : Nat} (hh : (s.ni c).hold = .none) (hb : (s.block (blockOf c)).power = .run)
    (he : (s.cell c).regs.flag NI_PCS_CTL_enable = true) (hd : aget (s.ni c).did dPcs = none) (hp : (s.ni c).pcs = none)
    (hk : (s.cell c).regs.pcsNext (s.ni c).pcsCore = some k) :
    completes (.pcSampleTick c) s fun t =>
      (∃ m, (t.ni c).pcs = some m ∧ m.core = k ∧ m.since = s.ncyc ∧ m.time = s.time ∧ m.code = (s.stallOf c k).1 ∧
        m.stalled = (s.stallOf c k).2.2) ∧ (t.ni c).pcsCore = (k + 1) % 32 ∧ t.out = s.out ++ [.pcsRequest c k] ∧ s.onlyCell t c := by
  have hclk : s.pcsClocked c = true := by simp [State.pcsClocked, hb]
  let u := s.modNi c fun x => x.sampling s.ncyc (s.pcSampleOf c k)
  have hni : u.ni c = (s.ni c).sampling s.ncyc (s.pcSampleOf c k) := s.ni_modNi_same c _
  have hin : s.Within u c := s.within_modNi c _
  refine completes_next (u.emit (.pcsRequest c k)) rfl hc ?_ ?_
  · rw [if_neg (by simp [hh, hclk, he, hd, hp]), hk]
    rfl
  · rw [State.keeping_ni, State.ni_emit, hni]
    exact ⟨⟨_, rfl, rfl, rfl, rfl, rfl, rfl⟩, rfl, rfl, hin.only⟩

theorem pcSampleAnswer_records {m : PcSample} (hm : (s.ni c).pcs = some m) (he : (s.cell c).regs.flag NI_PCS_RING_enable = true) (pc : W64)
    (ht : s.ncyc ≤ m.since + 16) :
    completes (.pcSampleAnswer c pc) s fun t =>
      (t.cell c).cm = mwriteList (s.cell c).cm (ring32 ((s.cell c).regs.get NI_PCS_RING_base) ((s.cell c).regs.get NI_PCS_RING_size_log2)
        (s.ni c).pcsWritten.toNat) (m.bytes pc true) ∧ (t.ni c).pcs = none ∧ (t.ni c).pcsWritten = (s.ni c).pcsWritten + 1 ∧ s.onlyCell t c := by
  obtain ⟨hcm, hpcs, hn, -, hin⟩ := s.pcsWrite_records c m pc true he
  exact completes_next (s.pcsWrite c m pc true) rfl hc (by rw [hm]; exact if_neg (Nat.not_lt.2 ht)) ⟨hcm, hpcs, hn, hin.only⟩

theorem pcSampleTimeout_records {m : PcSample} (hm : (s.ni c).pcs = some m) (he : (s.cell c).regs.flag NI_PCS_RING_enable = true)
    (ht : m.since + 16 < s.ncyc) :
    completes (.pcSampleTimeout c) s fun t =>
      (t.cell c).cm = mwriteList (s.cell c).cm (ring32 ((s.cell c).regs.get NI_PCS_RING_base) ((s.cell c).regs.get NI_PCS_RING_size_log2)
        (s.ni c).pcsWritten.toNat) (m.bytes 0 false) ∧ (t.ni c).pcs = none ∧
      (s.cell c).regs.counted (t.cell c).regs NI_PCS_STAT_no_answer ∧ s.onlyCell t c := by
  obtain ⟨hcm, hpcs, -, hcnt, hin⟩ := s.pcsWrite_records c m 0 false he
  exact completes_next (s.pcsWrite c m 0 false) rfl hc (by rw [hm]; exact if_pos ht) ⟨hcm, hpcs, hcnt rfl, hin.only⟩

end samples

/-! ## Latency observation (R207, R215) -/

section latency

/-- The two observation sets stand at offsets 0x4600 to 0x49FF. -/
theorem Regs.read_clearLat (r : Regs) {o : Nat} (ho : o < 0x4600 ∨ 0x4A00 ≤ o) : r.clearLat.read o = r.read o := by
  have key (l : List Nat) (hl : ∀ q ∈ l, q < 64) :
      (l.foldl (fun r q => (r.write (NI_QLAT_S_samples.at q).off 0).write (NI_QLAT_H_depth_hw.at q).off 0) r).read o = r.read o := by
    induction l generalizing r with
    | nil => rfl
    | cons q l ih =>
      have hq := hl q List.mem_cons_self
      have hne : (NI_QLAT_S_samples.at q).off ≠ o ∧ (NI_QLAT_H_depth_hw.at q).off ≠ o := by
        simp only [Field.at, NI_QLAT_S_samples, NI_QLAT_H_depth_hw]
        omega
      rw [List.foldl_cons, ih _ fun j hj => hl j (List.mem_cons_of_mem q hj), Regs.read_write, if_neg hne.2, Regs.read_write, if_neg hne.1]
  exact key _ fun q hq => List.mem_range.1 hq

/-- A cleared set reads 0 at every queue. -/
theorem Regs.get_samples_clearLat (r : Regs) {q : Nat} (hq : q < 64) : r.clearLat.get (NI_QLAT_S_samples.at q) = 0 := by
  have key (l : List Nat) (h : q ∈ l ∨ r.read (NI_QLAT_S_samples.at q).off = 0) :
      (l.foldl (fun r q => (r.write (NI_QLAT_S_samples.at q).off 0).write (NI_QLAT_H_depth_hw.at q).off 0) r).read (NI_QLAT_S_samples.at q).off
        = 0 := by
    induction l generalizing r with
    | nil => exact h.resolve_left List.not_mem_nil
    | cons j l ih =>
      refine ih _ ?_
      rw [Regs.read_write, Regs.read_write]
      rcases h with h | h
      · rcases List.mem_cons.1 h with rfl | h
        · simp
        · exact .inl h
      · simp [h]
  have hread := key (List.range 64) (.inl (List.mem_range.2 hq))
  rw [Regs.get, Regs.clearLat, hread]
  simp [bits]

/-- What a write of the mode and the interval leaves in NI_LAT_CTL. -/
theorem Regs.get_latCtl (r : Regs) (mode log : Nat) :
    ((r.set NI_LAT_CTL_mode mode).set NI_LAT_CTL_sample_log2 log).get NI_LAT_CTL_mode = mode % 4 ∧
    ((r.set NI_LAT_CTL_mode mode).set NI_LAT_CTL_sample_log2 log).get NI_LAT_CTL_sample_log2 = log % 16 :=
  ⟨(Regs.get_set_ne _ _ _ _ (by decide) (by decide)).trans (Regs.get_set_same _ _ _ (by decide)), Regs.get_set_same _ _ _ (by decide)⟩

/-- The registers of NI_LAT_CTL after a write of a mode and an interval, the observation sets cleared where the mode is a new one (R207). -/
def Regs.latSet (r : Regs) (mode log : Nat) : Regs :=
  let x := (r.set NI_LAT_CTL_mode mode).set NI_LAT_CTL_sample_log2 log
  if x.get NI_LAT_CTL_mode = r.get NI_LAT_CTL_mode then x else x.clearLat

theorem Regs.latSet_sets (r : Regs) {mode log : Nat} (hm : mode < 4) (hl : log < 16) :
    (r.latSet mode log).get NI_LAT_CTL_mode = mode ∧ (r.latSet mode log).latInterval = 2 ^ (8 + log) ∧
    (mode ≠ r.get NI_LAT_CTL_mode → ∀ q, q < 64 → (r.latSet mode log).get (NI_QLAT_S_samples.at q) = 0) := by
  obtain ⟨hmode, hlog⟩ := r.get_latCtl mode log
  rw [Nat.mod_eq_of_lt hm] at hmode
  rw [Nat.mod_eq_of_lt hl] at hlog
  have hclear (x : Regs) : x.clearLat.read 0x4078 = x.read 0x4078 := x.read_clearLat (by decide)
  unfold Regs.latSet
  extract_lets x
  split
  next h => exact ⟨hmode, by rw [Regs.latInterval, hlog], fun hne => absurd (hmode.symm.trans h) hne⟩
  next =>
    refine ⟨?_, ?_, fun _ q hq => x.get_samples_clearLat hq⟩
    · rw [← hmode, Regs.get, Regs.get]
      exact congrArg (fun v => bits v.toNat 0 2) (hclear x)
    · rw [← hlog, Regs.latInterval, Regs.get, Regs.get]
      exact congrArg (fun v => 2 ^ (8 + bits (BitVec.toNat v) 8 4)) (hclear x)

variable {s : State} {c : Nat}

/-- The mode that a write of NI_LAT_CTL leaves: the reserved mode 3 changes none (R13). -/
def Regs.latMode (r : Regs) (v : W32) : Nat := if bits v.toNat 0 2 = 3 then r.get NI_LAT_CTL_mode else bits v.toNat 0 2

theorem Regs.latMode_lt (r : Regs) (v : W32) : r.latMode v < 4 := by
  unfold Regs.latMode
  split
  · exact r.get_lt NI_LAT_CTL_mode
  · exact bits_lt _ _ 2

theorem State.latWrite_writes (s : State) (c : Nat) (v : W32) :
    ((s.latWrite c v).cell c).regs = (s.cell c).regs.latSet ((s.cell c).regs.latMode v) (bits v.toNat 8 4) ∧
    ((s.latWrite c v).ni c).latNext = s.ncyc + ((s.latWrite c v).cell c).regs.latInterval ∧ s.Within (s.latWrite c v) c := by
  unfold State.latWrite
  extract_lets old mode u w
  have hu : (u.cell c).regs = ((s.cell c).regs.set NI_LAT_CTL_mode ((s.cell c).regs.latMode v)).set NI_LAT_CTL_sample_log2 (bits v.toNat 8 4) :=
    s.regs_modCellRegs c _
  have hw : (w.cell c).regs = (s.cell c).regs.latSet ((s.cell c).regs.latMode v) (bits v.toNat 8 4) ∧ s.Within w c := by
    simp only [w, State.cget, Regs.latSet, hu, old]
    split
    · exact ⟨hu, s.within_modCell c _⟩
    · exact ⟨(u.regs_modCellRegs c _).trans (congrArg Regs.clearLat hu), (s.within_modCell c _).trans (u.within_modCell c _)⟩
  obtain ⟨hregs, hin⟩ := hw
  rw [State.regs_modNi, State.ni_modNi_same, hin.ncyc]
  exact ⟨hregs, rfl, hin.trans (w.within_modNi c _)⟩

theorem niLatCtlModeWrite_sets (hc : cellOk c = true) (v : W32) :
    completes (.niLatCtlModeWrite c v) s fun t =>
      t.cget c NI_LAT_CTL_mode = (if bits v.toNat 0 2 = 3 then s.cget c NI_LAT_CTL_mode else bits v.toNat 0 2) ∧
      (t.cget c NI_LAT_CTL_mode ≠ s.cget c NI_LAT_CTL_mode → ∀ q, q < 64 → t.cget c (NI_QLAT_S_samples.at q) = 0) ∧
      (t.ni c).latNext = s.ncyc + 2 ^ (8 + bits v.toNat 8 4) ∧ s.onlyCell t c := by
  obtain ⟨hregs, hnext, hin⟩ := s.latWrite_writes c v
  obtain ⟨hset, hint, hclear⟩ := (s.cell c).regs.latSet_sets ((s.cell c).regs.latMode_lt v) (bits_lt v.toNat 8 4)
  have hmode : (s.latWrite c v).cget c NI_LAT_CTL_mode = (s.cell c).regs.latMode v := by rw [State.cget, hregs, hset]
  refine completes_next (s.latWrite c v) rfl hc rfl ⟨hmode, fun hne q hq => ?_, by rw [State.keeping_ni, hnext, hregs, hint], hin.only⟩
  rw [State.keeping_cget, hmode] at hne
  rw [State.keeping_cget, State.cget, hregs, hclear hne q hq]

/-! ### Samples of the queues -/

/-- A sample of queue j is counted in NI_QLAT_S of queue j, where no other field of a queue or of the NI lies. -/
theorem State.latSample_counts (s : State) (c j : Nat) :
    (s.cell c).regs.counted ((s.latSample c j).cell c).regs (NI_QLAT_S_samples.at j) ∧
    (∀ f : Field, f.off ≠ 0x4600 + 8 * j → ((s.latSample c j).cell c).regs.get f = (s.cell c).regs.get f) ∧
    ((s.latSample c j).ni c).latNext = (s.ni c).latNext ∧ s.Within (s.latSample c j) c := by
  let x := NI_QLAT_S_samples.at j
  let y := NI_QLAT_S_depth_sum.at j
  let z := NI_QLAT_S_delay_sum.at j
  have hx : x.fits := show 0 + 16 ≤ 64 by decide
  have hy : y.fits := show 16 + 24 ≤ 64 by decide
  have hz : z.fits := show 40 + 24 ≤ 64 by decide
  rw [State.latSample, State.regs_modCellRegs, State.ni_modCellRegs]
  refine ⟨?_, fun f hf => ?_, rfl, s.within_modCell c _⟩
  · rw [Regs.counted, Regs.get_add_ne _ z x _ hz (.inr (.inr (show 0 + 16 ≤ 40 by decide))),
      Regs.get_add_ne _ y x _ hy (.inr (.inr (show 0 + 16 ≤ 16 by decide)))]
    exact Regs.get_bump_same _ x hx
  · have hne : 0x4600 + 8 * j ≠ f.off := Ne.symm hf
    rw [Regs.get_add_ne _ z f _ hz (.inl hne), Regs.get_add_ne _ y f _ hy (.inl hne), Regs.get_bump_ne _ x f hx (.inl hne)]

/-- One sample of each queue of a list. -/
def State.latSamples (s : State) (c : Nat) (l : List Nat) : State := s.forEach l fun s q => s.latSample c q

theorem State.latSamples_count (s : State) (c : Nat) {l : List Nat} (hl : l.Nodup) :
    (∀ q ∈ l, (s.cell c).regs.counted ((s.latSamples c l).cell c).regs (NI_QLAT_S_samples.at q)) ∧
    (∀ f : Field, (∀ q ∈ l, f.off ≠ 0x4600 + 8 * q) → ((s.latSamples c l).cell c).regs.get f = (s.cell c).regs.get f) ∧
    s.Within (s.latSamples c l) c := by
  induction l generalizing s with
  | nil => exact ⟨fun _ h => (List.not_mem_nil h).elim, fun _ _ => rfl, .refl s c⟩
  | cons j l ih =>
    obtain ⟨hj, hl⟩ := List.nodup_cons.1 hl
    obtain ⟨hone, helse, -, hin⟩ := s.latSample_counts c j
    obtain ⟨hcnt, hget, hins⟩ := ih (s.latSample c j) hl
    have hoff {a b : Nat} (h : a ≠ b) : (NI_QLAT_S_samples.at a).off ≠ 0x4600 + 8 * b := by
      simp only [Field.at, NI_QLAT_S_samples]
      omega
    refine ⟨fun q hq => ?_, fun f hf => ?_, hin.trans hins⟩
    · rcases List.mem_cons.1 hq with rfl | hq
      · exact (hget _ fun b hb => hoff fun h => hj (by rwa [h])).trans hone
      · have hqj : q ≠ j := fun h => hj (h ▸ hq)
        rw [Regs.counted, ← helse _ (hoff hqj)]
        exact hcnt q hq
    · exact (hget f fun q hq => hf q (List.mem_cons_of_mem j hq)).trans (helse f (hf j List.mem_cons_self))

theorem latencySampleTick_samples (hc : cellOk c = true) (hm : s.cget c NI_LAT_CTL_mode = 1) (hn : (s.ni c).latNext ≤ s.ncyc)
    (hb : (s.block (blockOf c)).power = .run) :
    completes (.latencySampleTick c) s fun t =>
      (∀ q, q < 64 → (s.cell c).regs.counted (t.cell c).regs (NI_QLAT_S_samples.at q)) ∧
      (t.ni c).latNext = s.ncyc + (s.cell c).regs.latInterval ∧ s.onlyCell t c := by
  obtain ⟨hcnt, -, hin⟩ := s.latSamples_count c (List.nodup_range (n := 64))
  refine completes_next ((s.latSamples c (List.range 64)).modNi c fun x => { x with latNext := s.ncyc + (s.cell c).regs.latInterval }) rfl hc
    (if_neg (by simp [hm, hb, Nat.not_lt.2 hn])) ⟨fun q hq => ?_, ?_, ?_⟩
  · rw [State.keeping_cell, State.regs_modNi]
    exact hcnt q (List.mem_range.2 hq)
  · rw [State.keeping_ni, State.ni_modNi_same]
  · exact (hin.trans (State.within_modNi _ c _)).keeping s

end latency

/-! ## The map cache (R312, R328) -/

section mapCache

variable {s : State} {c lid : Nat} (hc : cellOk c = true)
include hc

theorem niMapCtlInvalAll_drops : completes (.niMapCtlInvalAll c) s fun t => (t.ni c).mapCache = [] ∧ s.onlyCell t c :=
  completes_modNi rfl hc rfl fun _ hn ht => ⟨congrArg Ni.mapCache hn, ht⟩

variable (hl : logicalOk lid = true)
include hl

theorem niMapCtlInvalOne_drops :
    completes (.niMapCtlInvalOne c lid) s fun t =>
      (t.ni c).mapCache = (s.ni c).mapCache.filter (fun e => e.lid != lid) ∧ s.onlyCell t c :=
  completes_modNi rfl (by simp [Instr.wf, hc, hl]) rfl fun _ hn ht => ⟨congrArg Ni.mapCache hn, ht⟩

/-- An answer to a miss takes its place in a cache that has room. -/
theorem mapCacheFill_takes (hm : (s.ni c).mapMiss.contains lid = true) (hr : (s.ni c).mapCache.length < 128) :
    completes (.mapCacheFill c lid) s fun t =>
      (t.ni c).mapMiss = (s.ni c).mapMiss.filter (fun l => l != lid) ∧
      (t.ni c).mapCache = (s.ni c).mapCache.filter (fun e => e.lid != lid) ++ [⟨lid, s.mapOf c lid, (s.ni c).nextId⟩] ∧ s.onlyCell t c := by
  have hroom : ((s.ni c).mapDrop lid).mapRoom = (s.ni c).mapDrop lid := if_pos (Nat.lt_of_le_of_lt (List.length_filter_le _ _) hr)
  refine completes_modNi rfl (by simp [Instr.wf, hc, hl]) (if_neg (by rw [hm]; decide)) fun t hn ht => ?_
  rw [hroom] at hn
  rw [hn]
  exact ⟨rfl, rfl, ht⟩

end mapCache

end Sys2Proof.Machine

/-! PROOFS. The weirs and spillways family: rinse (R112, R301 to R303): tests are offered and withdrawn, their answers pass or close a sluice. -/

namespace Sys2Proof.Machine

/-! ## Tests offered and withdrawn (R112, R301) -/

section offers

variable (s : State) (c : Nat)

@[simp] theorem State.ni_modBlock (b : Nat) (f : Block → Block) (d : Nat) : (s.modBlock b f).ni d = s.ni d := rfl

/-- What goes onto an output changes no block. -/
theorem State.blocks_drive (pl : Plane) (p : Nat) (pk : Packet) : (s.drive c pl p pk).blocks = s.blocks := by
  unfold State.drive
  extract_lets k u
  have hu : u.blocks = s.blocks := by
    simp only [u]
    split <;> rfl
  clear_value u
  split
  · rfl
  · split
    · split
      · exact hu
      · exact hu
    · unfold State.gwTake
      extract_lets v
      have hv : v.blocks = s.blocks := hu
      clear_value v
      split
      · exact hv
      · split
        · exact hv
        · exact hv
    · exact hu

/-- An offer waits at the NI, or on the scheduled plane is sent and counted; of the block its counts alone change. -/
theorem State.offerMnt_offers (pl : Plane) (p : Nat) (t q : BitVec 12) :
    (pl = .request → ((s.offerMnt c pl p t q).ni c).mntReq = some (s.mntPacket c p t q, p, s.ncyc)) ∧
    (pl = .reply → ((s.offerMnt c pl p t q).ni c).mntRep = some (s.mntPacket c p t q, p, s.ncyc)) ∧
    (pl = .sched → (s.block (blockOf c)).regs.counted ((s.offerMnt c pl p t q).block (blockOf c)).regs BLK_RINSE_STAT_sent) ∧
    ((s.offerMnt c pl p t q).block (blockOf c)).rinseT = (s.block (blockOf c)).rinseT ∧
    ((s.offerMnt c pl p t q).block (blockOf c)).rinsePort = (s.block (blockOf c)).rinsePort := by
  cases pl with
  | request => exact ⟨fun _ => congrArg Ni.mntReq (s.ni_modNi_same c _), nofun, nofun, rfl, rfl⟩
  | reply => exact ⟨nofun, fun _ => congrArg Ni.mntRep (s.ni_modNi_same c _), nofun, rfl, rfl⟩
  | sched =>
    let pk := s.mntPacket c p t q
    let u := (s.spray c .sched p false pk 0).drive c .sched p { pk with epoch := 0 }
    have hu : u.block (blockOf c) = s.block (blockOf c) :=
      (State.block_congr (State.blocks_drive _ c _ _ _) _).trans ((s.noted_spray c .sched p false pk 0).toWithin.block _)
    have hb : (s.offerMnt c .sched p t q).block (blockOf c) =
        { s.block (blockOf c) with regs := (s.block (blockOf c)).regs.bump BLK_RINSE_STAT_sent } :=
      (u.block_modBlockRegs_same (blockOf c) _).trans (by rw [hu])
    rw [hb]
    exact ⟨nofun, nofun, fun _ => Regs.counted_bump _ _ (by decide), rfl, rfl⟩

/-- Is the head of a plane an MNT? -/
def Ni.headMnt (x : Ni) (pl : Plane) : Bool :=
  match x.head pl with
  | some h => (match h.src with
    | .mnt _ => true
    | _ => false)
  | none => false

/-- An NI without its MNT on the side of a plane. -/
def Ni.dropMnt (x : Ni) (pl : Plane) : Ni := if pl = .reply then { x with mntRep := none } else { x with mntReq := none }

variable {s c} (hc : cellOk c = true)
include hc

theorem rinseOffer_offers {pl : Plane} {p : Nat} (hr : s.rinses c pl = true) (ho : s.owedRetest c pl = none)
    (hd : aget (s.ni c).did (dRinse pl) = none) (hp : s.nextRinse c pl = some p) (hroom : s.rinseRoom c pl p = true) :
    completes (.rinseOffer c pl) s fun t =>
      let pk := s.mntPacket c p (s.block (blockOf c)).rinseT (s.block (blockOf c)).rinseQ
      (pl = .request → (t.ni c).mntReq = some (pk, p, s.ncyc)) ∧ (pl = .reply → (t.ni c).mntRep = some (pk, p, s.ncyc)) ∧
      (pl = .sched → (s.block (blockOf c)).regs.counted (t.block (blockOf c)).regs BLK_RINSE_STAT_sent) ∧
      (t.block (blockOf c)).rinseT = (s.block (blockOf c)).rinseT + 1 ∧
      aget (t.block (blockOf c)).rinsePort (rinseKey c pl) = some ((p + 1) % 4) := by
  let u := s.offerMnt c pl p (s.block (blockOf c)).rinseT (s.block (blockOf c)).rinseQ
  obtain ⟨hreq, hrep, hsent, ht, hport⟩ := s.offerMnt_offers c pl p (s.block (blockOf c)).rinseT (s.block (blockOf c)).rinseQ
  let f (b : Block) : Block := { b.stepRinse with rinsePort := aput b.rinsePort (rinseKey c pl) ((p + 1) % 4) }
  refine completes_next ((u.modNi c fun x => x.note (dRinse pl) u.ncyc).modBlock (blockOf c) f) rfl hc ?_ ?_
  · simp only [hr, ho, hd, hp, hroom, Bool.not_true, Bool.false_eq_true, if_false, if_true]
    rfl
  · have hb : ((u.modNi c fun x => x.note (dRinse pl) u.ncyc).modBlock (blockOf c) f).block (blockOf c) = f (u.block (blockOf c)) :=
      State.block_modBlock_same _ _ f
    rw [State.keeping_ni, State.ni_modBlock, State.ni_modNi_same, State.keeping_block, hb]
    exact ⟨hreq, hrep, hsent, congrArg (· + 1) ht, aget_aput_same _ _ _⟩

theorem rinseTimeout_withdraws {pl : Plane} {pk : Packet} {p since : Nat}
    (hs : (if pl = .reply then (s.ni c).mntRep else (s.ni c).mntReq) = some (pk, p, since))
    (ht : since + (s.block (blockOf c)).regs.get BLK_RINSE_CTL_rinse_timeout ≤ s.ncyc) :
    completes (.rinseTimeout c pl) s fun t =>
      (if pl = .reply then (t.ni c).mntRep else (t.ni c).mntReq) = none ∧ s.onlyCell t c := by
  let u := if (s.ni c).headMnt pl then s.clearHead c pl else s
  have hin : s.Within u c := by
    simp only [u]
    split
    · exact s.within_modNi c _
    · exact .refl s c
  refine completes_next (u.modNi c fun x => x.dropMnt pl) rfl hc ?_ ⟨?_, (hin.trans (u.within_modNi c fun x => x.dropMnt pl)).only⟩
  · simp only [hs, if_neg (Nat.not_lt.2 ht)]
    rfl
  · rw [State.keeping_ni, State.ni_modNi_same, Ni.dropMnt]
    split <;> rfl

end offers

/-! ## A router's sluice stays closed (R306, R308) -/

/-- The sluice of port i at the router of cell c stands closed, not in TEST. -/
def State.shutAt (s : State) (c i : Nat) : Prop := ∃ x, aget (s.rt c).sluices i = some x ∧ x.test = false

/-- From s to t the reopenings under way are the same, and a sluice of cell c that stands closed stays closed. -/
structure State.Closing (s t : State) (c i : Nat) : Prop where
  reopens : t.chip.reopens = s.chip.reopens
  shut : s.shutAt c i → t.shutAt c i

namespace State.Closing

variable {s t u : State} {c i : Nat}

theorem refl (s : State) (c i : Nat) : s.Closing s c i := ⟨rfl, id⟩

theorem trans (h : s.Closing t c i) (k : t.Closing u c i) : s.Closing u c i := ⟨k.reopens.trans h.reopens, k.shut ∘ h.shut⟩

/-- A change beside the sluices. -/
theorem of_sluices (hr : t.chip.reopens = s.chip.reopens) (hs : (t.rt c).sluices = (s.rt c).sluices) : s.Closing t c i :=
  ⟨hr, fun ⟨x, hx, ht⟩ => ⟨x, by rw [hs, hx], ht⟩⟩

theorem of_rt (hr : t.chip.reopens = s.chip.reopens) (h : t.rt c = s.rt c) : s.Closing t c i := of_sluices hr (by rw [h])

theorem forEach {α : Type} {f : State → α → State} (h : ∀ (s : State) a, s.Closing (f s a) c i) (l : List α) (s : State) :
    s.Closing (s.forEach l f) c i := by
  induction l generalizing s with
  | nil => exact .refl s c i
  | cons a l ih => exact (h s a).trans (ih (f s a))

end State.Closing

/-- A sluice that has been shut stands closed. -/
theorem Router.shut_closes (r : Router) (p : Nat) (cell : Bool) (cls : Nat) :
    ∃ x, aget (r.shut p cell cls).sluices p = some x ∧ x.test = false := by
  refine ⟨_, aget_aput_same _ _ _, ?_⟩
  split
  · rfl
  next x _ =>
    split_ifs with h1 h2 h3 h4
    · simpa using (Bool.and_eq_true_iff.1 h2).2
    · rfl
    · rfl
    · rfl
    · simpa using h4

theorem Router.sluices_shut_ne (r : Router) {p i : Nat} (h : p ≠ i) (cell : Bool) (cls : Nat) :
    aget (r.shut p cell cls).sluices i = aget r.sluices i := aget_aput_ne _ _ h

section closing

variable (s : State) (c i : Nat)

theorem State.shutAt_modRt_shut (p : Nat) (cell : Bool) (cls : Nat) : (s.modRt c fun r => r.shut p cell cls).shutAt c p := by
  rw [State.shutAt, State.rt_modRt_same]
  exact Router.shut_closes _ p cell cls

theorem State.rt_modRt_ne {c d : Nat} (h : d ≠ c) (f : Router → Router) : (s.modRt d f).rt c = s.rt c := by
  simp [State.rt, State.modRt, State.cell_modCell, h]

theorem State.closing_modRt_shut (d p : Nat) (cell : Bool) (cls : Nat) : s.Closing (s.modRt d fun r => r.shut p cell cls) c i := by
  by_cases hd : d = c
  · subst hd
    by_cases hp : p = i
    · subst hp
      exact ⟨rfl, fun _ => s.shutAt_modRt_shut d p cell cls⟩
    · refine ⟨rfl, fun ⟨x, hx, ht⟩ => ⟨x, ?_, ht⟩⟩
      rw [State.rt_modRt_same, Router.sluices_shut_ne _ hp, hx]
  · exact .of_rt rfl (s.rt_modRt_ne hd _)

theorem State.closing_modCell {d : Nat} {f : Cell → Cell} (h : ∀ x, (f x).rt = x.rt) : s.Closing (s.modCell d f) c i := by
  refine .of_rt rfl ?_
  rw [State.rt, State.cell_modCell]
  split
  · exact h _
  · rfl

theorem State.closing_shutLink (d p : Nat) (cell : Bool) (cls : Nat) : s.Closing (s.shutLink d p cell cls) c i := by
  unfold State.shutLink
  split
  · exact .refl s c i
  · exact (s.closing_modRt_shut c i d p cell cls).trans (State.closing_modRt_shut _ c i _ _ cell cls)

theorem State.closing_fenceLoss (d : Nat) : s.Closing (s.fenceLoss d) c i := by
  unfold State.fenceLoss
  extract_lets r u
  have hu : s.Closing u c i := by
    refine .of_sluices rfl ?_
    by_cases hd : d = c
    · subst hd
      simp only [u, State.rt_modRt_same]
    · simp only [u, s.rt_modRt_ne hd]
  clear_value u
  split
  · exact hu.trans (.of_rt rfl rfl)
  · exact hu

theorem State.closing_resetNi (d : Nat) (h : NiHold) : s.Closing (s.resetNi d h) c i := by
  have hr : s.Closing (s.releaseStalls d) c i :=
    State.Closing.forEach (f := fun s (e : Nat × CoreRt) => s.emit (.coreRsp d e.1 0)) (fun _ _ => .of_rt rfl rfl) _ s
  exact hr.trans (State.closing_modCell _ c i fun _ => rfl)

theorem State.closing_blockRecord (b : Nat) (r : FaultRec) : s.Closing (s.blockRecord b r) c i := .of_rt rfl rfl

theorem State.closing_regionRecord (g : Nat) (r : FaultRec) : s.Closing (s.regionRecord g r) c i := .of_rt rfl rfl

theorem State.closing_fenceOnly (d cls : Nat) : s.Closing (s.fenceOnly d cls) c i := by
  have hl := State.Closing.forEach (fun s p => s.closing_shutLink c i d p true cls) (List.range 4) (s.fenceLoss d)
  exact (((s.closing_fenceLoss c i d).trans hl).trans (State.closing_resetNi _ c i d .ni)).trans (State.closing_modCell _ c i fun _ => rfl)

theorem State.closing_fenceBlockOnly (b cls : Nat) : s.Closing (s.fenceBlockOnly b cls) c i := by
  have hf := State.Closing.forEach (c := c) (i := i) (f := fun s d => if s.fencedCell d then s else s.fenceOnly d cls)
    (fun s d => by
      split
      · exact .refl s c i
      · exact s.closing_fenceOnly c i d cls) (blockCells b) s
  exact hf.trans (.of_rt rfl rfl)

theorem State.closing_fenceBlock (b cls level port plane detail : Nat) : s.Closing (s.fenceBlock b cls level port plane detail) c i := by
  unfold State.fenceBlock
  split
  · exact .refl s c i
  · exact (s.closing_fenceBlockOnly c i b cls).trans (State.closing_regionRecord _ c i _ _)

theorem State.closing_fenceByCells (b cls port plane detail : Nat) : s.Closing (s.fenceByCells b cls port plane detail) c i := by
  unfold State.fenceByCells
  extract_lets limit
  split
  · exact s.closing_fenceBlock c i b cls 2 port plane detail
  · split
    · exact s.closing_regionRecord c i _ _
    · exact .refl s c i

theorem State.closing_fenceCell (d cls port plane detail : Nat) : s.Closing (s.fenceCell d cls port plane detail) c i := by
  unfold State.fenceCell
  split
  · exact .refl s c i
  · exact ((s.closing_fenceOnly c i d cls).trans (State.closing_blockRecord _ c i _ _)).trans
      (State.closing_fenceByCells _ c i _ cls port plane detail)

theorem State.closing_fenceByPorts (d cls port plane detail : Nat) : s.Closing (s.fenceByPorts d cls port plane detail) c i := by
  unfold State.fenceByPorts
  extract_lets limit
  split
  · exact s.closing_fenceCell c i d cls port plane detail
  · split
    · exact s.closing_blockRecord c i _ _
    · exact .refl s c i

/-- A mesh port's sluice that is to close stands closed then, whatever fences follow (R296, R306). -/
theorem State.closeSluice_shuts {d : Nat} (hd : neighbor c i = some d) (cls plane detail : Nat) :
    (s.closeSluice c i cls plane detail).chip.reopens = s.chip.reopens ∧ (s.closeSluice c i cls plane detail).shutAt c i := by
  unfold State.closeSluice
  split
  next h =>
    rw [hd] at h
    obtain ⟨x, hx, hp⟩ : ∃ x, aget (s.rt c).sluices i = some x ∧ (x.port && !x.test) = true := by
      simpa [Option.any_eq_true] using h
    exact ⟨rfl, x, hx, by simpa using (Bool.and_eq_true_iff.1 hp).2⟩
  next =>
    have hlink : (s.shutLink c i false cls).shutAt c i := by
      rw [State.shutLink, hd]
      exact (State.closing_modRt_shut _ c i d _ false cls).shut (s.shutAt_modRt_shut c i false cls)
    extract_lets u v w
    have hu : u.chip.reopens = s.chip.reopens := (s.closing_shutLink c i c i false cls).reopens
    have hw : u.Closing w c i := (u.closing_blockRecord c i _ _).trans (v.closing_fenceByPorts c i c cls i plane detail)
    rw [hd]
    obtain ⟨hr, hs⟩ := hw.trans (w.closing_fenceByPorts c i d cls (oppPort i) plane detail)
    exact ⟨hr.trans hu, hs hlink⟩

end closing

/-! ## What comes of a test (R303) -/

section answers

theorem State.settleReopens_none {s : State} (h : s.chip.reopens = []) : s.settleReopens = s := by rw [State.settleReopens, h]; rfl

theorem State.Within.cell {s t : State} {c d : Nat} (h : s.Within t c) (hd : d ≠ c) : t.cell d = s.cell d := by
  obtain ⟨hcell, -⟩ := h.only
  exact hcell d hd

theorem State.ni_modNi_ne (s : State) {c d : Nat} (h : d ≠ c) (f : Ni → Ni) : (s.modNi d f).ni c = s.ni c := by
  simp [State.ni, State.modNi, State.cell_modCell, h]

/-- A pass is counted; it bears on no closed sluice where none stands. -/
theorem State.mntPass_passes (s : State) (c i : Nat) (pl : Plane) :
    (s.block (blockOf c)).regs.counted ((s.mntPass c i pl).block (blockOf c)).regs BLK_RINSE_STAT_passed ∧
    (∀ e, e ≠ c → (s.mntPass c i pl).cell e = s.cell e) ∧
    (aget (s.rt c).sluices i = none → ((s.mntPass c i pl).rt c).sluices = (s.rt c).sluices) ∧
    (s.mntPass c i pl).chip = s.chip := by
  unfold State.mntPass
  extract_lets u w
  have hu : (u.block (blockOf c)).regs = (s.block (blockOf c)).regs.bump BLK_RINSE_STAT_passed :=
    congrArg Block.regs (s.block_modBlockRegs_same _ _)
  have hcell : ∀ e, u.cell e = s.cell e := fun _ => rfl
  have hchip : u.chip = s.chip := rfl
  have hw : u.Within w c := u.within_modNi c _
  have hrt : w.rt c = s.rt c := u.rt_modNi c c _
  clear_value u w
  have hin (f : Router → Router) : u.Within (w.modRt c f) c := hw.trans (w.within_modCell c _)
  refine ⟨?_, fun e he => ((hin _).cell he).trans (hcell e), fun hn => ?_, (hin _).chip.trans hchip⟩
  · rw [(hin _).block, hu]
    exact Regs.counted_bump _ _ (by decide)
  · rw [State.rt_modRt_same, hrt]
    simp only [hn]

/-- A first failure: the receiver awaits the test once more, the sender owes it again on the same port. -/
theorem State.mntFail_first (s : State) {c i d : Nat} {pl : Plane} {t q : BitVec 12} (hd : neighbor c i = some d) (hne : d ≠ c)
    (h : (s.ni c).retest.all (fun e => e.1 != awaitKey i pl) = true) :
    (retestKey (oppPort i) pl, t, q) ∈ ((s.mntFail c i pl t q).ni d).retest ∧ (awaitKey i pl, t, q) ∈ ((s.mntFail c i pl t q).ni c).retest ∧
    (s.mntFail c i pl t q).blocks = s.blocks ∧ (s.mntFail c i pl t q).chip = s.chip := by
  unfold State.mntFail
  extract_lets u again w x
  have hagain : again = false := by
    simp only [again, u, State.ni_modRt]
    rw [List.any_eq_false]
    intro e he
    have := List.all_eq_true.1 h e he
    grind
  have hx : (awaitKey i pl, t, q) ∈ (x.ni c).retest := by
    rw [State.ni_modNi_same]
    exact List.mem_append_right _ (List.mem_singleton_self _)
  have hb : x.blocks = s.blocks := rfl
  have hc : x.chip = s.chip := rfl
  clear_value u again w x
  simp only [hagain, hd, Bool.false_eq_true, if_false]
  refine ⟨?_, ?_, hb, hc⟩
  · rw [State.ni_modNi_same]
    exact List.mem_append_right _ (List.mem_singleton_self _)
  · rwa [State.ni_modNi_ne _ hne]

/-- A failure awaited once more is confirmed. -/
theorem State.mntFail_again (s : State) {c i d : Nat} {pl : Plane} {t q : BitVec 12} (hd : neighbor c i = some d)
    (h : (s.ni c).retest.any (fun e => e.1 == awaitKey i pl && e.2.1 == t && e.2.2 == q) = true) :
    (s.mntFail c i pl t q).chip.reopens = s.chip.reopens ∧ (s.mntFail c i pl t q).shutAt c i := by
  unfold State.mntFail
  extract_lets u again w x
  have hagain : again = true := by simpa only [again, u, State.ni_modRt] using h
  have hw : w.chip = s.chip := rfl
  clear_value u again w x
  have hp : ((w.bump c CELL_ERR_CNT_rinse_fail).portFault c i).chip = s.chip := by
    rw [State.portFault]
    split
    · exact hw
    · exact hw
  simp only [hagain, if_true]
  obtain ⟨hr, hs⟩ := State.closeSluice_shuts ((w.bump c CELL_ERR_CNT_rinse_fail).portFault c i) c i hd 3 pl.code (t.toNat + q.toNat * 4096)
  exact ⟨hr.trans (by rw [hp]), hs⟩

variable {s : State} {c i d : Nat} {pl : Plane} {p : Packet} (hc : cellOk c = true) (hr : s.receives c pl p) (hp : p.type = tMNT)
  (hre : s.chip.reopens = []) (hi : (List.range 4).find? (fun i => neighbor c i == some p.srcCell.toNat) = some i)

include hi in
theorem State.mntCheck_passes (hre : s.chip.reopens = []) (h : p.payload = rinsePattern p.chanTree p.seq) :
    s.mntCheck c pl p = s.mntPass c i pl := by
  rw [State.mntCheck, hi]
  simp only [if_pos h]
  exact State.settleReopens_none (by rw [(s.mntPass_passes c i pl).2.2.2, hre])

include hi in
theorem State.mntCheck_fails (h : p.payload ≠ rinsePattern p.chanTree p.seq) (hre : (s.mntFail c i pl p.chanTree p.seq).chip.reopens = []) :
    s.mntCheck c pl p = s.mntFail c i pl p.chanTree p.seq := by
  rw [State.mntCheck, hi]
  simp only [if_neg h]
  exact State.settleReopens_none hre

include hc hr hp hre hi

theorem mntEject_passes (h : p.payload = rinsePattern p.chanTree p.seq) :
    completes (.mntEject c) s fun t =>
      (s.block (blockOf c)).regs.counted (t.block (blockOf c)).regs BLK_RINSE_STAT_passed ∧ (∀ e, e ≠ c → t.cell e = s.cell e) ∧
      (aget (s.rt c).sluices i = none → (t.rt c).sluices = (s.rt c).sluices) := by
  obtain ⟨hcnt, hcell, hsl, -⟩ := (s.ejectTaken c tMNT).mntPass_passes c i pl
  have hin := s.within_ejectTaken c tMNT
  refine completes_ejected rfl hc hr hp ?_
  rw [State.mntCheck_passes hi (by rw [hin.chip, hre]) h, State.keeping_block, State.keeping_rt]
  rw [State.rt_ejectTaken] at hsl
  rw [hin.block] at hcnt
  exact ⟨hcnt, fun e he => (hcell e he).trans (hin.cell he), hsl⟩

theorem mntEject_repeats (hd : neighbor c i = some d) (hne : d ≠ c) (h : p.payload ≠ rinsePattern p.chanTree p.seq)
    (hf : (s.ni c).retest.all (fun e => e.1 != awaitKey i pl) = true) :
    completes (.mntEject c) s fun t =>
      (retestKey (oppPort i) pl, p.chanTree, p.seq) ∈ (t.ni d).retest ∧ (awaitKey i pl, p.chanTree, p.seq) ∈ (t.ni c).retest ∧
      t.blocks = s.blocks := by
  have hin := s.within_ejectTaken c tMNT
  obtain ⟨hown, hwait, hb, hch⟩ := (s.ejectTaken c tMNT).mntFail_first (t := p.chanTree) (q := p.seq) hd hne (by rwa [State.ni_ejectTaken])
  refine completes_ejected rfl hc hr hp ?_
  rw [State.mntCheck_fails hi h (by rw [hch, hin.chip, hre])]
  exact ⟨hown, hwait, hb⟩

theorem mntEject_shuts (hd : neighbor c i = some d) (h : p.payload ≠ rinsePattern p.chanTree p.seq)
    (hf : (s.ni c).retest.any (fun e => e.1 == awaitKey i pl && e.2.1 == p.chanTree && e.2.2 == p.seq) = true) :
    completes (.mntEject c) s fun t => ∃ x, aget (t.rt c).sluices i = some x ∧ x.test = false := by
  have hin := s.within_ejectTaken c tMNT
  obtain ⟨hch, hs⟩ := (s.ejectTaken c tMNT).mntFail_again hd (by rwa [State.ni_ejectTaken])
  refine completes_ejected rfl hc hr hp ?_
  rw [State.mntCheck_fails hi h (by rw [hch, hin.chip, hre])]
  exact hs

end answers

end Sys2Proof.Machine

/-! PROOFS. The weirs and spillways family: the stillwater snapshot (R479 to R483): its order, the latches at its T, its dump. -/

namespace Sys2Proof.Machine

/-! ## The order (R282, R287, R479) -/

theorem State.hopTime_congr {s t : State} (h : t.chip = s.chip) (a b fuel : Nat) : t.hopTime a b fuel = s.hopTime a b fuel := by
  induction fuel generalizing a with
  | zero => rfl
  | succ n ih => simp only [State.hopTime, State.linkExtra_congr h, ih]

/-- The time of a chip broadcast follows from the registers and parameters of the chip. -/
theorem State.bcastLead_congr {s t : State} (h : t.chip = s.chip) : t.bcastLead = s.bcastLead := by
  simp only [State.bcastLead, State.rillH, State.cornerRoot, State.chget, State.hopTime_congr h, h]

theorem State.mbx_accepted (s : State) (m : Nat) : (s.accepted m).ftn.mbx = s.ftn.mbx := by
  simp only [State.accepted]
  split <;> rfl

theorem State.rt_accepted (s : State) (m c : Nat) : (s.accepted m).rt c = s.rt c := congrArg Cell.rt (State.cell_congr (s.accepted_cells m) c)

theorem State.ctxRoot_accepted (s : State) (m x : Nat) : (s.accepted m).ctxRoot x = s.ctxRoot x := by
  simp only [State.ctxRoot, State.chget, State.accepted_chip]

/-- A snapshot at the earliest T is under way, its FREEZE at the root of context 0. -/
theorem State.snapStart_starts (u : State) {k : Cmd} (h : k.arg 0 8 = 0) :
    (u.snapStart k).ftn = u.ftn ∧
    (u.snapStart k).chip.snap = some ⟨BitVec.ofNat 64 (8 * (u.now + u.bcastLead)), k.m, BitVec.ofNat 16 (k.arg 8 2)⟩ ∧
    (∃ x, ((u.snapStart k).rt (u.ctxRoot 0)).rillLocal = (u.rt (u.ctxRoot 0)).rillLocal ++ [x] ∧ x.flit.kind = kBCAST) ∧
    u.onlyCell (u.snapStart k) (u.ctxRoot 0) := by
  let v := u.modChip fun h => { h with snap := some ⟨BitVec.ofNat 64 (u.snapTime k), k.m, BitVec.ofNat 16 (k.arg 8 2)⟩ }
  obtain ⟨honly, b, hb, hk, -⟩ := v.broadcast_starts 0 (op := 2) (u.snapTime k / 8) (by decide)
  have ht : u.snapTime k = 8 * (u.now + u.bcastLead) := if_pos h
  refine ⟨rfl, ?_, ⟨_, hb, hk⟩, honly⟩
  rw [← ht]
  rfl

section order

variable {s : State} {m : Nat} (ha : s.accepts m 0x80 = true) (he : (s.cmdOf m).extLen = 0)
include ha he

theorem snapshot_starts (h0 : (s.cmdOf m).arg 0 8 = 0) (hn : s.chip.snap = none) :
    completes (.snapshot m) s fun t =>
      t.holds m ∧ t.chip.snap = some ⟨BitVec.ofNat 64 (8 * (s.now + s.bcastLead)), m, BitVec.ofNat 16 ((s.cmdOf m).arg 8 2)⟩ ∧
      (∃ x, (t.rt (s.ctxRoot 0)).rillLocal = (s.rt (s.ctxRoot 0)).rillLocal ++ [x] ∧ x.flit.kind = kBCAST) ∧ s.onlyCell t (s.ctxRoot 0) := by
  have hlead : (s.accepted m).bcastLead = s.bcastLead := State.bcastLead_congr (s.accepted_chip m)
  obtain ⟨hf, hsnap, hx, ho⟩ := (s.accepted m).snapStart_starts h0
  rw [s.now_accepted, hlead] at hsnap
  rw [s.ctxRoot_accepted, s.rt_accepted] at hx
  rw [s.ctxRoot_accepted] at ho
  have hh := s.accepted_holds ha ((s.accepted m).snapStart (s.cmdOf m)) (by rw [hf, s.mbx_accepted])
  generalize hu : (s.accepted m).snapStart (s.cmdOf m) = u at *
  refine completes_next (u.holdMbx (s.cmdOf m)) rfl (State.accepts_mailboxOk ha) ?_ ⟨hh, hsnap, hx, ?_⟩
  · rw [State.plainCmd_accepted _ _ ha he, if_neg (by simp [h0]), if_neg (by simp [hn]), hu]
  · obtain ⟨hc, hb, hr, hl, hg⟩ := ho
    exact ⟨fun d hd => (hc d hd).trans (State.cell_congr (s.accepted_cells m) d), hb.trans (s.accepted_blocks m), hr.trans (s.accepted_regions m),
      hl.trans (s.accepted_links m), hg.trans (s.accepted_gws m)⟩

theorem snapshot_tooEarly (h0 : (s.cmdOf m).arg 0 8 ≠ 0) (h : (s.cmdOf m).arg 0 8 / 8 < s.now + s.bcastLead) :
    completes (.snapshot m) s fun t => t.answers m 0x80 2 16 ∧ t.chip.snap = s.chip.snap ∧ s.sameUnits t := by
  have hlead : (s.accepted m).bcastLead = s.bcastLead := State.bcastLead_congr (s.accepted_chip m)
  refine completes_finish (u := s.accepted m) (st := sBADARG) (r := []) ha rfl ?_ (by decide) fun t ht => ⟨?_, ht.sameUnits (s.units_accepted m)⟩
  · rw [State.plainCmd_accepted _ _ ha he, if_pos ⟨h0, by rwa [s.now_accepted, hlead]⟩]
    rfl
  · obtain ⟨regs, integ, hc⟩ := ht.chip
    rw [hc, ← s.accepted_chip m]

end order

/-! ## The latches (R480, R481, R493) -/

/-- A list of words without a key says nothing about it. -/
theorem aget_append_of_ne {α : Type} {l : Assoc α} {k : Nat} (h : ∀ e ∈ l, e.1 ≠ k) (r : Assoc α) : aget (l ++ r) k = aget r k := by
  induction l with
  | nil => rfl
  | cons e l ih =>
    rw [List.cons_append, aget, if_neg (h e (List.mem_cons_self ..)), ih fun e he => h e (List.mem_cons_of_mem _ he)]

theorem lt_of_mem_wordsAt {off : Nat} {bs : List Byte} {e : Nat × W32} (h : e ∈ wordsAt off bs) : e.1 < off + bs.length + 3 := by
  obtain ⟨i, hi, rfl⟩ := List.mem_map.1 h
  have := List.mem_range.1 hi
  show off + 4 * i < _
  omega

theorem le_of_mem_pairAt {off : Nat} {v : W64} {e : Nat × W32} (h : e ∈ pairAt off v) : e.1 ≤ off + 4 := by
  rcases List.mem_pair.1 h with rfl | rfl
  · exact Nat.le_add_right _ _
  · exact Nat.le_refl _

theorem State.cellLatch_below (s : State) (c : Nat) : ∀ e ∈ s.cellLatch c, e.1 < oTime := by
  intro e he
  simp only [State.cellLatch, List.mem_append, List.mem_flatMap, List.mem_range, List.mem_map] at he
  rw [oTime]
  obtain ((((((h | h) | ⟨i, hi, h⟩) | ⟨i, hi, h⟩) | ⟨i, hi, h⟩) | ⟨i, hi, rfl⟩) | ⟨i, hi, h⟩) := he
  · have := le_of_mem_pairAt h
    omega
  · have := le_of_mem_pairAt h
    omega
  · have := le_of_mem_pairAt h
    omega
  · have := lt_of_mem_wordsAt h
    rw [leBytes_length] at this
    omega
  · have := le_of_mem_pairAt h
    omega
  · show 0x5600 + 4 * i < _
    omega
  · have := le_of_mem_pairAt h
    have hl : snapBalOffs.length = 39 := by decide
    omega

theorem length_satCount (n v : Nat) : (satCount n v).length = n := leBytes_length _ _

theorem length_satSigned (n : Nat) (v : Int) : (satSigned n v).length = n := leBytes_length _ _

theorem State.length_cellRecord (s : State) (c : Nat) (late ecc : Bool) : (s.cellRecord c late ecc).length = 48 := by
  unfold State.cellRecord
  extract_lets x n old w
  clear_value w old
  simp only [List.length_append, length_satCount, length_satSigned, leBytes_length, List.length_replicate]

theorem State.length_blockRec (s : State) (b : Nat) : (s.blockRec b).length = 8 := by simp [State.blockRec, length_satCount]

theorem State.length_regionRec (s : State) (r : Nat) : (s.regionRec r).length = 16 := by simp [State.regionRec]

theorem State.length_linkRecord (s : State) (n : Nat) : (s.linkRecord n).length = 16 := by simp [State.linkRecord, length_satCount]

theorem wordsAt_oRec_below {bs : List Byte} (hb : bs.length ≤ 48) : ∀ e ∈ wordsAt oRec bs, e.1 < oTime := by
  intro e he
  have := lt_of_mem_wordsAt he
  rw [oRec] at this
  rw [oTime]
  omega

/-- The words that a unit latches lie below those of its T. -/
theorem State.latchOf_below (s : State) (u : SnapUnit) (late ecc : Bool) : ∀ e ∈ s.latchOf u late ecc, e.1 < oTime := by
  cases u with
  | cell c =>
    intro e he
    rcases List.mem_append.1 he with h | h
    · exact s.cellLatch_below c e h
    · exact wordsAt_oRec_below (s.length_cellRecord c late ecc).le e h
  | block b => exact wordsAt_oRec_below (by rw [s.length_blockRec]; decide)
  | region r => exact wordsAt_oRec_below (by rw [s.length_regionRec]; decide)
  | link n => exact wordsAt_oRec_below (by rw [s.length_linkRecord]; decide)
  | gateway g => exact nofun
  | fountaineer => exact nofun

/-- Words of zero need not be kept where keys differ. -/
theorem getD_aget_filter (l : Assoc W32) (h : (l.map Prod.fst).Nodup) (k : Nat) :
    (aget (l.filter fun e => e.2 != 0) k).getD 0 = (aget l k).getD 0 := by
  induction l with
  | nil => rfl
  | cons e l ih =>
    obtain ⟨j, v⟩ := e
    obtain ⟨hj, hl⟩ := List.nodup_cons.1 h
    by_cases hk : j = k
    · subst hk
      have hnone (r : Assoc W32) (hr : ∀ e ∈ r, e ∈ l) : aget r j = none := by
        rw [← List.append_nil r, aget_append_of_ne fun e he hej => hj (List.mem_map.2 ⟨e, hr e he, hej⟩)]
        rfl
      by_cases hv : v = 0
      · rw [List.filter_cons_of_neg (by simp [hv]), hnone _ fun e he => List.mem_of_mem_filter he]
        simp [aget, hv]
      · rw [List.filter_cons_of_pos (by simpa using hv)]
        simp [aget]
    · have hrest : (aget ((j, v) :: l) k).getD 0 = (aget l k).getD 0 := by simp [aget, hk]
      rw [hrest, ← ih hl]
      by_cases hv : v = 0
      · rw [List.filter_cons_of_neg (by simp [hv])]
      · rw [List.filter_cons_of_pos (by simpa using hv)]
        simp [aget, hk]

/-- A unit that has latched for a T has it named. -/
theorem State.snapped_latchUnit (s : State) (u : SnapUnit) {t : Nat} (ht : t < 2 ^ 64) (ecc : Bool) :
    (s.latchUnit u t ecc).snapped (snapKey u) t = true := by
  let late := decide (t < s.now)
  let times : Assoc W32 := [(oTime, BitVec.ofNat 32 t), (oTime + 4, BitVec.ofNat 32 (t / 2 ^ 32)), (oTime + 8, BitVec.ofNat 32 late.toNat)]
  let ws := (s.latchOf u late ecc ++ times).filter fun e => e.2 != 0
  have hsnaps : (s.latchUnit u t ecc).chip.snaps = aput s.chip.snaps (snapKey u) ws := by cases u <;> rfl
  have hword {k : Nat} (hk : oTime ≤ k) : aget ws k = aget (times.filter fun e => e.2 != 0) k := by
    rw [show ws = _ from List.filter_append ..]
    exact aget_append_of_ne (fun e he => Nat.ne_of_lt (Nat.lt_of_lt_of_le (s.latchOf_below u late ecc e (List.mem_of_mem_filter he)) hk)) _
  have htimes (k : Nat) : (aget (times.filter fun e => e.2 != 0) k).getD 0 = (aget times k).getD 0 :=
    getD_aget_filter times (show [oTime, oTime + 4, oTime + 8].Nodup by decide) k
  have hlow : (aget times oTime).getD 0 = BitVec.ofNat 32 t := rfl
  have hhigh : (aget times (oTime + 4)).getD 0 = BitVec.ofNat 32 (t / 2 ^ 32) := rfl
  simp only [State.snapped, State.snapWord, hsnaps, aget_aput_same, Option.isSome_some, Option.getD_some, hword (Nat.le_refl _),
    hword (Nat.le_add_right oTime 4), htimes, hlow, hhigh, Bool.true_and, beq_iff_eq, BitVec.toNat_ofNat]
  omega

/-- A cell's latches are valid, their error noted (R493). -/
theorem State.cget_latchUnit (s : State) (c t : Nat) (ecc : Bool) :
    (s.latchUnit (.cell c) t ecc).cget c CELL_SNAP_STAT_valid = 1 ∧ (s.latchUnit (.cell c) t ecc).cget c CELL_SNAP_STAT_ecc_err = ecc.toNat := by
  let late := decide (t < s.now)
  have hget (f : Field) : (s.latchUnit (.cell c) t ecc).cget c f =
      (((((s.cell c).regs.set CELL_SNAP_STAT_valid 1).set CELL_SNAP_STAT_late late.toNat).set CELL_SNAP_STAT_ecc_err ecc.toNat).set
        CELL_SNAP_STAT_t_ncyc s.now).get f := State.cget_modCell_same _ c _ f
  constructor
  · rw [hget, Regs.get_set_ne _ _ _ _ (by decide) (by decide), Regs.get_set_ne _ _ _ _ (by decide) (by decide),
      Regs.get_set_ne _ _ _ _ (by decide) (by decide), Regs.get_set_same _ _ _ (by decide)]
    rfl
  · rw [hget, Regs.get_set_ne _ _ _ _ (by decide) (by decide), Regs.get_set_same _ _ _ (by decide)]
    exact Nat.mod_eq_of_lt (Bool.toNat_lt ecc)

theorem State.units_latchUnit (s : State) (u : SnapUnit) (t : Nat) (ecc : Bool) :
    (s.latchUnit u t ecc).blocks = s.blocks ∧ (s.latchUnit u t ecc).regions = s.regions ∧ (s.latchUnit u t ecc).links = s.links ∧
    (s.latchUnit u t ecc).gws = s.gws := by
  cases u <;> exact ⟨rfl, rfl, rfl, rfl⟩

theorem freezeLatch_latches {s : State} {u : SnapUnit} {p : Snap} {ecc : Bool} (hu : u.wf = true) (hd : s.snapDue u (p.t.toNat / 8) = true)
    (hn : p.t.toNat / 8 ≤ s.now) :
    completes (.freezeLatch u ecc) s fun t =>
      t.snapped (snapKey u) (p.t.toNat / 8) = true ∧
      (∀ d, u = .cell d → t.cget d CELL_SNAP_STAT_valid = 1 ∧ t.cget d CELL_SNAP_STAT_ecc_err = ecc.toNat) ∧ t.blocks = s.blocks ∧
      t.regions = s.regions ∧ t.links = s.links ∧ t.gws = s.gws := by
  have hat : (s.rt (s.snapCell u)).freezeAt = some (p.t.toNat / 8) := by
    simp only [State.snapDue, Bool.and_eq_true, beq_iff_eq] at hd
    obtain ⟨⟨hat, -⟩, -⟩ := hd
    exact hat
  have hsnapped := s.snapped_latchUnit u (t := p.t.toNat / 8) (by have := p.t.isLt; omega) ecc
  have hunits := s.units_latchUnit u (p.t.toNat / 8) ecc
  have hstat : ∀ d, u = .cell d → (s.latchUnit u (p.t.toNat / 8) ecc).cget d CELL_SNAP_STAT_valid = 1 ∧
      (s.latchUnit u (p.t.toNat / 8) ecc).cget d CELL_SNAP_STAT_ecc_err = ecc.toNat := by
    rintro d rfl
    exact s.cget_latchUnit d _ ecc
  generalize hw : s.latchUnit u (p.t.toNat / 8) ecc = w at *
  refine completes_next w rfl hu ?_ ⟨hsnapped, hstat, hunits⟩
  simp only [hat, hd, decide_eq_true hn, Bool.and_self, if_true]
  exact hw

/-! ## The dump (R482, R483) -/

section dump

variable (s : State)

/-- Events are written beside the staging buffers. -/
theorem State.staging_postHost (e : Event) : (s.postHost e).ftn.staging = s.ftn.staging := by
  simp only [State.postHost]
  split
  · rfl
  · split
    · rfl
    · split <;> rfl

theorem State.staging_postMgmt (e : Event) : (s.postMgmt e).ftn.staging = s.ftn.staging := by
  simp only [State.postMgmt]
  split
  · rfl
  · split
    · rfl
    · split <;> rfl

theorem State.staging_post (ty u : Nat) (a b : W64) : (s.post ty u a b).ftn.staging = s.ftn.staging := by
  simp only [State.post]
  split
  · rfl
  · rw [State.staging_postMgmt, State.staging_postHost]
    rfl

theorem State.staging_zRecord (r : FaultRec) : (s.zRecord r).ftn.staging = s.ftn.staging := by
  unfold State.zRecord
  split <;> exact s.staging_post ..

theorem State.staging_finish (k : Cmd) (st d : Nat) (r : List Byte) : (s.finish k st d r).ftn.staging = s.ftn.staging := by
  have hr : (s.respondMbx k true st d r).ftn.staging = s.ftn.staging := by
    simp only [State.respondMbx]
    split <;> rfl
  simp only [State.finish]
  split
  · exact (State.staging_post _ _ _ _ _).trans hr
  · exact hr

theorem State.posted_forEach {α : Type} {f : State → α → State} (h : ∀ (s : State) a, s.Posted (f s a)) (l : List α) (s : State) :
    s.Posted (s.forEach l f) := by
  induction l generalizing s with
  | nil => exact .rfl s
  | cons a l ih => exact (h s a).trans (ih (f s a))

theorem State.posted_snapRecords (p : Snap) : s.Posted (s.snapRecords p) := by
  unfold State.snapRecords
  extract_lets t
  generalize allCells.filter _ = cells
  exact State.posted_forEach (fun s c => State.posted_forEach (fun s i => s.posted_zRecord _) (s.latchedFails c t) s) cells s

theorem State.staging_snapRecords (p : Snap) : (s.snapRecords p).ftn.staging = s.ftn.staging := by
  unfold State.snapRecords
  extract_lets t
  generalize allCells.filter _ = cells
  exact State.forEach_keeps (fun s => s.ftn.staging)
    (fun s c => State.forEach_keeps (fun s => s.ftn.staging) (fun s i => s.staging_zRecord _) (s.latchedFails c t) s) cells s

theorem State.opcode_cmdOf_congr {s t : State} (h : t.ftn.mbx = s.ftn.mbx) (m : Nat) : (t.cmdOf m).opcode = (s.cmdOf m).opcode := by
  simp only [State.cmdOf, Cmd.opcode, Cmd.num, State.mbx_congr s h]

/-- No other SNAPSHOT waits. -/
theorem State.snapNext_none {s : State} (h : ∀ j, j < 10 → aget s.chip.mbxWait (kSnapWait j) = none) : s.snapNext = s := by
  have hn : (List.range 10).find? (fun m => (aget s.chip.mbxWait (kSnapWait m)).isSome) = none := by
    rw [List.find?_eq_none]
    intro j hj
    simp [h j (List.mem_range.1 hj)]
  rw [State.snapNext, hn]

/-- A dump is staged for mailbox m; the snapshot is no longer under way. -/
def State.stageDump (m : Nat) (dump : List Byte) : State :=
  (s.modFtn fun f => { f with staging := aput f.staging m (mwriteList ((aget f.staging m).getD []) 0 dump) }).modChip fun h => { h with snap := none }

theorem State.mbx_stageDump (m : Nat) (dump : List Byte) : (s.stageDump m dump).ftn.mbx = s.ftn.mbx := rfl

theorem State.units_stageDump (m : Nat) (dump : List Byte) : (s.stageDump m dump).units = s.units := rfl

theorem State.mbxWait_stageDump (m : Nat) (dump : List Byte) : (s.stageDump m dump).chip.mbxWait = s.chip.mbxWait := rfl

theorem State.snap_stageDump (m : Nat) (dump : List Byte) : (s.stageDump m dump).chip.snap = none := rfl

theorem State.staging_stageDump (m : Nat) (dump : List Byte) :
    aget (s.stageDump m dump).ftn.staging m = some (mwriteList ((aget s.ftn.staging m).getD []) 0 dump) := aget_aput_same _ _ _

end dump

theorem snapshotCollect_dumps {s : State} {m : Nat} {p : Snap} (hm : m < 10) (hp : s.chip.snap = some p) (hmb : p.mbx = m)
    (ht : (s.mbx m).taken = true) (hz : s.zRuns = true) (hn : p.t.toNat / 8 < s.now)
    (hd : (snapUnits (maskRegions p.mask)).any (fun u => s.snapDue u (p.t.toNat / 8)) = false)
    (hw : ∀ j, j < 10 → aget s.chip.mbxWait (kSnapWait j) = none) :
    completes (.snapshotCollect m) s fun t =>
      t.chip.snap = none ∧ t.answers m (s.cmdOf m).opcode 0 0 ∧
      aget t.ftn.staging m = some (mwriteList ((aget s.ftn.staging m).getD []) 0 (s.dump p)) ∧ s.sameUnits t := by
  have hposted := s.posted_snapRecords p
  have hstaging := s.staging_snapRecords p
  have hexec : exec (.snapshotCollect m) s = onUnit (Instr.snapshotCollect m).wf s
      ((((s.snapRecords p).stageDump m (s.dump p)).finishHeld m sOK 0 (leBytes 8 p.t.toNat)).snapNext) := by
    refine (show exec (.snapshotCollect m) s = onUnit _ s _ from rfl).trans ?_
    simp only [hp, hmb, hz, hd, Nat.not_le.2 hn, Bool.not_true, Bool.false_eq_true, ne_eq, not_true_eq_false, or_self, if_false]
    rfl
  generalize s.snapRecords p = w, s.dump p = dump at *
  have hmbx : (w.stageDump m dump).ftn.mbx = s.ftn.mbx := (w.mbx_stageDump m dump).trans hposted.mbx
  have hunits : (w.stageDump m dump).units = s.units := (w.units_stageDump m dump).trans hposted.units
  have hwait : (w.stageDump m dump).chip.mbxWait = s.chip.mbxWait := (w.mbxWait_stageDump m dump).trans (by rw [hposted.chip_eq])
  have hsnap := w.snap_stageDump m dump
  have hstage := w.staging_stageDump m dump
  rw [hstaging] at hstage
  generalize w.stageDump m dump = v at *
  let u := v.finish (v.cmdOf m) sOK 0 (leBytes 8 p.t.toNat)
  have hu : u.chip = { v.chip with regs := u.chip.regs } := (v.finish_done (v.cmdOf m) 0 (leBytes 8 p.t.toNat)).chip ▸ rfl
  refine completes_next u hexec (decide_eq_true hm) ?_ ⟨?_, ?_, ?_, ?_⟩
  · rw [State.finishHeld, if_pos (by rwa [State.mbx_congr s hmbx])]
    exact State.snapNext_none fun j hj => by rw [show u.chip.mbxWait = v.chip.mbxWait by rw [hu], hwait, hw j hj]
  · show u.chip.snap = none
    rw [hu]
    exact hsnap
  · rw [← State.opcode_cmdOf_congr hmbx]
    exact v.finish_answers (v.cmdOf m) sOK 0 _ hm (by decide)
  · exact (congrArg (aget · m) (v.staging_finish ..)).trans hstage
  · exact ((v.responded_finish (v.cmdOf m) sOK 0 _).keeping s).sameUnits hunits

/-- Settles O55: telemetry and samples, the map cache, rinse tests with their answers, then the stillwater snapshot's order, latches and dump. -/
theorem observationRinseAndSnapshots : Obligations.ObservationRinseAndSnapshots := by
  intro s c hc
  refine ⟨fun p hr hp => ⟨telEject_records hc hr hp, telEject_unclaimed hc hr hp⟩,
    fun k hh hb he hd hp hk => pcSampleTick_asks hc hh hb he hd hp hk,
    fun m hm he => ⟨fun pc ht => pcSampleAnswer_records hc hm he pc ht, fun ht => pcSampleTimeout_records hc hm he ht⟩,
    niLatCtlModeWrite_sets hc, fun hm hn hb => latencySampleTick_samples hc hm hn hb,
    fun lid hl => ⟨niMapCtlInvalOne_drops hc hl, fun hm hr => mapCacheFill_takes hc hl hm hr⟩, niMapCtlInvalAll_drops hc,
    fun pl p hr ho hd hp hroom => rinseOffer_offers hc hr ho hd hp hroom, fun pl pk p since hs ht => rinseTimeout_withdraws hc hs ht,
    fun pl p i d hr hp hre hi hd hne => ⟨fun h => mntEject_passes hc hr hp hre hi h, fun h =>
      ⟨fun hf => mntEject_repeats hc hr hp hre hi hd hne h hf, fun hf => mntEject_shuts hc hr hp hre hi hd h hf⟩⟩,
    fun m ha he => ⟨fun h0 hn => snapshot_starts ha he h0 hn, fun h0 ht => snapshot_tooEarly ha he h0 ht⟩,
    fun u p ecc hu hp hd hn => freezeLatch_latches hu hd hn,
    fun m p hm hp hmb ht hz hn hd hw => snapshotCollect_dumps hm hp hmb ht hz hn hd hw⟩

end Sys2Proof.Machine

/-! PROOFS. The cascades family: core barriers and the rearming of landings (R230, R264, R284). -/

namespace Sys2Proof.Machine

/-! ## Arrivals at a core barrier (R281, R284) -/

@[simp] theorem Router.ctxRt_modCtx (r : Router) (x : Nat) (f : CtxRt → CtxRt) : (r.modCtx x f).ctxRt x = f (r.ctxRt x) := by
  simp [Router.ctxRt, Router.modCtx]

/-- What the end of a context's gathering at a router leaves: the arrivals counted, the value combined, the NI and what the block has shown. -/
structure State.Gathered (s t : State) (c x : Nat) : Prop where
  locals : ((t.rt c).ctxRt x).locals = ((s.rt c).ctxRt x).locals
  partialV : ((t.rt c).ctxRt x).partialV = ((s.rt c).ctxRt x).partialV
  ni : t.ni c = s.ni c
  out : t.out = s.out
  only : s.onlyCell t c

/-- A change of the router that of a context's runtime touches only whether its GATHER went up. -/
theorem State.gathered_modRt (s : State) {c x : Nat} {f : Router → Router} {b : Bool}
    (h : (f (s.rt c)).ctxRt x = { (s.rt c).ctxRt x with sent := b }) : s.Gathered (s.modRt c f) c x :=
  ⟨by rw [State.rt_modRt_same, h], by rw [State.rt_modRt_same, h], s.ni_modRt c c f, rfl, s.onlyCell_modRt c f⟩

theorem State.Gathered.trans {s t u : State} {c x : Nat} (h : s.Gathered t c x) (k : t.Gathered u c x) : s.Gathered u c x :=
  ⟨k.locals.trans h.locals, k.partialV.trans h.partialV, k.ni.trans h.ni, k.out.trans h.out, h.only.trans k.only⟩

theorem State.gathered_of_units {s t : State} (hu : t.units = s.units) (ho : t.out = s.out) (c x : Nat) : s.Gathered t c x := by
  have hc : t.cell c = s.cell c := State.cell_congr ((s.sameUnits_iff_units t).2 hu).1 c
  have hr : t.rt c = s.rt c := congrArg Cell.rt hc
  exact ⟨by rw [hr], by rw [hr], congrArg Cell.ni hc, ho, (State.Within.refl s c).only.of_units hu⟩

theorem State.gathered_noteArrival (s : State) (c x : Nat) : s.Gathered (s.noteArrival c x) c x := by
  refine State.gathered_of_units (s.units_noteArrival c x) ?_ c x
  unfold State.noteArrival
  split <;> rfl

theorem State.gathered_rootRelease (s : State) (c x : Nat) (failed : Bool) : s.Gathered (s.rootRelease c x failed) c x := by
  unfold State.rootRelease
  exact (s.gathered_modRt (b := true) (by simp [Router.ctxRt, Router.modCtx])).trans (State.gathered_of_units (State.units_modChip _ _) rfl c x)

/-- A GATHER goes up, the root releases, or the context waits for more. -/
theorem State.gathered_ctxTry (s : State) (c x : Nat) : s.Gathered (s.ctxTry c x) c x := by
  have hwaits : s.Gathered s c x := State.gathered_of_units rfl rfl c x
  unfold State.ctxTry
  extract_lets _ up
  split_ifs
  · exact hwaits
  · exact s.gathered_rootRelease c x false
  · exact hwaits
  · exact (s.gathered_modRt (Router.ctxRt_modCtx (s.rt c) x fun k => { k with sent := true })).trans (State.gathered_modRt _ rfl)

/-- A core's arrival as its router and its NI take note of it, before the context's gathering ends. -/
def State.barJoined (s : State) (c core x : Nat) (v : W64) : State :=
  let n := ((s.rt c).ctxRt x).locals + 1
  let u := s.modRt c fun r => r.modCtx x fun k =>
    { k.add (s.ctxOp x) v with locals := n, localDone := n == s.cget c (CELL_RILL_TREE_local_m1.at x) + 1 }
  u.modNi c fun i => { i with bars := aput i.bars x { i.bar x with arr := aput (i.bar x).arr core (((s.rt c).ctxRt x).gen, none) } }

section barriers

variable {s : State} {c core x : Nat} (hc : cellOk c = true) (hk : coreOk core = true) (hf : s.coreFree c core) (hx : contextOk x = true)

theorem State.barArrive_of_mine (hm : s.ctxMine c x = true) (ha : aget ((s.ni c).bar x).arr core = none)
    (hd : ((s.rt c).ctxRt x).localDone = false) (v : W64) :
    s.barArrive c core x v = ((s.barJoined c core x v).noteArrival c x).ctxTry c x := by
  unfold State.barArrive
  dsimp only
  rw [if_neg (by simp [hm, ha, hd])]
  rfl

theorem State.barArrive_of_other (hm : s.ctxMine c x = false) (v : W64) : s.barArrive c core x v = s.bump c CELL_RILL_CNT_gen_err := by
  simp [State.barArrive, hm]

include hc hk hf hx

theorem cqBarArrive_joins {v : W64} (hm : s.ctxMine c x = true) (ha : aget ((s.ni c).bar x).arr core = none)
    (hd : ((s.rt c).ctxRt x).localDone = false) :
    completes (.cqBarArrive c core x v) s fun t =>
      s.answered t c core 0 ∧ ((t.rt c).ctxRt x).locals = ((s.rt c).ctxRt x).locals + 1 ∧
      ((t.rt c).ctxRt x).partialV =
        (if ((s.rt c).ctxRt x).have_ then combineOp (s.ctxOp x) ((s.rt c).ctxRt x).partialV v else v) ∧
      aget ((t.ni c).bar x).arr core = some (((s.rt c).ctxRt x).gen, none) ∧ s.onlyCell t c := by
  obtain ⟨hl, hp, hn, ho, hu⟩ := (State.gathered_noteArrival (s.barJoined c core x v) c x).trans (State.gathered_ctxTry _ c x)
  refine completes_write rfl (by simp [Instr.wf, hc, hk, hx]) hf (State.barArrive_of_mine hm ha hd v) ⟨?_, ?_, ?_, ?_, ?_⟩
  · exact congrArg (· ++ [Out.coreRsp c core 0]) ho
  · refine hl.trans ?_
    rw [State.barJoined, State.rt_modNi, State.rt_modRt_same, Router.ctxRt_modCtx]
  · refine hp.trans ?_
    rw [State.barJoined, State.rt_modNi, State.rt_modRt_same, Router.ctxRt_modCtx]
    rfl
  · rw [State.keeping_ni, State.ni_respond, hn, State.barJoined, State.ni_modNi_same]
    simp [Ni.bar]
  · exact ((s.within_modCell c _).trans (State.within_modNi _ c _)).only.trans hu

theorem cqBarArrive_notMine {v : W64} (hm : s.ctxMine c x = false) :
    completes (.cqBarArrive c core x v) s fun t =>
      s.answered t c core 0 ∧ (s.cell c).regs.counted (t.cell c).regs CELL_RILL_CNT_gen_err ∧ t.ni c = s.ni c ∧ t.rt c = s.rt c ∧ s.onlyCell t c :=
  completes_write rfl (by simp [Instr.wf, hc, hk, hx]) hf (State.barArrive_of_other hm v)
    ⟨rfl, s.counted_bump c _ (by decide), s.ni_bump c c _, s.rt_bump c c _, (s.within_modCell c _).only⟩

/-! ## Waits on a core barrier, and the result of its last generation (R284) -/

theorem cqBarWaitRead_absent (ha : aget ((s.ni c).bar x).arr core = none) :
    completes (.cqBarWaitRead c core x false) s fun t => s.answered t c core 0x800 ∧ ∀ d, t.cell d = s.cell d := by
  refine completes_access rfl (by simp [Instr.wf, hc, hk, hx]) hf ?_
  rw [if_neg Bool.false_ne_true, ha]
  exact ⟨rfl, fun _ => rfl⟩

theorem cqBarWaitRead_stalls {gen : BitVec 10} (ha : aget ((s.ni c).bar x).arr core = some (gen, none)) :
    completes (.cqBarWaitRead c core x false) s fun t =>
      t.out = s.out ∧ ((t.ni c).core core).stall = some (.barWait x, s.ncyc) ∧ s.onlyCell t c := by
  refine completes_access rfl (by simp [Instr.wf, hc, hk, hx]) hf ?_
  rw [if_neg Bool.false_ne_true, ha]
  refine ⟨rfl, ?_, (s.within_modCell c _).only⟩
  rw [State.keeping_ni, State.ni_modNi_same, Ni.core_stallCore]

theorem cqBarWaitRead_released {gen : BitVec 10} {failed : Bool} (ha : aget ((s.ni c).bar x).arr core = some (gen, some failed)) :
    completes (.cqBarWaitRead c core x false) s fun t =>
      s.answered t c core (BitVec.ofNat 64 (gen.toNat + failed.toNat * 1024)) ∧ ∀ d, t.cell d = s.cell d := by
  refine completes_access rfl (by simp [Instr.wf, hc, hk, hx]) hf ?_
  rw [if_neg Bool.false_ne_true, ha]
  exact ⟨rfl, fun _ => rfl⟩

theorem cqBarWaitRead_result :
    completes (.cqBarWaitRead c core x true) s fun t => s.answered t c core ((s.ni c).bar x).result ∧ ∀ d, t.cell d = s.cell d :=
  completes_access rfl (by simp [Instr.wf, hc, hk, hx]) hf ⟨rfl, fun _ => rfl⟩

end barriers

/-! ## Landings are rearmed (R230, R264) -/

section rearms

variable {s : State} {c core i : Nat} (hc : cellOk c = true) (hk : coreOk core = true) (hf : s.coreFree c core)
include hc hk hf

theorem cqMcRearm_rearms (hi : landOk i = true) :
    completes (.cqMcRearm c core i .rearm) s fun t =>
      s.answered t c core 0 ∧ aget (t.ni c).mcLands i = some ⟨0, 0, false, 0⟩ ∧
      (∀ j, j ≠ i → aget (t.ni c).mcLands j = aget (s.ni c).mcLands j) ∧ s.onlyCell t c := by
  refine completes_write rfl (by simp [Instr.wf, hc, hk, hi]) hf rfl ⟨rfl, ?_, fun j hj => ?_, (s.within_modCell c _).only⟩
  · rw [State.keeping_ni, State.ni_respond, State.ni_modNi_same, Ni.mcRearm, aget_aput_same]
  · rw [State.keeping_ni, State.ni_respond, State.ni_modNi_same, Ni.mcRearm, aget_aput_ne _ _ (Ne.symm hj)]

theorem cqRedRearm_rearms (hi : i < 8) :
    completes (.cqRedRearm c core i .rearm) s fun t =>
      s.answered t c core 0 ∧ aget (t.ni c).redLands i = some ⟨0, 0, false, 0, 0⟩ ∧
      (∀ j, j ≠ i → aget (t.ni c).redLands j = aget (s.ni c).redLands j) ∧ s.onlyCell t c := by
  refine completes_write rfl (by simp [Instr.wf, hc, hk, hi]) hf rfl ⟨rfl, ?_, fun j hj => ?_, (s.within_modCell c _).only⟩
  · rw [State.keeping_ni, State.ni_respond, State.ni_modNi_same, Ni.redRearm, aget_aput_same]
  · rw [State.keeping_ni, State.ni_respond, State.ni_modNi_same, Ni.redRearm, aget_aput_ne _ _ (Ne.symm hj)]

theorem cqMcRearm_reads (hi : landOk i = true) :
    completes (.cqMcRearm c core i .read) s fun t => s.answered t c core ((s.ni c).mcRt i).word ∧ ∀ d, t.cell d = s.cell d :=
  completes_access rfl (by simp [Instr.wf, hc, hk, hi]) hf ⟨rfl, fun _ => rfl⟩

theorem cqRedRearm_reads (hi : i < 8) :
    completes (.cqRedRearm c core i .read) s fun t => s.answered t c core ((s.ni c).redRt i).word ∧ ∀ d, t.cell d = s.cell d :=
  completes_access rfl (by simp [Instr.wf, hc, hk, hi]) hf ⟨rfl, fun _ => rfl⟩

end rearms

/-- Settles O44: arrivals at a barrier, waits and the result, then the words and the rearms of the landings. -/
theorem coreBarriersAndRearms : Obligations.CoreBarriersAndRearms := by
  intro s c core hc hk hf
  refine ⟨fun x v hx => ⟨cqBarArrive_joins hc hk hf hx, cqBarArrive_notMine hc hk hf hx⟩, fun x hx => ⟨?_, ?_, ?_, ?_⟩,
    fun _ => cqMcRearm_reads hc hk hf, fun _ => cqRedRearm_reads hc hk hf, fun _ => cqMcRearm_rearms hc hk hf,
    fun _ => cqRedRearm_rearms hc hk hf⟩
  · exact cqBarWaitRead_absent hc hk hf hx
  · exact fun _ => cqBarWaitRead_stalls hc hk hf hx
  · exact fun _ _ => cqBarWaitRead_released hc hk hf hx
  · exact cqBarWaitRead_result hc hk hf hx

end Sys2Proof.Machine

/-! PROOFS. The cascades family: the fountain buffer (R224, R225). -/

namespace Sys2Proof.Machine

/-! ## Branches of a slot are cleared (R224, R332) -/

theorem getLsbD_of_and_eq_zero {n i : Nat} {a m : BitVec n} (h : a &&& m = 0) (hm : m.getLsbD i = true) : a.getLsbD i = false := by
  have hbit := congrArg (·.getLsbD i) h
  simpa only [BitVec.getLsbD_and, hm, Bool.and_true, BitVec.ofNat_eq_ofNat, BitVec.getLsbD_zero] using hbit

/-- The slots that remain with the number of the one served hold none of the branches cleared. -/
theorem Ni.mask_fountClear {x : Ni} {id now : Nat} {m : BitVec 5} {injected : Bool} {g : FountSlot}
    (hg : g ∈ (x.fountClear id m injected now).fountain) (hid : g.id = id) : g.mask &&& m = 0 := by
  let clear (f : FountSlot) : FountSlot :=
    if f.id == id then { f with mask := f.mask &&& ~~~m, since := if injected then now else f.since } else f
  have hclear {f : FountSlot} (hf : (clear f).id = id) : (clear f).mask &&& m = 0 := by
    by_cases h : f.id = id
    · rw [show (clear f).mask = f.mask &&& ~~~m by simp [clear, h], BitVec.and_assoc, BitVec.and_comm (~~~m), BitVec.and_not_self]
      exact BitVec.and_zero
    · simp [clear, h] at hf
  have hl {f : FountSlot} (hf : f ∈ (x.fountain.map clear).filter fun f => f.mask != 0) (hfid : f.id = id) : f.mask &&& m = 0 := by
    obtain ⟨k, -, rfl⟩ := List.mem_map.1 (List.mem_filter.1 hf).1
    exact hclear hfid
  unfold Ni.fountClear at hg
  extract_lets before l l' after at hg
  dsimp only at hg
  split_ifs at hg
  · exact hl hg hid
  · obtain ⟨k, hk, rfl⟩ := List.mem_map.1 hg
    by_cases h : (some k.id == after) = true
    · simp only [h, if_true] at hid ⊢
      exact hl hk hid
    · simp only [h] at hid ⊢
      exact hl hk hid

section clears

variable (s : State) (c id : Nat) (m : BitVec 5) (injected : Bool)

theorem State.within_fountClear : s.Within (s.fountClear c id m injected) c := (s.within_modNi c _).trans (State.within_modCell _ c _)

theorem State.ni_fountClear : (s.fountClear c id m injected).ni c = (s.ni c).fountClear id m injected s.ncyc := by
  rw [State.fountClear, State.ni_modCellRegs, State.ni_modNi_same]

/-- The slots freed have a count of their own (R332). -/
theorem State.get_fountClear {f : Field} (hf : f.off ≠ NI_BAL_FOUNT_freed.off) :
    ((s.fountClear c id m injected).cell c).regs.get f = (s.cell c).regs.get f := by
  rw [State.fountClear, State.regs_modCellRegs, State.regs_modNi]
  exact Regs.get_set_ne _ _ _ _ (by decide) (.inl (Ne.symm hf))

end clears

/-! ## A copy lands (R48, R229) -/

/-- t is s but for what cell c holds, and of that the fountain buffer is s's too. -/
structure State.SameFountain (s t : State) (c : Nat) : Prop extends s.Within t c where
  fountain : (t.ni c).fountain = (s.ni c).fountain

theorem State.SameFountain.trans {s t u : State} {c : Nat} (h : s.SameFountain t c) (k : t.SameFountain u c) : s.SameFountain u c :=
  ⟨h.toWithin.trans k.toWithin, k.fountain.trans h.fountain⟩

section lands

variable (s : State) (c : Nat)

theorem State.sameFountain_bump (f : Field) : s.SameFountain (s.bump c f) c := ⟨s.within_modCell c _, by rw [State.ni_bump]⟩

theorem State.sameFountain_lostOn (pl : Plane) : s.SameFountain (s.lostOn c pl) c := by
  unfold State.lostOn
  split
  · exact s.sameFountain_bump c _
  · exact ⟨.refl s c, rfl⟩

theorem State.sameFountain_mcLand (pl : Plane) (p : Packet) : s.SameFountain (s.mcLand c pl p) c := by
  have hlost (f : Field) : s.SameFountain ((s.bump c f).lostOn c pl) c := (s.sameFountain_bump c f).trans (State.sameFountain_lostOn _ c pl)
  have hland (a i : Nat) (l : List Byte) (m : McLandRt) : s.SameFountain ((s.tagRx c (s.rxTag c p)).landed c a l fun x =>
      ({ x.ni with mcLands := aput x.ni.mcLands i m } : Ni).request true (.mcLand i)) c :=
    have hf : ((s.tagRx c (s.rxTag c p)).ni c).fountain = (s.ni c).fountain := congrArg Ni.fountain (s.ni_tagRx c _)
    ⟨(s.within_tagRx c _).trans (State.within_landed _ c _ _ _), (congrArg Ni.fountain (State.ni_landed _ c _ _ _)).trans hf⟩
  cases hm : (s.cell c).regs.mcLanding p with
  | none =>
    rw [State.mcLand, hm]
    exact hlost _
  | some i =>
    by_cases hd : ((s.ni c).mcRt i).done = true
    · simp only [State.mcLand, hm, hd, if_true]
      exact hlost _
    · simp only [State.mcLand, hm, hd, if_false, Bool.false_eq_true]
      generalize (if p.last = 1 then p.seq.toNat + 1 else ((s.ni c).mcRt i).expected) = expected
      split
      · exact hlost _
      · split_ifs
        · exact (hland _ i _ _).trans (State.sameFountain_bump _ c _)
        · exact hland _ i _ _

theorem State.sameFountain_fountLand (p : Packet) : s.SameFountain (s.fountLand c p) c := by
  unfold State.fountLand
  split_ifs
  · exact s.sameFountain_bump c _
  · exact s.sameFountain_bump c _
  · exact s.sameFountain_mcLand c _ p

end lands

/-- Landings are found by registers of their own (R229, R241). -/
theorem Regs.mcLanding_congr {r r' : Regs} (h : ∀ f : Field, f.off ≠ NI_BAL_FOUNT_freed.off → r'.get f = r.get f) (p : Packet) :
    r'.mcLanding p = r.mcLanding p := by
  have hat (f : Field) (hf : f.off = NI_MC_LAND_valid.off) (i : Nat) : r'.get (f.at i) = r.get (f.at i) :=
    h _ (by simp only [Field.at, hf, NI_MC_LAND_valid, NI_BAL_FOUNT_freed]; omega)
  simp only [Regs.mcLanding, Regs.flag, hat _ rfl, hat NI_MC_LAND_sched_valid rfl, hat NI_MC_LAND_sched_tree rfl, hat NI_MC_LAND_dyn_valid rfl,
    hat NI_MC_LAND_dyn_tree rfl]

/-- A count of a register that earlier changes have left alone. -/
theorem State.counted_bump_of_get {s u : State} {c : Nat} {f : Field} (hf : f.fits) (h : (u.cell c).regs.get f = (s.cell c).regs.get f) :
    (s.cell c).regs.counted ((u.bump c f).cell c).regs f := by
  rw [Regs.counted, ← h]
  exact u.counted_bump c f hf

/-- FOUNTAIN_DELIVERY: the own branch of the slot is clear, its copy has met the checks of R48 and the landings of R229. -/
theorem fountainDelivery_delivers {s : State} {c : Nat} {f : FountSlot} (hc : cellOk c = true) (hn : (s.ni c).hold = .none)
    (hd : (s.ni c).didNow dFount s.ncyc = false)
    (hf : (s.ni c).fountain.find? (fun f => f.mask.getLsbD 4 && !(s.ni c).readsWait f.id && decide (f.placed < s.ncyc)) = some f) :
    completes (.fountainDelivery c .none) s fun t =>
      (∀ g ∈ (t.ni c).fountain, g.id = f.id → g.mask.getLsbD 4 = false) ∧
      (f.pkt.crc ≠ f.pkt.crcOf → (s.cell c).regs.counted (t.cell c).regs NI_RX_CHECK_crc_err) ∧
      (f.pkt.crc = f.pkt.crcOf → pktLegal f.pkt .request = false → (s.cell c).regs.counted (t.cell c).regs NI_RX_CHECK_malformed) ∧
      (f.pkt.crc = f.pkt.crcOf → pktLegal f.pkt .request = true → (s.cell c).regs.mcLanding f.pkt = none →
        (s.cell c).regs.counted (t.cell c).regs NI_MC_STAT_mc_unclaimed) ∧
      s.onlyCell t c := by
  let v := s.modNi c fun x => x.note dFount s.ncyc
  let u := v.fountClear c f.id 16 false
  have hu : s.Within u c := (s.within_modNi c _).trans (v.within_fountClear c _ _ _)
  have hget (g : Field) (hg : g.off ≠ NI_BAL_FOUNT_freed.off) : (u.cell c).regs.get g = (s.cell c).regs.get g := by
    rw [v.get_fountClear c _ _ _ hg, State.regs_modNi]
  have hland := u.sameFountain_fountLand c f.pkt
  refine completes_next (u.fountLand c f.pkt) rfl hc ?_
    ⟨fun g hg hid => ?_, fun hcrc => ?_, fun hcrc hl => ?_, fun hcrc hl hm => ?_, (hu.trans hland.toWithin).only⟩
  · rw [if_neg (by simp [hn, hd]), hf]
    rfl
  · rw [State.keeping_ni, hland.fountain, v.ni_fountClear] at hg
    exact getLsbD_of_and_eq_zero (Ni.mask_fountClear hg hid) rfl
  · rw [State.keeping_cell, State.fountLand, if_pos hcrc]
    exact State.counted_bump_of_get (by decide) (hget _ (by decide))
  · rw [State.keeping_cell, State.fountLand, if_neg (not_not.2 hcrc), if_pos (by simp [hl])]
    exact State.counted_bump_of_get (by decide) (hget _ (by decide))
  · have hun : u.mcLand c .request f.pkt = u.bump c NI_MC_STAT_mc_unclaimed := by
      rw [State.mcLand, Regs.mcLanding_congr hget, hm]
      rfl
    rw [State.keeping_cell, State.fountLand, if_neg (not_not.2 hcrc), if_neg (by simp [hl]), hun]
    exact State.counted_bump_of_get (by decide) (hget _ (by decide))

/-! ## A copy goes onto a mesh output (R81, R224, R225) -/

/-- Whatever its type a packet injected on the request plane is on its way to the neighbour; the NI stays, and every count but those of
side notes. -/
theorem State.inject_request (s : State) {c p e : Nat} (pk : Packet) (tag : W32) (he : neighbor c p = some e) :
    s.sentTo (s.inject c .request p pk tag) c p .request (· = pk.regen) ∧ s.onlyLinkEnds (s.inject c .request p pk tag) c p ∧
    (s.inject c .request p pk tag).ni c = s.ni c ∧
    ∀ f : Field, f.off ∉ noteRegs → ((s.inject c .request p pk tag).cell c).regs.get f = (s.cell c).regs.get f := by
  let a := (s.take c .request 64).modRt c fun r => r.enter pk.epoch.toNat
  let b := (a.watch c pk.type pk.chanTree).spray c .request 4 true pk tag
  let d := (b.take c .request (BitVec.ofNat 7 (2 ^ p))).spray c .request (pointPort c p) false pk tag
  have hb : a.Noted b c := (a.noted_watch c _ _).trans (State.noted_spray _ c ..)
  have hd : (b.take c .request (BitVec.ofNat 7 (2 ^ p))).Noted d c := State.noted_spray _ c ..
  have hw : s.Within d c := (((s.within_take c _ _).trans (State.within_modCell _ c _)).trans hb.toWithin).trans
    ((b.within_take c _ _).trans hd.toWithin)
  have hi : s.inject c .request p pk tag = d.drive c .request p pk := rfl
  obtain ⟨hs, ho, -, -, hr⟩ := d.drove_drive pk (pl := .request) rfl he
  rw [hi]
  refine ⟨hw.sentTo hs, hw.onlyLinkEnds ho, ?_, fun f hf => ?_⟩
  · rw [State.drive, he, State.ni_modRt, hd.ni, State.ni_take, hb.ni, State.ni_modRt, State.ni_take]
  · rw [hr f hf, hd.regs f hf, State.regs_take, hb.regs f hf, State.regs_modRt, State.regs_take]

theorem port_lt_of_neighbor {c p e : Nat} (h : neighbor c p = some e) : p < 4 := by
  by_contra hp
  obtain ⟨k, rfl⟩ := Nat.exists_eq_add_of_le' (Nat.not_lt.1 hp)
  cases h

section served

variable {s : State} {c p e : Nat} {f : FountSlot} (hc : cellOk c = true) (hn : (s.ni c).hold = .none) (hh : (s.ni c).headReq = none)
  (hi : s.mayInject c .request = true) (hs : (s.ni c).fountServer = some f) (hw : (s.ni c).readsWait f.id = false) (hp : f.placed < s.ncyc)
  (he : neighbor c p = some e)
include hc hn hh hi hs hw hp he

theorem fountainInject_sends (hf : (s.rotOrder c).find? (fun p => f.mask.getLsbD p && s.freeOut c .request p) = some p) :
    completes (.fountainInject c .none) s fun t =>
      s.sentTo t c p .request (fun k => k = Packet.regen (s.stamped c f.pkt 0)) ∧
      (∀ g ∈ (t.ni c).fountain, g.id = f.id → g.mask.getLsbD p = false) ∧ s.onlyLinkEnds t c p := by
  let u := s.fountClear c f.id (BitVec.ofNat 5 (2 ^ p)) true
  have hu : s.Within u c := s.within_fountClear c _ _ _
  obtain ⟨hsent, hends, hni, -⟩ := u.inject_request (s.stamped c f.pkt 0) 0 he
  refine completes_next (u.inject c .request p (s.stamped c f.pkt 0) 0) rfl hc ?_ ⟨hu.sentTo hsent, fun g hg hid => ?_, hu.onlyLinkEnds hends⟩
  · dsimp only
    rw [if_neg (by simp [hn, hh, hi]), hs]
    dsimp only
    rw [if_neg (by simp [hw, hp]), hf]
    rfl
  · rw [State.keeping_ni, hni, s.ni_fountClear] at hg
    exact getLsbD_of_and_eq_zero (Ni.mask_fountClear hg hid) (by
      have hlt := port_lt_of_neighbor he
      interval_cases p <;> rfl)

theorem fountainPatienceExpire_sends (hpat : f.since + s.cget c NI_FOUNT_CTL_fount_patience ≤ s.ncyc)
    (hnone : (s.rotOrder c).any (fun p => f.mask.getLsbD p && s.freeOut c .request p) = false) (hany : s.anyPort c .request = some p) :
    completes (.fountainPatienceExpire c) s fun t =>
      s.sentTo t c p .request (fun k => k = Packet.regen (s.stamped c (s.reroot c f.pkt f.mask) 1)) ∧
      (∀ g ∈ (t.ni c).fountain, g.id = f.id → g.mask &&& f.mask = 0) ∧
      (s.cell c).regs.counted (t.cell c).regs NI_FOUNT_STAT_forced ∧ s.onlyLinkEnds t c p := by
  let v := s.fountClear c f.id f.mask true
  let u := v.bump c NI_FOUNT_STAT_forced
  have hu : s.Within u c := (s.within_fountClear c _ _ _).trans (v.within_modCell c _)
  obtain ⟨hsent, hends, hni, hregs⟩ := u.inject_request (s.stamped c (s.reroot c f.pkt f.mask) 1) 0 he
  refine completes_next (u.inject c .request p (s.stamped c (s.reroot c f.pkt f.mask) 1) 0) rfl hc ?_
    ⟨hu.sentTo hsent, fun g hg hid => ?_, ?_, hu.onlyLinkEnds hends⟩
  · dsimp only
    rw [if_neg (by simp [hn, hh, hi]), hs]
    dsimp only
    rw [if_neg (by rw [hnone]; simp [hw, hp, hpat]), hany]
  · rw [State.keeping_ni, hni, State.ni_bump, s.ni_fountClear] at hg
    exact Ni.mask_fountClear hg hid
  · rw [Regs.counted, State.keeping_cell, hregs _ (by decide), State.regs_bump, Regs.get_bump_same _ _ (by decide),
      s.get_fountClear c _ _ _ (by decide)]

end served

/-- Settles O48: the slot's own branch, then the serving slot's first free branch, then the end of its patience. -/
theorem fountainBuffer : Obligations.FountainBuffer :=
  fun _ _ hc hn => ⟨fun _ => fountainDelivery_delivers hc hn, fun _ hh hi hs hw hp =>
    ⟨fun _ _ hf he => fountainInject_sends hc hn hh hi hs hw hp he hf, fun _ _ hpat hnone hany he =>
      fountainPatienceExpire_sends hc hn hh hi hs hw hp he hpat hnone hany⟩⟩

end Sys2Proof.Machine

/-! PROOFS. The cascades family: landing entries and held ranges by command (R229, R241, R251, R263, R269, R272). -/

namespace Sys2Proof.Machine

/-! ## Landing entries (R241, R269) -/

/-- Of fields set in turn the first holds its value's low bits, where none of the others shares a bit with it. -/
theorem Regs.get_setAll_head {l : List (Field × Nat)} {f : Field} {v : Nat} (hl : ((f, v) :: l).Pairwise fun a b => b.1.apart a.1)
    (hf : ∀ e ∈ (f, v) :: l, e.1.fits) (r : Regs) : (r.setAll ((f, v) :: l)).get f = v % 2 ^ f.len := by
  have hrest : ∀ e ∈ l, e.1.fits ∧ e.1.apart f := fun e he => ⟨hf e (List.mem_cons_of_mem _ he), (List.pairwise_cons.1 hl).1 e he⟩
  exact (Regs.get_setAll_apart hrest (r.set f v)).trans (r.get_set_same f v (hf _ List.mem_cons_self))

/-- The fields that MC_LAND_SET writes of landing i. -/
def Cmd.mcLandFields (k : Cmd) (i : Nat) : List (Field × Nat) :=
  [(NI_MC_LAND_valid.at i, k.arg 3 1), (NI_MC_LAND_sched_valid.at i, k.arg 3 1 / 2), (NI_MC_LAND_dyn_valid.at i, k.arg 3 1 / 4),
    (NI_MC_LAND_notify.at i, k.arg 3 1 / 8), (NI_MC_LAND_sched_tree.at i, k.arg 4 2), (NI_MC_LAND_dyn_tree.at i, k.arg 6 2),
    (NI_MC_LAND_base.at i, k.arg 8 3), (NI_MC_LAND_parterre.at i, k.arg 11 1)]

/-- The fields that RED_LAND_SET writes of landing i. -/
def Cmd.redLandFields (k : Cmd) (i : Nat) : List (Field × Nat) :=
  [(NI_RED_LAND_valid.at i, k.arg 3 1), (NI_RED_LAND_notify.at i, k.arg 3 1 / 2), (NI_RED_LAND_tree.at i, k.arg 4 2),
    (NI_RED_LAND_base.at i, k.arg 8 3), (NI_RED_LAND_parterre.at i, k.arg 11 1)]

theorem Cmd.mcLandFields_apart (k : Cmd) (i : Nat) : (k.mcLandFields i).Pairwise fun a b => b.1.apart a.1 := by
  simp [Cmd.mcLandFields, Field.apart, Field.at, NI_MC_LAND_valid, NI_MC_LAND_sched_valid, NI_MC_LAND_dyn_valid, NI_MC_LAND_notify,
    NI_MC_LAND_sched_tree, NI_MC_LAND_dyn_tree, NI_MC_LAND_base, NI_MC_LAND_parterre]

theorem Cmd.mcLandFields_fit (k : Cmd) (i : Nat) : ∀ e ∈ k.mcLandFields i, e.1.fits := by
  simp [Cmd.mcLandFields, Field.fits, Field.at, NI_MC_LAND_valid, NI_MC_LAND_sched_valid, NI_MC_LAND_dyn_valid, NI_MC_LAND_notify,
    NI_MC_LAND_sched_tree, NI_MC_LAND_dyn_tree, NI_MC_LAND_base, NI_MC_LAND_parterre]

theorem Cmd.redLandFields_apart (k : Cmd) (i : Nat) : (k.redLandFields i).Pairwise fun a b => b.1.apart a.1 := by
  simp [Cmd.redLandFields, Field.apart, Field.at, NI_RED_LAND_valid, NI_RED_LAND_notify, NI_RED_LAND_tree, NI_RED_LAND_base,
    NI_RED_LAND_parterre]

theorem Cmd.redLandFields_fit (k : Cmd) (i : Nat) : ∀ e ∈ k.redLandFields i, e.1.fits := by
  simp [Cmd.redLandFields, Field.fits, Field.at, NI_RED_LAND_valid, NI_RED_LAND_notify, NI_RED_LAND_tree, NI_RED_LAND_base,
    NI_RED_LAND_parterre]

/-- Cell c with some register fields set, and its NI changed where a landing has been made valid. -/
def State.landSet (s : State) (c : Nat) (l : List (Field × Nat)) (valid : Bool) (f : Ni → Ni) : State :=
  let u := s.modCellRegs c fun r => r.setAll l
  if valid then u.modNi c f else u

section landSet

variable (s : State) (c : Nat) (l : List (Field × Nat)) (valid : Bool) (f : Ni → Ni)

theorem State.within_landSet : s.Within (s.landSet c l valid f) c := by
  have hu : s.Within (s.modCellRegs c fun r => r.setAll l) c := s.within_modCell c _
  unfold State.landSet
  split
  · exact hu.trans (State.within_modNi _ c f)
  · exact hu

theorem State.regs_landSet : ((s.landSet c l valid f).cell c).regs = (s.cell c).regs.setAll l := by
  unfold State.landSet
  split
  · rw [State.regs_modNi, State.regs_modCellRegs]
  · exact s.regs_modCellRegs c _

theorem State.ni_landSet_valid : (s.landSet c l true f).ni c = f (s.ni c) := by
  rw [State.landSet, if_pos rfl, State.ni_modNi_same, State.ni_modCellRegs]

end landSet

/-- A landing that is not valid may be changed, and a valid one made invalid. -/
theorem land_changeable {valid : Bool} {n : Nat} (h : valid = false ∨ n % 2 = 0) : ¬(valid && n % 2 == 1) = true := by
  rcases h with h | h <;> simp [h]

@[simp] theorem State.accepted_cellFlag (s : State) (m c : Nat) (f : Field) : (s.accepted m).cellFlag c f = s.cellFlag c f := by
  rw [State.cellFlag, State.accepted_cell, State.cellFlag]

/-- A command that is accepted and sets a landing answers OK: of the fields set the first holds its low bits and each that fits its value, and a
landing made valid starts anew. -/
theorem completes_landSet {i : Instr} {s v : State} {m op c n : Nat} {f : Field} {l : List (Field × Nat)} {valid : Bool} {g : Ni → Ni}
    (ha : s.accepts m op = true) (he : exec i s = onUnit (mailboxOk m) s v)
    (hv : v = ((s.accepted m).landSet c ((f, n) :: l) valid g).ok (s.cmdOf m))
    (hapart : ((f, n) :: l).Pairwise fun a b => b.1.apart a.1) (hfit : ∀ e ∈ (f, n) :: l, e.1.fits) :
    completes i s fun t => t.answers m op 0 0 ∧ t.cget c f = n % 2 ^ f.len ∧
      (∀ f' x, (f', x) ∈ (f, n) :: l → x < 2 ^ f'.len → t.cget c f' = x) ∧ (valid = true → t.ni c = g (s.ni c)) ∧ s.onlyCell t c := by
  refine completes_ok ha he hv fun t ht _ =>
    ⟨?_, fun f' x hm hx => ?_, fun hvalid => ?_, ht.onlyCell (State.within_landSet _ _ _ _ _)⟩
  · rw [State.cget, ht.cell, State.regs_landSet]
    exact Regs.get_setAll_head hapart hfit _
  · rw [State.cget, ht.cell, State.regs_landSet]
    exact Regs.get_setAll hapart hfit hm hx _
  · subst hvalid
    rw [State.ni, ht.cell, ← State.ni, State.ni_landSet_valid, State.accepted_ni]

section lands

variable {s : State} {m : Nat} {k : Cmd} (hcmd : s.cmdOf m = k) (he : k.extLen = 0) (hc : cellOk (k.arg 0 2) = true)
  (hr : (s.block (blockOf (k.arg 0 2))).power = .run) (htree : k.arg 4 2 < 4096)
include hcmd he hc hr htree

theorem mcLandSet_sets (ha : s.accepts m 0x32 = true) (hi : k.arg 2 1 < 16) (hf : k.arg 3 1 < 16) (hdyn : k.arg 6 2 < 4096)
    (hv : s.cellFlag (k.arg 0 2) (NI_MC_LAND_valid.at (k.arg 2 1)) = false ∨ k.arg 3 1 % 2 = 0) :
    completes (.mcLandSet m) s fun t => t.answers m 0x32 0 0 ∧
      t.cget (k.arg 0 2) (NI_MC_LAND_valid.at (k.arg 2 1)) = k.arg 3 1 % 2 ∧
      (∀ f v, (f, v) ∈ k.mcLandFields (k.arg 2 1) → v < 2 ^ f.len → t.cget (k.arg 0 2) f = v) ∧
      (decide (k.arg 3 1 % 2 = 1) = true → t.ni (k.arg 0 2) =
        { s.ni (k.arg 0 2) with mcLands := adel (s.ni (k.arg 0 2)).mcLands (k.arg 2 1) }) ∧ s.onlyCell t (k.arg 0 2) := by
  subst hcmd
  refine completes_landSet (g := fun x => { x with mcLands := adel x.mcLands ((s.cmdOf m).arg 2 1) }) ha rfl ?_
    (Cmd.mcLandFields_apart _ _) (Cmd.mcLandFields_fit _ _)
  rw [s.plainCmd_accepted _ ha he]
  simp only [hc, State.accepted_cellFlag, Bool.not_true, Bool.false_eq_true, if_false]
  rw [if_neg (Nat.not_le.2 hi), if_neg (Nat.not_le.2 hf), if_neg (Nat.not_le.2 htree), if_neg (Nat.not_le.2 hdyn), if_neg (land_changeable hv),
    State.zCell_run (by rwa [State.accepted_block])]
  simp only [State.landSet, decide_eq_true_eq]
  rfl

theorem redLandSet_sets (ha : s.accepts m 0x33 = true) (hi : k.arg 2 1 < 8) (hf : k.arg 3 1 < 4)
    (hv : s.cellFlag (k.arg 0 2) (NI_RED_LAND_valid.at (k.arg 2 1)) = false ∨ k.arg 3 1 % 2 = 0) :
    completes (.redLandSet m) s fun t => t.answers m 0x33 0 0 ∧
      t.cget (k.arg 0 2) (NI_RED_LAND_valid.at (k.arg 2 1)) = k.arg 3 1 % 2 ∧
      (∀ f v, (f, v) ∈ k.redLandFields (k.arg 2 1) → v < 2 ^ f.len → t.cget (k.arg 0 2) f = v) ∧
      (decide (k.arg 3 1 % 2 = 1) = true → t.ni (k.arg 0 2) =
        { s.ni (k.arg 0 2) with redLands := adel (s.ni (k.arg 0 2)).redLands (k.arg 2 1) }) ∧ s.onlyCell t (k.arg 0 2) := by
  subst hcmd
  refine completes_landSet (g := fun x => { x with redLands := adel x.redLands ((s.cmdOf m).arg 2 1) }) ha rfl ?_
    (Cmd.redLandFields_apart _ _) (Cmd.redLandFields_fit _ _)
  rw [s.plainCmd_accepted _ ha he]
  simp only [hc, State.accepted_cellFlag, Bool.not_true, Bool.false_eq_true, if_false]
  rw [if_neg (Nat.not_le.2 hi), if_neg (Nat.not_le.2 hf), if_neg (Nat.not_le.2 htree), if_neg (land_changeable hv),
    State.zCell_run (by rwa [State.accepted_block])]
  simp only [State.landSet, decide_eq_true_eq]
  rfl

end lands

/-! ## The oldest held range of a cell (R251, R272) -/

theorem State.within_redLose (s : State) (c j i : Nat) : s.Within (s.redLose c j i) c := by
  unfold State.redLose
  exact (s.within_modCell c _).trans (State.within_modNi _ c _)

section held

variable {s : State} {m key : Nat} {g : RangeRt} {k : Cmd} (hcmd : s.cmdOf m = k) (ha : s.accepts m 0x34 = true) (he : k.extLen = 0)
  (hc : cellOk (k.arg 0 2) = true) (hr : (s.block (blockOf (k.arg 0 2))).power = .run)
  (hg : (s.ni (k.arg 0 2)).oldestHeld = some (key, g))
include hcmd ha he hc hr hg

omit ha he hcmd in
/-- RED_HOLD of a cell that holds a range does its part with the oldest, and answers with its place. -/
theorem State.redHold_oldest (f : State → Nat → Nat → Nat → State) :
    ∃ l, (s.accepted m).redHold k f = (f (s.accepted m) (k.arg 0 2) (key / 1024) (key % 1024)).finish k sOK 0 l := by
  refine ⟨leBytes 2 (key / 1024) ++
    leBytes 2 (key % 1024 * fmtCount (((s.accepted m).cell (k.arg 0 2)).regs.redFmt (key / 1024)) / 8), ?_⟩
  unfold State.redHold
  dsimp only
  rw [if_neg (by simp [hc]), State.accepted_ni, hg]
  dsimp only
  rw [State.zCell_run (by rwa [State.accepted_block])]

theorem redHoldRelease_emits (h0 : k.arg 2 1 = 0) :
    completes (.redHoldRelease m) s fun t =>
      t.answers m 0x34 0 0 ∧ t.cells = ((s.accepted m).redEmit (k.arg 0 2) (key / 1024) (key % 1024)).cells := by
  subst hcmd
  obtain ⟨l, hl⟩ := State.redHold_oldest (m := m) hc hr hg fun s c j i => s.redEmit c j i
  refine completes_finish (r := l) ha rfl ?_ (by decide) fun t ht => ht.cells
  rw [s.mailboxCmd_accepted _ (fun _ => some 0) _ ha (by simp [h0]) he, if_neg (by simp [h0])]
  exact hl

theorem redHoldDiscard_loses (h1 : k.arg 2 1 = 1) :
    completes (.redHoldDiscard m) s fun t =>
      t.answers m 0x34 0 0 ∧ t.cells = ((s.accepted m).redLose (k.arg 0 2) (key / 1024) (key % 1024)).cells ∧ t.blocks = s.blocks ∧
      t.links = s.links := by
  subst hcmd
  obtain ⟨l, hl⟩ := State.redHold_oldest (m := m) hc hr hg fun s c j i => s.redLose c j i
  refine completes_finish (u := (s.accepted m).redLose ((s.cmdOf m).arg 0 2) (key / 1024) (key % 1024)) (r := l) ha rfl ?_ (by decide)
    fun t ht => ?_
  · rw [s.mailboxCmd_accepted (fun k => k.arg 2 1 == 1) (fun _ => some 0) _ ha (by simp [h1]) he]
    exact hl
  · obtain ⟨-, hb, -, hlinks, -⟩ := ht.onlyCell (State.within_redLose (s.accepted m) ((s.cmdOf m).arg 0 2) (key / 1024) (key % 1024))
    exact ⟨ht.cells, hb, hlinks⟩

end held

/-- Settles O21: the two landings, then the release and the discard of the oldest held range. -/
theorem landingAndHeldRangeCommands : Obligations.LandingAndHeldRangeCommands := by
  intro s m k c i hr
  have h24 : k.arg 8 3 < 2 ^ 24 := k.num_lt 24 3
  have h8 : k.arg 11 1 < 2 ^ 8 := k.num_lt 27 1
  refine ⟨fun ha he hc hi hf htree hdyn hv => ?_, fun ha he hc hi hf htree hv => ?_, fun key g ha he hc hg => ⟨?_, ?_⟩⟩
  · obtain ⟨t, hx, hans, hvalid, hreg, hrun, hone⟩ := mcLandSet_sets rfl he hc hr htree ha hi hf hdyn hv
    exact ⟨t, hx, hans, hvalid, hreg _ _ (by simp [k, i, Cmd.mcLandFields]) htree, hreg _ _ (by simp [k, i, Cmd.mcLandFields]) hdyn,
      hreg _ _ (by simp [k, i, Cmd.mcLandFields]) h24, hreg _ _ (by simp [k, i, Cmd.mcLandFields]) h8,
      fun h1 => by rw [hrun (decide_eq_true h1)]; exact aget_adel_same _ _, hone⟩
  · obtain ⟨t, hx, hans, hvalid, hreg, hrun, hone⟩ := redLandSet_sets rfl he hc hr htree ha hi hf hv
    exact ⟨t, hx, hans, hvalid, hreg _ _ (by simp [k, i, Cmd.redLandFields]) htree, hreg _ _ (by simp [k, i, Cmd.redLandFields]) h24,
      hreg _ _ (by simp [k, i, Cmd.redLandFields]) h8,
      fun h1 => by rw [hrun (decide_eq_true h1)]; exact aget_adel_same _ _, hone⟩
  · exact redHoldRelease_emits rfl ha he hc hr hg
  · exact redHoldDiscard_loses rfl ha he hc hr hg

end Sys2Proof.Machine

/-! PROOFS. The cascades family: trees are set up and retired (R216, R217, R233, R234, R244, R245). -/

namespace Sys2Proof.Machine

/-! ## Loops over units, and lists without repetitions -/

/-- What a change at an element brings about, and no other change of the loop undoes, holds at every element after the loop. -/
theorem State.forEach_each {α : Type} {P : State → α → Prop} {f : State → α → State} {l : List α} (h : ∀ s, ∀ a ∈ l, P (f s a) a)
    (k : ∀ s, ∀ a ∈ l, ∀ b, P s b → P (f s a) b) (s : State) : ∀ b, b ∈ l ∨ P s b → P (s.forEach l f) b := by
  induction l generalizing s with
  | nil => exact fun b hb => hb.resolve_left (List.not_mem_nil)
  | cons a l ih =>
    intro b hb
    refine ih (fun s x hx => h s x (List.mem_cons_of_mem a hx)) (fun s x hx => k s x (List.mem_cons_of_mem a hx)) (f s a) b ?_
    rcases hb with hb | hb
    · rcases List.mem_cons.1 hb with rfl | hb
      · exact .inr (h s b List.mem_cons_self)
      · exact .inl hb
    · exact .inr (k s a List.mem_cons_self b hb)

theorem length_eraseDups_le (l : List Nat) : l.eraseDups.length ≤ l.length := by
  induction hn : l.length using Nat.strong_induction_on generalizing l with
  | _ n ih =>
    cases l with
    | nil => simp
    | cons a l =>
      have hf := List.length_filter_le (fun b => !b == a) l
      have hi := ih _ (by simp only [← hn, List.length_cons]; omega) (l.filter fun b => !b == a) rfl
      simp only [List.eraseDups_cons, List.length_cons] at hn ⊢
      omega

/-- A list that loses nothing with its repetitions has none. -/
theorem nodup_of_length_eraseDups {l : List Nat} (h : l.eraseDups.length = l.length) : l.Nodup := by
  induction l with
  | nil => exact List.nodup_nil
  | cons a l ih =>
    have hf := List.length_filter_le (fun b => !b == a) l
    have he := length_eraseDups_le (l.filter fun b => !b == a)
    simp only [List.eraseDups_cons, List.length_cons] at h
    have hall : ∀ b ∈ l, (!b == a) = true := List.length_filter_eq_length_iff.1 (by omega)
    rw [List.filter_eq_self.2 hall] at h
    exact List.nodup_cons.2 ⟨fun ha => by simpa using hall a ha, ih (by omega)⟩

/-! ## Valid bits of cascade entries (R216) -/

/-- The valid bit of a tree's cascade entry at a cell. -/
abbrev State.cascadeValid (s : State) (t c : Nat) : Nat := bits ((s.rt c).cascade t) 8 1

/-- The parity bit is bit 15. -/
theorem bits_withParity (x : Nat) : bits (withParity x).toNat 8 1 = bits x 8 1 := by
  simp only [bits, withParity, BitVec.toNat_ofNat]
  omega

/-- Closing is bit 10. -/
theorem bits_closing (x : Nat) : bits (x ||| 2 ^ 10) 8 1 = bits x 8 1 := by
  refine Nat.eq_of_testBit_eq fun i => ?_
  rw [testBit_bits, testBit_bits, Nat.testBit_or, Nat.testBit_two_pow]
  by_cases hi : i < 1
  · simp [show ¬10 = 8 + i by omega]
  · simp [hi]

section entries

variable (s : State)

theorem State.cascadeValid_setCascade (c d t u x : Nat) :
    (s.setCascade c t x).cascadeValid u d = if c = d ∧ t = u then bits x 8 1 else s.cascadeValid u d := by
  unfold State.cascadeValid
  by_cases hc : c = d
  · subst hc
    by_cases ht : t = u
    · subst ht
      rw [State.setCascade, State.rt_modRt_same, Router.cascade, aget_aput_same, Option.getD_some, bits_withParity, if_pos ⟨rfl, rfl⟩]
    · rw [State.setCascade, State.rt_modRt_same, Router.cascade, aget_aput_ne _ _ ht, if_neg (fun h => ht h.2), Router.cascade]
  · rw [State.setCascade, State.rt_modRt_ne _ hc, if_neg fun h => hc h.1]

theorem State.regs_setCascade (c t x d : Nat) : ((s.setCascade c t x).cell d).regs = (s.cell d).regs := s.regs_modRt c d _

/-- The units of the die but its cells. -/
def State.rest (s : State) : Table Block × Table Region × Table Link × Table Gateway := (s.blocks, s.regions, s.links, s.gws)

theorem State.Within.rest {s t : State} {c : Nat} (h : s.Within t c) : t.rest = s.rest := by
  obtain ⟨-, hb, hr, hl, hg⟩ := h.only
  simp only [State.rest, hb, hr, hl, hg]

theorem State.within_setCascade (c t x : Nat) : s.Within (s.setCascade c t x) c := s.within_modCell c _

end entries

/-! ## Tree entries of a reduction tree (R244, R267) -/

/-- The fields of tree entry j that follow the tree's number, with the delivery endpoints. -/
def redEntryFields (s : State) (t : TreeRec) (vs : List Vtx) (q : RedSetup) (v : Vtx) (role j : Nat) : List (Field × Nat) :=
  [(NI_RED_TREE_A_slot_base.at j, if role = 0 then 0 else ((s.cell v.cell).regs.freeSlots q.r).getD 0),
    (NI_RED_TREE_A_slot_cnt_m1.at j, q.r - 1), (NI_RED_TREE_A_children.at j, if role = 0 then 0 else v.kids),
    (NI_RED_TREE_A_prec.at j, t.prec), (NI_RED_TREE_A_shadow_k.at j, t.k), (NI_RED_TREE_A_parterre.at j, (s.cell t.root).owner.toNat),
    (NI_RED_TREE_A_local.at j, if role = 0 then 0 else v.mask / 16),
    (NI_RED_TREE_B_up_ep.at j, if role = 3 then q.upEp else if role = 2 then 0 else
      endpoint s.chipId.toNat (s.lidOf (upCell vs t.root (vs.length + 1) v.cell))),
    (NI_RED_TREE_B_up_tree.at j, if role = 3 then q.upTree else t.tree),
    (NI_RED_TREE_B_expected.at j, if 2 ≤ role then t.expected else 0), (NI_RED_TREE_C_tag.at j, t.tag),
    (NI_RED_TREE_C_timeout_us.at j, q.base * (1 + redHeight vs v)), (NI_RED_TREE_C_hold_us.at j, q.hold)] ++
  (List.range 4).flatMap fun d =>
    let e := if role = 2 then q.dlv.getD d 0 else 0
    [(NI_RED_DLV_valid.at (4 * j + d), e / 2 ^ 31), (NI_RED_DLV_endpoint.at (4 * j + d), e)]

theorem redEntryFields_apart {s : State} {t : TreeRec} {vs : List Vtx} {q : RedSetup} {v : Vtx} {role j : Nat} (hj : j < 16) :
    ∀ e ∈ redEntryFields s t vs q v role j, e.1.fits ∧ e.1.apart (NI_RED_TREE_A_tree.at j) := by
  simp [redEntryFields, Field.fits, Field.apart, Field.at, List.range_succ, NI_RED_TREE_A_slot_base, NI_RED_TREE_A_slot_cnt_m1,
    NI_RED_TREE_A_children, NI_RED_TREE_A_prec, NI_RED_TREE_A_shadow_k, NI_RED_TREE_A_parterre, NI_RED_TREE_A_local, NI_RED_TREE_B_up_ep,
    NI_RED_TREE_B_up_tree, NI_RED_TREE_B_expected, NI_RED_TREE_C_tag, NI_RED_TREE_C_timeout_us, NI_RED_TREE_C_hold_us, NI_RED_DLV_valid,
    NI_RED_DLV_endpoint, NI_RED_TREE_A_tree]
  omega

/-- A register file in which entry j has got a tree's number, then other fields, then its valid bit, and the combine slots are counted, has an
entry for the tree. -/
theorem Regs.redEntry_of_set {r : Regs} {l : List (Field × Nat)} {j tree : Nat} (hj : j < 16) (ht : tree < 4096)
    (hl : ∀ e ∈ l, e.1.fits ∧ e.1.apart (NI_RED_TREE_A_tree.at j)) (a b : Nat) :
    (((((((r.set (NI_RED_TREE_A_tree.at j) tree).setAll l).set (NI_RED_TREE_A_valid.at j) 1).set NI_BAL_COMB_free a).set
      NI_BAL_COMB_reserved_slots b)).redEntry tree).isSome = true := by
  let x := ((r.set (NI_RED_TREE_A_tree.at j) tree).setAll l).set (NI_RED_TREE_A_valid.at j) 1
  have hv : NI_RED_TREE_A_valid.fits := by decide
  have hbal (f : Field) (hf : f.off = NI_RED_TREE_A_valid.off) :
      ((x.set NI_BAL_COMB_free a).set NI_BAL_COMB_reserved_slots b).get (f.at j) = x.get (f.at j) := by
    have hoff : NI_BAL_COMB_free.off ≠ (f.at j).off := by
      simp only [Field.at, hf, NI_RED_TREE_A_valid, NI_BAL_COMB_free]
      omega
    rw [Regs.get_set_ne _ NI_BAL_COMB_reserved_slots _ _ (by decide) (.inl hoff), Regs.get_set_ne _ NI_BAL_COMB_free _ _ (by decide) (.inl hoff)]
  have hvalid : x.get (NI_RED_TREE_A_valid.at j) = 1 := Regs.get_set_same _ _ _ hv
  have htree : x.get (NI_RED_TREE_A_tree.at j) = tree := by
    rw [Regs.get_set_ne _ (NI_RED_TREE_A_valid.at j) (NI_RED_TREE_A_tree.at j) _ hv (.inr (.inl (show 0 + 1 ≤ 9 by decide))), Regs.get_setAll_apart hl,
      Regs.get_set_same _ (NI_RED_TREE_A_tree.at j) _ (show NI_RED_TREE_A_tree.fits by decide)]
    exact Nat.mod_eq_of_lt ht
  refine List.find?_isSome.2 ⟨j, List.mem_range.2 hj, ?_⟩
  rw [Regs.flag, hbal NI_RED_TREE_A_valid rfl, hbal NI_RED_TREE_A_tree rfl, hvalid, htree]
  simp

theorem Regs.freeTree_lt {r : Regs} {j : Nat} (h : r.freeTree = some j) : j < 16 := List.mem_range.1 (List.mem_of_find?_eq_some h)

section redEntries

variable (s : State) (t : TreeRec) (vs : List Vtx) (q : RedSetup) (v : Vtx)

theorem State.within_setRedEntry : s.Within (s.setRedEntry t vs q v) v.cell := by
  unfold State.setRedEntry
  split
  · exact (s.within_modCell _ _).trans (State.within_modNi _ _ _)
  · exact .refl s _

theorem State.rt_setRedEntry (d : Nat) : (s.setRedEntry t vs q v).rt d = s.rt d := by
  unfold State.setRedEntry
  split
  · exact (State.rt_modNi _ _ d _).trans (s.rt_modCellRegs _ d _)
  · rfl

variable {s t vs q v}

/-- A record with a role gets an entry where the NI has one free. -/
theorem State.redEntry_setRedEntry (ht : t.tree < 4096) (hrole : (v.role t.root q.forward).isSome = true)
    (hfree : (s.cell v.cell).regs.freeTree.isSome = true) :
    (((s.setRedEntry t vs q v).cell v.cell).regs.redEntry t.tree).isSome = true := by
  obtain ⟨role, hrole⟩ := Option.isSome_iff_exists.1 hrole
  obtain ⟨j, hj⟩ := Option.isSome_iff_exists.1 hfree
  unfold State.setRedEntry
  rw [hrole, hj]
  dsimp only
  rw [State.regs_modNi, State.regs_modCellRegs]
  exact Regs.redEntry_of_set (l := redEntryFields s t vs q v role j) (Regs.freeTree_lt hj) ht (redEntryFields_apart (Regs.freeTree_lt hj)) _ _

theorem State.cell_forEach_setRedEntry {l : List Vtx} {d : Nat} (hd : d ∉ l.map Vtx.cell) (s : State) :
    (s.forEach l fun s v => s.setRedEntry t vs q v).cell d = s.cell d := by
  induction l generalizing s with
  | nil => rfl
  | cons v l ih =>
    obtain ⟨hv, hl⟩ := not_or.1 (mt List.mem_cons.2 hd)
    exact (ih hl _).trans ((s.within_setRedEntry t vs q v).only.1 d hv)

theorem State.redEntry_forEach {l : List Vtx} (ht : t.tree < 4096) (hl : (l.map Vtx.cell).Nodup) {s : State}
    (hfree : ∀ v ∈ l, (v.role t.root q.forward).isSome = true → (s.cell v.cell).regs.freeTree.isSome = true) :
    ∀ v ∈ l, (v.role t.root q.forward).isSome = true →
      (((s.forEach l fun s v => s.setRedEntry t vs q v).cell v.cell).regs.redEntry t.tree).isSome = true := by
  induction l generalizing s with
  | nil => exact fun v hv => (List.not_mem_nil hv).elim
  | cons w l ih =>
    obtain ⟨hw, hl⟩ := List.nodup_cons.1 hl
    intro v hv hrole
    rcases List.mem_cons.1 hv with rfl | hv
    · refine (congrArg (fun x : Cell => (x.regs.redEntry t.tree).isSome) (State.cell_forEach_setRedEntry hw _)).trans ?_
      exact State.redEntry_setRedEntry ht hrole (hfree v List.mem_cons_self hrole)
    · refine ih hl (s := s.setRedEntry t vs q w) (fun x hx hr => ?_) v hv hrole
      have hne : x.cell ≠ w.cell := fun h => hw (h ▸ List.mem_map_of_mem hx)
      rw [(s.within_setRedEntry t vs q w).only.1 _ hne]
      exact hfree x (List.mem_cons_of_mem w hx) hr

end redEntries

/-! ## A tree is installed (R216, R217, R245) -/

/-- The cascade entry written at a record. -/
def Vtx.entry (v : Vtx) (t : TreeRec) : Nat := v.mask + (if t.kind = 1 then v.up * 2 ^ 5 else 0) + 2 ^ 8 + t.kind * 2 ^ 9

theorem bits_entry {v : Vtx} (t : TreeRec) (hm : v.mask < 32) (hu : v.up < 8) : bits (v.entry t) 8 1 = 1 := by
  unfold bits Vtx.entry
  split <;> omega

theorem vtxList_bounds {b : List Byte} {off n : Nat} : ∀ v ∈ vtxList b off n, v.mask < 32 ∧ v.up < 8 := by
  intro v hv
  obtain ⟨i, -, rfl⟩ := List.mem_map.1 hv
  exact ⟨Nat.mod_lt _ (by decide), Nat.mod_lt _ (by decide)⟩

section installed

variable {s : State} {t : TreeRec} {vs : List Vtx} {q : RedSetup}

/-- The cascade entries of a tree are written. -/
def State.putCascades (s : State) (t : TreeRec) (vs : List Vtx) : State := s.forEach vs fun s v => s.setCascade v.cell t.tree (v.entry t)

/-- The cascade entries of a tree are written, then the tree entries of a reduction tree. -/
def State.putEntries (s : State) (t : TreeRec) (vs : List Vtx) (q : RedSetup) : State :=
  if t.kind = 1 then (s.putCascades t vs).forEach vs fun s v => s.setRedEntry t vs q v else s.putCascades t vs

theorem State.putTree_eq (s : State) (t : TreeRec) (vs : List Vtx) (q : RedSetup) :
    s.putTree t vs q = (s.putEntries t vs q).modChip fun h =>
      { h with trees := (h.trees.filter fun x => x.id != t.tree) ++ [⟨t.tree, t.kind == 1, t.root, vs⟩] } := rfl

theorem State.putEntries_keeps (s : State) (t : TreeRec) (vs : List Vtx) (q : RedSetup) :
    (s.putEntries t vs q).chip = s.chip ∧ (s.putEntries t vs q).rest = s.rest := by
  have hw (s : State) (v : Vtx) := s.within_setCascade v.cell t.tree (v.entry t)
  have hc : (s.putCascades t vs).chip = s.chip := State.forEach_keeps State.chip (fun s v => (hw s v).chip) vs s
  have hr : (s.putCascades t vs).rest = s.rest := State.forEach_keeps State.rest (fun s v => (hw s v).rest) vs s
  unfold State.putEntries
  split
  · exact ⟨(State.forEach_keeps State.chip (fun s v => (s.within_setRedEntry t vs q v).chip) vs _).trans hc,
      (State.forEach_keeps State.rest (fun s v => (s.within_setRedEntry t vs q v).rest) vs _).trans hr⟩
  · exact ⟨hc, hr⟩

theorem State.cascadeValid_putEntries (hb : ∀ v ∈ vs, v.mask < 32 ∧ v.up < 8) :
    ∀ v ∈ vs, (s.putEntries t vs q).cascadeValid t.tree v.cell = 1 := by
  have hc : ∀ v ∈ vs, (s.putCascades t vs).cascadeValid t.tree v.cell = 1 := fun v hv => by
    refine State.forEach_each (P := fun (s : State) (v : Vtx) => s.cascadeValid t.tree v.cell = 1) (fun s w hw => ?_) (fun s w hw x hx => ?_) s v
      (.inl hv)
    · rw [s.cascadeValid_setCascade, if_pos ⟨rfl, rfl⟩, bits_entry t (hb w hw).1 (hb w hw).2]
    · rw [s.cascadeValid_setCascade, bits_entry t (hb w hw).1 (hb w hw).2, hx, ite_self]
  intro v hv
  unfold State.putEntries
  split
  · rw [State.cascadeValid, State.forEach_keeps (fun s => s.rt v.cell) fun s w => s.rt_setRedEntry t vs q w v.cell]
    exact hc v hv
  · exact hc v hv

/-- Each record has a cell of its own in a tree of good shape (R217). -/
theorem nodup_of_treeRow (h : s.treeRow t vs = 0) : (vs.map Vtx.cell).Nodup := by
  have hshape : treeShape vs t.root = true := by
    unfold State.treeRow at h
    split_ifs at h with _ hs
    simpa using hs
  simp only [treeShape, Bool.and_eq_true, beq_iff_eq] at hshape
  obtain ⟨⟨⟨⟨-, hlen⟩, -⟩, -⟩, -⟩ := hshape
  exact nodup_of_length_eraseDups hlen

/-- Each record with a role finds a free entry where the tables have room (R245). -/
theorem State.freeTree_of_redRoom (h : s.redRoom t vs q = 0) :
    ∀ v ∈ vs, (v.role t.root q.forward).isSome = true → (s.cell v.cell).regs.freeTree.isSome = true := by
  intro v hv hrole
  unfold State.redRoom at h
  extract_lets lacks at h
  split_ifs at h with _ hnone
  · rw [Option.isSome_iff_ne_none]
    intro hn
    exact hnone (List.any_eq_true.2 ⟨v, hv, by simp [hrole, hn]⟩)

theorem State.redEntry_putEntries (ht : t.tree < 4096) (hk : t.kind = 1) (hrow : s.treeRow t vs = 0) (hroom : s.redRoom t vs q = 0) :
    ∀ v ∈ vs, (v.role t.root q.forward).isSome = true → (((s.putEntries t vs q).cell v.cell).regs.redEntry t.tree).isSome = true := by
  rw [State.putEntries, if_pos hk]
  refine State.redEntry_forEach ht (nodup_of_treeRow hrow) fun v hv hrole => ?_
  have hregs : ((s.putCascades t vs).cell v.cell).regs = (s.cell v.cell).regs :=
    State.forEach_keeps (fun s => (s.cell v.cell).regs) (fun s w => s.regs_setCascade _ _ _ _) vs s
  rw [hregs]
  exact State.freeTree_of_redRoom hroom v hv hrole

/-- What a reduction tree must meet beyond R217 (R245). -/
def State.redMeets (s : State) (t : TreeRec) (vs : List Vtx) (q : RedSetup) : Prop :=
  redUps vs t.root = true ∧ s.redRow t vs q = 0 ∧ s.redRoom t vs q = 0

/-- A tree that meets its rules is installed. -/
theorem State.installTree_meets (hret : ∀ r ∈ s.chip.retiring, r.tree ≠ t.tree) (hused : s.treeUsed t.tree = false) (hrow : s.treeRow t vs = 0)
    (hkind : t.kind ≤ 1) (hred : t.kind = 1 → s.redMeets t vs q) : s.installTree t vs q = (s.putTree t vs q, none) := by
  unfold State.installTree
  rw [if_neg (by simpa using hret), if_neg (Bool.eq_false_iff.1 hused)]
  dsimp only
  rw [if_neg (not_not.2 hrow)]
  by_cases hk : t.kind = 0
  · rw [if_pos hk]
  · obtain ⟨hups, hrr, hroom⟩ := hred (by omega)
    rw [if_neg hk, if_neg (by simp [hups]), if_neg (not_not.2 hrr), if_neg (not_not.2 hroom)]

end installed

/-- What an accepted command has changed is the Fountaineer's own. -/
theorem State.accepted_eq (s : State) (m : Nat) : ∃ f, s.accepted m = { s with ftn := f } := by
  unfold State.accepted
  dsimp only
  split <;> exact ⟨_, rfl⟩

theorem State.Responded.trees {u t : State} (h : u.Responded t) : t.chip.trees = u.chip.trees := by
  obtain ⟨regs, integ, hc⟩ := h.chip
  rw [hc]

theorem State.Responded.retiring {u t : State} (h : u.Responded t) : t.chip.retiring = u.chip.retiring := by
  obtain ⟨regs, integ, hc⟩ := h.chip
  rw [hc]

theorem treeSetup_installs {s : State} {m : Nat} {k : Cmd} {x : TreeRec} {vs : List Vtx} {q : RedSetup} (hcmd : s.cmdOf m = k)
    (hx : TreeRec.of k.ext = x) (hvs : vtxList k.ext 32 x.count = vs) (hq : k.redSetup (32 + 8 * x.count) = q)
    (ha : s.accepts m 0x30 = true) (he : k.extLen ≤ stagingSize) (hform : x.formOk = true)
    (hlen : k.ext.length = 32 + 8 * x.count + 32 * x.kind) (hfw : k.arg 0 1 ≤ x.kind) (hkind : x.kind ≤ 1)
    (hroomAll : s.usedTrees.length < 4096) (hret : ∀ r ∈ s.chip.retiring, r.tree ≠ x.tree) (hused : s.treeUsed x.tree = false)
    (hrow : s.treeRow x vs = 0)
    (hred : x.kind = 1 → 1 ≤ q.base ∧ q.base * (1 + (vs.map fun v => redHeight vs v).foldl max 0) ≤ 4095 ∧ 1 ≤ q.hold ∧ q.hold ≤ 4095 ∧
      redUps vs x.root = true ∧ s.redRow x vs q = 0 ∧ s.redRoom x vs q = 0 ∧ q.delivers = true) :
    completes (.treeSetup m) s fun t =>
      t.answers m 0x30 0 0 ∧ t.chip.trees = (s.chip.trees.filter fun y => y.id != x.tree) ++ [⟨x.tree, x.kind == 1, x.root, vs⟩] ∧
      (∀ v ∈ vs, bits ((t.rt v.cell).cascade x.tree) 8 1 = 1) ∧
      (x.kind = 1 → ∀ v ∈ vs, (v.role x.root q.forward).isSome = true → ((t.cell v.cell).regs.redEntry x.tree).isSome = true) ∧
      t.blocks = s.blocks ∧ t.regions = s.regions ∧ t.links = s.links ∧ t.gws = s.gws := by
  subst hcmd
  let w := s.accepted m
  obtain ⟨ftn, hw⟩ : ∃ f, w = { s with ftn := f } := s.accepted_eq m
  have hrow' : w.treeRow x vs = 0 := hw ▸ hrow
  have hroom' (h1 : x.kind = 1) : w.redRoom x vs q = 0 := by
    obtain ⟨-, -, -, -, -, -, hroom, -⟩ := hred h1
    exact hw ▸ hroom
  have hinst : w.installTree x vs q = (w.putTree x vs q, none) := by
    refine State.installTree_meets (hw ▸ hret) (hw ▸ hused) hrow' hkind fun h1 => ?_
    obtain ⟨-, -, -, -, hups, hrr, -⟩ := hred h1
    exact ⟨hups, hw ▸ hrr, hroom' h1⟩
  have htree : x.tree < 4096 := by
    simp only [TreeRec.formOk, Bool.and_eq_true, decide_eq_true_eq] at hform
    exact hform.1
  obtain ⟨hchip, hrest⟩ := w.putEntries_keeps x vs q
  refine completes_finish (u := w.putTree x vs q) (r := leBytes 2 x.tree) ha rfl ?_ (by decide) fun t ht => ?_
  · rw [s.mailboxCmd_accepted (fun _ => true) (fun _ => none) _ ha rfl he]
    simp only [hx, hvs, hq]
    rw [if_neg (by simp [hform, hlen]), if_neg (by omega), if_neg, if_neg, if_neg, hinst]
    · dsimp only
      rw [if_neg]
      · rfl
      · simp only [Bool.and_eq_true, decide_eq_true_eq, Bool.not_eq_true']
        rintro ⟨h1, hd⟩
        obtain ⟨-, -, -, -, -, -, -, hdel⟩ := hred h1
        exact Bool.false_ne_true (hd.symm.trans hdel)
    · rw [show s.accepted m = _ from hw]
      exact Nat.not_le.2 hroomAll
    · rintro ⟨h1, hh⟩
      obtain ⟨-, -, hlo, hhi, -⟩ := hred h1
      omega
    · rintro ⟨h1, hh⟩
      obtain ⟨hlo, hhi, -⟩ := hred h1
      omega
  · have hcell (c : Nat) : t.cell c = (w.putEntries x vs q).cell c := ht.cell c
    have hu : t.rest = s.rest := by
      obtain ⟨-, hb, hr, hl, hg⟩ := (State.sameUnits_iff_units _ _).2 ht.units
      refine Eq.trans ?_ (hrest.trans (by rw [hw]; rfl))
      simp only [State.rest, hb, hr, hl, hg]
      rfl
    refine ⟨?_, fun v hv => ?_, fun h1 v hv hrole => ?_, ?_⟩
    · rw [ht.trees, State.putTree_eq, State.modChip_chip, hchip, hw]
    · rw [State.rt, hcell]
      exact State.cascadeValid_putEntries (hvs ▸ vtxList_bounds) v hv
    · rw [hcell]
      exact State.redEntry_putEntries htree h1 hrow' (hroom' h1) v hv hrole
    · simpa only [State.rest, Prod.mk.injEq] using hu


/-! ## A retirement comes first in the queue (R234, steps 1 and 2) -/

/-- The root's entry of a retirement's tree is closing. -/
def State.closeRoot (s : State) (r : Retire) : State :=
  match s.chip.trees.find? fun x => x.id == r.tree with
  | some x => if (s.rt x.root).cascade r.tree = 0 then s else s.setCascade x.root r.tree ((s.rt x.root).cascade r.tree ||| 2 ^ 10)
  | none => s

/-- Every cell watches the tree of the retirement that comes first, from now on. -/
def State.watchFor (s : State) (r : Retire) (k : List Retire) : State :=
  { s with
    cells := s.cells.mapAll fun x => { x with regs := (x.regs.set CELL_CASC_WATCH_tree r.tree).set CELL_CASC_WATCH_enable 1 }
    chip := { s.chip with retiring := { r with since := s.now } :: k, lastWatch := 0 } }

section begins

variable {s : State} {r : Retire} {k : List Retire}

theorem State.beginRetire_cons (h : s.chip.retiring = r :: k) : s.beginRetire = (s.closeRoot r).watchFor r k := by
  unfold State.beginRetire
  rw [h]
  rfl

/-- Closing writes one cascade entry or none. -/
theorem State.closeRoot_cases (s : State) (r : Retire) :
    s.closeRoot r = s ∨ ∃ c, s.closeRoot r = s.setCascade c r.tree ((s.rt c).cascade r.tree ||| 2 ^ 10) := by
  unfold State.closeRoot
  split
  · split
    · exact .inl rfl
    · exact .inr ⟨_, rfl⟩
  · exact .inl rfl

theorem State.closeRoot_keeps (s : State) (r : Retire) : (s.closeRoot r).chip = s.chip ∧ (s.closeRoot r).ftn = s.ftn := by
  rcases s.closeRoot_cases r with h | ⟨c, h⟩ <;> rw [h] <;> exact ⟨rfl, rfl⟩

/-- A closing entry is as valid as before. -/
theorem State.cascadeValid_closeRoot (s : State) (r : Retire) (t c : Nat) : (s.closeRoot r).cascadeValid t c = s.cascadeValid t c := by
  rcases s.closeRoot_cases r with h | ⟨d, h⟩
  · rw [h]
  · rw [h, s.cascadeValid_setCascade, bits_closing]
    split
    next hd =>
      obtain ⟨rfl, rfl⟩ := hd
      rfl
    next => rfl

theorem State.cascadeValid_mapRegs (s : State) (f : Regs → Regs) (t c : Nat) :
    { s with cells := s.cells.mapAll fun x => { x with regs := f x.regs } }.cascadeValid t c = s.cascadeValid t c := by
  simp only [State.cascadeValid, State.rt, State.cell, Table.get_mapAll]

/-- What the start of a retirement leaves as it was. -/
structure State.SameTrees (s t : State) : Prop where
  ftn : t.ftn = s.ftn
  trees : t.chip.trees = s.chip.trees
  retiring : t.chip.retiring.map Retire.tree = s.chip.retiring.map Retire.tree
  cascade : ∀ u c, t.cascadeValid u c = s.cascadeValid u c

theorem State.beginRetire_retiring (h : s.chip.retiring = r :: k) : s.beginRetire.chip.retiring = { r with since := s.beginRetire.now } :: k := by
  rw [State.beginRetire_cons h]
  rfl

theorem State.sameTrees_beginRetire (s : State) : s.SameTrees s.beginRetire := by
  cases h : s.chip.retiring with
  | nil =>
    have hs : s.beginRetire = s := by
      unfold State.beginRetire
      rw [h]
    rw [hs]
    exact ⟨rfl, rfl, rfl, fun _ _ => rfl⟩
  | cons r k =>
    obtain ⟨hchip, hftn⟩ := s.closeRoot_keeps r
    rw [State.beginRetire_cons h]
    have htrees : ((s.closeRoot r).watchFor r k).chip.trees = s.chip.trees := (congrArg Chip.trees hchip :)
    refine ⟨hftn, htrees, by rw [h]; rfl, fun u c => ?_⟩
    exact ((s.closeRoot r).cascadeValid_mapRegs (fun y => (y.set CELL_CASC_WATCH_tree r.tree).set CELL_CASC_WATCH_enable 1) u c).trans (s.cascadeValid_closeRoot r u c)

end begins

/-! ## A tree is taken for retirement (R233, R234) -/

/-- TREE_RETIRE's retirement stands last in the queue, its mailbox waiting. -/
def State.queueRetire (s : State) (k : Cmd) : State :=
  (s.modChip fun h => { h with retiring := h.retiring ++ [⟨k.arg 0 2, k.m, k.arg 2 1 == 1, false, 0⟩] }).holdMbx k

/-- A retirement that finds none before it begins. -/
def State.beginIfFirst (s : State) (before : List Retire) : State := if before.isEmpty then s.beginRetire else s

theorem State.beginIfFirst_queues {s : State} {l : List Retire} {r : Retire} (h : s.chip.retiring = l ++ [r]) :
    (s.beginIfFirst l).ftn = s.ftn ∧ (s.beginIfFirst l).chip.trees = s.chip.trees ∧
    ∃ n, (s.beginIfFirst l).chip.retiring = l ++ [{ r with since := n }] := by
  unfold State.beginIfFirst
  split
  next hl =>
    rw [List.isEmpty_iff] at hl
    subst hl
    exact ⟨s.sameTrees_beginRetire.ftn, s.sameTrees_beginRetire.trees, _, State.beginRetire_retiring h⟩
  next => exact ⟨rfl, rfl, r.since, h⟩

theorem treeRetire_queues {s : State} {m : Nat} {k : Cmd} (hk : s.cmdOf m = k) (ha : s.accepts m 0x31 = true) (he : k.extLen = 0)
    (ht : k.arg 0 2 < 4096) (hd : k.arg 2 1 ≤ 1) (hu : s.treeUsed (k.arg 0 2) = true) (hr : ∀ r ∈ s.chip.retiring, r.tree ≠ k.arg 0 2) :
    completes (.treeRetire m) s fun t =>
      t.holds m ∧ t.chip.trees = s.chip.trees ∧ ∃ r, t.chip.retiring = s.chip.retiring ++ [r] ∧ r.tree = k.arg 0 2 ∧ r.mbx = m ∧
        r.discard = (k.arg 2 1 == 1) ∧ r.clean = false := by
  subst hk
  let k := s.cmdOf m
  let w := s.accepted m
  let q := w.queueRetire k
  obtain ⟨ftn, hw⟩ : ∃ f, w = { s with ftn := f } := s.accepted_eq m
  have hchip : w.chip = s.chip := by rw [hw]
  have hmbx : w.ftn.mbx = s.ftn.mbx := by
    simp only [w, State.accepted]
    split <;> rfl
  have hany : (w.chip.retiring.any fun r => r.tree == k.arg 0 2) = false := by simpa [hchip] using hr
  have hused : w.treeUsed (k.arg 0 2) = true := hw ▸ hu
  have hholds : q.holds m := s.accepted_holds ha _ hmbx
  have hq : q.chip.retiring = s.chip.retiring ++ [⟨k.arg 0 2, m, k.arg 2 1 == 1, false, 0⟩] := (congrArg (fun h : Chip => h.retiring ++ [_]) hchip :)
  have hqt : q.chip.trees = s.chip.trees := (congrArg Chip.trees hchip :)
  have hexec : exec (.treeRetire m) s = onUnit (Instr.treeRetire m).wf s (q.beginIfFirst s.chip.retiring) := by
    refine congrArg (onUnit _ s) ((s.plainCmd_accepted _ ha he).trans ?_)
    dsimp only
    rw [if_neg (Nat.not_le.2 ht), if_neg (Nat.not_lt.2 hd), if_neg (Bool.eq_false_iff.1 hany), if_neg (by simpa using hused), ← hchip]
    rfl
  obtain ⟨hftn, htrees, n, hret⟩ := State.beginIfFirst_queues hq
  refine completes_next _ hexec (State.accepts_mailboxOk ha) rfl ⟨?_, htrees.trans hqt, _, hret, rfl, rfl, rfl, rfl⟩
  simpa only [State.holds, State.mbx, State.keeping_ftn, hftn] using hholds

/-! ## A retired tree is cleared (R234, step 4) -/

/-- The chip's own state and the Fountaineer's. -/
def State.desk (s : State) : Chip × Ftn := (s.chip, s.ftn)

theorem State.desk_redLose (s : State) (c j i : Nat) : (s.redLose c j i).desk = s.desk := by
  simp only [State.desk, State.redLose, State.modNi_chip, State.modCellRegs_chip, State.modNi_ftn, State.modCellRegs_ftn]

theorem State.desk_discardHeld (s : State) (c t : Nat) : (s.discardHeld c t).desk = s.desk := by
  unfold State.discardHeld
  refine State.forEach_keeps State.desk (fun u e => ?_) _ s
  exact u.desk_redLose c (e.1 / 1024) (e.1 % 1024)

/-- The tree's entries of one cell are cleared. -/
def State.clearEntry (s : State) (x : Tree) (c : Nat) : State :=
  let s := if (s.rt c).cascade x.id = 0 then s else s.setCascade c x.id (setBits ((s.rt c).cascade x.id) 8 1 0)
  if x.red then s.dropRedEntry c x.id else s

/-- The tree's entries are cleared at every vertex. -/
def State.clearEntries (s : State) (x : Tree) : State := s.forEach (x.verts.map Vtx.cell) fun s c => s.clearEntry x c

theorem State.clearTree_eq (s : State) (x : Tree) :
    s.clearTree x = (s.clearEntries x).modChip fun h => { h with trees := h.trees.filter fun y => y.id != x.id } := rfl

section clears

variable (s : State) (x : Tree)

/-- Dropping tree entries changes registers of cells alone. -/
theorem State.dropRedEntry_keeps (c t : Nat) :
    (s.dropRedEntry c t).desk = s.desk ∧ ∀ u d, (s.dropRedEntry c t).cascadeValid u d = s.cascadeValid u d := by
  refine ⟨State.forEach_keeps State.desk (fun s j => ?_) _ s, fun u d => State.forEach_keeps (State.cascadeValid · u d) (fun s j => ?_) _ s⟩
  all_goals
    dsimp only
    split
  · rfl
  · rfl
  · simp only [State.cascadeValid, State.rt_modCellRegs]
  · rfl

theorem State.desk_clearEntry (c : Nat) : (s.clearEntry x c).desk = s.desk := by
  unfold State.clearEntry
  dsimp only
  split
  · refine (State.dropRedEntry_keeps _ c x.id).1.trans ?_
    split <;> rfl
  · split <;> rfl

theorem State.cascadeValid_clearEntry (c d : Nat) :
    (s.clearEntry x c).cascadeValid x.id d = if c = d then 0 else s.cascadeValid x.id d := by
  have hset : (if (s.rt c).cascade x.id = 0 then s else s.setCascade c x.id (setBits ((s.rt c).cascade x.id) 8 1 0)).cascadeValid x.id d =
      if c = d then 0 else s.cascadeValid x.id d := by
    split
    next h =>
      split
      next hcd => rw [← hcd, State.cascadeValid, h]; rfl
      next => rfl
    next => rw [s.cascadeValid_setCascade, bits_setBits]; simp
  unfold State.clearEntry
  dsimp only
  split
  · exact ((State.dropRedEntry_keeps _ c x.id).2 x.id d).trans hset
  · exact hset

theorem State.desk_clearEntries : (s.clearEntries x).desk = s.desk := State.forEach_keeps State.desk (fun s c => s.desk_clearEntry x c) _ s

theorem State.cascadeValid_clearEntries : ∀ c ∈ x.verts.map Vtx.cell, (s.clearEntries x).cascadeValid x.id c = 0 := by
  intro c hc
  refine State.forEach_each (P := fun (s : State) c => s.cascadeValid x.id c = 0) (fun s d _ => ?_) (fun s d _ b hb => ?_) s c (.inl hc)
  · rw [s.cascadeValid_clearEntry, if_pos rfl]
  · rw [s.cascadeValid_clearEntry, hb, ite_self]

/-- The tree is cleared and its retirement has left the queue. -/
def State.retired (rest : List Retire) : State := (s.clearTree x).modChip fun h => { h with retiring := rest }

/-- The next retirement begins; after the last no cell watches a tree. -/
def State.nextRetire (rest : List Retire) : State :=
  if rest.isEmpty then { s with cells := s.cells.mapAll fun x => { x with regs := x.regs.set CELL_CASC_WATCH_enable 0 } } else s.beginRetire

theorem State.sameTrees_nextRetire (rest : List Retire) : s.SameTrees (s.nextRetire rest) := by
  unfold State.nextRetire
  split
  · exact ⟨rfl, rfl, rfl, s.cascadeValid_mapRegs fun r => r.set CELL_CASC_WATCH_enable 0⟩
  · exact s.sameTrees_beginRetire

end clears

/-- The held ranges of the tree of a retirement with DISCARD are lost. -/
def State.discardFor (s : State) (r : Retire) (x : Tree) : State :=
  if r.discard then (x.verts.map Vtx.cell).foldl (fun a c => a.discardHeld c x.id) s else s

theorem State.desk_discardFor (s : State) (r : Retire) (x : Tree) : (s.discardFor r x).desk = s.desk := by
  unfold State.discardFor
  split
  · exact State.forEach_keeps State.desk (fun s c => s.desk_discardHeld c x.id) _ s
  · rfl

theorem treeRetireClear_clears {s : State} {r : Retire} {rest : List Retire} {x : Tree} (hq : s.chip.retiring = r :: rest)
    (hx : (s.chip.trees.find? fun y => y.id == r.tree).getD ⟨r.tree, false, 0, []⟩ = x) (hclean : r.clean = true)
    (hidle : ∀ c ∈ x.verts.map Vtx.cell, (s.discardFor r x).rangesIdle c x.id = true) (hm : r.mbx < 10) (ht : (s.mbx r.mbx).taken = true) :
    completes .treeRetireClear s fun t =>
      t.answers r.mbx (s.cmdOf r.mbx).opcode 0 0 ∧ t.chip.trees = s.chip.trees.filter (fun y => y.id != x.id) ∧
      t.chip.retiring.map Retire.tree = rest.map Retire.tree ∧ ∀ c ∈ x.verts.map Vtx.cell, bits ((t.rt c).cascade x.id) 8 1 = 0 := by
  let w := s.discardFor r x
  let u := w.retired x rest
  let v := u.nextRetire rest
  obtain ⟨hchip, hftn⟩ := Prod.mk.inj ((w.desk_clearEntries x).trans (s.desk_discardFor r x))
  have hv : u.SameTrees v := u.sameTrees_nextRetire rest
  have hmbx : v.ftn.mbx = s.ftn.mbx := congrArg Ftn.mbx (hv.ftn.trans hftn)
  have hexec : exec .treeRetireClear s = onUnit Instr.treeRetireClear.wf s (v.finish (v.cmdOf r.mbx) sOK 0 []) := by
    have hready : ¬(!r.clean || !((x.verts.map Vtx.cell).all fun c => w.rangesIdle c x.id)) = true := by
      rw [hclean, List.all_eq_true.2 hidle]
      decide
    have hfin : v.finishHeld r.mbx sOK 0 [] = v.finish (v.cmdOf r.mbx) sOK 0 [] := by
      rw [State.finishHeld, if_pos (by rwa [State.mbx_congr s hmbx])]
    refine (show exec .treeRetireClear s = onUnit _ s _ from rfl).trans (congrArg (onUnit _ s) ?_)
    rw [hq]
    dsimp only
    rw [hx]
    exact (if_neg hready).trans hfin
  refine completes_next _ hexec rfl rfl ?_
  have hres := (v.responded_finish (v.cmdOf r.mbx) sOK 0 []).keeping s
  refine ⟨?_, hres.trees.trans (hv.trees.trans ?_), (congrArg _ hres.retiring).trans hv.retiring, fun c hc => ?_⟩
  · rw [← State.opcode_cmdOf_congr hmbx]
    exact v.finish_answers (v.cmdOf r.mbx) sOK 0 [] hm (by decide)
  · exact congrArg (List.filter (fun y => y.id != x.id) ·.trees) hchip
  · rw [State.rt, hres.cell c]
    exact (hv.cascade x.id c).trans (w.cascadeValid_clearEntries x c hc)

/-- Settles O20: a tree that meets its rules is installed entry by entry, and a retirement waits in the queue until its tree is cleared. -/
theorem treeCommands : Obligations.TreeCommands := by
  intro s m
  refine ⟨treeSetup_installs rfl rfl rfl rfl, treeRetire_queues rfl, fun r rest hq hclean => ?_⟩
  exact treeRetireClear_clears hq rfl hclean

end Sys2Proof.Machine
